-- ==== Sys2Proof/Word.lean ====
section
/-! DEFINITION. The data an operand of a command is made of: bytes and words, the fields of a 128-bit
engine instruction (04_instruction_and_image_reference.md, Tables 4-1 to 4-7), a mesh transaction header
(01_package_and_hierarchy.md, Table 1-5), a link header (Table 1-4) and the messages of the other units.
Plain data only. -/

namespace Sys2Proof

/-- A byte. -/
abbrev Byte := BitVec 8

/-- Package number of a logical core, 0 to 511 (R42). -/
abbrev CoreId := BitVec 9

/-- Number of a cluster, 4 times its die plus its place in the die. -/
abbrev ClusterId := BitVec 6

/-- Unit number of Table 1-10: 0 sequencer, 1 matrix, 2 vector, 3 load, 4 store. -/
abbrev UnitId := Fin 5

/-- One signal of an instruction header (Table 4-1, R121). -/
structure Signal where
  token : BitVec 6
  inc : BitVec 8
  /-- 0 operand release, 1 completion. -/
  point : BitVec 1
  remote : BitVec 1
  core : BitVec 3
deriving DecidableEq, Repr

/-- The common instruction header (Table 4-1) without the opcode. -/
structure Header where
  waitToken : BitVec 6
  waitCount : BitVec 8
  sig0 : Signal
  sig1 : Signal
deriving DecidableEq, Repr

/-- Payload of MMA (Table 4-4). -/
structure MmaFields where
  descA : BitVec 12
  descB : BitVec 12
  descC : BitVec 12
  accBank : BitVec 4
  init : BitVec 2
  accType : BitVec 2
deriving DecidableEq, Repr

/-- Payload of MMAB (Table 4-4). -/
structure MmabFields where
  mat : MmaFields
  batch : BitVec 16
  accStride : BitVec 8
deriving DecidableEq, Repr

/-- Payload of MMF (Table 4-4). -/
structure MmfFields where
  descA : BitVec 12
  descB : BitVec 12
  descD : BitVec 12
  descRow : BitVec 12
  bankP : BitVec 4
  bankOut : BitVec 4
  init : BitVec 2
  pFmt : BitVec 2
  sat : BitVec 1
deriving DecidableEq, Repr

/-- Payload of VOP (Table 4-5). -/
structure VopFields where
  op : BitVec 8
  srcA : BitVec 12
  srcB : BitVec 12
  srcC : BitVec 12
  dst : BitVec 12
deriving DecidableEq, Repr

/-- Payload of VCVT (Table 4-5). -/
structure VcvtFields where
  src : BitVec 12
  dst : BitVec 12
  sat : BitVec 1
deriving DecidableEq, Repr

/-- Payload of VROW (Table 4-5). -/
structure VrowFields where
  src : BitVec 12
  dst : BitVec 12
  descRow : BitVec 12
deriving DecidableEq, Repr

/-- Payload of SFN (Table 4-5). -/
structure SfnFields where
  func : BitVec 8
  src : BitVec 12
  dst : BitVec 12
  dst2 : BitVec 12
  swap : BitVec 1
  generation : BitVec 8
deriving DecidableEq, Repr

/-- Payload of SFM (Table 4-5). -/
structure SfmFields where
  program : BitVec 8
  src : BitVec 12
  dst : BitVec 12
  passes : BitVec 8
deriving DecidableEq, Repr

/-- Payload of LDP (Table 4-7). -/
structure LdpFields where
  descData : BitVec 12
  descList : BitVec 12
  first : BitVec 16
  entries : BitVec 16
deriving DecidableEq, Repr

/-- Payload of HALO (Table 4-7). -/
structure HaloFields where
  descLocal : BitVec 12
  descRemote : BitVec 12
deriving DecidableEq, Repr

/-- Payload of ST (Table 4-7). -/
structure StFields where
  desc : BitVec 12
  mode : BitVec 2
  coll : BitVec 16
deriving DecidableEq, Repr

/-- A 128-bit engine instruction (R157, Table 4-2), one constructor per opcode. -/
inductive Engine where
  | twait (h : Header)
  | tsig (h : Header)
  | loop (h : Header) (count : BitVec 16) (body : BitVec 12)
  | brb (h : Header) (bracket : BitVec 4)
  | yield (h : Header) (passEnd : BitVec 1) (segment : BitVec 16)
  | stepEnd (h : Header)
  | mma (h : Header) (p : MmaFields)
  | mmab (h : Header) (p : MmabFields)
  | mmf (h : Header) (p : MmfFields)
  | vop (h : Header) (p : VopFields)
  | vcvt (h : Header) (p : VcvtFields)
  | vrow (h : Header) (p : VrowFields)
  | sfn (h : Header) (p : SfnFields)
  | sfm (h : Header) (p : SfmFields)
  | ld (h : Header) (desc : BitVec 12)
  | ldp (h : Header) (p : LdpFields)
  | halo (h : Header) (p : HaloFields)
  | st (h : Header) (p : StFields)
deriving DecidableEq, Repr

/-- A tile descriptor (Table 4-9), fmt 0x0 to 0xE. -/
structure Desc where
  fmt : BitVec 4
  scaleMode : BitVec 2
  iterLevel : BitVec 2
  region : BitVec 8
  memOffset : BitVec 48
  rows : BitVec 16
  rowElems : BitVec 16
  memRowPitch : BitVec 32
  localSpace : BitVec 2
  localAddr : BitVec 17
  localIterStride : BitVec 13
  localWrap : BitVec 8
  memIterStride : BitVec 24
  batchStride : BitVec 17
  scaleAddr : BitVec 17
  scaleBatchStride : BitVec 9
  tscaleAddr : BitVec 17
  reserved : BitVec 4
deriving DecidableEq, Repr

/-- A row-function descriptor (Table 4-10), fmt 0xF. -/
structure RowDesc where
  status : BitVec 1
  softmax : BitVec 1
  mask : BitVec 1
  scale : BitVec 1
  scaleValue : BitVec 32
  maskMode : BitVec 4
  qSegDesc : BitVec 12
  kSegDesc : BitVec 12
  statBank : BitVec 4
  statusDesc : BitVec 12
  reserved : BitVec 172
deriving DecidableEq, Repr

/-- A transaction header (Table 1-5). -/
structure TxHeader where
  opcode : BitVec 6
  srcDie : BitVec 6
  srcCluster : BitVec 2
  dstDie : BitVec 6
  dstCluster : BitVec 2
  msgClass : BitVec 2
  tag : BitVec 12
  age : BitVec 8
  partition : BitVec 4
  granule : BitVec 48
  mask : BitVec 32
deriving DecidableEq, Repr

/-- A link header (Table 1-4). -/
structure LinkHeader where
  flitSeq : BitVec 12
  ackSeq : BitVec 12
  dataCount : BitVec 4
  slotValid : BitVec 15
  creditVcA : BitVec 3
  creditCntA : BitVec 6
  creditVcB : BitVec 3
  creditCntB : BitVec 6
  linkState : BitVec 3
  reserved : BitVec 64
deriving DecidableEq, Repr

/-- An access path as a command names it (Table 16-5): MMIO, MCTP, MCTP as a secured message of a session (R578), and
the FM API through a fabric switch. -/
inductive Path where
  | mmio
  | mctp
  | secured (session : BitVec 16)
  | fmApi
deriving DecidableEq, Repr

/-- A byte of a vendor FM API request, and the reserved byte that follows it (Table 15-6). -/
structure ByteField where
  value : BitVec 8
  reserved : BitVec 8
deriving DecidableEq, Repr

/-- A word of a vendor FM API request, and the reserved word that follows it (Table 15-6). -/
structure WordField where
  value : BitVec 16
  reserved : BitVec 16
deriving DecidableEq, Repr

/-- A stream of traffic under IDE (R497, R579): CXL.cachemem, the PCIe link stream, a selective stream of a peer. -/
inductive IdeStream where
  | cachemem
  | link
  | selective (k : BitVec 6)
deriving DecidableEq, Repr

/-- A port and a stream of it, which IDE keys are programmed for. -/
structure IdeTarget where
  port : BitVec 3
  stream : IdeStream
deriving DecidableEq, Repr

/-- A 72-bit codeword of the 72/64 code (R99): data in the low 64 bits, check bits above. -/
abbrev CodeWord := BitVec 72

/-- A collective message header (11_collectives.md, Table 11-5), reserved bytes included. -/
structure CollMsg where
  kind : BitVec 8
  round : BitVec 8
  status : BitVec 8
  rsv03 : BitVec 8
  group : BitVec 16
  seq : BitVec 16
  epoch : BitVec 16
  rankCount : BitVec 16
  orderKey : BitVec 32
  srcModule : BitVec 32
  dstModule : BitVec 32
  chunk : BitVec 32
  nodeFirst : BitVec 16
  nodeSpan : BitVec 16
  operation : BitVec 8
  dataFmt : BitVec 8
  rsv22 : BitVec 16
  chunkBytes : BitVec 32
  length : BitVec 64
  lowEpoch : BitVec 16
  lowGroup : BitVec 16
  lowSeq : BitVec 16
  rsv36 : BitVec 16
  lowKey : BitVec 32
  keyOfQuery : BitVec 32
deriving DecidableEq, Repr

/-- What the checks of a reduction adder see of one addition (02_numerics.md, Residue checking): the aligned significands at its
input and whether their signs differ, the raw sum it made, the normalising shift with the bits it dropped, the rounding increment
and the rounded significand, and the result of both copies of its exponent logic. -/
structure AdderCheck where
  differ : Bool
  a : Nat
  b : Nat
  raw : Nat
  /-- True for a shift to the left. -/
  up : Bool
  shift : Nat
  dropped : Nat
  inc : Nat
  rounded : Nat
  exp0 : Nat
  exp1 : Nat
deriving DecidableEq, Repr

/-- Where a reduction adder stands: at a node that an X-die computes for a chunk (R382), in an NMU of a stack that runs a
partition's command, or in the stack's merge stage (R365). -/
inductive Adder where
  | node (group seq : BitVec 16) (chunk : BitVec 32) (first span : BitVec 16)
  | nmu (stack : Fin 24) (p : BitVec 4) (pc : BitVec 6)
  | merge (stack : Fin 24) (p : BitVec 4)
deriving DecidableEq, Repr

end Sys2Proof
end

