-- ==== Sys2Proof/Syntax.lean ====
section
/-! DEFINITION. The commands of the block: one constructor per row of spec/opcode_table.json, in its order.
What each operand carries is what the row needs from outside the block: the place it happens at, the message or
the data that arrives. The docstring gives the row's governing rule. -/

namespace Sys2Proof

/-- A command of the block. -/
inductive Instr where
  /-- TWAIT (R122). -/
  | twait (c : CoreId) (u : UnitId) (h : Header)
  /-- TSIG (R124). -/
  | tsig (c : CoreId) (u : UnitId) (h : Header)
  /-- LOOP (R162). -/
  | loop (c : CoreId) (u : UnitId) (h : Header) (count : BitVec 16) (body : BitVec 12)
  /-- BRB (R142). -/
  | brb (c : CoreId) (h : Header) (bracket : BitVec 4)
  /-- YIELD (R146). -/
  | yield (c : CoreId) (u : UnitId) (h : Header) (passEnd : BitVec 1) (segment : BitVec 16)
  /-- STEPEND (R146). -/
  | stepEnd (c : CoreId) (u : UnitId) (h : Header)
  /-- MMA (R167). -/
  | mma (c : CoreId) (h : Header) (f : MmaFields)
  /-- MMAB (R168). -/
  | mmab (c : CoreId) (h : Header) (f : MmabFields)
  /-- MMF (R208). -/
  | mmf (c : CoreId) (h : Header) (f : MmfFields)
  /-- VOP (R169). -/
  | vop (c : CoreId) (h : Header) (f : VopFields)
  /-- VCVT (R72). -/
  | vcvt (c : CoreId) (h : Header) (f : VcvtFields)
  /-- VROW (R232). -/
  | vrow (c : CoreId) (h : Header) (f : VrowFields)
  /-- SFN (R254). -/
  | sfn (c : CoreId) (h : Header) (f : SfnFields)
  /-- SFM (R267). -/
  | sfm (c : CoreId) (h : Header) (f : SfmFields)
  /-- LD (R172). -/
  | ld (c : CoreId) (h : Header) (desc : BitVec 12)
  /-- LDP (R240). -/
  | ldp (c : CoreId) (h : Header) (f : LdpFields)
  /-- HALO (R283). -/
  | halo (c : CoreId) (outbound : Bool) (h : Header) (f : HaloFields)
  /-- ST (R172). -/
  | st (c : CoreId) (h : Header) (desc : BitVec 12)
  /-- ST_COLLECTIVE_START (R370). -/
  | stCollectiveStart (c : CoreId) (h : Header) (desc : BitVec 12) (coll : BitVec 16)
  /-- ST_NMU_COMMAND (R345). -/
  | stNmuCommand (c : CoreId) (h : Header) (desc : BitVec 12)
  /-- INSTRUCTION_COMPLETE (R123). -/
  | instructionComplete (c : CoreId) (u : UnitId)
  /-- TRANSFER_COMPLETE (R131). -/
  | transferComplete (c : CoreId) (u : UnitId) (ac : Nat)
  /-- REMOTE_TOKEN_SIGNAL (R126). -/
  | remoteTokenSignal (k : ClusterId)
  /-- LANDING_SIGNAL (R130). -/
  | landingSignal (k : ClusterId) (counter : BitVec 4) (ac : Nat)
  /-- BARRIER_ARRIVAL (R146). -/
  | barrierArrival (c : CoreId)
  /-- YIELD_RELEASE (R146). -/
  | yieldRelease (c : CoreId) (ac : Nat)
  /-- STEP_START (R142). -/
  | stepStart (p : BitVec 4)
  /-- BACKFILL_START (R412). -/
  | backfillStart (p : BitVec 4)
  /-- STEP_RESUME (R444). -/
  | stepResume (p : BitVec 4)
  /-- STEP_REPLAY (R446). -/
  | stepReplay (p : BitVec 4)
  /-- COMPLETION_RECORD (R437). -/
  | completionRecord (n : BitVec 12)
  /-- HANG_TIMEOUT (R155). -/
  | hangTimeout (c : CoreId) (u : UnitId)
  /-- EDGE_PORT_TRAINING (R17). -/
  | edgePortTraining (die : BitVec 6) (port : BitVec 5) (trained : Bool)
  /-- CONTROL_FLIT (R19), as nine UI of 256 lanes (R18). -/
  | controlFlit (die : BitVec 6) (port : BitVec 5) (ui : List (BitVec 256))
  /-- DATA_FLIT (R20), as nine UI of 256 lanes (R18). -/
  | dataFlit (die : BitVec 6) (port : BitVec 5) (ui : List (BitVec 256))
  /-- LINK_REPLAY_REQUEST (R26). -/
  | linkReplayRequest (die : BitVec 6) (port : BitVec 5)
  /-- PACKET_STALE (R636). -/
  | packetStale (die : BitVec 6) (idx : Nat)
  /-- RDG (R296). -/
  | rdg (t : TxHeader)
  /-- WRG (R653). -/
  | wrg (t : TxHeader) (words : List CodeWord)
  /-- RDG_RSP (R104). -/
  | rdgRsp (t : TxHeader) (words : List CodeWord)
  /-- WRG_ACK (R131). -/
  | wrgAck (t : TxHeader)
  /-- NCMD (R348). -/
  | ncmd (t : TxHeader) (words : List CodeWord)
  /-- NCMD_ACK (R347). -/
  | ncmdAck (t : TxHeader)
  /-- DECODE (R354). -/
  | decode (stack : Fin 24) (p : BitVec 4)
  /-- STATS (R360). -/
  | stats (stack : Fin 24) (p : BitVec 4)
  /-- EWISE (R361). -/
  | ewise (stack : Fin 24) (p : BitVec 4)
  /-- REDUCE (R362). -/
  | reduce (stack : Fin 24) (p : BitVec 4)
  /-- NMU_COMMAND_END (R364). -/
  | nmuCommandEnd (stack : Fin 24) (p : BitVec 4)
  /-- CSTART (R378). -/
  | cstart (p : BitVec 4) (m : CollMsg) (first : Nat) (count : Nat)
  /-- CDATA (R382). -/
  | cdata (m : CollMsg) (payload : List CodeWord)
  /-- CRESULT (R387). -/
  | cresult (m : CollMsg) (payload : List CodeWord)
  /-- CCLEAN (R387). -/
  | cclean (m : CollMsg)
  /-- CFIX (R387). -/
  | cfix (m : CollMsg)
  /-- CRECALL (R388). -/
  | crecall (m : CollMsg)
  /-- CBUSY (R399). -/
  | cbusy (m : CollMsg)
  /-- CBUSY_RETRY (R399). -/
  | cbusyRetry (idx : Nat)
  /-- CACK (R402). -/
  | cack (m : CollMsg)
  /-- CACK_TIMEOUT (R402). -/
  | cackTimeout (idx : Nat)
  /-- PEER_TIMEOUT (R402). -/
  | peerTimeout (group : BitVec 16) (seq : BitVec 16)
  /-- INVERSION_TIMEOUT (R401). -/
  | inversionTimeout (p : BitVec 4)
  /-- CQUERY (R401). -/
  | cquery (m : CollMsg)
  /-- CREPLY (R401). -/
  | creply (m : CollMsg)
  /-- CABORT (R403). -/
  | cabort (m : CollMsg)
  /-- RESIDUE_VERDICT (R386): of an adder, what its checkers saw, one entry an addition in each list: whether the operands' signs
  differ and their aligned significands, the raw sums, the normalising shifts (to the left or not, by how much, the bits dropped),
  the rounding increments with the rounded significands, and both copies of the exponents (R97). -/
  | residueVerdict (adder : Adder) (operands : List (Bool × Nat × Nat)) (raws : List Nat) (shifts : List (Bool × Nat × Nat))
    (rounds : List (Nat × Nat)) (exps : List (Nat × Nat))
  /-- UIO_WRITE_RECEIVE (R494). -/
  | uioWriteReceive (port : BitVec 3) (addr : BitVec 64) (data : List CodeWord)
  /-- MESSAGE_ASSEMBLY_TIMEOUT (R494). -/
  | messageAssemblyTimeout (module : BitVec 17) (msgId : BitVec 4)
  /-- UIO_COMPLETION_TIMEOUT (R494). -/
  | uioCompletionTimeout (idx : Nat)
  /-- STOP (R601). -/
  | stop (die : BitVec 6) (t : TxHeader)
  /-- STOPPED (R604). -/
  | stopped (t : TxHeader)
  /-- MARK (R587). -/
  | mark (die : BitVec 6) (t : TxHeader)
  /-- TRAINING_WINDOW_START (R307). -/
  | trainingWindowStart (stack : Fin 24) (pc : BitVec 6)
  /-- TRAINING_WINDOW_END (R308). -/
  | trainingWindowEnd (stack : Fin 24) (pc : BitVec 6) (converged : Bool)
  /-- PATROL_SCRUB (R299). -/
  | patrolScrub (stack : Fin 24) (pc : BitVec 6)
  /-- STACK_TEMP_SAMPLE (R309). -/
  | stackTempSample (stack : Fin 24) (temp : BitVec 32)
  /-- THERMAL_CLASS_RISE (R309). -/
  | thermalClassRise (stack : Fin 24)
  /-- THERMAL_CLASS_FALL (R309). -/
  | thermalClassFall (stack : Fin 24)
  /-- MIGRATION_START (R322). -/
  | migrationStart (stack : Fin 24)
  /-- MIGRATION_BLOCK_COPY (R319). -/
  | migrationBlockCopy (stack : Fin 24)
  /-- TIER_FILL_COMPLETE (R327). -/
  | tierFillComplete (window : BitVec 6) (page : BitVec 52) (data : List CodeWord)
  /-- FILL_TIMEOUT (R326). -/
  | fillTimeout (p : BitVec 4)
  /-- FILL_READ_TIMEOUT (R496). -/
  | fillReadTimeout (window : BitVec 6) (page : BitVec 52)
  /-- TIER_GENERATION_WRITE (R329). -/
  | tierGenerationWrite (path : Path) (window : BitVec 6) (value : BitVec 16)
  /-- EXPORT_DRAIN (R331). -/
  | exportDrain (window : BitVec 6) (bytes : Nat)
  /-- EXPORT_DRAIN_ACK (R331). -/
  | exportDrainAck (window : BitVec 6) (bytes : Nat)
  /-- NEGATIVE_SEAL (R421). -/
  | negativeSeal (window : BitVec 6)
  /-- WATCH_SNOOP (R485). -/
  | watchSnoop (addr : BitVec 64)
  /-- WATCH_WRITEBACK (R486). -/
  | watchWriteback (addr : BitVec 64) (data : List Byte)
  /-- BI_PULL_TIMER (R486). -/
  | biPullTimer (addr : BitVec 64)
  /-- BISNP_RESPONSE (R486). -/
  | bisnpResponse (addr : BitVec 64) (data : List Byte)
  /-- STEP_REQUEST_TAKE (R427). -/
  | stepRequestTake (n : BitVec 12) (entry : List Byte)
  /-- HOST_STALL_BEGIN (R488). -/
  | hostStallBegin
  /-- HOST_STALL_END (R488). -/
  | hostStallEnd
  /-- HOST_MEM_READ (R484). -/
  | hostMemRead (dec : BitVec 4) (addr : BitVec 64) (len : Nat)
  /-- HOST_MEM_WRITE (R337). -/
  | hostMemWrite (dec : BitVec 4) (addr : BitVec 64) (data : List Byte)
  /-- HDM_COMMIT (R481). -/
  | hdmCommit (dec : BitVec 4) (base : BitVec 64) (size : BitVec 64) (ways : BitVec 4)
  /-- CODEC_JOB_TAKE (R451). -/
  | codecJobTake (ch : BitVec 5) (entry : List Byte)
  /-- ENCODE (R455). -/
  | encode (ch : BitVec 5) (error : Bool)
  /-- ENCODE_RING_SPACE (R456). -/
  | encodeRingSpace (ch : BitVec 5)
  /-- CODEC_DECODE (R464). -/
  | codecDecode (ch : BitVec 5) (error : Bool)
  /-- ANALYSE (R463). -/
  | analyse (ch : BitVec 5)
  /-- DECODE_CAP (R467). -/
  | decodeCap (ch : BitVec 5)
  /-- CODEC_JOB_END (R472). -/
  | codecJobEnd (ch : BitVec 5)
  /-- CODEC_RECORD (R472). -/
  | codecRecord (ch : BitVec 5)
  /-- CALIBRATION_END (R462). -/
  | calibrationEnd (sdie : BitVec 2) (ok : Bool)
  /-- PIPE_RECOVER (R462). -/
  | pipeRecover (path : Path) (sdie : BitVec 2)
  /-- PIPE_RESUME (R462). -/
  | pipeResume (path : Path) (sdie : BitVec 2)
  /-- CHAN_ENABLE (R450). -/
  | chanEnable (path : Path) (ch : BitVec 5)
  /-- CHAN_DISABLE (R450). -/
  | chanDisable (path : Path) (ch : BitVec 5)
  /-- WINDOW_READ (R480). -/
  | windowRead (ctrl : BitVec 64)
  /-- WINDOW_WRITE (R480). -/
  | windowWrite (ctrl : BitVec 64) (data : List Byte)
  /-- DICTIONARY_READ (R505). -/
  | dictionaryRead (path : Path) (obj : BitVec 16) (sub : ByteField) (piece : WordField)
  /-- DICTIONARY_WRITE (R505). -/
  | dictionaryWrite (path : Path) (obj : BitVec 16) (sub : ByteField) (piece : BitVec 16) (data : List Byte)
  /-- ROUTE_WRITE (R490). -/
  | routeWrite (path : Path) (port : ByteField) (first : BitVec 32) (entries : List Byte)
  /-- ROUTE_READ (R505). -/
  | routeRead (path : Path) (port : ByteField) (first : BitVec 32) (count : BitVec 32)
  /-- REGISTER_WRITE (R509). -/
  | registerWrite (path : Path) (obj : BitVec 16) (sub : BitVec 8) (data : List Byte)
  /-- DESCRIBE_TARGET (R507). -/
  | describeTarget (path : Path) (value : BitVec 32)
  /-- DEVICE_ENABLE (R524). -/
  | deviceEnable (path : Path) (trained : BitVec 8)
  /-- DEVICE_DISABLE (R526). -/
  | deviceDisable (path : Path)
  /-- DISABLE_COMPLETE (R526). -/
  | disableComplete
  /-- POWER_ENVELOPE (R512). -/
  | powerEnvelope (path : Path) (value : BitVec 8)
  /-- SLOT_ENABLE (R192). -/
  | slotEnable (path : Path) (slot : BitVec 6)
  /-- SLOT_DISABLE (R192). -/
  | slotDisable (path : Path) (slot : BitVec 6)
  /-- IMAGE_LOAD_COMPLETE (R188). -/
  | imageLoadComplete (slot : BitVec 6) (bytes : List Byte)
  /-- CLIENT_ENABLE (R425). -/
  | clientEnable (path : Path) (n : BitVec 12)
  /-- CLIENT_DISABLE (R425). -/
  | clientDisable (path : Path) (n : BitVec 12)
  /-- OVERLAY_APPLY (R531). -/
  | overlayApply (path : Path) (value : BitVec 32)
  /-- OVERLAY_REMOVE (R532). -/
  | overlayRemove (path : Path) (value : BitVec 32)
  /-- COLL_RESET (R375). -/
  | collReset (path : Path) (p : BitVec 4)
  /-- TRACE_ARM (R589). -/
  | traceArm (path : Path) (p : BitVec 4)
  /-- TRACE_TRIGGER (R590). -/
  | traceTrigger (path : Path) (p : BitVec 4)
  /-- MARK_WRITE (R587). -/
  | markWrite (path : Path) (value : BitVec 16)
  /-- SHEET_CAPTURE (R596). -/
  | sheetCapture (path : Path)
  /-- STOP_ARM (R600). -/
  | stopArm (path : Path) (p : BitVec 4)
  /-- STOP_RELEASE_RESUME (R605). -/
  | stopReleaseResume (path : Path) (p : BitVec 4)
  /-- STOP_RELEASE_FAIL (R605). -/
  | stopReleaseFail (path : Path) (p : BitVec 4)
  /-- BP_RESUME (R609). -/
  | bpResume (path : Path) (c : CoreId)
  /-- BP_SINGLE_STEP (R609). -/
  | bpSingleStep (path : Path) (c : CoreId)
  /-- LOUPE_READ (R610). -/
  | loupeRead (path : Path) (piece : BitVec 16)
  /-- WAKE_CAUSE_READ (R563). -/
  | wakeCauseRead (path : Path)
  /-- STRIP_REQUEST (R547). -/
  | stripRequest (path : Path) (region : BitVec 16)
  /-- ENGINE_RUN (R550). -/
  | engineRun (path : Path) (region : BitVec 16)
  /-- STRIP_ROUND (R541). -/
  | stripRound
  /-- STRIP_END (R543). -/
  | stripEnd (region : BitVec 7) (signature : BitVec 64) (aborted : Bool)
  /-- WARM_RESET (R559). -/
  | warmReset (path : Path)
  /-- COLD_RESET (R559). -/
  | coldReset (path : Path)
  /-- SLEEP (R562). -/
  | sleep (path : Path)
  /-- POWER_UP (R537). -/
  | powerUp (supply : BitVec 32) (aux : BitVec 32) (env : BitVec 2) (mid : BitVec 4)
  /-- PERST_ASSERT (R551). -/
  | perstAssert
  /-- PERST_DEASSERT (R538). -/
  | perstDeassert
  /-- AUX_RAIL_LOSS (R552). -/
  | auxRailLoss
  /-- INPUT_LOSS (R554). -/
  | inputLoss
  /-- CXL_HOT_RESET (R555). -/
  | cxlHotReset
  /-- FLR (R556). -/
  | flr
  /-- FABRIC_HOT_RESET (R555). -/
  | fabricHotReset (port : BitVec 3) (trained : Bool)
  /-- COMPARATOR_TRIP (R563). -/
  | comparatorTrip (k : BitVec 3)
  /-- FENCE_REQUEST (R618). -/
  | fenceRequest (path : Path) (pc : BitVec 16)
  /-- FENCE_CLEAR (R624). -/
  | fenceClear (path : Path) (pc : BitVec 16)
  /-- LOCKSTEP_MISMATCH (R618). -/
  | lockstepMismatch (pc : BitVec 10)
  /-- COMMIT_VERSION (R571). -/
  | commitVersion (path : Path)
  /-- FW_IMAGE (R569). -/
  | fwImage (path : Path) (data : List Byte)
  /-- PLDM_FIRMWARE_UPDATE (R569). -/
  | pldmFirmwareUpdate (data : List Byte)
  /-- LC_TRANSITION (R581). -/
  | lcTransition (path : Path) (value : BitVec 8)
  /-- SET_TIME (R500). -/
  | setTime (path : Path) (value : BitVec 64)
  /-- RETAIN_REGIONS (R561). -/
  | retainRegions (path : Path) (value : BitVec 8)
  /-- GET_VERSION (R574). -/
  | getVersion (carrier : BitVec 4) (versions : List (BitVec 8))
  /-- GET_CAPABILITIES (R576). -/
  | getCapabilities (carrier : BitVec 4)
  /-- GET_CERTIFICATE (R573). -/
  | getCertificate (carrier : BitVec 4) (slot : BitVec 4) (offset : BitVec 16) (length : BitVec 16)
  /-- CHALLENGE (R574). -/
  | challenge (carrier : BitVec 4) (nonce : List Byte)
  /-- GET_MEASUREMENTS (R575). -/
  | getMeasurements (carrier : BitVec 4) (block : BitVec 8) (nonce : List Byte)
  /-- KEY_EXCHANGE (R577). -/
  | keyExchange (carrier : BitVec 4) (session : BitVec 16) (exchange : List Byte)
  /-- FINISH (R577). -/
  | finish (session : BitVec 16) (chain : List Byte) (signature : List Byte)
  /-- HEARTBEAT (R577). -/
  | heartbeat (session : BitVec 16)
  /-- SESSION_TIMEOUT (R577). -/
  | sessionTimeout (session : BitVec 16)
  /-- IDE_KEY_PROGRAM (R579). -/
  | ideKeyProgram (session : BitVec 16) (target : IdeTarget) (key : List Byte)
  /-- PTM_REQUEST (R499). -/
  | ptmRequest
  /-- PTM_RESPONSE (R499). -/
  | ptmResponse (t1 : BitVec 64) (t2 : BitVec 64) (t3 : BitVec 64) (t4 : BitVec 64)
  /-- TIMEREF_PPS (R501). -/
  | timerefPps
  /-- HOLDOVER_TIMEOUT (R503). -/
  | holdoverTimeout
  /-- LEASE_RENEWAL (R628). -/
  | leaseRenewal
  /-- TOKEN_RENEWAL (R627). -/
  | tokenRenewal (reg : Fin 3) (sdie : BitVec 2) (term : BitVec 16)
  /-- TOKEN_CLAIM (R627). -/
  | tokenClaim (reg : Fin 3) (sdie : BitVec 2) (term : BitVec 16)
  /-- TOKEN_EXPIRY (R627). -/
  | tokenExpiry (reg : Fin 3)
  /-- RENEWAL_ACK (R628). -/
  | renewalAck (reg : Fin 3)
  /-- CONDUCTOR_STEP_DOWN (R628). -/
  | conductorStepDown
  /-- CLAIM_TIMEOUT (R629). -/
  | claimTimeout (sdie : BitVec 2)
  /-- CLAIM_GRANT (R629). -/
  | claimGrant (sdie : BitVec 2) (grants : BitVec 3)
  /-- FENCE (R631). -/
  | fence (die : BitVec 6)
  /-- INERT_TIMEOUT (R631). -/
  | inertTimeout (die : BitVec 6)
  /-- SEGMENT_LOST (R632). -/
  | segmentLost
  /-- COUNTER_FOLD (R584). -/
  | counterFold
  /-- FILMSTRIP_WRAP (R588). -/
  | filmstripWrap (strip : Nat)
  /-- TRACE_DRAIN (R593). -/
  | traceDrain (p : BitVec 4)
  /-- COOLANT_SAMPLE (R650). -/
  | coolantSample (inlet : BitVec 32) (flow : BitVec 32)
  /-- P0_LINK_UP (R476). -/
  | p0LinkUp (rate : BitVec 8) (width : BitVec 8) (flit256 : Bool)
  /-- P0_LINK_DOWN (R488). -/
  | p0LinkDown
  /-- FABRIC_PORT_LEAVES_SERVICE (R379). -/
  | fabricPortLeavesService (port : BitVec 3)
  /-- RING_CROSSING_LOST (R54). -/
  | ringCrossingLost (north : Bool)
  /-- RING_CROSSING_RECOVERED (R54). -/
  | ringCrossingRecovered (north : Bool)
  /-- GRANT_RELEASE (R629). -/
  | grantRelease (reg : Fin 3) (sdie : BitVec 2) (term : BitVec 16)
  /-- HDM_DECOMMIT (R527). -/
  | hdmDecommit (dec : BitVec 4)
  /-- PID_ASSIGN (R490). -/
  | pidAssign (port : BitVec 3) (pid : BitVec 12)
deriving DecidableEq, Repr

end Sys2Proof
end

