-- ==== Sys2Proof/Decode.lean ====
section
/-! DEFINITION. `decodeTableWord` over the rows that spec/opcode_table.json gives bits (none of them), and the
decoder and encoder of the 128-bit words that images hold: engine instructions (04, Tables 4-1 to 4-7), tile and
row-function descriptors (Tables 4-9, 4-10), transaction and link headers (01, Tables 1-4, 1-5). -/

namespace Sys2Proof

/-- The command a word spells by the opcode table's bits: no row of the table gives any. -/
def decodeTableWord (_nbits _w : Nat) : Option Instr := none

/-! ### Engine instructions -/

/-- Bits `hi` to `lo` of an instruction word. -/
abbrev fld (w : BitVec 128) (lo n : Nat) : BitVec n := w.extractLsb' lo n

/-- The first signal of a header (Table 4-1). -/
def decodeSig0 (w : BitVec 128) : Signal :=
  ⟨fld w 100 6, fld w 92 8, fld w 91 1, fld w 90 1, fld w 87 3⟩

/-- The second signal of a header (Table 4-1). -/
def decodeSig1 (w : BitVec 128) : Signal :=
  ⟨fld w 81 6, fld w 73 8, fld w 72 1, fld w 71 1, fld w 68 3⟩

/-- The header of an instruction word (Table 4-1). -/
def decodeHeader (w : BitVec 128) : Header := ⟨fld w 114 6, fld w 106 8, decodeSig0 w, decodeSig1 w⟩

/-- MMA payload (Table 4-4). -/
def decodeMma (w : BitVec 128) : MmaFields :=
  ⟨fld w 56 12, fld w 44 12, fld w 32 12, fld w 28 4, fld w 26 2, fld w 24 2⟩

/-- MMF payload (Table 4-4). -/
def decodeMmf (w : BitVec 128) : MmfFields :=
  ⟨fld w 56 12, fld w 44 12, fld w 32 12, fld w 20 12, fld w 16 4, fld w 12 4, fld w 10 2, fld w 8 2, fld w 7 1⟩

/-- The instruction a word spells; none for an opcode that Table 4-2 does not list or a nonzero reserved payload
bit (R160, R161). Ranges of defined fields are checked apart. -/
def decodeEngine (w : BitVec 128) : Option Engine :=
  let h := decodeHeader w
  match (fld w 120 8).toNat with
  | 0x01 => if fld w 0 68 = 0 then some (.twait h) else none
  | 0x02 => if fld w 0 68 = 0 then some (.tsig h) else none
  | 0x03 => if fld w 0 40 = 0 then some (.loop h (fld w 52 16) (fld w 40 12)) else none
  | 0x05 => if fld w 0 64 = 0 then some (.brb h (fld w 64 4)) else none
  | 0x06 => if fld w 0 51 = 0 then some (.yield h (fld w 67 1) (fld w 51 16)) else none
  | 0x07 => if fld w 0 68 = 0 then some (.stepEnd h) else none
  | 0x10 => if fld w 0 24 = 0 then some (.mma h (decodeMma w)) else none
  | 0x11 => some (.mmab h ⟨decodeMma w, fld w 8 16, fld w 0 8⟩)
  | 0x12 => if fld w 0 7 = 0 then some (.mmf h (decodeMmf w)) else none
  | 0x20 => if fld w 0 12 = 0 then
      some (.vop h ⟨fld w 60 8, fld w 48 12, fld w 36 12, fld w 24 12, fld w 12 12⟩) else none
  | 0x21 => if fld w 0 43 = 0 then some (.vcvt h ⟨fld w 56 12, fld w 44 12, fld w 43 1⟩) else none
  | 0x22 => if fld w 0 32 = 0 then some (.vrow h ⟨fld w 56 12, fld w 44 12, fld w 32 12⟩) else none
  | 0x23 => if fld w 0 15 = 0 then
      some (.sfn h ⟨fld w 60 8, fld w 48 12, fld w 36 12, fld w 24 12, fld w 23 1, fld w 15 8⟩) else none
  | 0x24 => if fld w 0 28 = 0 then some (.sfm h ⟨fld w 60 8, fld w 48 12, fld w 36 12, fld w 28 8⟩) else none
  | 0x30 => if fld w 0 56 = 0 then some (.ld h (fld w 56 12)) else none
  | 0x31 => if fld w 0 12 = 0 then
      some (.ldp h ⟨fld w 56 12, fld w 44 12, fld w 28 16, fld w 12 16⟩) else none
  | 0x32 => if fld w 0 44 = 0 then some (.halo h ⟨fld w 56 12, fld w 44 12⟩) else none
  | 0x40 => if fld w 0 38 = 0 then some (.st h ⟨fld w 56 12, fld w 54 2, fld w 38 16⟩) else none
  | _ => none

/-- The opcode of an instruction (Table 4-2). -/
def Engine.opcode : Engine → Nat
  | .twait _ => 0x01 | .tsig _ => 0x02 | .loop .. => 0x03 | .brb .. => 0x05 | .yield .. => 0x06 | .stepEnd _ => 0x07
  | .mma .. => 0x10 | .mmab .. => 0x11 | .mmf .. => 0x12 | .vop .. => 0x20 | .vcvt .. => 0x21 | .vrow .. => 0x22
  | .sfn .. => 0x23 | .sfm .. => 0x24 | .ld .. => 0x30 | .ldp .. => 0x31 | .halo .. => 0x32 | .st .. => 0x40

/-- The header of an instruction. -/
def Engine.header : Engine → Header
  | .twait h | .tsig h | .loop h _ _ | .brb h _ | .yield h _ _ | .stepEnd h | .mma h _ | .mmab h _ | .mmf h _
  | .vop h _ | .vcvt h _ | .vrow h _ | .sfn h _ | .sfm h _ | .ld h _ | .ldp h _ | .halo h _ | .st h _ => h

/-- The 19 bits of a signal. -/
def encodeSig (s : Signal) : BitVec 19 := s.token ++ s.inc ++ s.point ++ s.remote ++ s.core

/-- The upper 60 bits of an instruction word (Table 4-1). -/
def encodeHead (op : BitVec 8) (h : Header) : BitVec 60 :=
  op ++ h.waitToken ++ h.waitCount ++ encodeSig h.sig0 ++ encodeSig h.sig1

/-- The descriptor part of an MMA payload, bits [67:24]. -/
def encodeMma (p : MmaFields) : BitVec 44 := p.descA ++ p.descB ++ p.descC ++ p.accBank ++ p.init ++ p.accType

/-- The payload of an instruction, bits [67:0] (Tables 4-3 to 4-7). -/
def encodePayload : Engine → BitVec 68
  | .twait _ | .tsig _ | .stepEnd _ => 0
  | .loop _ count body => (count ++ body ++ (0 : BitVec 40) : BitVec 68)
  | .brb _ b => (b ++ (0 : BitVec 64) : BitVec 68)
  | .yield _ e s => (e ++ s ++ (0 : BitVec 51) : BitVec 68)
  | .mma _ p => (encodeMma p ++ (0 : BitVec 24) : BitVec 68)
  | .mmab _ p => (encodeMma p.mat ++ p.batch ++ p.accStride : BitVec 68)
  | .mmf _ p => (p.descA ++ p.descB ++ p.descD ++ p.descRow ++ p.bankP ++ p.bankOut ++ p.init ++ p.pFmt ++ p.sat ++
      (0 : BitVec 7) : BitVec 68)
  | .vop _ p => (p.op ++ p.srcA ++ p.srcB ++ p.srcC ++ p.dst ++ (0 : BitVec 12) : BitVec 68)
  | .vcvt _ p => (p.src ++ p.dst ++ p.sat ++ (0 : BitVec 43) : BitVec 68)
  | .vrow _ p => (p.src ++ p.dst ++ p.descRow ++ (0 : BitVec 32) : BitVec 68)
  | .sfn _ p => (p.func ++ p.src ++ p.dst ++ p.dst2 ++ p.swap ++ p.generation ++ (0 : BitVec 15) : BitVec 68)
  | .sfm _ p => (p.program ++ p.src ++ p.dst ++ p.passes ++ (0 : BitVec 28) : BitVec 68)
  | .ld _ d => (d ++ (0 : BitVec 56) : BitVec 68)
  | .ldp _ p => (p.descData ++ p.descList ++ p.first ++ p.entries ++ (0 : BitVec 12) : BitVec 68)
  | .halo _ p => (p.descLocal ++ p.descRemote ++ (0 : BitVec 44) : BitVec 68)
  | .st _ p => (p.desc ++ p.mode ++ p.coll ++ (0 : BitVec 38) : BitVec 68)

/-- The 128-bit word of an instruction (R157). -/
def encodeEngine (i : Engine) : BitVec 128 :=
  (encodeHead (BitVec.ofNat 8 i.opcode) i.header ++ encodePayload i : BitVec 128)

/-! ### Descriptors -/

/-- A tile descriptor by its bits (Table 4-9). -/
def decodeDesc (w : BitVec 256) : Desc :=
  { fmt := w.extractLsb' 252 4, scaleMode := w.extractLsb' 250 2, iterLevel := w.extractLsb' 248 2
    region := w.extractLsb' 240 8, memOffset := w.extractLsb' 192 48, rows := w.extractLsb' 176 16
    rowElems := w.extractLsb' 160 16, memRowPitch := w.extractLsb' 128 32, localSpace := w.extractLsb' 126 2
    localAddr := w.extractLsb' 109 17, localIterStride := w.extractLsb' 96 13, localWrap := w.extractLsb' 88 8
    memIterStride := w.extractLsb' 64 24, batchStride := w.extractLsb' 47 17, scaleAddr := w.extractLsb' 30 17
    scaleBatchStride := w.extractLsb' 21 9, tscaleAddr := w.extractLsb' 4 17, reserved := w.extractLsb' 0 4 }

/-- The bits of a tile descriptor. -/
def encodeDesc (d : Desc) : BitVec 256 :=
  (d.fmt ++ d.scaleMode ++ d.iterLevel ++ d.region ++ d.memOffset ++ d.rows ++ d.rowElems ++ d.memRowPitch ++
    d.localSpace ++ d.localAddr ++ d.localIterStride ++ d.localWrap ++ d.memIterStride ++ d.batchStride ++
    d.scaleAddr ++ d.scaleBatchStride ++ d.tscaleAddr ++ d.reserved : BitVec 256)

/-- A row-function descriptor by its bits (Table 4-10). -/
def decodeRowDesc (w : BitVec 256) : RowDesc :=
  { status := w.extractLsb' 251 1, softmax := w.extractLsb' 250 1, mask := w.extractLsb' 249 1
    scale := w.extractLsb' 248 1, scaleValue := w.extractLsb' 216 32, maskMode := w.extractLsb' 212 4
    qSegDesc := w.extractLsb' 200 12, kSegDesc := w.extractLsb' 188 12, statBank := w.extractLsb' 184 4
    statusDesc := w.extractLsb' 172 12, reserved := w.extractLsb' 0 172 }

/-- The bits of a row-function descriptor. -/
def encodeRowDesc (d : RowDesc) : BitVec 256 :=
  ((0xF : BitVec 4) ++ d.status ++ d.softmax ++ d.mask ++ d.scale ++ d.scaleValue ++ d.maskMode ++ d.qSegDesc ++
    d.kSegDesc ++ d.statBank ++ d.statusDesc ++ d.reserved : BitVec 256)

/-! ### Link and transaction headers -/

/-- A transaction header by its bits (Table 1-5). -/
def decodeTx (w : BitVec 128) : TxHeader :=
  { opcode := fld w 122 6, srcDie := fld w 116 6, srcCluster := fld w 114 2, dstDie := fld w 108 6
    dstCluster := fld w 106 2, msgClass := fld w 104 2, tag := fld w 92 12, age := fld w 84 8
    partition := fld w 80 4, granule := fld w 32 48, mask := fld w 0 32 }

/-- The bits of a transaction header. -/
def encodeTx (t : TxHeader) : BitVec 128 :=
  (t.opcode ++ t.srcDie ++ t.srcCluster ++ t.dstDie ++ t.dstCluster ++ t.msgClass ++ t.tag ++ t.age ++
    t.partition ++ t.granule ++ t.mask : BitVec 128)

/-- A link header by its bits (Table 1-4). -/
def decodeLink (w : BitVec 128) : LinkHeader :=
  { flitSeq := fld w 116 12, ackSeq := fld w 104 12, dataCount := fld w 100 4, slotValid := fld w 85 15
    creditVcA := fld w 82 3, creditCntA := fld w 76 6, creditVcB := fld w 73 3, creditCntB := fld w 67 6
    linkState := fld w 64 3, reserved := fld w 0 64 }

/-- The bits of a link header. -/
def encodeLink (l : LinkHeader) : BitVec 128 :=
  (l.flitSeq ++ l.ackSeq ++ l.dataCount ++ l.slotValid ++ l.creditVcA ++ l.creditCntA ++ l.creditVcB ++
    l.creditCntB ++ l.linkState ++ l.reserved : BitVec 128)

end Sys2Proof
end

