-- ==== Sys2Proof/Machine/Tab.lean ====
section
/-! DEFINITION. Sparse tables: lists of (key, value) pairs with keys strictly rising and no entry equal to what
an unlisted key reads as. Memory, the dictionary and every numbered family of registers are held so. -/

namespace Sys2Proof.Machine

/-- A sparse table. The default value of an unlisted key is an argument of every operation. -/
abbrev Tab (α : Type) := List (Nat × α)

/-- The value a table holds for key `k`; `d` when it lists none. -/
def tabGet {α : Type} (d : α) : Tab α → Nat → α
  | [], _ => d
  | (k', v) :: t, k => if k' = k then v else tabGet d t k

/-- The table with key `k` removed. -/
def tabErase {α : Type} : Tab α → Nat → Tab α
  | [], _ => []
  | (k', v) :: t, k => if k' = k then tabErase t k else (k', v) :: tabErase t k

/-- The table with `v` listed for `k`, in its sorted place. -/
def tabInsert {α : Type} : Tab α → Nat → α → Tab α
  | [], k, v => [(k, v)]
  | (k', v') :: t, k, v =>
    if k < k' then (k, v) :: (k', v') :: t
    else if k = k' then (k, v) :: t
    else (k', v') :: tabInsert t k v

/-- The table after `v` is written to key `k`: a value equal to the default leaves no entry. -/
def tabSet {α : Type} [DecidableEq α] (d : α) (t : Tab α) (k : Nat) (v : α) : Tab α :=
  if v = d then tabErase t k else tabInsert t k v

/-- The table after `f` is applied to the value of key `k`. -/
def tabMod {α : Type} [DecidableEq α] (d : α) (t : Tab α) (k : Nat) (f : α → α) : Tab α :=
  tabSet d t k (f (tabGet d t k))

/-- The entry of the smallest key at or above `lo`. -/
def tabFrom {α : Type} : Tab α → Nat → Option (Nat × α)
  | [], _ => none
  | (k, v) :: t, lo => if lo ≤ k then some (k, v) else tabFrom t lo

/-- The table without the keys of the half-open range from `lo` to `hi`. -/
def tabClear {α : Type} (t : Tab α) (lo hi : Nat) : Tab α :=
  t.filter fun e => e.1 < lo || hi ≤ e.1

/-- Every key of the table is above `k`. -/
def tabAbove {α : Type} (k : Nat) (t : Tab α) : Prop := ∀ e ∈ t, k < e.1

/-- The canonical form: keys strictly rising, and no value equal to the default `d`. -/
def tabWf {α : Type} [DecidableEq α] (d : α) : Tab α → Bool
  | [] => true
  | [(_, v)] => decide (v ≠ d)
  | (k, v) :: (k', v') :: t => decide (v ≠ d) && decide (k < k') && tabWf d ((k', v') :: t)

end Sys2Proof.Machine
end

