-- ==== Sys2Proof/Machine/Bits.lean ====
section
/-! DEFINITION. Bytes and bit fields: little-endian words (R8), fields of a number by their bit positions, lists
of bytes cut and joined, serial-number arithmetic (R634). -/

namespace Sys2Proof.Machine

/-- Bits `hi` to `lo` of `n`. -/
def bits (n hi lo : Nat) : Nat := n >>> lo % 2 ^ (hi + 1 - lo)

/-- Bit `k` of `n`. -/
def bit (n k : Nat) : Bool := n.testBit k

/-- The number whose little-endian bytes (R8) are the list. -/
def leNat : List Byte → Nat
  | [] => 0
  | b :: t => b.toNat + 256 * leNat t

/-- The `k` little-endian bytes of `n`. -/
def leBytes : Nat → Nat → List Byte
  | 0, _ => []
  | k + 1, n => BitVec.ofNat 8 n :: leBytes k (n / 256)

/-- `k` bytes of the list from offset `o`, missing bytes taken as zero. -/
def slice (l : List Byte) (o k : Nat) : List Byte :=
  let t := (l.drop o).take k
  t ++ List.replicate (k - t.length) 0

/-- The little-endian number of `k` bytes at offset `o`. -/
def leAt (l : List Byte) (o k : Nat) : Nat := leNat ((l.drop o).take k)

/-- The list with the bytes `d` written over it from offset `o`, as far as it reaches. -/
def patch (l : List Byte) (o : Nat) (d : List Byte) : List Byte :=
  l.take o ++ (d.take (l.length - o)) ++ l.drop (o + d.length)

/-- True when every byte is zero. -/
def allZero (l : List Byte) : Bool := l.all (· == 0)

/-- True when the bytes of the list from `o`, `k` of them, are zero. -/
def zeroAt (l : List Byte) (o k : Nat) : Bool := allZero ((l.drop o).take k)

/-- The quotient rounded up. -/
def ceilDiv (a b : Nat) : Nat := (a + b - 1) / b

/-- Serial-number arithmetic over `n` bits (R634): `a` is ahead of `b`. -/
def serialAhead (n a b : Nat) : Bool :=
  let d := (a + 2 ^ n - b % 2 ^ n) % 2 ^ n
  decide (0 < d) && decide (d < 2 ^ (n - 1))

/-- The list with its element `k` replaced. -/
def setAt {α : Type} (l : List α) (k : Nat) (v : α) : List α := l.set k v

/-- The numbers from `a` to `a + n - 1`. -/
def rangeFrom (a n : Nat) : List Nat := (List.range n).map (a + ·)

/-- The number of set bits among the low `w` bits of `n`. -/
def popCount (w n : Nat) : Nat := ((List.range w).filter fun k => n.testBit k).length

/-- The positions of the set bits among the low `w` bits of `n`, ascending. -/
def setBits (w n : Nat) : List Nat := (List.range w).filter fun k => n.testBit k

/-- `n` with bit `k` set. -/
def withBit (n k : Nat) : Nat := n ||| 2 ^ k

/-- `n` with bit `k` clear. -/
def withoutBit (n k : Nat) : Nat := if n.testBit k then n - 2 ^ k else n

/-- The two's complement reading of the low `w` bits of `n`. -/
def signed (w n : Nat) : Int :=
  let m := n % 2 ^ w
  if m < 2 ^ (w - 1) then (m : Int) else (m : Int) - (2 ^ w : Nat)

/-- The low `w` bits of an integer in two's complement. -/
def wrapInt (w : Nat) (i : Int) : Nat := (i % (2 ^ w : Nat)).toNat

/-- The first element of a list that satisfies `f`, with its index. -/
def findIdx {α : Type} (f : α → Bool) : List α → Option (Nat × α)
  | [] => none
  | a :: t => if f a then some (0, a) else (findIdx f t).map fun r => (r.1 + 1, r.2)

/-- The list without its element of index `k`. -/
def dropAt {α : Type} (l : List α) (k : Nat) : List α := l.eraseIdx k

/-- The list cut into pieces of `n`, `fuel` of them at most. -/
def chunksOf {α : Type} (n : Nat) : Nat → List α → List (List α)
  | 0, _ => []
  | _ + 1, [] => []
  | fuel + 1, l => l.take n :: chunksOf n fuel (l.drop n)

/-- Position and value of the element of a list with the least value of `f`, the first on a tie. -/
def leastBy {α : Type} (f : α → Nat) : List α → Option α
  | [] => none
  | x :: t => match leastBy f t with
    | none => some x
    | some y => if f x ≤ f y then some x else some y

end Sys2Proof.Machine
end

