-- ==== Sys2Proof/Machine/DictTable.lean ====
section
/-! DEFINITION. The objects of the Xemond dictionary, one row per object or family of the tables of chapters 01 to 21
(object range, subindex range, type, access, default, whether an overlay may change it). Where a table gives a dash the
default is the model's (log entry 5). -/

namespace Sys2Proof.Machine

/-- Data types of Table 16-1. -/
inductive OType where
  | bool | u8 | u16 | u32 | u64 | i32 | enum | bits | f32 | time64 | addr | str | blob
deriving DecidableEq, Repr

/-- Access codes of Table 16-2. -/
inductive Access where
  | ro | rw | rwd | rws | wo
deriving DecidableEq, Repr

/-- Whether an overlay may carry the object (Table 16-13). -/
inductive Overlayable where
  | no | yes | only
deriving DecidableEq, Repr

/-- One row of the object tables. -/
structure ObjRow where
  lo : Nat
  hi : Nat
  sub0 : Nat
  sub1 : Nat
  ty : OType
  acc : Access
  dflt : Nat
  ovl : Overlayable
deriving DecidableEq, Repr

/-- Objects 0x1000 to 0x2022. -/
def objRows0 : List ObjRow := [
  ⟨0x1000, 0x1000, 0x01, 0x01, .str, .ro, 0, .no⟩,
  ⟨0x1000, 0x1000, 0x02, 0x02, .str, .ro, 0, .no⟩,
  ⟨0x1000, 0x1000, 0x03, 0x03, .enum, .ro, 0, .no⟩,
  ⟨0x1000, 0x1000, 0x04, 0x04, .str, .ro, 0, .no⟩,
  ⟨0x1000, 0x1000, 0x05, 0x05, .u16, .ro, 0, .no⟩,
  ⟨0x1000, 0x1000, 0x06, 0x06, .u32, .ro, 0, .no⟩,
  ⟨0x1000, 0x1000, 0x07, 0x07, .u16, .ro, 0x100, .no⟩,
  ⟨0x1002, 0x1002, 0x01, 0x01, .u32, .rw, 0, .no⟩,
  ⟨0x1002, 0x1002, 0x02, 0x02, .blob, .ro, 0, .no⟩,
  ⟨0x1010, 0x1010, 0x01, 0x01, .enum, .ro, 1, .no⟩,
  ⟨0x1010, 0x1010, 0x02, 0x02, .enum, .ro, 0, .no⟩,
  ⟨0x2000, 0x2000, 0x01, 0x01, .bool, .rw, 0, .no⟩,
  ⟨0x2000, 0x2000, 0x02, 0x02, .enum, .ro, 0, .no⟩,
  ⟨0x2000, 0x2000, 0x03, 0x03, .u16, .ro, 0, .no⟩,
  ⟨0x2000, 0x2000, 0x04, 0x04, .u32, .ro, 0, .no⟩,
  ⟨0x2001, 0x2001, 0x01, 0x01, .blob, .ro, 0, .no⟩,
  ⟨0x2010, 0x2010, 0x01, 0x01, .enum, .rws, 1, .yes⟩,
  ⟨0x2010, 0x2010, 0x02, 0x02, .enum, .ro, 1, .no⟩,
  ⟨0x2010, 0x2010, 0x03, 0x03, .enum, .ro, 1, .no⟩,
  ⟨0x2012, 0x2012, 0x01, 0x01, .bool, .rws, 0, .only⟩,
  ⟨0x2020, 0x2020, 0x01, 0x01, .enum, .rws, 0, .yes⟩,
  ⟨0x2020, 0x2020, 0x02, 0x02, .bool, .rws, 0, .yes⟩,
  ⟨0x2022, 0x2022, 0x01, 0x01, .u8, .ro, 1, .no⟩,
  ⟨0x2022, 0x2022, 0x02, 0x02, .blob, .ro, 0, .no⟩]

/-- Objects 0x2022 to 0x403F. -/
def objRows1 : List ObjRow := [
  ⟨0x2022, 0x2022, 0x03, 0x03, .u16, .ro, 0x1000, .no⟩,
  ⟨0x2022, 0x2022, 0x04, 0x04, .u16, .ro, 0x100, .no⟩,
  ⟨0x2024, 0x2024, 0x01, 0x01, .u32, .ro, 0x2000, .no⟩,
  ⟨0x2024, 0x2024, 0x02, 0x02, .u32, .ro, 0x8000, .no⟩,
  ⟨0x2024, 0x2024, 0x03, 0x03, .u8, .ro, 3, .no⟩,
  ⟨0x2024, 0x2024, 0x04, 0x04, .u8, .ro, 9, .no⟩,
  ⟨0x2024, 0x2024, 0x05, 0x05, .u8, .ro, 0x48, .no⟩,
  ⟨0x2040, 0x2040, 0x01, 0x01, .bits, .rw, 7, .no⟩,
  ⟨0x2100, 0x210F, 0x01, 0x01, .bits, .rwd, 0, .no⟩,
  ⟨0x2100, 0x210F, 0x02, 0x02, .bool, .rwd, 0, .no⟩,
  ⟨0x2100, 0x210F, 0x03, 0x03, .enum, .ro, 0, .no⟩,
  ⟨0x2100, 0x210F, 0x04, 0x04, .str, .rwd, 0, .no⟩,
  ⟨0x3000, 0x300F, 0x01, 0x01, .enum, .rwd, 0, .no⟩,
  ⟨0x3000, 0x300F, 0x02, 0x02, .bits, .rwd, 0, .no⟩,
  ⟨0x3000, 0x300F, 0x03, 0x03, .blob, .rwd, 0, .no⟩,
  ⟨0x3000, 0x300F, 0x04, 0x04, .enum, .ro, 0, .no⟩,
  ⟨0x3000, 0x300F, 0x05, 0x05, .blob, .ro, 0, .no⟩,
  ⟨0x3000, 0x300F, 0x06, 0x06, .bits, .ro, 0, .no⟩,
  ⟨0x3010, 0x3010, 0x01, 0x01, .u32, .wo, 0, .no⟩,
  ⟨0x4000, 0x403F, 0x01, 0x01, .addr, .rwd, 0, .no⟩,
  ⟨0x4000, 0x403F, 0x02, 0x02, .u64, .rwd, 0, .no⟩,
  ⟨0x4000, 0x403F, 0x03, 0x03, .u8, .rwd, 0, .no⟩,
  ⟨0x4000, 0x403F, 0x04, 0x04, .bool, .rw, 0, .no⟩,
  ⟨0x4000, 0x403F, 0x05, 0x05, .enum, .ro, 0, .no⟩]

/-- Objects 0x4000 to 0x520F. -/
def objRows2 : List ObjRow := [
  ⟨0x4000, 0x403F, 0x06, 0x06, .u32, .ro, 0, .no⟩,
  ⟨0x4000, 0x403F, 0x07, 0x07, .blob, .ro, 0, .no⟩,
  ⟨0x4000, 0x403F, 0x08, 0x08, .u64, .ro, 0, .no⟩,
  ⟨0x4000, 0x403F, 0x09, 0x09, .u64, .ro, 0, .no⟩,
  ⟨0x4040, 0x4040, 0x01, 0x01, .time64, .rwd, 0xc350, .no⟩,
  ⟨0x4040, 0x4040, 0x02, 0x02, .time64, .rwd, 0xf4240, .yes⟩,
  ⟨0x4040, 0x4040, 0x03, 0x03, .u32, .ro, 0x64, .no⟩,
  ⟨0x4040, 0x4040, 0x04, 0x04, .time64, .ro, 0x5dc, .no⟩,
  ⟨0x4040, 0x4040, 0x05, 0x05, .time64, .ro, 0x1388, .no⟩,
  ⟨0x4040, 0x4040, 0x06, 0x06, .time64, .rws, 0xc350, .yes⟩,
  ⟨0x4100, 0x410F, 0x01, 0x01, .time64, .ro, 0, .no⟩,
  ⟨0x4100, 0x410F, 0x02, 0x02, .time64, .ro, 0, .no⟩,
  ⟨0x4100, 0x410F, 0x03, 0x03, .u16, .ro, 0, .no⟩,
  ⟨0x5000, 0x5000, 0x01, 0x01, .u8, .rwd, 0, .no⟩,
  ⟨0x5000, 0x5000, 0x02, 0x02, .u16, .ro, 0x5d0, .no⟩,
  ⟨0x5000, 0x5000, 0x03, 0x03, .time64, .rwd, 0x4e94914f0000, .no⟩,
  ⟨0x5200, 0x520F, 0x01, 0x01, .u32, .rwd, 0, .no⟩,
  ⟨0x5200, 0x520F, 0x02, 0x02, .u32, .rwd, 0x40, .no⟩,
  ⟨0x5200, 0x520F, 0x03, 0x03, .u16, .rwd, 0, .no⟩,
  ⟨0x5200, 0x520F, 0x04, 0x04, .bits, .rwd, 0, .no⟩,
  ⟨0x5200, 0x520F, 0x05, 0x05, .u16, .rwd, 0, .no⟩,
  ⟨0x5200, 0x520F, 0x06, 0x06, .u16, .rwd, 0, .no⟩,
  ⟨0x5200, 0x520F, 0x07, 0x07, .u32, .rwd, 0, .no⟩,
  ⟨0x5200, 0x520F, 0x08, 0x08, .addr, .ro, 0, .no⟩]

/-- Objects 0x5200 to 0x573F. -/
def objRows3 : List ObjRow := [
  ⟨0x5200, 0x520F, 0x09, 0x09, .u8, .rwd, 0, .no⟩,
  ⟨0x5300, 0x5300, 0x01, 0x01, .f32, .rwd, 0x42be0000, .yes⟩,
  ⟨0x5300, 0x5300, 0x02, 0x02, .f32, .ro, 0x42d20000, .no⟩,
  ⟨0x5310, 0x5310, 0x01, 0x18, .f32, .ro, 0, .no⟩,
  ⟨0x5320, 0x5320, 0x01, 0x18, .enum, .ro, 2, .no⟩,
  ⟨0x5330, 0x5330, 0x01, 0x18, .bool, .ro, 0, .only⟩,
  ⟨0x5500, 0x5500, 0x01, 0x01, .u16, .ro, 0, .no⟩,
  ⟨0x5500, 0x5500, 0x02, 0x02, .bool, .rws, 1, .no⟩,
  ⟨0x5500, 0x5500, 0x03, 0x03, .u32, .rwd, 0x1000, .no⟩,
  ⟨0x5500, 0x5500, 0x04, 0x04, .u8, .rwd, 2, .no⟩,
  ⟨0x5510, 0x5510, 0x01, 0x18, .bits, .ro, 0, .no⟩,
  ⟨0x5520, 0x5520, 0x01, 0x18, .u32, .ro, 0, .no⟩,
  ⟨0x5600, 0x563F, 0x01, 0x01, .enum, .rwd, 0, .no⟩,
  ⟨0x5600, 0x563F, 0x02, 0x02, .addr, .rwd, 0, .no⟩,
  ⟨0x5600, 0x563F, 0x03, 0x03, .u64, .rwd, 0, .no⟩,
  ⟨0x5600, 0x563F, 0x04, 0x04, .u16, .rw, 0, .no⟩,
  ⟨0x5600, 0x563F, 0x05, 0x05, .blob, .rwd, 0, .no⟩,
  ⟨0x5600, 0x563F, 0x06, 0x06, .bits, .rwd, 0xfe, .no⟩,
  ⟨0x5700, 0x573F, 0x01, 0x01, .enum, .rwd, 0, .no⟩,
  ⟨0x5700, 0x573F, 0x02, 0x02, .addr, .rwd, 0, .no⟩,
  ⟨0x5700, 0x573F, 0x03, 0x03, .u64, .rwd, 0, .no⟩,
  ⟨0x5700, 0x573F, 0x04, 0x04, .u16, .rwd, 0, .no⟩,
  ⟨0x5700, 0x573F, 0x05, 0x05, .blob, .rwd, 0, .no⟩,
  ⟨0x5700, 0x573F, 0x06, 0x06, .u64, .ro, 0, .no⟩]

/-- Objects 0x5700 to 0x6100. -/
def objRows4 : List ObjRow := [
  ⟨0x5700, 0x573F, 0x07, 0x07, .bool, .rwd, 0, .no⟩,
  ⟨0x5700, 0x573F, 0x08, 0x08, .enum, .ro, 0, .no⟩,
  ⟨0x5700, 0x573F, 0x09, 0x09, .u16, .ro, 0, .no⟩,
  ⟨0x5700, 0x573F, 0x0A, 0x0A, .bits, .rwd, 0xfe, .no⟩,
  ⟨0x5800, 0x5800, 0x01, 0x01, .u16, .rwd, 0x40, .no⟩,
  ⟨0x5800, 0x5800, 0x02, 0x02, .u32, .ro, 0x1000, .no⟩,
  ⟨0x5800, 0x5800, 0x03, 0x03, .time64, .rwd, 0x989680, .no⟩,
  ⟨0x5900, 0x5900, 0x01, 0x01, .u16, .rwd, 0, .no⟩,
  ⟨0x5900, 0x5900, 0x02, 0x02, .u32, .rwd, 0, .no⟩,
  ⟨0x5900, 0x5900, 0x03, 0x03, .addr, .ro, 0, .no⟩,
  ⟨0x5A00, 0x5A00, 0x01, 0x18, .u16, .ro, 0xda, .no⟩,
  ⟨0x5A01, 0x5A01, 0x01, 0x01, .u8, .ro, 0x10, .no⟩,
  ⟨0x5A02, 0x5A02, 0x01, 0x18, .u64, .ro, 0, .no⟩,
  ⟨0x5A03, 0x5A03, 0x01, 0x18, .u64, .ro, 0, .no⟩,
  ⟨0x6000, 0x6007, 0x01, 0x01, .enum, .ro, 0, .no⟩,
  ⟨0x6000, 0x6007, 0x02, 0x02, .u8, .ro, 0, .no⟩,
  ⟨0x6000, 0x6007, 0x03, 0x03, .u8, .ro, 0, .no⟩,
  ⟨0x6000, 0x6007, 0x04, 0x04, .u16, .ro, 0xffff, .no⟩,
  ⟨0x6000, 0x6000, 0x05, 0x05, .bool, .rwd, 0, .no⟩,
  ⟨0x6010, 0x6010, 0x01, 0x10, .u64, .ro, 0, .no⟩,
  ⟨0x6010, 0x6010, 0x11, 0x11, .time64, .rwd, 0x3e8, .no⟩,
  ⟨0x6100, 0x6100, 0x01, 0x01, .u32, .rwd, 0xffffffff, .no⟩,
  ⟨0x6100, 0x6100, 0x02, 0x02, .bits, .rwd, 0xfe, .no⟩,
  ⟨0x6100, 0x6100, 0x03, 0x03, .time64, .rwd, 0x989680, .no⟩]

/-- Objects 0x6100 to 0x7000. -/
def objRows5 : List ObjRow := [
  ⟨0x6100, 0x6100, 0x04, 0x04, .time64, .rwd, 0x3b9aca00, .no⟩,
  ⟨0x6100, 0x6100, 0x05, 0x05, .u8, .rwd, 2, .no⟩,
  ⟨0x6100, 0x6100, 0x06, 0x06, .time64, .ro, 0x7d0, .no⟩,
  ⟨0x6100, 0x6100, 0x07, 0x07, .u8, .ro, 0x40, .no⟩,
  ⟨0x6100, 0x6100, 0x08, 0x08, .addr, .rwd, 0, .no⟩,
  ⟨0x6110, 0x611F, 0x01, 0x01, .u8, .rwd, 0, .no⟩,
  ⟨0x6110, 0x611F, 0x02, 0x02, .u16, .rwd, 0, .no⟩,
  ⟨0x6110, 0x611F, 0x03, 0x03, .bool, .wo, 0, .no⟩,
  ⟨0x6110, 0x611F, 0x04, 0x04, .bool, .rws, 0, .yes⟩,
  ⟨0x6200, 0x6206, 0x01, 0x01, .blob, .rw, 0, .no⟩,
  ⟨0x6300, 0x630F, 0x01, 0x01, .u16, .rws, 0xffff, .no⟩,
  ⟨0x6300, 0x630F, 0x02, 0x02, .time64, .rws, 0, .no⟩,
  ⟨0x6300, 0x630F, 0x03, 0x03, .bool, .rws, 1, .no⟩,
  ⟨0x6400, 0x6400, 0x01, 0x01, .enum, .rwd, 0, .no⟩,
  ⟨0x6400, 0x6400, 0x02, 0x02, .time64, .rwd, 0xf4240, .no⟩,
  ⟨0x6400, 0x6400, 0x03, 0x03, .i32, .rwd, 0, .no⟩,
  ⟨0x6400, 0x6400, 0x04, 0x04, .time64, .rwd, 0x989680, .no⟩,
  ⟨0x6400, 0x6400, 0x05, 0x05, .time64, .rwd, 0, .no⟩,
  ⟨0x6400, 0x6400, 0x06, 0x06, .time64, .ro, 0, .no⟩,
  ⟨0x6400, 0x6400, 0x07, 0x07, .bool, .ro, 0, .no⟩,
  ⟨0x7000, 0x7000, 0x01, 0x01, .u8, .ro, 8, .no⟩,
  ⟨0x7000, 0x7000, 0x02, 0x02, .u8, .ro, 0x10, .no⟩,
  ⟨0x7000, 0x7000, 0x03, 0x03, .u8, .rwd, 4, .no⟩,
  ⟨0x7000, 0x7000, 0x04, 0x04, .enum, .rwd, 0, .no⟩]

/-- Objects 0x7001 to 0x7107. -/
def objRows6 : List ObjRow := [
  ⟨0x7001, 0x7001, 0x01, 0x01, .blob, .ro, 0, .no⟩,
  ⟨0x7010, 0x7013, 0x01, 0x01, .enum, .ro, 0, .no⟩,
  ⟨0x7010, 0x7013, 0x02, 0x02, .bool, .wo, 0, .no⟩,
  ⟨0x7010, 0x7013, 0x03, 0x03, .bool, .wo, 0, .no⟩,
  ⟨0x7010, 0x7013, 0x04, 0x04, .enum, .ro, 0, .no⟩,
  ⟨0x7100, 0x7107, 0x01, 0x01, .bool, .rw, 0, .no⟩,
  ⟨0x7100, 0x7107, 0x02, 0x02, .u8, .rwd, 0, .no⟩,
  ⟨0x7100, 0x7107, 0x03, 0x03, .addr, .rwd, 0, .no⟩,
  ⟨0x7100, 0x7107, 0x04, 0x04, .u16, .rwd, 0x10, .no⟩,
  ⟨0x7100, 0x7107, 0x05, 0x05, .u32, .rwd, 0, .no⟩,
  ⟨0x7100, 0x7107, 0x06, 0x06, .u32, .ro, 0, .no⟩,
  ⟨0x7100, 0x7107, 0x07, 0x07, .addr, .rwd, 0, .no⟩,
  ⟨0x7100, 0x7107, 0x08, 0x08, .u16, .rwd, 0x40, .no⟩,
  ⟨0x7100, 0x7107, 0x09, 0x09, .u32, .rw, 0, .no⟩,
  ⟨0x7100, 0x7107, 0x0A, 0x0A, .u16, .rwd, 0, .no⟩,
  ⟨0x7100, 0x7107, 0x0B, 0x0B, .u32, .rwd, 0, .no⟩,
  ⟨0x7100, 0x7107, 0x0C, 0x0C, .enum, .rwd, 0, .no⟩,
  ⟨0x7100, 0x7107, 0x0D, 0x0D, .enum, .rwd, 1, .no⟩,
  ⟨0x7100, 0x7107, 0x0E, 0x0E, .u8, .rwd, 0x3e, .no⟩,
  ⟨0x7100, 0x7107, 0x0F, 0x0F, .enum, .rwd, 2, .no⟩,
  ⟨0x7100, 0x7107, 0x10, 0x10, .u32, .rwd, 0x9c40, .no⟩,
  ⟨0x7100, 0x7107, 0x11, 0x11, .u32, .rwd, 0x13880, .no⟩,
  ⟨0x7100, 0x7107, 0x12, 0x12, .u16, .rwd, 0x3c, .no⟩,
  ⟨0x7100, 0x7107, 0x13, 0x13, .u8, .rwd, 2, .no⟩]

/-- Objects 0x7100 to 0x801F. -/
def objRows7 : List ObjRow := [
  ⟨0x7100, 0x7107, 0x14, 0x14, .enum, .rwd, 0, .no⟩,
  ⟨0x7100, 0x7107, 0x15, 0x15, .u8, .rwd, 0, .no⟩,
  ⟨0x7100, 0x7107, 0x16, 0x16, .addr, .rwd, 0, .no⟩,
  ⟨0x7100, 0x7107, 0x17, 0x17, .u64, .rwd, 0, .no⟩,
  ⟨0x7200, 0x720F, 0x01, 0x01, .bool, .rw, 0, .no⟩,
  ⟨0x7200, 0x720F, 0x02, 0x02, .u8, .rwd, 0, .no⟩,
  ⟨0x7200, 0x720F, 0x03, 0x03, .addr, .rwd, 0, .no⟩,
  ⟨0x7200, 0x720F, 0x04, 0x04, .u16, .rwd, 0x10, .no⟩,
  ⟨0x7200, 0x720F, 0x05, 0x05, .u32, .rwd, 0, .no⟩,
  ⟨0x7200, 0x720F, 0x06, 0x06, .u32, .ro, 0, .no⟩,
  ⟨0x7200, 0x720F, 0x07, 0x07, .addr, .rwd, 0, .no⟩,
  ⟨0x7200, 0x720F, 0x08, 0x08, .u16, .rwd, 0x40, .no⟩,
  ⟨0x7200, 0x720F, 0x09, 0x09, .u32, .rw, 0, .no⟩,
  ⟨0x7200, 0x720F, 0x0A, 0x0A, .u16, .rwd, 0, .no⟩,
  ⟨0x7200, 0x720F, 0x0B, 0x0B, .u32, .rwd, 0, .no⟩,
  ⟨0x7200, 0x720F, 0x0C, 0x0C, .enum, .rwd, 0, .no⟩,
  ⟨0x7200, 0x720F, 0x0D, 0x0D, .enum, .rwd, 1, .no⟩,
  ⟨0x7200, 0x720F, 0x0E, 0x0E, .u8, .rwd, 0x3e, .no⟩,
  ⟨0x8000, 0x800F, 0x01, 0x01, .bool, .ro, 0, .only⟩,
  ⟨0x8010, 0x801F, 0x01, 0x01, .u64, .ro, 0, .no⟩,
  ⟨0x8010, 0x801F, 0x02, 0x02, .u64, .ro, 0, .no⟩,
  ⟨0x8010, 0x801F, 0x03, 0x03, .u64, .ro, 0, .no⟩,
  ⟨0x8010, 0x801F, 0x04, 0x04, .u64, .ro, 0, .no⟩,
  ⟨0x8010, 0x801F, 0x05, 0x05, .u64, .ro, 0, .no⟩]

/-- Objects 0x8010 to 0x810F. -/
def objRows8 : List ObjRow := [
  ⟨0x8010, 0x801F, 0x06, 0x06, .u64, .ro, 0, .no⟩,
  ⟨0x8010, 0x801F, 0x07, 0x07, .u64, .ro, 0, .no⟩,
  ⟨0x8010, 0x801F, 0x08, 0x08, .u64, .ro, 0, .no⟩,
  ⟨0x8020, 0x8037, 0x01, 0x01, .u64, .ro, 0, .no⟩,
  ⟨0x8020, 0x8037, 0x02, 0x02, .u64, .ro, 0, .no⟩,
  ⟨0x8020, 0x8037, 0x03, 0x03, .u64, .ro, 0, .no⟩,
  ⟨0x8020, 0x8037, 0x04, 0x04, .u64, .ro, 0, .no⟩,
  ⟨0x8040, 0x8040, 0x01, 0x40, .u64, .ro, 0, .no⟩,
  ⟨0x8041, 0x8041, 0x01, 0x40, .u64, .ro, 0, .no⟩,
  ⟨0x8042, 0x8042, 0x01, 0x40, .u64, .ro, 0, .no⟩,
  ⟨0x8043, 0x8043, 0x01, 0x40, .u64, .ro, 0, .no⟩,
  ⟨0x8044, 0x8044, 0x01, 0x40, .u64, .ro, 0, .no⟩,
  ⟨0x8050, 0x805F, 0x01, 0x01, .u64, .ro, 0, .no⟩,
  ⟨0x8050, 0x805F, 0x02, 0x02, .u64, .ro, 0, .no⟩,
  ⟨0x8050, 0x805F, 0x03, 0x03, .u64, .ro, 0, .no⟩,
  ⟨0x8050, 0x805F, 0x04, 0x04, .u64, .ro, 0, .no⟩,
  ⟨0x8050, 0x805F, 0x05, 0x05, .u64, .ro, 0, .no⟩,
  ⟨0x8060, 0x8060, 0x01, 0x18, .u64, .ro, 0, .no⟩,
  ⟨0x8061, 0x8061, 0x01, 0x18, .u64, .ro, 0, .no⟩,
  ⟨0x8100, 0x810F, 0x01, 0x01, .bool, .rws, 0, .yes⟩,
  ⟨0x8100, 0x810F, 0x02, 0x02, .bits, .rws, 0x70, .yes⟩,
  ⟨0x8100, 0x810F, 0x03, 0x03, .bits, .rws, 1, .yes⟩,
  ⟨0x8100, 0x810F, 0x04, 0x04, .u8, .rws, 0x32, .yes⟩,
  ⟨0x8100, 0x810F, 0x05, 0x05, .u32, .rws, 0, .yes⟩]

/-- Objects 0x8100 to 0x840F. -/
def objRows9 : List ObjRow := [
  ⟨0x8100, 0x810F, 0x06, 0x06, .u8, .rwd, 0xff, .no⟩,
  ⟨0x8100, 0x810F, 0x07, 0x07, .bool, .wo, 0, .no⟩,
  ⟨0x8100, 0x810F, 0x08, 0x08, .bool, .wo, 0, .no⟩,
  ⟨0x8100, 0x810F, 0x09, 0x09, .enum, .ro, 0, .no⟩,
  ⟨0x8100, 0x810F, 0x0A, 0x0A, .u64, .ro, 0, .no⟩,
  ⟨0x8110, 0x8110, 0x01, 0x01, .u8, .rwd, 0xff, .no⟩,
  ⟨0x8120, 0x8120, 0x01, 0x01, .blob, .ro, 0, .no⟩,
  ⟨0x8120, 0x8120, 0x02, 0x02, .blob, .ro, 0, .no⟩,
  ⟨0x8120, 0x8120, 0x03, 0x03, .bool, .wo, 0, .no⟩,
  ⟨0x8120, 0x8120, 0x04, 0x04, .u32, .ro, 0, .no⟩,
  ⟨0x8130, 0x813F, 0x01, 0x01, .enum, .rw, 0, .no⟩,
  ⟨0x8130, 0x813F, 0x02, 0x02, .u32, .rw, 0, .no⟩,
  ⟨0x8130, 0x813F, 0x03, 0x03, .u16, .rw, 0, .no⟩,
  ⟨0x8130, 0x813F, 0x04, 0x04, .u32, .rw, 0, .no⟩,
  ⟨0x8130, 0x813F, 0x05, 0x05, .u16, .rw, 0, .no⟩,
  ⟨0x8130, 0x813F, 0x06, 0x06, .u32, .rw, 0, .no⟩,
  ⟨0x8130, 0x813F, 0x07, 0x07, .bool, .wo, 0, .no⟩,
  ⟨0x8130, 0x813F, 0x08, 0x08, .enum, .ro, 0, .no⟩,
  ⟨0x8130, 0x813F, 0x09, 0x09, .u8, .wo, 0, .no⟩,
  ⟨0x8130, 0x813F, 0x0A, 0x0A, .u16, .ro, 0, .no⟩,
  ⟨0x8130, 0x813F, 0x0B, 0x0B, .u32, .ro, 0, .no⟩,
  ⟨0x8140, 0x8140, 0x01, 0x01, .u16, .wo, 0, .no⟩,
  ⟨0x8400, 0x840F, 0x01, 0x01, .u64, .ro, 0, .no⟩,
  ⟨0x8400, 0x840F, 0x02, 0x02, .u64, .ro, 0, .no⟩]

/-- Objects 0x8400 to 0x8E00. -/
def objRows10 : List ObjRow := [
  ⟨0x8400, 0x840F, 0x03, 0x03, .u64, .ro, 0, .no⟩,
  ⟨0x8400, 0x840F, 0x04, 0x04, .u64, .ro, 0, .no⟩,
  ⟨0x8400, 0x840F, 0x05, 0x05, .u64, .ro, 0, .no⟩,
  ⟨0x8400, 0x840F, 0x06, 0x06, .u64, .ro, 0, .no⟩,
  ⟨0x8400, 0x840F, 0x07, 0x07, .u64, .ro, 0, .no⟩,
  ⟨0x8400, 0x840F, 0x08, 0x08, .u64, .ro, 0, .no⟩,
  ⟨0x8400, 0x840F, 0x09, 0x09, .u64, .ro, 0, .no⟩,
  ⟨0x8500, 0x873F, 0x01, 0x05, .u64, .ro, 0, .no⟩,
  ⟨0x8500, 0x873F, 0x06, 0x06, .u64, .ro, 0, .no⟩,
  ⟨0x8500, 0x873F, 0x07, 0x07, .u64, .ro, 0, .no⟩,
  ⟨0x8500, 0x873F, 0x08, 0x08, .u64, .ro, 0, .no⟩,
  ⟨0x8500, 0x873F, 0x09, 0x09, .u64, .ro, 0, .no⟩,
  ⟨0x8500, 0x873F, 0x0A, 0x0A, .u64, .ro, 0, .no⟩,
  ⟨0x8500, 0x873F, 0x0B, 0x0B, .u64, .ro, 0, .no⟩,
  ⟨0x8800, 0x89FF, 0x01, 0x08, .u64, .rw, 0, .no⟩,
  ⟨0x8800, 0x89FF, 0x09, 0x0C, .u32, .rw, 0, .no⟩,
  ⟨0x8800, 0x89FF, 0x0D, 0x0D, .enum, .ro, 0, .no⟩,
  ⟨0x8800, 0x89FF, 0x0E, 0x0E, .u8, .ro, 0, .no⟩,
  ⟨0x8800, 0x89FF, 0x0F, 0x0F, .u8, .wo, 0, .no⟩,
  ⟨0x8800, 0x89FF, 0x10, 0x10, .u8, .rw, 1, .no⟩,
  ⟨0x8E00, 0x8E00, 0x01, 0x01, .u64, .rw, 0, .no⟩,
  ⟨0x8E00, 0x8E00, 0x02, 0x02, .u16, .rw, 0x10, .no⟩,
  ⟨0x8E00, 0x8E00, 0x03, 0x03, .blob, .ro, 0, .no⟩,
  ⟨0x8E00, 0x8E00, 0x04, 0x04, .u32, .ro, 0, .no⟩]

/-- Objects 0x8E10 to 0x9140. -/
def objRows11 : List ObjRow := [
  ⟨0x8E10, 0x8E10, 0x01, 0x01, .f32, .ro, 0, .no⟩,
  ⟨0x8E10, 0x8E10, 0x02, 0x02, .f32, .ro, 0, .no⟩,
  ⟨0x8E10, 0x8E10, 0x03, 0x03, .f32, .ro, 0, .no⟩,
  ⟨0x8E10, 0x8E10, 0x04, 0x04, .f32, .ro, 0, .no⟩,
  ⟨0x8E10, 0x8E10, 0x05, 0x05, .f32, .ro, 0, .no⟩,
  ⟨0x8E10, 0x8E10, 0x06, 0x06, .f32, .ro, 0, .no⟩,
  ⟨0x8E10, 0x8E10, 0x07, 0x07, .bool, .ro, 0, .no⟩,
  ⟨0x8E10, 0x8E10, 0x08, 0x08, .bool, .ro, 0, .no⟩,
  ⟨0x8F00, 0x8F00, 0x01, 0x01, .u64, .ro, 0, .no⟩,
  ⟨0x9000, 0x9000, 0x01, 0x01, .addr, .rwd, 0, .no⟩,
  ⟨0x9000, 0x9000, 0x02, 0x02, .u32, .rwd, 0x1000, .no⟩,
  ⟨0x9000, 0x9000, 0x03, 0x03, .u32, .rw, 0, .no⟩,
  ⟨0x9000, 0x9000, 0x04, 0x04, .u32, .ro, 0, .no⟩,
  ⟨0x9000, 0x9000, 0x05, 0x05, .u16, .rwd, 0xffff, .no⟩,
  ⟨0x9000, 0x9000, 0x06, 0x06, .u64, .ro, 0, .no⟩,
  ⟨0x9001, 0x9001, 0x01, 0x01, .blob, .ro, 0, .no⟩,
  ⟨0x9002, 0x9002, 0x01, 0x17, .u64, .ro, 0, .no⟩,
  ⟨0x9100, 0x910F, 0x01, 0x04, .u32, .ro, 0x76543210, .no⟩,
  ⟨0x9120, 0x912F, 0x01, 0x24, .bits, .ro, 0, .no⟩,
  ⟨0x9130, 0x913F, 0x01, 0x04, .bool, .ro, 0, .only⟩,
  ⟨0x9140, 0x9140, 0x01, 0x01, .u16, .wo, 0, .no⟩,
  ⟨0x9140, 0x9140, 0x02, 0x02, .u16, .wo, 0, .no⟩,
  ⟨0x9140, 0x9140, 0x03, 0x03, .u32, .rwd, 0x100, .no⟩,
  ⟨0x9140, 0x9140, 0x04, 0x04, .blob, .ro, 0, .no⟩]

/-- Objects 0x9150 to 0xB000. -/
def objRows12 : List ObjRow := [
  ⟨0x9150, 0x915F, 0x01, 0x01, .bits, .ro, 0, .no⟩,
  ⟨0x9160, 0x9160, 0x01, 0x01, .bits, .ro, 0, .no⟩,
  ⟨0x9200, 0x9200, 0x01, 0x01, .enum, .ro, 0, .no⟩,
  ⟨0x9200, 0x9200, 0x02, 0x02, .u16, .ro, 0, .no⟩,
  ⟨0x9200, 0x9200, 0x03, 0x03, .bits, .ro, 0, .no⟩,
  ⟨0x9200, 0x9200, 0x04, 0x04, .enum, .ro, 0, .no⟩,
  ⟨0x9200, 0x9200, 0x05, 0x05, .time64, .ro, 0, .no⟩,
  ⟨0x9210, 0x9210, 0x01, 0x40, .enum, .ro, 0, .no⟩,
  ⟨0xA000, 0xA000, 0x01, 0x01, .bits, .ro, 0, .no⟩,
  ⟨0xA000, 0xA000, 0x02, 0x02, .blob, .ro, 0, .no⟩,
  ⟨0xA000, 0xA000, 0x03, 0x03, .u8, .ro, 0, .no⟩,
  ⟨0xA000, 0xA000, 0x04, 0x04, .bool, .wo, 0, .no⟩,
  ⟨0xA000, 0xA000, 0x05, 0x05, .enum, .ro, 0, .no⟩,
  ⟨0xA010, 0xA010, 0x01, 0x01, .blob, .wo, 0, .no⟩,
  ⟨0xA010, 0xA010, 0x02, 0x02, .enum, .ro, 0, .no⟩,
  ⟨0xA020, 0xA020, 0x01, 0x01, .blob, .rw, 0, .no⟩,
  ⟨0xA020, 0xA020, 0x02, 0x02, .blob, .ro, 0, .no⟩,
  ⟨0xA020, 0xA020, 0x03, 0x03, .blob, .rw, 0, .no⟩,
  ⟨0xA030, 0xA030, 0x01, 0x01, .u8, .ro, 0, .no⟩,
  ⟨0xA100, 0xA100, 0x01, 0x01, .enum, .wo, 0, .no⟩,
  ⟨0xA100, 0xA100, 0x02, 0x02, .blob, .rw, 0, .no⟩,
  ⟨0xA100, 0xA100, 0x03, 0x03, .blob, .ro, 0, .no⟩,
  ⟨0xA100, 0xA100, 0x04, 0x04, .u8, .ro, 0, .no⟩,
  ⟨0xB000, 0xB000, 0x01, 0x01, .enum, .ro, 0, .no⟩]

/-- Objects 0xB000 to 0xB300. -/
def objRows13 : List ObjRow := [
  ⟨0xB000, 0xB000, 0x02, 0x02, .bits, .ro, 0, .no⟩,
  ⟨0xB000, 0xB000, 0x03, 0x03, .bits, .ro, 0, .no⟩,
  ⟨0xB000, 0xB000, 0x04, 0x04, .u32, .ro, 0, .no⟩,
  ⟨0xB010, 0xB010, 0x01, 0x01, .u16, .wo, 0, .no⟩,
  ⟨0xB010, 0xB010, 0x02, 0x02, .enum, .ro, 0, .no⟩,
  ⟨0xB0F0, 0xB0F0, 0x01, 0x01, .bool, .wo, 0, .no⟩,
  ⟨0xB0F0, 0xB0F0, 0x02, 0x02, .bool, .wo, 0, .no⟩,
  ⟨0xB0F0, 0xB0F0, 0x03, 0x03, .bool, .wo, 0, .no⟩,
  ⟨0xB0F0, 0xB0F0, 0x04, 0x04, .enum, .ro, 0, .no⟩,
  ⟨0xB0F0, 0xB0F0, 0x05, 0x05, .bool, .rw, 0, .no⟩,
  ⟨0xB0F0, 0xB0F0, 0x06, 0x06, .time64, .ro, 0, .no⟩,
  ⟨0xB100, 0xB17F, 0x01, 0x01, .u64, .ro, 0, .no⟩,
  ⟨0xB100, 0xB17F, 0x02, 0x02, .u64, .ro, 0, .no⟩,
  ⟨0xB100, 0xB17F, 0x03, 0x03, .enum, .ro, 0, .no⟩,
  ⟨0xB100, 0xB17F, 0x04, 0x04, .time64, .ro, 0, .no⟩,
  ⟨0xB200, 0xB200, 0x01, 0x01, .blob, .rw, 0, .no⟩,
  ⟨0xB200, 0xB200, 0x02, 0x02, .u16, .wo, 0, .no⟩,
  ⟨0xB200, 0xB200, 0x03, 0x03, .blob, .ro, 0, .no⟩,
  ⟨0xB300, 0xB300, 0x01, 0x04, .time64, .rw, 0, .no⟩,
  ⟨0xB300, 0xB300, 0x05, 0x05, .f32, .rw, 0x42700000, .no⟩,
  ⟨0xB300, 0xB300, 0x06, 0x06, .f32, .rw, 0x42200000, .no⟩,
  ⟨0xB300, 0xB300, 0x07, 0x07, .f32, .rw, 0x3f000000, .no⟩,
  ⟨0xB300, 0xB300, 0x08, 0x08, .bits, .rw, 0x8f, .no⟩,
  ⟨0xB300, 0xB300, 0x09, 0x09, .bits, .rw, 0x50, .no⟩]

/-- Objects 0xB300 to 0xCFFF. -/
def objRows14 : List ObjRow := [
  ⟨0xB300, 0xB300, 0x0A, 0x0A, .bits, .ro, 0, .no⟩,
  ⟨0xC000, 0xCFFF, 0x01, 0x01, .bool, .rw, 0, .no⟩,
  ⟨0xC000, 0xCFFF, 0x02, 0x02, .u8, .rwd, 0, .no⟩,
  ⟨0xC000, 0xCFFF, 0x03, 0x03, .enum, .rwd, 0, .no⟩,
  ⟨0xC000, 0xCFFF, 0x04, 0x04, .addr, .rwd, 0, .no⟩,
  ⟨0xC000, 0xCFFF, 0x05, 0x05, .u16, .rwd, 0x10, .no⟩,
  ⟨0xC000, 0xCFFF, 0x06, 0x06, .u32, .rwd, 0, .no⟩,
  ⟨0xC000, 0xCFFF, 0x07, 0x07, .u32, .ro, 0, .no⟩,
  ⟨0xC000, 0xCFFF, 0x08, 0x08, .addr, .rwd, 0, .no⟩,
  ⟨0xC000, 0xCFFF, 0x09, 0x09, .u16, .rwd, 0x40, .no⟩,
  ⟨0xC000, 0xCFFF, 0x0A, 0x0A, .u32, .rw, 0, .no⟩,
  ⟨0xC000, 0xCFFF, 0x0B, 0x0B, .u16, .rwd, 0, .no⟩,
  ⟨0xC000, 0xCFFF, 0x0C, 0x0C, .u8, .rwd, 0, .no⟩,
  ⟨0xC000, 0xCFFF, 0x0D, 0x0D, .enum, .rwd, 0, .no⟩,
  ⟨0xC000, 0xCFFF, 0x0E, 0x0E, .bool, .rwd, 0, .no⟩,
  ⟨0xC000, 0xCFFF, 0x0F, 0x0F, .u64, .ro, 0, .no⟩,
  ⟨0xC000, 0xCFFF, 0x10, 0x10, .u64, .ro, 0, .no⟩,
  ⟨0xC000, 0xCFFF, 0x11, 0x11, .u64, .ro, 0, .no⟩,
  ⟨0xC000, 0xCFFF, 0x12, 0x12, .u64, .ro, 0, .no⟩,
  ⟨0xC000, 0xCFFF, 0x13, 0x13, .u64, .ro, 0, .no⟩]

/-- Every object row. -/
def objRows : List ObjRow :=
  objRows0 ++ objRows1 ++ objRows2 ++ objRows3 ++ objRows4 ++ objRows5 ++ objRows6 ++ objRows7 ++ objRows8 ++ objRows9 ++ objRows10 ++ objRows11 ++ objRows12 ++ objRows13 ++ objRows14

/-- The row of an object and subindex. -/
def objRow (o sub : Nat) : Option ObjRow :=
  (objRows.find? fun r => r.lo ≤ o && o ≤ r.hi && r.sub0 ≤ sub && sub ≤ r.sub1)

/-- The key of an object and subindex in the dictionary tables. -/
def objKey (o sub : Nat) : Nat := o * 256 + sub

/-- The default value of a key (the tables' Default column). -/
def objDefault (k : Nat) : Nat := ((objRow (k / 256) (k % 256)).map ObjRow.dflt).getD 0

end Sys2Proof.Machine
end

