-- ==== Sys2Proof/Machine/Flags.lean ====
section
/-! DEFINITION. The 72/64 code (02_numerics.md R99 to R104, R653), memories of bytes protected by it, and the
residue check of a reduction adder (R97, R98). A memory holds the bytes that were written and, for each 64-bit
word that is not a valid codeword of its bytes, the exclusive-or of the stored word and that codeword: the code is
linear, so the syndrome of the stored word is the syndrome of that mask. -/

namespace Sys2Proof.Machine

/-- The columns h(0) to h(71) of Table 2-4. -/
def eccColumns : List Nat :=
  [0x51, 0x57, 0x15, 0x75, 0x52, 0x54, 0x25, 0x45, 0x58, 0x5E, 0x85, 0xE5, 0x5B, 0x5D, 0xB5, 0xD5] ++
  [0x61, 0x64, 0x16, 0x46, 0x62, 0x67, 0x26, 0x76, 0x68, 0x6D, 0x86, 0xD6, 0x6B, 0x6E, 0xB6, 0xE6] ++
  [0x91, 0x9B, 0x19, 0xB9, 0x92, 0x98, 0x29, 0x89, 0x94, 0x9E, 0x49, 0xE9, 0x97, 0x9D, 0x79, 0xD9] ++
  [0xA1, 0xA8, 0x1A, 0x8A, 0xA2, 0xAB, 0x2A, 0xBA, 0xA4, 0xAD, 0x4A, 0xDA, 0xA7, 0xAE, 0x7A, 0xEA] ++
  [0x01, 0x02, 0x10, 0x20, 0x04, 0x08, 0x40, 0x80]

/-- The column h(b). -/
def eccColumn (b : Nat) : Nat := eccColumns.getD b 0

/-- The exclusive-or of the columns of the bits set in `w`, over the bits from `b` on. -/
def syndromeFrom (w : Nat) : Nat → List Nat → Nat
  | _, [] => 0
  | b, h :: t => (if w.testBit b then h else 0) ^^^ syndromeFrom w (b + 1) t

/-- The syndrome of a 72-bit word (R99). -/
def syndrome (w : CodeWord) : Nat := syndromeFrom w.toNat 0 eccColumns

/-- The codeword bit whose column is the single bit `j` (Table 2-4, nibbles 16 and 17). -/
def checkBitOf (j : Nat) : Nat := ([64, 65, 68, 69, 66, 67, 70, 71] : List Nat).getD j 64

/-- The codeword of a 64-bit data word: each check bit makes the syndrome zero (R100). -/
def eccEncode (d : BitVec 64) : CodeWord :=
  let s := syndromeFrom d.toNat 0 (eccColumns.take 64)
  BitVec.ofNat 72 ((List.range 8).foldl (fun a j => if s.testBit j then a ||| 2 ^ checkBitOf j else a) d.toNat)

/-- What a checker says of a word (R101). -/
inductive Check where
  | clean
  | correctable (b : Nat)
  | uncorrectable
deriving DecidableEq, Repr

/-- The classification of a syndrome (R101). -/
def classify (s : Nat) : Check :=
  if s = 0 then .clean
  else match findIdx (· == s) eccColumns with
    | some (b, _) => .correctable b
    | none => .uncorrectable

/-- The check of a 72-bit word. -/
def eccCheck (w : CodeWord) : Check := classify (syndrome w)

/-- The word with a correctable error inverted back (R101). -/
def eccCorrect (w : CodeWord) : CodeWord :=
  match eccCheck w with
  | .correctable b => w ^^^ BitVec.ofNat 72 (2 ^ b)
  | _ => w

/-- The data bits of a codeword. -/
def codeData (w : CodeWord) : BitVec 64 := w.extractLsb' 0 64

/-- A word of zero data with every check bit 1, uncorrectable (R625, R653): syndrome 0xFF. -/
def poisonMask : CodeWord := BitVec.ofNat 72 (0xFF * 2 ^ 64)

/-- A memory of bytes under the 72/64 code. -/
structure Ram where
  /-- Bytes by address; an unlisted byte is 0. -/
  bytes : List Host.Cell
  /-- Error masks by word number (address / 8); an unlisted word is a valid codeword of its bytes. -/
  errs : List (Nat × CodeWord)
deriving DecidableEq, Repr

/-- The memory after it has been zeroed with valid check bits (R545, R558, R657). -/
def Ram.empty : Ram := ⟨[], []⟩

/-- The canonical form of a memory. -/
def Ram.wf (r : Ram) : Bool := tabWf (0 : Byte) r.bytes && tabWf (0 : CodeWord) r.errs

/-- One byte as it was written. -/
def Ram.read1 (r : Ram) (a : Nat) : Byte := tabGet 0 r.bytes a

/-- The error mask of word `w`. -/
def Ram.mask (r : Ram) (w : Nat) : CodeWord := tabGet 0 r.errs w

/-- The memory after one byte is written; check bits are not touched. -/
def Ram.write1 (r : Ram) (a : Nat) (b : Byte) : Ram := { r with bytes := tabSet 0 r.bytes a b }

/-- The memory after the error mask of word `w` is set. -/
def Ram.setMask (r : Ram) (w : Nat) (m : CodeWord) : Ram := { r with errs := tabSet 0 r.errs w m }

/-- Bytes as written, `n` of them from address `a`. -/
def Ram.readRaw (r : Ram) (a n : Nat) : List Byte := (rangeFrom a n).map r.read1

/-- The 72-bit word stored as word `w`. -/
def Ram.codeWord (r : Ram) (w : Nat) : CodeWord :=
  eccEncode (BitVec.ofNat 64 (leNat (r.readRaw (8 * w) 8))) ^^^ r.mask w

/-- Bytes written one after another from address `a`. -/
def Ram.writeRaw (r : Ram) : Nat → List Byte → Ram
  | _, [] => r
  | a, b :: t => Ram.writeRaw (r.write1 a b) (a + 1) t

/-- Word `w` stored whole as the 72-bit word `c`, its check bits kept (R103). -/
def Ram.storeCode (r : Ram) (w : Nat) (c : CodeWord) : Ram :=
  let d := codeData c
  (r.writeRaw (8 * w) (leBytes 8 d.toNat)).setMask w (c ^^^ eccEncode d)

/-- What reading word `w` through a checker gives: the eight data bytes the consumer uses, and the check (R104).
A corrected word gives its corrected data, an uncorrectable one its stored data. -/
def Ram.checkWord (r : Ram) (w : Nat) : List Byte × Check :=
  let m := r.mask w
  if m = 0 then (r.readRaw (8 * w) 8, .clean)
  else
    let c := r.codeWord w
    (leBytes 8 (codeData (eccCorrect c)).toNat, eccCheck c)

/-- The numbers of the words that the `n` bytes from `a` touch. -/
def wordsOf (a n : Nat) : List Nat := if n = 0 then [] else rangeFrom (a / 8) ((a + n - 1) / 8 + 1 - a / 8)

/-- What a consumer sees of a range of bytes. -/
structure Fetched where
  bytes : List Byte
  /-- Words corrected, by word number. -/
  ce : List Nat
  /-- Words found uncorrectable, by word number. -/
  ue : List Nat
deriving DecidableEq, Repr

/-- The checks of the words of a range, in ascending order. -/
def Ram.checks (r : Ram) (a n : Nat) : List (Nat × List Byte × Check) :=
  (wordsOf a n).map fun w => (w, r.checkWord w)

/-- `n` bytes from address `a` read by a consumer, every touched word checked (R104). -/
def Ram.fetch (r : Ram) (a n : Nat) : Fetched :=
  let cs := r.checks a n
  { bytes := ((cs.flatMap fun c => c.2.1).drop (a % 8)).take n
    ce := (cs.filter fun c => match c.2.2 with | .correctable _ => true | _ => false).map (·.1)
    ue := (cs.filter fun c => decide (c.2.2 = .uncorrectable)).map (·.1) }

/-- One word merged by the unit that holds it (R653): the stored word is checked and corrected, the bytes selected
by `f` replaced, and check bits encoded anew; over an uncorrectable word, or with bytes taken from one, the new
check bits are inverted. -/
def Ram.mergeWord (r : Ram) (w : Nat) (f : Nat → Option Byte) (poisoned : Bool) : Ram :=
  let (old, ck) := r.checkWord w
  let new := (List.range 8).map fun i => (f i).getD (old.getD i 0)
  let bad := decide (ck = .uncorrectable) || poisoned
  (r.writeRaw (8 * w) new).setMask w (if bad then poisonMask else 0)

/-- A write of bytes with valid check bits from their producer: whole words are stored clean, words covered in
part are merged (R653). -/
def Ram.write (r : Ram) (a : Nat) (d : List Byte) : Ram :=
  (wordsOf a d.length).foldl (fun r w =>
    if a ≤ 8 * w ∧ 8 * w + 8 ≤ a + d.length then
      (r.writeRaw (8 * w) ((d.drop (8 * w - a)).take 8)).setMask w 0
    else r.mergeWord w (fun i => if a ≤ 8 * w + i then d[8 * w + i - a]? else none) false) r

/-- True when the stored word would be found uncorrectable. -/
def Ram.bad (r : Ram) (w : Nat) : Bool := decide ((r.checkWord w).2 = .uncorrectable)

/-- The words found uncorrectable in a range. -/
def Ram.badWords (r : Ram) (a n : Nat) : List Nat := (wordsOf a n).filter r.bad

/-- The words of a range that a write to it covers only in part: those the holder merges (R653). -/
def partWords (a n : Nat) : List Nat :=
  (wordsOf a n).filter fun w => !(decide (a ≤ 8 * w) && decide (8 * w + 8 ≤ a + n))

/-- What the merges of a write to a range meet: the numbers of stored words corrected and found uncorrectable (R653). -/
def Ram.mergeErrs (r : Ram) (a n : Nat) : Nat × Nat :=
  let cs := (partWords a n).map fun w => (r.checkWord w).2
  ((cs.filter fun c => match c with | .correctable _ => true | _ => false).length,
    (cs.filter fun c => decide (c = .uncorrectable)).length)

/-- A copy of `n` bytes from one memory to another that keeps each word's check bits (R103): where source and
destination words coincide the 72-bit word travels whole; a word covered in part is merged (R653), and a word built of
bytes of an uncorrectable one is stored uncorrectable (DEDUCED: log entry 12). -/
def Ram.copy (src dst : Ram) (a b n : Nat) : Ram :=
  (wordsOf b n).foldl (fun r w =>
    if b ≤ 8 * w ∧ 8 * w + 8 ≤ b + n ∧ a % 8 = b % 8 then
      r.storeCode w (src.codeWord ((8 * w - b + a) / 8))
    else
      let lo := max b (8 * w)
      let hi := min (b + n) (8 * w + 8)
      let f := src.fetch (lo - b + a) (hi - lo)
      if hi - lo = 8 then (r.writeRaw (8 * w) f.bytes).setMask w (if f.ue = [] then 0 else poisonMask)
      else r.mergeWord w (fun i => if lo ≤ 8 * w + i ∧ 8 * w + i < hi then f.bytes[8 * w + i - lo]? else none)
        (decide (f.ue ≠ []))) dst

/-- The words of a memory image from word `w` on, check bits kept. -/
def Ram.words (r : Ram) (w n : Nat) : List CodeWord := (rangeFrom w n).map r.codeWord

/-- Words stored from word `w` on, check bits kept (R103). -/
def Ram.putWords (r : Ram) (w : Nat) (ws : List CodeWord) : Ram :=
  ws.zipIdx.foldl (fun r x => r.storeCode (w + x.2) x.1) r

/-- A range zeroed with valid check bits (R545). -/
def Ram.zero (r : Ram) (a n : Nat) : Ram :=
  ⟨tabClear r.bytes a (a + n), tabClear r.errs (a / 8) ((a + n) / 8)⟩

/-- The range of a memory alone, as a memory of the same addresses. -/
def Ram.restrict (r : Ram) (a n : Nat) : Ram :=
  ⟨r.bytes.filter (fun e => a ≤ e.1 && e.1 < a + n), r.errs.filter (fun e => a / 8 ≤ e.1 && e.1 < (a + n) / 8)⟩

/-- The residue modulo 15 of a significand, as a reduction adder takes it (02_numerics.md, Residue checking). -/
def residue15 (n : Nat) : Nat := n % 15

end Sys2Proof.Machine

namespace Sys2Proof

open Machine

/-- Before normalisation: the residue of the raw sum against the sum or difference of the operands' residues (R97). -/
def AdderCheck.rawOk (x : AdderCheck) : Bool :=
  let r := if x.differ then residue15 x.a + 15 - residue15 x.b else residue15 x.a + residue15 x.b
  residue15 x.raw == residue15 r

/-- Over the normalising shift and the rounding increment: the raw sum is the rounded significand less the increment, moved
back, with the bits that were dropped (R97). -/
def AdderCheck.roundOk (x : AdderCheck) : Bool :=
  let kept := residue15 x.rounded + 15 - residue15 x.inc
  if x.up then residue15 kept == residue15 (residue15 x.raw * residue15 (2 ^ x.shift))
  else residue15 x.raw == residue15 (residue15 kept * residue15 (2 ^ x.shift) + residue15 x.dropped)

/-- The verdict on one addition: both residue comparisons, and the two copies of the exponent logic agree (R97). -/
def AdderCheck.clean (x : AdderCheck) : Bool := x.rawOk && x.roundOk && x.exp0 == x.exp1

/-- The checks of an adder's additions from what its checkers saw, one entry an addition in each list (R97). -/
def adderChecks (operands : List (Bool × Nat × Nat)) (raws : List Nat) (shifts : List (Bool × Nat × Nat))
    (rounds exps : List (Nat × Nat)) : List AdderCheck :=
  (List.range operands.length).map fun k =>
    let o := operands.getD k (false, 0, 0)
    let h := shifts.getD k (false, 0, 0)
    let r := rounds.getD k (0, 0)
    let e := exps.getD k (0, 0)
    ⟨o.1, o.2.1, o.2.2, raws.getD k 0, h.1, h.2.1, h.2.2, r.1, r.2, e.1, e.2⟩

end Sys2Proof
end

