-- ==== Sys2Proof/Config.lean ====
section
/-! DEFINITION. What the specification leaves open: constants without a body. A statement holds whatever they are.
The assumption log says which rule leaves each of them open. -/

namespace Sys2Proof.Config

/-- Coefficient `i` (0 to 3) of entry `s` of the default coefficient set (R654: normative, not reprinted). -/
opaque defaultCoef : Nat → Nat → BitVec 32

/-- The bits the PHV-1604 special-function unit returns for function `func` at an FP32 input (R262); output 0, and
output 1 for the cosine of SINCOS. -/
opaque phv1604 : Nat → Nat → BitVec 32 → BitVec 32

/-- The result of a built-in function at the closed end of a negative region, which no rule states (Table 7-1:
SIGMOID, SILU and SOFTPLUS at -32, both GELU forms at -8). -/
opaque sfnRegionEnd : Nat → BitVec 32

/-- Element `k` of a vector destination that has more elements than there are results, an FP32 encoding: a function of the
results (R105). No rule states it. -/
opaque unfilled : List Nat → Nat → BitVec 32

/-- The FP32 value that the vector engine reads from a RAW element, and the byte it writes for an FP32 value to a RAW
destination: no rule states them. -/
opaque rawElem : Nat → BitVec 32
opaque rawByte : Nat → BitVec 8

/-- A group result whose sum is zero and whose u is infinite, or the other way round: R79 states no product. -/
opaque noProduct : Nat → Nat → BitVec 32

/-- The contents of the enlarger's tap table (R656: normative, not reprinted), by byte. -/
opaque enlargerTap : Nat → BitVec 8

/-- The expected signature of test-strip region `r` under firmware version `v`, which the manual does not print (R543). -/
opaque expectedSignature : Nat → Nat → BitVec 64

/-- The static I3C address that the module-ID straps give (R504: the rule is not stated). -/
opaque i3cStatic : Nat → BitVec 7

/-- Fresh values drawn one after another (nonces, keys, coded bits): value `n` of purpose `tag`, byte `i`. -/
opaque freeByte : Nat → Nat → Nat → BitVec 8

/-- A fresh number of 64 bits: value `n` of purpose `tag`. -/
opaque freeWord : Nat → Nat → BitVec 64

/-- A fresh choice: value `n` of purpose `tag`. -/
opaque freeBool : Nat → Nat → Bool

/-- The product of a signing operation of the security engine with a private key over a message digest, byte `i`, and byte `i` of
the modulus of a private key: the padding's salt and the prime numbers are the engine's own (R572, R574). -/
opaque signByte : List Byte → List Byte → Nat → BitVec 8
opaque modulusByte : List Byte → Nat → BitVec 8

/-- Byte `i` of the private key made before a module left manufacture, and of `lc_nonce` as it stands then (R572, R582). -/
opaque factoryKey : Nat → BitVec 8
opaque factoryNonce : Nat → BitVec 8

/-- True when a signature verifies over a digest under the key of the last certificate of a chain: the encoding of certificates is
that of X.509, which the manual names and does not restate (R573, R577). -/
opaque verifies : List Byte → List Byte → List Byte → Bool

/-- The bytes of the hash of root key `slot` held in fuses (18_security.md: fixed in manufacture). -/
opaque rootKeyHash : Nat → Nat → BitVec 8

/-- Byte `i` of the digest of the boot ROM (measurement block 1, Table 18-3). -/
opaque bootRomByte : Nat → BitVec 8

/-- Byte `i` of the digest of the firmware a module ships with, by stage (measurement blocks 2 and 3). -/
opaque shippedByte : Nat → Nat → BitVec 8

/-- True when a certificate chain verifies to the root whose SHA-256 is given (R577). -/
opaque chainTo : List (BitVec 8) → List (BitVec 8) → Bool

/-- The module's factory serial, in the bytes of its string (fixed in manufacture). -/
opaque factoryByte : Nat → BitVec 8

/-- The unit number, within its S-die, of codec channel `c`: Table 1-10 leaves it to the codec chapter, which gives none. -/
opaque codecUnit : Nat → BitVec 4

/-- By how much a pixel pipe's luma sample differs from the exact one rounded, one step down (0) to one up (2), and its chroma value
at a luma site in 65,536ths of a step, one step down to one up: from the picture's matrix, depth and R'G'B' (R461 step 1: the
fixed-point precision is not stated). -/
opaque lumaDev : Nat → Nat → Nat → Nat → Nat → Fin 3
opaque chromaDev : Nat → Nat → Nat → Nat → Nat → Nat → Fin 131073

/-- Where scaling an axis of one length to another takes the taps of an output sample from, true for chroma: the source place of
the first tap, and the phase (R461 step 4: the phase arithmetic is not stated). -/
opaque scaleFrom : Bool → Nat → Nat → Nat → Int
opaque scalePhase : Bool → Nat → Nat → Nat → Fin 64

/-- Whether rows are scaled before columns, and whether the sums of the first axis are rounded to samples before the second
(R461 step 4: neither is stated). -/
opaque scaleRoundsEach : Bool
opaque scaleRowsFirst : Bool

/-- The sum of absolute differences of an ANALYSE block at a vector that is not a whole number of samples, or that leaves the
previous picture: from the block, the previous picture's width and samples, the block's place and the vector (R463: the
interpolation is not stated). -/
opaque blockSad : List Nat → Nat → List Nat → Nat → Nat → Int → Int → Nat

/-- The vector an ANALYSE search chooses for a block, x and y as numbers, and a block's intra SATD (R463: the search and
the intra prediction are not stated). -/
opaque blockVector : List Nat → Nat → List Nat → Nat → Nat → Nat × Nat
opaque blockSatd : List Nat → Nat

/-- The state an encoder is in when it has taken a picture, under search_mode 1 (true) or 0, from the channel's settings, its state
before, the job's fields and the picture's samples; under search_mode 0 once it has searched its references, from the samples
of the search windows and the vectors chosen (R459, R460): the standards leave an encoder's choices open, and the manual names
the PHV-1604 encoder without describing it. -/
opaque encPlan : Bool → List Nat → Nat → List Nat → List Nat → Nat
opaque encSearch : Nat → List (List Nat) → List (Int × Int) → Nat

/-- An encoder's decision for purpose `tag` in a state, vector `k` of its search of some windows, byte `i` of the picture coded at
attempt `n` (R457), its state after that attempt, and byte `i` of the reconstruction it keeps. -/
opaque encChoice : Nat → Nat → BitVec 64
opaque encVector : Nat → List (List Nat) → Nat → BitVec 64
opaque encByte : Nat → Nat → Nat → BitVec 8
opaque encAfter : Nat → Nat → Nat
opaque encRecon : Nat → Nat → BitVec 8

/-- The parameter sets, sequence header or frame header that carry the display window of a coded picture: their bytes, from the
channel's settings, the coded size and the display window (R458). -/
opaque streamHeader : List Nat → Nat × Nat → Nat × Nat → List (BitVec 8)

/-- The largest QP of a channel's level and rate-control limits, from its settings (R457: not stated). -/
opaque maxQp : List Nat → BitVec 8

/-- The state a decoder is in when it has read the headers of a unit: from the standard, its state before and the unit's bytes; and
once it has the samples of the references that the unit reads, from their bytes (R464: the standards fix them). -/
opaque decHeaders : Nat → Nat → List (BitVec 8) → Nat
opaque decPicture : Nat → List (List (BitVec 8)) → Nat

/-- What the headers of a unit say in a decoder's state: the coded size, the profile (0 8-bit, 1 10-bit, others unsupported), whether
it reads reference `k`, and the logarithm that gives the side of its blocks. -/
opaque decSize : Nat → Nat × Nat
opaque decProfile : Nat → Nat
opaque decReads : Nat → Nat → Bool
opaque decSide : Nat → Nat

/-- What a decoded picture's state says: number `tag` (1 picture type, 2 bytes consumed, 3 display order, 4 a block lost to a damage),
whether block `k` is lost to it too, whether reference `k` is released, and byte `i` of its samples. -/
opaque decNumber : Nat → Nat → Nat
opaque decLost : Nat → Nat → Bool
opaque decReleases : Nat → Nat → Bool
opaque decodedByte : Nat → Nat → BitVec 8

/-- True when a program of the self-test engine is signed under the vendor keys: its encoding is not in the manual (R550). -/
opaque engineSigned : List (BitVec 8) → Bool

end Sys2Proof.Config
end

