-- ==== Sys2Proof/Machine/Numerics.lean ====
section
/-! DEFINITION. Number formats and their arithmetic (02_numerics.md R55 to R77, R651, R652). A floating-point value
is held exactly as sign, significand and power of two; each operation is computed exactly and rounded once. -/

namespace Sys2Proof.Machine

/-- The exact value of an encoding: a NaN, a signed infinity, or (-1)^neg times m times 2^e. -/
inductive FVal where
  | nan
  | inf (neg : Bool)
  | fin (neg : Bool) (m : Nat) (e : Int)
deriving DecidableEq, Repr

/-- The classes of encodings at the top exponent (Table 2-1). -/
inductive TopKind where
  /-- Infinities and NaNs, as IEEE 754 (FP32, BF16, FP16, FP8 E5M2). -/
  | ieee
  /-- Only the all-ones encoding is a NaN (FP8 E4M3). -/
  | oneNan
  /-- Every encoding is finite (FP6 and FP4 elements). -/
  | finite
deriving DecidableEq, Repr

/-- A floating-point format (Table 2-1). -/
structure FFmt where
  expBits : Nat
  manBits : Nat
  bias : Int
  top : TopKind
deriving DecidableEq, Repr

def FFmt.fp32 : FFmt := ⟨8, 23, 127, .ieee⟩
def FFmt.bf16 : FFmt := ⟨8, 7, 127, .ieee⟩
def FFmt.fp16 : FFmt := ⟨5, 10, 15, .ieee⟩
def FFmt.e4m3 : FFmt := ⟨4, 3, 7, .oneNan⟩
def FFmt.e5m2 : FFmt := ⟨5, 2, 15, .ieee⟩
def FFmt.e3m2 : FFmt := ⟨3, 2, 3, .finite⟩
def FFmt.e2m3 : FFmt := ⟨2, 3, 1, .finite⟩
def FFmt.e2m1 : FFmt := ⟨2, 1, 1, .finite⟩

/-- The encoding of the largest finite magnitude. -/
def FFmt.maxEnc (f : FFmt) : Nat :=
  match f.top with
  | .ieee => (2 ^ f.expBits - 1) * 2 ^ f.manBits - 1
  | .oneNan => 2 ^ (f.expBits + f.manBits) - 2
  | .finite => 2 ^ (f.expBits + f.manBits) - 1

/-- The sign bit of an encoding. -/
def FFmt.signBit (f : FFmt) (neg : Bool) : Nat := if neg then 2 ^ (f.expBits + f.manBits) else 0

/-- The canonical NaN (R59, Table 2-2); formats without a NaN encoding have 0 here and never need it. -/
def FFmt.nanEnc (f : FFmt) : Nat :=
  match f.top with
  | .ieee => (2 ^ f.expBits - 1) * 2 ^ f.manBits + 2 ^ (f.manBits - 1)
  | .oneNan => 2 ^ (f.expBits + f.manBits) - 1
  | .finite => 0

/-- The infinity of a format that has one. -/
def FFmt.infEnc (f : FFmt) (neg : Bool) : Nat := f.signBit neg + (2 ^ f.expBits - 1) * 2 ^ f.manBits

/-- The value of an encoding (R55 to R58). -/
def FFmt.decode (f : FFmt) (n : Nat) : FVal :=
  let neg := n.testBit (f.expBits + f.manBits)
  let ef := n >>> f.manBits % 2 ^ f.expBits
  let mf := n % 2 ^ f.manBits
  let special := match f.top with
    | .ieee => if ef = 2 ^ f.expBits - 1 then (if mf = 0 then some (FVal.inf neg) else some .nan) else none
    | .oneNan => if ef = 2 ^ f.expBits - 1 ∧ mf = 2 ^ f.manBits - 1 then some .nan else none
    | .finite => none
  match special with
  | some v => v
  | none =>
    if ef = 0 then .fin neg mf (1 - f.bias - f.manBits)
    else .fin neg (2 ^ f.manBits + mf) (ef - f.bias - f.manBits)

/-- `m` divided by 2^k, rounded to nearest with ties to even (R71). -/
def rneShift (m k : Nat) : Nat :=
  let q := m >>> k
  let r := m % 2 ^ k
  if 2 * r > 2 ^ k ∨ (2 * r = 2 ^ k ∧ q % 2 = 1) then q + 1 else q

/-- A magnitude m times 2^e rounded to a format's precision with the exponent range unbounded above (R651): the
encoding it would have, which is above `maxEnc` when the value overflows. -/
def FFmt.roundMag (f : FFmt) (m : Nat) (e : Int) : Nat :=
  if m = 0 then 0
  else
    let emin : Int := 1 - f.bias
    let top : Int := e + Nat.log2 m
    let q : Int := max top emin - f.manBits
    let r := if q ≤ e then m <<< (e - q).toNat else rneShift m (q - e).toNat
    (q - (emin - f.manBits)).toNat * 2 ^ f.manBits + r

/-- The conversion of an exact value to a format (Table 2-3, R651); `sat` is the saturation flag. -/
def FFmt.encode (f : FFmt) (sat : Bool) (v : FVal) : Nat :=
  match v with
  | .nan => f.nanEnc
  | .inf neg =>
    if sat then f.signBit neg + f.maxEnc
    else match f.top with
      | .ieee => f.infEnc neg
      | .oneNan => f.nanEnc
      | .finite => f.signBit neg + f.maxEnc
  | .fin neg m e =>
    let r := f.roundMag m e
    if r ≤ f.maxEnc then f.signBit neg + r
    else if sat then f.signBit neg + f.maxEnc
    else match f.top with
      | .ieee => f.infEnc neg
      | .oneNan => f.nanEnc
      | .finite => f.signBit neg + f.maxEnc

/-- The signed integer of a significand. -/
def sInt (neg : Bool) (m : Nat) : Int := if neg then -(m : Int) else m

/-- The exact value of an integer times a power of two; zero is +0. -/
def FVal.ofInt (i : Int) (e : Int) : FVal := .fin (decide (i < 0)) i.natAbs e

def FVal.isNan : FVal → Bool
  | .nan => true
  | _ => false

def FVal.isZero : FVal → Bool
  | .fin _ 0 _ => true
  | _ => false

/-- The sign of a value; NaN counts as positive. -/
def FVal.neg : FVal → Bool
  | .nan => false
  | .inf n => n
  | .fin n _ _ => n

/-- The value with its sign inverted. -/
def FVal.negate : FVal → FVal
  | .nan => .nan
  | .inf n => .inf (!n)
  | .fin n m e => .fin (!n) m e

/-- The magnitude of a value. -/
def FVal.abs : FVal → FVal
  | .nan => .nan
  | .inf _ => .inf false
  | .fin _ m e => .fin false m e

/-- The value times 2^k, exactly. -/
def FVal.scale (v : FVal) (k : Int) : FVal :=
  match v with
  | .fin n m e => .fin n m (e + k)
  | w => w

/-- The exact sum, with the signs of zero sums of IEEE 754 under round to nearest. -/
def FVal.add (a b : FVal) : FVal :=
  match a, b with
  | .nan, _ | _, .nan => .nan
  | .inf x, .inf y => if x = y then .inf x else .nan
  | .inf x, _ => .inf x
  | _, .inf y => .inf y
  | .fin x m e, .fin y n g =>
    let lo := min e g
    let i := sInt x (m <<< (e - lo).toNat) + sInt y (n <<< (g - lo).toNat)
    if i = 0 then .fin (x && y && decide (m = 0) && decide (n = 0)) 0 lo
    else FVal.ofInt i lo

/-- The exact product. -/
def FVal.mul (a b : FVal) : FVal :=
  match a, b with
  | .nan, _ | _, .nan => .nan
  | .inf x, .inf y => .inf (x != y)
  | .inf x, .fin y m _ => if m = 0 then .nan else .inf (x != y)
  | .fin x m _, .inf y => if m = 0 then .nan else .inf (x != y)
  | .fin x m e, .fin y n g => .fin (x != y) (m * n) (e + g)

/-- The quotient to more bits than any format keeps, with a sticky bit at the end, so that one rounding of it is
one rounding of the exact quotient. -/
def FVal.div (a b : FVal) : FVal :=
  match a, b with
  | .nan, _ | _, .nan => .nan
  | .inf _, .inf _ => .nan
  | .inf x, .fin y _ _ => .inf (x != y)
  | .fin x _ _, .inf y => .fin (x != y) 0 0
  | .fin x m e, .fin y n g =>
    if n = 0 then (if m = 0 then .nan else .inf (x != y))
    else
      let k := 80 + Nat.log2 n
      let q := (m <<< k) / n
      let st := if (m <<< k) % n = 0 then 0 else 1
      .fin (x != y) (2 * q + st) (e - g - k - 1)

/-- The integer square root by `fuel` binary digits from the top. -/
def isqrtStep (n : Nat) : Nat → Nat → Nat
  | 0, r => r
  | k + 1, r =>
    let c := r + 2 ^ k
    isqrtStep n k (if c * c ≤ n then c else r)

/-- The integer square root. -/
def isqrt (n : Nat) : Nat := isqrtStep n (Nat.log2 n / 2 + 1) 0

/-- The square root to more bits than any format keeps, with a sticky bit. -/
def FVal.sqrt (a : FVal) : FVal :=
  match a with
  | .nan => .nan
  | .inf n => if n then .nan else .inf false
  | .fin n m e =>
    if m = 0 then .fin n 0 e
    else if n then .nan
    else
      let k := if e % 2 = 0 then 80 else 81
      let m' := m <<< k
      let r := isqrt m'
      let st := if r * r = m' then 0 else 1
      .fin false (2 * r + st) ((e - k) / 2 - 1)

/-- `a` is below `b` as real numbers; false when either is a NaN. -/
def FVal.lt (a b : FVal) : Bool :=
  match a, b with
  | .nan, _ | _, .nan => false
  | .inf x, .inf y => x && !y
  | .inf x, .fin _ _ _ => x
  | .fin _ _ _, .inf y => !y
  | .fin x m e, .fin y n g =>
    let lo := min e g
    decide (sInt x (m <<< (e - lo).toNat) < sInt y (n <<< (g - lo).toNat))

/-- Equal as real numbers; false when either is a NaN. -/
def FVal.eqv (a b : FVal) : Bool := !a.isNan && !b.isNan && !a.lt b && !b.lt a

/-- The maximum of R76: NaN when either is a NaN, +0 for zeros of either sign. -/
def FVal.max (a b : FVal) : FVal :=
  if a.isNan || b.isNan then .nan
  else if a.isZero && b.isZero then (if a.neg && b.neg then a else .fin false 0 0)
  else if a.lt b then b else a

/-- The minimum of R76: NaN when either is a NaN, -0 when a zero of either sign is negative. -/
def FVal.min (a b : FVal) : FVal :=
  if a.isNan || b.isNan then .nan
  else if a.isZero && b.isZero then (if a.neg || b.neg then .fin true 0 0 else a)
  else if b.lt a then b else a

/-- The floor of log2 of the magnitude of a nonzero finite value. -/
def FVal.exponent (v : FVal) : Int :=
  match v with
  | .fin _ m e => e + Nat.log2 m
  | _ => 0

/-- The value truncated toward zero to a multiple of 2^q. -/
def FVal.truncTo (v : FVal) (q : Int) : FVal :=
  match v with
  | .fin n m e => if q ≤ e then .fin n m e else .fin n (m >>> (q - e).toNat) q
  | w => w

/-- A finite value as the integer below or equal to it (floor). -/
def FVal.floorInt (v : FVal) : Int :=
  match v with
  | .fin n m e => if 0 ≤ e then sInt n (m <<< e.toNat) else sInt n m / (2 ^ (-e).toNat : Nat)
  | _ => 0

/-- A finite value rounded to the nearest integer, ties to even (R74). -/
def FVal.roundInt (v : FVal) : Int :=
  match v with
  | .fin n m e => if 0 ≤ e then sInt n (m <<< e.toNat) else sInt n (rneShift m (-e).toNat)
  | _ => 0

/-- FP32 values by their encodings. -/
def f32 (n : Nat) : FVal := FFmt.fp32.decode n

/-- A value rounded once to FP32, overflow to infinity (R75, R85). -/
def toF32 (v : FVal) : Nat := FFmt.fp32.encode false v

/-- FP32 operations of R75 on encodings. -/
def f32add (a b : Nat) : Nat := toF32 ((f32 a).add (f32 b))
def f32sub (a b : Nat) : Nat := toF32 ((f32 a).add (f32 b).negate)
def f32mul (a b : Nat) : Nat := toF32 ((f32 a).mul (f32 b))
def f32div (a b : Nat) : Nat := toF32 ((f32 a).div (f32 b))
def f32sqrt (a : Nat) : Nat := toF32 (f32 a).sqrt
def f32fma (a b c : Nat) : Nat := toF32 (((f32 a).mul (f32 b)).add (f32 c))
def f32max (a b : Nat) : Nat := toF32 ((f32 a).max (f32 b))
def f32min (a b : Nat) : Nat := toF32 ((f32 a).min (f32 b))

/-- FP32 constants: +0, 1.0, -2^120 and log2 e (Table 6-4), the canonical NaN. -/
def f32zero : Nat := 0x00000000
def f32one : Nat := 0x3F800000
def f32sentinel : Nat := 0xFB800000
def f32l2e : Nat := 0x3FB8AA3B
def f32nan : Nat := 0x7FC00000

/-- Element format codes of Table 4-11 as kinds of element. -/
inductive Elem where
  | raw
  | float (f : FFmt)
  | mx (f : FFmt)
  | int8
  | int32
  | reserved
deriving DecidableEq, Repr

/-- The element kind of a format code (Table 4-11). -/
def elemOf (fmt : Nat) : Elem :=
  match fmt with
  | 0x0 => .raw
  | 0x1 => .float .fp32
  | 0x2 => .float .bf16
  | 0x3 => .float .fp16
  | 0x4 => .float .e4m3
  | 0x5 => .float .e5m2
  | 0x6 => .mx .e4m3
  | 0x7 => .mx .e5m2
  | 0x8 => .mx .e3m2
  | 0x9 => .mx .e2m3
  | 0xA => .mx .e2m1
  | 0xB => .int8
  | 0xC => .int32
  | _ => .reserved

/-- Bits per element (Table 4-11). -/
def fmtBits (fmt : Nat) : Nat :=
  match fmt with
  | 0x1 | 0xC => 32
  | 0x2 | 0x3 => 16
  | 0x8 | 0x9 => 6
  | 0xA => 4
  | _ => 8

/-- True for the MX format codes. -/
def fmtIsMx (fmt : Nat) : Bool := decide (0x6 ≤ fmt) && decide (fmt ≤ 0xA)

/-- The exact value of one element by its bits. RAW is a format of transfers only (Table 4-11) and no rule refuses it to the
vector engine or says what it reads there: a free value (log entry 186). -/
def elemVal (fmt n : Nat) : FVal :=
  match elemOf fmt with
  | .float f => f.decode n
  | .mx f => f.decode n
  | .int8 => FVal.ofInt (signed 8 n) 0
  | .int32 => FVal.ofInt (signed 32 n) 0
  | .raw | .reserved => FFmt.fp32.decode (Config.rawElem n).toNat

/-- The value of a block scale field (R60): 2^(X - 127), or NaN for 0xFF. -/
def scaleVal (x : Nat) : FVal := if x = 0xFF then .nan else .fin false 1 ((x : Int) - 127)

/-- A tile scale as it is read: positive, finite and normal, otherwise NaN (R69). -/
def tileScaleVal (n : Nat) : FVal :=
  if n < 2 ^ 31 ∧ 1 ≤ n >>> 23 ∧ n >>> 23 < 255 then f32 n else .nan

/-- A value clamped to an integer of `w` bits after rounding (Table 2-3, R74). -/
def toInt (w : Nat) (v : FVal) : Nat :=
  let lo : Int := -(2 ^ (w - 1) : Nat)
  let hi : Int := (2 ^ (w - 1) : Nat) - 1
  match v with
  | .nan => 0
  | .inf n => wrapInt w (if n then lo else hi)
  | v => wrapInt w (max lo (min hi v.roundInt))

/-- The conversion of a value to an element of a format that carries no block scale (Table 2-3); what a RAW destination takes
is free, as in `elemVal`. -/
def elemEnc (fmt : Nat) (sat : Bool) (v : FVal) : Nat :=
  match elemOf fmt with
  | .float f => f.encode sat v
  | .mx f => f.encode true v
  | .int8 => toInt 8 v
  | .int32 => toInt 32 v
  | .raw | .reserved => (Config.rawByte (FFmt.fp32.encode false v)).toNat

/-- The exponent of the largest power of two of an MX element format (R63). -/
def mxEmax (f : FFmt) : Int :=
  match f.expBits, f.manBits with
  | 4, _ => 8
  | 5, _ => 15
  | 3, _ => 4
  | _, _ => 2

/-- The largest magnitude of a list of finite values. -/
def amax (vs : List FVal) : FVal := vs.foldl (fun a v => if a.lt v.abs then v.abs else a) (.fin false 0 0)

/-- The scale field R63 chooses for a largest magnitude. -/
def mxScale (f : FFmt) (a : FVal) : Nat :=
  if a.isZero then 0x7F
  else (max 0 (min 0xFE (a.exponent - mxEmax f + 127))).toNat

/-- A block of source values quantised to an MX element format (R63 to R67): its scale field and its elements. An all-zero block
stores zero bits (DESIGN CHOICE: log entry 224). -/
def mxBlock (f : FFmt) (vs : List FVal) : Nat × List Nat :=
  let isInf := fun v : FVal => match v with | .inf _ => true | _ => false
  let e5m2 := decide (f = FFmt.e5m2)
  if vs.any FVal.isNan || (vs.any isInf && !e5m2) then (0xFF, vs.map fun _ => 0)
  else
    let x := mxScale f (amax (vs.filter fun v => !isInf v))
    if vs.all FVal.isZero then (0x7F, vs.map fun _ => 0)
    else (x, vs.map fun v => match v with
      | .inf n => f.infEnc n
      | v => f.encode true (v.scale (127 - (x : Int))))

/-- The addition of a reduction in a data format (R93): FP32, BF16, FP16 by code, INT32 wrapping. -/
def reduceAdd (fmt a b : Nat) : Nat :=
  match elemOf fmt with
  | .float f => f.encode false ((f.decode a).add (f.decode b))
  | .int32 => (a + b) % 2 ^ 32
  | _ => 0

/-- Elements of `w` bits packed into bytes, the first in the lowest bits (R61). -/
def packBits (w : Nat) (es : List Nat) : List Byte :=
  leBytes ((es.length * w + 7) / 8) (es.foldr (fun e acc => e % 2 ^ w + 2 ^ w * acc) 0)

/-- The first `n` elements of `w` bits of a byte list. -/
def unpackBits (w n : Nat) (l : List Byte) : List Nat :=
  let v := leNat l
  (List.range n).map fun i => v >>> (i * w) % 2 ^ w

/-- The element-wise reduction of two byte strings of a reducible format (R93). -/
def reduceBytes (fmt : Nat) (a b : List Byte) : List Byte :=
  let w := fmtBits fmt
  let n := a.length * 8 / w
  packBits w (List.zipWith (reduceAdd fmt) (unpackBits w n a) (unpackBits w n b))

end Sys2Proof.Machine
end

