-- ==== Sys2Proof/Machine/Sfn.lean ====
section
/-! DEFINITION. The special-function unit (07_special_functions.md R254 to R273): coefficient banks, the segment
evaluation of R256, the function set of Table 7-1, the micro-instruction pass of R267. -/

namespace Sys2Proof.Machine

/-- A coefficient bank (R270): the default set with a run of entries replaced (Table 7-8), or empty. -/
structure Bank where
  /-- The generation held; none for an empty bank. -/
  gen : Option Nat
  first : Nat
  /-- Replaced entries, 16 bytes each: c0 in the low 32 bits. -/
  entries : List (BitVec 128)
  /-- Error masks of the 64-bit words that are no valid codewords of what was written, two words to an entry (R270). -/
  errs : List (Nat × CodeWord)
deriving DecidableEq, Repr

def Bank.empty : Bank := ⟨none, 0, [], []⟩

/-- The bank holding the default set, of generation `0x2022:01`, 0x01. -/
def Bank.dflt : Bank := ⟨some 1, 0, [], []⟩

/-- Coefficient `i` of entry `s` as it was written. -/
def Bank.written (b : Bank) (s i : Nat) : Nat :=
  if b.first ≤ s ∧ s < b.first + b.entries.length then
    (b.entries.getD (s - b.first) 0).toNat >>> (32 * i) % 2 ^ 32
  else (Config.defaultCoef s i).toNat

/-- The 72-bit word stored as word `w` of a bank (R270). -/
def Bank.word (b : Bank) (w : Nat) : CodeWord :=
  let c := b.written (w / 2)
  eccEncode (BitVec.ofNat 64 (c (w % 2 * 2) + c (w % 2 * 2 + 1) * 2 ^ 32)) ^^^ tabGet 0 b.errs w


/-- Coefficient `i` of entry `s` as the unit uses it: corrected where its word has a correctable error (R104). -/
def Bank.coef (b : Bank) (s i : Nat) : Nat :=
  let w := 2 * s + i / 2
  if tabGet 0 b.errs w = 0 then b.written s i
  else (codeData (eccCorrect (b.word w))).toNat >>> (32 * (i % 2)) % 2 ^ 32

/-- True when a bank holds the same set as another, errors apart. -/
def Bank.same (a b : Bank) : Bool := a.gen == b.gen && a.first == b.first && a.entries == b.entries

/-- A region of a function (Table 7-2). -/
structure Region where
  base : Nat
  k : Nat
  eLo : Int
  binades : Nat
  /-- True for the floor reduction, whose interval [0, 1) is one binade. -/
  floor : Bool
  clamp : Bool
  /-- The segment that does not clamp (R257), by its number within the region. -/
  free : Option Nat
  vEnd : Nat
deriving DecidableEq, Repr

/-- The segment of `r` within its region and the local variable of R256, the latter exact. -/
def Region.locate (g : Region) (r : FVal) : Nat × FVal :=
  let e : Int := if g.floor then 0 else r.exponent
  let f := if g.floor then r else (r.scale (-e)).add (.fin true 1 0)
  let x := f.scale g.k
  let j := x.floorInt
  (((e - g.eLo).toNat) * 2 ^ g.k + j.toNat, x.add (FVal.ofInt (-j) 0))

/-- The value p of R256 for an `r` that falls in the region, as an FP32 encoding. -/
def Region.eval (b : Bank) (g : Region) (r : FVal) : Nat :=
  let (n, tx) := g.locate r
  let s := g.base + n
  let t := toF32 tx
  let c := b.coef s
  let p := f32fma t (f32fma t (f32fma t (c 3) (c 2)) (c 1)) (c 0)
  if g.clamp && decide (g.free ≠ some n) then
    let nx := if n + 1 = g.binades * 2 ^ g.k then g.vEnd else b.coef (s + 1) 0
    f32min (f32max p (f32min (c 0) nx)) (f32max (c 0) nx)
  else p

/-- The entries of a bank that the evaluation of an `r` in the region reads (R256). -/
def Region.hit (g : Region) (r : FVal) : List Nat :=
  let n := (g.locate r).1
  let s := g.base + n
  if g.clamp && decide (g.free ≠ some n) && decide (n + 1 ≠ g.binades * 2 ^ g.k) then [s, s + 1] else [s]

/-- Regions of the built-in functions (Table 7-2); the end values are the functions' values at the regions' upper
ends rounded to FP32 (R256). -/
def regionExp2 : Region := ⟨0, 6, 0, 1, true, true, none, 0x40000000⟩
def regionLog2 : Region := ⟨64, 7, 0, 1, false, true, none, 0x3F800000⟩
def regionRcp : Region := ⟨192, 7, 0, 1, false, true, none, 0x3F000000⟩
def regionRsqrt : Region := ⟨320, 6, 0, 2, false, true, none, 0x3F000000⟩
def regionSqrt : Region := ⟨448, 6, 0, 2, false, true, none, 0x40000000⟩
def regionTanh : Region := ⟨576, 4, -13, 17, false, true, none, 0x3F800000⟩
def regionSigmoidP : Region := ⟨848, 4, -8, 13, false, true, none, 0x3F800000⟩
def regionSigmoidN : Region := ⟨1056, 4, -8, 13, false, true, none, 0x28642328⟩
def regionErf : Region := ⟨1264, 4, -13, 15, false, true, none, 0x3F800000⟩
def regionGeluP : Region := ⟨1504, 3, -25, 28, false, true, none, 0x41000000⟩
def regionGeluN : Region := ⟨1728, 3, -25, 28, false, true, some 196, 0xA7B34E96⟩
def regionGeluTP : Region := ⟨1952, 3, -25, 28, false, true, none, 0x41000000⟩
def regionGeluTN : Region := ⟨2176, 3, -25, 28, false, true, some 196, 0x9D6AD144⟩
def regionSiluP : Region := ⟨2400, 3, -25, 30, false, true, none, 0x42000000⟩
def regionSiluN : Region := ⟨2640, 3, -25, 30, false, true, some 202, 0xAAE42328⟩
def regionSoftplusP : Region := ⟨2880, 3, -24, 29, false, true, none, 0x42000000⟩
def regionSoftplusN : Region := ⟨3112, 3, -24, 29, false, true, none, 0x28642328⟩
def regionSin : Region := ⟨3344, 4, -13, 13, false, true, none, 0x3F576AA4⟩
def regionCos : Region := ⟨3552, 4, -13, 13, false, true, none, 0x3F0A5140⟩

/-- Constants of the reductions: log2 e and ln 2 to 64 bits, 2/pi to 128 bits (Table 7-1); pi/2 and 2/sqrt pi to
enough bits that one rounding of a product is one rounding of the exact product (DEDUCED: log entry 13). -/
def cLog2e : FVal := .fin false 0xB8AA3B295C17F0BC (-63)
def cLn2 : FVal := .fin false 0xB17217F7D1CF79AC (-64)
def cTwoOverPi : FVal := .fin false 0xA2F9836E4E441529FC2757D1F534DDC1 (-128)
def cHalfPi : FVal := .fin false 0xC90FDAA22168C234C4C6628B80DC1CD129024E088A67CC74 (-191)
def cQuarterPi : FVal := .fin false 0xC90FDAA22168C234C4C6628B80DC1CD129024E088A67CC74 (-192)
def cTwoOverSqrtPi : FVal := .fin false 0x906EBA8214DB688D71D48A7F6BFEC344 (-127)

/-- An integer as a value. -/
def fInt (i : Int) : FVal := FVal.ofInt i 0

/-- 2^k as a value. -/
def fPow (k : Int) : FVal := .fin false 1 k

/-- EXP2 of an exact argument (Table 7-1). -/
def sfnExp2V (b : Bank) (z : FVal) : Nat :=
  match z with
  | .nan => f32nan
  | .inf n => if n then f32zero else FFmt.fp32.infEnc false
  | z =>
    if z.abs.lt (fPow (-25)) then f32one
    else if z.lt (fInt (-151)) then f32zero
    else if !z.lt (fInt 128) then FFmt.fp32.infEnc false
    else
      let n := z.floorInt
      toF32 ((f32 (regionExp2.eval b (z.add (fInt (-n))))).scale n)

/-- EXP2 of an FP32 argument, as the row-function pipeline uses it (R223). -/
def sfnExp2 (b : Bank) (x : Nat) : Nat := sfnExp2V b (f32 x)

/-- EXP of an FP32 argument: EXP2 of the exact product with log2 e. -/
def sfnExp (b : Bank) (x : Nat) : Nat := sfnExp2V b ((f32 x).mul cLog2e)

/-- The exact n + p of LOG2 for a positive finite argument. -/
def sfnLogSum (b : Bank) (x : FVal) : FVal :=
  let n := x.exponent
  (f32 (regionLog2.eval b (x.scale (-n)))).add (fInt n)

/-- LOG2 and LN, `ln` selecting the latter. -/
def sfnLog (ln : Bool) (b : Bank) (x : Nat) : Nat :=
  match f32 x with
  | .nan => f32nan
  | .inf n => if n then f32nan else FFmt.fp32.infEnc false
  | .fin n m e =>
    if m = 0 then FFmt.fp32.infEnc true
    else if n then f32nan
    else
      let s := sfnLogSum b (.fin n m e)
      toF32 (if ln then s.mul cLn2 else s)

/-- The unstated value at the closed end of a negative region, held to the order that R258 promises there: an increasing
function's between its value below and the region's end value, the others' from the end value up to -0. -/
def sfnEnd (b : Bank) (func : Nat) (negr : Region) : Nat :=
  let v := (Config.sfnRegionEnd func).toNat
  if func = 0x09 ∨ func = 0x0F then f32min (f32max v (sfnExp b 0xC2000001)) negr.vEnd
  else f32min (f32max v negr.vEnd) 0x80000000

/-- The result of a two-sided function: `near` below the regions, the region of the input's sign inside, `lo` and
`hi` beyond, and the unstated value at the closed end of the negative region. -/
def sfnTwoSided (b : Bank) (func : Nat) (pos negr : Region) (lim : Int) (near lo hi : Nat) (x : FVal) : Nat :=
  let r := x.abs
  if r.lt (fPow pos.eLo) then near
  else if r.lt (fInt lim) then (if x.neg then negr.eval b r else pos.eval b r)
  else if !x.neg then hi
  else if (fInt lim).lt r then lo
  else sfnEnd b func negr

/-- Quadrant number and reduced argument of SINCOS. -/
def sinCosReduce (th : FVal) : Int × FVal :=
  let q : Int := if cQuarterPi.lt th.abs then (th.mul cTwoOverPi).roundInt else 0
  (q, if q = 0 then th else th.add ((cHalfPi.mul (fInt q)).negate))

/-- Sine and cosine of an FP32 argument (Table 7-1, SINCOS). -/
def sfnSinCos (b : Bank) (x : Nat) : Nat × Nat :=
  match f32 x with
  | .nan | .inf _ => (f32nan, f32nan)
  | .fin s m e =>
    let th := FVal.fin s m e
    if !th.abs.lt (fPow 24) then (f32nan, f32nan)
    else
      let (q, r) := sinCosReduce th
      let small := r.abs.lt (fPow (-13))
      let sn := if small then r else
        let p := f32 (regionSin.eval b r.abs)
        if r.neg then p.negate else p
      let cs := if small then f32 f32one else f32 (regionCos.eval b r.abs)
      match q % 4 with
      | 0 => (toF32 sn, toF32 cs)
      | 1 => (toF32 cs, toF32 sn.negate)
      | 2 => (toF32 sn.negate, toF32 cs.negate)
      | _ => (toF32 cs.negate, toF32 sn)

/-- An odd function: `near` below its region, its region's value with the sign, plus or minus 1 beyond. -/
def sfnOdd (b : Bank) (g : Region) (lim : Int) (near : FVal) (x : FVal) : Nat :=
  let r := x.abs
  if r.lt (fPow g.eLo) then toF32 near
  else
    let p := if r.lt (fInt lim) then f32 (g.eval b r) else f32 f32one
    toF32 (if x.neg then p.negate else p)

/-- 1/x, the square root and its reciprocal by their tables (Table 7-1). -/
def sfnRoot (rsqrt : Bool) (b : Bank) (x : Nat) : Nat :=
  match f32 x with
  | .nan => f32nan
  | .inf n => if n then f32nan else if rsqrt then f32zero else FFmt.fp32.infEnc false
  | .fin n m e =>
    if m = 0 then (if rsqrt then FFmt.fp32.infEnc n else x)
    else if n then f32nan
    else
      let v := FVal.fin n m e
      let q := v.exponent / 2
      let r := v.scale (-(2 * q))
      if rsqrt then toF32 ((f32 (regionRsqrt.eval b r)).scale (-q))
      else toF32 ((f32 (regionSqrt.eval b r)).scale q)

/-- 1/x by its table. -/
def sfnRcp (b : Bank) (x : Nat) : Nat :=
  match f32 x with
  | .nan => f32nan
  | .inf n => if n then 0x80000000 else f32zero
  | .fin s m e =>
    if m = 0 then FFmt.fp32.infEnc s
    else
      let v := FVal.fin s m e
      let n := v.exponent
      let p := (f32 (regionRcp.eval b (v.abs.scale (-n)))).scale (-n)
      toF32 (if s then p.negate else p)

/-- The native result of function `func` at an FP32 input: the result, and the second result of SINCOS
(Table 7-1, R256). -/
def sfnNative (b : Bank) (func x : Nat) : Nat × Nat :=
  let v := f32 x
  let one := fun n : Nat => (n, 0)
  if func = 0x0E then sfnSinCos b x
  else if v.isNan then one f32nan
  else match func with
  | 0x01 => one (sfnExp2 b x)
  | 0x02 => one (sfnExp b x)
  | 0x03 => one (sfnLog false b x)
  | 0x04 => one (sfnLog true b x)
  | 0x05 => one (sfnRcp b x)
  | 0x06 => one (sfnRoot true b x)
  | 0x07 => one (sfnRoot false b x)
  | 0x08 => one (match v with
      | .inf n => if n then 0xBF800000 else f32one
      | v => sfnOdd b regionTanh 16 v v)
  | 0x09 => one (match v with
      | .inf n => if n then f32zero else f32one
      | v => sfnTwoSided b func regionSigmoidP regionSigmoidN 32
          (toF32 ((fPow (-1)).add (v.scale (-2)))) (sfnExp b x) f32one v)
  | 0x0A => one (match v with
      | .inf n => if n then 0xBF800000 else f32one
      | v => sfnOdd b regionErf 4 (v.mul cTwoOverSqrtPi) v)
  | 0x0B => one (match v with
      | .inf n => if n then 0x80000000 else x
      | v => sfnTwoSided b func regionGeluP regionGeluN 8 (toF32 (v.scale (-1))) 0x80000000 x v)
  | 0x0C => one (match v with
      | .inf n => if n then 0x80000000 else x
      | v => sfnTwoSided b func regionGeluTP regionGeluTN 8 (toF32 (v.scale (-1))) 0x80000000 x v)
  | 0x0D => one (match v with
      | .inf n => if n then 0x80000000 else x
      | v => sfnTwoSided b func regionSiluP regionSiluN 32 (toF32 (v.scale (-1)))
          (toF32 (v.mul (f32 (sfnExp b x)))) x v)
  | 0x0F => one (match v with
      | .inf n => if n then f32zero else x
      | v => sfnTwoSided b func regionSoftplusP regionSoftplusN 32 0x3F317218 (sfnExp b x) x v)
  | _ => one f32nan

/-- The bank entries an EXP2 of an exact argument reads. -/
def hitExp2 (z : FVal) : List Nat :=
  match z with
  | .nan | .inf _ => []
  | z =>
    if z.abs.lt (fPow (-25)) || z.lt (fInt (-151)) || !z.lt (fInt 128) then []
    else regionExp2.hit (z.add (fInt (-z.floorInt)))

/-- The bank entries a two-sided function reads; `exp` when its result below the region is formed with EXP. -/
def hitTwoSided (pos negr : Region) (lim : Int) (exp : Bool) (x : FVal) : List Nat :=
  let r := x.abs
  if r.lt (fPow pos.eLo) then []
  else if r.lt (fInt lim) then (if x.neg then negr.hit r else pos.hit r)
  else if x.neg && (fInt lim).lt r && exp then hitExp2 (x.mul cLog2e)
  else []

/-- The bank entries that function `func` reads at an FP32 input (Table 7-1, R256). -/
def sfnHits (func x : Nat) : List Nat :=
  match f32 x with
  | .nan | .inf _ => []
  | .fin n m e =>
    let v := FVal.fin n m e
    let odd := fun (g : Region) (lim : Int) => if v.abs.lt (fPow g.eLo) || !v.abs.lt (fInt lim) then [] else g.hit v.abs
    match func with
    | 0x01 => hitExp2 v
    | 0x02 => hitExp2 (v.mul cLog2e)
    | 0x03 | 0x04 => if m = 0 ∨ n then [] else regionLog2.hit (v.scale (-v.exponent))
    | 0x05 => if m = 0 then [] else regionRcp.hit (v.abs.scale (-v.exponent))
    | 0x06 => if m = 0 ∨ n then [] else regionRsqrt.hit (v.scale (-(2 * (v.exponent / 2))))
    | 0x07 => if m = 0 ∨ n then [] else regionSqrt.hit (v.scale (-(2 * (v.exponent / 2))))
    | 0x08 => odd regionTanh 16
    | 0x09 => hitTwoSided regionSigmoidP regionSigmoidN 32 true v
    | 0x0A => odd regionErf 4
    | 0x0B => hitTwoSided regionGeluP regionGeluN 8 false v
    | 0x0C => hitTwoSided regionGeluTP regionGeluTN 8 false v
    | 0x0D => hitTwoSided regionSiluP regionSiluN 32 true v
    | 0x0E =>
      let r := (sinCosReduce v).2.abs
      if !v.abs.lt (fPow 24) || r.lt (fPow (-13)) then [] else regionSin.hit r ++ regionCos.hit r
    | 0x0F => hitTwoSided regionSoftplusP regionSoftplusN 32 true v
    | _ => []

/-- The functions the compatibility mode takes from the PHV-1604 table set (R262). -/
def sfnIsCompat (func : Nat) : Bool :=
  decide (1 ≤ func) && decide (func ≤ 0x0E) && decide (func ≠ 0x0C)

/-- The result of an SFN element: the ROM of the PHV-1604 while `sfu_compat` is 1 and the function is named in
R262, the native evaluation otherwise (R109, R262, R263). SINCOS of the ROM is NaN from 2^16 on (Table 7-5). -/
def sfnEval (compat : Bool) (b : Bank) (func x : Nat) : Nat × Nat :=
  if compat && sfnIsCompat func then
    if func = 0x0E ∧ !(f32 x).abs.lt (fPow 16) then (f32nan, f32nan)
    else ((Config.phv1604 func 0 (BitVec.ofNat 32 x)).toNat, (Config.phv1604 func 1 (BitVec.ofNat 32 x)).toNat)
  else sfnNative b func x

/-- The region that a micro-instruction word names, its end value from the constant group (Table 7-6). -/
def microRegion (w vEnd : Nat) : Region :=
  ⟨bits w 55 44, bits w 43 40, signed 8 (bits w 39 32), bits w 31 26, decide (bits w 59 56 = 1), bit w 24, none, vEnd⟩

/-- n and r of a pass (Table 7-6, reduce). -/
def microReduce (red : Nat) (v : FVal) : Int × FVal :=
  match red with
  | 1 => (v.floorInt, v.add (fInt (-v.floorInt)))
  | 2 => (v.exponent, v.scale (-v.exponent))
  | 3 => (if v.neg then 1 else 0, v.abs)
  | _ => (0, v)

/-- One pass of a microprogram (R267) over an element: `w` the micro-instruction word (Table 7-6), `g` its constant
group, `a` the lane's input, `y` the previous pass's result. Both tests at a region's ends are made
whatever the reduction, as R267 writes them (log entry 55). -/
def sfmPass (b : Bank) (g : List Nat) (w a y : Nat) : Nat :=
  let k := fun i => g.getD i 0
  let x0 := if bit w 62 then y else a
  let x := if bit w 60 then f32mul x0 (k 0) else x0
  match f32 x with
  | .nan => f32nan
  | .inf n => if n then k 5 else k 4
  | .fin s m e =>
    let v := FVal.fin s m e
    let red := bits w 59 56
    if red = 2 ∧ (m = 0 ∨ s) then f32nan
    else
      let (n, r) := microReduce red v
      let eLo := signed 8 (bits w 39 32)
      let nb := bits w 31 26
      let reg := microRegion w (k 3)
      let p : FVal :=
        if bit w 61 then r
        else if r.lt (fPow eLo) then f32 (toF32 ((r.mul (f32 (k 2))).add (f32 (k 1))))
        else if !r.lt (fPow (eLo + nb)) then f32 (k 3)
        else f32 (reg.eval b r)
      match bits w 23 20 with
      | 1 => toF32 (p.scale n)
      | 2 => toF32 (p.add (fInt n))
      | 3 => toF32 (if n = 1 then p.negate else p)
      | 4 => toF32 (if n = 1 then (f32 f32one).add p.negate else p)
      | 5 => toF32 ((f32 a).mul p)
      | _ => toF32 p

/-- A microprogram of `n` passes from word `start` over one element; each pass reads the input and the result of
the pass before it. -/
def sfmRun (b : Bank) (words : List (BitVec 64)) (groups : List (List Nat)) (start : Nat) : Nat → Nat → Nat → Nat
  | 0, _, y => y
  | n + 1, a, y =>
    let w := (words.getD start 0).toNat
    sfmRun b words groups (start + 1) n a (sfmPass b (groups.getD (bits w 19 14) []) w a y)

/-- The bank entries that a pass reads. -/
def passHits (g : List Nat) (w a y : Nat) : List Nat :=
  let x0 := if bit w 62 then y else a
  let v := f32 (if bit w 60 then f32mul x0 (g.getD 0 0) else x0)
  let red := bits w 59 56
  match v with
  | .nan | .inf _ => []
  | .fin s m _ =>
    let reg := microRegion w (g.getD 3 0)
    let r := (microReduce red v).2
    if bit w 61 || (decide (red = 2) && (decide (m = 0) || s)) ||
        (r.lt (fPow reg.eLo) || !r.lt (fPow (reg.eLo + reg.binades))) then []
    else reg.hit r

/-- The bank entries that a microprogram reads for one element. -/
def sfmHits (b : Bank) (words : List (BitVec 64)) (groups : List (List Nat)) (start : Nat) : Nat → Nat → Nat → List Nat
  | 0, _, _ => []
  | n + 1, a, y =>
    let w := (words.getD start 0).toNat
    let g := groups.getD (bits w 19 14) []
    passHits g w a y ++ sfmHits b words groups (start + 1) n a (sfmPass b g w a y)

end Sys2Proof.Machine
end

