-- ==== Sys2Proof/Machine/CoreState.lean ====
section
/-! DEFINITION. What one core and one cluster hold (03_cores_and_static_schedule.md, 05, 07, 19): memories, token
file, streams, instructions in flight, coefficient banks, trace buffer. Plain data. -/

namespace Sys2Proof.Machine

/-- A counting token (R121). `count` is every signal made less every wait taken; `pend` lists the increments that
are not visible before their ac (R124). -/
structure Token where
  count : Nat
  pend : List (Nat × Nat)
deriving DecidableEq, Repr

/-- A loop in progress (R162): where its body starts, its length, its iterations and the index of the current one. -/
structure Frame where
  start : Nat
  body : Nat
  count : Nat
  index : Nat
deriving DecidableEq, Repr

/-- Where a unit stands in its stream. -/
inductive Halt where
  | running
  /-- Stopped at a yield point (R146). -/
  | atYield (passEnd : Bool) (segment : Nat)
  /-- Stopped at step end (R146). -/
  | atEnd
  /-- Stopped by a fault of the step (R133, R170, R204) or because the core runs no step. -/
  | stopped
  /-- Stopped by a stop bath before its next instruction (R601, R602). -/
  | bath
deriving DecidableEq, Repr

/-- One unit of a core: its stream position, its loops from the outermost in, and the first ac at which it may
issue again. -/
structure UnitSt where
  pos : Nat
  loops : List Frame
  nextIssue : Nat
  halt : Halt
  /-- Instruction instances issued in the step, loop returns counted. -/
  issued : Nat
deriving DecidableEq, Repr

/-- An instruction in flight. -/
structure Flight where
  unit : Nat
  opcode : Nat
  index : Nat
  /-- The ac of its completion; none for a transfer timed by a window (R138). -/
  complete : Option Nat
  /-- Its completion signals. -/
  sigs : List Signal
  /-- Granules it moves, for the contact sheet (Table 19-6). -/
  granules : Nat
  /-- The instance of an ST of mode 1: group times 65,536 plus seq, plus 1 (R391). -/
  inst : Nat
  /-- NCMD_ACK still to come for an ST of mode 2 (R347). -/
  acks : Nat
  /-- The ac of its issue. -/
  issued : Nat
  /-- Granules of it that have not arrived or are not acknowledged (Table 19-6). -/
  unacked : Nat
deriving DecidableEq, Repr

/-- A core program: the content of one half of the instruction store, with its bracket and token values
(Table 4-21). -/
structure Program where
  bracket : Nat
  tokens : List Nat
  descs : List (BitVec 256)
  /-- The five streams: sequencer, matrix, vector, load, store. -/
  streams : List (List (BitVec 128))
  /-- Bit errors of its half of the instruction store, by 64-bit word: the descriptor table, then the streams (R187). -/
  errs : Tab CodeWord
deriving DecidableEq, Repr

def Program.empty : Program := ⟨0, [], [], [], []⟩

/-- A signal to be made at operand release, in ac `made`, already in its token's count (R123, R127): the unit and stream index of its instruction, the token, the increment. -/
structure LateSig where
  made : Nat
  unit : Nat
  index : Nat
  token : Nat
  inc : Nat
deriving DecidableEq, Repr

/-- The sequencing state of a core: what decides when its units issue. -/
structure Seqr where
  prog : Program
  units : Tab UnitSt
  tokens : Tab Token
  flights : List Flight
  /-- The ac intervals in which the row-function pipeline is held (R112): from, up to but not including. -/
  holds : List (Nat × Nat)
  /-- Signals to come at operand release, in the order in which they are made (R123, R127). -/
  late : List LateSig
deriving DecidableEq, Repr

def UnitSt.idle : UnitSt := ⟨0, [], 0, .stopped, 0⟩
def Token.zero : Token := ⟨0, []⟩
def Seqr.idle : Seqr := ⟨.empty, [], [], [], [], []⟩

/-- A record of a filmstrip (Table 19-2). -/
structure FilmRec where
  word : BitVec 128
  drained : Bool
deriving DecidableEq, Repr

/-- A filmstrip (R586 to R592). -/
structure Film where
  recs : List FilmRec
  /-- 0 off, 1 armed, 2 triggered, 3 stopped, 4 truncated. -/
  phase : Nat
  /-- Records written since the trigger. -/
  post : Nat
  /-- Drain sequence of the next granule (Table 19-3, SOURCE). -/
  drainSeq : Nat
  /-- The count of its unit at which its ts counter was last 0 (R588). -/
  zero : Nat
deriving DecidableEq, Repr

def Film.off : Film := ⟨[], 0, 0, 0, 0⟩

/-- The addresses of words that arrived uncorrectable in the current step, by word, and whether the list of 32
overflowed (R617). -/
structure Arrived where
  words : List Nat
  overflow : Bool
deriving DecidableEq, Repr

def Arrived.none : Arrived := ⟨[], false⟩

/-- The step a core runs. -/
structure CoreRun where
  part : Nat
  stepSeq : Nat
  slot : Nat
  bracket : Nat
  /-- The package number of the logical core it carries. -/
  logical : Nat
  /-- The value of sfu_compat in force when the step started (R111). -/
  compat : Bool
deriving DecidableEq, Repr

/-- A physical core. -/
structure Core where
  /-- Operand buffer, 4 MiB. -/
  opnd : Ram
  /-- Accumulator memory, 1 MiB, by logical bank. -/
  acc : Ram
  sq : Seqr
  /-- The inactive half of the instruction store. -/
  other : Program
  bankActive : Bank
  bankShadow : Bank
  /-- Microprogram store and constant groups (R266). -/
  micro : List (BitVec 64)
  groups : List (List Nat)
  /-- Bit errors of the microprogram store by word, constant groups from word 256 on, and of the token file by word of four tokens
  (R617). -/
  microErrs : Tab CodeWord
  tokErrs : Tab CodeWord
  run : Option CoreRun
  arrOpnd : Arrived
  arrAcc : Arrived
  /-- The accumulator bank whose fence has been decided and waits for the step boundary (R200). -/
  bankFence : Option Nat
  /-- Times of corrected words in its own memories, for fence cause 4. -/
  ceTimes : List Nat
  film : Film
  /-- Frozen by a breakpoint (R608). -/
  frozen : Bool
  /-- The ac of the freeze, for stall_frozen. -/
  frozenAt : Nat
  /-- Address breakpoints passed: hits counted in the step, by breakpoint number. -/
  bpCount : Tab Nat
  /-- The units whose heads a breakpoint has hit and which issue them without hitting again (R609), as a mask. -/
  bpPass : Nat
  /-- The unit, plus 1, that a single step lets issue one instruction (R609). -/
  single : Nat
  /-- The ac of the step in which its last event took place. -/
  ac : Nat
  /-- The cluster's running ac count at the step's start, for record times (Table 19-2). -/
  acBase : Nat
deriving DecidableEq, Repr

def Core.idle : Core :=
  { opnd := .empty, acc := .empty, sq := .idle, other := .empty, bankActive := .empty, bankShadow := .empty
    micro := [], groups := [], microErrs := [], tokErrs := [], run := none, arrOpnd := .none, arrAcc := .none, bankFence := none, ceTimes := [], film := .off
    frozen := false, frozenAt := 0, bpCount := [], bpPass := 0, single := 0, ac := 0, acBase := 0 }

/-- A landing counter (R129, R130). -/
structure Landing where
  count : Nat
  /-- Threshold crossings not yet signalled. -/
  due : Nat
  bound : Bool
  start : Nat
  granules : Nat
  core : Nat
  token : Nat
  threshold : Nat
deriving DecidableEq, Repr

def Landing.unbound : Landing := ⟨0, 0, false, 0, 0, 0, 0, 0⟩

/-- A remote signal in flight (R126). -/
structure Remote where
  core : Nat
  token : Nat
  inc : Nat
  visible : Nat
  /-- The physical core and unit that signalled. -/
  fromPc : Nat
  fromUnit : Nat
deriving DecidableEq, Repr

/-- A cluster: its buffer of 24 MiB, its landing counters, remote signals in flight. -/
structure Cluster where
  buf : Ram
  land : Tab Landing
  remote : List Remote
  arrived : Arrived
  /-- Bit errors of its landing counters, by counter (R618). -/
  landErrs : Tab CodeWord
deriving DecidableEq, Repr

def Cluster.idle : Cluster := ⟨.empty, [], [], .none, []⟩

end Sys2Proof.Machine
end

