-- ==== Sys2Proof/Machine/ImageState.lean ====
section
/-! DEFINITION. A loaded Bielaob image by its tables (04_instruction_and_image_reference.md, Tables 4-12 to 4-22;
07, Tables 7-7 and 7-8). Plain data. -/

namespace Sys2Proof.Machine

/-- A bracket entry (Table 4-15). -/
structure BracketE where
  bracket : Nat
  accBanks : Nat
  passes : Nat
  flags : Nat
  limits : List Nat
  segments : Nat
  contractFirst : Nat
  coreMask : Nat
deriving DecidableEq, Repr

/-- A contract entry (Table 4-16). -/
structure ContractE where
  aAc : Nat
  wNs : Nat
  segment : Nat
  pass : Nat
  flags : Nat
deriving DecidableEq, Repr

/-- A region entry (Table 4-17). -/
structure RegionE where
  region : Nat
  kind : Nat
  place : Nat
  cluster : Nat
  ref : Nat
  init : Nat
  size : Nat
  base : Nat
  initWindow : Nat
  initOffset : Nat
deriving DecidableEq, Repr

/-- A bandwidth reservation entry (Table 4-18). -/
structure ReservE where
  bracket : Nat
  unit : Nat
  core : Nat
  target : Nat
  rate : Nat
deriving DecidableEq, Repr

/-- A collective entry (Table 4-19) with its rank list. -/
structure CollE where
  index : Nat
  group : Nat
  orderKey : Nat
  operation : Nat
  dataFmt : Nat
  ranks : List Nat
  length : Nat
  chunkBytes : Nat
deriving DecidableEq, Repr

/-- A core program index entry with its blob (Tables 4-20, 4-21). -/
structure CoreProg where
  core : Nat
  program : Program
deriving DecidableEq, Repr

/-- A landing-counter entry (Table 4-22). -/
structure LandE where
  bracket : Nat
  die : Nat
  cluster : Nat
  counter : Nat
  start : Nat
  granules : Nat
  core : Nat
  token : Nat
  threshold : Nat
deriving DecidableEq, Repr

/-- The microprogram section (Tables 7-7, 7-8). -/
structure MicroSec where
  flags : Nat
  words : List (BitVec 64)
  programs : List (Nat × Nat)
  groups : List (List Nat)
  sets : List Bank
deriving DecidableEq, Repr

def MicroSec.empty : MicroSec := ⟨0, [], [], [], []⟩

/-- The reference times of one unit of one core (R599): the issue ac of each instruction instance in the dry run, from
the start of the step's first segment, at 1.25 GHz. -/
structure RefTimes where
  bracket : Nat
  core : Nat
  unit : Nat
  acs : List Nat
  /-- The ac at which each segment begins: 0, then the release of each yield point (R143). -/
  segs : List Nat
  /-- Its STs of mode 1: order key and ac. -/
  starts : List (Nat × Nat)
deriving DecidableEq, Repr

/-- A loaded image. -/
structure Image where
  id : Nat
  fallbackId : Nat
  passSig : Nat
  flags : Nat
  digest : List Byte
  brackets : List BracketE
  contracts : List ContractE
  regions : List RegionE
  reservs : List ReservE
  colls : List CollE
  programs : List CoreProg
  landings : List LandE
  micro : Option MicroSec
  refs : List RefTimes
deriving DecidableEq, Repr

def Image.empty : Image := ⟨0, 0, 0, 0, [], [], [], [], [], [], [], [], none, []⟩

end Sys2Proof.Machine
end

