-- ==== Sys2Proof/Machine/CollState.lean ====
section
/-! DEFINITION. What the collective engines hold (11_collectives.md): instances, their chunks and nodes, messages not
yet acknowledged. Plain data. -/

namespace Sys2Proof.Machine

/-- The state of a chunk at a member (Table 11-6). -/
inductive ChunkPhase where
  | opened
  | provisional
  | recalled
  | fixed
  | aborted
deriving DecidableEq, Repr

/-- A node of the tree computed on this module for a chunk and round (R381, R382). -/
structure NodeSt where
  first : Nat
  span : Nat
  round : Nat
  left : Option (List Byte)
  right : Option (List Byte)
  value : Option (List Byte)
  verdict : Option Bool
  cleanL : Bool
  cleanR : Bool
  cleanSent : Bool
  /-- The result has come to this node and been passed on below it (R387). -/
  passed : Bool
  /-- Chunks that came from other modules and wait in the landing buffer for the node's other child (R396). -/
  waiting : Nat
deriving DecidableEq, Repr

/-- A message seen for a chunk: kind, node and round (R384). -/
structure Seen where
  kind : Nat
  first : Nat
  span : Nat
  round : Nat
deriving DecidableEq, Repr

/-- A chunk of an instance. -/
structure ChunkSt where
  phase : ChunkPhase
  round : Nat
  /-- Every granule of it is in the input area (R378). -/
  ready : Bool
  /-- The module's part of it has gone out, or its REDUCE has been issued, in this round. -/
  sent : Bool
  /-- The local node's REDUCE has ended clean in this round (R381). -/
  localClean : Bool
  /-- CCLEAN for the module's leaf or local node has gone out in this round. -/
  leafClean : Bool
  nodes : List NodeSt
  /-- Rounds in which the root's computer sent CRECALL (Table 11-8). -/
  recalledRounds : List Nat
  seen : List Seen
  /-- Ranks whose data has landed, for an operation that does not add. -/
  landed : List Nat
  /-- Modules whose CACK for this module's data is still to come. -/
  waits : List Nat
deriving DecidableEq, Repr

def ChunkSt.new : ChunkSt := ⟨.opened, 0, false, false, false, false, [], [], [], [], []⟩

/-- An instance (R374). -/
structure Inst where
  part : Nat
  group : Nat
  seq : Nat
  epoch : Nat
  key : Nat
  entry : CollE
  /-- An ST of mode 1 of this module has opened it. -/
  started : Bool
  /-- 0 no slot, 1 the partition's escape slot, 2 the shared pool (R395, R398). -/
  slot : Nat
  /-- The spread or placed device address of the instance buffer (R370). -/
  base : Nat
  /-- Granules of the input area written by STs of mode 1. -/
  written : List Nat
  chunks : Tab ChunkSt
  abort : Option Nat
  /-- The step that started it runs speculatively (R391). -/
  speculative : Bool
  /-- A core of the step has used a provisional result (R393), and the tokens, by physical core, that the completion of an ST of
  it signalled while chunks were Provisional. -/
  used : Bool
  signals : List (Nat × Nat)
  /-- The message that made it known, until the local entry is compared with it (R376). -/
  first : Option CollMsg
  /-- Device time at which its last local chunk became ready, for collective wait (R405). -/
  readyAt : Option Nat
deriving DecidableEq, Repr

/-- A message between modules that is not yet acknowledged (R402). -/
structure Sent where
  msg : CollMsg
  payload : List CodeWord
  /-- The fabric port it last left by, and its number there (R492); 0xFF while it waits for one (R493). -/
  port : Nat
  msgId : Nat
  resends : Nat
  /-- The wait that the last CBUSY brought, in µs (R399). -/
  waitUs : Nat
  /-- The numbers it left by before: none is used again until its CACK (R493). -/
  used : List Nat
deriving DecidableEq, Repr

/-- The numbers under which a message awaits its CACK (R493). -/
def Sent.ids (x : Sent) : List Nat := if x.port = 0xFF then x.used else x.msgId :: x.used

/-- A message refused with CBUSY and waiting to be sent again (R399). -/
structure Backoff where
  msg : CollMsg
  payload : List CodeWord
  waitUs : Nat
deriving DecidableEq, Repr

/-- A message between modules still arriving in the message window (R494). -/
structure Assembly where
  src : Nat
  msgId : Nat
  /-- The words of its writes, by offset. -/
  words : Tab (List CodeWord)
deriving DecidableEq, Repr

/-- A CQUERY, CREPLY or CABORT that has been taken: kind, sender and instance (R384). -/
structure Heard where
  kind : Nat
  src : Nat
  group : Nat
  seq : Nat
deriving DecidableEq, Repr

/-- What a collective engine would have done for an instance that a stop bath holds (R603): the end of a local node's REDUCE, the
verdict on a node. -/
inductive HeldWork where
  | reduce (group seq chunk round status : Nat)
  | verdict (group seq chunk first span : Nat) (clean : Bool)
deriving DecidableEq, Repr

def HeldWork.inst : HeldWork → Nat × Nat
  | .reduce g q _ _ _ => (g, q)
  | .verdict g q _ _ _ _ => (g, q)

/-- The collective engines of the module. -/
structure CollUnit where
  insts : List Inst
  sent : List Sent
  backoff : List Backoff
  /-- Messages recorded under a stop bath, oldest first (R603). -/
  held : List (CollMsg × List CodeWord)
  /-- Work of held instances, oldest first. -/
  parked : List HeldWork
  /-- CACKs that wait for a message number, oldest first (R493). -/
  cacks : List CollMsg
  assembly : List Assembly
  heard : List Heard
deriving DecidableEq, Repr

def CollUnit.idle : CollUnit := ⟨[], [], [], [], [], [], [], []⟩

end Sys2Proof.Machine
end

