-- ==== Sys2Proof/Machine/StepState.lean ====
section
/-! DEFINITION. Steps, requests and what a partition, a client and an image slot hold
(13_serving_and_scheduling.md, 12, 04). Plain data. -/

namespace Sys2Proof.Machine

/-- A bound argument slot (Table 13-3). -/
structure Arg where
  bound : Bool
  base : Nat
  len : Nat
  fill : Nat
deriving DecidableEq, Repr

def Arg.none : Arg := ⟨false, 0, 0, 0⟩

/-- A step request as the device took it (Table 13-2). -/
structure Request where
  client : Nat
  seq : Nat
  epoch : Nat
  slot : Nat
  flags : Nat
  deadline : Nat
  size : List Nat
  tag : Nat
  args : List Arg
  taken : Nat
  /-- A reserved field is nonzero, or arg_count exceeds 12 (Table 13-4, check 1). -/
  malformed : Bool
deriving DecidableEq, Repr

/-- Why a step failed (Table 13-6). -/
structure Failure where
  cause : Nat
  reason : Nat
  detail : Nat
  unit : Option Nat
deriving DecidableEq, Repr

/-- Where an accepted step stands. -/
inductive Stage where
  | queued
  | running
  | parked
  /-- Stopped by a fence; it restarts at the next boundary (R446). -/
  | replay
deriving DecidableEq, Repr

/-- The saved state of one logical core of a parked step (R442). -/
structure SavedCore where
  logical : Nat
  /-- The physical core that carried it. -/
  phys : Nat
  core : Core
deriving DecidableEq, Repr

/-- The saved state of one cluster of a parked step (R442). -/
structure SavedCluster where
  cluster : Nat
  state : Cluster
deriving DecidableEq, Repr

/-- An accepted, unfinished step. -/
structure Step where
  req : Request
  stage : Stage
  /-- The image slot and bracket it runs on now. -/
  slot : Nat
  bracket : Nat
  onFallback : Bool
  backfill : Bool
  acceptTime : Nat
  /-- B and E of R432. -/
  bound : Nat
  planned : Nat
  /-- Class of admission (R311), 4 for the emergency class, and the class of every stack at acceptance. -/
  cls : Nat
  classes : List Nat
  /-- Clock of the envelope it was accepted under, in kHz. -/
  clock : Nat
  startTime : Nat
  started : Bool
  queueWait : Nat
  collWait : Nat
  excused : Nat
  parkedNs : Nat
  parkedAt : Nat
  /-- Segment in progress, its planned end, whether a barrier is pending release. -/
  segment : Nat
  segEnd : Nat
  /-- Logical cores that have arrived at the barrier, and whether at step end. -/
  arrived : List Nat
  atEnd : Bool
  breach : Bool
  dodgePass : Option Nat
  replayed : Bool
  rollback : Bool
  preempted : Bool
  preemptReq : Bool
  fail : Option Failure
  /-- Stopped and to be replayed once its cores have stopped (R445); a core fence stopped it (Table 12-4, counter 01). -/
  replayReq : Bool
  fenced : Bool
  /-- The frames of the tier pages it pins (R325). -/
  pins : List Nat
  /-- Export bytes reserved per window (R332). -/
  exports : List (Nat × Nat)
  savedCores : List SavedCore
  savedClusters : List SavedCluster
  /-- Collective instances it has started, as group times 65,536 plus seq, and those that existed when this run of it began
  (R393). -/
  insts : List Nat
  oldInsts : List Nat
  /-- Its collective wait when this run began (R405). -/
  waitBase : Nat
  /-- NMU commands each logical core has started in this run of the step and not seen ended (R349), and the number of runs
  begun. -/
  nmuOpen : Tab Nat
  runs : Nat
  /-- The part of its collective wait spent on instances of operation 5 or 6 (Table 12-4). -/
  peerWait : Nat
  /-- W × (s_c − 1) over the segments this run has completed, in hundredths of a nanosecond, and the nanoseconds counted to
  `busy` while it ran (Table 12-4). -/
  thermNs : Nat
  busyNs : Nat
  /-- Device time of the last core's arrival at the barrier in progress. -/
  arrivedAt : Nat
  /-- Cores that have still to leave a yield point whose barrier is complete (R146). -/
  leaving : List Nat
  /-- A recall has rolled it back: it restarts from its prologue (R393). -/
  rollReq : Bool
  /-- determinism and sfu_compat in force when it started (R111), and speculative (R391). -/
  determ : Bool
  compat : Bool
  speculative : Bool
  /-- The map generation and the retired pseudo-channels of every stack, as masks, when it started (R353). -/
  mapGen : Nat
  mapRetired : List Nat
deriving DecidableEq, Repr

/-- A stop bath of a partition, as armed (R600 to R605). -/
structure StopBath where
  /-- 0 step mode, 1 order-key mode. -/
  mode : Nat
  stepSeq : Nat
  segment : Nat
  /-- Offset of T in ns. -/
  offset : Nat
  epoch : Nat
  key : Nat
  /-- Dies that have taken STOP, and dies that have reported STOPPED. -/
  reached : List Nat
  stoppedDies : List Nat
deriving DecidableEq, Repr

/-- A partition. -/
structure Part where
  /-- Q_p: accepted primary steps in run order (R431). -/
  queue : List Step
  /-- Accepted backfill steps (R412). -/
  backfill : List Step
  /-- Requests held for tier fills (R326). -/
  held : List Request
  /-- Group sequence counters, by group_id (R374). -/
  groupSeq : Tab Nat
  stop : Option StopBath
  /-- Newest step_seq and epoch started (R600). -/
  started : List (Nat × Nat)
  /-- Device time of the last capture that it caused (R596). -/
  lastHang : Option Nat
  /-- Device time of a hang event whose contact sheet is still to be captured (R596, Table 19-13). -/
  hangAt : Option Nat
  /-- Serving class of each stack for this partition (R311), by stack. -/
  serveClass : Tab Nat
  /-- The program prefetched into the inactive halves: step_seq (R148). -/
  prefetched : Option Nat
  /-- A fence, remap or retirement waits for the next step boundary. -/
  mapDirty : Bool
  /-- Values in force that differ from the base value (R511, R533): what an applied overlay gives, or what an RWS
  object held before a write that waits for the next step boundary. -/
  force : Tab (Option Nat)
  /-- Granules its trace has drained (R593). -/
  drained : Nat
deriving DecidableEq, Repr

def Part.idle : Part := ⟨[], [], [], [], none, [], none, none, [], none, false, [], 0⟩

/-- A client: records written to its ring, records waiting for room (R437), with their MSI-X request. -/
structure Client where
  written : Nat
  waiting : List (List Byte × Bool)
  /-- Watching its step table (R425). -/
  watching : Bool
deriving DecidableEq, Repr

def Client.idle : Client := ⟨0, [], false⟩

/-- What a slot's checks count from: the configuration in force when slot_enable was written (R194). -/
structure HeldConfig where
  dict : Tab (Option Nat)
deriving DecidableEq, Repr

/-- An image slot. -/
structure Slot where
  image : Option Image
  /-- Region base addresses assigned at activation, by region number. -/
  bases : List (Nat × Nat)
  held : Option HeldConfig
deriving DecidableEq, Repr

def Slot.empty : Slot := ⟨none, [], none⟩

end Sys2Proof.Machine
end

