-- ==== Sys2Proof/Machine/PlatformState.lean ====
section
/-! DEFINITION. What the rest of the module holds: stacks, dies and ports, collective engines, codec, host port,
security, conductor. Plain data. -/

namespace Sys2Proof.Machine

/-- An NMU command of an M-die, arriving, held or running (10_beside_memory_units.md R346 to R353). -/
structure NmuCmd where
  /-- Granules received, header first, each with the words found uncorrectable. -/
  granules : List (List Byte)
  bad : Bool
  srcDie : Nat
  srcCluster : Nat
  srcCore : Nat
  /-- The step it was sent by, as its client and step_seq (R427), and which run of it (R349). -/
  client : Nat
  stepSeq : Nat
  stepRun : Nat
  /-- The map of the stack at the step's start: retired channels and map generation (R353). -/
  retired : List Nat
  generation : Nat
  /-- All its granules have arrived. -/
  held : Bool
  running : Bool
  /-- It arrived by a region of kind 2 (R350). -/
  placed : Bool
  /-- Status so far, and the place of the fault (Table 10-6). -/
  status : Nat
  faultPc : Nat
  faultIndex : Nat
  /-- What each NMU has computed, as FP32 encodings, by pseudo-channel. -/
  partials : List (List Nat)
  /-- For a REDUCE of a collective engine: group, seq, chunk, round. -/
  coll : Option (Nat × Nat × Nat × Nat)
deriving DecidableEq, Repr

/-- A stack and its M-die. -/
structure Stack where
  /-- Thermal class 0 to 3, and the emergency share (R309, R313). -/
  thermal : Nat
  emergency : Bool
  /-- Retired pseudo-channels in order of retirement (R314). -/
  retired : List Nat
  /-- Blocks of the current migration already moved, and the copy of the block in transit is pending (R318). -/
  moved : Nat
  migrating : Bool
  /-- A second retirement waiting for R322 step 3, and client and step_seq of the steps accepted before its decision. -/
  waiting2 : Bool
  older : List (Nat × Nat)
  /-- Consecutive training failures per pseudo-channel (R308). -/
  trainFails : Tab Nat
  training : Option Nat
  /-- Times of correctable words, per pseudo-channel (R314). -/
  ceLog : Tab (List Nat)
  /-- Times and granules of uncorrectable words, per pseudo-channel. -/
  ueLog : Tab (List (Nat × Nat))
  /-- Next granule row of the patrol scrub, per pseudo-channel. -/
  scrub : Tab Nat
  /-- Commands held per partition (R348). -/
  cmds : Tab (List NmuCmd)
  /-- Token buckets in granules per partition, the host's at 16 (R300). -/
  buckets : Tab Nat
  /-- Pseudo-channels reported as beyond retirement, with two retired or the switch off (R314, R317). -/
  exhausted : List Nat
  film : Film
deriving DecidableEq, Repr

def Stack.idle : Stack :=
  { thermal := 0, emergency := false, retired := [], moved := 0, migrating := false, waiting2 := false, older := []
    trainFails := [], training := none, ceLog := [], ueLog := [], scrub := [], cmds := [], buckets := []
    exhausted := [], film := .off }

/-- A page of the tier cache (R324 to R329). -/
structure TierPage where
  window : Nat
  page : Nat
  part : Nat
  /-- Its 4 KiB frame, by number from the start of the spread view. -/
  frame : Nat
  generation : Nat
  /-- Steps pinning it. -/
  pins : Nat
  lastUse : Nat
deriving DecidableEq, Repr

/-- A page fill (R326, R327); `resent` after a read timeout. -/
structure Fill where
  window : Nat
  page : Nat
  part : Nat
  /-- The window's generation when it began; 65,536 once a generation write has made it stale (R329). -/
  generation : Nat
  started : Nat
  resent : Bool
  /-- For a region copy of R330: the device address written instead of a cache frame, and the bytes of the page copied. -/
  target : Option Nat
  len : Nat
  /-- The page, when it has been read and waits for a step to complete because every page of the share is pinned (R328). -/
  data : Option (List CodeWord)
  /-- The port its read went by (R327, R496). -/
  port : Nat
deriving DecidableEq, Repr

/-- A run of bytes staged in an export ring, in write order (R331). -/
structure Staged where
  /-- The partition that wrote it. -/
  part : Nat
  offset : Nat
  ringPos : Nat
  len : Nat
deriving DecidableEq, Repr

/-- An export window's ring and, in negative mode, the part being written (R331, R419 to R421). -/
structure Export where
  /-- Staged runs not yet sent to the far target. -/
  staged : List Staged
  /-- Bytes ever staged, sent and acknowledged. -/
  written : Nat
  sent : Nat
  acked : Nat
  /-- Bytes sent and not acknowledged, by partition, oldest first. -/
  owed : List (Nat × Nat)
  /-- The directory as written, sections done, bytes of the section in progress, digests of the done ones. -/
  negDir : List Byte
  negIdx : Nat
  negBuf : List Byte
  negDigests : List Byte
  /-- The seal block of a sealing ST, and the bytes written before it. -/
  sealBlock : Option (List Byte)
  sealAt : Nat
deriving DecidableEq, Repr

def Export.idle : Export := ⟨[], 0, 0, 0, [], [], 0, [], [], none, 0⟩

/-- A packet sent through an edge port whose flits are held for a replay (R26): the sequence number of its control flit, its
header, the words of its data flit. -/
structure HeldPacket where
  seq : Nat
  header : TxHeader
  words : List CodeWord
  /-- The router port it came in by; 0 for one that its own die sent. -/
  inPort : Nat
deriving DecidableEq, Repr

/-- An edge port: what it has received, and what it has sent (01 R17 to R33). -/
structure LinkSt where
  /-- 0 not trained, 1 in service, 2 out of service. -/
  state : Nat
  /-- Sequence number of the last control flit received intact. -/
  lastSeq : Nat
  /-- The headers that the data flits after that control flit belong to, in order; none for one that was dropped (R24). -/
  group : List (Option TxHeader)
  /-- The place of the next flit: 0 that control flit again in a replay, 1 on its data flits, then the next control flit. -/
  place : Nat
  /-- Places taken, that control flit's among them; 0 before the first one. -/
  taken : Nat
  /-- By place: replays asked for its flit, and the words found uncorrectable when it last came, with their syndromes. -/
  replays : Tab Nat
  bad : Tab (List (Nat × Nat))
  /-- A flit was uncorrectable and its replay has not been asked for. -/
  waiting : Bool
  /-- Sequence number of the next control flit sent, and the packets held for a replay, oldest first. -/
  sendSeq : Nat
  held : List HeldPacket
  /-- Credits held for the other side, by virtual channel, in flits (R30; 8 at training: log entry 25). -/
  credits : Tab Nat
  /-- Flits of other classes sent since the last latency-critical one, up to 14 (R33). -/
  sinceLc : Nat
deriving DecidableEq, Repr

def LinkSt.idle : LinkSt := ⟨0, 0xFFF, [], 1, 0, [], [], false, 0, [], [], 14⟩

/-- A packet waiting at a router output (R32, R636). -/
structure Packet where
  die : Nat
  port : Nat
  header : TxHeader
  words : List CodeWord
  stale : Bool
  /-- The router's input port it came by, and the virtual channel it takes at the output. -/
  inPort : Nat
  vc : Nat
deriving DecidableEq, Repr

/-- What the block sends. Oldest first in `State.out`. -/
inductive Output where
  /-- A posted write of bytes to host memory through P0. -/
  | hostWrite (addr : Nat) (data : List Byte)
  /-- A read of host memory through P0. -/
  | hostRead (addr len : Nat)
  /-- An MSI-X message. -/
  | msix (vector : Nat)
  /-- A mesh transaction with its data words. -/
  | packet (t : TxHeader) (words : List CodeWord)
  /-- A collective message inside the package. -/
  | coll (m : CollMsg) (payload : List CodeWord)
  /-- A CSTART to the X-dies: the granules of the input area that were written. -/
  | cstart (m : CollMsg) (first count : Nat)
  /-- A UIO write through a fabric port to a destination PID, its words with their check bits. -/
  | uio (port pid addr : Nat) (data : List CodeWord)
  /-- The completion of a UIO write that came by a fabric port (R494). -/
  | uioCompletion (port addr : Nat)
  /-- A read or a write of far memory through a fabric port. -/
  | farRead (port target addr len : Nat)
  /-- The words, with their check bits, that cover `len` bytes at `addr` (R103). -/
  | farWrite (port target addr len : Nat) (data : List CodeWord)
  /-- A CXL.mem or CXL.cache message of P0 about a line, by name. -/
  | p0 (name : String) (addr : Nat) (data : List Byte)
  /-- A debug-ring message to a die (0x40: every die), by name, with its term and value. -/
  | ring (name : String) (die term value : Nat)
  /-- A link message of an edge port, by name. -/
  | link (name : String) (die port value : Nat)
  /-- A flit sent again by an edge port, as nine UI of 256 lanes (R18, R26). -/
  | flit (die port : Nat) (ui : List (BitVec 256))
  /-- A response on a management path: reason and payload, with CXL return code 0 where the path carries one (R505). -/
  | response (path code : Nat) (data : List Byte)
  /-- The response to a malformed vendor FM API command: CXL return code "invalid input", with its reason (R506). -/
  | invalidInput (path code : Nat)
  /-- An SPDM response of a carrier (0 to 7 a port's DOE instance, 8 MCTP), by its name; an ERROR carries its code's name. -/
  | spdm (carrier : Nat) (name : String) (data : List Byte)
  /-- A pin of the module driven to a level. -/
  | pin (name : String) (level : Bool)
deriving DecidableEq, Repr

end Sys2Proof.Machine
end

