-- ==== Sys2Proof/Machine/ModuleState.lean ====
section
/-! DEFINITION. What the module as a whole holds: access paths and the host port (15, 16), power and bring-up (17, 21),
security (18), time (15 R499 to R503), the conductor (20 R627 to R632), codec channels (14). Plain data. -/

namespace Sys2Proof.Machine

/-- A dictionary access held while leadership passes (R515). -/
inductive HeldAccess where
  | read (path : Path) (o sub piece : Nat)
  | write (path : Path) (o sub piece : Nat) (data : List Byte)
  | number (path : Path) (o sub v : Nat)
  | value (path : Path) (o sub : Nat) (data : List Byte)
  | routeRead (path : Path) (port : ByteField) (first count : Nat)
  | routeWrite (path : Path) (port : ByteField) (first : Nat) (entries : List Byte)
  | badLength (path : Path)
  | firmware (data : List Byte)
deriving DecidableEq, Repr

/-- True for an access that came through the window of P0 (Table 15-4). -/
def HeldAccess.byWindow : HeldAccess → Bool
  | .read p _ _ _ | .write p _ _ _ _ | .number p _ _ _ | .value p _ _ _ | .badLength p => p == .mmio
  | .routeRead .. | .routeWrite .. | .firmware _ => false

/-- What an access path holds (R516, R517, Table 16-4). -/
structure PathSt where
  describe : Nat
  /-- The value being written in pieces: its key and the bytes so far. -/
  staged : Option (Nat × List Byte)
  /-- Encodings as of this path's last read of piece 0, by key. -/
  seen : Tab (List Byte)
deriving DecidableEq, Repr

def PathSt.idle : PathSt := ⟨0, none, []⟩

/-- An HDM decoder of P0 (R481). -/
structure Decoder where
  committed : Bool
  error : Bool
  base : Nat
  size : Nat
deriving DecidableEq, Repr

def Decoder.idle : Decoder := ⟨false, false, 0, 0⟩

/-- A watched line (R485, R486): reads of its entry in flight, a write learned of during a read, in an argument pool whether a
BISnpData of it waits for its response, and the line of host memory that the watch cache holds. -/
structure Watch where
  reads : Nat
  again : Bool
  snooped : Bool
  line : Option (List Byte)
deriving DecidableEq, Repr

def Watch.idle : Watch := ⟨0, false, false, none⟩

/-- An entry of the MSI-X table (Table 15-3), and its mask. -/
structure MsixEntry where
  addr : Nat
  data : Nat
  masked : Bool
deriving DecidableEq, Repr

/-- What P0's function holds of registers that PCIe and CXL define (R479, Table 15-3): its configuration space, BAR0's component
registers (RAS, link, IDE), BAR2's status and primary mailbox, by offset; the MSI-X table and pending bits; the mode that the host
selects for CXL.cachemem IDE (R497). No command of the table writes one: they stand as a reset leaves them (log entry 233). -/
structure P0Function where
  config : Tab Nat
  component : Tab Nat
  device : Tab Nat
  msix : Tab MsixEntry
  msixPending : List Nat
  ideSkid : Bool
deriving DecidableEq, Repr

def P0Function.idle : P0Function := ⟨[], [], [], [], [], false⟩

/-- P0 beyond its dictionary objects: flit mode, the dictionary access window (Table 15-4), decoders, watched lines by
client number, codec channels from 4,096. -/
structure HostPort where
  flit256 : Bool
  xwCtrl : Nat
  xwReason : Nat
  xwReturned : Nat
  xwError : Bool
  xwData : List Byte
  dec0 : Decoder
  dec1 : Decoder
  watch : Tab Watch
  /-- General Media Event records kept for the host: device physical addresses (R484). -/
  mediaEvents : List Nat
  function : P0Function
  /-- Partitions that have accepted a step since the stall of P0 began (R488). -/
  stallTold : List Nat
  /-- The dynamic I3C address of the module, when it has one (R504). -/
  i3c : Option Nat
deriving DecidableEq, Repr

def HostPort.idle : HostPort := ⟨false, 0, 0, 0, false, [], .idle, .idle, [], [], .idle, [], none⟩

/-- Where the module stands between off and released (17). -/
inductive Phase where
  /-- The auxiliary rail is out of range. -/
  | off
  /-- The safelight domain runs; the 48 V input is out of range. -/
  | auxOnly
  | asleep
  /-- Bring-up, before the release of R539. -/
  | bringUp
  | running
deriving DecidableEq, Repr

/-- Supplies, straps, pins and test strips. -/
structure Power where
  phase : Phase
  /-- The 48 V input is in range. -/
  supplyOk : Bool
  /-- Straps as the pins stand, and as latched (R640). -/
  envPin : Nat
  midPin : Nat
  env : Nat
  mid : Nat
  perst : Bool
  pwrgd : Bool
  fault : Bool
  /-- The next round of the fixed set, 4 when all have started; none when no fixed set runs (R540). -/
  round : Option Nat
  /-- Regions under test (R541). -/
  testing : List Nat
  /-- The requested strip, and whether `fence_clear` asked for it (R547, R624). -/
  requested : Option (Nat × Bool)
  /-- No firmware copy verified: no release until a cold reset (R540). -/
  failed : Bool
  /-- The bring-up that runs follows a warm reset (R561). -/
  warm : Bool
deriving DecidableEq, Repr

def Power.cold : Power :=
  { phase := .off, supplyOk := false, envPin := 0, midPin := 0, env := 0, mid := 0, perst := true, pwrgd := false
    fault := false, round := none, testing := [], requested := none, failed := false, warm := false }

/-- A copy of a firmware stage: what its header states, and the image (Table 18-1): empty for what the module is shipped with. -/
structure FwCopy where
  present : Bool
  keySlot : Nat
  revoke : Nat
  version : Nat
  security : Nat
  image : List Byte
deriving DecidableEq, Repr

/-- The copy a module is shipped with (log entry 24). -/
def FwCopy.factory : FwCopy := ⟨true, 0, 0, 0x00010000, 0, []⟩

/-- An SPDM session (R577): its carrier, 0 to 7 a port's DOE instance, 8 MCTP. -/
structure Session where
  id : Nat
  carrier : Nat
  established : Bool
  /-- What the requester sent with KEY_EXCHANGE. -/
  exchange : List Byte
deriving DecidableEq, Repr

/-- Firmware copies by stage, the identity key, sessions and link keys. -/
structure Security where
  stage1 : List FwCopy
  stage2 : List FwCopy
  /-- The copies that booted; none when none verified (R540). -/
  active1 : Option Nat
  active2 : Option Nat
  /-- The copy a boot tries first: the one last written by a verified update (R569). -/
  first1 : Nat
  first2 : Nat
  running1 : FwCopy
  running2 : FwCopy
  sessions : List Session
  /-- IDE keys by port and stream (`ideSlot`), with the number after that of the session that programmed them while it lasts
  (R578, R579). -/
  ide : Tab (List Byte)
  ideSession : Tab Nat
  /-- The private identity key, held in the nonvolatile store under the device root key (R572): none before it is made and once it is
  destroyed; empty for the one made in manufacture. -/
  identity : Option (List Byte)
  /-- The device root key is intact in the fuses (R572, Table 18-5). -/
  rootKey : Bool
deriving DecidableEq, Repr

/-- The place of a key in `ide`: 128 for each port; CXL.cachemem, the link stream, selective streams (R579). -/
def ideSlot (port : Nat) (st : IdeStream) : Nat :=
  128 * port + (match st with | .cachemem => 0 | .link => 1 | .selective k => 2 + k.toNat)

def Security.factory : Security :=
  ⟨[.factory, .factory], [.factory, .factory], none, none, 0, 0, .factory, .factory, [], [], [], some [], true⟩

/-- The discipline of device time (R499 to R503): the correction still to be slewed in ns, the ns since the last ns of
it, whether the source is lost, an outstanding PTM request; and what the free-running counters of the record times count
(Table 19-2): nanoseconds, and millionths of an ac. -/
structure TimeSt where
  slew : Int
  since : Nat
  holdover : Bool
  asked : Bool
  ticks : Nat
  acMicro : Nat
deriving DecidableEq, Repr

def TimeSt.idle : TimeSt := ⟨0, 0, false, false, 0, 0⟩

/-- A token register of B5, B6 or B10 (R627). -/
structure TokenReg where
  owner : Nat
  term : Nat
  free : Bool
  /-- Its countdown, in ns: set by each grant and renewal it accepts (R627). -/
  left : Nat
deriving DecidableEq, Repr

/-- The countdown of an accepted grant or renewal: 2.000 ms (R627). -/
def leaseNs : Nat := 2000000

/-- The election of the conductor. -/
structure Conductor where
  regs : List TokenReg
  /-- An S-die holds office. -/
  inOffice : Bool
  /-- Registers that have acknowledged the present round of renewals. -/
  acks : List Nat
  /-- The claim in progress: S-die and term. -/
  claim : Option (Nat × Nat)
deriving DecidableEq, Repr

def Conductor.vacant : Conductor :=
  ⟨[⟨0, 0, true, 0⟩, ⟨0, 0, true, 0⟩, ⟨0, 0, true, 0⟩], false, [], none⟩

/-- A job of a codec channel (Table 14-3) that has been taken. -/
structure Job where
  entry : List Byte
  started : Nat
  /-- Its effect has been made: it waits for its end. Status and the fields of Table 14-8 from bytes to qp_avg. -/
  done : Bool
  status : Nat
  picType : Nat
  bytes : Nat
  concealed : Nat
  clipped : Nat
  order : Nat
  extra : Nat
  qp : Nat
  /-- Waiting for ring space (R456). -/
  waiting : Bool
  /-- Release records that go before its own (R466): job_seq and tag. -/
  releases : List (Nat × Nat)
  /-- A DECODE job whose picture is decoded and not yet stored, with the state of its decoder: true when it has a damaged unit, and true
  when it cannot be decoded at all (R467, R468). -/
  picture : Option (Nat × Bool × Bool)
deriving DecidableEq, Repr

/-- A picture a decoder keeps as a reference: the job's job_seq and tag, its picture descriptor (R464). -/
structure RefPic where
  seq : Nat
  tag : Nat
  pic : List Byte
deriving DecidableEq, Repr

/-- A reconstruction an encode channel keeps in its ref area: its address, its width and height (Table 14-7). -/
structure Recon where
  addr : Nat
  w : Nat
  h : Nat
deriving DecidableEq, Repr

/-- A codec channel beyond its dictionary objects. -/
structure Channel where
  /-- Jobs taken and not ended, the running one first (R448). -/
  jobs : List Job
  /-- Records written to its ring, and records waiting, with their MSI-X request. -/
  written : Nat
  records : List (List Byte × Bool)
  /-- The next ENCODE job is a random-access picture (R474). -/
  forceRa : Bool
  /-- The previous picture of an ANALYSE job since the channel entered recovery: its luma width and samples (R463). -/
  prev : Option (Nat × List Nat)
  /-- Pictures its decoder holds as references, oldest first (R465, R466). -/
  refs : List RefPic
  /-- The two latest reconstructions its encoder may search, oldest first (R459, R472). -/
  recons : List Recon
  /-- The state of its encoder, or of its decoder, which its job sequence decides (R456, R460, R464). -/
  coder : Nat
  /-- Pictures coded since the last random-access one, and B pictures since the last other one (Table 14-11, gop_length and
  b_frames). -/
  sinceRa : Nat
  bRun : Nat
deriving DecidableEq, Repr

def Channel.idle : Channel :=
  { jobs := [], written := 0, records := [], forceRa := false, prev := none, refs := [], recons := [], coder := 0, sinceRa := 0
    bRun := 0 }

end Sys2Proof.Machine
end

