-- ==== Sys2Proof/Machine/State.lean ====
section
/-! DEFINITION. The state of the block, its reset value, and the two reasons a step can stop. -/

namespace Sys2Proof.Machine

/-- Reasons a step stops the machine. -/
inductive Fault where
  /-- Never raised on ordinary data: the model's own guard for a state whose tables are not canonical. Safe. -/
  | corruptState
deriving DecidableEq, Repr

/-- Reasons a command has no effect to give. -/
inductive Refusal where
  /-- Raised by the dispatch for a command whose meaning is not modelled yet. Safe. -/
  | notModelled (mnemonic : String)
deriving DecidableEq, Repr

/-- The state of the PHV-6424 module. -/
structure State where
  /-- Commands waiting, first in first out. -/
  pending : List Instr
  /-- Device time in ns (R499). -/
  now : Nat
  /-- Free values drawn so far: the model's own field. -/
  freeCtr : Nat
  /-- What the block has sent, oldest first. -/
  out : List Output
  /-- Dictionary values that differ from their defaults, by `objKey`. -/
  dict : Tab (Option Nat)
  /-- Dictionary BLOB and STR values, by `objKey`. -/
  blobs : Tab (List Byte)
  /-- Counts not yet folded into the retained SRAM (R584), by `objKey`. -/
  localCounts : Tab Nat
  /-- Serial number of the next event (Table 20-1). -/
  eventSeq : Nat
  /-- Events were lost since the last record in the ring (R615). -/
  eventGap : Bool
  /-- Physical cores by package number (R42). -/
  cores : Tab Core
  /-- Clusters by 4 times die plus cluster. -/
  clusters : Tab Cluster
  /-- The stacks' bytes by physical position: ((stack * 64 + pseudo-channel) * 2^22 + row) * 256 + byte. -/
  dram : Ram
  hbm : Tab Stack
  parts : Tab Part
  clients : Tab Client
  slots : Tab Slot
  /-- Slots whose loads have not ended, in the order of the writes that began them (Table 4-25). -/
  loads : List Nat
  /-- Tier-cache pages and fills in flight. -/
  tier : List TierPage
  fills : List Fill
  /-- Export windows. -/
  exports : Tab Export
  /-- Collective engines. -/
  coll : CollUnit
  /-- Edge ports by 32 times die code plus port, and packets waiting at router outputs. -/
  links : Tab LinkSt
  packets : List Packet
  /-- Accepted overlay changes not yet taken by every partition, in write order: slot, and true for an apply (R532). -/
  overlays : List (Nat × Bool)
  /-- A host port stall has begun and not ended (R488). -/
  stalled : Bool
  /-- Access paths 0 to 2. -/
  paths : Tab PathSt
  /-- Accesses held while no conductor holds office, oldest first (R515). -/
  heldOps : List HeldAccess
  host : HostPort
  power : Power
  security : Security
  time : TimeSt
  conductor : Conductor
  /-- Codec channels: E0 to E7 at 0, D0 to D15 at 8. -/
  channels : Tab Channel
  /-- Mode each pixel pipe returns to after a test strip, by S-die (Table 14-6). -/
  pipeBefore : Tab Nat
  /-- Mode, plus 1, that a pixel pipe takes once no job of its channels is in it (R462), by S-die. -/
  pipeNext : Tab Nat
deriving DecidableEq, Repr

/-- The machine after a cold reset, before its supplies are in range (17_bringup_reset_selftest.md, Table 17-5). -/
def State.reset : State :=
  { pending := [], now := 0, freeCtr := 0, out := [], dict := [], blobs := [], localCounts := [], eventSeq := 0, eventGap := false
    cores := [], clusters := [], dram := .empty, hbm := [], parts := [], clients := [], slots := [], loads := [], tier := [], fills := [], exports := []
    coll := .idle, links := [], packets := [], overlays := [], stalled := false
    paths := [], heldOps := [], host := .idle, power := .cold, security := .factory, time := .idle, conductor := .vacant, channels := [], pipeBefore := []
    pipeNext := [] }

end Sys2Proof.Machine
end

