-- ==== Sys2Proof/Machine/Ops.lean ====
section
/-! DEFINITION. The named operations over the state that every meaning uses: dictionary values, counters, what the
block sends, the families of registers, unit identifiers and core placement (01), filmstrips (19 R586 to R592),
events (20 R613 to R616). -/

namespace Sys2Proof.Machine

/-! ### Dictionary values -/

/-- The numeric value of an object (its default when none is stored). -/
def State.num (s : State) (o sub : Nat) : Nat :=
  let k := objKey o sub
  (tabGet none s.dict k).getD (objDefault k)

/-- The state after a numeric value is stored in an object. -/
def State.setNum (s : State) (o sub v : Nat) : State :=
  let k := objKey o sub
  { s with dict := tabSet none s.dict k (if v = objDefault k then none else some v) }

/-- The bytes of a BLOB or STR object. -/
def State.blob (s : State) (o sub : Nat) : List Byte := tabGet [] s.blobs (objKey o sub)

/-- The state after the bytes of a BLOB or STR object are stored. -/
def State.setBlob (s : State) (o sub : Nat) (b : List Byte) : State :=
  { s with blobs := tabSet [] s.blobs (objKey o sub) b }

/-- A numeric object increased by `n`, modulo 2^64. -/
def State.bump (s : State) (o sub n : Nat) : State := s.setNum o sub ((s.num o sub + n) % 2 ^ 64)

/-- A count of Table 19-1 added to the unit's local count (R584). -/
def State.count (s : State) (o sub n : Nat) : State :=
  if n = 0 then s
  else { s with localCounts := tabMod 0 s.localCounts (objKey o sub) (fun v => (v + n) % 2 ^ 64) }

/-- The value of a counter: what is folded and what is still local (R583, R584). -/
def State.counter (s : State) (o sub : Nat) : Nat :=
  (s.num o sub + tabGet 0 s.localCounts (objKey o sub)) % 2 ^ 64

/-- The state after something is sent. -/
def State.emit (s : State) (o : Output) : State := { s with out := s.out ++ [o] }

/-- The state after several things are sent, in order. -/
def State.emits (s : State) (os : List Output) : State := { s with out := s.out ++ os }

/-- The state after one free value is drawn. -/
def State.drawn (s : State) : State := { s with freeCtr := s.freeCtr + 1 }

/-! ### Families of registers -/

def State.core (s : State) (p : Nat) : Core := tabGet Core.idle s.cores p
def State.setCore (s : State) (p : Nat) (c : Core) : State := { s with cores := tabSet Core.idle s.cores p c }
def State.modCore (s : State) (p : Nat) (f : Core → Core) : State := s.setCore p (f (s.core p))

def State.cluster (s : State) (k : Nat) : Cluster := tabGet Cluster.idle s.clusters k
def State.setCluster (s : State) (k : Nat) (c : Cluster) : State :=
  { s with clusters := tabSet Cluster.idle s.clusters k c }
def State.modCluster (s : State) (k : Nat) (f : Cluster → Cluster) : State := s.setCluster k (f (s.cluster k))

def State.stack (s : State) (k : Nat) : Stack := tabGet Stack.idle s.hbm k
def State.setStack (s : State) (k : Nat) (c : Stack) : State := { s with hbm := tabSet Stack.idle s.hbm k c }
def State.modStack (s : State) (k : Nat) (f : Stack → Stack) : State := s.setStack k (f (s.stack k))

def State.part (s : State) (p : Nat) : Part := tabGet Part.idle s.parts p
def State.setPart (s : State) (p : Nat) (c : Part) : State := { s with parts := tabSet Part.idle s.parts p c }
def State.modPart (s : State) (p : Nat) (f : Part → Part) : State := s.setPart p (f (s.part p))

def State.client (s : State) (n : Nat) : Client := tabGet Client.idle s.clients n
def State.setClient (s : State) (n : Nat) (c : Client) : State :=
  { s with clients := tabSet Client.idle s.clients n c }
def State.modClient (s : State) (n : Nat) (f : Client → Client) : State := s.setClient n (f (s.client n))

def State.slot (s : State) (k : Nat) : Slot := tabGet Slot.empty s.slots k
def State.setSlot (s : State) (k : Nat) (c : Slot) : State := { s with slots := tabSet Slot.empty s.slots k c }
def State.modSlot (s : State) (k : Nat) (f : Slot → Slot) : State := s.setSlot k (f (s.slot k))

/-- The value in force of an object for a partition (R511, R533). -/
def State.eff (s : State) (p o sub : Nat) : Nat :=
  (tabGet none (s.part p).force (objKey o sub)).getD (s.num o sub)

/-- The value in force of a device-wide object: what some partition still holds for it, or its base value. -/
def State.effDev (s : State) (o sub : Nat) : Nat :=
  ((List.range 16).findSome? fun p => tabGet none (s.part p).force (objKey o sub)).getD (s.num o sub)

/-- A function applied in turn for every element of a list. -/
def State.forEach {α : Type} (s : State) (l : List α) (f : State → α → State) : State := l.foldl f s

/-! ### Units and placement (01_package_and_hierarchy.md) -/

/-- A unit identifier (Table 1-10). -/
def unitId (die cluster core unit : Nat) : Nat := die * 1024 + cluster * 256 + core * 16 + unit

/-- The unit identifier of a whole die. -/
def dieUnit (die : Nat) : Nat := unitId die 0 0xF 0xF

/-- The die codes of the M-dies, X-dies, B-dies and S-dies (Table 1-10). -/
def mDie (m : Nat) : Nat := 0x10 + m
def xDie (x : Nat) : Nat := 0x28 + x
def bDie (b : Nat) : Nat := 0x2C + b
def sDie (d : Nat) : Nat := 0x3C + d

/-- The unit identifier of the conductor S-die (`0x9200:01`), named by events of the device as a whole. -/
def State.conductorUnit (s : State) : Nat := dieUnit (sDie (s.num 0x9200 1))

/-- The unit identifier of unit `u` of physical core `p` by package number (R42). -/
def coreUnit (p u : Nat) : Nat := unitId (p / 36) (p % 36 / 9) (p % 9) u

/-- The cluster of a logical core, by 4 times die plus cluster. -/
def clusterOf (c : Nat) : Nat := c / 8

/-- The cluster of a physical core. -/
def clusterOfPhys (p : Nat) : Nat := p / 9

/-- The `core_map` entry of a cluster (Table 1-9). -/
def State.coreMap (s : State) (k : Nat) : Nat := s.num (0x9100 + k / 4) (k % 4 + 1)

/-- The physical core, by package number, that carries a logical core; none when it is absent (Table 1-9). -/
def State.physOf (s : State) (c : Nat) : Option Nat :=
  let pc := s.coreMap (clusterOf c) >>> (4 * (c % 8)) % 16
  if pc = 0xF then none else some (clusterOf c * 9 + pc)

/-- The mask of a partition's clusters (`0x2100:01`). -/
def State.partClusters (s : State) (p : Nat) : List Nat := setBits 64 (s.num (0x2100 + p) 1)

/-- The partition that owns a cluster. -/
def State.partOfCluster (s : State) (k : Nat) : Option Nat :=
  (List.range 16).find? fun p => (s.num (0x2100 + p) 1).testBit k

/-- True when a cluster is fenced whole (`0x9160:01`). -/
def State.clusterFenced (s : State) (k : Nat) : Bool := (s.num 0x9160 1).testBit k

/-- True when a physical core is fenced (`0x9150`). -/
def State.coreFenced (s : State) (p : Nat) : Bool :=
  (s.num (0x9150 + p / 36) 1).testBit (p % 36) || s.clusterFenced (clusterOfPhys p)

/-- The state of a die (`0x9210`): 0 in service, 1 clusters fenced, 2 unreachable, 3 inert. -/
def State.dieState (s : State) (d : Nat) : Nat := s.num 0x9210 (d + 1)

/-- True when P0's link is up (`0x6000:01`). -/
def State.p0Up (s : State) : Bool := s.num 0x6000 1 == 1

/-! ### Filmstrips (19_debug_and_trace.md) -/

/-- A filmstrip by its number: physical cores 0 to 575, then M-dies 576 to 599. -/
def State.film (s : State) (f : Nat) : Film :=
  if f < 576 then (s.core f).film else (s.stack (f - 576)).film

def State.setFilm (s : State) (f : Nat) (v : Film) : State :=
  if f < 576 then s.modCore f fun c => { c with film := v }
  else s.modStack (f - 576) fun c => { c with film := v }

/-- The records a filmstrip holds. -/
def filmSize (f : Nat) : Nat := if f < 576 then 4096 else 16384

/-- The partition a filmstrip records for: its cluster's, or the one named in `0x8110:01`. -/
def State.filmPart (s : State) (f : Nat) : Option Nat :=
  if f < 576 then s.partOfCluster (clusterOfPhys f)
  else let p := s.num 0x8110 1; if p < 16 then some p else none

/-- The filmstrips of a partition. -/
def State.filmsOf (s : State) (p : Nat) : List Nat :=
  (s.partClusters p).flatMap (fun k => rangeFrom (9 * k) 9) ++
    (if s.num 0x8110 1 = p then rangeFrom 576 24 else [])

/-- A record of Table 19-2. -/
def filmWord (ts kind unit wher payload : Nat) : BitVec 128 :=
  BitVec.ofNat 128 (ts % 2 ^ 32 * 2 ^ 96 + kind * 2 ^ 90 + unit * 2 ^ 86 + wher * 2 ^ 80 + payload % 2 ^ 80)

/-- The kind of a record. -/
def filmKind (w : BitVec 128) : Nat := w.toNat >>> 90 % 64

/-- The where field of filmstrip `f`: its cluster and physical core; of a whole M-die 0 (Table 19-2). -/
def filmWhere (f : Nat) : Nat := if f < 576 then f % 36 / 9 * 16 + f % 9 else 0

/-- The time stamp of a record. -/
def filmStamp (w : BitVec 128) : Nat := w.toNat >>> 96

/-- A GAP record of filmstrip `f` counting `n`, with the time stamp of the first record it stands for (Table 19-3; log entry
217). -/
def gapWord (f ts n : Nat) : BitVec 128 := filmWord ts 0x08 0 (filmWhere f) (n % 2 ^ 32 * 2 ^ 48)

/-- The count of a GAP record. -/
def gapCount (w : BitVec 128) : Nat := w.toNat >>> 48 % 2 ^ 32

/-- Ring filmstrip `i` of `n` records after a record is added (R589), with the records it lost. -/
def Film.pushRing (f : Film) (i n : Nat) (w : BitVec 128) : Film × Nat :=
  if f.recs.length < n then ({ f with recs := f.recs ++ [⟨w, false⟩] }, 0)
  else match f.recs with
  | r :: t =>
    if r.drained then ({ f with recs := t ++ [⟨w, false⟩] }, 0)
    else if filmKind r.word = 0x08 then
      ({ f with recs := ⟨gapWord i (filmStamp r.word) (gapCount r.word + 1), false⟩ :: t.drop 1 ++ [⟨w, false⟩] }, 1)
    else ({ f with recs := ⟨gapWord i (filmStamp r.word) 2, false⟩ :: t.drop 1 ++ [⟨w, false⟩] }, 2)
  | [] => (f, 0)

/-- A filmstrip after its trigger, with a record added (R591, R592): `n` records in all, `p` kept before the
trigger, `limit` records to write, `trunc` the TRUNCATE record after so many of them. -/
def Film.pushPost (f : Film) (n p limit : Nat) (w : BitVec 128) (trunc : Nat → BitVec 128) : Film :=
  let room := n - p
  let undr := fun g : Film => ((g.recs.drop (g.recs.length - min g.recs.length g.post)).filter fun r => !r.drained).length
  if room ≤ undr f + 1 then { f with recs := f.recs ++ [⟨trunc f.post, false⟩], phase := 4 }
  else
    let g := { f with recs := f.recs ++ [⟨w, false⟩], post := f.post + 1 }
    if room ≤ undr g + 1 then { g with recs := g.recs ++ [⟨trunc g.post, false⟩], phase := 4 }
    else if g.post = limit then { g with phase := 3 }
    else g

/-- The post-trigger limit of a partition's filmstrip of `n` records (R592). -/
def State.postLimit (s : State) (p n pre : Nat) : Nat :=
  let l := s.eff p (0x8100 + p) 5
  if l = 0 then n - pre - 1 else l

/-- The pre-trigger share P of a filmstrip of `n` records (R591). -/
def State.preShare (s : State) (p n : Nat) : Nat := n * s.eff p (0x8100 + p) 4 / 100

/-- `trace_state` after a filmstrip stopped (R592); one that a core reset has cleared writes no more. -/
def State.traceSettle (s : State) (p : Nat) : State :=
  let fs := s.filmsOf p
  if s.num (0x8100 + p) 9 ≠ 2 then s
  else if fs.any fun f => (s.film f).phase == 4 then s.setNum (0x8100 + p) 9 4
  else if fs.all fun f => (s.film f).phase == 3 || (s.film f).phase == 0 then s.setNum (0x8100 + p) 9 3
  else s

/-- A record added to a filmstrip of partition `p`, enabled or of a kind always written (R587). -/
def State.filmPut (s : State) (p f : Nat) (w : BitVec 128) : State :=
  let fm := s.film f
  let n := filmSize f
  match fm.phase with
  | 1 =>
    let (g, lost) := fm.pushRing f n w
    (s.setFilm f g).bump (0x8100 + p) 0x0A lost
  | 2 =>
    let pre := s.preShare p n
    let trunc := fun (n : Nat) => filmWord (filmStamp w) 0x0A 0 (filmWhere f) (n % 2 ^ 32 * 2 ^ 48)
    (s.setFilm f (fm.pushPost n pre (s.postLimit p n pre) w trunc)).traceSettle p
  | _ => s

/-- A record offered to filmstrip `f` of kind `kind`, with its where field: written when its partition's trace is enabled and the
kind is enabled in kind_mask (R586, R587). -/
def State.traceAt (s : State) (f ts kind unit wher payload : Nat) : State :=
  match s.filmPart f with
  | none => s
  | some p =>
    if s.eff p (0x8100 + p) 1 = 1 ∧ (s.eff p (0x8100 + p) 2).testBit kind then
      s.filmPut p f (filmWord ts kind unit wher payload)
    else s

/-- A record about a core, with its cluster and physical core, or about a whole M-die, with pseudo-channel 0 (Table 19-2). -/
def State.trace (s : State) (f ts kind unit payload : Nat) : State :=
  s.traceAt f ts kind unit (filmWhere f) payload

/-- The ac of its step that core `pc` has reached: that of its last event, or what the running count of its cluster gives where
that is ahead (log entry 218). -/
def State.acNow (s : State) (pc : Nat) : Nat := max (s.core pc).ac (s.time.acMicro / 1000000 - (s.core pc).acBase)

/-- The count that filmstrip `f` stamps: its cluster's running ac count; for an M-die the NMU clock's, 1.2 GHz (Table 19-2). -/
def State.filmCount (s : State) (f : Nat) : Nat :=
  if f < 576 then (s.core f).acBase + s.acNow f else s.time.ticks * 12 / 10

/-- The time stamp of count `v` of filmstrip `f`'s unit (R588). -/
def State.stampOf (s : State) (f v : Nat) : Nat := (v + 2 ^ 32 - (s.film f).zero % 2 ^ 32) % 2 ^ 32

/-- The time stamp of filmstrip `f` now. -/
def State.filmTs (s : State) (f : Nat) : Nat := s.stampOf f (s.filmCount f)

/-- The time stamp of ac `t` of the step that core `pc` runs. -/
def State.acTs (s : State) (pc t : Nat) : Nat := s.stampOf pc ((s.core pc).acBase + t)

/-- A record of core `pc` about ac `t` of the step that it runs. -/
def State.traceCore (s : State) (pc t kind unit payload : Nat) : State := s.trace pc (s.acTs pc t) kind unit payload

/-- The trigger of one filmstrip (R590, R591). -/
def State.filmTrigger (s : State) (p f cause : Nat) : State :=
  let fm := s.film f
  if fm.phase ≠ 1 then s
  else
    let n := filmSize f
    let keep := s.preShare p n
    let old := fm.recs.take (fm.recs.length - keep)
    let now := (old.filter fun r => !r.drained && filmKind r.word != 0x08).length
    let lost := now + ((old.filter fun r => !r.drained && filmKind r.word == 0x08).map fun r => gapCount r.word).sum
    let since := ((old.find? fun r => !r.drained).map fun r => filmStamp r.word).getD 0
    let gap := if lost = 0 then [] else [⟨gapWord f since lost, false⟩]
    let tw := filmWord (s.filmTs f) 0x09 0 (filmWhere f) (cause * 2 ^ 72 + s.now % 2 ^ 64 * 2 ^ 8)
    let recs := old.filter (·.drained) ++ gap ++ fm.recs.drop (fm.recs.length - keep) ++ [⟨tw, false⟩]
    (s.setFilm f { fm with recs := recs, phase := 2, post := 0 }).bump (0x8100 + p) 0x0A now

/-- A trigger cause of a partition (R590): taken when the trace is armed and the cause is enabled. -/
def State.trigger (s : State) (p cause : Nat) : State :=
  if s.eff p (0x8100 + p) 1 = 1 ∧ s.num (0x8100 + p) 9 = 1 ∧ (s.eff p (0x8100 + p) 3).testBit cause then
    (s.forEach (s.filmsOf p) fun t f => t.filmTrigger p f cause).setNum (0x8100 + p) 9 2
  else s

/-! ### Events (20_faults_and_guarantees.md) -/

/-- What an event says (Table 20-1). -/
structure Event where
  kind : Nat
  breach : Bool
  part : Option Nat
  pc : Nat
  unit : Nat
  reason : Nat
  step : Option Nat
  detail : Nat
  hostOffset : Bool
deriving DecidableEq, Repr

/-- An event of a kind about a unit, naming nothing else. -/
def Event.of (kind unit detail : Nat) : Event := ⟨kind, false, none, 0xFF, unit, 0, none, detail, false⟩

/-- The record of an event (Table 20-1). -/
def Event.record (e : Event) (seq time : Nat) (gap : Bool) : List Byte :=
  let flags := (if e.breach then 1 else 0) + (if e.step.isSome then 2 else 0) + (if gap then 4 else 0) +
    (if e.hostOffset then 8 else 0)
  leBytes 4 seq ++ leBytes 1 e.kind ++ leBytes 1 flags ++ leBytes 1 (e.part.getD 0xFF) ++ leBytes 1 e.pc ++
    leBytes 2 e.unit ++ leBytes 2 e.reason ++ leBytes 4 (e.step.getD 0) ++ leBytes 8 time ++ leBytes 8 e.detail

/-- The object of a client. -/
def clientObj (n : Nat) : Nat := 0xC000 + n

/-- The newest records kept in the retained SRAM (R613): 256 of 32 bytes. -/
def keepNewest (n size : Nat) (b : List Byte) : List Byte := b.drop (b.length - n * size)

/-- The trigger causes an event is (Table 19-4, trigger_mask). -/
def Event.causes (e : Event) : List Nat :=
  [1] ++ (if e.breach then [2] else []) ++ (if e.kind = 6 then [3] else []) ++ (if e.kind = 1 then [6] else []) ++
    (if e.kind = 0x0A then [7] else [])

/-- The kinds of event that the host is told of while the device is disabled: those of enabling, a refusal and an enable, and those of
faults and of the fences that follow them (Table 16-8; log entry 235). -/
def eventWhileOff (kind : Nat) : Bool := [1, 2, 3, 4, 5, 6, 8, 0x0B, 0x0C, 0x0D, 0x0E, 0x0F, 0x10, 0x11, 0x15, 0x17].contains kind

/-- Record `rcd` of an event of a kind written to the event ring when the ring is active (R615), with its MSI-X message (R616); while
the device is disabled only those of Table 16-8. -/
def State.eventRing (s : State) (kind : Nat) (rcd : List Byte) : State :=
  let base := s.num 0x9000 1
  if base = 0 ∨ !s.p0Up ∨ (s.num 0x2000 1 = 0 ∧ !eventWhileOff kind) then s
  else
    let ents := s.num 0x9000 2
    let w := s.num 0x9000 4
    if (w + 2 ^ 32 - s.num 0x9000 3) % 2 ^ 32 = ents then
      { s.bump 0x9000 6 1 with eventGap := true }
    else
      let s := (s.emit (.hostWrite (base + w % ents * 32) rcd)).setNum 0x9000 4 ((w + 1) % 2 ^ 32)
      let s := { s with eventGap := false }
      let v := s.num 0x9000 5
      if v = 0xFFFF then s else s.emit (.msix v)

/-- An event is raised: counted, kept in the retained SRAM, written to the ring, offered as a trigger cause. -/
def State.raise (s : State) (e : Event) : State :=
  let rcd := e.record s.eventSeq s.now s.eventGap
  let kept := keepNewest 256 32 (s.blob 0x9001 1 ++ rcd)
  let s := { (s.setBlob 0x9001 1 kept).bump 0x9002 e.kind 1 with eventSeq := (s.eventSeq + 1) % 2 ^ 32 }
  let s := s.eventRing e.kind rcd
  match e.part with
  | none => s
  | some p => s.forEach e.causes fun t c => t.trigger p c

/-! ### Time and clocks -/

/-- The clock of an envelope in kHz: E1, E2, E3 (00_scope.md). -/
def envelopeClock (e : Nat) : Nat := match e with | 3 => 1750000 | 2 => 1600000 | _ => 1250000

/-- The clock in force in kHz. -/
def State.clock (s : State) : Nat := envelopeClock (s.num 0x2010 3)

/-- The number of ac, rounded up, that `ns` nanoseconds take at `f` kHz. -/
def nsToAc (f ns : Nat) : Nat := ceilDiv (ns * f) 1000000

/-- The number of ns, rounded up, that `ac` take at `f` kHz. -/
def acToNs (f ac : Nat) : Nat := ceilDiv (ac * 1000000) f

end Sys2Proof.Machine
end

