-- ==== Sys2Proof/Machine/Route.lean ====
section
/-! DEFINITION. The package mesh (01_package_and_hierarchy.md): which B-die each die attaches to, the route of a
packet (R29), edge ports in service, the dies that can be reached (R36, R37, R625). Numbers of a B-die's edge ports
are the model's (log entry 15): four each for +x, -x, +y, -y, then four for its C-die, then the others of Table 1-2. -/

namespace Sys2Proof.Machine

/-- The dies a B-die carries beyond its C-die, in the order of Table 1-2: die code and ports. -/
def attached (b : Nat) : List (Nat × Nat) :=
  match b with
  | 0 => [(mDie 0, 2), (mDie 1, 2)]
  | 1 => [(mDie 2, 2), (xDie 0, 2)]
  | 2 => [(mDie 3, 2), (mDie 4, 2)]
  | 3 => [(mDie 5, 2), (sDie 0, 1)]
  | 4 => [(mDie 6, 2), (mDie 7, 2)]
  | 5 => [(mDie 8, 2), (sDie 1, 1)]
  | 6 => [(mDie 9, 2), (mDie 10, 2)]
  | 7 => [(mDie 11, 2), (xDie 1, 2)]
  | 8 => [(mDie 12, 2), (mDie 13, 2)]
  | 9 => [(mDie 14, 2), (xDie 2, 2)]
  | 10 => [(mDie 15, 2), (mDie 16, 2)]
  | 11 => [(mDie 17, 2), (sDie 2, 1)]
  | 12 => [(mDie 18, 2), (mDie 19, 2)]
  | 13 => [(mDie 20, 2), (sDie 3, 1)]
  | 14 => [(mDie 21, 2), (mDie 22, 2)]
  | _ => [(mDie 23, 2), (xDie 3, 2)]

/-- The dies of a B-die with the first of its ports they use and how many: the C-die's four come first. -/
def bPorts (b : Nat) : List (Nat × Nat × Nat) :=
  ((attached b).foldl (fun (l : List (Nat × Nat × Nat) × Nat) d => (l.1 ++ [(d.1, l.2, d.2)], l.2 + d.2))
    ([(b, 16, 4)], 20)).1

/-- The B-die a die attaches to (R14); a B-die itself. -/
def attachB (d : Nat) : Nat :=
  if bDie 0 ≤ d ∧ d ≤ bDie 15 then d - bDie 0
  else if d < 16 then d
  else ((List.range 16).find? fun b => (attached b).any fun e => e.1 == d).getD 0

/-- Number of edge ports of a die by its code: 24 on a B-die as Table 1-2 counts them, else its attachment. -/
def portCount (d : Nat) : Nat :=
  if bDie 0 ≤ d ∧ d ≤ bDie 15 then 16 + ((bPorts (d - bDie 0)).map (·.2.2)).sum
  else if d < 16 then 4 else if d < sDie 0 then 2 else 1

/-- Neighbour of B-die `b` in direction `k`: +x, -x, +y, -y (columns x = n div 4, rows y = n mod 4). -/
def neighbour (b k : Nat) : Nat :=
  let x := b / 4
  let y := b % 4
  match k with
  | 0 => (x + 1) % 4 * 4 + y
  | 1 => (x + 3) % 4 * 4 + y
  | 2 => x * 4 + (y + 1) % 4
  | _ => x * 4 + (y + 3) % 4

/-- The direction opposite to `k`. -/
def opposite (k : Nat) : Nat := match k with | 0 => 1 | 1 => 0 | 2 => 3 | _ => 2

/-- The other end of an edge port: die code and port. -/
def otherEnd (d p : Nat) : Nat × Nat :=
  if bDie 0 ≤ d ∧ d ≤ bDie 15 then
    let b := d - bDie 0
    if p < 16 then (bDie (neighbour b (p / 4)), opposite (p / 4) * 4 + p % 4)
    else match (bPorts b).find? fun e => decide (e.2.1 ≤ p) && decide (p < e.2.1 + e.2.2) with
      | some e => (e.1, p - e.2.1)
      | none => (d, p)
  else
    match (bPorts (attachB d)).find? fun e => e.1 == d with
    | some e => (bDie (attachB d), e.2.1 + p)
    | none => (d, p)

def State.link (s : State) (d p : Nat) : LinkSt := tabGet LinkSt.idle s.links (d * 32 + p)
def State.setLink (s : State) (d p : Nat) (l : LinkSt) : State :=
  { s with links := tabSet LinkSt.idle s.links (d * 32 + p) l }

/-- True when an edge port is out of service, at either end. -/
def State.portOut (s : State) (d p : Nat) : Bool :=
  let (d', p') := otherEnd d p
  (s.link d p).state == 2 || (s.link d' p').state == 2

/-- True when a die's whole attachment is out of service (R36). -/
def State.cutOff (s : State) (d : Nat) : Bool :=
  !(decide (bDie 0 ≤ d) && decide (d ≤ bDie 15)) && (List.range (portCount d)).all fun p => s.portOut d p

/-- True when S-die `d` (0 to 3) takes part in the election of the conductor: neither lost nor inert nor cut off (R36, R626, R631). -/
def State.elects (s : State) (d : Nat) : Bool := decide (s.dieState (sDie d) < 2) && !s.cutOff (sDie d)

/-- The claim of a die that takes no more part in the election ends (R36). -/
def State.dropClaim (s : State) (d : Nat) : State :=
  if (s.conductor.claim.map fun c => sDie c.1) = some d then { s with conductor := { s.conductor with claim := none } } else s

/-- True when all four ports of the torus link of B-die `b` in direction `k` are out of service (R37). -/
def State.torusLost (s : State) (b k : Nat) : Bool :=
  (List.range 4).all fun i => s.portOut (bDie b) (4 * k + i)

/-- Steps along one dimension of four positions from `a` to `b`, the shorter way, ties positive (R29). -/
def ringSteps (a b : Nat) : Bool × Nat :=
  let d := (b + 4 - a) % 4
  if d ≤ 2 then (true, d) else (false, 4 - d)

/-- The torus links of a route from one B-die to another: B-die left and direction (R29). -/
def route (src dst : Nat) : List (Nat × Nat) :=
  let (px, nx) := ringSteps (src / 4) (dst / 4)
  let kx := if px then 0 else 1
  let xs := (List.range nx).map fun i => (if px then (src / 4 + i) % 4 * 4 + src % 4 else (src / 4 + 4 - i) % 4 * 4 + src % 4, kx)
  let mid := dst / 4
  let (py, ny) := ringSteps (src % 4) (dst % 4)
  let ky := if py then 2 else 3
  let ys := (List.range ny).map fun i => (mid * 4 + (if py then (src % 4 + i) % 4 else (src % 4 + 4 - i) % 4), ky)
  xs ++ ys

/-- True when a route crosses a lost torus link. -/
def State.routeLost (s : State) (src dst : Nat) : Bool :=
  (route (attachB src) (attachB dst)).any fun l => s.torusLost l.1 l.2

/-- True when a request from die `src` reaches die `dst`: neither is cut off, lost or inert, and no lost link lies on
the route (R36, R37, R625). -/
def State.reach (s : State) (src dst : Nat) : Bool :=
  decide (s.dieState dst < 2) && decide (s.dieState src < 2) && !s.cutOff dst && !s.cutOff src && !s.routeLost src dst

/-! ### What a port holds for a replay (R26) -/

/-- Flits of a held packet: its control flit, and its data flit. -/
def HeldPacket.flits (h : HeldPacket) : Nat := if h.words.isEmpty then 1 else 2

/-- The flits held by a port. -/
def heldFlits (l : List HeldPacket) : Nat := (l.map HeldPacket.flits).sum

/-- The newest packets whose flits fit in `n`. -/
def keepFlits (n : Nat) : List HeldPacket → List HeldPacket
  | [] => []
  | x :: t => if heldFlits (x :: t) ≤ n then x :: t else keepFlits n t

/-- The port after it has sent a packet: one control flit with one header, its data flit, both held (R26: 128 flits; log entry
175). -/
def LinkSt.sending (l : LinkSt) (t : TxHeader) (ws : List CodeWord) (inPort : Nat) : LinkSt :=
  { l with sendSeq := (l.sendSeq + 1) % 4096, held := keepFlits 128 (l.held ++ [⟨l.sendSeq, t, ws, inPort⟩]) }

/-- The edge port a die sends by: its first in service (log entry 175). -/
def State.sendPort (s : State) (d : Nat) : Option Nat := (List.range (portCount d)).find? fun n => !s.portOut d n

/-- A unit's transaction enters the mesh by its die's port. -/
def State.sendPacket (s : State) (t : TxHeader) (ws : List CodeWord) : State :=
  let d := t.srcDie.toNat
  let s := match s.sendPort d with
    | some n => s.setLink d n ((s.link d n).sending t ws 0)
    | none => s
  s.emit (.packet t ws)

end Sys2Proof.Machine
end

