-- ==== Sys2Proof/Machine/Memory.lean ====
section
/-! DEFINITION. The stacks (09_memory_system.md): the address map of the spread and placed views, the remap of
retired pseudo-channels, reads and writes of device addresses, the controller's error counts and retirement. -/

namespace Sys2Proof.Machine

/-- Granule rows of a pseudo-channel reached by an address: the spread and placed bands (Table 9-2). -/
def bandRows : Nat := 4063232

/-- P of R289 in GiB. -/
def State.placedBand (s : State) : Nat := min 62 (s.num 0x5000 1)

/-- S of R289. -/
def State.spreadRows (s : State) : Nat := (62 - s.placedBand) * 65536

/-- The bytes of the spread view. -/
def State.spreadBytes (s : State) : Nat := 24 * (62 - s.placedBand) * 2 ^ 30

/-- A place in the stacks: stack, pseudo-channel, row. -/
structure Place where
  stack : Nat
  pc : Nat
  row : Nat
deriving DecidableEq, Repr

/-- The exclusive-or of `n` fields of `w` bits of `l` from bit 0 up. -/
def foldXor (w : Nat) : Nat → Nat → Nat
  | 0, _ => 0
  | n + 1, l => l % 2 ^ w ^^^ foldXor w n (l / 2 ^ w)

/-- The map of R293 from a granule number of the spread view. -/
def spreadPlace (g : Nat) : Place :=
  let q := g % 3
  let g2 := g / 3
  let l := g2 / 512
  ⟨8 * q + (g2 % 8 ^^^ foldXor 3 8 l), g2 / 8 % 64 ^^^ foldXor 6 4 l, l⟩

/-- Base of the placed view of stack `k` (Table 9-3). -/
def placedBase (k : Nat) : Nat := 0x020000000000 + k * 0x001000000000

/-- The logical place of a device address: spread view, placed view, or no memory (R291, R293, R294). -/
def State.logicalPlace (s : State) (a : Nat) : Option Place :=
  if a < s.spreadBytes then some (spreadPlace (a / 256))
  else if placedBase 0 ≤ a then
    let k := (a - placedBase 0) / 0x001000000000
    let o := (a - placedBase 0) % 0x001000000000
    if k < 24 ∧ o < s.placedBand * 2 ^ 30 then some ⟨k, o / 256 % 64, s.spreadRows + o / 256 / 64⟩ else none
  else none

/-- The channel at position `k` of the ascending list of channels other than `r`. -/
def svAt (r k : Nat) : Nat := if k < r then k else k + 1

/-- The position of channel `c` in that list. -/
def svPos (r c : Nat) : Nat := if c < r then c else c - 1

/-- The place of row `l` of a first retired channel (R315). -/
def remap1 (r l : Nat) : Nat × Nat := (svAt r (l % 63), bandRows + l / 63)

/-- The place of item `i` of a second retirement (R316). -/
def remap2Item (r d i : Nat) : Nat × Nat :=
  let late := (rangeFrom 47 16).map (svAt r) |>.filter (· ≠ d)
  if i < late.length then (late.getD i 0, bandRows + 64495)
  else
    let j := i - late.length
    let sv2 := (List.range 64).filter fun c => c ≠ r && c ≠ d
    (sv2.getD (j % 62) 0, bandRows + 64496 + j / 62)

/-- The number of granules of `r` that `d` holds under R315. -/
def heldBy (r d : Nat) : Nat := if svPos r d < 47 then 64496 else 64495

/-- The retirements of a stack whose remap is in force or migrating: a second one that still waits (R322) is not. -/
def Stack.mapped (k : Stack) : List Nat := if k.waiting2 then k.retired.take 1 else k.retired

/-- True when the block of row `l` has its map-generation bit set (R319). -/
def Stack.blockMoved (k : Stack) (l : Nat) : Bool := !k.migrating || decide (l / 4096 < k.moved)

/-- Channel and row before and after the current remap of row `l` of channel `c` (R315, R316). -/
def Stack.places (k : Stack) (c l : Nat) : (Nat × Nat) × (Nat × Nat) :=
  match k.mapped with
  | [r] => if c = r then ((c, l), remap1 r l) else ((c, l), (c, l))
  | [r, d] =>
    if c = r then
      let p := remap1 r l
      if p.1 = d then (p, remap2Item r d (l / 63)) else (p, p)
    else if c = d then ((c, l), remap2Item r d (heldBy r d + l))
    else ((c, l), (c, l))
  | _ => ((c, l), (c, l))

/-- Where a granule of channel `c`, row `l` is read from: by its block's bit (R319). -/
def Stack.locate (k : Stack) (c l : Nat) : Nat × Nat :=
  let (o, n) := k.places c l
  if k.blockMoved l then n else o

/-- The places a write goes to: both while its block is being copied (R320). -/
def Stack.writePlaces (k : Stack) (c l : Nat) : List (Nat × Nat) :=
  let (o, n) := k.places c l
  if k.blockMoved l then [n]
  else if k.migrating && decide (l / 4096 = k.moved) && decide (o ≠ n) then [o, n]
  else [o]

/-- The byte address of a physical place in `State.dram`. -/
def physAddr (stack pc row : Nat) : Nat := ((stack * 64 + pc) * 4194304 + row) * 256

/-- Where a device address is read. -/
def State.place (s : State) (a : Nat) : Option Place :=
  (s.logicalPlace a).map fun p =>
    let (c, r) := (s.stack p.stack).locate p.pc p.row
    ⟨p.stack, c, r⟩

/-- The entries of the last 24 hours (R314). -/
def within24h (now t : Nat) : Bool := decide (now < t + 86400000000000)

/-- The subindex of a stack's or die's objects that number from 1. -/
def sub1 (k : Nat) : Nat := k + 1

/-- Client and step_seq of every accepted, unfinished step. -/
def State.acceptedSteps (s : State) : List (Nat × Nat) :=
  (List.range 16).flatMap fun p => ((s.part p).queue ++ (s.part p).backfill).map fun x => (x.req.client, x.req.seq)

/-- A pseudo-channel is retired, or found beyond retirement (R314, R317, R322). -/
def State.retire (s : State) (k pc : Nat) : State :=
  let st := s.stack k
  if s.effDev 0x5500 2 ≠ 1 ∨ st.retired.contains pc then s
  else if 2 ≤ st.retired.length then
    if st.exhausted.contains pc then s
    else
      let s := s.setStack k { st with exhausted := st.exhausted ++ [pc] }
      s.raise (.of 0x08 (unitId (mDie k) 0 0xF 0xF) 2)
  else
    let first := st.retired.isEmpty
    let gen := (s.num 0x5500 1 + 1) % 65536
    let s := s.setStack k { st with
      retired := st.retired ++ [pc], waiting2 := !first, older := if first then st.older else s.acceptedSteps
      migrating := if first then true else st.migrating, moved := if first then 0 else st.moved }
    let s := (s.setNum 0x5500 1 gen).setNum 0x5510 (sub1 k) (withBit (s.num 0x5510 (sub1 k)) pc)
    let s := if first then s.setNum 0x5520 (sub1 k) 0 else s
    s.raise (.of 0x09 (unitId (mDie k) 0 0xF 0xF) (k + pc * 256 + gen * 65536))

/-- What the controller counts when it reads a granule (R296): correctable and uncorrectable words, attributed to
the channel physically read, and the retirement they bring (R314). -/
def State.seen (s : State) (p : Place) (ce ue : Nat) : State :=
  if ce = 0 ∧ ue = 0 then s
  else
    let s := (s.count (0x8020 + p.stack) 1 ce).count (0x8020 + p.stack) 2 ue
    let st := s.stack p.stack
    let ceL := (tabGet [] st.ceLog p.pc).filter (within24h s.now) ++ List.replicate ce s.now
    let ueL0 := (tabGet [] st.ueLog p.pc).filter fun e => within24h s.now e.1
    let ueL := if ue = 0 then ueL0 else (ueL0.filter fun e => e.2 != p.row) ++ [(s.now, p.row)]
    let s := s.setStack p.stack { st with
      ceLog := tabSet [] st.ceLog p.pc ceL, ueLog := tabSet [] st.ueLog p.pc ueL }
    if s.num 0x5500 3 ≤ ceL.length ∨ s.num 0x5500 4 ≤ ueL.length then s.retire p.stack p.pc else s

/-- The words of a granule range that carry an error, split by what a checker says. -/
def State.dramErrs (s : State) (a n : Nat) : Nat × Nat :=
  let f := s.dram.fetch a n
  (f.ce.length, f.ue.length)

/-- The physical address of a device address. -/
def State.phys (s : State) (a : Nat) : Option Nat :=
  (s.place a).map fun p => physAddr p.stack p.pc p.row + a % 256

/-- A run of bytes inside granules: device address and length of each piece. -/
def pieces (a : Nat) : Nat → Nat → List (Nat × Nat)
  | 0, _ => []
  | _ + 1, 0 => []
  | fuel + 1, n =>
    let k := min n (256 - a % 256)
    (a, k) :: pieces (a + k) fuel (n - k)

/-- The pieces of a range, one per granule. -/
def granulesOf (a n : Nat) : List (Nat × Nat) := pieces a (n / 256 + 2) n

/-- `n` bytes of device memory copied into a memory image whose addresses are the offsets from `a`, check bits
kept, the controllers counting what they read (R103, R296). Addresses without memory read as nothing. -/
def State.readDevice (s : State) (a n : Nat) : State × Ram :=
  (granulesOf a n).foldl (fun (acc : State × Ram) pc =>
    match acc.1.place pc.1 with
    | none => acc
    | some p =>
      let base := physAddr p.stack p.pc p.row + pc.1 % 256
      let img := Ram.copy acc.1.dram acc.2 base (pc.1 - a) pc.2
      let (ce, ue) := acc.1.dramErrs base pc.2
      (acc.1.seen p ce ue, img)) (s, Ram.empty)

/-- The stacks after the bytes `b` to `b + n - 1` of a memory image are written to the device address `a`, to every
place of R320; what the controller reads for a merge is counted (R296, R653). -/
def State.writeDevice (s : State) (img : Ram) (b a n : Nat) : State :=
  (granulesOf a n).foldl (fun s pc =>
    match s.logicalPlace pc.1 with
    | none => s
    | some l =>
      ((s.stack l.stack).writePlaces l.pc l.row).foldl (fun s cr =>
        let base := physAddr l.stack cr.1 cr.2 + pc.1 % 256
        let (ce, ue) := s.dram.mergeErrs base pc.2
        let s := s.seen ⟨l.stack, cr.1, cr.2⟩ ce ue
        { s with dram := Ram.copy img s.dram (b + (pc.1 - a)) base pc.2 }) s) s

/-- Zero data with every check bit 1 in a range of whole words, as a router answers for a die it cannot reach
(R625). -/
def Ram.unreachable (r : Ram) (a n : Nat) : Ram :=
  (wordsOf a n).foldl (fun r w => (r.writeRaw (8 * w) (List.replicate 8 0)).setMask w poisonMask) r

/-- A unit of die `die` can use stack `k`: its own needs no mesh (R36, R37, R625). -/
def State.reachStack (s : State) (die k : Nat) : Bool := die == mDie k || s.reach die (mDie k)

/-- A read of device memory through the mesh from die `die` (R625). -/
def State.meshRead (s : State) (die a n : Nat) : State × Ram :=
  (granulesOf a n).foldl (fun (acc : State × Ram) pc =>
    match acc.1.logicalPlace pc.1 with
    | none => acc
    | some l =>
      if acc.1.reachStack die l.stack then
        let (t, img) := acc.1.readDevice pc.1 pc.2
        (t, Ram.copy img acc.2 0 (pc.1 - a) pc.2)
      else (acc.1, acc.2.unreachable (pc.1 - a) pc.2)) (s, Ram.empty)

/-- A write of device memory through the mesh from die `die`: dropped towards a die it cannot reach (R625). -/
def State.meshWrite (s : State) (die : Nat) (img : Ram) (b a n : Nat) : State :=
  (granulesOf a n).foldl (fun s pc =>
    match s.logicalPlace pc.1 with
    | none => s
    | some l => if s.reachStack die l.stack then s.writeDevice img (b + (pc.1 - a)) pc.1 pc.2 else s) s

/-- Plain bytes written to a device address by a unit of die `die`. -/
def State.storeBytes (s : State) (die a : Nat) (d : List Byte) : State :=
  s.meshWrite die (Ram.empty.writeRaw 0 d) 0 a d.length

/-- Words written to device memory by a unit of die `die`, with their check bits (R103). -/
def State.storeWords (s : State) (die a : Nat) (ws : List CodeWord) : State :=
  s.meshWrite die (Ram.empty.putWords 0 ws) 0 a (8 * ws.length)

/-- Bytes read from a device address by a consumer on die `die`, which checks and counts the words (R104): the bytes, and the
word numbers found uncorrectable. -/
def State.loadBytes (s : State) (die a n : Nat) : State × Fetched :=
  let (s, img) := s.meshRead die a n
  let f := img.fetch 0 n
  ((s.count 0x8040 (die + 1) f.ce.length).count 0x8041 (die + 1) f.ue.length, f)

/-- The die of the conductor's S-die. -/
def State.officeDie (s : State) : Nat := sDie (s.num 0x9200 1)

/-- True when every byte of a range lies in device memory. -/
def State.inMemory (s : State) (a n : Nat) : Bool := (granulesOf a n).all fun p => (s.logicalPlace p.1).isSome

/-- The device's spread layout (R292): start of the export ring of window `w`. -/
def State.ringBase (s : State) (w : Nat) : Nat :=
  s.num 0x5800 1 * 2 ^ 30 +
    ((List.range w).map fun i => if s.num (0x5700 + i) 1 = 0 then 0 else s.num (0x5700 + i) 4 * 2 ^ 20).sum

/-- The partitions whose `partition_enable` is 1: those that sums at enabling run over (R660). -/
def State.wantedParts (s : State) : List Nat := (List.range 16).filter fun p => s.num (0x2100 + p) 2 == 1

/-- The sum of a per-partition object over the partitions of a list. -/
def State.sumOver (s : State) (l : List Nat) (o sub : Nat) : Nat := (l.map fun p => s.num (o + p) sub).sum

/-- Start of partition `p`'s spread share (R292, R660). -/
def State.shareBase (s : State) (p : Nat) : Nat :=
  s.ringBase 64 + s.sumOver (s.wantedParts.filter fun i => decide (i < p)) 0x5200 3 * 2 ^ 30

/-- Start of the lent range (R336). -/
def State.lendBase (s : State) : Nat := s.spreadBytes - s.num 0x5900 1 * 2 ^ 30

/-- Start of partition `p`'s argument pool: the top of its spread share (DESIGN CHOICE: log entry 14). -/
def State.poolBase (s : State) (p : Nat) : Nat :=
  s.num (0x5200 + p) 8 + (s.num (0x5200 + p) 3 - s.num (0x5200 + p) 6) * 2 ^ 30

/-- True when a range lies in partition `p`'s argument pool (R335). -/
def State.inPool (s : State) (p a n : Nat) : Bool :=
  decide (s.poolBase p ≤ a) && decide (a + n ≤ s.poolBase p + s.num (0x5200 + p) 6 * 2 ^ 30)

end Sys2Proof.Machine
end

