-- ==== Sys2Proof/Machine/Watch.lean ====
section
/-! DEFINITION. Watched lines: the entries that clients and codec channels await, and how the device learns of a write to one
(13 R425 to R427, 14 R451, 15 R485 to R487, Table 15-8). -/

namespace Sys2Proof.Machine

/-- True when the IDE keys of port `n` are active: for CXL.cachemem on P0, for the link or a selective stream on another port (R497,
R579). -/
def State.ideUp (s : State) (n : Nat) : Bool :=
  if n = 0 then tabGet [] s.security.ide (ideSlot 0 .cachemem) != []
  else s.security.ide.any fun e => decide (e.1 / 128 = n) && decide (e.1 % 128 ≠ 0) && e.2 != []

/-- True when port `n` may carry CXL.cache, CXL.mem and UIO traffic (R497). -/
def State.keyed (s : State) (n : Nat) : Bool := s.num 0x6000 5 == 0 || s.ideUp n

/-- True when P0 carries CXL.cache and CXL.mem traffic (R497). -/
def State.p0Open (s : State) : Bool := s.p0Up && s.keyed 0

/-- The object of codec channel `c`: E0 to E7 are 0 to 7, D0 to D15 are 8 to 23. -/
def chanObj (c : Nat) : Nat := if c < 8 then 0x7100 + c else 0x7200 + (c - 8)

/-- Watchers: client n is number n, codec channel c number 4,096 + c. -/
def State.watchers (s : State) : List Nat :=
  ((s.clients.filter fun e => e.2.watching).map (·.1)) ++
    ((List.range 24).filter fun c => s.num (chanObj c) 1 == 1).map (4096 + ·)

/-- The address of the entry a watcher awaits (R425, R451). -/
def State.entryAddr (s : State) (w : Nat) : Nat :=
  if w < 4096 then
    let o := clientObj w
    s.num o 4 + 128 * (s.num o 7 % max (s.num o 5) 1)
  else
    let o := chanObj (w - 4096)
    s.num o 3 + 128 * (s.num o 6 % max (s.num o 4) 1)

/-- True when the entry lies in an argument pool. -/
def State.watchesPool (s : State) (w : Nat) : Bool := decide (4096 ≤ w) || s.num (clientObj w) 3 == 1

def State.watch (s : State) (w : Nat) : Watch := tabGet Watch.idle s.host.watch w
def State.setWatch (s : State) (w : Nat) (v : Watch) : State :=
  { s with host := { s.host with watch := tabSet Watch.idle s.host.watch w v } }

/-- Both lines of a watcher's entry are read (R426): from host memory, the watched line with RdShared (R485), once P0 carries
CXL.cache (R497). -/
def State.readEntry (s : State) (w : Nat) : State :=
  let a := s.entryAddr w
  let s := s.setWatch w ⟨1, false, false, none⟩
  if s.watchesPool w || !s.p0Open then s else (s.emit (.p0 "RdShared" a [])).emit (.hostRead (a + 64) 64)

/-- A write to the watched line is learned of: its entry is read, once more after a read in progress (Table 15-8). -/
def State.learn (s : State) (w : Nat) : State :=
  let v := s.watch w
  if v.reads = 0 then s.readEntry w else s.setWatch w { v with again := true, snooped := false }

/-- A read of a watcher's entry is over; the line stays watched (R487), one of host memory in the watch cache (R485), and is read again
when it was written meanwhile. -/
def State.entryRead (s : State) (w : Nat) (e : List Byte) : State :=
  if (s.watch w).again then s.readEntry w
  else s.setWatch w { Watch.idle with line := if s.watchesPool w then none else some (e.take 64) }

/-- The watchers of a line in an argument pool, or in host memory. -/
def State.watchersOf (s : State) (pool : Bool) (a n : Nat) : List Nat :=
  s.watchers.filter fun w =>
    s.watchesPool w == pool && decide (s.entryAddr w < a + n) && decide (a < s.entryAddr w + 64)

/-- A step has stored `n` bytes at `a` of an argument pool: the codec channels whose watched lines they touch learn of it (R451). -/
def State.tellChannels (s : State) (a n : Nat) : State :=
  s.forEach ((s.watchersOf true a n).filter fun w => decide (4096 ≤ w)) State.learn

end Sys2Proof.Machine
end

