-- ==== Sys2Proof/Machine/Account.lean ====
section
/-! DEFINITION. What stands at the head of a unit's stream, when its token wait is satisfied (03 R121 to R124), and what a unit
that has not issued is counted for (19 R585). -/

namespace Sys2Proof.Machine

/-- The visible count of a token at ac `t` (R124). -/
def Token.visible (k : Token) (t : Nat) : Nat :=
  k.count - ((k.pend.filter fun e => decide (t < e.1)).map (·.2)).sum

/-- The first ac at or after `t` at which a wait of `n` is satisfied (R122); none while no signal covers it. -/
def Token.readyAt (k : Token) (n t : Nat) : Option Nat :=
  if n ≤ k.visible t then some t
  else
    let later := (k.pend.filter fun e => decide (t < e.1) && decide (n ≤ k.visible e.1)).map (·.1)
    later.foldl (fun a v => match a with | none => some v | some w => some (min v w)) none

/-- The token of a core. -/
def Seqr.token (q : Seqr) (k : Nat) : Token := tabGet Token.zero q.tokens k

/-- A unit of a core. -/
def Seqr.unit (q : Seqr) (u : Nat) : UnitSt := tabGet UnitSt.idle q.units u

def Seqr.setUnit (q : Seqr) (u : Nat) (v : UnitSt) : Seqr := { q with units := tabSet UnitSt.idle q.units u v }

def Seqr.setToken (q : Seqr) (k : Nat) (v : Token) : Seqr := { q with tokens := tabSet Token.zero q.tokens k v }

/-- The word at the head of a unit's stream. -/
def Seqr.headWord (q : Seqr) (u : Nat) : Option (BitVec 128) := (q.prog.streams.getD u [])[(q.unit u).pos]?

/-- The instruction at the head of a unit's stream. -/
def Seqr.head (q : Seqr) (u : Nat) : Option Engine := (q.headWord u).bind decodeEngine

/-- What unit `u` of core `pc` has done from the ac in which it could issue again up to now is counted (R585): a wait for its
token, for the row-function pipeline or at a barrier, then frozen from the freeze on. Its next issue is no earlier than now. -/
def State.account (s : State) (pc u : Nat) : State :=
  let k := s.core pc
  let v := k.sq.unit u
  let now := s.acNow pc
  let upto := if k.frozen then min now k.frozenAt else now
  let o := 0x8500 + pc
  let frozen := now - max upto v.nextIssue
  let s := match v.halt with
    | .stopped => s
    | .bath => s.count o 0xA (now - v.nextIssue)
    | .atYield .. | .atEnd => (s.count o 8 (upto - v.nextIssue)).count o 0xA frozen
    | .running => match k.sq.head u with
      | none => s
      | some i =>
        let tok := ((k.sq.token i.header.waitToken.toNat).readyAt i.header.waitCount.toNat v.nextIssue).getD upto
        (((s.count o 6 (min tok upto - v.nextIssue)).count o 7 (upto - max tok v.nextIssue))).count o 0xA frozen
  s.modCore pc fun k => { k with sq := k.sq.setUnit u { v with nextIssue := max now v.nextIssue } }

/-- Every unit of a core accounted for. -/
def State.accountCore (s : State) (pc : Nat) : State := s.forEach (List.range 5) fun s u => s.account pc u

end Sys2Proof.Machine
end

