-- ==== Sys2Proof/Machine/StepOps.lean ====
section
/-! DEFINITION. Shared operations over steps: the running step of a partition, failing it (R204), contract breaches
(R150 to R152), fences of cores, banks and clusters (20 R617 to R621, R445). -/

namespace Sys2Proof.Machine

/-- Every accepted, unfinished step of a partition. -/
def Part.steps (q : Part) : List Step := q.queue ++ q.backfill

/-- The running step of a partition. -/
def Part.running (q : Part) : Option Step := q.steps.find? fun x => decide (x.stage = .running)

def State.running (s : State) (p : Nat) : Option Step := (s.part p).running

/-- A function applied to every step of a partition that satisfies `f`. -/
def Part.mapSteps (q : Part) (f : Step → Bool) (g : Step → Step) : Part :=
  { q with queue := q.queue.map fun x => if f x then g x else x
           backfill := q.backfill.map fun x => if f x then g x else x }

/-- A function applied to the running step of a partition. -/
def State.modRunning (s : State) (p : Nat) (g : Step → Step) : State :=
  s.modPart p fun q => q.mapSteps (fun x => decide (x.stage = .running)) g

/-- The image an accepted step runs now. -/
def State.imageOf (s : State) (k : Nat) : Image := (s.slot k).image.getD .empty

/-- The bracket entry `b` of an image. -/
def Image.bracketE (i : Image) (b : Nat) : Option BracketE := i.brackets.find? (·.bracket == b)

/-- The logical cores of a bracket (Table 4-15). -/
def BracketE.cores (b : BracketE) : List Nat := setBits 512 b.coreMask

/-- The logical cores of a step's bracket. -/
def State.stepCores (s : State) (x : Step) : List Nat :=
  match (s.imageOf x.slot).bracketE x.bracket with
  | some b => b.cores
  | none => []

/-- The physical cores that carry a step. -/
def State.stepPhys (s : State) (x : Step) : List Nat := (s.stepCores x).filterMap s.physOf

/-- A core whose units all stop issuing at their next instruction boundary. -/
def Core.halted (c : Core) : Core :=
  { c with sq := { c.sq with units := (List.range 5).foldl (fun t u =>
      let v := tabGet UnitSt.idle t u
      tabSet UnitSt.idle t u { v with halt := .stopped }) c.sq.units } }

/-- Every core of the running step of a partition stops (R204). -/
def State.stopStep (s : State) (p : Nat) : State :=
  match s.running p with
  | none => s
  | some x => s.forEach (s.stepPhys x) fun t c => (t.accountCore c).modCore c Core.halted

/-- The running step of a partition fails once, for the first reason met (R204, Table 3-9). -/
def State.failStep (s : State) (p : Nat) (f : Failure) : State :=
  let s := s.stopStep p
  s.modRunning p fun x => if x.fail.isNone then { x with fail := some f, replayReq := false } else x

/-- The free entries of client `n`'s completion ring (R437). -/
def State.ringRoom (s : State) (n : Nat) : Nat :=
  let o := clientObj n
  s.num o 9 - ((s.client n).written + 2 ^ 32 - s.num o 0x0A % 2 ^ 32) % 2 ^ 32

/-- The clients of partition `p`. -/
def State.clientsOf (s : State) (p : Nat) : List Nat := (s.clients.map (·.1)).filter fun n => s.num (clientObj n) 2 == p

/-- True for the record of a step that ran: completed or failed (Table 13-5). -/
def ranRecord (r : List Byte) : Bool := decide (leAt r 4 1 ≤ 1)

/-- True when a client has a step in its epilogue: a record of a step that ran waits only for P0 (Table 3-9). -/
def State.inEpilogue (s : State) (n : Nat) : Bool := ((s.client n).waiting.take (s.ringRoom n)).any fun r => ranRecord r.1

/-- The breach flag set in the records of a client's steps in their epilogue (R152, Table 3-9). -/
def State.flagWaiting (s : State) (n : Nat) : State :=
  let k := s.ringRoom n
  s.modClient n fun c => { c with waiting := (c.waiting.take k).map (fun r =>
    if ranRecord r.1 then (patch r.1 0x38 (leBytes 2 (leAt r.1 0x38 2 ||| 1)), r.2) else r) ++ c.waiting.drop k }

/-- Every step of a partition in flight is marked as named by a breach: the accepted, unfinished ones, and the records of those in their
epilogue (R148, R152). -/
def State.markBreach (s : State) (p : Nat) : State :=
  (s.forEach ((s.clientsOf p).filter s.inEpilogue) State.flagWaiting).modPart p fun q =>
    q.mapSteps (fun _ => true) fun x => { x with breach := true }

/-- True while the debug overlay is applied to a partition. -/
def State.debugOn (s : State) (p : Nat) : Bool := s.eff p (0x8000 + p) 1 == 1

/-- An event that is a contract breach naming partition `p` (R150); under the debug overlay the event is raised
without being one (R151). -/
def State.raiseBreach (s : State) (p : Nat) (e : Event) : State :=
  if s.debugOn p then s.raise { e with part := some p, breach := false }
  else (s.markBreach p).raise { e with part := some p, breach := true }

/-- The step_seq of the running step of a partition. -/
def State.runningSeq (s : State) (p : Nat) : Option Nat := (s.running p).map fun x => x.req.seq

/-- An event naming a partition and its running step, with no breach. -/
def State.raiseStep (s : State) (p : Nat) (e : Event) : State :=
  s.raise { e with part := some p, step := s.runningSeq p }

/-- A schedule fault of unit `u` of physical core `pc` at a stream index: the event, and the step fails with cause 4
(R127, R128, R170, R245). -/
def State.scheduleFault (s : State) (p pc u idx : Nat) : State :=
  let s := s.raiseStep p (.of 0x03 (coreUnit pc u) idx)
  s.failStep p ⟨4, 0, 0, some (coreUnit pc u)⟩

/-- A unit whose instruction fails a shape condition: physical core, unit, stream index, the condition's code. -/
structure ShapeFault where
  pc : Nat
  unit : Nat
  index : Nat
  code : Nat
deriving DecidableEq, Repr

/-- Shape faults in one ac (R204, R205, Table 5-5): one event for each faulting unit, and the step fails once, with cause 2 and
the code of `f`. -/
def State.shapeFaults (s : State) (p : Nat) (all : List ShapeFault) (f : ShapeFault) : State :=
  let s := s.forEach all fun s g => s.raiseStep p { Event.of 0x04 (coreUnit g.pc g.unit) g.index with reason := g.code }
  s.failStep p ⟨2, f.code, 0, some (coreUnit f.pc f.unit)⟩

/-! ### Fences (20_faults_and_guarantees.md) -/

/-- A record of `fence_history` (Table 20-5), the newest 64 kept. -/
def State.fenceNote (s : State) (pc bank cause : Nat) : State :=
  let r := leBytes 8 s.now ++ leBytes 2 pc ++ leBytes 1 bank ++ leBytes 1 cause ++ leBytes 4 0
  s.setBlob 0x9140 4 (keepNewest 64 16 (s.blob 0x9140 4 ++ r))

/-- A core after a core reset (R558): its memories and registers, its filmstrip among them, zeroed with valid check bits, its streams and
tokens idle; the running count of its cluster goes on. A bank fence that waits for the step boundary still waits (R200). -/
def Core.reset (c : Core) : Core :=
  { Core.idle with film := { Film.off with zero := c.film.zero }, ac := c.ac, acBase := c.acBase, bankFence := c.bankFence }

/-- The running step of a partition stops: for a cause that R445 names (`can`) it is replayed when its request allows it and it has not
been replayed, otherwise it fails. -/
def State.stopOrReplay (s : State) (p : Nat) (can : Bool) (f : Failure) : State :=
  match s.running p with
  | none => s
  | some x =>
    if can && x.req.flags.testBit 2 && !x.replayed && x.fail.isNone then
      (s.stopStep p).modRunning p fun x => { x with replayReq := true, fenced := x.fenced || f.cause == 7 }
    else s.failStep p f

/-- A step stopped by a fence: replayed, or failed with cause 7 (R445). -/
def State.fenceStep (s : State) (p : Nat) (unit : Nat) : State := s.stopOrReplay p true ⟨7, 0, 0, some unit⟩

/-- Physical core `pc` is fenced for `cause` (R618, R619): the bit, the history, the core reset, the step that ran on
it, the event, and the breach of the partition when it had a step in flight, on this core or not (Table 3-8). A core already
fenced does not change. -/
def State.fenceCore (s : State) (pc cause : Nat) : State :=
  if s.coreFenced pc then s
  else
    let o := 0x9150 + pc / 36
    let s := (s.setNum o 1 (withBit (s.num o 1) (pc % 36))).fenceNote pc 0xFF cause
    let run := (s.core pc).run
    let part := s.partOfCluster (clusterOfPhys pc)
    let flying := ((part.map s.running).getD none).isSome
    let e := Event.of 0x10 (coreUnit pc 0xF) (pc + cause * 65536)
    let s := match run with
      | some r => s.fenceStep r.part (coreUnit pc 0xF)
      | none => s
    let s := s.modCore pc Core.reset
    match part with
    | none => s.raise e
    | some p =>
      let s := s.modPart p fun q => { q with mapDirty := true }
      if flying then s.raiseBreach p { e with step := s.runningSeq p } else s.raise { e with part := some p }

/-- A whole cluster is fenced for `cause` (Table 20-4, causes 6 to 8; R621). -/
def State.fenceCluster (s : State) (k cause : Nat) : State :=
  if s.clusterFenced k then s
  else
    let s := (s.setNum 0x9160 1 (withBit (s.num 0x9160 1) k)).fenceNote (9 * k) 0xFF cause
    let runs := (rangeFrom (9 * k) 9).filterMap fun pc => (s.core pc).run
    let flying := (((s.partOfCluster k).map s.running).getD none).isSome
    let s := s.forEach (runs.take 1) fun t r => t.fenceStep r.part (unitId (k / 4) (k % 4) 0xF 0xF)
    let s := s.forEach (rangeFrom (9 * k) 9) fun t pc => t.modCore pc Core.reset
    let e := Event.of 0x10 (unitId (k / 4) (k % 4) 0xF 0xF) (9 * k + cause * 65536)
    match s.partOfCluster k with
    | none => s.raise e
    | some p =>
      let s := s.modPart p fun q => { q with mapDirty := true }
      if flying then s.raiseBreach p { e with step := s.runningSeq p } else s.raise { e with part := some p }

/-- The subindex of `acc_bank_fence` for a physical core (Table 5-2). -/
def bankFenceKey (pc : Nat) : Nat × Nat := (0x9120 + pc / 36, pc % 36 + 1)

/-- The physical bank that carries a logical accumulator bank (R199). -/
def State.physBank (s : State) (pc b : Nat) : Nat :=
  let (o, i) := bankFenceKey pc
  let m := s.num o i
  ((List.range 16).filter fun k => !m.testBit k).getD b b

/-- The number of logical accumulator banks a physical core presents (R199). -/
def State.logicalBanks (s : State) (pc : Nat) : Nat :=
  let (o, i) := bankFenceKey pc
  if s.num o i = 0 then 16 else 15

/-- The accumulator memory of a core by logical bank once its logical bank `b` is fenced: the banks above it move down one
place, the last is left empty (R199). -/
def Ram.dropBank (r : Ram) (b : Nat) : Ram :=
  ⟨r.bytes.filterMap fun e => if e.1 / 65536 < b then some e else if e.1 / 65536 = b then none else some (e.1 - 65536, e.2),
    r.errs.filterMap fun e => if e.1 / 8192 < b then some e else if e.1 / 8192 = b then none else some (e.1 - 8192, e.2)⟩

/-- A bank fence that waits on core `pc` takes effect, at a step boundary (R199, R200). -/
def State.takeBankFence (s : State) (pc : Nat) : State :=
  match (s.core pc).bankFence with
  | none => s
  | some b =>
    let (o, i) := bankFenceKey pc
    let s := s.modCore pc fun c => { c with bankFence := none, acc := c.acc.dropBank b }
    s.setNum o i (2 ^ b)

/-- A storage fault in an accumulator bank (R200): the fence of the bank is decided and takes effect at the next step
boundary; one in a second bank of the same physical core fences the core. The step is stopped as by a fence (R617). -/
def State.fenceBank (s : State) (pc bank : Nat) : State :=
  let (o, i) := bankFenceKey pc
  let waits := (s.core pc).bankFence
  if s.num o i ≠ 0 ∨ (waits.isSome ∧ waits ≠ some bank) then s.fenceCore pc 3
  else if waits = some bank ∨ s.coreFenced pc then s
  else
    let s := (s.modCore pc fun c => { c with bankFence := some bank }).fenceNote pc bank 3
    let s := match (s.core pc).run with
      | some r => s.fenceStep r.part (coreUnit pc 0xF)
      | none => s
    let e := Event.of 0x11 (coreUnit pc 0xF) (pc + bank * 65536)
    match s.partOfCluster (clusterOfPhys pc) with
    | none => s.raise e
    | some p => (s.modPart p fun q => { q with mapDirty := true }).raiseStep p e

/-! ### Consuming checked words (R104, R617) -/

/-- The local memories of a core by the descriptor's local_space: 0 operand buffer, 1 cluster buffer, 2
accumulator. -/
def State.localRam (s : State) (pc space : Nat) : Ram :=
  match space with
  | 0 => (s.core pc).opnd
  | 1 => (s.cluster (clusterOfPhys pc)).buf
  | _ => (s.core pc).acc

def State.setLocalRam (s : State) (pc space : Nat) (r : Ram) : State :=
  match space with
  | 0 => s.modCore pc fun c => { c with opnd := r }
  | 1 => s.modCluster (clusterOfPhys pc) fun c => { c with buf := r }
  | _ => s.modCore pc fun c => { c with acc := r }

/-- The list of words that arrived uncorrectable in a local memory (R617). -/
def State.arrived (s : State) (pc space : Nat) : Arrived :=
  match space with
  | 0 => (s.core pc).arrOpnd
  | 1 => (s.cluster (clusterOfPhys pc)).arrived
  | _ => (s.core pc).arrAcc

def State.setArrived (s : State) (pc space : Nat) (a : Arrived) : State :=
  match space with
  | 0 => s.modCore pc fun c => { c with arrOpnd := a }
  | 1 => s.modCluster (clusterOfPhys pc) fun c => { c with arrived := a }
  | _ => s.modCore pc fun c => { c with arrAcc := a }

/-- The list after words of a range were written: those now uncorrectable are listed, up to 32 (R617). -/
def State.noteArrivals (s : State) (pc space a n : Nat) : State :=
  let bad := (s.localRam pc space).badWords a n
  let old := s.arrived pc space
  let new := bad.filter fun w => !old.words.contains w
  let all := old.words ++ new
  if new.isEmpty then s
  else s.setArrived pc space ⟨all.take 32, old.overflow || decide (32 < all.length)⟩

/-- What words of a local memory corrected by core `pc` count: on the die, and in the core's own memories toward its fence
(R104, fence cause 4). -/
def State.corrected (s : State) (pc space n : Nat) : State :=
  if n = 0 then s
  else if space = 1 then s.count 0x8040 (sub1 (pc / 36)) n
  else
    let s := s.count 0x8040 (sub1 (pc / 36)) n
    let ts := ((s.core pc).ceTimes.filter (within24h s.now)) ++ List.replicate n s.now
    let s := s.modCore pc fun c => { c with ceTimes := ts }
    if s.num 0x9140 3 ≤ ts.length then s.fenceCore pc 4 else s

/-- A write of `n` bytes at `a` of a local memory is about to be made: what the merges of its write port meet is counted on
the die (R653, R104). -/
def State.merging (s : State) (pc space a n : Nat) : State :=
  let (ce, ue) := (s.localRam pc space).mergeErrs a n
  (s.corrected pc space ce).count 0x8041 (sub1 (pc / 36)) ue

/-- Words of a memory image copied into a local memory of core `pc`, check bits kept; those that arrive uncorrectable are
listed (R103, R617, R653). -/
def State.copyLocal (s : State) (pc space : Nat) (img : Ram) (b a n : Nat) : State :=
  let s := s.merging pc space a n
  (s.setLocalRam pc space (Ram.copy img (s.localRam pc space) b a n)).noteArrivals pc space a n

/-- An uncorrectable word consumed by unit `u` of core `pc` from local memory `space`, word `w` (R104, R617): the
data-fault event, and either the fence of a storage fault or the failure of the step. -/
def State.uncorrectable (s : State) (p pc u space w : Nat) : State :=
  let arr := s.arrived pc space
  let s := s.count 0x8041 (sub1 (pc / 36)) 1
  let storage := !arr.overflow && !arr.words.contains w
  let s := s.raiseBreach p { Event.of 0x01 (coreUnit pc u) (8 * w) with step := s.runningSeq p }
  if storage then
    match space with
    | 0 => s.fenceCore pc 2
    | 1 => s.fenceCluster (clusterOfPhys pc) 6
    | _ => s.fenceBank pc (s.physBank pc (w / 8192))
  else s.failStep p ⟨3, 0, 0, some (coreUnit pc u)⟩

/-- An uncorrectable word that a unit of core `pc` consumed straight from the stacks, at device address `a`: the
data-fault event and the failure of the step (R104, R297). -/
def State.dataFault (s : State) (p pc u a : Nat) : State :=
  let s := s.count 0x8041 (sub1 (pc / 36)) 1
  let s := s.raiseBreach p { Event.of 0x01 (coreUnit pc u) a with step := s.runningSeq p }
  s.failStep p ⟨3, 0, 0, some (coreUnit pc u)⟩

/-! ### The stores that the device writes itself (R617) -/

/-- A checker's finding on a word whose stored bits differ from its code word by `m`: the code is linear. -/
def maskCheck (m : CodeWord) : Check := if m = 0 then .clean else eccCheck (eccEncode 0 ^^^ m)

/-- Words of a store found correctable, and uncorrectable, by the bit errors that the store holds. -/
def storeErrs (t : Tab CodeWord) (ws : List Nat) : Nat × List Nat :=
  let ws := ws.dedup
  ((ws.filter fun w => decide (maskCheck (tabGet 0 t w) ≠ .clean) && decide (maskCheck (tabGet 0 t w) ≠ .uncorrectable)).length,
    ws.filter fun w => decide (maskCheck (tabGet 0 t w) = .uncorrectable))

/-- Words of a store of core `pc` read by unit `u`: corrections counted; an uncorrectable word is a data fault and, since the device
wrote the store from a checked source, a storage fault (R104, R617, fence cause 2). False when a word was unusable. -/
def State.storeRead (s : State) (p pc u : Nat) (t : Tab CodeWord) (ws : List Nat) : State × Bool :=
  if t.isEmpty then (s, true)
  else
    let (ce, ue) := storeErrs t ws
    let s := s.corrected pc 0 ce
    (s.forEach ue fun s w =>
      let s := s.count 0x8041 (sub1 (pc / 36)) 1
      (s.raiseBreach p { Event.of 0x01 (coreUnit pc u) (8 * w) with step := s.runningSeq p }).fenceCore pc 2, ue.isEmpty)

/-- The words a unit consumed from local memory `space`: corrections counted, uncorrectable words reported. -/
def State.consumed (s : State) (p pc u space : Nat) (f : Fetched) : State :=
  (s.corrected pc space f.ce.length).forEach f.ue fun t w => t.uncorrectable p pc u space w

end Sys2Proof.Machine
end

