-- ==== Sys2Proof/Machine/Operands.lean ====
section
/-! DEFINITION. Operand forms: descriptors of a core program (04, Table 4-9), their addresses (R177), tiles read
and written by the engines, regions of an image and the device memory behind them (04 Table 4-17, 05 R214 to R216,
09 R323 to R331). -/

namespace Sys2Proof.Machine

/-- Descriptor `i` of a program (R175). -/
def Program.descBits (q : Program) (i : Nat) : BitVec 256 := q.descs.getD i 0

/-- Descriptor `i` read as a tile descriptor. -/
def Program.desc (q : Program) (i : Nat) : Desc := decodeDesc (q.descBits i)

/-- Descriptor `i` read as a row-function descriptor. -/
def Program.rowDesc (q : Program) (i : Nat) : RowDesc := decodeRowDesc (q.descBits i)

/-- Index of the enclosing loop at a level, 0 when there is none (R177). -/
def loopIndex (loops : List Frame) (level : Nat) : Nat := ((loops[level]?).map Frame.index).getD 0

/-- Index of the innermost enclosing loop, 0 in no loop (Table 4-4, init 3). -/
def innerIndex (loops : List Frame) : Nat := ((loops.getLast?).map Frame.index).getD 0

/-- Where a descriptor points for loop index `i` and problem `j` (R177). -/
structure Loc where
  local0 : Nat
  scale0 : Nat
  tscale0 : Nat
  memOff : Int
deriving DecidableEq, Repr

/-- Bytes of a unit of local_addr (Table 4-9). -/
def localUnit (space : Nat) : Nat := if space = 1 then 256 else 32

end Sys2Proof.Machine

namespace Sys2Proof

open Machine

/-- The addresses of R177. -/
def Desc.loc (d : Desc) (loops : List Frame) (j : Nat) : Loc :=
  let i := loopIndex loops d.iterLevel.toNat
  let slot := if d.localWrap = 0 then i else i % d.localWrap.toNat
  let adv := slot * d.localIterStride.toNat * 256
  let sc := j * d.scaleBatchStride.toNat * 32 + adv
  { local0 := d.localAddr.toNat * localUnit d.localSpace.toNat + adv + j * d.batchStride.toNat * 32
    scale0 := d.scaleAddr.toNat * 32 + sc
    tscale0 := d.tscaleAddr.toNat * 32 + sc
    memOff := (d.memOffset.toNat : Int) + i * d.memIterStride.toInt * 256 }

/-- Bytes of a row of a tile. -/
def Desc.rowBytes (d : Desc) : Nat := d.rowElems.toNat * fmtBits d.fmt.toNat / 8

/-- Bytes of a tile. -/
def Desc.bytes (d : Desc) : Nat := d.rows.toNat * d.rowBytes

/-- Elements of a tile. -/
def Desc.elems (d : Desc) : Nat := d.rows.toNat * d.rowElems.toNat

/-- Granules of a transfer of the tile (R178). -/
def Desc.granules (d : Desc) : Nat := ceilDiv d.bytes 256

end Sys2Proof

namespace Sys2Proof.Machine

/-- A tile read by an engine: its elements' bits by row, its block scales by row, its tile scales, and what the
checkers met. -/
structure Tile where
  fmt : Nat
  rows : List (List Nat)
  scales : List (List Nat)
  tscales : List Nat
  reads : List (Nat × Fetched)
deriving DecidableEq, Repr

/-- A tile read from the local memories of core `pc`, each of its words once (R177, R196, R276). -/
def State.readTile (s : State) (pc : Nat) (d : Desc) (loops : List Frame) (j : Nat) : Tile :=
  let l := d.loc loops j
  let sp := d.localSpace.toNat
  let ram := s.localRam pc sp
  let fmt := d.fmt.toNat
  let rb := d.rowBytes
  let f := ram.fetch l.local0 d.bytes
  let op := (s.core pc).opnd
  let nb := d.rowElems.toNat / 32
  let sc := if d.scaleMode = 0 then ⟨[], [], []⟩ else op.fetch l.scale0 (d.rows.toNat * nb)
  let rows := fun (b : List Byte) (n : Nat) => (List.range d.rows.toNat).map fun r => (b.drop (r * n)).take n
  let ts := if d.scaleMode = 2 then op.fetch l.tscale0 (4 * (d.rowElems.toNat / 64)) else ⟨[], [], []⟩
  { fmt := fmt
    rows := (rows f.bytes rb).map (unpackBits (fmtBits fmt) d.rowElems.toNat)
    scales := if d.scaleMode = 0 then [] else (rows sc.bytes nb).map fun b => b.map BitVec.toNat
    tscales := unpackBits 32 (ts.bytes.length / 4) ts.bytes
    reads := [(sp, f), (0, sc), (0, ts)] }

/-- The checks of a tile's words, reported for unit `u`. -/
def State.consumeTile (s : State) (p pc u : Nat) (t : Tile) : State :=
  s.forEach t.reads fun s r => s.consumed p pc u r.1 r.2

/-- Element `k` of row `r` with its block scale but not its tile scale (R60). -/
def Tile.val (t : Tile) (r k : Nat) : FVal :=
  let v := elemVal t.fmt ((t.rows.getD r []).getD k 0)
  if t.scales.isEmpty then v else v.mul (scaleVal ((t.scales.getD r []).getD (k / 32) 0))

/-- Element `k` of row `r` with all its scales (R60, R68, R69). -/
def Tile.fullVal (t : Tile) (r k : Nat) : FVal :=
  let v := t.val r k
  if t.tscales.isEmpty then v else v.mul (tileScaleVal (t.tscales.getD (k / 64) 0))

/-- The FP32 encoding of element `k` of row `r` on entry to the vector engine (R77). -/
def Tile.f32At (t : Tile) (r k : Nat) : Nat := toF32 (t.fullVal r k)

/-- Bytes written to a local memory of core `pc` by an engine, with valid check bits. -/
def State.writeLocal (s : State) (pc space a : Nat) (d : List Byte) : State :=
  let s := s.merging pc space a d.length
  s.setLocalRam pc space ((s.localRam pc space).write a d)

/-- The rows of a tile written by the vector engine in the destination format (R77, R63 to R70): `vals` holds the
exact value of each element, `sat` the saturation flag. MX destinations write their block scales too; an INT32 value goes to a
two-level format with one rounding to FP32, after the division (DEDUCED: log entry 225). -/
def State.writeTile (s : State) (pc : Nat) (d : Desc) (loops : List Frame) (sat : Bool)
    (vals : List (List FVal)) : State :=
  let l := d.loc loops 0
  let fmt := d.fmt.toNat
  let w := fmtBits fmt
  let sp := d.localSpace.toNat
  let rb := d.rowBytes
  let nb := d.rowElems.toNat / 32
  let op := (s.core pc).opnd
  (List.range d.rows.toNat).foldl (fun s r =>
    let vs := vals.getD r []
    match elemOf fmt with
    | .mx f =>
      let tv := fun k => if d.scaleMode = 2 then
          some (leNat (op.fetch (l.tscale0 + 4 * (k / 64)) 4).bytes) else none
      let blocks := (List.range nb).map fun b =>
        let src : List FVal := (vs.drop (32 * b)).take 32
        match tv (32 * b) with
        | none => mxBlock f src
        | some t =>
          if (tileScaleVal t).isNan then (0xFF, src.map fun _ => 0)
          else mxBlock f (src.map fun (v : FVal) => f32 (toF32 (v.div (f32 t))))
      let s := s.writeLocal pc sp (l.local0 + r * rb) (packBits w (blocks.flatMap (·.2)))
      s.writeLocal pc 0 (l.scale0 + r * nb) (blocks.map fun b => BitVec.ofNat 8 b.1)
    | _ => s.writeLocal pc sp (l.local0 + r * rb) (packBits w (vs.map (elemEnc fmt sat)))) s

/-- FP32 results converted once to the destination format of the vector engine: saturation set for FP8 and INT8,
clear otherwise (R72, R77). -/
def vecSat (fmt : Nat) : Bool := decide (fmt = 0x4) || decide (fmt = 0x5) || decide (fmt = 0xB)

/-! ### Accumulator rows (R198) -/

/-- Address of column `n` of row `r` of the accumulator, rows counted from row 128 times the bank. -/
def accAddr (bank row col : Nat) : Nat := (bank * 128 + row) * 512 + col * 4

/-- The `n` 4-byte values of an accumulator row as stored. -/
def State.accRow (s : State) (pc bank row n : Nat) : List Nat :=
  unpackBits 32 n ((s.core pc).acc.fetch (accAddr bank row 0) (4 * n)).bytes

/-- An accumulator row written by an engine. -/
def State.setAccRow (s : State) (pc bank row : Nat) (vs : List Nat) : State :=
  s.writeLocal pc 2 (accAddr bank row 0) (packBits 32 vs)

/-- The checks of reading `m` accumulator rows of `n` values, for unit `u`. -/
def State.consumeAcc (s : State) (p pc u bank row m n : Nat) : State :=
  s.forEach (List.range m) fun t r =>
    t.consumed p pc u 2 ((t.core pc).acc.fetch (accAddr bank (row + r) 0) (4 * n))

/-! ### Regions -/

/-- Region `n` of an image. -/
def Image.region (i : Image) (n : Nat) : Option RegionE := i.regions.find? (·.region == n)

/-- The byte ranges of a transfer that lie in memory, as (offset in the transfer, device address, length). -/
structure Run where
  off : Nat
  addr : Nat
  len : Nat
deriving DecidableEq, Repr

/-- The page of the tier cache that holds byte `o` of window `w` for step `x` of partition `p`: the one it pins, or one of the
window's generation (R324, R325, R329). -/
def State.tierPage (s : State) (p : Nat) (x : Step) (w o : Nat) : Option TierPage :=
  let mine := s.tier.filter fun t => t.part == p && t.window == w && t.page == o / 4096
  (mine.find? fun t => x.pins.contains t.frame) <|> mine.find? fun t => t.generation == s.num (0x5600 + w) 4

/-- The device address behind byte `o` of a region for step `x` of partition `p`: kinds 1 and 2 by their assigned
base, kind 3 by the bound argument, kind 5 by the resident page. -/
def State.regionAddr (s : State) (p : Nat) (x : Step) (g : RegionE) (o : Nat) : Option Nat :=
  match g.kind with
  | 1 | 2 => (((s.slot x.slot).bases.find? (·.1 == g.region)).map (·.2)).map (· + o)
  | 3 => some ((x.req.args.getD g.ref .none).base + o)
  | 5 => (s.tierPage p x g.ref (g.base + o)).map fun t => t.frame * 4096 + (g.base + o) % 4096
  | _ => none

/-- A run of bytes of a region read into a memory image at offset `b` (check bits kept): from the stacks, with the
fill of R215 at and beyond an argument's bound length. -/
def State.readRegion (s : State) (die p : Nat) (x : Step) (g : RegionE) (o n : Nat) (img : Ram) (b : Nat) :
    State × Ram :=
  (granulesOf o n).foldl (fun (acc : State × Ram) pc =>
    let off := pc.1
    let k := pc.2
    let dst := b + (off - o)
    match g.kind with
    | 3 =>
      let a := x.req.args.getD g.ref .none
      let inb := min k (a.len - min a.len off)
      let (s1, m) := acc.1.meshRead die (a.base + off) inb
      let img1 := Ram.copy m acc.2 0 dst inb
      let fill := (List.range (k - inb)).map fun i =>
        BitVec.ofNat 8 (if (off + inb + i) % 2 = 0 then a.fill % 256 else a.fill / 256)
      (s1, img1.write (dst + inb) fill)
    | 6 =>
      (acc.1, acc.2)
    | _ =>
      match acc.1.regionAddr p x g off with
      | none => acc
      | some d =>
        let (s1, m) := acc.1.meshRead die d k
        (s1, Ram.copy m acc.2 0 dst k)) (s, img)

/-- Bytes `b` to `b + n - 1` of a memory image written to a region at offset `o`: kinds 1 and 2 to the stacks, kind
3 cut at the bound length (R216). -/
def State.writeRegion (s : State) (die p : Nat) (x : Step) (g : RegionE) (o n : Nat) (img : Ram) (b : Nat) : State :=
  match g.kind with
  | 3 =>
    let a := x.req.args.getD g.ref .none
    let k := min n (a.len - min a.len o)
    (s.meshWrite die img b (a.base + o) k).tellChannels (a.base + o) k
  | 1 | 2 =>
    match s.regionAddr p x g o with
    | some d => s.meshWrite die img b d n
    | none => s
  | _ => s

/-- The cluster a kind-7 region names (Table 4-17): the issuing core's own for place 0xFF. -/
def RegionE.clusterOf (g : RegionE) (k : Nat) : Nat := if g.place = 0xFF then k else 4 * g.place + g.cluster

/-- True when a transfer of core cluster `k` with this region is local (R173). -/
def RegionE.isLocal (g : RegionE) (k : Nat) : Bool := g.kind == 7 && g.clusterOf k == k

end Sys2Proof.Machine

namespace Sys2Proof

open Machine

/-- The memory-side offsets of the rows of a tile for a transfer (R177, R178): one (offset, length) per row, or the
packed bytes of a kind-7 region. -/
def Desc.memRows (d : Desc) (g : RegionE) (loops : List Frame) : List (Nat × Nat) :=
  let m := (d.loc loops 0).memOff.toNat
  if g.kind = 7 then [(m, d.bytes)]
  else (List.range d.rows.toNat).map fun r => (m + r * d.memRowPitch.toNat, d.rowBytes)

end Sys2Proof
end

