-- ==== Sys2Proof/Machine/Issue.lean ====
section
/-! DEFINITION. Streams, tokens and issue (03_cores_and_static_schedule.md R117 to R128): when a unit issues the
instruction at the head of its stream, what its header does, and the shared operation every instruction's meaning
goes through. -/

namespace Sys2Proof.Machine

/-- The first ac at or after `t` at which the row-function pipeline is free (R112). An instruction that issues while it is free
issues, though its hold runs into that of an MMF already in flight whose row phase is still to come: R112 and R117 do not say
(DESIGN CHOICE: log entry 189). -/
def pipeReady (holds : List (Nat × Nat)) : Nat → Nat → Nat
  | 0, t => t
  | fuel + 1, t =>
    match holds.find? fun h => h.1 ≤ t && t < h.2 with
    | none => t
    | some h => pipeReady holds fuel h.2

end Sys2Proof.Machine

namespace Sys2Proof

/-- True for an instruction that needs the row-function pipeline (R112). -/
def Engine.needsPipe : Engine → Bool
  | .vrow .. | .mmf .. => true
  | _ => false

end Sys2Proof

namespace Sys2Proof.Machine

/-- The ac at which a unit's head would issue (R117), and the ac at which its token wait is satisfied. -/
def Seqr.issueAt (q : Seqr) (u : Nat) (i : Engine) : Option (Nat × Nat) :=
  let v := q.unit u
  if v.halt ≠ .running then none
  else
    let h := i.header
    match (q.token h.waitToken.toNat).readyAt h.waitCount.toNat v.nextIssue with
    | none => none
    | some t => some (if i.needsPipe then pipeReady q.holds (q.holds.length + 1) t else t, t)

/-- True when another unit of the core goes first: in the same ac one with a lower unit number (R115), or one whose head waits
on the same token, would issue earlier, and leaves too little of the count (R125). Each other unit is compared alone, also where
three or more wait on one token: R125 speaks of two (DESIGN CHOICE: log entry 190). -/
def Seqr.outbid (q : Seqr) (u t : Nat) (h : Header) : Bool :=
  (List.range 5).any fun v =>
    v ≠ u && (match q.head v with
    | none => false
    | some j =>
      let g := j.header
      match q.issueAt v j with
      | none => false
      | some (tv, _) => (tv == t && v < u) ||
          (tv < t && h.waitCount ≠ 0 && g.waitCount ≠ 0 && g.waitToken == h.waitToken &&
            (q.token h.waitToken.toNat).visible t < h.waitCount.toNat + g.waitCount.toNat))

/-- Loop frames and position after the instruction at `pos` is past: returns to body starts cost nothing (R162). -/
def afterInstr : Nat → Nat → List Frame → Nat × List Frame
  | 0, pos, fs => (pos, fs)
  | fuel + 1, pos, fs =>
    match fs.getLast? with
    | none => (pos, fs)
    | some f =>
      if pos = f.start + f.body then
        if f.index + 1 < f.count then (f.start, fs.dropLast ++ [{ f with index := f.index + 1 }])
        else afterInstr fuel pos fs.dropLast
      else (pos, fs)

/-- The unit after its head is past. -/
def UnitSt.advance (v : UnitSt) : UnitSt :=
  let (p, fs) := afterInstr 5 (v.pos + 1) v.loops
  { v with pos := p, loops := fs, issued := v.issued + 1 }

/-- The unit after a LOOP enters its body (R162, R163). -/
def UnitSt.enter (v : UnitSt) (count body : Nat) : UnitSt :=
  { v with pos := v.pos + 1, loops := v.loops ++ [⟨v.pos + 1, body, count, 0⟩], issued := v.issued + 1 }

/-- How long an instruction takes (Table 3-4): occupancy, operand release, latency (none for a window), the
interval in which it holds the row-function pipeline, the granules it moves. -/
structure Timing where
  occ : Nat
  rel : Nat
  lat : Option Nat
  hold : Option (Nat × Nat)
  granules : Nat
deriving DecidableEq, Repr

/-- A signal made: the count raised, visible from `vis`; none above 65,535, where `held` of the count is not made yet (R124,
R127). -/
def Token.raised (k : Token) (held inc vis : Nat) : Option Token :=
  if 65535 < k.count - held + inc then none else some ⟨k.count + inc, k.pend ++ [(vis, inc)]⟩

/-- What the count of token `k` holds of signals at operand release that are made after ac `t` (R123). -/
def Seqr.held (q : Seqr) (k t : Nat) : Nat :=
  ((q.late.filter fun g => g.token == k && decide (t < g.made)).map LateSig.inc).sum

/-! ### Breakpoints (19_debug_and_trace.md R607 to R609) -/

/-- The object of a logical core's breakpoints. -/
def bpObj (c : Nat) : Nat := 0x8800 + c

/-- The core freezes on breakpoint `n` (R608): the BREAK record, bp_state, bp_hit, the trigger cause. -/
def State.freeze (s : State) (c pc n u idx : Nat) : State :=
  let s := s.traceCore pc (s.core pc).ac 0x0B 0xF (n * 2 ^ 76 + u * 2 ^ 73 + idx * 2 ^ 60)
  let s := s.modCore pc fun k => { k with frozen := true, frozenAt := k.ac }
  let s := (s.setNum (bpObj c) 0x0D 1).setNum (bpObj c) 0x0E n
  match s.partOfCluster (clusterOf c) with
  | some p => s.trigger p 4
  | none => s

/-- Token breakpoint `n` (9 to 12) for a change of token `k` from `old` to `new`; `sig` for a signal (R607). -/
def State.tokenBpHit (s : State) (c n k old new : Nat) (sig : Bool) : Bool :=
  let w := s.num (bpObj c) n
  let val := w % 65536
  w.testBit 31 && w >>> 16 % 64 == k && (match w >>> 29 % 4 with
  | 0 => sig
  | 1 => decide (val ≤ new) && decide (old < val)
  | 2 => decide (new = 0) && decide (old ≠ 0)
  | _ => false)

/-- The token breakpoints of a core after a change of token `k`. -/
def State.tokenBp (s : State) (c pc k old new : Nat) (sig : Bool) : State :=
  match (rangeFrom 9 4).find? fun n => s.tokenBpHit c n k old new sig with
  | some n => if (s.core pc).frozen then s else s.freeze c pc n 5 0
  | none => s

/-- An address breakpoint of unit `u` at stream index `idx` in bracket `b` that is enabled there. -/
def State.addrBpAt (s : State) (c n u idx b : Nat) : Bool :=
  let w := s.num (bpObj c) n
  w.testBit 63 && w >>> 60 % 8 == u && (w.testBit 59 || w >>> 55 % 16 == b) && w % 8192 == idx

/-- The address breakpoints of a unit about to issue the instruction at `idx` in bracket `b`: the one that hits,
and the state with the passes of the others counted. -/
def State.addrBp (s : State) (c pc u idx b : Nat) : State × Option Nat :=
  let here := (rangeFrom 1 8).filter fun n => s.addrBpAt c n u idx b
  let k := s.core pc
  let hit := here.find? fun n => tabGet 0 k.bpCount n == s.num (bpObj c) n >>> 24 % 65536
  (s.setCore pc { k with bpCount := here.foldl (fun t n => tabMod 0 t n (· + 1)) k.bpCount }, hit)

/-! ### Signals -/

/-- Token `k` of core `pc` is read for unit `u`: four tokens share a word of the token file (R617). -/
def State.tokenRead (s : State) (p pc u k : Nat) : State × Bool := s.storeRead p pc u (s.core pc).tokErrs [k / 4]

/-- Signal of `inc` on token `k` of logical core `c` carried by `pc`, made in ac `t`, visible from `vis`; `u` is the
unit named when it overflows (R124, R127). -/
def State.signal (s : State) (p c pc u k inc t vis : Nat) : State :=
  let q := (s.core pc).sq
  let old := q.token k
  let (s, ok) := s.tokenRead p pc u k
  if !ok then s else
  match old.raised (q.held k t) inc vis with
  | none => s.scheduleFault p pc u (q.unit u).pos
  | some new =>
    let s := s.modCore pc fun x => { x with sq := x.sq.setToken k new, ac := max x.ac t }
    let s := s.traceCore pc t 0x03 u (k * 2 ^ 74 + inc * 2 ^ 66 + new.count % 65536 * 2 ^ 50)
    s.tokenBp c pc k old.count new.count true

/-- A header signal made in ac `t` by unit `u`: on the core's own token file from the next ac, or on another logical
core of the cluster 4 ac later, through the cluster (R124, R126). -/
def State.headerSignal (s : State) (p c pc u : Nat) (g : Signal) (t : Nat) : State :=
  if g.inc = 0 then s
  else if g.remote = 1 then
    let s := s.traceCore pc t 0x03 u
      (g.token.toNat * 2 ^ 74 + g.inc.toNat * 2 ^ 66 + 2 ^ 49 + g.core.toNat * 2 ^ 46)
    s.modCluster (clusterOf c) fun k =>
      { k with remote := k.remote ++ [⟨g.core.toNat, g.token.toNat, g.inc.toNat, t + 4, pc, u⟩] }
  else s.signal p c pc u g.token.toNat g.inc.toNat t (t + 1)

end Sys2Proof.Machine

namespace Sys2Proof

/-- The signals of a header with the given point: 0 operand release, 1 completion (R123). -/
def Header.sigs (h : Header) (point : BitVec 1) : List Signal :=
  [h.sig0, h.sig1].filter fun g => decide (g.inc ≠ 0) && decide (g.point = point)

end Sys2Proof

namespace Sys2Proof.Machine

/-! ### The issue of an instruction -/

/-- What an issuing instruction knows: its partition, logical core, physical core and unit, its issue ac, its stream
index, the loops around it. -/
structure Act where
  p : Nat
  c : Nat
  pc : Nat
  u : Nat
  t : Nat
  idx : Nat
  loops : List Frame
deriving DecidableEq, Repr

/-- What one instruction does at its issue point: its shape code when a shape condition fails (R203), and then every unit of its
cluster that fails one in this ac (Table 5-5); whether it may open (R398), whether it issues without a schedule fault (R170),
its timing, its effect. -/
structure Meaning where
  shape : Option Nat
  faults : List ShapeFault
  opens : Bool
  allowed : Bool
  timing : Timing
  effect : State → State

/-- The reference time of the next instance of a unit (R599). -/
def Image.refTime (i : Image) (bracket core u n : Nat) : Option Nat :=
  match i.refs.find? fun r => r.bracket == bracket && r.core == core && r.unit == u with
  | some r => r.acs[n]?
  | none => none

/-- Four times the ac at which a step-mode bath cuts: the segment's start and the offset at 1.25 GHz, beyond the
bracket's last instruction where it has no such segment (R601). -/
def Image.bathCut (i : Image) (bracket : Nat) (b : StopBath) : Nat :=
  let mine := i.refs.filter fun r => r.bracket == bracket
  match (mine.filterMap fun r => r.segs[b.segment]?).head? with
  | some t => 4 * t + 5 * b.offset
  | none => 4 * ((mine.flatMap RefTimes.acs).foldl max 0 + 1) + 5 * b.offset

/-- t_K: the ac of the bracket's last ST of mode 1 whose order key is below `stop_key`; none when there is none (R602). -/
def Image.bathKey (i : Image) (bracket : Nat) (b : StopBath) : Option Nat :=
  let ts := ((i.refs.filter fun r => r.bracket == bracket).flatMap RefTimes.starts).filter fun e => decide (e.1 < b.key)
  if ts.isEmpty then none else some ((ts.map (·.2)).foldl max 0)

/-- True when the stop bath of the partition names the step that core `r` runs, and the core's die has it. -/
def State.bathOn (s : State) (r : CoreRun) (b : StopBath) : Bool :=
  b.reached.contains (r.logical / 32) &&
    (if b.mode = 0 then r.stepSeq == b.stepSeq
     else ((s.part r.part).queue ++ (s.part r.part).backfill).any fun x => x.req.seq == r.stepSeq && x.req.epoch == b.epoch)

/-- True when the stop bath of the partition holds the next instance of unit `u` (R601, R602). -/
def State.bathHolds (s : State) (r : CoreRun) (u issued : Nat) (i : Engine) : Bool :=
  match (s.part r.part).stop with
  | none => false
  | some b =>
    let img := s.imageOf r.slot
    let ref := img.refTime r.bracket r.logical u issued
    s.bathOn r b && (match i with
      | .stepEnd _ => true
      | _ => if b.mode = 0 then (match ref with | some x => decide (img.bathCut r.bracket b ≤ 4 * x) | none => false)
        else match img.bathKey r.bracket b with
          | none => decide (i.opcode ≠ 0x05)
          | some k => match ref with | some x => decide (k < x) | none => false)

/-- The counters of an issue (R585): busy for the occupancy, issued, and the stalls before it. -/
def State.issueCounts (s : State) (pc u occ next tok t : Nat) : State :=
  let o := 0x8500 + pc
  (((s.count o (u + 1) occ).count o 0x0B 1).count o 0x06 (tok - next)).count o 0x07 (t - tok)

/-- The core after unit `u` issues instruction `i` at ac `t`: the wait taken, the unit past the instruction or in its
loop, its interval and its hold of the row-function pipeline begun (R112, R117, R122). -/
def Core.issued (k : Core) (u t : Nat) (i : Engine) (tm : Timing) : Core :=
  let q := k.sq
  let h := i.header
  let w := h.waitToken.toNat
  let tok := q.token w
  let q := if h.waitCount = 0 then q else q.setToken w { tok with count := tok.count - h.waitCount.toNat }
  let v := q.unit u
  let v' := match i with
    | .loop _ n b => v.enter n.toNat b.toNat
    | .yield _ e g => { v with halt := .atYield (e == 1) g.toNat, issued := v.issued + 1 }
    | .stepEnd _ => { v with halt := .atEnd, issued := v.issued + 1 }
    | _ => v.advance
  let q := q.setUnit u { v' with nextIssue := t + tm.occ }
  let q := match tm.hold with
    | none => q
    | some (a, b) => { q with holds := (q.holds.filter fun x => decide (t < x.2)) ++ [(t + a, t + b)] }
  { k with sq := q, ac := max k.ac t, bpPass := withoutBit k.bpPass u, single := 0, frozen := k.frozen || decide (k.single = u + 1) }

/-- True for YIELD and STEPEND, whose header signals act when the core leaves the barrier (R123). -/
def isBarrier (i : Engine) : Bool := decide (i.opcode = 0x06) || decide (i.opcode = 0x07)

/-- True for the instructions that complete with their own occupancy: TWAIT, TSIG, LOOP, BRB (Table 3-4). -/
def isControl (i : Engine) : Bool := decide (i.opcode < 0x06)

/-- A signal put among those still to be made, in the order in which they are made. -/
def insertLate (g : LateSig) : List LateSig → List LateSig
  | [] => [g]
  | x :: l => if g.made < x.made then g :: x :: l else x :: insertLate g l

/-- A signal at operand release, made in ac `t` (R123): waits may count on it from the ac after, and it is judged when it is made
(R127). -/
def State.releaseSignal (s : State) (a : Act) (g : Signal) (t : Nat) : State :=
  if g.remote = 1 ∨ t ≤ a.t then s.headerSignal a.p a.c a.pc a.u g t
  else s.modCore a.pc fun x =>
    let k := g.token.toNat
    let tok := x.sq.token k
    let q := x.sq.setToken k ⟨tok.count + g.inc.toNat, tok.pend ++ [(t + 1, g.inc.toNat)]⟩
    { x with sq := { q with late := insertLate ⟨t, a.u, a.idx, k, g.inc.toNat⟩ q.late } }

/-- A signal at operand release is made: it stands, or would take its token above 65,535 and is taken back with a schedule fault
(R127). -/
def State.makeLate (s : State) (p pc : Nat) (g : LateSig) : State :=
  let q := (s.core pc).sq
  let q := { q with late := q.late.erase g }
  let tok := q.token g.token
  let new := tok.count - q.held g.token g.made
  if new ≤ 65535 then
    let s := s.modCore pc fun x => { x with sq := q, ac := max x.ac g.made }
    let s := s.traceCore pc g.made 0x03 g.unit (g.token * 2 ^ 74 + g.inc * 2 ^ 66 + new * 2 ^ 50)
    match (s.core pc).run with
    | some r => s.tokenBp r.logical pc g.token (new - g.inc) new true
    | none => s
  else
    let q := q.setToken g.token ⟨tok.count - g.inc, tok.pend.erase (g.made + 1, g.inc)⟩
    let s := s.modCore pc fun x => { x with sq := q }
    s.scheduleFault p pc g.unit g.index

/-- The late signals of a core made before ac `t`. -/
def State.judgeLate (s : State) (p pc t : Nat) : State :=
  s.forEach ((s.core pc).sq.late.filter fun g => decide (g.made < t)) fun s g => s.makeLate p pc g

/-- The signals of an instruction at operand release, and its completion put in flight, or made within the row for a
control instruction (R123). -/
def State.launch (s : State) (a : Act) (i : Engine) (tm : Timing) : State :=
  let done := i.header.sigs 1
  if isBarrier i then s
  else
  let s := s.forEach (i.header.sigs 0) fun s g => s.releaseSignal a g (a.t + tm.rel)
  if isControl i then s.forEach done fun s g => s.headerSignal a.p a.c a.pc a.u g (a.t + tm.occ)
  else s.modCore a.pc fun k => { k with sq := { k.sq with flights := k.sq.flights ++
    [⟨a.u, i.opcode, a.idx, tm.lat.map (a.t + ·), done, tm.granules, 0, 0, a.t, tm.granules⟩] } }

/-- A wait on token `k` of physical core `pc` issues: an instance whose Provisional chunks an ST's completion has made visible
there counts as used (R393). -/
def State.noteUse (s : State) (pc k : Nat) : State :=
  if s.coll.insts.any (fun i => i.signals.contains (pc, k)) then
    let insts := s.coll.insts.map fun i => if i.signals.contains (pc, k) then { i with used := true } else i
    { s with coll := { s.coll with insts } }
  else s

/-- The instruction issues (R117, R122): token, trace record, counters, unit, signals at operand release, flight,
effect. -/
def State.issueCommit (s : State) (a : Act) (i : Engine) (m : Meaning) (tok : Nat) : State :=
  let k := s.core a.pc
  let h := i.header
  let old := (k.sq.token h.waitToken.toNat).count
  let next := (k.sq.unit a.u).nextIssue
  let single := decide (k.single = a.u + 1)
  let s := s.traceCore a.pc a.t 0x01 a.u (i.opcode * 2 ^ 72 + a.idx % 8192 * 2 ^ 59 + innerIndex a.loops * 2 ^ 43 +
    h.waitToken.toNat * 2 ^ 37 + old * 2 ^ 21)
  let s := s.issueCounts a.pc a.u m.timing.occ next tok a.t
  let s := s.modCore a.pc fun k => k.issued a.u a.t i m.timing
  let s := if single then (s.setNum (bpObj a.c) 0x0D 1).modCore a.pc fun k => { k with frozenAt := k.ac } else s
  let s := if h.waitCount = 0 then s
    else (s.noteUse a.pc h.waitToken.toNat).tokenBp a.c a.pc h.waitToken.toNat old (old - h.waitCount.toNat) false
  m.effect (s.launch a i m.timing)

/-- The halt of a unit. -/
def State.haltUnit (s : State) (pc u : Nat) (h : Halt) : State :=
  s.modCore pc fun k => { k with sq := k.sq.setUnit u { k.sq.unit u with halt := h } }

/-- A stop bath holds unit `u` before its next instruction; from now on it is frozen (Table 19-1, stall_frozen). -/
def State.bathUnit (s : State) (pc u : Nat) : State := (s.account pc u).haltUnit pc u .bath

/-- Unit `u`'s ST of mode 1 cannot open in ac `t`, its wait satisfied in ac `tok`: it waits another ac (R398; stall_slot of Table
19-1; log entry 169). -/
def State.waitToOpen (s : State) (pc u tok t : Nat) : State :=
  let o := 0x8500 + pc
  let next := ((s.core pc).sq.unit u).nextIssue
  (((s.count o 6 (tok - next)).count o 7 (t - tok)).count o 9 1).modCore pc fun k =>
    { k with sq := k.sq.setUnit u { k.sq.unit u with nextIssue := t + 1 } }

/-- What stands at the head of unit `u` of logical core `c`: the step its core runs, and where the unit stands. None
when the core is absent, frozen or runs no step, when the unit has stopped, or when `i` is not its head (R118). -/
def State.atHead (s : State) (c u : Nat) (i : Engine) : Option (CoreRun × Nat × UnitSt) :=
  match s.physOf c with
  | none => none
  | some pc =>
    let k := s.core pc
    match k.run with
    | none => none
    | some r =>
      let v := k.sq.unit u
      let may := !k.frozen && (k.single == 0 || k.single == u + 1)
      if may && decide (v.halt = .running) && decide (k.sq.head u = some i) then some (r, pc, v) else none

/-- The late signals made before the ac in which unit `u` of logical core `c` would issue `i` are judged first (R127). -/
def State.settleLate (s : State) (c u : Nat) (i : Engine) : State :=
  match s.atHead c u i with
  | none => s
  | some (r, pc, _) => match (s.core pc).sq.issueAt u i with
    | none => s
    | some (t, _) => s.judgeLate r.part pc t

/-- A breakpoint has hit at the head of unit `u` in ac `t`: that instruction issues later without hitting again (R609). -/
def State.hitAt (s : State) (pc u t : Nat) : State :=
  s.modCore pc fun k => { k with bpPass := withBit k.bpPass u, ac := max k.ac t }

/-- The words of its half of the instruction store that the instruction at `idx` of unit `u`'s stream fills: the descriptor table
of four words an entry stands first, then the streams of two words an instruction (R187). -/
def Program.wordsAt (g : Program) (u idx : Nat) : List Nat :=
  rangeFrom (4 * g.descs.length + 2 * ((g.streams.take u).map List.length).sum + 2 * idx) 2

/-- What the sequencer reads to issue an instruction: its words, and the token it waits on. False when a word was unusable. -/
def State.issueReads (s : State) (a : Act) (i : Engine) : State × Bool :=
  let g := (s.core a.pc).sq.prog
  let (s, ok) := s.storeRead a.p a.pc a.u g.errs (g.wordsAt a.u a.idx)
  if !ok || decide (i.header.waitCount = 0) then (s, ok) else s.tokenRead a.p a.pc a.u i.header.waitToken.toNat

/-- Unit `u` of logical core `c` issues instruction `i` in the first ac in which it can (R117). Nothing happens when
`i` is not at the head of the unit's stream or its wait is not satisfied. A stop bath or a breakpoint stops the unit
before it; a shape condition or a schedule fault fails the step without an issue; an ST of mode 1 that cannot open waits. -/
def State.issue (s : State) (c u : Nat) (i : Engine) (m : State → Act → Meaning) : State :=
  let s := s.settleLate c u i
  match s.atHead c u i with
  | none => s
  | some (r, pc, v) =>
    if s.bathHolds r u v.issued i then s.bathUnit pc u
    else
      let k := s.core pc
      match k.sq.issueAt u i with
      | none => s
      | some (t, tok) =>
        let (s', hit) := if k.bpPass.testBit u then (s, none) else s.addrBp c pc u v.pos r.bracket
        if k.single == 0 && k.sq.outbid u t i.header then s
        else match hit with
        | some n => (s'.hitAt pc u t).freeze c pc n u v.pos
        | none =>
          let a : Act := ⟨r.part, c, pc, u, t, v.pos, v.loops⟩
          let w := m s a
          match w.shape with
          | some code => (s.shapeFaults r.part w.faults ⟨pc, u, v.pos, code⟩).haltUnit pc u .stopped
          | none =>
            if !w.allowed then s.scheduleFault r.part pc u v.pos
            else if !w.opens then s.waitToOpen pc u tok t
            else
              let (s', ok) := s'.issueReads a i
              if ok then s'.issueCommit a i w tok else s'

/-- The meaning of an instruction that only keeps time: `occ` ac, signals and nothing else. Table 3-4 gives these families no
operand release: it is taken at the end of the occupancy (DESIGN CHOICE: log entry 193). -/
def Meaning.control (occ : Nat) : Meaning := ⟨none, [], true, true, ⟨occ, occ, some occ, none, 0⟩, id⟩

end Sys2Proof.Machine
end

