-- ==== Sys2Proof/Machine/Shapes.lean ====
section
/-! DEFINITION. The shape check (05 Tables 5-1, 5-3, 5-4; 08 Tables 8-2, 8-3) and the timing of the matrix and vector
families (03 Tables 3-3, 3-4). -/

namespace Sys2Proof.Machine

/-- The first condition that fails, in table order (R203): pairs of a failure and its code. -/
def firstFail (l : List (Bool × Nat)) : Option Nat := (l.find? (·.1)).map (·.2)

/-- `n` outside `lo` to `hi`. -/
def outside (n lo hi : Nat) : Bool := decide (n < lo) || decide (hi < n)

/-- Twice the rate factor r of a format (Table 3-3). -/
def rate2 (fmt : Nat) : Nat := match fmt with | 0xA => 1 | 0x2 | 0x3 => 4 | _ => 2

/-- K times r, rounded up, for the slower of two operand formats. -/
def kTimesR (k fa fb : Nat) : Nat := ceilDiv (k * max (rate2 fa) (rate2 fb)) 2

/-- The occupancy of one product (Table 3-4). -/
def prodOcc (k fa fb : Nat) : Nat := max (kTimesR k fa fb) 16

/-- True when a format is no operand of the matrix engine (Table 5-4, order 6). -/
def notMatrixFmt (f : Nat) : Bool := decide (f < 0x2) || decide (0xB < f)

/-- The bank of the first row of a vector descriptor in the accumulator and the banks its rows touch (R201). -/
def accSpan (d : Desc) (loops : List Frame) : Nat × Nat :=
  let a := (d.loc loops 0).local0
  (a / 65536, (a + max d.bytes 1 - 1) / 65536 - a / 65536 + 1)

/-- A bank and footprint beyond the allocated banks (R201). -/
def beyond (banks : Nat) (bf : Nat × Nat) : Bool := decide (banks < bf.1 + bf.2)

/-- Condition 10 of Table 5-4. -/
def rowLacks (r : RowDesc) : Bool :=
  (r.mask == 1 && decide (1 ≤ r.maskMode.toNat) && decide (r.maskMode.toNat ≤ 3) &&
    (r.qSegDesc == 0 || r.kSegDesc == 0)) || (r.status == 1 && r.statusDesc == 0)

/-- True when a VROW uses stat_bank: with softmax, or as the finish (Table 5-3). -/
def usesStat (r : RowDesc) : Bool := r.softmax == 1 || r.status == 1

/-- True when an MMAB is a window read (R274). -/
def windowRead (b : Nat) (a : Desc) : Bool :=
  decide (2 ≤ b) && decide (a.batchStride.toNat * 32 < a.rows.toNat * a.rowBytes)

/-- The A span of a window read (R275). -/
def windowSpan (b : Nat) (a : Desc) : Nat := (b - 1) * a.batchStride.toNat * 32 + a.rows.toNat * a.rowBytes

/-- A two-level operand that breaks R196. -/
def badTwoLevel (d : Desc) : Bool := d.scaleMode == 2 && decide (d.rowElems.toNat % 64 ≠ 0)

/-- The shape conditions of MMA (`b` 1, `stride` 0) and MMAB. -/
def shapeMat (q : Program) (banks : Nat) (wide mmab : Bool) (p : MmaFields) (b stride : Nat) : Option Nat :=
  let da := q.desc p.descA.toNat
  let db := q.desc p.descB.toNat
  let dc := q.desc p.descC.toNat
  let fa := da.fmt.toNat
  let fb := db.fmt.toNat
  let m := da.rows.toNat
  let n := db.rows.toNat
  let k := da.rowElems.toNat
  let ints := fa == 0xB && fb == 0xB
  let win := mmab && windowRead b da
  let badC := p.init == 2 && (dc.fmt.toNat != (if p.accType == 1 then 0xC else 0x1) || dc.rows.toNat != m ||
    dc.rowElems.toNat != n || dc.localSpace != 0)
  firstFail [
    (outside m 1 128 || outside n 1 128 || outside k 1 4096 || outside db.rowElems.toNat 1 4096 ||
      outside b 1 65535, 0x0501),
    (k != db.rowElems.toNat, 0x0502),
    (beyond banks (p.accBank.toNat, ceilDiv ((b - 1) * stride + m) 128), 0x0503),
    (mmab && ((decide (0 < stride) && decide (stride < m)) || (stride == 0 && p.init == 2)), 0x0505),
    (notMatrixFmt fa || notMatrixFmt fb || ((fa == 0xB) != (fb == 0xB)) || ((p.accType == 1) != ints) ||
      badTwoLevel da || badTwoLevel db || badC, 0x0506),
    (mmab && p.init == 2 && decide (kTimesR k fa fb < 32), 0x0507),
    (da.localSpace != 0 || db.localSpace != 0, 0x0508),
    (win && (decide ((if wide then 9 else 3) < b) ||
      decide ((if wide then 32768 else 8192) < windowSpan b da)), 0x050B),
    (win && da.scaleMode != 0, 0x050C)]

/-- The format of desc_d that p_fmt requires (R210). -/
def pFmtCode (p : Nat) : Nat := match p with | 0 => 0x2 | 1 => 0x4 | _ => 0x5

/-- True for a descriptor that names a tile (R175: entry 0 stands for none). -/
def named (i : BitVec 12) : Bool := i != 0

/-- The descriptors a vector instruction names. -/
def vecDescs (q : Program) (l : List (BitVec 12)) : List Desc := (l.filter named).map fun i => q.desc i.toNat

/-- Condition 3 of Table 5-4 for vector descriptors (R201). -/
def vecBeyond (banks : Nat) (ds : List Desc) (loops : List Frame) : Bool :=
  (ds.filter fun d => d.localSpace == 2).any fun d => beyond banks (accSpan d loops)

/-- The descriptor of the row-status vector, when a row function writes one (R230). -/
def statusDescs (q : Program) (r : RowDesc) : List Desc := if r.status = 1 then vecDescs q [r.statusDesc] else []

/-- The shape conditions of MMF. -/
def shapeMmf (q : Program) (banks : Nat) (loops : List Frame) (p : MmfFields) : Option Nat :=
  let da := q.desc p.descA.toNat
  let db := q.desc p.descB.toNat
  let dd := q.desc p.descD.toNat
  let r := q.rowDesc p.descRow.toNat
  let fa := da.fmt.toNat
  let fb := db.fmt.toNat
  let soft := r.softmax == 1
  let st := r.statBank.toNat
  firstFail [
    (outside da.rows.toNat 1 128 || outside da.rowElems.toNat 1 4096 || outside db.rowElems.toNat 1 4096 ||
      outside db.rows.toNat 1 128 || outside dd.rowElems.toNat 1 128 || outside dd.rows.toNat 1 128, 0x0501),
    (da.rowElems != db.rowElems || dd.rowElems != db.rows, 0x0502),
    (beyond banks (p.bankP.toNat, 1) || beyond banks (p.bankOut.toNat, 1) || (soft && beyond banks (st, 1)) ||
      vecBeyond banks (statusDescs q r) loops, 0x0503),
    (p.bankP == p.bankOut || (soft && (st == p.bankP.toNat || st == p.bankOut.toNat)), 0x0504),
    (notMatrixFmt fa || notMatrixFmt fb || fa == 0xB || fb == 0xB || dd.fmt.toNat != pFmtCode p.pFmt.toNat ||
      badTwoLevel da || badTwoLevel db, 0x0506),
    (da.localSpace != 0 || db.localSpace != 0 || dd.localSpace != 0, 0x0508),
    (rowLacks r, 0x050A)]

/-- The sources that a VOP operation takes (Table 4-6). -/
def vopArity (op : Nat) : Nat :=
  match op with
  | 0x04 | 0x0C => 3
  | 0x01 | 0x02 | 0x03 | 0x05 | 0x07 | 0x08 => 2
  | _ => 1

/-- True for ROWSUM and ROWMAX. -/
def isRowOp (op : Nat) : Bool := op == 0x0D || op == 0x0E

/-- Formats of Table 5-4, order 6, that a VOP or VROW descriptor may not have. -/
def notVecFmt (d : Desc) : Bool := fmtIsMx d.fmt.toNat || d.fmt.toNat == 0xC

/-- A source of an element-wise VOP that neither matches the destination's count nor is a one-row broadcast of the destination's row
length (R169; DEDUCED: log entry 44). -/
def badSource (dst d : Desc) : Bool :=
  d.elems != dst.elems && !(d.rows == 1 && d.rowElems == dst.rowElems)

/-- The shape conditions of VOP. -/
def shapeVop (q : Program) (banks : Nat) (loops : List Frame) (p : VopFields) : Option Nat :=
  let op := p.op.toNat
  let dst := q.desc p.dst.toNat
  let srcs := ([p.srcA, p.srcB, p.srcC].take (vopArity op)).map fun i => q.desc i.toNat
  let a := q.desc p.srcA.toNat
  let ds := vecDescs q [p.srcA, p.srcB, p.srcC, p.dst]
  firstFail [
    (decide (262144 < (if isRowOp op then a else dst).elems), 0x0501),
    (if isRowOp op then a.rows != dst.rows && a.rows != 1 else srcs.any (badSource dst), 0x0502),
    (vecBeyond banks ds loops, 0x0503),
    (ds.any notVecFmt, 0x0506),
    (isRowOp op && dst.rowElems != 1, 0x0509)]

/-- The shape conditions of VCVT, SFN and SFM: the element count, the accumulator banks, two-level operands (R196), and for SFN dst2
(DEDUCED: log entry 226). -/
def shapeElems (q : Program) (banks : Nat) (loops : List Frame) (src dst dst2 : BitVec 12) (bad2 : Bool) :
    Option Nat :=
  firstFail [
    (decide (262144 < (q.desc dst.toNat).elems) || decide (262144 < (q.desc src.toNat).elems), 0x0501),
    (vecBeyond banks (vecDescs q [src, dst, dst2]) loops, 0x0503),
    ((vecDescs q [src, dst, dst2]).any badTwoLevel, 0x0506),
    (bad2, 0x0509)]

/-- The shape conditions of VROW. -/
def shapeVrow (q : Program) (banks : Nat) (loops : List Frame) (p : VrowFields) : Option Nat :=
  let r := q.rowDesc p.descRow.toNat
  let st := r.statBank.toNat
  let ds := vecDescs q [p.src, p.dst]
  let covers := fun (d : Desc) => d.localSpace == 2 &&
    (let (b, f) := accSpan d loops; decide (b ≤ st) && decide (st < b + f))
  firstFail [
    (vecBeyond banks (ds ++ statusDescs q r) loops || (usesStat r && beyond banks (st, 1)), 0x0503),
    (usesStat r && ds.any covers, 0x0504),
    (ds.any notVecFmt, 0x0506),
    (ds.any fun d => decide (128 < d.rows.toNat) || decide (128 < d.rowElems.toNat), 0x0509),
    (rowLacks r, 0x050A)]

/-- The shape check of an instruction (R202, R280): `banks` the allocated banks, `wide` for a wide-window core. -/
def Program.shape (q : Program) (banks : Nat) (wide : Bool) (loops : List Frame) : Engine → Option Nat
  | .mma _ p => shapeMat q banks wide false p 1 0
  | .mmab _ p => shapeMat q banks wide true p.mat p.batch.toNat p.accStride.toNat
  | .mmf _ p => shapeMmf q banks loops p
  | .vop _ p => shapeVop q banks loops p
  | .vcvt _ p => shapeElems q banks loops p.src p.dst 0 false
  | .vrow _ p => shapeVrow q banks loops p
  | .sfn _ p => shapeElems q banks loops p.src p.dst p.dst2 ((p.dst2 != 0) != (p.func == 0x0E))
  | .sfm _ p => shapeElems q banks loops p.src p.dst 0 false
  | _ => none

/-- The timing of a matrix or vector instruction (Table 3-4, R263). -/
def Program.timing (q : Program) (compat : Bool) : Engine → Timing
  | .mma _ p =>
    let a := q.desc p.descA.toNat
    let o := prodOcc a.rowElems.toNat a.fmt.toNat (q.desc p.descB.toNat).fmt.toNat + (if p.init = 2 then 32 else 0)
    ⟨o, o, some (o + 40), none, 0⟩
  | .mmab _ p =>
    let a := q.desc p.mat.descA.toNat
    let o := p.batch.toNat * prodOcc a.rowElems.toNat a.fmt.toNat (q.desc p.mat.descB.toNat).fmt.toNat
    ⟨o, o, some (o + 40), none, 0⟩
  | .mmf _ p =>
    let a := q.desc p.descA.toNat
    let b := q.desc p.descB.toNat
    let o1 := prodOcc a.rowElems.toNat a.fmt.toNat b.fmt.toNat
    let o2 := max (b.rows.toNat * (if p.pFmt = 0 then 2 else 1)) 16
    ⟨o1 + o2 + 124, o1 + o2 + 124, some (o1 + o2 + 164), some (o1 + 40, o1 + 124), 0⟩
  | .vop _ p =>
    let d := if isRowOp p.op.toNat then q.desc p.srcA.toNat else q.desc p.dst.toNat
    let wide := (vecDescs q [p.srcA, p.srcB, p.srcC, p.dst]).any fun d => d.fmt == 0x1
    let o := ceilDiv d.elems (if wide then 256 else 512)
    ⟨o, o, some (o + 12), none, 0⟩
  | .vcvt _ p =>
    let d := q.desc p.src.toNat
    let o := ceilDiv (q.desc p.dst.toNat).elems (if d.fmt = 0x1 then 256 else 512)
    ⟨o, o, some (o + 14), none, 0⟩
  | .vrow _ p =>
    let o := ceilDiv (q.desc p.src.toNat).elems 256
    ⟨o, o, some (o + 20), some (0, o + 20), 0⟩
  | .sfn _ p =>
    let n := (q.desc p.dst.toNat).elems
    if compat && sfnIsCompat p.func.toNat then
      let o := ceilDiv n 64
      ⟨o, o, some (o + 22), none, 0⟩
    else
      let o := ceilDiv n 128
      ⟨o, o, some (o + 18), none, 0⟩
  | .sfm _ p =>
    let o := p.passes.toNat * ceilDiv (q.desc p.dst.toNat).elems 128
    ⟨o, o, some (o + 18 + 6 * p.passes.toNat), none, 0⟩
  | .brb .. => ⟨3, 3, some 3, none, 0⟩
  | _ => ⟨1, 1, some 1, none, 0⟩

/-- True when the step a core runs started with `sfu_compat` (`0x2020:02`) in force (R111, R263). -/
def State.compat (s : State) (pc : Nat) : Bool := ((s.core pc).run.map CoreRun.compat).getD false

/-- The banks a core has for the running step: min(acc_banks, L) (R201). -/
def State.allocBanks (s : State) (a : Act) : Nat :=
  let need := match (s.core a.pc).run with
    | some r => (((s.imageOf r.slot).bracketE r.bracket).map BracketE.accBanks).getD 16
    | none => 16
  min need (s.logicalBanks a.pc)

/-- True when logical core `c` sits on a wide-window core (Table 8-2, R278). -/
def wideCore (c pc : Nat) : Bool := decide (c % 8 = 0) && (decide (pc % 9 = 0) || decide (pc % 9 = 8))

/-- The shape code of an instruction at issue. -/
def State.shapeAt (s : State) (a : Act) (i : Engine) : Option Nat :=
  (s.core a.pc).sq.prog.shape (s.allocBanks a) (wideCore a.c a.pc) a.loops i

/-- The matrix and vector units of the step's cores whose heads issue in the same ac of the step and fail a shape condition, in ascending
unit identifier (Table 5-5; log entry 205). -/
def State.faultsAt (s : State) (a : Act) : List ShapeFault :=
  (s.cores.map (·.1)).flatMap fun pc => [1, 2].filterMap fun u =>
    let k := s.core pc
    match k.run, k.sq.head u with
    | some r, some i =>
      let v := k.sq.unit u
      let now := (k.sq.issueAt u i).map (·.1) == some a.t
      if r.part ≠ a.p ∨ k.frozen ∨ !now then none
      else (s.shapeAt ⟨a.p, r.logical, pc, u, a.t, v.pos, v.loops⟩ i).map fun code => ⟨pc, u, v.pos, code⟩
    | _, _ => none

/-- The meaning of a matrix or vector instruction whose effect is `f`. -/
def State.arith (s : State) (a : Act) (i : Engine) (allowed : Bool) (f : State → State) : Meaning :=
  let code := s.shapeAt a i
  ⟨code, if code.isSome then s.faultsAt a else [], true, allowed, (s.core a.pc).sq.prog.timing (s.compat a.pc) i, f⟩

/-- Reads of an engine checked (R104): the state after the checks, and true when every word was usable. -/
def State.checked (s : State) (a : Act) (l : List (Nat × Fetched)) : State × Bool :=
  (s.forEach l fun s r => s.consumed a.p a.pc a.u r.1 r.2, l.all fun r => r.2.ue.isEmpty)

end Sys2Proof.Machine
end

