-- ==== Sys2Proof/Machine/Matrix.lean ====
section
/-! DEFINITION. The matrix engine: exact-block accumulation (02 R78 to R85), MMA, MMAB with window reads, MMF with its
row phase (05 R206 to R211, 06 R219 to R235, 08 R274 to R281). -/

namespace Sys2Proof.Machine

/-! ### Exact-block accumulation -/

/-- The exact sum of a K-group's products (R78, R82, R83). -/
def groupExact (ps : List FVal) : FVal :=
  let t := ps.foldl FVal.add (.fin false 0 0)
  if t.isZero then .fin false 0 0 else t

/-- The largest floor(log2) over the nonzero products of a group. -/
def groupEmax (ps : List FVal) : Option Int :=
  ps.foldl (fun e p => if p.isZero then e else match e with
    | none => some p.exponent
    | some x => some (max x p.exponent)) none

/-- The group sum when an operand is BF16: products truncated toward zero to a multiple of 2^(e_max - 48) (R80). -/
def groupBf16 (ps : List FVal) : FVal :=
  let finite := ps.all fun p => match p with | .fin _ _ _ => true | _ => false
  match finite, groupEmax ps with
  | true, some e => groupExact (ps.map fun (p : FVal) => p.truncTo (e - 48))
  | _, _ => groupExact ps

/-- The group result: the sum rounded once to FP32 (R78, R85), or times u and rounded once (R79). R79 states no product of a zero
sum and a u that overflowed to infinity, or of an infinite sum and a u that underflowed to 0: a free value (log entry 187). -/
def groupResult (bf : Bool) (u : Option FVal) (ps : List FVal) : Nat :=
  let t := if bf then groupBf16 ps else groupExact ps
  match u with
  | none => toF32 t
  | some u =>
    let v := t.mul u
    if v.isNan && !t.isNan && !u.isNan then (Config.noProduct (toF32 t) (toF32 u)).toNat else toF32 v

/-- The scale of a group of a two-level product (R79): the product of the tile scales rounded to FP32, or the one
that is there. -/
def groupScale (ta tb : List Nat) (g : Nat) : Option FVal :=
  let v := fun l : List Nat => tileScaleVal (l.getD g 0)
  match ta.isEmpty, tb.isEmpty with
  | true, true => none
  | false, true => some (v ta)
  | true, false => some (v tb)
  | false, false => some (f32 (toF32 ((v ta).mul (v tb))))

/-- The INT8 result: the exact sum of the products added to the accumulator modulo 2^32 (R81). -/
def cellInt (a b : List Nat) (c : Nat) : Nat :=
  wrapInt 32 (signed 32 c + ((a.zip b).map fun p => signed 8 p.1 * signed 8 p.2).sum)

/-- One element of a product: group results added in ascending g from the initial value (R84). -/
def cellFloat (bf : Bool) (ta tb : List Nat) (a b : List FVal) (c : Nat) : Nat :=
  ((chunksOf 64 (a.length / 64 + 1) (a.zip b)).zipIdx).foldl (fun c x =>
    f32add c (groupResult bf (groupScale ta tb x.2) (x.1.map fun (p : FVal × FVal) => p.1.mul p.2))) c

/-- The values of row `r` of an operand with its block scales. -/
def Tile.rowVals (t : Tile) (r : Nat) : List FVal := (List.range (t.rows.getD r []).length).map fun k => t.val r k

/-- The product of two tiles added to initial values `init r c` (R78 to R85). -/
def product (a b : Tile) (init : Nat → Nat → Nat) : List (List Nat) :=
  let bf := a.fmt == 0x2 || b.fmt == 0x2
  (List.range a.rows.length).map fun r =>
    (List.range b.rows.length).map fun c =>
      if a.fmt = 0xB then cellInt (a.rows.getD r []) (b.rows.getD c []) (init r c)
      else cellFloat bf a.tscales b.tscales (a.rowVals r) (b.rowVals c) (init r c)

/-! ### MMA and MMAB -/

/-- How an init field resolves at an issue (Table 4-4): 0 from +0, 1 from the bank, 2 from C. -/
def resolveInit (init : Nat) (loops : List Frame) : Nat :=
  if init = 3 then (if innerIndex loops = 0 then 0 else 1) else init

/-- The checked reads of `m` accumulator rows of `n` values. -/
def State.accReads (s : State) (pc bank row m n : Nat) : List (Nat × Fetched) :=
  (List.range m).map fun r => (2, (s.core pc).acc.fetch (accAddr bank (row + r) 0) (4 * n))

/-- Rows of values written to the accumulator from a row on. -/
def State.writeAccRows (s : State) (pc bank row : Nat) (rows : List (List Nat)) : State :=
  s.forEach rows.zipIdx fun s x => s.setAccRow pc bank (row + x.2) x.1

/-- The words of the A tiles of problems before `j`: a window read fetches each byte of its A span once (R274 to R276). -/
def State.fetchedA (s : State) (a : Act) (p : MmaFields) (j : Nat) : List Nat :=
  let d := (s.core a.pc).sq.prog.desc p.descA.toNat
  if d.batchStride.toNat * 32 < d.bytes then
    (List.range j).flatMap fun i => wordsOf (d.loc a.loops i).local0 d.bytes
  else []

/-- The reads of a tile without the words of local space `sp` that have been fetched before. -/
def newReads (sp : Nat) (old : List Nat) (l : List (Nat × Fetched)) : List (Nat × Fetched) :=
  if old.isEmpty then l
  else l.map fun r => if r.1 = sp then
    (r.1, ⟨r.2.bytes, r.2.ce.filter fun w => !old.contains w, r.2.ue.filter fun w => !old.contains w⟩) else r

/-- One problem of a matrix instruction (R168, R206), `init` resolved; false when a word read was unusable. -/
def State.matProblem (s : State) (a : Act) (p : MmaFields) (j row init : Nat) : State × Bool :=
  let q := (s.core a.pc).sq.prog
  let ta := s.readTile a.pc (q.desc p.descA.toNat) a.loops j
  let tb := s.readTile a.pc (q.desc p.descB.toNat) a.loops j
  let tc := s.readTile a.pc (q.desc p.descC.toNat) a.loops j
  let bank := p.accBank.toNat
  let m := ta.rows.length
  let n := tb.rows.length
  let accs := if init = 1 then s.accReads a.pc bank row m n else []
  let ras := newReads (q.desc p.descA.toNat).localSpace.toNat (s.fetchedA a p j) ta.reads
  let (s1, ok) := s.checked a (ras ++ tb.reads ++ (if init = 2 then tc.reads else []) ++ accs)
  if !ok then (s1, false)
  else
    let start := fun r c => match init with
      | 1 => (s.accRow a.pc bank (row + r) n).getD c 0
      | 2 => (tc.rows.getD r []).getD c 0
      | _ => 0
    (s1.writeAccRows a.pc bank row (product ta tb start), true)

/-- The problems of a matrix instruction in ascending j (R206): init applies to each problem's rows, or to problem 0
alone when they share rows. -/
def State.matProblems (s : State) (a : Act) (p : MmaFields) (b stride : Nat) : State :=
  let init := resolveInit p.init.toNat a.loops
  ((List.range b).foldl (fun (x : State × Bool) j =>
    if x.2 then x.1.matProblem a p j (j * stride) (if stride = 0 ∧ 0 < j then 1 else init) else x) (s, true)).1

/-- MMA: an M by K by K by N product into an accumulator bank (R167). -/
def execMma (c : CoreId) (h : Header) (f : MmaFields) (s : State) : Host.Outcome State Fault Refusal :=
  .next (s.issue c.toNat 1 (.mma h f) fun s a => s.arith a (.mma h f) true fun s => s.matProblems a f 1 0)

/-- MMAB: b problems, window reads among them (R168, R274). -/
def execMmab (c : CoreId) (h : Header) (f : MmabFields) (s : State) : Host.Outcome State Fault Refusal :=
  .next (s.issue c.toNat 1 (.mmab h f) fun s a => s.arith a (.mmab h f) true fun s =>
    s.matProblems a f.mat f.batch.toNat f.accStride.toNat)

/-! ### The row function -/

/-- Position record `i` of a tile of records (Table 6-6a). -/
def record (t : List (Nat × Fetched)) (i : Nat) : Nat := leNat ((((t.map (·.2))[i]?).map (·.bytes)).getD [])

/-- The mask of Table 6-6 for the records of a query row and a key column. -/
def maskedBy (mode q k : Nat) : Bool :=
  let seg := fun x => x / 2 ^ 48
  let one := seg q == 0xFFFF || seg k == 0xFFFF || seg q != seg k
  match mode with
  | 1 => one
  | 2 => one || decide (q / 2 ^ 32 % 2 ^ 16 < k / 2 ^ 32 % 2 ^ 16)
  | 3 => one || decide (q % 2 ^ 48 < k % 2 ^ 48)
  | _ => false

/-- The scores of a row after scaling, masking and clamping, and its masked positions (R223). -/
def rowScores (r : RowDesc) (masked : Nat → Bool) (xs : List Nat) : List (Nat × Bool) :=
  xs.zipIdx.map fun x =>
    let v := if r.scale = 1 then f32mul x.1 r.scaleValue.toNat else x.1
    if r.mask = 1 && masked x.2 then (f32sentinel, true)
    else (if (f32 v).lt (f32 f32sentinel) then f32sentinel else v, false)

/-- What the row phase gives for one row (R223). -/
structure RowPhase where
  scores : List Nat
  weights : List Nat
  /-- The rescale factor; none when neither O nor l was rescaled. -/
  alpha : Option Nat
  m : Nat
  l : Nat
  allMasked : Bool
deriving DecidableEq, Repr

/-- The online-softmax row phase of one row from the running state (m, l) (R223 to R227). -/
def softmaxRow (b : Bank) (r : RowDesc) (masked : Nat → Bool) (m l : Nat) (xs : List Nat) : RowPhase :=
  let sc := rowScores r masked xs
  let bm := match sc with
    | [] => f32sentinel
    | x :: t => t.foldl (fun a y => f32max a y.1) x.1
  let mNew := f32max m bm
  let rise := (f32 m).lt (f32 mNew) || (f32 mNew).isNan
  let alpha := if rise then some (sfnExp2 b (f32mul (f32sub m mNew) f32l2e)) else none
  let l1 := match alpha with | some x => f32mul l x | none => l
  let ps := sc.map fun x => if x.2 then f32zero else sfnExp2 b (f32mul (f32sub x.1 mNew) f32l2e)
  ⟨sc.map (·.1), ps, alpha, mNew, f32add l1 (ps.foldl f32add f32zero), sc.all (·.2)⟩

/-- The bank entries that the row phase of a softmax row reads, from the running maximum `m` before it (R223). -/
def RowPhase.hits (x : RowPhase) (m : Nat) : List Nat :=
  (if x.alpha.isSome then sfnHits 0x01 (f32mul (f32sub m x.m) f32l2e) else []) ++
    x.scores.flatMap fun v => sfnHits 0x01 (f32mul (f32sub v x.m) f32l2e)

/-- Reads of bank entries by a unit of a core, checked word by word (R270, R617, fence cause 2). False when a word was unusable. -/
def State.bankReads (s : State) (a : Act) (b : Bank) (hits : List Nat) : State × Bool :=
  s.storeRead a.p a.pc a.u b.errs (hits.flatMap fun e => [2 * e, 2 * e + 1])

/-- A row without the softmax stage: its scores pass on as they are (Table 4-10). -/
def plainRow (r : RowDesc) (masked : Nat → Bool) (m l : Nat) (xs : List Nat) : RowPhase :=
  let sc := rowScores r masked xs
  ⟨sc.map (·.1), sc.map (·.1), none, m, l, sc.all (·.2)⟩

/-- The records a row-function descriptor reads, query side then key side; none when its mask reads none. -/
def State.maskReads (s : State) (a : Act) (r : RowDesc) : List (Nat × Fetched) × List (Nat × Fetched) :=
  if r.mask = 1 ∧ 1 ≤ r.maskMode.toNat ∧ r.maskMode.toNat ≤ 3 then
    let q := (s.core a.pc).sq.prog
    let rd := fun i : BitVec 12 =>
      let d := q.desc i.toNat
      let ram := s.localRam a.pc d.localSpace.toNat
      (List.range d.rows.toNat).map fun k =>
        (d.localSpace.toNat, ram.fetch ((d.loc a.loops 0).local0 + k * d.rowBytes) d.rowBytes)
    (rd r.qSegDesc, rd r.kSegDesc)
  else ([], [])

/-- The mask of row `i` from the records read. -/
def maskOf (r : RowDesc) (qs ks : List (Nat × Fetched)) (i j : Nat) : Bool :=
  maskedBy r.maskMode.toNat (record qs i) (record ks j)

/-- Columns 0, 1 and 3 of stat_bank after a block update (Table 6-2). -/
def State.writeStat (s : State) (pc bank : Nat) (rows : List RowPhase) (noRescale : Bool) : State :=
  s.forEach rows.zipIdx fun s x =>
    let at0 := accAddr bank x.2 0
    let al := if noRescale then f32one else x.1.alpha.getD f32one
    (s.writeLocal pc 2 at0 (leBytes 4 x.1.m ++ leBytes 4 x.1.l)).writeLocal pc 2 (at0 + 12) (leBytes 4 al)

/-- The row-status vector written at status_desc (R230). -/
def State.writeStatus (s : State) (a : Act) (r : RowDesc) (set : List Bool) : State :=
  if r.status = 1 then
    let d := (s.core a.pc).sq.prog.desc r.statusDesc.toNat
    let n := (set.zipIdx.map fun x => if x.1 then 2 ^ x.2 else 0).sum
    s.writeLocal a.pc d.localSpace.toNat (d.loc a.loops 0).local0 (leBytes 16 n)
  else s

/-- The tile the second product takes as its left operand: the weights converted to p_fmt (R89). -/
def weightTile (fmt : Nat) (sat : Bool) (rows : List RowPhase) : Tile :=
  ⟨fmt, rows.map fun r => r.weights.map fun w => elemEnc fmt sat (f32 w), [], [], []⟩

/-- The effect of MMF (R208, R219 to R223). -/
def State.mmfEffect (s : State) (a : Act) (f : MmfFields) : State :=
  let k := s.core a.pc
  let q := k.sq.prog
  let r := q.rowDesc f.descRow.toNat
  let ta := s.readTile a.pc (q.desc f.descA.toNat) a.loops 0
  let tb := s.readTile a.pc (q.desc f.descB.toNat) a.loops 0
  let td := s.readTile a.pc (q.desc f.descD.toNat) a.loops 0
  let m := ta.rows.length
  let n2 := td.rows.length
  let fresh := decide (resolveInit f.init.toNat a.loops = 0)
  let soft := r.softmax == 1
  let (qs, ks) := s.maskReads a r
  let sb := r.statBank.toNat
  let ob := f.bankOut.toNat
  let accs := if fresh then [] else s.accReads a.pc ob 0 m n2 ++ (if soft then s.accReads a.pc sb 0 m 2 else [])
  let (s1, ok) := s.checked a (ta.reads ++ tb.reads ++ td.reads ++ qs ++ ks ++ accs)
  if !ok then s1
  else
    let rows := (product ta tb fun _ _ => 0).zipIdx.map fun x =>
      let masked := maskOf r qs ks x.2
      let st := s.accRow a.pc sb x.2 2
      if soft then
        softmaxRow k.bankActive r masked (if fresh then f32sentinel else st.getD 0 0)
          (if fresh then f32zero else st.getD 1 0) x.1
      else plainRow r masked 0 0 x.1
    let o := fun i c =>
      if fresh then f32zero
      else
        let v := (s.accRow a.pc ob i n2).getD c 0
        match (rows[i]?).bind RowPhase.alpha with
        | some al => f32mul v al
        | none => v
    let hits := if soft then rows.zipIdx.flatMap fun x =>
        x.1.hits (if fresh then f32sentinel else (s.accRow a.pc sb x.2 2).getD 0 0) else []
    let (s1, ok) := s1.bankReads a k.bankActive hits
    if !ok then s1 else
    let w := weightTile (pFmtCode f.pFmt.toNat) (f.sat == 1) rows
    let s2 := s1.writeAccRows a.pc f.bankP.toNat 0 (rows.map (·.scores))
    let s3 := s2.writeAccRows a.pc ob 0 (product w td o)
    let s4 := if soft then s3.writeStat a.pc sb rows fresh else s3
    s4.writeStatus a r (rows.map (·.allMasked))

/-- MMF: first product, row function, conversion, second product (R208). -/
def execMmf (c : CoreId) (h : Header) (f : MmfFields) (s : State) : Host.Outcome State Fault Refusal :=
  .next (s.issue c.toNat 1 (.mmf h f) fun s a => s.arith a (.mmf h f) true fun s => s.mmfEffect a f)

end Sys2Proof.Machine
end

