-- ==== Sys2Proof/Machine/CollOps.lean ====
section
/-! DEFINITION. Collective instances: their shape (11 R369, R377, R380), the tree of R94 over ranks (R381), slots
(R395, R398), finding and changing them. -/

namespace Sys2Proof.Machine

/-- The key of an instance in step and flight records. -/
def instKey (group seq : Nat) : Nat := group * 65536 + seq

/-- The instance of a group and sequence number. -/
def State.inst (s : State) (group seq : Nat) : Option Inst :=
  s.coll.insts.find? fun i => i.group == group && i.seq == seq

/-- A function applied to one instance. -/
def State.modInst (s : State) (group seq : Nat) (f : Inst → Inst) : State :=
  { s with coll := { s.coll with insts := s.coll.insts.map fun i => if i.group = group ∧ i.seq = seq then f i else i } }

/-- This module's identifier (`0x6100:01`). -/
def State.moduleId (s : State) : Nat := s.num 0x6100 1

/-- Ranks of an entry held by this module, in order. -/
def State.heldRanks (s : State) (e : CollE) : List Nat :=
  (e.ranks.zipIdx.filter fun r => r.1 == s.moduleId).map (·.2)

/-- True for the operations that add. -/
def CollE.adds (e : CollE) : Bool := decide (e.operation < 2)

/-- The chunk size (R377). -/
def CollE.chunk (e : CollE) : Nat := if e.chunkBytes = 0 then 65536 else e.chunkBytes

/-- Blocks of a reduce-scatter or all-to-all (R369): offset and length of block `j`. -/
def CollE.block (e : CollE) (j : Nat) : Nat × Nat :=
  let g := e.length / 256
  let n := max e.ranks.length 1
  let big := min j (g % n)
  ((j * (g / n) + big) * 256, (g / n + if j < g % n then 1 else 0) * 256)

/-- The runs that chunks are cut from (R377): offset and length within a contribution. -/
def CollE.runs (e : CollE) : List (Nat × Nat) :=
  if e.operation = 1 ∨ e.operation = 4 then (List.range e.ranks.length).map e.block else [(0, e.length)]

/-- The chunks of an instance: run number, offset in the contribution, length. -/
def CollE.chunks (e : CollE) : List (Nat × Nat × Nat) :=
  e.runs.zipIdx.flatMap fun r =>
    (List.range (ceilDiv r.1.2 e.chunk)).map fun k =>
      (r.2, r.1.1 + k * e.chunk, min e.chunk (r.1.2 - k * e.chunk))

/-- Chunk `c`: run, offset, length. -/
def CollE.chunkAt (e : CollE) (c : Nat) : Nat × Nat × Nat := e.chunks.getD c (0, 0, 0)

/-- True when rank `r` contributes data (Table 11-1). -/
def CollE.contributes (e : CollE) (r : Nat) : Bool :=
  match e.operation with
  | 3 | 5 => r == 0
  | 6 => false
  | _ => true

/-- Bytes this module contributes in all. -/
def State.inputBytes (s : State) (e : CollE) : Nat :=
  ((s.heldRanks e).filter e.contributes).length * e.length

/-- Bytes of the result area (Table 11-1). -/
def State.resultBytes (s : State) (e : CollE) : Nat :=
  match e.operation with
  | 2 => e.ranks.length * e.length
  | 4 => (s.heldRanks e).length * e.length
  | 5 => 0
  | _ => e.length

/-- The offset in the input area of held rank `r`'s contribution (R370). -/
def State.inputOffset (s : State) (e : CollE) (r : Nat) : Nat :=
  (((s.heldRanks e).filter e.contributes).filter (· < r)).length * e.length

/-! ### The tree (R94, R381) -/

/-- The smallest power of two at or above `n`. -/
def pow2Above (n : Nat) : Nat := if n ≤ 1 then 1 else 2 ^ (Nat.log2 (n - 1) + 1)

/-- The parent of node [a, a + k) in the tree over `n` leaves; none for the root. -/
def parentNode (n : Nat) : Nat → Nat → Nat → Option (Nat × Nat)
  | 0, _, _ => none
  | fuel + 1, a, size =>
    if a = 0 ∧ n ≤ size then none
    else
      let a' := a - a % (2 * size)
      let sibling := if a % (2 * size) = 0 then a + size else a'
      if sibling < n then some (a', min (2 * size) (n - a'))
      else parentNode n fuel a (2 * size)

/-- The parent of a node of `span` leaves from `first`. -/
def treeParent (n first span : Nat) : Option (Nat × Nat) := parentNode n 18 first (pow2Above span)

/-- The children of a node of at least two leaves. -/
def treeChildren (first span : Nat) : (Nat × Nat) × (Nat × Nat) :=
  let h := pow2Above span / 2
  ((first, h), (first + h, span - h))

/-- The rank whose module computes a node for chunk `c` (R381). -/
def nodeRank (first span c : Nat) : Nat := first + c % max span 1

/-- The module that holds a rank. -/
def CollE.module (e : CollE) (r : Nat) : Nat := e.ranks.getD r 0

/-- The local node of this module: its held ranks, when the operation adds (R380, R381). -/
def State.localNode (s : State) (e : CollE) : Option (Nat × Nat) :=
  match s.heldRanks e with
  | [] => none
  | r :: t => some (r, t.length + 1)

/-! ### Slots and outstanding instances (R395 to R398) -/

/-- An instance is outstanding until every chunk is Fixed or it is aborted (R397). -/
def Inst.done (i : Inst) : Bool :=
  i.abort.isSome || (List.range i.entry.chunks.length).all fun c =>
    decide ((tabGet ChunkSt.new i.chunks c).phase = .fixed)

/-- Every chunk is Fixed, or Provisional for a speculative step (R391). -/
def Inst.usable (i : Inst) : Bool :=
  i.abort.isSome || (i.started && (List.range i.entry.chunks.length).all fun c =>
    let p := (tabGet ChunkSt.new i.chunks c).phase
    decide (p = .fixed) || (i.speculative && decide (p = .provisional)))

/-- Order of instances of a partition: by epoch as a serial number, then by key (R397). -/
def instBefore (e1 k1 e2 k2 : Nat) : Bool := serialAhead 16 e2 e1 || (e1 == e2 && decide (k1 < k2))

/-- The outstanding instances of a partition. -/
def State.outstanding (s : State) (p : Nat) : List Inst := s.coll.insts.filter fun i => i.part == p && !i.done

/-- The slot an instance of partition `p` with this order can take (R398): 2 the pool, 1 the escape slot, 0 none. -/
def State.slotFor (s : State) (p epoch key : Nat) : Nat :=
  let held := s.coll.insts.filter fun i => !i.done
  let mine := held.filter fun i => i.part == p
  let pool := (held.filter fun i => i.slot == 2).length
  if (mine.filter fun i => i.slot == 2).length < s.num (0x6110 + p) 1 ∧ pool < 48 then 2
  else if mine.all (fun i => !instBefore i.epoch i.key epoch key) && mine.all (fun i => i.slot != 1) then 1
  else 0

/-- The sequence number the next instance of a group takes (R374). -/
def State.nextSeq (s : State) (p group : Nat) : Nat := tabGet 0 (s.part p).groupSeq group

/-- True for an instance that a number of partition `p`'s group no longer names: done, and of another partition, or of the
counter's last round, which the counter is no longer ahead of (R375). -/
def State.outlived (s : State) (p : Nat) (i : Inst) : Bool :=
  i.done && (i.part != p || (i.started && !serialAhead 16 (s.nextSeq p i.group) i.seq))

/-- An old instance gives its number up to the one of partition `p` that has it now (R374, R375). -/
def State.forgetOld (s : State) (p group seq : Nat) : State :=
  if s.coll.insts.any (fun i => i.group == group && i.seq == seq && s.outlived p i) then
    { s with coll := { s.coll with
      insts := s.coll.insts.filter fun i => !(i.group == group && i.seq == seq)
      heard := s.coll.heard.filter fun h => !(h.group == group && h.seq == seq) } }
  else s

/-- How the fields of a message disagree with an entry of order key `key` (R376); 0 when they do not. -/
def CollE.differs (e : CollE) (key : Nat) (m : CollMsg) : Nat :=
  let pair := fun (o : Nat) => if o = 6 then 5 else o
  if m.rankCount.toNat ≠ e.ranks.length ∨ pair m.operation.toNat ≠ pair e.operation ∨ m.dataFmt.toNat ≠ e.dataFmt ∨
      m.length.toNat ≠ e.length ∨ m.chunkBytes.toNat ≠ e.chunkBytes then 0x0603
  else if m.orderKey.toNat ≠ key then 0x0605
  else 0

/-- How the fields of a message disagree with the local entry of an instance (R376); 0 when they do not. -/
def disagreement (i : Inst) (m : CollMsg) : Nat := i.entry.differs i.key m

/-- The lowest outstanding instance of a partition (R397). -/
def State.lowest (s : State) (p : Nat) : Option Inst :=
  (s.outstanding p).foldl (fun b i => match b with
    | none => some i
    | some j => if instBefore i.epoch i.key j.epoch j.key then some i else some j) none

end Sys2Proof.Machine
end

