-- ==== Sys2Proof/Machine/Sha.lean ====
section
/-! DEFINITION. SHA-256, which the manual names for digests (04 Table 4-12, 12 R419, 18 R569). -/

namespace Sys2Proof.Machine

/-- The primes below `n`. -/
def primesBelow (n : Nat) : List Nat :=
  (List.range n).filter fun p => decide (2 ≤ p) && (List.range p).all fun d => decide (d < 2) || p % d != 0

/-- `r` with its low `b` bits chosen, highest first, so that its `e`-th power is at most `x` and as large as can be. -/
def rootFrom (e x : Nat) : Nat → Nat → Nat
  | 0, r => r
  | b + 1, r =>
    let up := r + 2 ^ b
    rootFrom e x b (if up ^ e ≤ x then up else r)

/-- The first 32 bits of the fraction of the `e`-th root of `p`, which is how SHA-256 defines its constants. -/
def rootFraction (e p : Nat) : Nat := rootFrom e (p * 2 ^ (32 * e)) 40 0 % 2 ^ 32

/-- The constants of the 64 rounds: cube roots of the first 64 primes. -/
def shaConsts : List Nat := (primesBelow 312).map (rootFraction 3)

/-- The value a digest starts from: square roots of the first eight primes. -/
def shaInit : List Nat := (primesBelow 20).map (rootFraction 2)

/-- Rotation right of a 32-bit word. -/
def rotr (x n : Nat) : Nat := x >>> n ||| x <<< (32 - n) % 2 ^ 32

def shaS0 (x : Nat) : Nat := rotr x 2 ^^^ rotr x 13 ^^^ rotr x 22
def shaS1 (x : Nat) : Nat := rotr x 6 ^^^ rotr x 11 ^^^ rotr x 25
def shaG0 (x : Nat) : Nat := rotr x 7 ^^^ rotr x 18 ^^^ x >>> 3
def shaG1 (x : Nat) : Nat := rotr x 17 ^^^ rotr x 19 ^^^ x >>> 10

/-- The big-endian number of a list of bytes. -/
def beNat (l : List Byte) : Nat := l.foldl (fun a b => a * 256 + b.toNat) 0

/-- The `k` big-endian bytes of a number. -/
def beBytes (k n : Nat) : List Byte := (leBytes k n).reverse

/-- The padded message in blocks of 64 bytes. -/
def shaBlocks (m : List Byte) : List (List Byte) :=
  let z := (64 - (m.length + 9) % 64) % 64
  let p := m ++ [0x80] ++ List.replicate z 0 ++ beBytes 8 (8 * m.length)
  chunksOf 64 (p.length / 64) p

/-- The message schedule, newest word first: `n` more words after those of `w`. -/
def shaSchedule : Nat → List Nat → List Nat
  | 0, w => w
  | n + 1, w =>
    let g := fun k => w.getD k 0
    shaSchedule n ((shaG1 (g 1) + g 6 + shaG0 (g 14) + g 15) % 2 ^ 32 :: w)

/-- One round. -/
def shaRound (s : List Nat) (kw : Nat) : List Nat :=
  match s with
  | [a, b, c, d, e, f, g, h] =>
    let t1 := h + shaS1 e + (e &&& f ^^^ (2 ^ 32 - 1 - e) &&& g) + kw
    let t2 := shaS0 a + (a &&& b ^^^ a &&& c ^^^ b &&& c)
    [(t1 + t2) % 2 ^ 32, a, b, c, (d + t1) % 2 ^ 32, e, f, g]
  | s => s

/-- One block. -/
def shaBlock (s : List Nat) (b : List Byte) : List Nat :=
  let w := (shaSchedule 48 ((chunksOf 4 16 b).map beNat).reverse).reverse
  let r := ((shaConsts.zip w).map fun x => x.1 + x.2).foldl shaRound s
  (s.zip r).map fun x => (x.1 + x.2) % 2 ^ 32

/-- The 32-byte digest of a message. -/
def sha256 (m : List Byte) : List Byte := ((shaBlocks m).foldl shaBlock shaInit).flatMap (beBytes 4)

end Sys2Proof.Machine
end

