-- ==== Sys2Proof/Machine/Placement.lean ====
section
/-! DEFINITION. Placement after core failures (01 Table 1-8, 20 R620, R621), clock and regulator classes (09 R309 to
R313, 00), the envelope asked for (13 R436). -/

namespace Sys2Proof.Machine

/-- The fenced physical cores of a cluster, by number in the cluster. -/
def State.fencedIn (s : State) (k : Nat) : List Nat :=
  (List.range 9).filter fun i => (s.num (0x9150 + k / 4) 1).testBit (k % 4 * 9 + i)

/-- The map entry of a list of physical cores for logical cores 0 to 7; 0xF for none (Table 1-9). -/
def mapEntry (pcs : List Nat) : Nat :=
  (List.range 8).foldl (fun a n => a + pcs.getD n 0xF * 2 ^ (4 * n)) 0

/-- The placement of a cluster by its fenced cores (Table 1-8). -/
def placement (fenced : List Nat) : Nat :=
  match fenced with
  | [] => mapEntry (List.range 8)
  | [f] => mapEntry ((List.range 8).map fun n => if n = f then 8 else n)
  | [_, _] =>
    let work := (List.range 9).filter fun i => !fenced.contains i
    let first := if work.contains 0 then 0 else if work.contains 8 then 8 else work.headD 0
    mapEntry (first :: work.filter (· != first))
  | _ => mapEntry []

/-- The placement of a cluster from the next step boundary on. -/
def State.placementOf (s : State) (k : Nat) : Nat :=
  if s.clusterFenced k then mapEntry [] else placement (s.fencedIn k)

/-- The physical core that carries logical core `c` from the next step boundary on. -/
def State.physNext (s : State) (c : Nat) : Option Nat :=
  let pc := s.placementOf (clusterOf c) >>> (4 * (c % 8)) % 16
  if pc = 0xF then none else some (clusterOf c * 9 + pc)

/-! ### Classes (R309 to R313) -/

/-- The class floor of an envelope (R310). -/
def classFloor (e : Nat) : Nat := match e with | 3 => 0 | 2 => 1 | _ => 2

/-- The class in force of stack `k`; 4 is the emergency class (R310, R313). -/
def State.stackClass (s : State) (k : Nat) : Nat :=
  let st := s.stack k
  if st.emergency then 4 else max st.thermal (classFloor (s.num 0x2010 3))

/-- f_c in percent (Table 9-7). -/
def classShare (c : Nat) : Nat := match c with | 0 => 100 | 1 => 85 | 2 => 70 | 3 => 55 | _ => 40

/-- s_c in hundredths (Table 9-7). -/
def classStretch (c : Nat) : Nat := match c with | 0 => 100 | 1 => 118 | 2 => 143 | 3 => 182 | _ => 250

/-- `stack_class` brought up to date after a change of stack `k`'s class in force, with its throttle event
(Table 20-2, kind 0x13). -/
def State.noteClass (s : State) (k : Nat) : State :=
  let new := s.stackClass k
  if s.num 0x5320 (sub1 k) = new then s
  else
    let th := if new = 4 then 4 else (s.stack k).thermal
    (s.setNum 0x5320 (sub1 k) new).raise (.of 0x13 (dieUnit (mDie k)) (k + new * 256 + th * 65536))

/-! ### The envelope -/

/-- The entries of an overlay slot: object, subindex, value (Table 16-11). -/
def State.overlayEntries (s : State) (slot : Nat) : List (Nat × Nat × Nat) :=
  let b := s.blob (0x3000 + slot) 3
  (chunksOf 16 (b.length / 16) b).map fun e => (leAt e 0 2, leAt e 2 1, leAt e 8 8)

/-- True for the per-partition families of R529. -/
def perPartition (o : Nat) : Bool := [0x4100, 0x5200, 0x6110, 0x6300, 0x8000, 0x8100, 0x8400].contains o

/-- The value that the applied and pending overlays give an object for partition `p` (R533). -/
def State.overlaid (s : State) (p o sub : Nat) : Option Nat :=
  (List.range 16).findSome? fun slot =>
    let st := s.num (0x3000 + slot) 4
    if (st = 1 ∨ st = 2) ∧ (s.num (0x3000 + slot) 2).testBit p then
      ((s.overlayEntries slot).find? fun e =>
        (if perPartition e.1 then e.1 + p else e.1) == o && e.2.1 == sub).map (·.2.2)
    else none

/-- The envelope asked for: what the applied and pending overlays give, or the value written. -/
def State.envWanted (s : State) : Nat :=
  ((List.range 16).findSome? fun p => s.overlaid p 0x2010 1).getD (s.num 0x2010 1)

/-- The clock admission computes with (R436), in kHz: a lower clock from the write on. -/
def State.admClock (s : State) : Nat := min s.clock (envelopeClock s.envWanted)

/-- The enabled partitions. -/
def State.enabledParts (s : State) : List Nat := (List.range 16).filter fun p => s.num (0x2100 + p) 3 != 0

/-- The envelope asked for comes into force when every step accepted under a higher clock has completed (R436), or at
once for a raise (R50); the class floors follow (R310). A lower one waits for the boundary of no partition in particular (DESIGN
CHOICE: log entry 222). -/
def State.settleEnvelope (s : State) : State :=
  let w := s.envWanted
  let f := envelopeClock w
  if w = s.num 0x2010 3 then s
  else if (List.range 16).any fun p => (s.part p).steps.any fun x => decide (f < x.clock) then s
  else (s.setNum 0x2010 3 w).forEach (List.range 24) fun t k => t.noteClass k

/-! ### The coolant (21_module_electrical_thermal.md R649, R650) -/

/-- The inlet limit and the least flow of Table 21-9 in force. -/
def State.coolantLimits (s : State) : FVal × FVal :=
  let wide := s.effDev 0x2012 1 == 1
  let flow := match s.num 0x2010 3, wide with
    | 3, false => fInt 8 | 2, false => fInt 6 | _, false => fInt 4
    | 3, true => fInt 10 | 2, true => FVal.fin false 15 (-1) | _, true => fInt 5
  (if wide then fInt 50 else fInt 40, flow)

/-- The marks of Table 21-10 for the inlet temperature and flow last measured. -/
def State.markCoolant (s : State) : State :=
  let (most, least) := s.coolantLimits
  (s.setNum 0x8E10 7 (if most.lt (f32 (s.num 0x8E10 4)) then 1 else 0)).setNum 0x8E10 8
    (if (f32 (s.num 0x8E10 5)).lt least then 1 else 0)

/-- The marks follow a change of the limits in force since `before` (Table 21-11). -/
def State.coolantFollows (s before : State) : State :=
  if s.coolantLimits = before.coolantLimits then s else s.markCoolant

end Sys2Proof.Machine
end

