-- ==== Sys2Proof/Machine/Streams.lean ====
section
/-! DEFINITION. Streams of a program enumerated without running them: every instruction instance with the loops around
it (R162, R163), the regions and targets its transfers reach (R173, R185), the tier pages and the export bytes of a
bracket (R325, R332), the charges of an image's reservations on the stacks (R301). -/

namespace Sys2Proof.Machine

/-- The decoded instructions of unit `u` of a program, up to a word that does not decode. -/
def Program.stream (q : Program) (u : Nat) : List Engine := (q.streams.getD u []).filterMap decodeEngine

/-- The iterations of a LOOP and the length of its body. -/
def loopOf : Engine → Option (Nat × Nat)
  | .loop _ n b => some (n.toNat, b.toNat)
  | _ => none

/-- The number of instances of a stream: each instruction counted once per pass of the loops around it. -/
def dynLength (is : List Engine) : Nat :=
  let loops := (is.zipIdx.filterMap fun e => (loopOf e.1).map fun l => (e.2, l.1, l.2))
  ((List.range is.length).map fun k =>
    loops.foldl (fun m l => if l.1 < k ∧ k ≤ l.1 + l.2.2 then m * l.2.1 else m) 1).sum

/-- An instance of an instruction: its stream index and the loops around it. -/
structure Occur where
  instr : Engine
  idx : Nat
  loops : List Frame
deriving DecidableEq, Repr

/-- The instances of a stream from a position on, `fuel` of them at most. -/
def walkFrom (is : List Engine) : Nat → Nat → List Frame → List Occur
  | 0, _, _ => []
  | fuel + 1, pos, fs =>
    match is[pos]? with
    | none => []
    | some i =>
      match i with
      | .loop _ n b => ⟨i, pos, fs⟩ :: walkFrom is fuel (pos + 1) (fs ++ [⟨pos + 1, b.toNat, n.toNat, 0⟩])
      | _ =>
        let (p, g) := afterInstr 5 (pos + 1) fs
        ⟨i, pos, fs⟩ :: walkFrom is fuel p g

/-- Every instance of unit `u`'s stream, in order. -/
def Program.occurs (q : Program) (u : Nat) : List Occur :=
  let is := q.stream u
  walkFrom is (dynLength is) 0 []

/-- The memory-side descriptor of a transfer, and true for a write. -/
def transferDesc (u : Nat) : Engine → Option (BitVec 12 × Bool)
  | .ld _ d => some (d, false)
  | .ldp _ f => some (f.descList, false)
  | .halo _ f => some (f.descRemote, u == 4)
  | .st _ f => some (f.desc, true)
  | _ => none

/-- The programs of a bracket. -/
def Image.progsOf (i : Image) (b : Nat) : List CoreProg := i.programs.filter fun c => c.program.bracket == b

/-- The program of a logical core in a bracket. -/
def Image.program (i : Image) (b c : Nat) : Program :=
  ((i.progsOf b).find? fun p => p.core == c).elim .empty CoreProg.program

/-- The target class of a transfer of logical core `c` with region `g` (Table 4-18): none for a local one. -/
def targetOf (c : Nat) (e : Engine) (g : RegionE) : Option Nat :=
  match g.kind with
  | 7 =>
    let k := g.clusterOf (clusterOf c)
    if k = clusterOf c then none else if k / 4 = clusterOf c / 4 then some 1 else some 0
  | 5 => some 4
  | 6 => some 5
  | _ => match e with
    | .ldp .. => some 3
    | _ => some 2

/-- The transfers of a core program: unit, instruction, region. -/
def Image.transfers (i : Image) (c : CoreProg) : List (Nat × Engine × RegionE) :=
  [3, 4].flatMap fun u => (c.program.stream u).filterMap fun e =>
    (transferDesc u e).bind fun d => (i.region (c.program.desc d.1.toNat).region.toNat).map fun g => (u, e, g)

/-- The tier pages a bracket's kind-5 regions reach (R325), as window times 2^52 plus page. -/
def Image.tierPages (i : Image) (b : Nat) : List Nat :=
  ((i.progsOf b).flatMap fun c => (c.program.occurs 3).flatMap fun o =>
    match o.instr with
    | .ld _ d =>
      let ds := c.program.desc d.toNat
      match i.region ds.region.toNat with
      | some g =>
        if g.kind = 5 then (ds.memRows g o.loops).flatMap fun r =>
          let a := g.base + r.1
          if r.2 = 0 then [] else rangeFrom (g.ref * 2 ^ 52 + a / 4096) ((a + r.2 - 1) / 4096 + 1 - a / 4096)
        else []
      | none => []
    | _ => []).dedup

/-- The mode an image was compiled for (R265). -/
def Image.compiledCompat (i : Image) : Bool := match i.micro with | some m => m.flags.testBit 0 | none => false

/-- The bytes a bracket writes to the ring of each export window (R332). -/
def Image.exportBytes (i : Image) (b : Nat) : List (Nat × Nat) :=
  let all := (i.progsOf b).flatMap fun c => (c.program.occurs 4).filterMap fun o =>
    match o.instr with
    | .st _ f =>
      let ds := c.program.desc f.desc.toNat
      if f.mode = 0 then (i.region ds.region.toNat).bind fun g => if g.kind = 6 then some (g.ref, ds.bytes) else none
      else none
    | _ => none
  ((all.map (·.1)).dedup).map fun w => (w, ((all.filter fun e => e.1 == w).map (·.2)).sum)

/-- The regions that the transfers of a reservation name (R185). -/
def Image.drawnOn (i : Image) (r : ReservE) : List RegionE :=
  ((i.progsOf r.bracket).filter fun c => c.core == r.core).flatMap fun c =>
    ((i.transfers c).filter fun t => t.1 == r.unit && targetOf r.core t.2.1 t.2.2 == some r.target).map (·.2.2)

/-- The charge of a reservation on stack `k` in 24ths of a granule per µs (R301). -/
def Image.charge (i : Image) (r : ReservE) (k : Nat) : Nat :=
  let gs := i.drawnOn r
  if r.target = 5 then r.rate
  else if r.target < 2 then 0
  else
    let placed := (gs.filter fun g => g.kind == 2).map (·.place)
    if placed.isEmpty then r.rate else if placed.contains k then 24 * r.rate else 0

/-- The stacks an image is charged on. -/
def Image.charged (i : Image) : List Nat :=
  (List.range 24).filter fun k => i.reservs.any fun r => i.charge r k != 0

/-- A / (f × 0.9999) + W × s_c with f in kHz (R145): numerator and denominator, in ns. -/
def segExact (f c a w : Nat) : Nat × Nat := (a * 10 ^ 10 * 100 + w * classStretch c * f * 9999, f * 9999 * 100)

/-- The planned length of a segment in ns (R145) at clock `f` kHz and class `c`, to the nearest ns as the manual's
worked figures round it (DEDUCED: log entry 18). -/
def segPlanned (f c a w : Nat) : Nat :=
  let q := segExact f c a w
  (q.1 + q.2 / 2) / q.2 + 1500

/-- True when the planned length, unrounded, exceeds `n` ns (R147). -/
def segLonger (n f c a w : Nat) : Bool :=
  let q := segExact f c a w
  decide (n * q.2 < q.1 + 1500 * q.2)

/-- The contract entries of a bracket (R183). -/
def Image.contractOf (i : Image) (b : Nat) : List ContractE :=
  match i.bracketE b with
  | some e => (i.contracts.drop e.contractFirst).take e.segments
  | none => []

end Sys2Proof.Machine
end

