-- ==== Sys2Proof/Machine/ImageParse.lean ====
section
/-! DEFINITION. The bytes of a Bielaob image read by the tables of 04 (Tables 4-12 to 4-22) and 07 (Tables 7-7, 7-8):
sections, records with their offsets, the image they spell. -/

namespace Sys2Proof.Machine

/-- A section directory entry (Table 4-13). -/
structure Section where
  ty : Nat
  rsv : Nat
  length : Nat
  offset : Nat
  /-- Byte offset of the entry itself. -/
  at_ : Nat
deriving DecidableEq, Repr

/-- A record with its byte offset in the image. -/
structure Rec where
  at_ : Nat
  b : List Byte
deriving DecidableEq, Repr

/-- A little-endian field of a record. -/
def Rec.f (r : Rec) (o k : Nat) : Nat := leAt r.b o k

/-- The directory of an image. -/
def directory (b : List Byte) : List Section :=
  (List.range (leAt b 0x1C 2)).map fun i =>
    let o := 0x80 + 16 * i
    ⟨leAt b o 2, leAt b (o + 2) 2, leAt b (o + 4) 4, leAt b (o + 8) 8, o⟩

/-- The bytes of the section of a type, with its offset. -/
def sectionOf (b : List Byte) (ty : Nat) : Option Rec :=
  ((directory b).find? fun s => s.ty == ty).map fun s => ⟨s.offset, slice b s.offset s.length⟩

/-- The records of `size` bytes of a section. -/
def records (b : List Byte) (ty size : Nat) : List Rec :=
  match sectionOf b ty with
  | none => []
  | some s => (List.range (s.b.length / size)).map fun i => ⟨s.at_ + i * size, slice s.b (i * size) size⟩

/-- The entries of the collective table before its rank lists (R659). -/
def collCount (s : Rec) : Nat → Nat → Nat → Nat
  | 0, n, _ => n
  | fuel + 1, n, low =>
    if low ≤ 32 * n ∨ s.b.length < 32 * n + 32 then n
    else collCount s fuel (n + 1) (min low (leAt s.b (32 * n + 0x0C) 4))

/-- The entry records of the collective table. -/
def collRecords (b : List Byte) : List Rec :=
  match sectionOf b 5 with
  | none => []
  | some s => (List.range (collCount s (s.b.length / 32 + 1) 0 s.b.length)).map fun i =>
    ⟨s.at_ + 32 * i, slice s.b (32 * i) 32⟩

/-- The rank list of a collective record: every U32 as it stands. -/
def rankWords (b : List Byte) (r : Rec) : List Nat :=
  match sectionOf b 5 with
  | none => []
  | some s => (List.range (r.f 0x0A 2)).map fun k => leAt s.b (r.f 0x0C 4 + 4 * k) 4

def parseBracket (r : Rec) : BracketE :=
  { bracket := r.f 0 1, accBanks := r.f 1 1, passes := r.f 2 1, flags := r.f 3 1
    limits := (List.range 4).map fun k => r.f (4 + 4 * k) 4
    segments := r.f 0x14 2, contractFirst := r.f 0x18 4, coreMask := r.f 0x40 64 }

def parseContract (r : Rec) : ContractE := ⟨r.f 0 4, r.f 4 4, r.f 8 2, r.f 0xA 1, r.f 0xB 1⟩

def parseRegion (r : Rec) : RegionE :=
  { region := r.f 0 1, kind := r.f 1 1, place := r.f 2 1, cluster := r.f 3 1, ref := r.f 4 2, init := r.f 6 2
    size := r.f 8 8, base := r.f 0x10 8, initWindow := r.f 0x18 2, initOffset := r.f 0x1C 4 }

def parseReserv (r : Rec) : ReservE := ⟨r.f 0 1, r.f 1 1, r.f 2 2, r.f 4 1, r.f 8 4⟩

def parseColl (b : List Byte) (r : Rec) : CollE :=
  { index := r.f 0 2, group := r.f 2 2, orderKey := r.f 4 4, operation := r.f 8 1, dataFmt := r.f 9 1
    ranks := (rankWords b r).map (· % 2 ^ 17), length := r.f 0x10 8, chunkBytes := r.f 0x18 4 }

def parseLand (r : Rec) : LandE :=
  ⟨r.f 0 1, r.f 1 1, r.f 2 1, r.f 3 1, r.f 4 4, r.f 8 4, r.f 0xC 1, r.f 0xD 1, r.f 0xE 2⟩

/-- The counts of a core program index entry: n_desc and the five stream counts (Table 4-20). -/
def progCounts (r : Rec) : Nat × List Nat := (r.f 8 2, (List.range 5).map fun k => r.f (0xA + 2 * k) 2)

/-- Bytes of the blob an index entry names (Table 4-21). -/
def blobBytes (r : Rec) : Nat := 128 + 32 * (progCounts r).1 + 16 * (progCounts r).2.sum

/-- Offset in the image of the blob of an index entry. -/
def blobAt (b : List Byte) (r : Rec) : Nat := (((sectionOf b 7).map (·.at_)).getD 0) + r.f 4 4

/-- Offset in the image of stream `u` of an index entry's blob. -/
def streamAt (b : List Byte) (r : Rec) (u : Nat) : Nat :=
  blobAt b r + 128 + 32 * (progCounts r).1 + 16 * ((progCounts r).2.take u).sum

/-- The program an index entry names. -/
def parseProgram (b : List Byte) (r : Rec) : CoreProg :=
  let o := blobAt b r
  let (nd, ns) := progCounts r
  { core := r.f 2 2
    program :=
      { bracket := r.f 0 1
        tokens := (List.range 64).map fun k => leAt b (o + 2 * k) 2
        descs := (List.range nd).map fun k => BitVec.ofNat 256 (leAt b (o + 128 + 32 * k) 32)
        streams := (List.range 5).map fun u =>
          (List.range (ns.getD u 0)).map fun k => BitVec.ofNat 128 (leAt b (streamAt b r u + 16 * k) 16)
        errs := [] } }

/-- A coefficient set record (Table 7-8) at offset `o` of the section. -/
def parseSet (s : List Byte) (o : Nat) : Bank :=
  { gen := some (leAt s o 1), first := leAt s (o + 4) 2
    entries := (List.range (leAt s (o + 6) 2)).map fun k => BitVec.ofNat 128 (leAt s (o + 16 + 16 * k) 16)
    errs := [] }

/-- The microprogram section (Table 7-7). -/
def parseMicro (s : List Byte) : MicroSec :=
  { flags := leAt s 0 1
    words := (List.range (leAt s 2 2)).map fun k => BitVec.ofNat 64 (leAt s (leAt s 8 4 + 8 * k) 8)
    programs := (List.range (leAt s 4 2)).map fun k => (leAt s (leAt s 0xC 4 + 4 * k) 1, leAt s (leAt s 0xC 4 + 4 * k + 1) 1)
    groups := (List.range (leAt s 6 1)).map fun g =>
      (List.range 8).map fun k => leAt s (leAt s 0x10 4 + 32 * g + 4 * k) 4
    sets := (List.range (min 2 (leAt s 1 1))).map fun k => parseSet s (leAt s (0x14 + 4 * k) 4) }

/-- The image the bytes spell, without its reference times. -/
def parseImage (b : List Byte) : Image :=
  { id := leAt b 0x10 4, fallbackId := leAt b 0x14 4, passSig := leAt b 0x18 4, flags := leAt b 0x1F 1
    digest := slice b 0x20 32
    brackets := (records b 1 128).map parseBracket
    contracts := (records b 2 16).map parseContract
    regions := (records b 3 32).map parseRegion
    reservs := (records b 4 16).map parseReserv
    colls := (collRecords b).map (parseColl b)
    programs := (records b 6 32).map (parseProgram b)
    landings := (records b 8 16).map parseLand
    micro := (sectionOf b 0xA).map fun s => parseMicro s.b
    refs := [] }

end Sys2Proof.Machine
end

