-- ==== Sys2Proof/Machine/ImageChecks.lean ====
section
/-! DEFINITION. Load-time checks 1 to 13 and 15 to 17 of an image by its content (04 Table 4-23, R158 to R188; 05 R202;
06 R241; 07 R255, R269; 08 R284; 10 R345; 11 R370). A check answers the byte offset of the first structure that
fails it. -/

namespace Sys2Proof.Machine

/-- The first record of a list that fails, by its offset. -/
def firstAt (l : List (Nat × Bool)) : Option Nat := (l.find? (·.2)).map (·.1)

/-- The first failure of a list of checks. -/
def firstSome (l : List (Option Nat)) : Option Nat := l.findSome? id

/-! ### Checks 1 to 4 -/

/-- Check 1: magic, version 1.0, image_length equal to the slot's and a multiple of 64. -/
def check1 (b : List Byte) (slotLength : Nat) : Option Nat :=
  firstAt [(0, leAt b 0 4 != 0x4C454942), (4, leAt b 4 2 != 1 || leAt b 6 2 != 0),
    (8, leAt b 8 8 != slotLength || leAt b 8 8 != b.length || leAt b 8 8 % 64 != 0)]

/-- Check 2: the digest over the image with its own bytes taken as zero. -/
def check2 (b : List Byte) : Option Nat :=
  if sha256 (b.take 0x20 ++ List.replicate 32 0 ++ b.drop 0x40) = slice b 0x20 32 then none else some 0x20

/-- A section type the device knows or ignores (Table 4-14, R182). -/
def knownType (t : Nat) : Bool := (decide (1 ≤ t) && decide (t ≤ 8)) || t == 0xA || decide (0x8000 ≤ t)

/-- The entry size of a section type. -/
def entrySize (t : Nat) : Nat := match t with | 1 => 128 | 3 => 32 | 6 => 32 | 2 | 4 | 8 => 16 | _ => 1

/-- Check 3: directory, sections, blobs, collective layout (R181, R182, R659). No check names an n_desc of 0 (DESIGN CHOICE: log entry
229). -/
def check3 (b : List Byte) : Option Nat :=
  let n := leAt b 0x1C 2
  let dirEnd := 0x80 + 16 * n
  let ss := directory b
  let bad := fun (i : Nat) (s : Section) =>
    !knownType s.ty || s.offset % 64 != 0 || decide (s.offset < dirEnd) || decide (b.length < s.offset + s.length) ||
      s.length % entrySize s.ty != 0 ||
      (ss.zipIdx.any fun t => decide (t.2 < i) &&
        ((t.1.ty == s.ty && decide (s.ty < 0x8000)) ||
          (decide (s.offset < t.1.offset + t.1.length) && decide (t.1.offset < s.offset + s.length))))
  let missing := [1, 2, 3, 6, 7].any fun t => !ss.any fun s => s.ty == t
  let dataLen := ((sectionOf b 7).map fun s => s.b.length).getD 0
  let blobs := (records b 6 32).map fun r => (r.at_, r.f 4 4 % 64 != 0 || decide (dataLen < r.f 4 4 + blobBytes r))
  let cs := collRecords b
  let secLen := ((sectionOf b 5).map fun s => s.b.length).getD 0
  let low := (cs.map fun r => r.f 0xC 4).foldl min secLen
  let colls := cs.map fun r => (r.at_, r.f 0xC 4 % 4 != 0 || decide (r.f 0xC 4 < 32 * cs.length) ||
    decide (secLen < r.f 0xC 4 + 4 * r.f 0xA 2))
  let layout := (sectionOf b 5).map fun s => (s.at_, secLen != 0 && (low % 32 != 0 || low != 32 * cs.length))
  firstSome [
    firstAt [(0x1C, n == 0 || decide (64 < n) || decide (b.length < dirEnd))],
    firstAt (ss.zipIdx.map fun t => (t.1.at_, bad t.2 t.1)),
    firstAt [(0x80, missing)],
    firstAt blobs,
    firstAt (layout.toList ++ colls)]

/-- The instruction words of an image with their offsets: index record, unit, offset, word. -/
def imageWords (b : List Byte) : List (Rec × Nat × Nat × BitVec 128) :=
  (records b 6 32).flatMap fun r => (List.range 5).flatMap fun u =>
    (List.range ((progCounts r).2.getD u 0)).map fun k =>
      let o := streamAt b r u + 16 * k
      (r, u, o, BitVec.ofNat 128 (leAt b o 16))

/-- The descriptors of an image with their offsets: index record, number, offset, bits. -/
def imageDescs (b : List Byte) : List (Rec × Nat × Nat × BitVec 256) :=
  (records b 6 32).flatMap fun r => (List.range (progCounts r).1).map fun k =>
    let o := blobAt b r + 128 + 32 * k
    (r, k, o, BitVec.ofNat 256 (leAt b o 32))

/-- The payload bits of a listed opcode that no field takes (R161): a mask of bits 67 to 0. -/
def reservedPayload (op : Nat) : Nat :=
  match op with
  | 0x01 | 0x02 | 0x07 => 2 ^ 68 - 1
  | 0x03 => 2 ^ 40 - 1
  | 0x05 => 2 ^ 64 - 1
  | 0x06 => 2 ^ 51 - 1
  | 0x10 => 2 ^ 24 - 1
  | 0x12 => 2 ^ 7 - 1
  | 0x20 => 2 ^ 12 - 1
  | 0x21 => 2 ^ 43 - 1
  | 0x22 => 2 ^ 32 - 1
  | 0x23 => 2 ^ 15 - 1
  | 0x24 => 2 ^ 28 - 1
  | 0x30 => 2 ^ 56 - 1
  | 0x31 => 2 ^ 12 - 1
  | 0x32 => 2 ^ 44 - 1
  | 0x40 => 2 ^ 38 - 1
  | _ => 0

/-- Check 4: every wholly reserved field is zero. -/
def check4 (b : List Byte) : Option Nat :=
  firstSome [
    firstAt [(0x1F, leAt b 0x1F 1 > 1), (0x40, !zeroAt b 0x40 64)],
    firstAt ((directory b).map fun s => (s.at_, s.rsv != 0)),
    firstAt ((records b 1 128).map fun r => (r.at_, decide (1 < r.f 3 1) || !zeroAt r.b 0x16 2 || !zeroAt r.b 0x1C 36)),
    firstAt ((records b 2 16).map fun r => (r.at_, decide (1 < r.f 0xB 1) || !zeroAt r.b 0xC 4)),
    firstAt ((records b 3 32).map fun r => (r.at_, !zeroAt r.b 0x1A 2)),
    firstAt ((records b 4 16).map fun r => (r.at_, !zeroAt r.b 5 3 || !zeroAt r.b 0xC 4)),
    firstAt ((collRecords b).map fun r => (r.at_, !zeroAt r.b 0x1C 4 || (rankWords b r).any fun w => decide (2 ^ 17 ≤ w))),
    firstAt ((records b 6 32).map fun r => (r.at_, !zeroAt r.b 1 1 || !zeroAt r.b 0x14 12)),
    firstAt ((imageWords b).map fun w =>
      (w.2.2.1, w.2.2.2.toNat &&& reservedPayload (w.2.2.2.toNat >>> 120) != 0)),
    firstAt ((imageDescs b).map fun d =>
      (d.2.2.1, if d.2.2.2.toNat >>> 252 = 0xF then d.2.2.2.toNat % 2 ^ 172 != 0 else d.2.2.2.toNat % 16 != 0))]

/-! ### Checks 5 and 6 -/

/-- Check 5: the bracket table. -/
def check5 (b : List Byte) : Option Nat :=
  let rs := records b 1 128
  let n := leAt b 0x1E 1
  firstSome [
    firstAt [(0x1E, rs.length != n || n == 0 || decide (16 < n))],
    firstAt (rs.zipIdx.map fun r => (r.1.at_, r.1.f 0 1 != r.2 || outside (r.1.f 1 1) 1 16 || r.1.f 2 1 == 0 ||
      r.1.f 0x14 2 == 0))]

/-- Check 6: the contract table (R183). -/
def check6 (b : List Byte) : Option Nat :=
  let cs := records b 2 16
  firstAt ((records b 1 128).map fun r =>
    let s := r.f 0x14 2
    let es := ((cs.drop (r.f 0x18 4)).take s).map parseContract
    let ends := fun e : ContractE => e.flags.testBit 0
    (r.at_, es.length != s || (es.zipIdx.any fun e => e.1.segment != e.2) ||
      !(es.getLast?.any ends) || (es.filter ends).length != r.f 2 1 ||
      (es.zipIdx.any fun e => e.1.pass != ((es.take e.2).filter ends).length)))

/-! ### Check 7 -/

/-- Streams that may hold an opcode (Table 4-2), by unit. -/
def permitted (op u : Nat) : Bool :=
  match op with
  | 0x01 | 0x02 | 0x03 | 0x06 | 0x07 => true
  | 0x05 => u == 0
  | 0x10 | 0x11 | 0x12 => u == 1
  | 0x20 | 0x21 | 0x22 | 0x23 | 0x24 => u == 2
  | 0x30 | 0x31 => u == 3
  | 0x32 => u == 3 || u == 4
  | 0x40 => u == 4
  | _ => false

/-- A signal that breaks R158 or R159. -/
def badSignal (g : Signal) : Bool :=
  (g.inc == 0 && (g.token != 0 || g.point != 0 || g.remote != 0 || g.core != 0)) || (g.remote == 0 && g.core != 0) ||
    g.token == 63

/-- A header that breaks R158 or R159; STEPEND carries no signal. -/
def badHeader (i : Engine) : Bool :=
  let h := i.header
  (h.waitCount == 0 && h.waitToken != 0) || h.waitToken == 63 || badSignal h.sig0 || badSignal h.sig1 ||
    (i.opcode == 0x07 && (h.sig0.inc != 0 || h.sig1.inc != 0))

/-- A defined field with a reserved value or a value outside its range (R161). -/
def badFields (segments : Nat) : Engine → Bool
  | .loop _ n body => n == 0 || body == 0
  | .yield _ _ g => decide (segments ≤ g.toNat + 1)
  | .mma _ p => decide (1 < p.accType.toNat)
  | .mmab _ p => decide (1 < p.mat.accType.toNat) || p.batch == 0
  | .mmf _ p => p.init == 2 || p.pFmt == 3
  | .vop _ p => outside p.op.toNat 1 0x0E
  | .sfn _ p => outside p.func.toNat 1 0x0F
  | .sfm _ p => p.passes == 0
  | .ldp _ p => p.entries == 0
  | .st _ p => p.mode == 3 || (p.mode != 1 && p.coll != 0)
  | _ => false

/-- True for a finite FP32 encoding. -/
def f32Finite (n : Nat) : Bool := decide (n >>> 23 % 256 ≠ 255)

/-- The built-in regions and the direction of their c0 values: true when increasing (Table 7-3). -/
def builtinRegions : List (Region × Bool) :=
  [(regionExp2, true), (regionLog2, true), (regionRcp, false), (regionRsqrt, false), (regionSqrt, true),
   (regionTanh, true), (regionSigmoidP, true), (regionSigmoidN, false), (regionErf, true), (regionGeluP, true)] ++
  [(regionGeluN, false), (regionGeluTP, true), (regionGeluTN, false), (regionSiluP, true), (regionSiluN, false),
   (regionSoftplusP, true), (regionSoftplusN, false), (regionSin, true), (regionCos, false)]

/-- A set gives a region c0 values that do not run in its direction; past the turning-point segment the direction
turns (R257, R269). -/
def badDirection (b : Bank) (g : Region × Bool) : Bool :=
  let n := g.1.binades * 2 ^ g.1.k
  let touched := decide (b.first < g.1.base + n) && decide (g.1.base < b.first + b.entries.length)
  touched && (List.range n).any fun j =>
    let a := f32 (b.coef (g.1.base + j) 0)
    let z := f32 (if j + 1 = n then g.1.vEnd else b.coef (g.1.base + j + 1) 0)
    match g.1.free with
    | some t => if j = t then false else if j < t then (if g.2 then z.lt a else a.lt z)
        else (if g.2 then a.lt z else z.lt a)
    | none => if g.2 then z.lt a else a.lt z

/-- Conditions of R269, code 0x041C, with the offset of the section. -/
def microBad1 (s : List Byte) (m : MicroSec) : Bool :=
  let part := fun (off count size : Nat) => (count == 0 && off != 0) || off % 16 != 0 ||
    (count != 0 && decide (s.length < off + count * size))
  let setPart := fun (k : Nat) => let o := leAt s (0x14 + 4 * k) 4
    if k < leAt s 1 1 then o % 16 != 0 || decide (s.length < o + 16) || decide (s.length < o + 16 + 16 * leAt s (o + 6) 2)
    else o != 0
  decide (s.length < 0x40) || decide (1 < m.flags) || decide (2 < leAt s 1 1) || decide (256 < leAt s 2 2) || decide (256 < leAt s 4 2) ||
    decide (64 < leAt s 6 1) || leAt s 7 1 != 0 || !zeroAt s 0x1C 36 ||
    part (leAt s 8 4) (leAt s 2 2) 8 || part (leAt s 0xC 4) (leAt s 4 2) 4 || part (leAt s 0x10 4) (leAt s 6 1) 32 ||
    setPart 0 || setPart 1 ||
    ((List.range (leAt s 1 1)).any fun k => let o := leAt s (0x14 + 4 * k) 4
      !zeroAt s (o + 1) 3 || !zeroAt s (o + 8) 8 || leAt s (o + 6) 2 == 0 || decide (4096 < leAt s (o + 4) 2 + leAt s (o + 6) 2)) ||
    ((List.range (leAt s 4 2)).any fun k => !zeroAt s (leAt s 0xC 4 + 4 * k + 2) 2) ||
    (m.words.any fun w =>
      let w := w.toNat
      let red := bits w 59 56
      bit w 25 || bits w 13 0 != 0 || decide (3 < red) || decide (5 < bits w 23 20) || decide (8 < bits w 43 40) ||
        (bit w 61 && (bits w 55 44 != 0 || bits w 43 40 != 0 || bits w 39 32 != 0 || bits w 31 26 != 0 || bit w 24)) ||
        (!bit w 61 && bits w 31 26 == 0) ||
        decide (4096 < bits w 55 44 + bits w 31 26 * 2 ^ bits w 43 40) ||
        (red == 1 && (bits w 39 32 != 0 || bits w 31 26 != 1)) ||
        decide (m.groups.length ≤ bits w 19 14)) ||
    (m.groups.any fun g => (g.take 6).any (fun v => !f32Finite v) || (g.drop 6).any (· != 0))

/-- Conditions of R269, code 0x041D. -/
def microBad2 (m : MicroSec) (sfms : List SfmFields) : Bool :=
  (m.programs.any fun p =>
    p.2 == 0 || decide (m.words.length < p.1 + p.2) ||
      (List.range p.2).any fun k => bit (m.words.getD (p.1 + k) 0).toNat 63 != decide (k + 1 = p.2)) ||
    (sfms.any fun f => !m.programs.any fun p => p.1 == f.program.toNat && p.2 == f.passes.toNat)

/-- Conditions of R269, code 0x041E. -/
def microBad3 (m : MicroSec) : Bool :=
  let gens := m.sets.map fun b => b.gen.getD 0
  (m.sets.any fun b => b.entries.any fun e => (List.range 4).any fun k => !f32Finite (e.toNat >>> (32 * k) % 2 ^ 32)) ||
    (match gens with
    | [a] => a == 1
    | [a, c] => outside ((c + 256 - a) % 256) 1 127
    | _ => false) ||
    (m.sets.any fun b => builtinRegions.any fun g => badDirection b g)

/-- Check 7 with its code: instruction words, T63, then the microprogram section. -/
def check7 (b : List Byte) (i : Image) : Option (Nat × Nat) :=
  let segs := fun (br : Nat) => ((i.bracketE br).map BracketE.segments).getD 1
  let words := firstAt ((imageWords b).map fun w =>
    (w.2.2.1, match decodeEngine w.2.2.2 with
      | none => true
      | some e => !permitted e.opcode w.2.1 || badHeader e || badFields (segs (w.1.f 0 1)) e))
  let t63 := firstAt ((records b 6 32).map fun r => (blobAt b r + 126, leAt b (blobAt b r + 126) 2 != 0))
  let sfms := i.programs.flatMap fun c => (c.program.stream 2).filterMap fun e => match e with
    | .sfm _ f => some f
    | _ => none
  match firstSome [words, t63] with
  | some o => some (0x0407, o)
  | none =>
    match sectionOf b 0xA with
    | none => if sfms.isEmpty then none else some (0x041D, 0)
    | some s =>
      let m := parseMicro s.b
      if microBad1 s.b m then some (0x041C, s.at_)
      else if microBad2 m sfms then some (0x041D, s.at_)
      else if microBad3 m then some (0x041E, s.at_)
      else none

/-! ### Checks 8 to 13 -/

/-- The scale modes a format permits (Table 4-11). -/
def scaleModeOk (fmt mode : Nat) : Bool := if fmtIsMx fmt then mode == 1 || mode == 2 else mode == 0

/-- A tile descriptor that breaks R161 or R176. No check names a mem_offset or mem_row_pitch that is no multiple of 256 (DESIGN CHOICE:
log entry 228). -/
def badDesc (d : Desc) : Bool :=
  let f := d.fmt.toNat
  decide (0xD ≤ f) || d.scaleMode == 3 || d.localSpace == 3 || !scaleModeOk f d.scaleMode.toNat ||
    decide (d.rowElems.toNat * fmtBits f % 8 ≠ 0) || (fmtIsMx f && decide (d.rowElems.toNat % 32 ≠ 0)) ||
    (d.scaleMode == 0 && d.scaleAddr != 0) || (d.scaleMode != 2 && d.tscaleAddr != 0) || d.rows == 0 || d.rowElems == 0

/-- A row-function descriptor with a reserved mask mode or an index its flags do not use. -/
def badRowDesc (r : RowDesc) : Bool :=
  decide (3 < r.maskMode.toNat) ||
    (!(r.mask == 1 && decide (1 ≤ r.maskMode.toNat)) && (r.qSegDesc != 0 || r.kSegDesc != 0)) ||
    (r.status == 0 && r.statusDesc != 0)

/-- Descriptor index `i` is within the table and a tile descriptor; with `opt` it may be 0. -/
def tileIdx (q : Program) (opt : Bool) (i : BitVec 12) : Bool :=
  decide (i.toNat < q.descs.length) && (if i = 0 then opt else decide ((q.descBits i.toNat).toNat >>> 252 ≠ 0xF))

/-- Descriptor index `i` is within the table and a row-function descriptor. -/
def rowIdx (q : Program) (i : BitVec 12) : Bool :=
  decide (i.toNat < q.descs.length) && decide (i ≠ 0) && decide ((q.descBits i.toNat).toNat >>> 252 = 0xF)

/-- A format that SFN and SFM take (R255). -/
def sfFmt (d : Desc) : Bool := d.fmt == 1 || d.fmt == 2 || d.fmt == 3

/-- The descriptor indices of an instruction are good (check 8, with R241, R255, R284). -/
def descsOk (q : Program) : Engine → Bool
  | .mma _ p => tileIdx q false p.descA && tileIdx q false p.descB &&
      (if p.init = 2 then tileIdx q false p.descC else p.descC == 0)
  | .mmab _ p => tileIdx q false p.mat.descA && tileIdx q false p.mat.descB &&
      (if p.mat.init = 2 then tileIdx q false p.mat.descC else p.mat.descC == 0)
  | .mmf _ p => tileIdx q false p.descA && tileIdx q false p.descB && tileIdx q false p.descD && rowIdx q p.descRow
  | .vop _ p =>
    let n := vopArity p.op.toNat
    let used := fun (k : Nat) (i : BitVec 12) => if k < n then tileIdx q false i else i == 0
    -- SELECT takes a, b and c; FMA likewise (Table 4-6)
    used 0 p.srcA && used 1 p.srcB && used 2 p.srcC && tileIdx q false p.dst
  | .vcvt _ p => tileIdx q false p.src && tileIdx q false p.dst
  | .vrow _ p => tileIdx q false p.src && tileIdx q false p.dst && rowIdx q p.descRow
  | .sfn _ p => tileIdx q false p.src && tileIdx q false p.dst && tileIdx q true p.dst2 &&
      sfFmt (q.desc p.src.toNat) && sfFmt (q.desc p.dst.toNat) && (p.dst2 == 0 || sfFmt (q.desc p.dst2.toNat))
  | .sfm _ p => tileIdx q false p.src && tileIdx q false p.dst &&
      sfFmt (q.desc p.src.toNat) && sfFmt (q.desc p.dst.toNat)
  | .ld _ d => tileIdx q false d
  | .st _ f => tileIdx q false f.desc
  | .ldp _ f => tileIdx q false f.descData && tileIdx q false f.descList &&
      (let d := q.desc f.descData.toNat
       (d.fmt == 4 || d.fmt == 5) && d.rowElems == 128 && decide (d.rows.toNat % 32 = 0) &&
         !outside d.rows.toNat 32 1024 && decide (d.localSpace.toNat ≤ 1))
  | .halo _ f => tileIdx q false f.descLocal && tileIdx q false f.descRemote &&
      (let l := q.desc f.descLocal.toNat
       let r := q.desc f.descRemote.toNat
       l.fmt == 0 && r.fmt == 0 && l.localSpace == 0 && r.localSpace == 0 && !outside l.granules 1 72 && !outside r.granules 1 72)
  | _ => true

/-- The offsets of a program's instructions that satisfy `f`. -/
def badInstrs (b : List Byte) (f : CoreProg → Nat → Engine → Bool) : List (Nat × Bool) :=
  (records b 6 32).flatMap fun r =>
    let c := parseProgram b r
    (List.range 5).flatMap fun u => (c.program.stream u).zipIdx.map fun e => (streamAt b r u + 16 * e.2, f c u e.1)

/-- Check 8: descriptors. -/
def check8 (b : List Byte) : Option Nat :=
  firstSome [
    firstAt ((imageDescs b).map fun d =>
      let w := d.2.2.2
      (d.2.2.1, if d.2.1 = 0 then w != 0
        else if w.toNat >>> 252 = 0xF then
          let r := decodeRowDesc w
          badRowDesc r || [r.qSegDesc, r.kSegDesc, r.statusDesc].any fun i => !tileIdx (parseProgram b d.1).program true i
        else badDesc (decodeDesc w))),
    firstAt (badInstrs b fun c _ e => !descsOk c.program e)]

/-- True when the loops of a stream nest properly, at most four deep, inside the stream (R162). -/
def loopsOk (is : List Engine) : Bool :=
  let ls := is.zipIdx.filterMap fun e => (loopOf e.1).map fun l => (e.2, e.2 + l.2)
  ls.all fun l => decide (l.2 < is.length) &&
    (let outer := ls.filter fun m => decide (m.1 < l.1) && decide (l.1 ≤ m.2)
     decide (outer.length < 4) && outer.all fun m => decide (l.2 ≤ m.2))

/-- The stream records of an image: index record, unit, the stream. -/
def imageStreams (b : List Byte) : List (Rec × Nat × List Engine) :=
  (records b 6 32).flatMap fun r =>
    let c := parseProgram b r
    (List.range 5).map fun u => (r, u, c.program.stream u)

/-- Check 9: loops. -/
def check9 (b : List Byte) : Option Nat :=
  firstAt ((imageStreams b).map fun s => (streamAt b s.1 s.2.1, !loopsOk s.2.2))

/-- The structure of a stream (R164 to R166). -/
def streamOk (i : Image) (br u : Nat) (is : List Engine) : Bool :=
  let inLoop := fun k => (is.zipIdx.filterMap fun e => (loopOf e.1).map fun l => (e.2, e.2 + l.2)).any
    fun l => decide (l.1 < k) && decide (k ≤ l.2)
  let s := ((i.bracketE br).map BracketE.segments).getD 1
  let ys := is.zipIdx.filterMap fun e => match e.1 with
    | .yield _ p g => some (e.2, p.toNat, g.toNat)
    | _ => none
  let brb := (is.zipIdx.filterMap fun e => match e.1 with
    | .brb _ k => some (e.2, k.toNat)
    | _ => none)
  let ends := is.zipIdx.filterMap fun e => match e.1 with
    | .stepEnd _ => some e.2
    | _ => none
  let flags := (i.contractOf br).map fun e => e.flags % 2
  ys.map (fun y => y.2.2) == List.range (s - 1) && ys.map (fun y => y.2.1) == flags.take (s - 1) &&
    ends == [is.length - 1] && brb == (if u = 0 then [(0, br)] else []) &&
    !(ys.any fun y => inLoop y.1) && !inLoop (is.length - 1)

/-- Check 10: stream structure, and one program for every core of a bracket's mask and none for any other. -/
def check10 (b : List Byte) (i : Image) : Option Nat :=
  firstSome [
    firstAt ((imageStreams b).map fun s => (streamAt b s.1 s.2.1, !streamOk i (s.1.f 0 1) s.2.1 s.2.2)),
    firstAt ((records b 1 128).map fun r =>
      let e := parseBracket r
      let cs := (i.progsOf e.bracket).map (·.core)
      (r.at_, !(e.cores.all fun c => cs.contains c) || cs.length != e.cores.length)),
    firstAt ((records b 6 32).map fun r =>
      (r.at_, match i.bracketE (r.f 0 1) with | some e => !e.cores.contains (r.f 2 2) | none => true))]

/-- The configuration a slot's checks count from (R194). -/
def HeldConfig.num (h : HeldConfig) (o sub : Nat) : Nat :=
  (tabGet none h.dict (objKey o sub)).getD (objDefault (objKey o sub))

/-- A region entry that breaks Table 4-17 or R184, R595. -/
def badRegion (h : HeldConfig) (p : Nat) (all : List RegionE) (g : RegionE) : Bool :=
  let window := fun (o w off n : Nat) => decide (63 < w) || h.num (o + w) 1 == 0 || decide (h.num (o + w) 3 < off + n)
  g.region == 0 || decide (1 < (all.filter fun e => e.region == g.region).length) || g.size % 256 != 0 || g.size == 0 ||
    !([1, 2, 3, 5, 6, 7].contains g.kind) ||
    (match g.kind with
    | 2 => decide (23 < g.place)
    | 7 => (g.place != 0xFF && (decide (15 < g.place) || decide (3 < g.cluster) ||
        !(h.num (0x2100 + p) 1).testBit (4 * g.place + g.cluster))) || (g.place == 0xFF && g.cluster != 0)
    | _ => g.place != 0) || (g.kind != 7 && g.cluster != 0) ||
    (match g.kind with
    | 3 => decide (15 < g.ref)
    | 5 => window 0x5600 g.ref g.base g.size
    | 6 => window 0x5700 g.ref g.base g.size || g.ref == h.num (0x8100 + p) 6
    | _ => g.ref != 0) ||
    (match g.kind with
    | 7 => decide (25165824 < g.base * 256 + g.size)
    | 5 | 6 => false
    | _ => g.base != 0) ||
    (match g.kind with
    | 1 | 2 => decide (1 < g.init) || (g.init == 1 && window 0x5600 g.initWindow (4096 * g.initOffset) g.size)
    | _ => g.init != 0) ||
    (g.init == 0 && (g.initWindow != 0 || g.initOffset != 0))

/-- A transfer whose region is missing or may not be used so (R184, R241, R284, R345). -/
def badAccess (i : Image) (c : CoreProg) (u : Nat) (e : Engine) : Bool :=
  match transferDesc u e with
  | none => false
  | some (d, _) =>
    match i.region (c.program.desc d.toNat).region.toNat with
    | none => true
    | some g => match e with
      | .ld .. => g.kind == 6
      | .ldp .. => !([1, 2, 3].contains g.kind)
      | .halo .. => g.kind != 7 || (u == 3 && !g.isLocal (clusterOf c.core))
      | .st _ f => if f.mode = 2 then !([1, 2].contains g.kind) else g.kind == 5
      | _ => false

/-- True for an LDP, whose list region is judged by check 8 (R241). -/
def isLdp (e : Engine) : Bool := match e with | .ldp .. => true | _ => false

/-- Check 8's part that needs the regions (R241). -/
def check8b (b : List Byte) (i : Image) : Option Nat :=
  firstAt (badInstrs b fun c u e => isLdp e && badAccess i c u e)

/-- Check 11: regions. -/
def check11 (b : List Byte) (i : Image) (h : HeldConfig) (p : Nat) : Option Nat :=
  firstSome [
    firstAt ((records b 3 32).map fun r => (r.at_, badRegion h p i.regions (parseRegion r))),
    firstAt (badInstrs b fun c u e => !isLdp e && badAccess i c u e)]

/-- Bytes of a local memory. -/
def localBytes (space : Nat) : Nat := match space with | 0 => 4194304 | 1 => 25165824 | _ => 1048576

/-- A tile of an engine instruction lies in its local memories for loop indices and problem `j` (R177). -/
def tileFits (d : Desc) (loops : List Frame) (j : Nat) : Bool :=
  let l := d.loc loops j
  decide (l.local0 + d.bytes ≤ localBytes d.localSpace.toNat) &&
    (d.scaleMode == 0 || decide (l.scale0 + d.elems / 32 ≤ 4194304)) &&
    (d.scaleMode != 2 || decide (l.tscale0 + 4 * (d.rowElems.toNat / 64) ≤ 4194304))

/-- The memory side of a transfer lies in its region, in rows of whole granules for kinds 1 to 6 (R178). -/
def memFits (i : Image) (d : Desc) (loops : List Frame) : Bool :=
  match i.region d.region.toNat with
  | none => false
  | some g =>
    let o := (d.loc loops 0).memOff
    decide (0 ≤ o) && (g.kind == 7 || decide (d.rowBytes % 256 = 0)) &&
      (d.memRows g loops).all fun r => decide (r.1 + r.2 ≤ g.size)

/-- Every address of an instruction instance lies in its region and its local memory. -/
def occurFits (i : Image) (q : Program) (o : Occur) : Bool :=
  let t := fun (k : BitVec 12) => tileFits (q.desc k.toNat) o.loops 0
  match o.instr with
  | .mma _ p => t p.descA && t p.descB && (p.init != 2 || t p.descC)
  | .mmab _ p => (List.range p.batch.toNat).all fun j =>
      tileFits (q.desc p.mat.descA.toNat) o.loops j && tileFits (q.desc p.mat.descB.toNat) o.loops j &&
        (p.mat.init != 2 || tileFits (q.desc p.mat.descC.toNat) o.loops j)
  | .mmf _ p => t p.descA && t p.descB && t p.descD &&
      (let r := q.rowDesc p.descRow.toNat
       [r.qSegDesc, r.kSegDesc, r.statusDesc].all fun k => k == 0 || t k)
  | .vop _ p => [p.srcA, p.srcB, p.srcC, p.dst].all fun k => k == 0 || t k
  | .vcvt _ p => t p.src && t p.dst
  | .vrow _ p => t p.src && t p.dst &&
      (let r := q.rowDesc p.descRow.toNat
       [r.qSegDesc, r.kSegDesc, r.statusDesc].all fun k => k == 0 || t k)
  | .sfn _ p => t p.src && t p.dst && (p.dst2 == 0 || t p.dst2)
  | .sfm _ p => t p.src && t p.dst
  | .ld _ d => t d && memFits i (q.desc d.toNat) o.loops
  | .st _ f =>
    let d := q.desc f.desc.toNat
    t f.desc && (f.mode == 2 && decide (d.rowBytes % 256 = 0) || memFits i d o.loops)
  | .halo _ f => t f.descLocal && memFits i (q.desc f.descRemote.toNat) o.loops
  | .ldp _ f =>
    let d := q.desc f.descData.toNat
    let dl := q.desc f.descList.toNat
    decide ((d.loc o.loops 0).local0 + 264 * d.rows.toNat ≤ localBytes d.localSpace.toNat) &&
      (match i.region dl.region.toNat with
      | none => false
      | some g =>
        let m := (dl.loc o.loops 0).memOff
        decide (0 ≤ m) && decide (m.toNat + 16 * (f.first.toNat + f.entries.toNat) ≤ g.size))
  | _ => true

/-- The instances of a program that satisfy `f`, by the offset of their instruction. -/
def badOccurs (b : List Byte) (f : CoreProg → Occur → Bool) : List (Nat × Bool) :=
  (records b 6 32).flatMap fun r =>
    let c := parseProgram b r
    (List.range 5).flatMap fun u => (c.program.occurs u).map fun o => (streamAt b r u + 16 * o.idx, f c o)

/-- Check 12: addresses. -/
def check12 (b : List Byte) (i : Image) : Option Nat := firstAt (badOccurs b fun c o => !occurFits i c.program o)

/-- Check 13: the footprint of a program (R119, R187). -/
def check13 (b : List Byte) : Option Nat :=
  firstAt ((records b 6 32).map fun r => (r.at_, decide (131072 < blobBytes r - 128)))

/-- Check 15: landing counters (Table 4-22), with no two regions of one cluster overlapping, and no counter of a bracket given twice. -/
def check15 (b : List Byte) (i : Image) : Option Nat :=
  let rs := records b 8 16
  firstAt (rs.zipIdx.map fun r =>
    let l := parseLand r.1
    let others := ((rs.take r.2).map parseLand).filter fun o =>
      o.die == l.die && o.cluster == l.cluster
    (r.1.at_, (i.bracketE l.bracket).isNone || decide (15 < l.die) || decide (3 < l.cluster) || decide (15 < l.counter) ||
      l.granules == 0 || decide (98304 < l.start + l.granules) || decide (7 < l.core) || decide (62 < l.token) ||
      l.threshold == 0 || (others.any fun o => (o.bracket == l.bracket && o.counter == l.counter) ||
        (decide (l.start < o.start + o.granules) && decide (o.start < l.start + l.granules)))))

/-- Check 16: the shape rules, with acc_banks of the bracket and the limits of the logical core's number (R202, R280). -/
def check16 (b : List Byte) (i : Image) : Option (Nat × Nat) :=
  ((records b 6 32).flatMap fun r =>
    let c := parseProgram b r
    let banks := ((i.bracketE c.program.bracket).map BracketE.accBanks).getD 16
    [1, 2].flatMap fun u => (c.program.occurs u).filterMap fun o =>
      (c.program.shape banks (decide (c.core % 8 = 0)) o.loops o.instr).map fun code => (code, streamAt b r u + 16 * o.idx)).head?

/-- Check 17: a segment at E1 and class 0 is at most 250 µs (R147). -/
def check17 (b : List Byte) : Option Nat :=
  firstAt ((records b 2 16).map fun r =>
    let e := parseContract r
    (r.at_, segLonger 250000 1250000 0 e.aAc e.wNs))

end Sys2Proof.Machine
end

