-- ==== Sys2Proof/Machine/DryRun.lean ====
section
/-! DEFINITION. The dry run of an image (04 R189, check 14) and its reference times (19 R599): the token logic of every
core of a bracket, without data. The passes differ in when a signal from outside a cluster arrives: at the lower bound of its
window, as late as nothing else can happen, or at the lower bound for all transfers but one that is held as late as nothing else
can happen; and, for the reference times, at the upper bound under the image's reservations with ac at 1.25 GHz. By R190 the order
of such arrivals does not decide whether a wait is satisfied, and a count is greatest while one transfer holds back the token's
only waiter and all else has arrived, so the passes are enough for every order (DEDUCED: log entry 20). A landing counter that no
store of the bracket feeds counts NMU records, which no stream states, so a bracket with an ST of mode 2 takes its signals as given
(DEDUCED: log entry 21). -/

namespace Sys2Proof.Machine

/-- When signals from outside a cluster arrive. -/
inductive DryMode where
  | early
  | late
  /-- Early, but for the transfer of this number, which is late. -/
  | hold (n : Nat)
  | reference
deriving DecidableEq, Repr

/-- True when what is not a held transfer arrives as early as it can. -/
def DryMode.soon : DryMode → Bool
  | .early | .hold _ => true
  | .late | .reference => false

/-- What happens at an ac of the dry run: signals of a unit of a core, the end of an instruction in flight, granules
that land in a cluster (cluster, first granule, count). -/
structure DryEvent where
  /-- None: as late as nothing else can happen. -/
  at_ : Option Nat
  core : Nat
  unit : Nat
  sigs : List Signal
  ends : Bool
  lands : Option (Nat × Nat × Nat)
deriving DecidableEq, Repr

/-- A core of the dry run: its sequencing state, instructions in flight, issue ac of its instances by unit. -/
structure DryCore where
  logical : Nat
  core : Core
  flying : Nat
  issues : Tab (List Nat)
deriving DecidableEq, Repr

structure Dry where
  cores : List DryCore
  events : List DryEvent
  land : List (LandE × Nat)
  /-- Tokens that are always there, as logical core and token: what NMU records signal. -/
  given : List (Nat × Nat)
  /-- Transfers issued so far, and the ac in which each yield point was released. -/
  sent : Nat
  begins : List Nat
  /-- A count rose above 65,535, or nothing could happen before every stream ended. -/
  failed : Bool
  done : Bool
deriving DecidableEq, Repr

/-- The window of a transfer in ns at class 0: lower and upper bound for one granule (Table 3-6, R306, R139). -/
def windowNs (target : Nat) (write ldp : Bool) : Nat × Nat :=
  match target with
  | 0 => (70, 200)
  | 1 => (25, 60)
  | 3 => (85, if ldp then 3100 else 1550)
  | 4 => (105, 2320)
  | 5 => (80, 2300)
  | _ => if write then (80, 2300) else (85, 2300)

/-- ac of a time in ns at 1.25 GHz. -/
def refAc (ns : Nat) : Nat := ceilDiv (ns * 5) 4

/-- The completion of mesh transfer `n`, of `g` granules, issued at ac `t` (R138 to R140). -/
def dryComplete (m : DryMode) (n t g rho : Nat) (w : Nat × Nat) : Option Nat :=
  match m with
  | .early => some (t + refAc w.1)
  | .hold k => if k = n then none else some (t + refAc w.1)
  | .late => none
  | .reference => some (t + refAc (w.2 + (if rho = 0 then 0 else ceilDiv ((g - 1) * 1000) rho)))

/-- The timing of any instruction in the dry run: occupancy, release, fixed latency or none, hold. -/
def dryTiming (i : Image) (c : DryCore) (compat : Bool) (u : Nat) (e : Engine) : Timing :=
  let q := c.core.sq.prog
  match transferDesc u e with
  | none => q.timing compat e
  | some (d, _) =>
    let ds := match e with
      | .ldp _ f => q.desc f.descData.toNat
      | .halo _ f => q.desc f.descLocal.toNat
      | _ => q.desc d.toNat
    let g := match e with
      | .ldp .. => ds.rows.toNat + ds.rows.toNat / 32
      | _ => ds.granules
    let loc := match i.region (q.desc d.toNat).region.toNat with
      | some r => r.isLocal (clusterOf c.logical)
      | none => true
    let direct := match e with
      | .st _ f => f.mode == 0
      | _ => true
    ⟨g, g, if loc && direct then some (24 + g) else none, none, g⟩

/-- Where a store to a cluster buffer lands: cluster, first granule, count; `d` its memory-side descriptor. -/
def Image.landsAt (i : Image) (c : Nat) (d : Desc) (loops : List Frame) : Option (Nat × Nat × Nat) :=
  (i.region d.region.toNat).bind fun r =>
    if r.kind = 7 then
      let b := r.base * 256 + (d.loc loops 0).memOff.toNat
      some (r.clusterOf (clusterOf c), b / 256, (b + max d.bytes 1 - 1) / 256 + 1 - b / 256)
    else none

/-- Events of an instruction issued at ac `t` by unit `u`, after `n` transfers. -/
def dryEvents (i : Image) (m : DryMode) (br n : Nat) (c : DryCore) (u t : Nat) (e : Engine) (tm : Timing) :
    List DryEvent :=
  let q := c.core.sq.prog
  let rel := e.header.sigs 0
  let done := e.header.sigs 1
  let at0 := if rel.isEmpty then [] else [⟨some (t + tm.rel), c.logical, u, rel, false, none⟩]
  match tm.lat with
  | some l => at0 ++ [⟨some (t + l), c.logical, u, done, true, none⟩]
  | none =>
    let g := (transferDesc u e).bind fun d => (i.region (q.desc d.1.toNat).region.toNat).map fun r => (d, r)
    match g with
    | none => at0 ++ [⟨some (t + tm.occ), c.logical, u, done, true, none⟩]
    | some ((d, w), r) =>
      let target := (targetOf c.logical e r).getD 2
      let isL := match e with | .ldp .. => true | _ => false
      let rho := ((i.reservs.filter fun x => x.bracket == br && x.core == c.logical && x.unit == u && x.target == target).map
        (·.rate)).sum
      let win := windowNs target w isL
      let win := match e with
        | .st _ f => if f.mode = 1 then (win.1, win.2 + 10000) else win
        | _ => win
      let lands := if w then i.landsAt c.logical (q.desc d.toNat) (c.core.sq.unit u).loops else none
      at0 ++ [⟨dryComplete m n t tm.granules rho win, c.logical, u, done, true, lands⟩]

/-- A function applied to a core of the dry run. -/
def Dry.modCore (d : Dry) (c : Nat) (f : DryCore → DryCore) : Dry :=
  { d with cores := d.cores.map fun k => if k.logical = c then f k else k }

/-- A signal on a token of a core, visible from `vis`; the run fails on an overflow. -/
def Dry.signal (d : Dry) (c k inc vis : Nat) : Dry :=
  if d.given.contains (c, k) then d
  else match d.cores.find? fun x => x.logical == c with
  | none => d
  | some x =>
    match (x.core.sq.token k).raised 0 inc vis with
    | none => { d with failed := true }
    | some v => d.modCore c fun x => { x with core := { x.core with sq := x.core.sq.setToken k v } }

/-- Granules land in a cluster at ac `t`: the bound counters count and signal (R130, 8 ac at most). -/
def Dry.landed (d : Dry) (m : DryMode) (t k first n : Nat) : Dry :=
  let hit := fun (l : LandE) => if 4 * l.die + l.cluster = k then
    ((rangeFrom first n).filter fun g => decide (l.start ≤ g) && decide (g < l.start + l.granules)).length else 0
  let late := if m.soon then 1 else 8
  let d' := { d with land := d.land.map fun e => (e.1, (e.2 + hit e.1) % max e.1.threshold 1) }
  d.land.foldl (fun a e =>
    let times := (e.2 + hit e.1) / max e.1.threshold 1
    if times = 0 then a else a.signal (8 * k + e.1.core) e.1.token times (t + late)) d'

/-- An event takes place at ac `t`. -/
def Dry.fire (d : Dry) (m : DryMode) (t : Nat) (e : DryEvent) : Dry :=
  let d := e.sigs.foldl (fun d g =>
    if g.inc = 0 then d
    else if g.remote = 1 then d.signal (clusterOf e.core * 8 + g.core.toNat) g.token.toNat g.inc.toNat (t + 4)
    else d.signal e.core g.token.toNat g.inc.toNat (t + 1)) d
  let d := if e.ends then d.modCore e.core fun c => { c with flying := c.flying - 1 } else d
  match e.lands with
  | some (k, first, n) => d.landed m t k first n
  | none => d

/-- The earliest unit that can issue: ac, core, unit, instruction. -/
def Dry.nextIssue (d : Dry) : Option (Nat × Nat × Nat × Engine) :=
  (d.cores.flatMap fun c => (List.range 5).filterMap fun u =>
    match c.core.sq.head u with
    | none => none
    | some e => match c.core.sq.issueAt u e with
      | none => none
      | some (t, _) => if c.core.sq.outbid u t e.header then none else some (t, c.logical, u, e)).foldl
    (fun b x => match b with | none => some x | some y => if x.1 < y.1 then some x else some y) none

/-- The earliest event: ac and index. -/
def Dry.nextEvent (d : Dry) : Option (Nat × Nat) :=
  (d.events.zipIdx.filterMap fun e => e.1.at_.map fun t => (t, e.2)).foldl
    (fun b x => match b with | none => some x | some y => if x.1 < y.1 then some x else some y) none

/-- The largest ac any unit of a core has reached. -/
def Dry.horizon (d : Dry) : Nat :=
  (d.cores.map fun c => (List.range 5).foldl (fun a u => max a (c.core.sq.unit u).nextIssue) c.core.ac).foldl max 0

/-- A core of the dry run with its given tokens at their largest count, visible from ac `vis`. -/
def Core.refill (k : Core) (given : List (Nat × Nat)) (vis : Nat) : Core :=
  { k with sq := given.foldl (fun q g => q.setToken g.2 ⟨65535, if vis = 0 then [] else [(vis, 65535)]⟩) k.sq }

/-- The ac from which given tokens are visible after a command sent in ac `t`: at once, or for the reference times at the upper
bound that the contract entry of the segment counts for its windows (R145, R599; log entry 21). -/
def Image.givenVis (i : Image) (m : DryMode) (br seg t : Nat) : Nat :=
  match m with
  | .reference => t + refAc (((i.contractOf br).find? fun e => e.segment == seg).map ContractE.wNs |>.getD 0)
  | _ => 0

/-- True for an ST of mode 2, which sends an NMU command. -/
def sendsCommand : Engine → Bool
  | .st _ f => f.mode == 2
  | _ => false

/-- Unit `u` of a core issues at ac `t`. -/
def Dry.issue (d : Dry) (i : Image) (m : DryMode) (br : Nat) (compat : Bool) (t c u : Nat) (e : Engine) : Dry :=
  match d.cores.find? fun x => x.logical == c with
  | none => d
  | some x =>
    let tm := if isBarrier e then ⟨0, 0, some 0, none, 0⟩ else dryTiming i x compat u e
    let evs := if isBarrier e then [] else dryEvents i m br d.sent x u t e tm
    let mine := d.given.filter fun g => g.1 == c
    -- A wait takes nothing from a given token; a command makes every given token wait for its records.
    let vis := fun (y : DryCore) => match mine with
      | g :: _ => ((y.core.sq.token g.2).pend.map (·.1)).foldl max 0
      | [] => 0
    let d := if sendsCommand e then
        { d with cores := d.cores.map fun y => { y with
          core := y.core.refill (d.given.filter fun g => g.1 == y.logical) (i.givenVis m br d.begins.length t) } }
      else d
    let d := { d with sent := if (transferDesc u e).isSome then d.sent + 1 else d.sent }
    let d := d.modCore c fun y => { y with
      core := (y.core.issued u t e tm).refill mine (vis y), flying := y.flying + (evs.filter (·.ends)).length
      issues := tabMod [] y.issues u (· ++ [t]) }
    { d with events := d.events ++ evs }

/-- A core that has reached its barrier: every unit stopped there and nothing in flight (R146). -/
def DryCore.arrived (c : DryCore) : Bool :=
  c.flying == 0 && (List.range 5).all fun u => match (c.core.sq.unit u).halt with
    | .atYield .. | .atEnd => true
    | _ => false

/-- A core at the end of its streams. -/
def DryCore.ended (c : DryCore) : Bool := (List.range 5).all fun u => decide ((c.core.sq.unit u).halt = .atEnd)

/-- Every core leaves the yield point at ac `t`: YIELD signals take effect, units go on (R123, R146). -/
def Dry.release (d : Dry) (t : Nat) : Dry :=
  let d := { d with begins := d.begins ++ [t] }
  d.cores.foldl (fun d c =>
    let heads := (List.range 5).filterMap fun u => (c.core.sq.head u).map fun e => (u, e)
    let d := heads.foldl (fun d h => d.fire .early t ⟨none, c.logical, h.1, h.2.header.sigs 0 ++ h.2.header.sigs 1, false, none⟩) d
    d.modCore c.logical fun c => { c with core := { c.core with sq := (List.range 5).foldl (fun q u =>
      let v := q.unit u
      q.setUnit u { v.advance with halt := .running, nextIssue := max t v.nextIssue, issued := v.issued }) c.core.sq } }) d

/-- Every token except T63 holds its initial value (R128). -/
def DryCore.restored (given : List (Nat × Nat)) (c : DryCore) : Bool :=
  (List.range 63).all fun k => given.contains (c.logical, k) ||
    (c.core.sq.token k).count == c.core.sq.prog.tokens.getD k 0

/-- One advance of the dry run. -/
def Dry.advance (d : Dry) (i : Image) (m : DryMode) (br : Nat) (compat : Bool) : Dry :=
  let ev := fun (d : Dry) (t k : Nat) => match d.events[k]? with
    | some e => ({ d with events := d.events.eraseIdx k }).fire m t e
    | none => d
  match d.nextEvent, d.nextIssue with
  | some (te, k), some (ti, c, u, e) => if te ≤ ti then ev d te k else d.issue i m br compat ti c u e
  | some (te, k), none => ev d te k
  | none, some (ti, c, u, e) => d.issue i m br compat ti c u e
  | none, none =>
    if !d.events.isEmpty then ev d d.horizon 0
    else if d.cores.all DryCore.ended then { d with done := true }
    else if d.cores.all DryCore.arrived then d.release (d.horizon + (if m.soon then 0 else refAc 1500))
    else { d with failed := true }

/-- The run, with a bound on its advances. -/
def Dry.run (i : Image) (m : DryMode) (br : Nat) (compat : Bool) : Nat → Dry → Dry
  | 0, d => d
  | fuel + 1, d => if d.failed || d.done then d else Dry.run i m br compat fuel (d.advance i m br compat)

/-- The sequencing state of a program at step start (R142). All five units start in ac 0: R142 does not say that the others wait
for the sequencer's BRB (DESIGN CHOICE: log entry 194). -/
def Program.start (q : Program) : Seqr :=
  { prog := q
    units := (List.range 5).map fun u => (u, ⟨0, [], 0, .running, 0⟩)
    tokens := (List.range 64).foldl (fun t k => tabSet Token.zero t k ⟨q.tokens.getD k 0, []⟩) []
    flights := [], holds := [], late := [] }

/-- The logical core of a landing entry. -/
def LandE.logical (l : LandE) : Nat := (4 * l.die + l.cluster) * 8 + l.core

/-- True when a store of the bracket lands in the granules that a landing entry counts. -/
def Image.storeFed (i : Image) (br : Nat) (l : LandE) : Bool :=
  (i.progsOf br).any fun p => (p.program.occurs 4).any fun o => match transferDesc 4 o.instr with
    | some (d, true) => match i.landsAt p.core (p.program.desc d.toNat) o.loops with
      | some (k, first, n) => k == 4 * l.die + l.cluster && decide (max first l.start < min (first + n) (l.start + l.granules))
      | none => false
    | _ => false

/-- Landing entries of a bracket that no store feeds, in a bracket that sends NMU commands: their counts are the NMUs'. -/
def Image.givenLandings (i : Image) (br : Nat) : List LandE :=
  let nmu := (i.progsOf br).any fun p => (p.program.stream 4).any fun e => match e with
    | .st _ f => f.mode == 2
    | _ => false
  if nmu then i.landings.filter fun l => l.bracket == br && !i.storeFed br l else []

/-- Their tokens, by logical core. -/
def Image.givenTokens (i : Image) (br : Nat) : List (Nat × Nat) := (i.givenLandings br).map fun l => (l.logical, l.token)

/-- The dry run of a bracket before its first ac. Given tokens start at their largest count. -/
def Image.dryStart (i : Image) (m : DryMode) (br : Nat) : Dry :=
  let given := i.givenTokens br
  { cores := (i.progsOf br).map fun p =>
      ⟨p.core, ({ Core.idle with sq := p.program.start }).refill (given.filter fun g => g.1 == p.core) (i.givenVis m br 0 0), 0, []⟩
    events := []
    land := (i.landings.filter fun l => l.bracket == br && !given.contains (l.logical, l.token)).map fun l => (l, 0)
    given := given, sent := 0, begins := [], failed := false, done := false }

/-- Enough advances for a bracket: every instance, its events, and its barriers. -/
def Image.dryFuel (i : Image) (br : Nat) : Nat :=
  4 * (((i.progsOf br).map fun p => ((List.range 5).map fun u => dynLength (p.program.stream u)).sum).sum + 1) +
    ((i.bracketE br).map BracketE.segments).getD 1 + 4

/-- The dry run of a bracket in one mode. -/
def Image.dry (i : Image) (m : DryMode) (br : Nat) : Dry :=
  Dry.run i m br i.compiledCompat (i.dryFuel br) (i.dryStart m br)

/-- A dry run that ended well (R189). -/
def Dry.passes (d : Dry) : Bool :=
  d.done && !d.failed && d.cores.all fun c => c.restored d.given

/-- True when R190 holds: a token that a landing counter or another cluster can signal has waits of one unit only. -/
def Image.singleWaiters (i : Image) (br : Nat) : Bool :=
  (i.landings.filter fun l => l.bracket == br).all fun l =>
    match (i.progsOf br).find? fun p => p.core == (4 * l.die + l.cluster) * 8 + l.core with
    | none => true
    | some p => decide (((List.range 5).filter fun u => (p.program.stream u).any fun e =>
        e.header.waitCount != 0 && e.header.waitToken.toNat == l.token).length ≤ 1)

/-- Check 14 of a bracket: the dry run passes whatever the order in which transfers complete (R189; log entry 20). -/
def Image.dryOk (i : Image) (br : Nat) : Bool :=
  let early := i.dry .early br
  i.singleWaiters br && early.passes && (i.dry .late br).passes &&
    (List.range early.sent).all fun n => (i.dry (.hold n) br).passes

/-- The reference times of a bracket (R599). -/
def Image.refsOf (i : Image) (br : Nat) : List RefTimes :=
  let d := i.dry .reference br
  d.cores.flatMap fun c => (List.range 5).map fun u =>
    let acs := tabGet [] c.issues u
    let os := ((i.program br c.logical).occurs u).zip acs
    let keys := os.filterMap fun x => match x.1.instr with
      | .st _ f => if f.mode = 1 then (i.colls.find? (·.index == f.coll.toNat)).map fun e => (e.orderKey, x.2) else none
      | _ => none
    ⟨br, c.logical, u, acs, 0 :: d.begins, keys⟩

/-- Check 14: the dry run of every bracket. -/
def check14 (b : List Byte) (i : Image) : Option Nat :=
  firstAt ((records b 1 128).map fun r => (r.at_, !i.dryOk (r.f 0 1)))

end Sys2Proof.Machine
end

