-- ==== Sys2Proof/Machine/Sched.lean ====
section
/-! DEFINITION. Planned lengths (03 R145), the choice of a bracket (04 Table 4-15, 05 R212), the records of a client
(13 Table 13-5), admission (13 R429 to R435, 09 R311, R312, R325, R326, R332, 12 R412 to R415). -/

namespace Sys2Proof.Machine

/-- Bit `k` of a number as a number. -/
def boolNat (b : Bool) (v : Nat) : Nat := if b then v else 0

/-! ### Planned lengths -/

/-- len(img, b, j) of R432. -/
def Image.planned (i : Image) (f c b j : Nat) : Nat :=
  (((i.contractOf b).filter fun e => decide (j ≤ e.pass)).map fun e => segPlanned f c e.aAc e.wNs).sum

/-- The planned length of segment `n` of a bracket. -/
def Image.segLength (i : Image) (f c b n : Nat) : Nat :=
  match (i.contractOf b).find? fun e => e.segment == n with
  | some e => segPlanned f c e.aAc e.wNs
  | none => 0

/-- P of R432 from pass `j` on. -/
def Image.stepLength (i : Image) (f c b j : Nat) : Nat := 5000 + i.planned f c b j + 3000

/-- The class admission uses for an image (R311): the highest among the stacks it is charged on; class 0 for one that is charged on
none (DESIGN CHOICE: log entry 221). -/
def State.admClass (s : State) (i : Image) : Nat := (i.charged.map s.stackClass).foldl max 0

/-! ### Brackets and images -/

/-- True when partition `p` holds a degraded cluster (R44). -/
def State.holdsDegraded (s : State) (p : Nat) : Bool :=
  (setBits 64 (s.num (0x2100 + p) 1)).any fun k => !s.clusterFenced k && (s.fencedIn k).length == 2

/-- True when a bracket fits a stated size, the clusters of partition `p` and the placement of its cores (Table 4-15); a
degraded bracket only in a partition that holds a degraded cluster (R218). -/
def State.fits (s : State) (p : Nat) (e : BracketE) (size : List Nat) : Bool :=
  (!e.flags.testBit 0 || s.holdsDegraded p) && (List.range 4).all (fun k => decide (size.getD k 0 ≤ e.limits.getD k 0)) &&
    e.cores.all fun c => (s.num (0x2100 + p) 1).testBit (clusterOf c) && match s.physNext c with
      | some pc => decide (e.accBanks ≤ s.logicalBanks pc)
      | none => false

/-- The first bracket of an image that fits (R142). -/
def State.chooseBracket (s : State) (p : Nat) (i : Image) (size : List Nat) : Option BracketE :=
  i.brackets.find? fun e => s.fits p e size

/-- The ready slot that holds an image's fallback (Table 4-12, check 23); none when there is none or it is suspended. -/
def State.fallbackSlot (s : State) (p : Nat) (i : Image) : Option Nat :=
  if i.fallbackId = 0 then none
  else (List.range 64).find? fun k =>
    s.num (0x4000 + k) 5 == 2 && s.num (0x4000 + k) 3 == p && (s.imageOf k).id == i.fallbackId

/-- True when an image's streams contain an SFN of a function named in R262. -/
def Image.usesCompat (i : Image) : Bool :=
  i.programs.any fun c => (c.program.stream 2).any fun e => match e with
    | .sfn _ f => sfnIsCompat f.func.toNat
    | _ => false

/-- The argument slots an image's kind-3 regions reference. -/
def Image.argSlots (i : Image) : List Nat := (i.regions.filter fun g => g.kind == 3).map (·.ref)

/-! ### Records -/

/-- What a record says beyond the request (Table 13-5). -/
structure Record where
  outcome : Nat
  cause : Nat
  reason : Nat
  accept : Nat
  bound : Nat
  endTime : Nat
  queueWait : Nat
  collWait : Nat
  excused : Nat
  parked : Nat
  flags : Nat
  bracket : Nat
  slot : Nat
  dodgePass : Nat
  detail : Nat
  unit : Nat
deriving DecidableEq, Repr

/-- A saturating U32. -/
def sat32 (n : Nat) : Nat := min n 0xFFFFFFFF

/-- The bytes of a record. -/
def Record.bytes (r : Record) (q : Request) : List Byte :=
  leBytes 4 q.seq ++ leBytes 1 r.outcome ++ leBytes 1 r.cause ++ leBytes 2 r.reason ++ leBytes 8 q.tag ++
    leBytes 8 r.accept ++ leBytes 8 r.bound ++ leBytes 8 r.endTime ++ leBytes 4 (sat32 r.queueWait) ++
    leBytes 4 (sat32 r.collWait) ++ leBytes 4 (sat32 r.excused) ++ leBytes 4 (sat32 r.parked) ++ leBytes 2 r.flags ++
    leBytes 1 r.bracket ++ leBytes 1 r.slot ++ leBytes 1 r.dodgePass ++ leBytes 1 r.detail ++ leBytes 2 r.unit

/-- A record waiting to be written to a client's ring (R437); its MSI-X message when the request asks for it. -/
def State.record (s : State) (q : Request) (r : Record) : State :=
  s.modClient q.client fun c => { c with waiting := c.waiting ++ [(r.bytes q, q.flags.testBit 3)] }

/-- The record of a request that was not accepted. -/
def Record.refusal (now cause reason slot : Nat) : Record :=
  { outcome := 2, cause := cause, reason := reason, accept := 0, bound := 0, endTime := now, queueWait := 0
    collWait := 0, excused := 0, parked := 0, flags := 0, bracket := 0, slot := slot, dodgePass := 0xFF, detail := 0
    unit := 0 }

/-- A request is refused (R433, Table 20-2 kind 0x15): the record, the count, the event. -/
def State.refuseRequest (s : State) (q : Request) (cause reason : Nat) : State :=
  let p := s.num (clientObj q.client) 2
  let s := (s.record q (.refusal s.now cause reason q.slot)).bump (clientObj q.client) 0x13 1
  if cause = 1 then
    s.raise { Event.of 0x15 s.conductorUnit (objKey (clientObj q.client) 1) with
      reason := reason, part := some p, step := some q.seq }
  else s

/-! ### Admission -/

/-- The priority and kind of a client. -/
def State.priority (s : State) (n : Nat) : Nat := s.num (clientObj n) 0x0C
def State.isBackfill (s : State) (n : Nat) : Bool := s.num (clientObj n) 0x0D == 1

/-- The planned time left in the segment a step is running (R432). -/
def State.restOf (s : State) (x : Step) : Nat := x.segEnd - s.now

/-- The remaining bound of the running backfill step of a partition (R312). -/
def State.backfillRest (s : State) (p : Nat) : Nat :=
  match (s.part p).backfill.find? fun x => decide (x.stage = .running) with
  | some x => x.bound - s.now
  | none => 0

/-- What admitting a primary step waits for a running backfill step (R413). -/
def State.backfillDelay (s : State) (p client : Nat) : Nat :=
  match (s.part p).backfill.find? fun x => decide (x.stage = .running) with
  | none => 0
  | some x =>
    if s.eff p (0x6300 + p) 3 = 1 ∧ s.eff p (0x6300 + p) 1 = client then s.restOf x + s.num (0x4100 + p) 1
    else x.bound - s.now

/-- The outcome of the timing check: where the step goes in Q_p, its start T_s, and d; or the code it fails with. -/
structure Fit where
  code : Nat
  pos : Nat
  start : Nat
  delay : Nat
  preempts : Bool
deriving DecidableEq, Repr

/-- The timing check of R432 for a step of planned length `len`. -/
def State.timing (s : State) (p client deadline len : Nat) : Fit :=
  let q := (s.part p).queue
  -- After the last step whose priority is at least the client's.
  let pos := (q.reverse.dropWhile fun x => decide (s.priority x.req.client < s.priority client)).length
  let pk := s.num (0x4100 + p) 1
  let wait := s.backfillDelay p client
  -- The planned end of a step accepted before the running backfill step started leaves that one out.
  let late := fun (x : Step) => if (s.part p).backfill.any fun y => decide (y.stage = .running) && decide (x.acceptTime < y.startTime)
    then wait else 0
  let w : Nat × Nat × Bool := match q with
    | [] => (s.now + wait, 0, false)
    | r :: _ =>
      match (q.take pos).getLast? with
      | some x => (x.planned + late x, len, false)
      | none => (s.now + (if r.stage = .running then s.restOf r else wait) + pk, len + 2 * pk, true)
  let b := w.1 + len
  let moved := q.drop pos
  let total := match q.getLast? with
    | some x => max b (x.planned + w.2.1 + late x)
    | none => b
  let code :=
    if deadline ≠ 0 ∧ deadline < b then 0x0423
    else if moved.any fun x => !x.breach && decide (x.bound < x.planned + w.2.1) then 0x0423
    else if 200000000 < total - s.now + (s.backfillRest p - wait) then 0x0424
    else 0
  ⟨code, pos, w.1, w.2.1, w.2.2⟩

/-- The timing check of a backfill step, which is not in Q_p and whose bound counts from its start (R412, R414): its
deadline alone (DEDUCED: log entry 19). -/
def State.timingBackfill (s : State) (deadline len : Nat) : Fit :=
  ⟨if deadline ≠ 0 ∧ deadline < s.now + len then 0x0423 else 0, 0, s.now, 0, false⟩

/-- The value an object reads as for a partition: what applied and pending overlays give, or the value written
(R533). It is the value the next step runs under. -/
def State.asRead (s : State) (p o sub : Nat) : Nat := (s.overlaid p o sub).getD (s.num o sub)

/-- Bytes of a ring that accepted steps have reserved and not yet written (R332). -/
def State.ringReserved (s : State) (w : Nat) : Nat :=
  ((List.range 16).map fun p => ((s.part p).steps.map fun x =>
    ((x.exports.filter fun e => e.1 == w).map (·.2)).sum).sum).sum

/-- The free bytes of an export window's ring after the steps already accepted (R332). -/
def State.ringFree (s : State) (w : Nat) : Nat :=
  let e := tabGet Export.idle s.exports w
  s.num (0x5700 + w) 4 * 2 ^ 20 - (e.written - e.acked) - s.ringReserved w

/-- The frame of a tier page of a set, by window and page, when it is resident for a partition in its window's generation
(R325, R329). -/
def State.resident (s : State) (p key : Nat) : Option Nat :=
  (s.tier.find? fun t => t.part == p && t.window == key / 2 ^ 52 && t.page == key % 2 ^ 52 &&
    t.generation == s.num (0x5600 + key / 2 ^ 52) 4).map TierPage.frame

/-- What admission finds for a request on one image. -/
inductive Verdict where
  | refuse (code : Nat)
  | hold (missing : List Nat)
  | accept (bracket : BracketE) (len : Nat) (fit : Fit)
deriving DecidableEq, Repr

/-- Checks 6 to 9 of Table 13-4 on the image of slot `k`, from pass 0. -/
def State.checkImage (s : State) (p : Nat) (q : Request) (k : Nat) : Verdict :=
  let i := s.imageOf k
  match s.chooseBracket p i q.size with
  | none => .refuse 0x0421
  | some e =>
    let pages := i.tierPages e.bracket
    let missing := pages.filter fun g => (s.resident p g).isNone
    if !missing.isEmpty then .hold missing
    else if (i.exportBytes e.bracket).any fun w => decide (s.ringFree w.1 < w.2) then .refuse 0x0308
    else
      let len := i.stepLength s.admClock (s.admClass i) e.bracket 0
      let fit := if s.isBackfill q.client then s.timingBackfill q.deadline len else s.timing p q.client q.deadline len
      if fit.code ≠ 0 then .refuse fit.code else .accept e len fit

/-- Checks 1 to 5 of Table 13-4: the code that fails, or 0. -/
def State.checkRequest (s : State) (p : Nat) (q : Request) : Nat :=
  let i := s.imageOf q.slot
  if q.malformed || decide (63 < q.slot) then 0x0420
  else if s.num (0x4000 + q.slot) 5 ≠ 2 ∨ s.num (0x4000 + q.slot) 3 ≠ p ∨ i.flags.testBit 0 then 0x0422
  else if i.usesCompat ∧ i.compiledCompat ≠ (s.asRead p 0x2020 2 == 1) then 0x041F
  else if (i.argSlots.any fun g => !(q.args.getD g .none).bound) ||
    q.args.any (fun a => a.bound && (decide (a.len % 2 ≠ 0) || decide (a.base % 256 ≠ 0))) then 0x0425
  else if q.args.any fun a => a.bound && !s.inPool p a.base a.len then 0x030A
  else 0

/-- The step that an accepted request becomes. -/
def State.newStep (s : State) (q : Request) (k : Nat) (e : BracketE) (len : Nat) (fit : Fit) : Step :=
  let i := s.imageOf k
  let bf := s.isBackfill q.client
  { req := q, stage := .queued, slot := k, bracket := e.bracket, onFallback := decide (k ≠ q.slot), backfill := bf
    acceptTime := s.now, bound := if bf then len else fit.start + len, planned := if bf then len else fit.start + len
    cls := s.admClass i, classes := (List.range 24).map s.stackClass, clock := s.admClock
    startTime := 0, started := false, queueWait := 0, collWait := 0, excused := 0, parkedNs := 0, parkedAt := 0
    segment := 0, segEnd := 0, arrived := [], atEnd := false, breach := false, dodgePass := none, replayed := false
    rollback := false, preempted := false, preemptReq := false, fail := none, replayReq := false, fenced := false
    pins := (i.tierPages e.bracket).filterMap (s.resident (s.num (clientObj q.client) 2)), exports := i.exportBytes e.bracket, savedCores := [], savedClusters := []
    insts := [], oldInsts := [], waitBase := 0, nmuOpen := [], runs := 0, peerWait := 0, thermNs := 0, busyNs := 0
    arrivedAt := 0, leaving := [], rollReq := false, determ := false, compat := false, speculative := false
    mapGen := 0, mapRetired := [] }

/-- The pages in some frames pinned once more (`up`), or once less (R325). -/
def State.pinPages (s : State) (frames : List Nat) (up : Bool) : State :=
  { s with tier := s.tier.map fun t =>
      if frames.contains t.frame then { t with pins := if up then t.pins + 1 else t.pins - 1, lastUse := s.now } else t }

/-- Unpinned pages of an older generation leave the tier cache (R329). -/
def State.dropStale (s : State) : State :=
  { s with tier := s.tier.filter fun t => t.pins != 0 || t.generation == s.num (0x5600 + t.window) 4 }

/-- Flags of a record that a step carries from acceptance (Table 13-5). -/
def Step.recFlags (x : Step) : Nat :=
  boolNat x.breach 1 + boolNat x.dodgePass.isSome 2 + boolNat x.onFallback 4 + boolNat x.replayed 8 +
    boolNat x.rollback 16 + boolNat x.backfill 64 + boolNat x.preempted 128 +
    boolNat ((x.fail.bind (·.unit)).isSome) 256

/-- A contract-breach event of kind 0x07 for partition `p` (Table 20-2): cause 1 thermal emergency, 2 debug overlay, 3
host port stall. -/
def State.breach7 (s : State) (p cause unit detail : Nat) : State :=
  s.raiseBreach p (.of 0x07 unit (cause + detail * 256))

/-- While a step runs, the other halves of the instruction stores take the streams of the next step admitted on the partition
(R119, R148): the first of Q_p that has not started. -/
def State.prefetch (s : State) (p : Nat) : State :=
  match (s.part p).queue.find? (fun y => decide (y.stage = .queued)), s.running p with
  | some y, some _ =>
    let i := s.imageOf y.slot
    let s := s.forEach (s.stepCores y) fun s c => match s.physOf c with
      | none => s
      | some pc => s.modCore pc fun k => { k with other := i.program y.bracket c }
    s.modPart p fun q => { q with prefetched := some y.req.seq }
  | _, _ => s.modPart p fun q => { q with prefetched := none }

/-- A step accepted while P0 is stalled: one breach event for each partition that accepts one before the stall ends (R488). -/
def State.stallTells (s : State) (p : Nat) : State :=
  if !s.stalled then s
  else if s.host.stallTold.contains p then (if s.debugOn p then s else s.markBreach p)
  else ({ s with host := { s.host with stallTold := s.host.stallTold ++ [p] } } : State).breach7 p 3 s.conductorUnit 0

/-- A request is accepted (R433): the step inserted, the later planned ends moved, its pages pinned, the running step
asked to yield, the acceptance record, and the breach of a stall that lasts (Table 3-8). -/
def State.acceptRequest (s : State) (p : Nat) (q : Request) (k : Nat) (e : BracketE) (len : Nat) (fit : Fit) : State :=
  let x := s.newStep q k e len fit
  let s := s.pinPages x.pins true
  let s := s.modPart p fun t =>
    if x.backfill then { t with backfill := t.backfill ++ [x] }
    else
      let head := t.queue.take fit.pos
      let tail := (t.queue.drop fit.pos).map fun y => { y with
        planned := y.planned + fit.delay
        preemptReq := y.preemptReq || (fit.preempts && decide (y.stage = .running)) }
      let t := { t with queue := head ++ [x] ++ tail }
      if s.eff p (0x6300 + p) 3 = 1 ∧ s.eff p (0x6300 + p) 1 = q.client then
        { t with backfill := t.backfill.map fun y =>
            if y.stage = .running ∨ y.stage = .replay then { y with preemptReq := true } else y }
      else t
  let s := s.prefetch p
  let s := if s.num (clientObj q.client) 0x0E = 1 then
      s.record q
        { outcome := 3, cause := 0, reason := 0, accept := x.acceptTime, bound := x.bound, endTime := 0, queueWait := 0
          collWait := 0, excused := 0, parked := 0, flags := x.recFlags, bracket := x.bracket, slot := x.slot
          dodgePass := 0xFF, detail := 0, unit := 0 }
    else s
  s.stallTells p

/-! ### Tier fills (09 R323, R326 to R329) -/

/-- The window `w`'s targets (R323, R495). -/
def windowTargets (b : List Byte) : List Nat := (chunksOf 4 (b.length / 4) b).map leNat

/-- Fabric ports of a mask in service (`0x6000+n:01`) that may carry UIO traffic (R497): P0 carries none (Table 15-2). -/
def State.portsUp (s : State) (mask : Nat) : List Nat :=
  (setBits 8 mask).filter fun n => n != 0 && s.num (0x6000 + n) 1 == 1 && s.keyed n

/-- The port by which page `page` of a window goes, its objects those of `o`, its mask `mask` (R327, R331); 0xFF when none of the
mask is in service. -/
def State.pagePort (s : State) (o mask page : Nat) : Nat :=
  let n := max (windowTargets (s.blob o 5)).length 1
  let ports := s.portsUp mask
  ports.getD (page / n % max ports.length 1) 0xFF

/-- The port that a fill of a page uses: P0 for a T3 window. -/
def State.fillPort (s : State) (w page : Nat) : Nat :=
  let o := 0x5600 + w
  if s.num o 1 = 2 then 0 else s.pagePort o (s.num o 6) page

/-- The read of a page of a T2 window through port `n` (R496). -/
def State.farFetch (s : State) (w page n : Nat) : State :=
  let o := 0x5600 + w
  let ts := windowTargets (s.blob o 5)
  let k := max ts.length 1
  s.emit (.farRead n (ts.getD (page % k) 0) (s.num o 2 + 4096 * (page / k)) 4096)

/-- The read that fetches a page of a tier window: from host memory, or from its target through its port (R327). -/
def State.fetchPage (s : State) (w page : Nat) : State :=
  let o := 0x5600 + w
  if s.num o 1 = 2 then s.emit (.hostRead (s.num o 2 + 4096 * page) 4096)
  else s.farFetch w page (s.fillPort w page)

/-- A fill of a page begins when none is in flight for it. -/
def State.startFill (s : State) (p key : Nat) : State :=
  let w := key / 2 ^ 52
  let page := key % 2 ^ 52
  if s.fills.any fun f => f.part == p && f.window == w && f.page == page && f.target.isNone then s
  else
    { s.fetchPage w page with fills := s.fills ++
        [{ window := w, page := page, part := p, generation := s.num (0x5600 + w) 4, started := s.now, resent := false
           target := none, len := 4096, data := none, port := s.fillPort w page }] }

/-- Admission of one request (R431): refused, held for its pages, or accepted; the fallback image when the timing
check fails and the request allows it. -/
def State.admitNow (s : State) (q : Request) : State :=
  let p := s.num (clientObj q.client) 2
  let held := fun (s : State) (missing : List Nat) =>
    (s.forEach missing fun t g => t.startFill p g).modPart p fun t => { t with held := t.held ++ [q] }
  match s.checkRequest p q with
  | 0 =>
    match s.checkImage p q q.slot with
    | .accept e len fit => s.acceptRequest p q q.slot e len fit
    | .hold m => held s m
    | .refuse code =>
      let fb := if (code = 0x0423 ∨ code = 0x0424) ∧ q.flags.testBit 0 then s.fallbackSlot p (s.imageOf q.slot) else none
      match fb with
      | none => s.refuseRequest q 1 code
      | some k => match s.checkImage p q k with
        | .accept e len fit => s.acceptRequest p q k e len fit
        | .hold m => held s m
        | .refuse c => s.refuseRequest q 1 c
  | code => s.refuseRequest q 1 code

/-- A request taken by the device enters admission; behind a held request of its client it waits (R429). -/
def State.enterRequest (s : State) (q : Request) : State :=
  let p := s.num (clientObj q.client) 2
  if (s.part p).held.any fun h => h.client == q.client then s.modPart p fun t => { t with held := t.held ++ [q] }
  else s.admitNow q

/-- Held requests are admitted again in the order in which they were taken (R326, R429). -/
def State.readmit (s : State) (p : Nat) : State :=
  let h := (s.part p).held
  s.modPart p (fun t => { t with held := [] }) |>.forEach h fun t q => t.enterRequest q

/-- First frame and number of frames of a partition's share of the tier cache; the shares of enabled partitions lie one
after another (R324, R660). -/
def State.tierFrames (s : State) (p : Nat) : Nat × Nat :=
  (s.sumOver (s.wantedParts.filter fun i => decide (i < p)) 0x5200 5 * 262144, s.num (0x5200 + p) 5 * 262144)

/-- The least recently used unpinned page of a list. -/
def lruPage (l : List TierPage) : Option TierPage := leastBy TierPage.lastUse (l.filter fun t => t.pins == 0)

/-- A frame for a new page of partition `p`: a free one, or that of the page evicted (R328); none while every page of the
share is pinned. -/
def State.takeFrame (s : State) (p : Nat) : Option (State × Nat) :=
  let (lo, n) := s.tierFrames p
  let mine := s.tier.filter fun t => t.part == p
  if mine.length < n then
    ((List.range (mine.length + 1)).map (lo + ·)).find? (fun f => mine.all fun t => t.frame != f) |>.map fun f => (s, f)
  else (lruPage mine).map fun t => ({ s with tier := s.tier.erase t }, t.frame)

/-- A fill whose page has arrived leaves; held requests are admitted again (R326). -/
def State.fillGone (s : State) (f : Fill) : State := ({ s with fills := s.fills.erase f }).readmit f.part

/-- The X-die by whose port a fill comes (Table 15-1). -/
def Fill.die (f : Fill) : Nat := xDie (f.port / 2)

/-- The page that a fill has read: discarded when its generation has changed (R329), put into the tier cache, or kept until a
step completes (R328). -/
def State.placeFill (s : State) (f : Fill) (data : List CodeWord) : State :=
  if f.generation ≠ s.num (0x5600 + f.window) 4 then s.fillGone f
  else match s.takeFrame f.part with
    | none => { s with fills := s.fills.map fun g => if g = f then { f with data := some data } else g }
    | some (s, frame) =>
      let t : TierPage :=
        { window := f.window, page := f.page, part := f.part, frame := frame, generation := f.generation, pins := 0
          lastUse := s.now }
      (({ s with tier := s.tier ++ [t] }).storeWords f.die (4096 * frame) data).fillGone f

/-- The fills of partition `p` that wait for a frame, tried again oldest first (R328). -/
def State.placeFills (s : State) (p : Nat) : State :=
  s.forEach (s.fills.filter fun f => f.part == p) fun s f => match f.data with
    | some d => if s.fills.contains f then s.placeFill f d else s
    | none => s

/-- The pages of a step that has completed are no longer pinned: those of an older generation leave, fills that wait for a
frame go on (R325, R328, R329). -/
def State.unpin (s : State) (p : Nat) (x : Step) : State := ((s.pinPages x.pins false).dropStale).placeFills p

/-- A window's generation written: its unpinned pages are invalid at once, its pinned ones when their last step completes;
what its fills in flight read is discarded, and so is what one has read (R329). A stale page or fill carries a generation
that no write can give. -/
def State.writeGeneration (s : State) (w v : Nat) : State :=
  let s := s.setNum (0x5600 + w) 4 v
  let keep := (s.tier.filter fun t => t.window != w || t.pins != 0).map fun t =>
    if t.window = w then { t with generation := 65536 } else t
  let mine := fun (f : Fill) => f.window == w && f.target.isNone
  let gone := s.fills.filter fun f => mine f && f.data.isSome
  let left := (s.fills.filter fun f => !gone.contains f).map fun f => if mine f then { f with generation := 65536 } else f
  ({ s with tier := keep, fills := left }).forEach (gone.map Fill.part).dedup State.readmit

end Sys2Proof.Machine
end

