-- ==== Sys2Proof/Machine/ImageLimits.lean ====
section
/-! DEFINITION. Load-time checks 18 to 23 of an image against its partition (04 Table 4-23; 01 R35, R44 to R46; 09 R302,
R304; 11 R370, R373, R380, R396; 13 R441; 14 R470), the re-checks of Table 4-25, and where a slot's regions lie. -/

namespace Sys2Proof.Machine

/-- The held ranks of a collective entry for a module identifier. -/
def CollE.held (e : CollE) (m : Nat) : List Nat := (e.ranks.zipIdx.filter fun r => r.1 == m).map (·.2)

/-- True when a list never falls: the STs of one collective repeat its key. -/
def ascending : List Nat → Bool
  | a :: b :: t => decide (a ≤ b) && ascending (b :: t)
  | _ => true

/-- A data format that can be reduced (R91). -/
def reducible (f : Nat) : Bool := f == 1 || f == 2 || f == 3 || f == 0xC

/-- An ST of mode 1: its bracket, its entry's index, its region, the region offset its tile ends at. -/
structure CollUse where
  bracket : Nat
  entry : Nat
  region : Nat
  top : Nat
deriving DecidableEq, Repr

/-- The STs of mode 1 of a program, in stream order. -/
def Image.collUses (i : Image) (c : CoreProg) : List CollUse :=
  (c.program.occurs 4).filterMap fun o => match o.instr with
    | .st _ f =>
      let d := c.program.desc f.desc.toNat
      let rows := ((i.region d.region.toNat).map fun g => d.memRows g o.loops).getD []
      if f.mode = 1 then some ⟨c.program.bracket, f.coll.toNat, d.region.toNat, (rows.map fun r => r.1 + r.2).foldl max 0⟩
      else none
    | _ => none

/-- Bytes of the input area of an entry on a module: the contributions of its held ranks (R370). -/
def CollE.inputArea (e : CollE) (m : Nat) : Nat :=
  ((e.held m).filter fun r => match e.operation with | 3 | 5 => r == 0 | 6 => false | _ => true).length * e.length

/-- Bytes of the instance buffer of an entry on a module: input and result areas (R369, R370). -/
def CollE.bufferBytes (e : CollE) (m : Nat) : Nat :=
  let h := e.held m
  let result := match e.operation with
    | 2 => e.ranks.length * e.length
    | 4 => h.length * e.length
    | 5 => 0
    | _ => e.length
  e.inputArea m + result

/-- STs of mode 1 that break R370: two regions for one entry in a bracket, a region of another kind or too small, or granules
outside the input area of a module that contributes (one that does not writes nothing, R371). -/
def badUses (i : Image) (e : CollE) (m : Nat) (us : List CollUse) : Bool :=
  us.any fun u => (us.any fun v => v.bracket == u.bracket && v.region != u.region) ||
    (match i.region u.region with
    | none => true
    | some g => !([1, 2].contains g.kind) || decide (g.size < e.bufferBytes m)) ||
    (e.inputArea m != 0 && decide (e.inputArea m < u.top))

/-- A collective entry that breaks R186, R373, R380 or R396. Its data_fmt counts only where it reduces (DESIGN CHOICE: log entry 230). -/
def badColl (cfg : HeldConfig) (p : Nat) (i : Image) (e : CollE) : Bool :=
  let m := cfg.num 0x6100 1
  let h := e.held m
  let n := e.ranks.length
  let c := if e.chunkBytes = 0 then 65536 else e.chunkBytes
  let adds := decide (e.operation < 2)
  let users := i.programs.flatMap fun q => (i.collUses q).filter fun u => u.entry == e.index
  let regions := users.filterMap fun u => i.region u.region
  m == 0xFFFFFFFF || h.isEmpty || decide (16 < h.length) || n == 0 || decide (6 < e.operation) ||
    e.length % 256 != 0 || e.chunkBytes % 256 != 0 || decide (4194304 < e.chunkBytes) ||
    decide (1 < (i.colls.filter fun x => x.index == e.index).length) ||
    decide (1 < (i.colls.filter fun x => x.orderKey == e.orderKey).length) ||
    ((e.operation == 5 || e.operation == 6) && (n != 2 || h != [e.operation - 5])) ||
    decide (cfg.num (0x6110 + p) 2 * 1048576 < 4 * c * (cfg.num (0x6110 + p) 1 + 1)) ||
    badUses i e m users ||
    (adds && decide (2 ≤ h.length) &&
      (let a := h.headD 0
       let w := pow2Above h.length
       h != rangeFrom a h.length || a % w != 0 || (h.length != w && a + h.length != n) ||
         (regions.any fun g => g.kind != 2) || e.length % 16384 != 0 || c % 16384 != 0))

/-- Check 18 with its code. Table 4-23 gives the check two codes and no order between them: 0x0416 goes before 0x0620 (DESIGN
CHOICE: log entry 188). -/
def State.check18 (s : State) (b : List Byte) (i : Image) (cfg : HeldConfig) (p : Nat) : Option (Nat × Nat) :=
  let rs := collRecords b
  let bad := firstAt (rs.map fun r =>
    let e := parseColl b r
    (r.at_, badColl cfg p i e || (List.range 64).any fun k =>
      s.num (0x4000 + k) 5 == 2 && s.num (0x4000 + k) 3 != p && (s.imageOf k).colls.any fun x => x.group == e.group))
  let order := firstAt ((records b 6 32).map fun r =>
    let c := parseProgram b r
    let names := (i.collUses c).map (·.entry)
    let keys := (names.filterMap fun n => (i.colls.find? fun e => e.index == n).map (·.orderKey))
    (r.at_, (names.any fun n => !i.colls.any fun e => e.index == n) || !ascending keys))
  match firstSome [bad, order] with
  | some o => some (0x0416, o)
  | none => (firstAt (rs.map fun r => let e := parseColl b r
      (r.at_, decide (e.operation < 2) && !reducible e.dataFmt))).map fun o => (0x0620, o)

/-! ### Check 19 -/

/-- Granules per µs that one edge port carries: 1.024 TB/s wire, five sixths of it data (01 R22, Table 1-13). -/
def portGranules : Nat := 3333

/-- Ports of a die in service. -/
def State.diePorts (s : State) (d : Nat) : Nat := ((List.range (portCount d)).filter fun k => !s.portOut d k).length

/-- Charges of a list of reservations on stack `k`, in 24ths of a granule per µs. -/
def Image.charges (i : Image) (f : ReservE → Bool) (k : Nat) : Nat := ((i.reservs.filter f).map fun r => i.charge r k).sum

/-- The charges of a partition's enabled codec channels on every stack, in 24ths (R470). -/
def HeldConfig.codecCharge (h : HeldConfig) (p : Nat) : Nat :=
  ((rangeFrom 0x7100 8 ++ rangeFrom 0x7200 16).map fun o =>
    if h.num o 1 = 1 ∧ h.num o 2 = p then h.num o 0x0B else 0).sum

/-- What a bracket's reservations put on the torus link of B-die `b` in direction `k`, in 24ths of a granule per µs: loads draw
their data from the far die, stores send it there (R29, R35). -/
def Image.linkLoad (i : Image) (bracket b k : Nat) : Nat :=
  ((i.reservs.filter fun r => r.bracket == bracket).map fun r =>
    let c := r.core / 32
    let crosses := fun (d : Nat) =>
      (if r.unit = 3 then route (attachB d) (attachB c) else route (attachB c) (attachB d)).contains (b, k)
    if r.target = 0 then
      if (i.drawnOn r).any fun g => crosses g.place then 24 * r.rate else 0
    else ((List.range 24).map fun m => if crosses (mDie m) then i.charge r m else 0).sum).sum

/-- Ports of a torus link in service. -/
def State.linkPorts (s : State) (b k : Nat) : Nat := ((rangeFrom (4 * k) 4).filter fun n => !s.portOut (bDie b) n).length

/-- True when every mesh transfer of a program has a reservation (R185). -/
def Image.reserved (i : Image) (c : CoreProg) : Bool :=
  (i.transfers c).all fun t => match targetOf c.core t.2.1 t.2.2 with
    | none => true
    | some g => i.reservs.any fun r => r.bracket == c.program.bracket && r.core == c.core && r.unit == t.1 &&
        r.target == g && decide (0 < r.rate)

/-- What a bracket's reservations put on the ports of C-die `d`, outward or inward, in granules per µs: its own cores draw in what
they load and send out what they store; other cores' transfers with its cluster buffers (target class 0) go the other way. Transfers
within the die use no port (R35). -/
def Image.dieLoad (i : Image) (bracket d : Nat) (outward : Bool) : Nat :=
  ((i.reservs.filter fun r => r.bracket == bracket && r.target != 1).map fun r =>
    let here := r.core / 32 == d
    let there := r.target == 0 && (i.drawnOn r).any fun g => g.place == d
    if (if (r.unit == 3) == outward then !here && there else here) then r.rate else 0).sum

/-- The bandwidth limits of check 19 (R35, R302, R304, R470), for the image of slot `k` (64: a slot being loaded). -/
def State.bandwidthOk (s : State) (i : Image) (cfg : HeldConfig) (p k : Nat) : Bool :=
  let others := (List.range 64).filter fun j => j ≠ k && s.num (0x4000 + j) 5 == 2 && s.num (0x4000 + j) 3 == p
  (i.reservs.all fun r => !outside r.unit 3 4 && decide (r.target ≤ 5) && decide (r.core < 512) && decide (0 < r.rate) &&
    (i.bracketE r.bracket).isSome) &&
  ((List.range 24).all fun m =>
    let all := i.charges (fun _ => true) m + cfg.codecCharge p
    let lat := i.charges (fun r => r.target == 3) m
    let lat' := (others.map fun j => (s.imageOf j).charges (fun r => r.target == 3) m).sum
    decide (all ≤ 24 * cfg.num (0x5200 + p) 1) && decide (lat + lat' ≤ 24 * 1920) &&
      ([3, 4].all fun u => decide (i.charges (fun r => r.unit == u) m + cfg.codecCharge p ≤ 24 * portGranules * s.diePorts (mDie m))) &&
      (cfg.num 0x5330 (sub1 m) == 0 || decide (all ≤ 24 * 5794))) &&
  ((List.range 16).all fun d => i.brackets.all fun e => [false, true].all fun o =>
    decide (i.dieLoad e.bracket d o ≤ portGranules * s.diePorts d)) &&
  (i.brackets.all fun e => (List.range 16).all fun b => (List.range 4).all fun k =>
    decide (i.linkLoad e.bracket b k ≤ 24 * portGranules * s.linkPorts b k))

/-- Check 19. -/
def State.check19 (s : State) (b : List Byte) (i : Image) (cfg : HeldConfig) (p k : Nat) : Option Nat :=
  firstSome [
    firstAt ((records b 6 32).map fun r => (r.at_, !i.reserved (parseProgram b r))),
    if s.bandwidthOk i cfg p k then none else some (((sectionOf b 4).map (·.at_)).getD 0)]

/-! ### Check 20: memory -/

/-- Granules of a partition's park area (R443). -/
def parkGranules (clusters : Nat) : Nat := 21248 * (8 * clusters) + 98304 * clusters

/-- The bytes of a partition's spread share that regions and program stores may take: the share less the park area,
the landing buffer and the argument pool. -/
def HeldConfig.roomFor (h : HeldConfig) (p : Nat) : Nat :=
  h.num (0x5200 + p) 3 * 2 ^ 30 - h.num (0x5200 + p) 6 * 2 ^ 30 - h.num (0x6110 + p) 2 * 2 ^ 20 -
    parkGranules (popCount 64 (h.num (0x2100 + p) 1)) * 256

/-- The bytes a slot takes of the spread share: its kind-1 regions and its program store. -/
def Image.spreadNeed (i : Image) (length : Nat) : Nat := ((i.regions.filter fun g => g.kind == 1).map (·.size)).sum + length

/-- The bytes of kind-2 regions on stack `m`. -/
def Image.placedNeed (i : Image) (m : Nat) : Nat := ((i.regions.filter fun g => g.kind == 2 && g.place == m).map (·.size)).sum

/-- The memory limits of check 20. -/
def State.capacityOk (s : State) (i : Image) (cfg : HeldConfig) (p k length : Nat) : Bool :=
  let others := (List.range 64).filter fun j => j ≠ k && (s.num (0x4000 + j) 5 == 2 || s.num (0x4000 + j) 5 == 4) &&
    s.num (0x4000 + j) 3 == p
  decide ((others.map fun j => (s.imageOf j).spreadNeed (s.num (0x4000 + j) 2)).sum + i.spreadNeed length ≤ cfg.roomFor p) &&
    ((List.range 24).all fun m =>
      let n := i.placedNeed m
      n == 0 || ((cfg.num (0x5200 + p) 4).testBit m &&
        decide (n + (others.map fun j => (s.imageOf j).placedNeed m).sum ≤ cfg.num 0x5000 1 * 2 ^ 30))) &&
    (i.brackets.all fun e => decide ((i.tierPages e.bracket).length * 4096 ≤ cfg.num (0x5200 + p) 5 * 2 ^ 30))

/-! ### Checks 21 to 23 -/

/-- Check 21: brackets on cores with a fenced bank need at most 15 banks. -/
def State.banksOk (s : State) (i : Image) : Bool :=
  i.brackets.all fun e => e.cores.all fun c => match s.physNext c with
    | some pc => s.logicalBanks pc == 16 || decide (e.accBanks ≤ 15)
    | none => true

/-- True when a core program holds wide-window work (R279). -/
def wideWork (c : CoreProg) : Bool :=
  (c.program.stream 1).any fun e => match e with
    | .mmab _ f =>
      let a := c.program.desc f.mat.descA.toNat
      let n := f.batch.toNat
      windowRead n a && (decide (3 < n) || decide (8192 < windowSpan n a))
    | _ => false

/-- True when a cluster has a working wide-window core. -/
def State.hasWide (s : State) (k : Nat) : Bool := match s.physNext (8 * k) with
  | some pc => wideCore (8 * k) pc
  | none => false

/-- Check 22: fenced and degraded clusters, and wide-window work (R44 to R46, R279). A bracket with cores outside the
partition passes, and fits no step (Table 4-15). -/
def State.coreMapOk (s : State) (i : Image) (cfg : HeldConfig) (p : Nat) : Bool :=
  (i.brackets.all fun e => e.cores.all fun c =>
    !s.clusterFenced (clusterOf c) &&
      decide ((s.fencedIn (clusterOf c)).length ≤ 2)) &&
  ((setBits 64 (cfg.num (0x2100 + p) 1)).all fun k => (s.fencedIn k).length != 2 ||
    i.brackets.any fun e => e.flags.testBit 0 && (e.cores.any fun c => clusterOf c == k) && !e.cores.contains (8 * k + 7)) &&
  (i.programs.all fun c => !wideWork c || s.hasWide (clusterOf c.core))

/-- True when every token of a fallback image holds its initial value at every YIELD that ends a pass (R441), by its
dry run: at each release the counts are as at the start. -/
def Image.passesClean (i : Image) : Bool :=
  i.brackets.all fun e =>
    let bad := (List.range (i.dryFuel e.bracket)).foldl (fun (a : Dry × Bool) _ =>
      if a.1.failed || a.1.done then a
      else
        let ends := a.1.events.isEmpty && a.1.cores.all DryCore.arrived && a.1.cores.all fun c =>
          match (c.core.sq.unit 0).halt with | .atYield true _ => true | _ => false
        (a.1.advance i .early e.bracket i.compiledCompat, a.2 || (ends && !a.1.cores.all fun c => c.restored a.1.given))) (i.dryStart .early e.bracket, false)
    !bad.2

/-- True when two images may be linked (check 23, R441). -/
def linkOk (main fb : Image) : Bool :=
  fb.passSig == main.passSig && fb.passesClean &&
    main.regions.all fun g => match fb.region g.region with
      | none => true
      | some h => h.kind == g.kind && h.size == g.size && (g.kind != 2 || h.place == g.place)

/-- Check 23: the fallback link. -/
def State.linkFits (s : State) (i : Image) (p : Nat) : Bool :=
  i.fallbackId == 0 || match s.fallbackSlot p i with
    | none => false
    | some k => linkOk i (s.imageOf k)

/-! ### Where regions lie -/

/-- The lowest start of `n` free bytes from `lo` up to `hi`, a multiple of 256, given the taken ranges (start, length); none
when no free range is long enough. -/
def freeStart (taken : List (Nat × Nat)) (lo hi n : Nat) : Option Nat :=
  let cands := lo :: (taken.map fun t => (t.1 + t.2 + 255) / 256 * 256)
  leastBy id (cands.filter fun a => decide (lo ≤ a) && decide (a + n ≤ hi) &&
    taken.all fun t => decide (a + n ≤ t.1) || decide (t.1 + t.2 ≤ a))

/-- Ranges of device memory that slots other than `k` take for their regions. -/
def State.takenBy (s : State) (k : Nat) : List (Nat × Nat) :=
  ((List.range 64).filter (· ≠ k)).flatMap fun j => (s.slot j).bases.filterMap fun e =>
    ((s.imageOf j).region e.1).map fun g => (e.2, g.size)

/-- Base addresses for an image's kind-1 and kind-2 regions in slot `k` of partition `p`: the lowest free place inside the
partition's spread share below its other areas, or inside the stack's placed band, and for a region its fallback partner also
declares, that region's place (R292, R441). None when a region does not fit. -/
def State.placeRegions (s : State) (i : Image) (cfg : HeldConfig) (p k : Nat) : Option (List (Nat × Nat)) :=
  let partner := (s.fallbackSlot p i).map fun j => (s.slot j).bases
  let base := cfg.num (0x5200 + p) 8
  (i.regions.filter fun g => g.kind == 1 || g.kind == 2).foldl (fun (acc : Option (List (Nat × Nat))) g =>
    acc.bind fun acc =>
      let shared := partner.bind fun l => (l.find? fun e => e.1 == g.region).map (·.2)
      let taken := s.takenBy k ++ acc.filterMap fun e => (i.region e.1).map fun h => (e.2, h.size)
      let free := if g.kind = 2 then freeStart taken (placedBase g.place) (placedBase g.place + min 62 (cfg.num 0x5000 1) * 2 ^ 30) g.size
        else freeStart taken base (base + cfg.roomFor p) g.size
      (shared <|> free).map fun a => acc ++ [(g.region, a)]) (some [])

/-! ### Re-checks -/

/-- Ready slots of a partition whose image fails `ok` become suspended (Table 4-25). -/
def State.recheck (s : State) (p : Nat) (ok : State → Image → Nat → Bool) : State :=
  s.forEach (List.range 64) fun t k =>
    if t.num (0x4000 + k) 5 = 2 ∧ t.num (0x4000 + k) 3 = p ∧ !ok t (t.imageOf k) k then t.setNum (0x4000 + k) 5 4 else t

/-- Checks 21 and 22 again, after a remap or bank fence. -/
def State.recheckMap (s : State) (p : Nat) : State :=
  s.recheck p fun t i _ => t.banksOk i && t.coreMapOk i ⟨t.dict⟩ p

/-- Checks 19 and 20 again, after a second retirement (R322). -/
def State.recheckMemory (s : State) (p : Nat) : State :=
  s.recheck p fun t i k => t.bandwidthOk i ⟨t.dict⟩ p k && t.capacityOk i ⟨t.dict⟩ p k (t.num (0x4000 + k) 2)

/-- Checks 18 to 23 of an image being loaded into slot `k`, with code and offset: where a check judges a sum or a table, its section's
start (DESIGN CHOICE: log entry 227). -/
def State.checkLimits (s : State) (b : List Byte) (i : Image) (cfg : HeldConfig) (p k : Nat) : Option (Nat × Nat) :=
  match s.check18 b i cfg p with
  | some r => some r
  | none =>
    match s.check19 b i cfg p k with
    | some o => some (0x0414, o)
    | none =>
      let br := ((sectionOf b 1).map (·.at_)).getD 0
      if !s.capacityOk i cfg p k b.length || (s.placeRegions i cfg p k).isNone then some (0x0415, ((sectionOf b 3).map (·.at_)).getD 0)
      else if !s.banksOk i then some (0x0417, br)
      else if !s.coreMapOk i cfg p then some (0x0418, br)
      else if !s.linkFits i p then some (0x0419, 0x14)
      else none

end Sys2Proof.Machine
end

