-- ==== Sys2Proof/Machine/Boundary.lean ====
section
/-! DEFINITION. The step boundary of a partition (03 R141): bank fences (05 R200), remaps and degraded clusters (20 R620, R621), the
degraded-stack overlay (09 R322), overlays (16 R532, R534) and RWS values (R511), the envelope (R50, R436), the coolant
marks (Table 21-11), re-checks (Table 4-25). -/

namespace Sys2Proof.Machine

/-- Entries of an overlay slot in bytes (Table 16-11), each of value 1. -/
def overlayBytes (es : List (Nat × Nat)) : List Byte :=
  es.flatMap fun e => leBytes 2 e.1 ++ leBytes 1 e.2 ++ List.replicate 5 0 ++ leBytes 8 1

/-- The mask of the enabled partitions. -/
def State.enabledMask (s : State) : Nat := s.enabledParts.foldl withBit 0

/-- A device-owned slot filled and applied to the partitions of a mask (R534). -/
def State.deviceSlot (s : State) (slot kind : Nat) (es : List (Nat × Nat)) (applied : Nat) : State :=
  let o := 0x3000 + slot
  let b := overlayBytes es
  let all := s.enabledMask
  let full := decide ((applied ||| all) = applied)
  ((((s.setNum o 1 kind).setNum o 2 all).setBlob o 3 b).setNum o 4 (if full then 2 else 1)).setBlob o 5 (sha256 b)
    |>.setNum o 6 applied

/-- A device-owned slot removed. -/
def State.clearSlot (s : State) (slot : Nat) : State :=
  let o := 0x3000 + slot
  ((((s.setNum o 1 0).setNum o 2 0).setBlob o 3 []).setNum o 4 0).setBlob o 5 [] |>.setNum o 6 0

/-- The clusters marked degraded. -/
def State.degradedClusters (s : State) : List Nat := (List.range 64).filter fun k => s.num (0x9130 + k / 4) (k % 4 + 1) == 1

/-- The stacks under the degraded-stack contract. -/
def State.degradedStacks (s : State) : List Nat := (List.range 24).filter fun k => s.num 0x5330 (sub1 k) == 1

/-- The placement of a cluster taken at a step boundary: a third failure fences it, the core map follows with its
remap event, and its degraded mark is set or cleared (R620, R621). -/
def State.remapCluster (s : State) (k : Nat) : State :=
  let n := (s.fencedIn k).length
  -- Table 20-4 gives no cause for this fence: cause 0 (DESIGN CHOICE: log entry 22).
  let s := if 3 ≤ n then s.fenceCluster k 0 else s
  let new := s.placementOf k
  let s := if s.coreMap k = new then s
    else (s.setNum (0x9100 + k / 4) (k % 4 + 1) new).raise
      { Event.of 0x12 (unitId (k / 4) (k % 4) 0xF 0xF) (new + (k / 4) * 2 ^ 32 + (k % 4) * 2 ^ 38) with
        part := s.partOfCluster k }
  s.setNum (0x9130 + k / 4) (k % 4 + 1) (if n = 2 ∧ !s.clusterFenced k then 1 else 0)

/-- Slot 14 follows the degraded clusters (R621). -/
def State.settleSlot14 (s : State) : State :=
  let ks := s.degradedClusters
  if ks.isEmpty then (if s.num 0x300E 4 = 0 then s else s.clearSlot 14)
  else s.deviceSlot 14 6 (ks.map fun k => (0x9130 + k / 4, k % 4 + 1)) s.enabledMask

/-- Slot 15 at a boundary of partition `p`: every stack whose second retirement waits takes the degraded-stack contract
once its first migration is complete (R322, R622). -/
def State.settleSlot15 (s : State) (p : Nat) : State :=
  let ks := (List.range 24).filter fun k => (s.stack k).waiting2 && !(s.stack k).migrating
  let new := ks.filter fun k => s.num 0x5330 (sub1 k) == 0
  let due := !ks.isEmpty && !(s.num 0x300F 6).testBit p
  if !due && new.isEmpty then s
  else
    let s := s.forEach new fun t k => t.setNum 0x5330 (sub1 k) 1
    let old := if new.isEmpty then s.num 0x300F 6 else 0
    (s.deviceSlot 15 5 (s.degradedStacks.map fun k => (0x5330, sub1 k)) (withBit old p)).recheckMemory p

/-- The values in force for a partition: the entries of the slots that have taken effect on it (R533). -/
def State.reforce (s : State) (p : Nat) : State :=
  let es := (List.range 14).flatMap fun k =>
    if (s.num (0x3000 + k) 6).testBit p then s.overlayEntries k else []
  s.modPart p fun q => { q with force := es.foldl (fun t e =>
    tabSet none t (objKey (if perPartition e.1 then e.1 + p else e.1) e.2.1) (some e.2.2)) [] }

/-- True when a pending change of an overlay slot has been taken by every enabled partition it names. -/
def State.overlayTaken (s : State) (c : Nat × Bool) : Bool :=
  let o := 0x3000 + c.1
  (setBits 16 (s.num o 2)).all fun p => (s.num o 6).testBit p == c.2 || s.num (0x2100 + p) 3 == 0

/-- Pending changes that every partition has taken leave the list (R532). -/
def State.settleOverlays (s : State) : State :=
  let done := s.overlays.filter s.overlayTaken
  let s := s.forEach done fun t c =>
    let o := 0x3000 + c.1
    if c.2 then (t.setNum o 4 2).setBlob o 5 (sha256 (t.blob o 3)) else (t.setNum o 4 0).setNum o 6 0
  { s with overlays := s.overlays.filter fun c => !done.contains c }

/-- A partition takes every accepted change of an overlay (R532), but none while the device is disabling (Table 16-15); the debug
overlay's breach is raised where it takes effect (Table 3-8). -/
def State.takeOverlays (s : State) (p : Nat) : State :=
  let before := s.debugOn p
  let mine := s.overlays.filter fun c => s.num 0x2000 2 != 4 && (s.num (0x3000 + c.1) 2).testBit p
  let s := s.forEach mine fun t c =>
    let o := 0x3000 + c.1
    t.setNum o 6 (if c.2 then withBit (t.num o 6) p else withoutBit (t.num o 6) p)
  let s := (s.reforce p).settleOverlays
  if s.debugOn p && !before then
    (s.markBreach p).raise { Event.of 0x07 s.conductorUnit 2 with part := some p, breach := true }
  else s

/-- The step boundary of partition `p` (R141). -/
def State.boundary (s : State) (p : Nat) : State :=
  let before := s
  let moved := (s.partClusters p).any fun k => s.placementOf k != s.coreMap k
  let dirty := (s.part p).mapDirty || moved
  let s := s.modPart p fun q => { q with mapDirty := false }
  let s := s.forEach (s.partClusters p) fun t k => t.forEach (rangeFrom (9 * k) 9) State.takeBankFence
  let s := (s.forEach (s.partClusters p) State.remapCluster).settleSlot14
  let s := (s.settleSlot15 p).takeOverlays p
  let s := s.settleEnvelope.coolantFollows before
  if dirty then s.recheckMap p else s

/-- A boundary of a partition on which no step runs: it stands at one (R141). -/
def State.boundaryIfIdle (s : State) (p : Nat) : State :=
  if (s.running p).isSome || s.num (0x2100 + p) 3 == 0 then s else s.boundary p

end Sys2Proof.Machine
end

