-- ==== Sys2Proof/Machine/StepCtl.lean ====
section
/-! DEFINITION. The step controller: start, barrier, dodge, parking, resumption, replay, end of a step (03 R141 to R148,
R154; 07 R268, R271; 11 R392, R393; 13 R433 to R446; 12 R412 to R416). -/

namespace Sys2Proof.Machine

/-! ### Programs onto cores -/

/-- The banks at step start (Table 7-9). -/
def MicroSec.banks (m : MicroSec) : Bank × Bank :=
  match m.sets with
  | [] => (.dflt, .empty)
  | [a] => (a, .dflt)
  | a :: b :: _ => (a, b)

/-- The banks of a core at the start of a step: relabelled when they hold its two sets already, loaded otherwise (R271). -/
def Core.startBanks (k : Core) (m : MicroSec) : Bank × Bank :=
  let (a, b) := m.banks
  if k.bankActive.same a && k.bankShadow.same b then (k.bankActive, k.bankShadow)
  else if k.bankActive.same b && k.bankShadow.same a then (k.bankShadow, k.bankActive)
  else (a, b)

/-- A core with a program in its active half, ready to run (R142, R268, R271): by a swap when the other half holds it, as it does
for a prefetched step (R119); `base` is the running ac count of its cluster. -/
def Core.load (k : Core) (q : Program) (m : MicroSec) (r : CoreRun) (swap : Bool) (base : Nat) : Core :=
  let (a, b) := k.startBanks m
  { k with
    sq := q.start, other := if swap then k.sq.prog else k.other, bankActive := a, bankShadow := b
    micro := m.words, groups := m.groups, microErrs := [], tokErrs := [], run := some r, arrOpnd := .none, arrAcc := .none
    bpCount := [], bpPass := 0, single := 0, frozen := false, ac := 0, acBase := base }

/-- The landing counters of a bracket bound in their clusters (R129, R142). -/
def State.bindLandings (s : State) (i : Image) (b : Nat) : State :=
  s.forEach (i.landings.filter fun l => l.bracket == b) fun t l =>
    t.modCluster (4 * l.die + l.cluster) fun c =>
      let land := tabSet Landing.unbound c.land l.counter ⟨0, 0, true, l.start, l.granules, l.core, l.token, l.threshold⟩
      { c with land := land }

/-- The clusters of a step. -/
def State.stepClusters (s : State) (x : Step) : List Nat := ((s.stepCores x).map clusterOf).dedup

/-- Every core of a bracket loaded with its program (R142), and a STEP record in each filmstrip. -/
def State.loadCores (s : State) (p : Nat) (x : Step) (swap : Bool) : State :=
  let i := s.imageOf x.slot
  let s := s.forEach (s.stepClusters x) fun t k => t.modCluster k fun c => { c with land := [], landErrs := [], remote := [], arrived := .none }
  let s := s.bindLandings i x.bracket
  s.forEach (s.stepCores x) fun t c => match t.physOf c with
    | none => t
    | some pc =>
      let base := t.filmCount pc
      let t := t.modCore pc fun k => k.load (i.program x.bracket c) (i.micro.getD .empty)
        ⟨p, x.req.seq, x.slot, x.bracket, c, x.compat⟩ swap base
      let t := t.setNum (bpObj c) 0x0D 0
      t.traceCore pc 0 0x05 0 (x.req.seq * 2 ^ 48 + x.bracket * 2 ^ 44 + x.slot * 2 ^ 38 + p * 2 ^ 34)

/-- The cores that run a step of a partition stop running it; their units idle. -/
def State.unloadCores (s : State) (p : Nat) : State :=
  s.forEach ((List.range 576).filter fun pc => ((s.core pc).run.map CoreRun.part) == some p) fun t pc =>
    t.modCore pc fun k => { k with run := none, sq := { Seqr.idle with prog := k.sq.prog } }

/-- Landing counters of a step's clusters unbound. -/
def State.unbind (s : State) (x : Step) : State :=
  s.forEach (s.stepClusters x) fun t k => t.modCluster k fun c => { c with land := [], remote := [] }

/-! ### Queue operations -/

/-- True for the step of a request. -/
def Step.is (x y : Step) : Bool := x.req.client == y.req.client && x.req.seq == y.req.seq

/-- A function applied to one step of a partition. -/
def State.modStep (s : State) (p : Nat) (x : Step) (g : Step → Step) : State :=
  s.modPart p fun q => q.mapSteps (fun y => y.is x) g

/-- The step taken out of its queue; the steps behind it in Q_p have waited for its collective wait (R435). -/
def Part.remove (q : Part) (x : Step) : Part :=
  match findIdx (fun y => Step.is y x) q.queue with
  | some (n, _) => { q with queue := q.queue.take n ++ (q.queue.drop (n + 1)).map fun y =>
      { y with excused := y.excused + x.collWait } }
  | none => { q with backfill := q.backfill.filter fun y => !y.is x }

/-! ### The end of a step -/

/-- What a failed step's record says (Table 13-5). -/
def Step.failRecord (x : Step) (now : Nat) (f : Failure) : Record :=
  { outcome := 1, cause := f.cause, reason := f.reason, accept := x.acceptTime, bound := x.bound, endTime := now
    queueWait := x.queueWait, collWait := x.collWait, excused := x.collWait + x.excused, parked := x.parkedNs
    flags := x.recFlags, bracket := x.bracket, slot := x.slot, dodgePass := x.dodgePass.getD 0xFF, detail := f.detail
    unit := f.unit.getD 0 }

/-- The record of a completed step; `late` when it finished late without cause (R154). -/
def Step.doneRecord (x : Step) (late : Bool) : Record :=
  { outcome := 0, cause := 0, reason := 0, accept := x.acceptTime, bound := x.bound, endTime := x.arrivedAt
    queueWait := x.queueWait, collWait := x.collWait, excused := x.collWait + x.excused, parked := x.parkedNs
    flags := x.recFlags + boolNat late 32, bracket := x.bracket, slot := x.slot, dodgePass := x.dodgePass.getD 0xFF
    detail := 0, unit := 0 }

/-- A step leaves the device with its record: pages unpinned, ring bytes it did not write released, its cores free, and
the partition at its step boundary. -/
def State.leave (s : State) (p : Nat) (x : Step) (r : Record) : State :=
  let s := s.record x.req r
  let s := (s.unpin p x).unbind x
  let s := if x.stage = .running then s.unloadCores p else s
  let s := s.modPart p fun q => q.remove x
  s.boundary p

/-- A step fails and leaves (R204, R437). -/
def State.leaveFailed (s : State) (p : Nat) (x : Step) (f : Failure) : State :=
  s.leave p { x with fail := some f } (Step.failRecord { x with fail := some f } s.now f)

/-- True for the clients whose steps are primary: `primary_client`, or every one but backfill clients when none is named
(Table 12-9; log entry 157). -/
def State.isPrimary (s : State) (p client : Nat) : Bool :=
  let c := s.eff p (0x6300 + p) 1
  if c = 0xFFFF then !s.isBackfill client else client == c

/-- The counter of Table 12-4 that a nanosecond of partition `p`'s enabled time belongs to: the first cause that applies
(R416; log entry 157). -/
def State.idleCounter (s : State) (p : Nat) : Nat :=
  let q := s.part p
  let mine := fun (x : Step) => s.isPrimary p x.req.client
  let busy := (q.running.map fun x => !x.backfill).getD false
  if q.steps.any fun x => ((decide (x.stage = .replay) || x.replayReq) && x.fenced) || (x.fail.map (·.cause)) == some 7 ||
      (decide (x.stage = .parked) && x.savedCores.any fun k => s.coreFenced k.phys) then 1
  else if q.steps.any fun x => mine x && (decide (x.stage = .parked) || (busy && decide (x.stage = .queued))) then 2
  else if q.held.any fun r => s.isPrimary p r.client then 3
  else match q.running with
    | some x => if x.backfill then 8 else 9
    | none => if q.queue.any mine then 9 else 7

/-- The idle time moved out of a completed primary step's running time (Table 12-4, counters 04 to 06). -/
def State.moveIdle (s : State) (p : Nat) (x : Step) : State :=
  if x.backfill || !s.isPrimary p x.req.client then s
  else
    let o := 0x8400 + p
    let all := s.num o 9
    let busy := min all x.busyNs
    let peer := min x.peerWait busy
    let coll := min (x.collWait - x.peerWait) (busy - peer)
    let therm := min (x.thermNs / 100) (busy - peer - coll)
    ((((s.bump o 4 peer).bump o 5 coll).bump o 6 therm)).setNum o 9 (all - peer - coll - therm)

/-- The segment in progress is complete: its W × (s_c − 1) counted (Table 12-4). -/
def State.segmentDone (s : State) (x : Step) : Step :=
  let w := match ((s.imageOf x.slot).contractOf x.bracket).find? fun e => e.segment == x.segment with
    | some e => e.wNs * (classStretch x.cls - 100)
    | none => 0
  { x with thermNs := x.thermNs + w }

/-- Tokens of the step's cores that do not hold their initial values (R128): the first physical core. -/
def State.unrestored (s : State) (x : Step) : Option Nat :=
  (s.stepPhys x).find? fun pc =>
    let q := (s.core pc).sq
    (List.range 63).any fun k => (q.token k).count != q.prog.tokens.getD k 0

/-- The STEPEND barrier is complete: the step has finished (R128, R149, R154, R437). A token that is not restored raises one
event, which names the sequencer of the first such core and index 0: R128 does not say (DESIGN CHOICE: log entry 192). -/
def State.finish (s : State) (p : Nat) (x : Step) : State :=
  match s.unrestored x with
  | some pc =>
    let s := s.raiseStep p (.of 0x03 (coreUnit pc 0) 0)
    s.leaveFailed p x ⟨4, 0, 0, some (coreUnit pc 0)⟩
  | none =>
    let late := !x.breach && !s.debugOn p && decide (x.bound + x.collWait + x.excused < x.arrivedAt + 3000)
    let s := if late then
        (s.raiseStep p (.of 0x08 s.conductorUnit 1)).bump 0x8F00 1 1
      else s
    ((s.forEach (s.stepPhys x) State.accountCore).moveIdle p (s.segmentDone x)).leave p x (x.doneRecord late)

/-- Every instance the step started is Fixed on the module, or aborted (R392). -/
def State.instsFixed (s : State) (x : Step) : Bool :=
  x.insts.all fun k => match s.inst (k / 65536) (k % 65536) with
    | some i => i.done
    | none => true

/-! ### Start -/

/-- The first segment of pass `j` of a bracket. -/
def Image.firstSegment (i : Image) (b j : Nat) : Nat :=
  (((i.contractOf b).find? fun e => decide (j ≤ e.pass)).map ContractE.segment).getD 0

/-- The class at which stack `k` serves a step that starts: the class it was accepted under, the emergency share while it lasts;
a step accepted at the emergency class is served at class 3 after it (R311, R313). -/
def State.shareFor (s : State) (k : Nat) (x : Step) : Nat :=
  if (s.stack k).emergency then 4 else min 3 (x.classes.getD k 0)

/-- A queued step of partition `p` starts: settings captured (R111, R391), programs loaded, the prologue begun (R142,
R148), its classes served (R311). -/
def State.begin_ (s : State) (p : Nat) (x : Step) : State :=
  let fast := (s.part p).prefetched == some x.req.seq
  let wait := s.now - x.req.taken
  let i := s.imageOf x.slot
  let first := !x.started
  let key := (x.req.seq, x.req.epoch)
  let x := { x with
    stage := .running, startTime := s.now, started := true, queueWait := if x.started then x.queueWait else wait
    bound := if x.backfill && !x.started then s.now + x.bound else x.bound
    planned := if x.backfill && !x.started then s.now + x.planned else x.planned
    segment := 0, segEnd := s.now + (if fast then 500 else 5000) + i.segLength x.clock x.cls x.bracket 0
    arrived := [], leaving := [], atEnd := false, replayReq := false, fenced := false, rollReq := false, nmuOpen := [], runs := x.runs + 1
    oldInsts := x.insts, waitBase := x.collWait, thermNs := 0
    determ := s.eff p 0x2020 1 == 1, compat := s.eff p 0x2020 2 == 1, speculative := s.eff p (0x6110 + p) 4 == 1
    mapGen := s.num 0x5500 1, mapRetired := (List.range 24).map fun k => s.num 0x5510 (sub1 k) }
  let s := s.modStep p x fun _ => x
  let s := s.modPart p fun q => { q with
    started := if q.started.contains key then q.started else key :: q.started
    serveClass := (List.range 24).foldl (fun t k => tabSet 0 t k (s.shareFor k x)) q.serveClass, prefetched := none }
  let s := if first then s.bump (clientObj x.req.client) 0x0F wait else s
  (s.loadCores p x fast).prefetch p

/-- True when a partition's boundary may start a step: enabled, none runs, and a conductor's step controllers act (R628). -/
def State.mayStart (s : State) (p : Nat) : Bool :=
  s.conductor.inOffice && s.num (0x2100 + p) 3 != 0 && (s.running p).isNone

/-- True while a step of a partition waits for its replay: the replay runs first (R446, Table 13-8). -/
def State.replayWaits (s : State) (p : Nat) : Bool := (s.part p).steps.any fun x => decide (x.stage = .replay)

/-- STEP_START: the head of Q_p starts (R142). -/
def execStepStart (p : BitVec 4) (s : State) : Host.Outcome State Fault Refusal :=
  .next (let p := p.toNat
    if !s.mayStart p || s.replayWaits p then s
    else
      let s := s.boundary p
      match (s.part p).queue with
      | x :: _ => if x.stage = .queued then s.begin_ p x else s
      | [] => s)

/-- The class admission uses now for a backfill step (R415). -/
def State.classNow (s : State) (x : Step) : Nat := s.admClass (s.imageOf x.slot)

/-- BACKFILL_START: the oldest backfill step whose bound is within the limit starts when no step of the primary client is
ready to; its bound and what is left to the latest bound of Q_p stay within 200 ms (R412, R415; log entry 85). -/
def execBackfillStart (p : BitVec 4) (s : State) : Host.Outcome State Fault Refusal :=
  .next (let p := p.toNat
    if !s.mayStart p || s.replayWaits p then s
    else
      let s := s.boundary p
      -- A rolled-back step goes on under the bound it started with (R414).
      let len := fun (x : Step) =>
        if x.started then x.bound - s.now else (s.imageOf x.slot).stepLength s.admClock (s.classNow x) x.bracket 0
      let limit := s.eff p (0x6300 + p) 2
      let queue := (s.part p).queue
      let ahead := queue.foldl (fun m x => max m x.bound) 0 - s.now
      if queue.any fun x => x.req.client == s.eff p (0x6300 + p) 1 then s
      else match (s.part p).backfill.find? fun x => decide (x.stage = .queued) && decide (len x ≤ limit) &&
          decide (len x + ahead ≤ 200000000) with
        | none => s
        | some x =>
          let y := if x.started then x else
            { x with bound := len x, planned := len x, cls := s.classNow x, classes := (List.range 24).map s.stackClass
                     clock := s.admClock }
          (s.modStep p x fun _ => y).begin_ p y)

/-! ### The barrier -/

/-- A core whose units have all stopped and whose instructions have completed. -/
def Core.quiet (k : Core) : Bool :=
  k.sq.flights.isEmpty && (List.range 5).all fun u => decide ((k.sq.unit u).halt ≠ .running)

/-- Where all five units of a core have stopped (R146): true for STEPEND, false for a yield point. -/
def Core.stoppedAt (k : Core) : Option Bool :=
  if !k.sq.flights.isEmpty || k.frozen then none
  else if (List.range 5).all fun u => decide ((k.sq.unit u).halt = .atEnd) then some true
  else if (List.range 5).all fun u => match (k.sq.unit u).halt with | .atYield .. => true | _ => false then some false
  else none

/-- The pass that the yield point of a segment ends (R166); none when it ends none. -/
def Image.passEnded (i : Image) (b seg : Nat) : Option Nat :=
  ((i.contractOf b).find? fun e => e.segment == seg && e.flags.testBit 0).map ContractE.pass

/-- What a dodge would go to: slot, bracket, first pass, R and R_f; when R439 holds at the end of pass `k`. Both lengths
are those of R432, at the clock of the envelope in force. -/
def State.dodgeTo (s : State) (p : Nat) (x : Step) (k : Nat) : Option (Nat × Nat × Nat × Nat × Nat) :=
  if !x.req.flags.testBit 1 || x.req.deadline == 0 || x.dodgePass.isSome || x.onFallback then none
  else
    let i := s.imageOf x.slot
    match s.fallbackSlot p i with
    | none => none
    | some j =>
      let fb := s.imageOf j
      match s.chooseBracket p fb x.req.size with
      | none => none
      | some e =>
        let n := ((i.bracketE x.bracket).map BracketE.passes).getD 1
        let pass := (k + 1) * e.passes / n
        let c := (fb.charged.map fun m => x.classes.getD m 0).foldl max 0
        let r := i.planned s.clock x.cls x.bracket (k + 1) + 3000
        let rf := 5000 + fb.planned s.clock c e.bracket pass + 3000
        if pass < e.passes ∧ rf < r ∧ x.req.deadline < r + s.now + s.eff p 0x4040 6 ∧ k + 1 < n then
          some (j, e.bracket, pass, r, rf)
        else none

/-- A unit placed at the instruction after the YIELD that ends pass `j - 1` (R440). -/
def Program.afterPass (q : Program) (u j : Nat) : UnitSt :=
  let ys := (q.occurs u).filter fun o => match o.instr with | .yield _ e _ => e == 1 | _ => false
  match (if j = 0 then none else ys[j - 1]?) with
  | none => ⟨0, [], 0, .running, 0⟩
  | some o => let (pos, fs) := afterInstr 5 (o.idx + 1) o.loops; ⟨pos, fs, 0, .running, o.idx + 1⟩

/-- The dodge (R440): the event, the counts, the new image, its streams from pass `j`, the planned ends of Q_p. -/
def State.dodge (s : State) (p : Nat) (x : Step) (k : Nat) (t : Nat × Nat × Nat × Nat × Nat) : State × Step :=
  let (slot, br, pass, r, rf) := t
  let fb := s.imageOf slot
  let s := (s.raiseStep p (.of 0x0A s.conductorUnit k)).bump (clientObj x.req.client) 0x11 1
  let seg := fb.firstSegment br pass
  let x' := { x with
    slot := slot, bracket := br, exports := fb.exportBytes br, dodgePass := some k, planned := s.now + rf, segment := seg
    segEnd := s.now + 5000 + fb.segLength x.clock x.cls br seg, arrived := [], leaving := [], atEnd := false }
  let s := s.modPart p fun q =>
    match findIdx (fun y => Step.is y x) q.queue with
    | some (n, _) => { q with queue := q.queue.take (n + 1) ++ (q.queue.drop (n + 1)).map fun y =>
        { y with planned := y.planned - (r - rf) } }
    | none => q
  -- A stop bath that names the step is not taken (Table 19-13).
  let s := match (s.part p).stop with
    | some b => if (if b.mode = 0 then x.req.seq == b.stepSeq else x.req.epoch == b.epoch) then
        (s.modPart p fun q => { q with stop := none }).setNum (0x8130 + p) 8 0
      else s
    | none => s
  let s := s.modStep p x fun _ => x'
  let s := ((s.unbind x).unloadCores p).loadCores p x' false
  (s.forEach (s.stepPhys x') fun t pc => t.modCore pc fun c =>
    let us := (List.range 5).foldl (fun us u => tabSet UnitSt.idle us u (c.sq.prog.afterPass u pass)) c.sq.units
    { c with sq := { c.sq with units := us } }, x')

/-- Parking (R442): the state of every core and cluster of the step saved, the partition at its boundary. -/
def State.park (s : State) (p : Nat) (x : Step) : State :=
  let cores := (s.stepCores x).filterMap fun c => (s.physOf c).map fun pc => (⟨c, pc, s.core pc⟩ : SavedCore)
  let ks := (s.stepClusters x).map fun k => (⟨k, s.cluster k⟩ : SavedCluster)
  let s := s.modStep p x fun y => { y with
    stage := .parked, savedCores := cores, savedClusters := ks, parkedAt := s.now, preempted := true, preemptReq := false }
  ((s.unloadCores p).unbind x).boundary p

/-- The barrier of a step is complete at a yield point: the monitor, then a park, or the release of its cores. -/
def State.yieldDone (s : State) (p : Nat) (x : Step) : State :=
  let x := s.segmentDone x
  let i := s.imageOf x.slot
  let dodge := (i.passEnded x.bracket x.segment).bind fun k => (s.dodgeTo p x k).map fun t => (k, t)
  let (s, x, dodged) := match dodge with
    | some (k, t) => let (s, y) := s.dodge p x k t; (s, y, true)
    | none => (s, x, false)
  let y := if dodged then x else { x with
    arrived := [], leaving := s.stepCores x, segment := x.segment + 1
    segEnd := s.now + i.segLength x.clock x.cls x.bracket (x.segment + 1) }
  let s := s.modStep p x fun _ => y
  if x.preemptReq && s.instsFixed x then s.park p y else s

/-- The slot a step was accepted on. -/
def Step.home (x : Step) : Nat := if x.onFallback then x.slot else x.req.slot

/-- The ring bytes a step will write when it begins again from its prologue (R332): those of the bracket it ran, or, for a replay, of the
bracket that admission selects now (R446). -/
def State.bytesAgain (s : State) (p : Nat) (x : Step) (replay : Bool) : List (Nat × Nat) :=
  if replay then
    match s.chooseBracket p (s.imageOf x.home) x.req.size with
    | some e => (s.imageOf x.home).exportBytes e.bracket
    | none => []
  else (s.imageOf x.slot).exportBytes x.bracket

/-- A step moved to the head of its queue (R446). -/
def Part.toHead (q : Part) (x : Step) : Part :=
  { q with
    queue := q.queue.filter (Step.is x) ++ q.queue.filter fun z => !z.is x
    backfill := q.backfill.filter (Step.is x) ++ q.backfill.filter fun z => !z.is x }

/-- A step stopped by a fence or a residue fault waits for its replay at the head of its queue (R445, R446), a rolled-back one for its
restart (R393); the ring bytes it will write again are reserved again (R332); the partition stands at its boundary. -/
def State.backToQueue (s : State) (p : Nat) (x : Step) (replay : Bool) : State :=
  let again := s.bytesAgain p x replay
  let s := s.modStep p x fun y => { y with
    stage := if replay then .replay else .queued, arrived := [], leaving := [], atEnd := false, segment := 0, exports := again
    rollback := y.rollback || !replay, preemptReq := y.preemptReq && replay }
  let s := if replay then s.modPart p fun q => q.toHead x else s
  ((s.unloadCores p).unbind x).boundary p

/-- What has become complete for the running step of a partition: a stopped step whose cores are quiet leaves or is put
back; a barrier at STEPEND ends the step once its instances are Fixed (R204, R392). -/
def State.settle (s : State) (p : Nat) : State :=
  match s.running p with
  | none => s
  | some x =>
    let quiet := (List.range 576).all fun pc => match (s.core pc).run with
      | some r => r.part != p || (s.core pc).quiet
      | none => true
    if x.fail.isSome || x.replayReq || x.rollReq then
      if !quiet then s
      else match x.fail with
        | some f => s.leaveFailed p x f
        | none => s.backToQueue p x x.replayReq
    else if x.atEnd && (s.stepCores x).all x.arrived.contains && s.instsFixed x then s.finish p x
    else s

/-- BARRIER_ARRIVAL: a core whose five units have stopped at a yield point or at step end reports (R146); the last
arrival completes the barrier. A core of a stopped step reports that it has stopped (R204). Without a conductor nothing
takes the report; the core repeats it under the next term (R630). -/
def execBarrierArrival (c : CoreId) (s : State) : Host.Outcome State Fault Refusal :=
  .next (if !s.conductor.inOffice then s else
    let c := c.toNat
    match s.physOf c with
    | none => s
    | some pc =>
      match (s.core pc).run with
      | none => s
      | some r =>
        let s := if (s.core pc).stoppedAt.isSome then s.judgeLate r.part pc (2 ^ 64) else s
        match s.running r.part with
        | none => s
        | some x =>
          if x.fail.isSome || x.replayReq || x.rollReq then s.settle r.part
          else match (s.core pc).stoppedAt with
            | none => s
            | some atEnd =>
              if x.arrived.contains c || x.leaving.contains c || tabGet 0 x.nmuOpen c != 0 then s
              else
                let s := s.traceCore pc (s.core pc).ac 0x04 0 ((if atEnd then 1 else 0) * 2 ^ 78 + x.segment * 2 ^ 62)
                let y := { x with arrived := x.arrived ++ [c], arrivedAt := s.now, atEnd := atEnd }
                let s := s.modStep r.part x fun _ => y
                if !(s.stepCores y).all y.arrived.contains then s
                else if atEnd then s.settle r.part
                else s.yieldDone r.part y)

/-- The core leaves its yield point in ac `t`: T63 rises to 1 and falls back, the YIELD headers signal, the units go
on (R123, R146); the time waited is counted (Table 19-1). -/
def State.leaveYield (s : State) (p c pc t : Nat) : State :=
  let q := (s.core pc).sq
  let heads := (List.range 5).filterMap fun u => (q.head u).map fun e => (u, e)
  let s := s.forEach (List.range 5) fun s u => s.count (0x8500 + pc) 8 (t - (q.unit u).nextIssue)
  let s := s.modCore pc fun k => { k with ac := max k.ac t, sq := (List.range 5).foldl (fun q u =>
    let v := q.unit u
    q.setUnit u { v.advance with halt := .running, nextIssue := max t v.nextIssue, issued := v.issued }) k.sq }
  let s := s.forEach heads fun s h => s.forEach (h.2.header.sigs 0 ++ h.2.header.sigs 1) fun s g =>
    s.headerSignal p c pc h.1 g t
  let ended := ((s.running p).map (·.segment)).getD 0 - 1
  s.traceCore pc t 0x04 0 (2 * 2 ^ 78 + ended * 2 ^ 62)

/-- YIELD_RELEASE: a core leaves a yield point whose barrier is complete, in ac `ac` of its cluster (R146). -/
def execYieldRelease (c : CoreId) (ac : Nat) (s : State) : Host.Outcome State Fault Refusal :=
  .next (let c := c.toNat
    match s.physOf c with
    | none => s
    | some pc =>
      match (s.core pc).run with
      | none => s
      | some r =>
        match s.running r.part with
        | none => s
        | some x =>
          if !x.leaving.contains c || x.fail.isSome || x.replayReq || x.rollReq then s
          else
            let t := (List.range 5).foldl (fun a u => max a ((s.core pc).sq.unit u).nextIssue) ac
            let s := s.modStep r.part x fun y => { y with leaving := y.leaving.filter (· != c) }
            s.leaveYield r.part c pc t)

/-! ### Resumption and replay -/

/-- A parked step goes on from its yield point with its saved state (R444); a backfill step at the class in force now,
with its remaining bound recomputed (R415). -/
def State.restore (s : State) (p : Nat) (x : Step) : State :=
  let gone := s.now - x.parkedAt
  let i := s.imageOf x.slot
  let cls := if x.backfill then s.classNow x else x.cls
  let rest := (((i.contractOf x.bracket).filter fun e => decide (x.segment ≤ e.segment)).map fun e =>
    segPlanned x.clock cls e.aAc e.wNs).sum + 3000
  let y := { x with
    stage := .running, parkedNs := x.parkedNs + gone, cls := cls, savedCores := [], savedClusters := []
    classes := if x.backfill then (List.range 24).map s.stackClass else x.classes
    bound := if x.backfill then s.now + s.num (0x4100 + p) 1 + rest else x.bound
    segEnd := s.now + s.num (0x4100 + p) 1 + i.segLength x.clock cls x.bracket x.segment }
  let s := s.modStep p x fun _ => y
  let s := s.modPart p fun q => { q with
    serveClass := (List.range 24).foldl (fun t k => tabSet 0 t k (s.shareFor k y)) q.serveClass }
  let s := s.forEach x.savedClusters fun t k => t.setCluster k.cluster k.state
  let s := s.forEach x.savedCores fun t k => match t.physOf k.logical with
    | some pc => t.modCore pc fun old => { k.core with film := old.film, ceTimes := old.ceTimes, bankFence := old.bankFence }
    | none => t
  (s.bump (clientObj x.req.client) 0x10 1).prefetch p

/-- STEP_RESUME: the parked head of Q_p resumes, or a parked backfill step when Q_p is empty; a step whose core has been
fenced meanwhile is replayed or fails (R444, R445, Table 13-8). -/
def execStepResume (p : BitVec 4) (s : State) : Host.Outcome State Fault Refusal :=
  .next (let p := p.toNat
    if !s.mayStart p || s.replayWaits p then s
    else
      let s := s.boundary p
      let q := s.part p
      let head : Option Step := match q.queue with
        | x :: _ => some x
        | [] => q.backfill.find? fun (x : Step) => decide (x.stage = Stage.parked)
      match head with
      | none => s
      | some x =>
        if x.stage ≠ .parked then s
        else match x.savedCores.find? fun (k : SavedCore) => s.coreFenced k.phys with
          | none => s.restore p x
          | some k =>
            let x := { x with parkedNs := x.parkedNs + (s.now - x.parkedAt) }
            let s := s.bump (clientObj x.req.client) 0x10 1
            if x.req.flags.testBit 2 && !x.replayed then
              (s.modStep p x fun _ => { x with stage := .replay, fenced := true, exports := s.bytesAgain p x true }).modPart p fun q => q.toHead x
            else s.leaveFailed p x ⟨7, 0, 0, some (coreUnit k.phys 0xF)⟩)

/-- The timing check of a replay (R446): T_s is now; the steps behind it move by as much as its planned end does
(DEDUCED: log entry 23). The new bound, or none. -/
def State.replayFits (s : State) (p : Nat) (x : Step) (len : Nat) : Option (Nat × Nat) :=
  let b := s.now + len
  let d := b - x.planned
  let moved := (s.part p).queue.filter fun y => !y.is x
  let last := (moved.getLast?.map fun y => y.planned + d).getD 0
  if (x.req.deadline ≠ 0 ∧ x.req.deadline < b) ∨ (moved.any fun y => !y.breach && decide (y.bound < y.planned + d)) ∨
    200000000 < max b last - s.now then none
  else some (b, d)

/-- STEP_REPLAY: a step stopped by a fence restarts from its prologue at the step boundary (R446). -/
def execStepReplay (p : BitVec 4) (s : State) : Host.Outcome State Fault Refusal :=
  .next (let p := p.toNat
    let s := s.settle p
    if !s.mayStart p then s
    else
      let s := s.boundary p
      match (s.part p).steps.find? fun x => decide (x.stage = .replay) with
      | none => s
      | some x =>
        let i := s.imageOf x.home
        match s.chooseBracket p i x.req.size with
        | none => s.leaveFailed p x ⟨7, 0x0428, 0, none⟩
        | some e =>
          let len := i.stepLength s.admClock (s.admClass i) e.bracket 0
          match s.replayFits p x len with
          | none => s.leaveFailed p x ⟨7, 0x0427, 0, none⟩
          | some (b, d) =>
            let y := { x with
              stage := .queued, slot := x.home, bracket := e.bracket, bound := b, planned := b, replayed := true
              exports := i.exportBytes e.bracket, dodgePass := none, preemptReq := x.backfill && x.preemptReq, cls := s.admClass i, classes := (List.range 24).map s.stackClass
              clock := s.admClock, started := true, savedCores := [], savedClusters := [] }
            -- It runs first, at the head of Q_p; a step that was to pre-empt it waits behind it (Table 13-8).
            let later := fun (z : Step) => if z.is x then z else { z with planned := z.planned + d }
            let s := s.modPart p fun q => { q with queue := q.queue.filter (Step.is x) ++ (q.queue.filter fun z => !z.is x).map later }
            let s := s.modStep p x fun _ => y
            let s := s.raise { Event.of 0x14 s.conductorUnit 0 with part := some p, step := some x.req.seq }
            (s.bump (clientObj x.req.client) 0x12 1).begin_ p y)

/-- COMPLETION_RECORD: the oldest record waiting for client `n` is written into its ring when there is room, then its
MSI-X message (R437, R438). A stopped step whose last core has gone leaves first. -/
def execCompletionRecord (n : BitVec 12) (s : State) : Host.Outcome State Fault Refusal :=
  .next (let n := n.toNat
    let o := clientObj n
    let s := s.settle (s.num o 2)
    let c := s.client n
    match c.waiting with
    | [] => s
    | (r, msi) :: t =>
      if !s.p0Up || s.num 0x2000 1 != 1 || s.ringRoom n == 0 then s
      else
        let s := s.setClient n { c with written := (c.written + 1) % 2 ^ 32, waiting := t }
        let s := s.emit (.hostWrite (s.num o 8 + c.written % s.num o 9 * 64) r)
        if msi then s.emit (.msix (s.num o 0x0B)) else s)

end Sys2Proof.Machine
end

