-- ==== Sys2Proof/Machine/Complete.lean ====
section
/-! DEFINITION. Completions: an instruction at its fixed latency, a transfer timed by a window, a signal arriving from
another core of the cluster, a landing counter (03 R123 to R131, R138). -/

namespace Sys2Proof.Machine

/-- A flight leaves in ac `t`: its COMPLETE record and its completion signals (R123). -/
def State.land (s : State) (p c pc : Nat) (f : Flight) (t : Nat) : State :=
  let s := s.judgeLate p pc t
  let s := s.modCore pc fun k => { k with ac := max k.ac t, sq := { k.sq with flights := k.sq.flights.erase f } }
  let s := s.traceCore pc t 0x02 f.unit (f.opcode * 2 ^ 72 + f.index % 8192 * 2 ^ 59)
  s.forEach f.sigs fun s g => s.headerSignal p c pc f.unit g t

/-- The partition, physical core and state of a logical core that runs a step. -/
def State.runOf (s : State) (c : Nat) : Option (Nat × Nat × Core) :=
  match s.physOf c with
  | none => none
  | some pc => (s.core pc).run.map fun r => (r.part, pc, s.core pc)

/-- INSTRUCTION_COMPLETE: the flight of a unit that completes first (R123, R132). -/
def execInstructionComplete (c : CoreId) (u : UnitId) (s : State) : Host.Outcome State Fault Refusal :=
  .next (match s.runOf c.toNat with
    | none => s
    | some (p, pc, k) =>
      match leastBy (fun (f : Flight) => f.complete.getD 0)
          (k.sq.flights.filter fun f => f.unit == u.val && f.complete.isSome) with
      | none => s
      | some f => s.land p c.toNat pc f (f.complete.getD 0))

/-- True when a transfer has nothing more to wait for: the acknowledgements of a store's writes or commands, and its instance
(R131, R347, R391). -/
def State.arrivedAll (s : State) (f : Flight) : Bool :=
  f.complete.isNone && f.acks == 0 && (f.unit != 4 || f.inst != 0 || f.unacked == 0) && (f.inst == 0 ||
    match s.inst ((f.inst - 1) / 65536) ((f.inst - 1) % 65536) with
    | some i => i.usable
    | none => true)

/-- The tokens that an ST's completion signals, by physical core, noted on its instance while that has Provisional chunks
(R393). -/
def State.noteSignals (s : State) (c pc : Nat) (f : Flight) : State :=
  if f.inst = 0 then s
  else
    let at_ := fun (g : Signal) => (if g.remote = 1 then (s.physOf (c / 8 * 8 + g.core.toNat)).getD pc else pc, g.token.toNat)
    s.modInst ((f.inst - 1) / 65536) ((f.inst - 1) % 65536) fun i =>
      if i.done then i else { i with signals := i.signals ++ f.sigs.map at_ }

/-- TRANSFER_COMPLETE: the oldest transfer of a unit that its window times (R131, R138 to R140), in ac `ac` of the
cluster, no sooner than its own slots allow. -/
def execTransferComplete (c : CoreId) (u : UnitId) (ac : Nat) (s : State) : Host.Outcome State Fault Refusal :=
  .next (match s.runOf c.toNat with
    | none => s
    | some (p, pc, k) =>
      match k.sq.flights.find? fun f => f.unit == u.val && s.arrivedAll f with
      | none => s
      | some f =>
        (s.noteSignals c.toNat pc f).land p c.toNat pc f (max ac (f.issued + f.granules)))

/-- REMOTE_TOKEN_SIGNAL: the oldest signal on its way in a cluster becomes visible at the core it names (R126). -/
def execRemoteTokenSignal (k : ClusterId) (s : State) : Host.Outcome State Fault Refusal :=
  .next (match (s.cluster k.toNat).remote with
    | [] => s
    | g :: t =>
      let s := s.modCluster k.toNat fun x => { x with remote := t }
      let c := 8 * k.toNat + g.core
      match s.runOf c with
      | none => s
      | some (p, pc, x) =>
        match (x.sq.token g.token).raised (x.sq.held g.token (g.visible - 1)) g.inc g.visible with
        | none => s.scheduleFault p g.fromPc g.fromUnit ((s.core g.fromPc).sq.unit g.fromUnit).pos
        | some _ => s.signal p c pc 0 g.token g.inc (g.visible - 1) g.visible)

/-- LANDING_SIGNAL: a threshold crossing of a landing counter signals its token with an increment of 1 (R130). When that
overflows the schedule fault names the sequencer: R127 does not say which unit (DESIGN CHOICE: log entry 191). -/
def execLandingSignal (k : ClusterId) (counter : BitVec 4) (ac : Nat) (s : State) : Host.Outcome State Fault Refusal :=
  .next (let l := tabGet Landing.unbound (s.cluster k.toNat).land counter.toNat
    if l.due = 0 then s
    else
      let s := s.modCluster k.toNat fun x =>
        let land := tabMod Landing.unbound x.land counter.toNat fun (l : Landing) => { l with due := l.due - 1 }
        { x with land := land }
      match s.runOf (8 * k.toNat + l.core) with
      | none => s
      | some (p, pc, _) => s.signal p (8 * k.toNat + l.core) pc 0 l.token 1 (ac - 1) ac)

end Sys2Proof.Machine
end

