-- ==== Sys2Proof/Machine/Access.lean ====
section
/-! DEFINITION. How an object of the Xemond dictionary is reached (16_xemond_dictionary.md R507 to R520, R655): types,
ranges, access classes, the gates of the life cycle (17 R549, 18 R578), the value an object reads as, how a path
reports an outcome and how a refused enable is recorded (R525). -/


namespace Sys2Proof

/-- The number of an access path (Table 16-5). -/
def Path.num : Path → Nat
  | .mmio => 0
  | .mctp | .secured _ => 1
  | .fmApi => 2

end Sys2Proof

namespace Sys2Proof.Machine

/-! ### Types and ranges -/

/-- The stated width of a BITS object. -/
def objBits (o sub : Nat) : Nat :=
  if o = 0x2040 then 3
  else if 0x2100 ≤ o ∧ o ≤ 0x210F then 64
  else if 0x3000 ≤ o ∧ o ≤ 0x300F then 16
  else if 0x5200 ≤ o ∧ o ≤ 0x520F then 24
  else if o = 0x5510 ∨ o = 0x9160 ∨ o = 0xB000 then 64
  else if 0x8100 ≤ o ∧ o ≤ 0x810F then (if sub = 2 then 32 else 8)
  else if 0x9120 ≤ o ∧ o ≤ 0x912F then 16
  else if 0x9150 ≤ o ∧ o ≤ 0x915F then 36
  else if o = 0x9200 ∨ o = 0xA000 then 4
  else 8

/-- The smallest of 1, 2, 4 and 8 bytes that holds `w` bits. -/
def bitsBytes (w : Nat) : Nat := if w ≤ 8 then 1 else if w ≤ 16 then 2 else if w ≤ 32 then 4 else 8

/-- Bytes of a numeric value (Table 16-1); 0 for BLOB and STR. -/
def objBytes (o sub : Nat) (t : OType) : Nat :=
  match t with
  | .u8 | .bool | .enum => 1
  | .u16 => 2
  | .u32 | .i32 | .f32 => 4
  | .u64 | .time64 | .addr => 8
  | .bits => bitsBytes (objBits o sub)
  | .blob | .str => 0

/-- The type code of Table 16-1. -/
def OType.code : OType → Nat
  | .u8 => 1 | .u16 => 2 | .u32 => 3 | .u64 => 4 | .i32 => 5 | .f32 => 7 | .bool => 8 | .enum => 9 | .bits => 10
  | .time64 => 11 | .addr => 12 | .blob => 13 | .str => 14

/-- The access code of Table 16-2, the overlay code of Table 16-4. -/
def Access.code : Access → Nat | .ro => 0 | .rw => 1 | .rwd => 2 | .rws => 3 | .wo => 4
def Overlayable.code : Overlayable → Nat | .no => 0 | .yes => 1 | .only => 2

/-- The greatest listed value of an ENUM; the least is 0, or 1 for the envelope objects. -/
def enumMax (o sub : Nat) : Nat :=
  match o, sub with
  | 0x1000, _ => 1
  | 0x1010, 1 => 4
  | 0x1010, _ => 2
  | 0x2000, _ => 4
  | 0x2010, _ => 3
  | 0x2020, _ => 1
  | 0x5320, _ => 4
  | 0x6400, _ => 9
  | 0x7000, _ => 2
  | 0x9200, _ => 3
  | 0x9210, _ => 3
  | 0xA000, _ => 1
  | 0xA010, _ => 3
  | 0xA100, _ => 4
  | 0xB000, _ => 2
  | 0xB010, _ => 2
  | 0xB0F0, _ => 8
  | o, sub =>
    if 0x2100 ≤ o ∧ o ≤ 0x210F then 2
    else if 0x3000 ≤ o ∧ o ≤ 0x300F then (if sub = 1 then 9 else 3)
    else if 0x4000 ≤ o ∧ o ≤ 0x403F then 4
    else if 0x5600 ≤ o ∧ o ≤ 0x563F then 2
    else if 0x5700 ≤ o ∧ o ≤ 0x573F then (if sub = 1 then 2 else 3)
    else if 0x6000 ≤ o ∧ o ≤ 0x6007 then 3
    else if 0x7010 ≤ o ∧ o ≤ 0x7013 then (if sub = 1 then 3 else 2)
    else if 0x7100 ≤ o ∧ o ≤ 0x720F then (if sub = 0x14 then 1 else if sub = 0x0D then 1 else 2)
    else if 0x8100 ≤ o ∧ o ≤ 0x810F then 4
    else if 0x8130 ≤ o ∧ o ≤ 0x813F then (if sub = 1 then 1 else 3)
    else if 0xB100 ≤ o ∧ o ≤ 0xB17F then 3
    else 1

/-- The range a table states for an object, where it states one that is checked at the write. -/
def objRange (o sub : Nat) : Option (Nat × Nat) :=
  match o, sub with
  | 0x4040, 1 => some (10000, 1000000)
  | 0x4040, 2 => some (100000, 100000000)
  | 0x4040, 6 => some (0, 10000000)
  | 0x5000, 3 => some (3600000000000, 604800000000000)
  | 0x5300, 1 => some (0x42AA0000, 0x42BE0000)
  | 0x5500, 3 => some (64, 1000000)
  | 0x5500, 4 => some (1, 16)
  | 0x5800, 3 => some (1000000, 1000000000)
  | 0x6010, 0x11 => some (200, 100000)
  | 0x6100, 3 => some (1000000, 1000000000)
  | 0x6100, 4 => some (10000000, 60000000000)
  | 0x6100, 5 => some (0, 7)
  | 0x6400, 2 => some (100000, 100000000)
  | 0x7000, 3 => some (2, 16)
  | 0x8E00, 2 => some (16, 4096)
  | 0x9000, 2 => some (256, 1048576)
  | 0x9140, 1 => some (0, 575)
  | 0x9140, 2 => some (0, 575)
  | 0x9140, 3 => some (16, 65536)
  | 0xB010, 1 => some (0, 127)
  | 0xB200, 2 => some (0, 127)
  | 0xB0F0, 5 => some (0, 0)
  | 0xB300, 5 => some (0x41A00000, 0x42C80000)
  | 0xB300, 6 => some (0x42100000, 0x42400000)
  | 0xB300, 7 => some (0, 0x41A00000)
  | o, sub =>
    if 0x4000 ≤ o ∧ o ≤ 0x403F then (if sub = 2 then some (128, 2 ^ 34) else if sub = 3 then some (0, 15) else none)
    else if 0x5200 ≤ o ∧ o ≤ 0x520F then (if sub = 2 then some (16, 4096) else if sub = 9 then some (0, 64) else none)
    else if 0x6110 ≤ o ∧ o ≤ 0x611F ∧ sub = 1 then some (0, 48)
    else if 0x6300 ≤ o ∧ o ≤ 0x630F ∧ sub = 2 then some (0, 200000000)
    else if 0x7100 ≤ o ∧ o ≤ 0x720F then
      (if sub = 2 then some (0, 15) else if sub = 0x12 then some (1, 65535) else if sub = 0x13 then some (0, 3) else none)
    else if 0x8100 ≤ o ∧ o ≤ 0x810F ∧ sub = 4 then some (25, 75)
    else if 0x8130 ≤ o ∧ o ≤ 0x813F ∧ sub = 9 then some (1, 2)
    else if 0x8800 ≤ o ∧ o ≤ 0x89FF then (if sub = 0x0F then some (1, 2) else if sub = 0x10 then some (0, 4) else none)
    else if 0xC000 ≤ o ∧ o ≤ 0xCFFF then (if sub = 2 then some (0, 15) else if sub = 0xC then some (0, 7) else none)
    else none

/-- Conditions beyond a range: alignments, reserved bits, powers of two, special values. -/
def objExtra (o sub v : Nat) : Bool :=
  if 0x4000 ≤ o ∧ o ≤ 0x403F ∧ sub = 1 then v % 4096 == 0
  else if 0x5600 ≤ o ∧ o ≤ 0x573F ∧ (sub = 2 ∨ sub = 3) then v % 4096 == 0
  else if o = 0x6100 ∧ sub = 1 then decide (v < 2 ^ 17) || v == 0xFFFFFFFF
  else if 0x8100 ≤ o ∧ o ≤ 0x810F ∧ sub = 6 then decide (v < 64) || v == 0xFF
  else if o = 0x8110 then decide (v < 16) || v == 0xFF
  else if 0x8800 ≤ o ∧ o ≤ 0x89FF ∧ sub ≤ 8 then
    bits v 62 60 < 5 && bits v 54 40 == 0 && bits v 23 13 == 0
  else if 0x8800 ≤ o ∧ o ≤ 0x89FF ∧ 9 ≤ sub ∧ sub ≤ 0xC then
    bits v 30 29 < 3 && bits v 28 22 == 0 && bits v 21 16 < 63
  else if o = 0x8E00 ∧ sub = 1 then bits v 43 42 == 0 && v % 16 == 0 && bits v 47 44 < 4
  else if o = 0x8E00 ∧ sub = 2 then v % 16 == 0
  else if o = 0x9000 ∧ sub = 1 then v % 4096 == 0
  else if o = 0x9000 ∧ sub = 2 then (List.range 21).any fun k => v == 2 ^ k
  else if 0x6300 ≤ o ∧ o ≤ 0x630F ∧ sub = 1 then decide (v < 4096) || v == 0xFFFF
  else true

/-- True when a numeric value is valid for its type and within the object's stated range (R509). -/
def numOk (o sub : Nat) (t : OType) (v : Nat) : Bool :=
  let ty := match t with
    | .bool => decide (v < 2)
    | .enum => decide (v ≤ enumMax o sub) && (o != 0x2010 || v != 0)
    | .bits => decide (v < 2 ^ objBits o sub)
    | .f32 => v >>> 23 % 256 != 255
    | _ => true
  let rg := match objRange o sub with
    | none => true
    | some (a, b) => (decide (a ≤ v) && decide (v ≤ b)) || (t == .f32 && a == 0 && v == 0x80000000)
  ty && rg && objExtra o sub v

/-- The greatest length of a BLOB or STR value. -/
def blobMax (o sub : Nat) (t : OType) : Nat :=
  if t = .str then (if (0x2100 ≤ o ∧ o ≤ 0x210F) ∨ (o = 0x1000 ∧ sub = 4) then 32 else 4096)
  else if 0x3000 ≤ o ∧ o ≤ 0x300F ∧ sub = 3 then 512
  else if 0x5600 ≤ o ∧ o ≤ 0x573F then 32
  else if 0x6200 ≤ o ∧ o ≤ 0x6206 then 262144
  else 16777212

/-- Continuation bytes of UTF-8: `k` still to come. -/
def utf8From : Nat → List Byte → Bool
  | k, [] => k == 0
  | 0, b :: t =>
    let n := b.toNat
    if n < 0x80 then utf8From 0 t
    else if 0xC2 ≤ n ∧ n < 0xE0 then utf8From 1 t
    else if 0xE0 ≤ n ∧ n < 0xF0 then
      (match t with
       | c :: _ => (n != 0xE0 || decide (0xA0 ≤ c.toNat)) && (n != 0xED || decide (c.toNat < 0xA0))
       | [] => false) && utf8From 2 t
    else if 0xF0 ≤ n ∧ n < 0xF5 then
      (match t with
       | c :: _ => (n != 0xF0 || decide (0x90 ≤ c.toNat)) && (n != 0xF4 || decide (c.toNat < 0x90))
       | [] => false) && utf8From 3 t
    else false
  | k + 1, b :: t => decide (0x80 ≤ b.toNat) && decide (b.toNat < 0xC0) && utf8From k t

/-- True when the bytes of a BLOB or STR value are valid (R509, R495, Table 15-7). -/
def blobOk (o sub : Nat) (t : OType) (b : List Byte) : Bool :=
  decide (b.length ≤ blobMax o sub t) && (t != .str || utf8From 0 b) &&
    (if 0x3000 ≤ o ∧ o ≤ 0x300F then decide (b.length % 16 = 0) && decide (16 ≤ b.length)
     else if 0x5600 ≤ o ∧ o ≤ 0x573F then decide (b.length % 4 = 0) &&
       (chunksOf 4 (b.length / 4) b).all fun e => decide (leNat e < 4096)
     else if 0x6200 ≤ o ∧ o ≤ 0x6206 then b.length == 262144 &&
       (chunksOf 2 131072 b).all fun e => bits (leNat e) 14 12 == 0
     else if o = 0xA020 ∧ sub = 3 then b.length == 32
     else true)

/-! ### Reading -/

/-- The highest subindex an object defines (R508). -/
def topSub (o : Nat) : Option Nat :=
  let rs := objRows.filter fun r => decide (r.lo ≤ o) && decide (o ≤ r.hi)
  if rs.isEmpty then none else some ((rs.map (·.sub1)).foldl max 0)

/-- What the applied and pending overlays give an object that is read: those of the member's own partition; for a device-wide object
those of any enabled one, which all hold it (R530), or of any partition while none is enabled (R533). -/
def State.readOverlaid (s : State) (o sub : Nat) : Option Nat :=
  if perPartition (o / 16 * 16) then s.overlaid (o % 16) o sub
  else match s.enabledParts with
    | p :: _ => s.overlaid p o sub
    | [] => (List.range 16).findSome? fun p => s.overlaid p o sub

/-- The numeric value an object reads as. -/
def State.readNum (s : State) (o sub : Nat) : Nat :=
  match o, sub with
  | 0x6400, 6 => s.now % 2 ^ 64
  | 0x5000, 2 => 24 * (62 - s.placedBand)
  -- Live readings that no command brings: free.
  | 0x8E10, 2 | 0x8E10, 6 => (Config.freeWord 67 s.freeCtr).toNat % 2 ^ 32
  | o, sub =>
    if 0x4100 ≤ o ∧ o ≤ 0x410F ∧ sub = 2 then
      (((s.part (o % 16)).queue.map fun x => x.bound).foldl max 0) - s.now
    else if 0x4100 ≤ o ∧ o ≤ 0x410F ∧ sub = 3 then (s.part (o % 16)).queue.length
    else if 0xB100 ≤ o ∧ o ≤ 0xB17F ∧ sub = 2 then (Config.expectedSignature (o - 0xB100) (s.num 0x1000 6)).toNat
    else match s.readOverlaid o sub with
      | some v => v
      | none => s.counter o sub

/-- The bytes of the string of Table 16-7. -/
def asciiBytes (l : List Nat) : List Byte := l.map (BitVec.ofNat 8)

/-- The default coefficient set as a record of Table 7-8: generation 1, `first` 0, `count` 3,760, then its entries (Table 7-11,
R654). -/
def defaultSet : List Byte :=
  leBytes 1 1 ++ leBytes 3 0 ++ leBytes 2 0 ++ leBytes 2 3760 ++ leBytes 8 0 ++
    (List.range 3760).flatMap fun i => (List.range 4).flatMap fun j => leBytes 4 (Config.defaultCoef i j).toNat

/-- The default a table states, in the description's field: a number, or the length of a BLOB or STR; 0 where a table
gives a dash. -/
def statedDefault (o sub : Nat) (r : ObjRow) : Nat :=
  match o, sub with
  | 0x1000, 1 => 7
  | 0x1000, 2 => 8
  | 0x1010, 1 | 0x2010, 2 | 0x5320, _ => 0
  | 0x2022, 2 => defaultSet.length
  | 0x7001, 1 => 1536
  | 0xA020, 3 => 32
  | _, _ => if 0x6200 ≤ o ∧ o ≤ 0x6206 then 262144 else r.dflt

/-- The range a table states for an object, those that enabling checks among them (R655). -/
def statedRange (o sub : Nat) : Option (Nat × Nat) :=
  let channel := decide (0x7100 ≤ o) && decide (o ≤ 0x720F)
  let client := decide (0xC000 ≤ o) && decide (o ≤ 0xCFFF)
  match o, sub with
  | 0x5000, 1 => some (0, 62)
  | 0x5800, 1 => some (64, 512)
  | 0x5900, 1 => some (0, 1024)
  | o, sub =>
    if 0x5700 ≤ o ∧ o ≤ 0x573F ∧ sub = 4 then some (1, 4096)
    else if (channel ∧ sub = 4) ∨ (client ∧ sub = 5) then some (1, 256)
    else if (channel ∧ sub = 8) ∨ (client ∧ sub = 9) then some (16, 4096)
    else objRange o sub

/-- The description of a target (Table 16-4). -/
def describe (target : Nat) : List Byte :=
  let o := bits target 23 8
  let sub := target % 256
  match (if sub = 0 then none else objRow o sub) with
  | none => if sub = 0 ∧ (topSub o).isSome then leBytes 1 1 ++ List.replicate 31 0 else []
  | some r =>
    let (lo, hi) : Nat × Nat := match r.ty with
      | .bool => (0, 1)
      | .enum => (if o = 0x2010 then 1 else 0, enumMax o sub)
      | .bits => (0, 2 ^ objBits o sub - 1)
      | .blob | .str => (0, blobMax o sub r.ty)
      | _ => (statedRange o sub).getD (0, 0)
    leBytes 1 r.ty.code ++ leBytes 1 r.acc.code ++ leBytes 1 r.ovl.code ++ List.replicate 5 0 ++
      leBytes 8 (statedDefault o sub r) ++ leBytes 8 lo ++ leBytes 8 hi

/-- The private identity key's bytes: those drawn at BLANK to PROVISIONED, or of the key made in manufacture (R572). -/
def identityKey (k : List Byte) : List Byte := if k = [] then (List.range 384).map Config.factoryKey else k

/-- The public key of an identity key: its modulus, big-endian, and the exponent 65,537 (R568, Table 18-7). -/
def publicKey (k : List Byte) : List Byte := (List.range 384).map (Config.modulusByte (identityKey k)) ++ leBytes 4 65537

/-- `device_pubkey`: empty while the module has no identity key (Table 18-7). -/
def State.devicePubkey (s : State) : List Byte := match s.security.identity with | some k => publicKey k | none => []

/-- `lc_nonce`; before the first reset of the model, the one that stands from manufacture (R582). -/
def State.lcNonce (s : State) : List Byte :=
  if s.blob 0xA100 3 = [] then (List.range 16).map Config.factoryNonce else s.blob 0xA100 3

/-- The bytes of a BLOB or STR value as a path reads it. -/
def State.readBlob (s : State) (path : Path) (o sub : Nat) : List Byte :=
  match o, sub with
  | 0x1000, 1 => asciiBytes [0x43, 0x61, 0x65, 0x72, 0x64, 0x69, 0x6E]
  | 0x1000, 2 => asciiBytes [0x50, 0x48, 0x56, 0x2D, 0x36, 0x34, 0x32, 0x34]
  | 0x1000, 4 => (List.range 32).map Config.factoryByte
  | 0x1002, 2 => describe (tabGet PathSt.idle s.paths path.num).describe
  | 0x2022, 2 => defaultSet
  | 0x7001, 1 => (List.range 1536).map Config.enlargerTap
  | 0xA000, 2 => (List.range 4).flatMap fun k => (List.range 32).map (Config.rootKeyHash k)
  | 0xA020, 2 => s.devicePubkey
  | 0xA020, 3 => if s.blob o sub = [] then List.replicate 32 0 else s.blob o sub
  | 0xA100, 3 => s.lcNonce
  | o, sub =>
    if 0x6200 ≤ o ∧ o ≤ 0x6206 ∧ s.blob o sub = [] then List.replicate 262144 0 else s.blob o sub

/-- The encoding of Table 16-1 that an object reads as. -/
def State.encoding (s : State) (path : Path) (o sub : Nat) : List Byte :=
  if sub = 0 then leBytes 1 ((topSub o).getD 0)
  else match objRow o sub with
  | none => []
  | some r =>
    match r.ty with
    | .blob | .str => let b := s.readBlob path o sub; leBytes 4 b.length ++ b
    | t =>
      if o = 0x1002 then leBytes 4 (tabGet PathSt.idle s.paths path.num).describe
      else leBytes (objBytes o sub t) (s.readNum o sub)

/-! ### Gates -/

/-- The life-cycle state (`0x1010:01`): 0 BLANK, 1 PROVISIONED, 2 SECURED, 3 RETURNED, 4 SCRAPPED. -/
def State.lifecycle (s : State) : Nat := s.num 0x1010 1

/-- True in BLANK and RETURNED, where the vendor objects and the self-test engine are open (Table 18-4). -/
def State.vendorOpen (s : State) : Bool := s.lifecycle == 0 || s.lifecycle == 3

/-- True while the module takes accesses: it is powered and its firmware verified (R540, R567). -/
def State.manages (s : State) : Bool :=
  (s.power.phase == .running || s.power.phase == .bringUp) && s.security.active2.isSome

/-- True while the dictionary is served at all: a conductor holds office (R515, R628). -/
def State.serves (s : State) : Bool := s.manages && s.conductor.inOffice

/-- True while the window of P0 waits for an access it has started: `busy` and `go` read 1 (R480, R515). -/
def State.xwBusy (s : State) : Bool := s.heldOps.any HeldAccess.byWindow

/-- An access that comes while leadership passes is held until a conductor holds office (R515); without power or verified firmware
nothing takes it, and one through the window is dropped while the window is busy (R480). -/
def State.hold (s : State) (a : HeldAccess) : State :=
  if s.manages && !(a.byWindow && s.xwBusy) then { s with heldOps := s.heldOps ++ [a] } else s

/-- What every access meets first: release (R520), the ranges that do not exist or are closed (R507, R519), the gates of
the self-test engine (R549). 0 when none refuses. -/
def State.reachCode (s : State) (o sub : Nat) (read : Bool) : Nat :=
  if s.num 0x1010 2 = 0 ∧ !(read && (decide (0x1000 ≤ o ∧ o ≤ 0x1FFF) || o == 0x2000)) then 0x0B01
  else if 0xF000 ≤ o then (if s.vendorOpen then 0x0101 else 0x0801)
  else if (if sub = 0 then (topSub o).isNone else (objRow o sub).isNone) then 0x0101
  else if o = 0xB200 ∧ !s.vendorOpen then 0x0B02
  else 0

/-- True when the loupe target lies wholly in its space is judged where the loupe reads (R612); here its gate by state
(R580). -/
def State.loupeGate (s : State) : Nat :=
  let sp := bits (s.num 0x8E00 1) 47 44
  if s.lifecycle = 4 then 0x0801
  else if s.lifecycle = 2 ∧ (sp = 1 ∨ sp = 2) then 0x0801
  else 0

/-- Why a read of an object is refused; 0 when it is served. -/
def State.readCode (s : State) (o sub : Nat) : Nat :=
  match s.reachCode o sub true with
  | 0 =>
    if sub = 0 then 0
    else match objRow o sub with
      | some r => if r.acc = .wo then 0x0103 else 0
      | none => 0x0101
  | c => c

/-- The governing enable of an RWD object reads 1, or is being written (Table 16-3, R510). -/
def State.governed (s : State) (o : Nat) : Bool :=
  if 0x4000 ≤ o ∧ o ≤ 0x403F then s.num o 4 != 0 || s.num o 5 == 1
  else if 0xC000 ≤ o then s.num o 1 != 0
  else if 0x7100 ≤ o ∧ o ≤ 0x720F then s.num o 1 != 0
  else if 0x3000 ≤ o ∧ o ≤ 0x300F then s.num o 4 != 0
  else s.num 0x2000 1 != 0 || s.num 0x2000 2 == 1 || s.num 0x2000 2 == 4

/-- True when a write arrives in a session as R578 requires. -/
def State.inSession (s : State) : Path → Bool
  | .mmio =>
    s.ideUp 0 && s.security.sessions.any fun x =>
      x.carrier == 0 && x.established && tabGet 0 s.security.ideSession (ideSlot 0 .cachemem) == x.id + 1
  | .mctp | .fmApi => false
  | .secured id => s.security.sessions.any fun x => x.carrier == 8 && x.established && x.id == id.toNat

/-- Why a write is refused whatever its value; 0 when its value is judged next. -/
def State.accessCode (s : State) (path : Path) (o sub : Nat) : Nat :=
  match s.reachCode o sub false with
  | 0 =>
    if o = 0x2040 ∧ path.num ≠ 1 then 0x0103
    else if o ≠ 0x2040 ∧ !(s.num 0x2040 1).testBit path.num then 0x0108
    else match (if sub = 0 then none else objRow o sub) with
    | none => 0x0103
    | some r =>
      if r.acc = .ro ∨ (0x300E ≤ o ∧ o ≤ 0x300F) then 0x0103
      else if r.ovl = .only then 0x0103
      else if r.acc = .rwd ∧ s.governed o then 0x0103
      else if 0xA000 ≤ o ∧ o ≤ 0xAFFF ∧ 1 ≤ s.lifecycle ∧ s.lifecycle ≤ 3 ∧ !s.inSession path then 0x0802
      else if o = 0xA020 ∧ sub = 1 ∧ s.lifecycle ≠ 1 then 0x0801
      else if o = 0xB010 ∧ s.lifecycle = 4 then 0x0B02
      else 0
  | c => c

/-- Why a numeric write is refused; 0 when it is accepted or starts its command. -/
def State.writeCode (s : State) (path : Path) (o sub v : Nat) : Nat :=
  match s.accessCode path o sub with
  | 0 =>
    match objRow o sub with
    | some r =>
      if !numOk o sub r.ty v then 0x0102
      else if o = 0x2010 ∧ sub = 1 ∧ s.num 0x2010 2 < v then 0x0901
      else 0
    | none => 0x0101
  | c => c

/-! ### Outcomes -/

/-- An access through the MMIO window leaves its registers as the access set them (Table 15-4). -/
def State.xwNote (s : State) (path : Path) (o sub op len piece code : Nat) (d : List Byte) : State :=
  match path with
  | .mmio =>
    let h := s.host
    let len := if op = 1 then bits h.xwCtrl 31 16 else len
    { s with host := { h with
        xwCtrl := o * 2 ^ 48 + sub * 2 ^ 40 + op * 2 ^ 32 + len * 2 ^ 16 + piece * 16
        xwReason := code, xwError := code != 0, xwReturned := if op = 1 ∧ code = 0 then d.length else 0
        xwData := if op = 2 ∨ code = 0 then patch (slice h.xwData 0 4096) 0 d else h.xwData } }
  | _ => s

/-- What a path is told: the reason code, and what a read returns. -/
def State.reply (s : State) (path : Path) (code : Nat) (d : List Byte) : State :=
  s.emit (.response path.num code d)

/-- The objects that blame records (R525): the five enables. -/
def isEnable (o sub : Nat) : Bool :=
  (o == 0x2000 && sub == 1) || (decide (0x4000 ≤ o ∧ o ≤ 0x403F) && sub == 4) || (decide (0xC000 ≤ o ∧ o ≤ 0xCFFF) && sub == 1) ||
    ((decide (0x7100 ≤ o ∧ o ≤ 0x7107) || decide (0x7200 ≤ o ∧ o ≤ 0x720F)) && sub == 1) || (o == 0x3010 && sub == 1)

/-- A refused enable is recorded with the object blamed, and raises its refusal event (R525, Table 20-2). -/
def State.blame (s : State) (code o sub : Nat) : State :=
  ((s.setNum 0x2000 3 code).setNum 0x2000 4 (objKey o sub)).raise
    { Event.of 0x15 s.conductorUnit (objKey o sub) with reason := code }

/-- The lowest of the objects a condition reads, by number then subindex. -/
def lowestKey (l : List Nat) : Nat := l.foldl min (l.headD 0)

/-- A numeric write that has been served: its gates, then its command or its store `op`, which answers its own code. -/
def State.writeVia (s : State) (path : Path) (o sub v : Nat) (op : State → State × Nat) : State :=
  if !s.serves then s.hold (.number path o sub v)
  else
    let len := (objRow o sub).elim 0 fun r => objBytes o sub r.ty
    match s.writeCode path o sub v with
    | 0 =>
      let (s, c) := op s
      (s.xwNote path o sub 2 len 0 c (leBytes len v)).reply path c []
    | c =>
      let s := if isEnable o sub && v != 0 then s.blame c o sub else s
      (s.xwNote path o sub 2 len 0 c (leBytes len v)).reply path c []

/-- A command or a store that cannot be refused once its gates are passed. -/
def State.writeDo (s : State) (path : Path) (o sub v : Nat) (op : State → State) : State :=
  s.writeVia path o sub v fun s => (op s, 0)

end Sys2Proof.Machine
end

