-- ==== Sys2Proof/Machine/Slots.lean ====
section
/-! DEFINITION. Image slots: loading, validation in the order of Table 4-23, activation, unloading
(04_instruction_and_image_reference.md R188 to R194, Table 4-25; 09 R330; 17 R561). -/

namespace Sys2Proof.Machine

/-- The object of an image slot. -/
def slotObj (k : Nat) : Nat := 0x4000 + k

/-- A check with a fixed code, as code and offset. -/
def withCode (code : Nat) (o : Option Nat) : Option (Nat × Nat) := o.map fun x => (code, x)

/-- The first check of Table 4-23 that an image fails: its code and the offset of the failing structure (R188). `cfg` is
the configuration in force when slot_enable was written (R194). -/
def State.validate (s : State) (b : List Byte) (i : Image) (cfg : HeldConfig) (k : Nat) : Option (Nat × Nat) :=
  let p := cfg.num (slotObj k) 3
  let checks : List (Unit → Option (Nat × Nat)) := [
    fun _ => withCode 0x0401 (check1 b (cfg.num (slotObj k) 2)),
    fun _ => withCode 0x0402 (check2 b),
    fun _ => withCode 0x0403 (check3 b),
    fun _ => withCode 0x0404 (check4 b),
    fun _ => withCode 0x0405 (check5 b),
    fun _ => withCode 0x0406 (check6 b),
    fun _ => check7 b i,
    fun _ => withCode 0x0408 (check8 b),
    fun _ => withCode 0x0408 (check8b b i),
    fun _ => withCode 0x0409 (check9 b),
    fun _ => withCode 0x040A (check10 b i),
    fun _ => withCode 0x040B (check11 b i cfg p),
    fun _ => withCode 0x040C (check12 b i),
    fun _ => withCode 0x0411 (check13 b),
    fun _ => withCode 0x040D (check14 b i),
    fun _ => withCode 0x040E (check15 b i),
    fun _ => check16 b i,
    fun _ => withCode 0x0413 (check17 b),
    fun _ => s.checkLimits b i cfg p k]
  checks.findSome? fun c => c ()

/-- `n` bytes of zeros, valid check bits, in device memory from `a`. -/
def State.zeroFill (s : State) (a n : Nat) : State :=
  s.forEach (granulesOf a n) fun t g => t.writeDevice Ram.empty 0 g.1 g.2

/-- The pages of a region copied from a tier window at activation: page number in the window, device address, bytes of the
page copied (R330). -/
def RegionE.copyPages (g : RegionE) (base : Nat) : List (Nat × Nat × Nat) :=
  (List.range (ceilDiv g.size 4096)).map fun j => (g.initOffset + j, base + 4096 * j, min 4096 (g.size - 4096 * j))

/-- A region initialised as its init field says: zeros, unless it is retained (R561), or the fills of its copy begun. -/
def State.initRegion (s : State) (p : Nat) (g : RegionE) (base : Nat) : State :=
  if g.init = 1 then
    s.forEach (g.copyPages base) fun t e => { t.fetchPage g.initWindow e.1 with fills := t.fills ++
      [{ window := g.initWindow, page := e.1, part := p, generation := t.num (0x5600 + g.initWindow) 4
         started := t.now, resent := false, target := some e.2.1, len := e.2.2, data := none, port := t.fillPort g.initWindow e.1 }] }
  else if s.num 0xB0F0 5 = 1 then s
  else s.zeroFill base g.size

/-- A fill in flight copies into a region of slot `k`. -/
def State.copying (s : State) (k : Nat) : Bool :=
  let b := s.slot k
  s.fills.any fun f => match f.target with
    | some a => b.bases.any fun e => match (s.imageOf k).region e.1 with
      | some g => decide (e.2 ≤ a) && decide (a < e.2 + g.size)
      | none => false
    | none => false

/-- The reads of the image of slot `k`, of up to 4 KiB (R192, R489). -/
def State.imageReads (s : State) (k : Nat) : List Output :=
  let a := s.num (slotObj k) 1
  let n := s.num (slotObj k) 2
  (List.range (ceilDiv n 4096)).map fun i => .hostRead (a + 4096 * i) (min 4096 (n - 4096 * i))

/-- The load now first in order begins its read of the image, where another load, or none, was first before: loads proceed one
at a time (Table 4-25). -/
def State.nextLoad (s : State) (before : List Nat) : State :=
  match s.loads with
  | [] => s
  | k :: _ => if before.head? = some k then s else s.emits (s.imageReads k)

/-- A slot whose image has passed its checks becomes ready once no copy into its regions is in flight (R192). -/
def State.settleSlot (s : State) (k : Nat) : State :=
  if s.num (slotObj k) 5 = 1 ∧ (s.slot k).image.isSome ∧ !s.copying k then
    let t := (s.modSlot k fun x => { x with held := none }).setNum (slotObj k) 5 2
    ({ t with loads := t.loads.erase k } : State).nextLoad s.loads
  else s

/-- The slot emptied: nothing loaded. -/
def State.emptySlot (s : State) (k : Nat) : State :=
  let mine := fun (f : Fill) => { s with fills := [f] }.copying k
  let s := { s with fills := s.fills.filter fun f => !mine f, loads := s.loads.erase k }
  let s := s.setSlot k .empty
  (((((s.setNum (slotObj k) 4 0).setNum (slotObj k) 5 0).setNum (slotObj k) 6 0).setBlob (slotObj k) 7 []).setNum
    (slotObj k) 8 0)

/-- The image of a slot refused: slot_enable 0, status 3, the offset, the code and the slot's object blamed (R192,
R525). -/
def State.refuseImage (s : State) (k code offset : Nat) : State :=
  let s := { s.setSlot k .empty with loads := s.loads.erase k }
  (((s.setNum (slotObj k) 4 0).setNum (slotObj k) 5 3).setNum (slotObj k) 9 offset).blame code (slotObj k) 0

/-- An image that has passed its checks is activated: its reference times computed (R599), its regions placed and
initialised, its groups' counters present (R374). -/
def State.activate (s : State) (k : Nat) (b : List Byte) (i : Image) : State :=
  let p := s.num (slotObj k) 3
  let i := { i with refs := i.brackets.flatMap fun e => i.refsOf e.bracket }
  let bases := (s.placeRegions i ((s.slot k).held.getD ⟨s.dict⟩) p k).getD []
  let s := s.modSlot k fun x => { x with image := some i, bases := bases }
  let s := ((s.setNum (slotObj k) 6 i.id).setBlob (slotObj k) 7 i.digest).setNum (slotObj k) 8 b.length
  let s := s.forEach bases fun t e => match i.region e.1 with
    | some g => t.initRegion p g e.2
    | none => t
  s.settleSlot k

/-- IMAGE_LOAD_COMPLETE: every byte of the image whose load is first in order has been read through P0 into the program store;
the image is validated and activated or refused, and the next load begins (R188, R192, Table 4-25). -/
def execImageLoadComplete (slot : BitVec 6) (bytes : List Byte) (s : State) : Host.Outcome State Fault Refusal :=
  .next (let k := slot.toNat
    if s.num (slotObj k) 5 ≠ 1 ∨ s.loads.head? ≠ some k ∨ (s.slot k).image.isSome then s
    else
      let i := parseImage bytes
      let cfg := (s.slot k).held.getD ⟨s.dict⟩
      let s := s.setNum (slotObj k) 8 bytes.length
      match s.validate bytes i cfg k with
      | some (code, offset) => (s.refuseImage k code offset).nextLoad s.loads
      | none => s.activate k bytes i)

/-- A write of 1 to slot_enable: the load takes its place in order with the configuration in force (R192, R194); refused while
the slot is loading (Table 4-25). A slot already loaded stays as it is. -/
def State.loadSlot (s : State) (k : Nat) : State × Nat :=
  let o := slotObj k
  if s.num o 5 = 1 then (s.blame 0x041A o 4, 0x041A)
  else if s.num o 4 = 1 then (s, 0)
  else
    let t := s.setSlot k ⟨none, [], some ⟨s.dict⟩⟩
    let t := (((t.setNum o 4 1).setNum o 5 1).setNum o 8 0).setNum o 9 0
    (({ t with loads := t.loads ++ [k] } : State).nextLoad s.loads, 0)

/-- True when a step on the image of a slot is admitted or running, or a ready image names it as its fallback
(Table 4-25). -/
def State.slotInUse (s : State) (k : Nat) : Bool :=
  let p := s.num (slotObj k) 3
  ((List.range 16).any fun q => (s.part q).steps.any fun x => x.slot == k || x.req.slot == k) ||
    (s.num (slotObj k) 6 != 0 && (List.range 64).any fun j =>
      j != k && s.num (slotObj j) 5 == 2 && s.num (slotObj j) 3 == p &&
        (s.imageOf j).fallbackId == s.num (slotObj k) 6)

/-- A write of 0 to slot_enable: a load stops, an image is unloaded unless it is in use (Table 4-25). -/
def State.unloadSlot (s : State) (k : Nat) : State × Nat :=
  if s.num (slotObj k) 5 = 1 then ((s.emptySlot k).nextLoad s.loads, 0)
  else if s.num (slotObj k) 4 = 0 then (s, 0)
  else if s.slotInUse k then (s, 0x041B)
  else (s.emptySlot k, 0)

/-- SLOT_ENABLE (R192). -/
def execSlotEnable (path : Path) (slot : BitVec 6) (s : State) : Host.Outcome State Fault Refusal :=
  .next (s.writeVia path (slotObj slot.toNat) 4 1 fun s => s.loadSlot slot.toNat)

/-- SLOT_DISABLE (R192). -/
def execSlotDisable (path : Path) (slot : BitVec 6) (s : State) : Host.Outcome State Fault Refusal :=
  .next (s.writeVia path (slotObj slot.toNat) 4 0 fun s => s.unloadSlot slot.toNat)

end Sys2Proof.Machine
end

