-- ==== Sys2Proof/Machine/Export.lean ====
section
/-! DEFINITION. Writes into an export window's staging ring (09 R331), and the order of a negative (12 R417 to R421). -/

namespace Sys2Proof.Machine

def State.exportW (s : State) (w : Nat) : Export := tabGet Export.idle s.exports w
def State.setExport (s : State) (w : Nat) (e : Export) : State := { s with exports := tabSet Export.idle s.exports w e }

/-- The ring size of an export window in bytes. -/
def State.ringSize (s : State) (w : Nat) : Nat := s.num (0x5700 + w) 4 * 2 ^ 20

/-- The directory entries of a part: offset and length of each section, up to the first entry without a type (Table 12-6). -/
def negSections (dir : List Byte) : List (Nat × Nat) :=
  ((chunksOf 32 (dir.length / 32) dir).takeWhile fun e => leAt e 0 2 != 0).map fun e => (leAt e 8 8, leAt e 16 8)

/-- A directory entry of a reserved type, or with a reserved byte that is not zero (R11, Table 12-6); one without a type ends the
directory. -/
def badNegEntry (e : List Byte) : Bool :=
  let t := leAt e 0 2
  (decide (5 < t) && decide (t < 0x8000)) || leAt e 2 6 != 0 || leAt e 0x18 8 != 0

/-- A negative fails: status 3, the reason, the export-fault event (R420). -/
def State.negFail (s : State) (w code : Nat) : State :=
  ((s.setNum (0x5700 + w) 8 3).setNum (0x5700 + w) 9 code).raise
    { Event.of 0x0D s.conductorUnit w with reason := code }

/-- Sections of no bytes that come next are complete, with the digest of nothing. -/
def Export.skipEmpty : Nat → Export → Export
  | 0, e => e
  | fuel + 1, e => match (negSections e.negDir)[e.negIdx]? with
    | some (_, 0) =>
      if e.negBuf.isEmpty then
        Export.skipEmpty fuel { e with negIdx := e.negIdx + 1, negDigests := e.negDigests ++ sha256 [] }
      else e
    | _ => e

/-- Where the bytes written last end: the directory, or the section before the next one. -/
def Export.negEnd (e : Export) : Nat :=
  if e.negIdx = 0 then 0x1000 + e.negDir.length
  else match (negSections e.negDir)[e.negIdx - 1]? with
    | some (off, len) => off + len
    | none => 0

/-- The most a write of bytes `d` at window offset `o` of a negative advances it at once, and how many bytes that takes: a piece
of a directory entry, bytes between two sections, a piece of a section; none when it breaks the order of R420 or completes an entry
at fault (R11; log entry 231). -/
def Export.negPiece (e : Export) (o : Nat) (d : List Byte) : Option (Export × Nat) :=
  let next := (negSections e.negDir)[e.negIdx]?
  let first := (negSections e.negDir).head?
  if e.negIdx = 0 ∧ e.negBuf.isEmpty ∧ o = 0x1000 + e.negDir.length ∧ (first.all fun f => decide (o < f.1)) then
    let k := min d.length (32 - e.negDir.length % 32)
    let dir := e.negDir ++ d.take k
    if dir.length % 32 = 0 ∧ badNegEntry (dir.drop (dir.length - 32)) then none else some ({ e with negDir := dir }, k)
  else match next with
  | none => if 0 < e.negIdx ∧ e.negEnd ≤ o then some (e, d.length) else none
  | some (off, len) =>
    if e.negBuf.isEmpty ∧ e.negEnd ≤ o ∧ o < off then some (e, min d.length (off - o))
    else if o ≠ off + e.negBuf.length then none
    else
      let k := min d.length (len - e.negBuf.length)
      let buf := e.negBuf ++ d.take k
      if buf.length = len then
        some ({ e with negIdx := e.negIdx + 1, negBuf := [], negDigests := e.negDigests ++ sha256 buf }, k)
      else some ({ e with negBuf := buf }, k)

/-- A write of bytes `d` at window offset `o` of a negative, outside the seal block: what it advances, or none when it breaks
the order of R420; a write that follows the sealing ST does. -/
def Export.negWrite (e : Export) : Nat → Nat → List Byte → Option Export
  | 0, _, _ => none
  | fuel + 1, o, d =>
    if d.isEmpty then some e
    else if e.sealBlock.isSome then none
    else
      let e := e.skipEmpty 121
      match e.negPiece o d with
      | none => none
      | some (e, k) => e.negWrite fuel (o + k) (d.drop k)

/-- Bytes of a memory image appended to the ring by a unit of die `die` (R331). -/
def State.ringAppend (s : State) (die p w o : Nat) (img : Ram) (b n : Nat) : State :=
  let e := s.exportW w
  let size := max (s.ringSize w) 1
  let pos := e.written % size
  let k := min n (size - pos)
  let s := s.meshWrite die img b (s.ringBase w + pos) k
  let s := s.meshWrite die img (b + k) (s.ringBase w) (n - k)
  s.setExport w { e with staged := e.staged ++ [⟨p, o, pos, n⟩], written := e.written + n }

/-- A write into the seal block seals the part (R419, R421). A section count outside 1 to 120 fails it, and so does a reserved byte
of the header that is not zero (R11, Table 12-5; log entry 231), a directory of another number of entries, or a section not wholly
written. -/
def State.negSeal (s : State) (w o : Nat) (d : List Byte) : State :=
  let e := (s.exportW w).skipEmpty 121
  let blk := patch (e.sealBlock.getD (List.replicate 4096 0)) o d
  let n := leAt blk 6 2
  if n = 0 ∨ 120 < n ∨ ((blk.drop 0x70).take 144).any (· ≠ 0) then s.negFail w 0x030E
  else if e.negIdx ≠ n ∨ (negSections e.negDir).length ≠ n then s.negFail w 0x030D
  else s.setExport w { e with sealBlock := some blk, sealAt := if e.sealBlock.isSome then e.sealAt else e.written }

/-- A write of a negative outside the seal block, its order judged (R420); it drains whatever the order says (R419). -/
def State.negBody (s : State) (die p w o : Nat) (img : Ram) (b n : Nat) : State :=
  let d := (img.fetch b n).bytes
  let s := if s.num (0x5700 + w) 8 = 3 then s
    else match (s.exportW w).negWrite (n + 122) o d with
      | none => s.negFail w 0x030D
      | some e => (s.setExport w e).setNum (0x5700 + w) 8 1
  s.ringAppend die p w o img b n

/-- Bytes `b` to `b + n - 1` of a memory image written by partition `p`, from die `die`, to offset `o` of export window `w` (R331,
R419). -/
def State.stage (s : State) (die p w o : Nat) (img : Ram) (b n : Nat) : State :=
  if n = 0 then s
  else if s.num (0x5700 + w) 7 = 1 then
    let k := min n (4096 - o)
    let s := if k = 0 ∨ s.num (0x5700 + w) 8 = 3 then s else s.negSeal w o (img.fetch b k).bytes
    if k = n then s else s.negBody die p w (o + k) img (b + k) (n - k)
  else if o = 0 ∧ leAt (img.fetch b n).bytes 0 4 = 0x47454E50 then
    (s.negFail w 0x030E).ringAppend die p w o img b n
  else s.ringAppend die p w o img b n

end Sys2Proof.Machine
end

