-- ==== Sys2Proof/Machine/Transfer.lean ====
section
/-! DEFINITION. The load and store engines: LD, LDP, HALO, ST of modes 0 to 2 (04 R172 to R178; 06 R240 to R245;
08 R283 to R285; 09 R331; 10 R345 to R347; 11 R370 to R372, R398). -/

namespace Sys2Proof.Machine

/-- The running step of an act. -/
def State.stepAt (s : State) (a : Act) : Option Step := s.running a.p

/-- The region of a descriptor for an act. -/
def State.regionFor (s : State) (a : Act) (d : Desc) : Option RegionE :=
  (s.stepAt a).bind fun x => (s.imageOf x.slot).region d.region.toNat

/-- The start of a tile in a kind-7 region: the cluster and the byte address in its buffer. -/
def clusterPlace (a : Act) (d : Desc) (g : RegionE) : Nat × Nat :=
  (g.clusterOf (clusterOf a.c), g.base * 256 + (d.loc a.loops 0).memOff.toNat)

/-- The bytes of a tile fetched from the memory side into a memory image from address 0, check bits kept. -/
def State.memFetch (s : State) (a : Act) (x : Step) (d : Desc) (g : RegionE) : State × Ram :=
  let die := clusterOf a.c / 4
  if g.kind = 7 then
    let (k, b) := clusterPlace a d g
    if k = clusterOf a.c ∨ s.reach die (k / 4) then
      (s, Ram.copy (s.cluster k).buf .empty b 0 d.bytes)
    else (s, Ram.empty.unreachable 0 d.bytes)
  else
    (d.memRows g a.loops).zipIdx.foldl (fun (acc : State × Ram) r =>
      acc.1.readRegion die a.p x g r.1.1 r.1.2 acc.2 (r.2 * d.rowBytes)) (s, Ram.empty)

/-- Landing counter `n` of cluster `k` is read to count: a corrected word counts on the die, an uncorrectable one is a data fault of
the running step and fences the cluster (R617, R618, fence cause 6). -/
def State.landCheck (s : State) (k n : Nat) : State :=
  let die := sub1 (k / 4)
  match maskCheck (tabGet 0 (s.cluster k).landErrs n) with
  | .clean => s
  | .uncorrectable =>
    let s := s.count 0x8041 die 1
    let e := Event.of 0x01 (unitId (k / 4) (k % 4) 0xF 0xF) (8 * n)
    (match s.partOfCluster k with
      | some p => s.raiseBreach p { e with step := s.runningSeq p }
      | none => s.raise e).fenceCluster k 6
  | _ => s.count 0x8040 die 1

/-- Landing counters of a cluster count the granules written through a mesh port (R130). -/
def State.landGranules (s : State) (k a n : Nat) : State :=
  let gs := rangeFrom (a / 256) (if n = 0 then 0 else (a + n - 1) / 256 + 1 - a / 256)
  let hits := fun (l : Landing) =>
    if l.bound then (gs.filter fun g => decide (l.start ≤ g) && decide (g < l.start + l.granules)).length else 0
  let s := if (s.cluster k).landErrs.isEmpty then s
    else s.forEach ((s.cluster k).land.filter fun e => hits e.2 != 0) fun s e => s.landCheck k e.1
  s.modCluster k fun c => { c with land := c.land.map fun e =>
    let l := e.2
    if !l.bound then e
    else
      let t := max l.threshold 1
      (e.1, { l with count := (l.count + hits l) % t, due := l.due + (l.count + hits l) / t }) }

/-- Bytes of a memory image written into a cluster buffer, through a mesh port or a core port. -/
def State.putCluster (s : State) (mesh : Bool) (k : Nat) (img : Ram) (b a n : Nat) : State :=
  let s := s.copyLocal (9 * k) 1 img b a n
  if mesh then s.landGranules k a n else s

/-- Counters of mesh traffic with the stacks (Table 19-1): bytes read or written for a partition. -/
def State.meshBytes (s : State) (p sub n : Nat) : State := s.count (0x8010 + p) sub n

/-- The effect of LD (R172): memory side to local side, each word with its check bits (R103). -/
def State.loadEffect (s : State) (a : Act) (d : Desc) : State :=
  match s.stepAt a, s.regionFor a d with
  | some x, some g =>
    let (s, img) := s.memFetch a x d g
    let s := if g.kind = 7 then s else s.meshBytes a.p 1 d.bytes
    let sp := d.localSpace.toNat
    let l := (d.loc a.loops 0).local0
    s.copyLocal a.pc sp img 0 l d.bytes
  | _, _ => s

/-- Ring bytes a step reserved at acceptance are spent as it writes them (R332). -/
def State.spendRing (s : State) (p w n : Nat) : State :=
  s.modRunning p fun x => { x with exports := x.exports.map fun e => if e.1 = w then (w, e.2 - n) else e }

/-- The effect of a data ST (R172): local side to memory side. -/
def State.storeEffect (s : State) (a : Act) (d : Desc) : State :=
  match s.stepAt a, s.regionFor a d with
  | some x, some g =>
    let die := clusterOf a.c / 4
    let ram := s.localRam a.pc d.localSpace.toNat
    let l := (d.loc a.loops 0).local0
    if g.kind = 7 then
      let (k, b) := clusterPlace a d g
      if k = clusterOf a.c then s.putCluster false k ram l b d.bytes
      else if s.reach die (k / 4) then s.putCluster true k ram l b d.bytes
      else s
    else
      let rows := (d.memRows g a.loops).zipIdx
      if g.kind = 6 then
        (s.forEach rows fun s r => s.stage die a.p g.ref (g.base + r.1.1) ram (l + r.2 * d.rowBytes) r.1.2).spendRing a.p
          g.ref d.bytes
      else (s.forEach rows fun s r => s.writeRegion die a.p x g r.1.1 r.1.2 ram (l + r.2 * d.rowBytes)).meshBytes
        a.p 2 d.bytes
  | _, _ => s

/-- The timing of a transfer of `g` granules, local or timed by its window (Table 3-4, R138, R173). -/
def transferTiming (isLocal : Bool) (g : Nat) : Timing :=
  ⟨g, g, if isLocal then some (24 + g) else none, none, g⟩

/-- True when the region of a transfer is local to the core (R173). -/
def State.isLocal (s : State) (a : Act) (d : Desc) : Bool :=
  match s.regionFor a d with
  | some g => g.isLocal (clusterOf a.c)
  | none => false

/-- The descriptor of an act. -/
def State.descAt (s : State) (a : Act) (i : BitVec 12) : Desc := (s.core a.pc).sq.prog.desc i.toNat

/-- LD (R172). -/
def execLd (c : CoreId) (h : Header) (desc : BitVec 12) (s : State) : Host.Outcome State Fault Refusal :=
  .next (s.issue c.toNat 3 (.ld h desc) fun s a =>
    let d := s.descAt a desc
    ⟨none, [], true, true, transferTiming (s.isLocal a d) d.granules, fun s => s.loadEffect a d⟩)

/-- ST of mode 0 (R172). -/
def execSt (c : CoreId) (h : Header) (desc : BitVec 12) (s : State) : Host.Outcome State Fault Refusal :=
  .next (s.issue c.toNat 4 (.st h ⟨desc, 0, 0⟩) fun s a =>
    let d := s.descAt a desc
    ⟨none, [], true, true, transferTiming (s.isLocal a d) d.granules, fun s => s.storeEffect a d⟩)

/-! ### HALO (R283 to R285) -/

/-- The effect of an outbound HALO: local rows to the remote region. -/
def State.haloOut (s : State) (a : Act) (f : HaloFields) : State :=
  let dl := s.descAt a f.descLocal
  let dr := s.descAt a f.descRemote
  match s.regionFor a dr with
  | none => s
  | some g =>
    let (k, b) := clusterPlace a dr g
    let own := decide (k = clusterOf a.c)
    let ram := s.localRam a.pc dl.localSpace.toNat
    if own || s.reach (clusterOf a.c / 4) (k / 4) then s.putCluster (!own) k ram (dl.loc a.loops 0).local0 b dl.bytes
    else s

/-- The effect of an inbound HALO: the own cluster's rows to the local rows. -/
def State.haloIn (s : State) (a : Act) (f : HaloFields) : State :=
  let dl := s.descAt a f.descLocal
  let dr := s.descAt a f.descRemote
  match s.regionFor a dr with
  | none => s
  | some g =>
    let (_, b) := clusterPlace a dr g
    let sp := dl.localSpace.toNat
    let l := (dl.loc a.loops 0).local0
    s.copyLocal a.pc sp (s.cluster (clusterOf a.c)).buf b l dl.bytes

/-- HALO: outbound in the store stream, inbound in the load stream (R283). -/
def execHalo (c : CoreId) (outbound : Bool) (h : Header) (f : HaloFields) (s : State) :
    Host.Outcome State Fault Refusal :=
  .next (s.issue c.toNat (if outbound then 4 else 3) (.halo h f) fun s a =>
    let d := s.descAt a f.descLocal
    ⟨none, [], true, true, transferTiming (!outbound || s.isLocal a (s.descAt a f.descRemote)) d.granules,
      fun s => if outbound then s.haloOut a f else s.haloIn a f⟩)

/-! ### LDP (R240 to R245) -/

/-- A page-list entry (Table 6-7): KV page address, position page address, tokens; none when it breaks the table. -/
def pageEntry (w0 w1 : Nat) : Option (Nat × Nat × Nat) :=
  let tokens := w0 % 512
  if bits w0 63 56 ≠ 0 ∨ bits w0 15 9 ≠ 0 ∨ bits w1 63 56 ≠ 0 ∨ bits w1 10 0 ≠ 0 ∨ tokens = 0 ∨ 256 < tokens then none
  else some (bits w0 55 16 * 65536, bits w1 55 11 * 2048, tokens)

/-- True when a range lies wholly in a region of one of `kinds` of a ready image of partition `p`. -/
def State.inRegions (s : State) (p : Nat) (kinds : List Nat) (a n : Nat) : Bool :=
  (List.range 64).any fun k =>
    s.num (0x4000 + k) 3 == p && (s.slot k).bases.any fun b =>
      match (s.imageOf k).region b.1 with
      | some g => kinds.contains g.kind && decide (b.2 ≤ a) && decide (a + n ≤ b.2 + g.size)
      | none => false

/-- What a walk has gathered: the block as a memory image (K rows, V transposed, records), rows written, and where
it stopped. -/
structure Walk where
  img : Ram
  rows : Nat
  /-- True after a walk fault. -/
  fault : Bool
  /-- Device addresses of the uncorrectable words of the list entry that ended it. -/
  badList : List Nat
deriving DecidableEq, Repr

/-- Token `slot` of a page becomes row `r` of a block of `n` rows (R237, R242). -/
def State.walkToken (s : State) (die : Nat) (img : Ram) (n kv pos slot r : Nat) : State × Ram :=
  let (s, g) := s.meshRead die (kv + 256 * slot) 256
  let (s, q) := s.meshRead die (pos + 8 * slot) 8
  let img := Ram.copy g img 0 (128 * r) 128
  let img := (List.range 128).foldl (fun m e => Ram.copy g m (128 + e) (128 * n + e * n + r) 1) img
  (s, Ram.copy q img 0 (256 * n + 8 * r) 8)

/-- One entry of a page-list walk (R240, R245). -/
def State.walkEntry (s : State) (a : Act) (x : Step) (g : RegionE) (n off : Nat) (w : Walk) : State × Walk :=
  let die := clusterOf a.c / 4
  if w.fault || !w.badList.isEmpty then (s, w)
  else if g.size < off + 16 then (s, { w with fault := true })
  else
    let (s, img) := s.readRegion die a.p x g off 16 Ram.empty 0
    let f := img.fetch 0 16
    let s := s.count 0x8040 (sub1 (a.pc / 36)) f.ce.length
    if !f.ue.isEmpty then
      (s, { w with badList := f.ue.map fun u => ((s.regionAddr a.p x g off).getD off) / 8 * 8 + 8 * u })
    else
      match pageEntry (leAt f.bytes 0 8) (leAt f.bytes 8 8) with
      | none => (s, { w with fault := true })
      | some (kv, pos, tokens) =>
        if !(s.inRegions a.p [1, 2] kv 65536 && s.inRegions a.p [1, 2] pos 2048) || decide (n < w.rows + tokens) then
          (s, { w with fault := true })
        else
          let (s, img) := (List.range tokens).foldl (fun (t : State × Ram) k =>
            t.1.walkToken die t.2 n kv pos k (w.rows + k)) (s, w.img)
          (s, { w with img := img, rows := w.rows + tokens })

/-- The block with its missing rows filled: +0 keys and values, padding records (R243). -/
def padBlock (n rows : Nat) (img : Ram) : Ram :=
  (rangeFrom rows (n - rows)).foldl (fun m r =>
    let m := m.write (128 * r) (List.replicate 128 0)
    let m := (List.range 128).foldl (fun m e => m.write (128 * n + e * n + r) [0]) m
    m.write (256 * n + 8 * r) (leBytes 8 (0xFFFF * 2 ^ 48))) img

/-- The byte ranges of a block of `n` rows, as (offset, length), that its first `rows` rows take: K rows, V transposed, records. -/
def blockRanges (n rows : Nat) : List (Nat × Nat) :=
  if rows = n then [(0, 264 * n)]
  else (0, 128 * rows) :: ((List.range 128).map fun e => (128 * n + e * n, rows)) ++ [(256 * n, 8 * rows)]

/-- The effect of LDP: the walk, its block written to the local side, its faults, one for each bad word of a list entry (R104). A
faulting walk leaves the rows it wrote (Table 6-8). -/
def State.ldpEffect (s : State) (a : Act) (f : LdpFields) : State :=
  let d := s.descAt a f.descData
  let dl := s.descAt a f.descList
  let n := d.rows.toNat
  match s.stepAt a, s.regionFor a dl with
  | some x, some g =>
    let start := (dl.loc a.loops 0).memOff.toNat + 16 * f.first.toNat
    let sp := d.localSpace.toNat
    let l := (d.loc a.loops 0).local0
    let (s, w) := (List.range f.entries.toNat).foldl (fun (t : State × Walk) k =>
      t.1.walkEntry a x g n (start + 16 * k) t.2) (s, ⟨.empty, 0, false, []⟩)
    let cut := w.fault || !w.badList.isEmpty
    let img := if cut then w.img else padBlock n w.rows w.img
    let s := (s.meshBytes a.p 1 ((n + n / 32) * 256)).forEach (blockRanges n (if cut then w.rows else n)) fun s r =>
      s.copyLocal a.pc sp img r.1 (l + r.1) r.2
    let s := s.forEach w.badList fun s addr => s.dataFault a.p a.pc a.u addr
    if w.fault then s.scheduleFault a.p a.pc a.u a.idx else s
  | _, _ => s

/-- LDP: a page-list walk (R240), n + n/32 granules (R244). -/
def execLdp (c : CoreId) (h : Header) (f : LdpFields) (s : State) : Host.Outcome State Fault Refusal :=
  .next (s.issue c.toNat 3 (.ldp h f) fun s a =>
    let n := (s.descAt a f.descData).rows.toNat
    let g := n + n / 32
    ⟨none, [], true, true, ⟨g, g, none, none, g⟩, fun s => s.ldpEffect a f⟩)

/-! ### ST of mode 1 (R370 to R372, R398) -/

/-- The collective entry an ST names. -/
def State.collEntry (s : State) (a : Act) (coll : Nat) : Option CollE :=
  (s.stepAt a).bind fun x => (s.imageOf x.slot).colls.find? (·.index == coll)

/-- The instance a step has already started for an entry (R372): an entry of another image, which a dodge has put in its place, is
another entry. -/
def State.stepInst (s : State) (x : Step) (e : CollE) : Option Inst :=
  s.coll.insts.find? fun i => x.insts.contains (instKey i.group i.seq) && decide (i.entry = e)

/-- True when the instance of an ST of mode 1 exists or can open (R398). -/
def State.canOpen (s : State) (a : Act) (coll : Nat) : Bool :=
  match s.stepAt a, s.collEntry a coll with
  | some x, some e =>
    (s.stepInst x e).isSome || s.slotFor a.p x.req.epoch e.orderKey != 0 ||
      -- an instance a peer's message has already made known keeps its slot; one it has aborted needs none (R403)
      (s.coll.insts.any fun i => i.group == e.group && i.seq == s.nextSeq a.p e.group && !s.outlived a.p i &&
        (i.slot != 0 || i.abort.isSome))
  | _, _ => true

/-- The instance buffer of an ST of mode 1: device address and kind of its region (R370). -/
def State.instBuffer (s : State) (x : Step) (g : RegionE) : Nat :=
  (((s.slot x.slot).bases.find? (·.1 == g.region)).map (·.2)).getD 0

/-- The step's instance of an entry, opened when it does not exist (R372, R374); the number is its seq. One that a message has
made known takes the entry and the epoch of the step that opens it (R397). -/
def State.openInst (s : State) (a : Act) (x : Step) (e : CollE) (g : RegionE) : State × Nat :=
  match s.stepInst x e with
  | some i => (s, i.seq)
  | none =>
    let seq := s.nextSeq a.p e.group
    let s := s.forgetOld a.p e.group seq
    let s := s.modPart a.p fun q => { q with groupSeq := tabSet 0 q.groupSeq e.group ((seq + 1) % 65536) }
    let s := s.modRunning a.p fun y => { y with insts := y.insts ++ [instKey e.group seq] }
    let s := s.count (0x8050 + a.p) 2 1
    match s.inst e.group seq with
    | some _ => (s.modInst e.group seq fun i => { i with
        part := a.p, epoch := x.req.epoch, key := e.orderKey, entry := e, started := true, base := s.instBuffer x g, speculative := x.speculative
        slot := if i.slot = 0 then s.slotFor a.p x.req.epoch e.orderKey else i.slot }, seq)
    | none =>
      let i : Inst :=
        { part := a.p, group := e.group, seq := seq, epoch := x.req.epoch, key := e.orderKey, entry := e
          started := true, slot := s.slotFor a.p x.req.epoch e.orderKey, base := s.instBuffer x g
          written := [], chunks := [], abort := none, speculative := x.speculative
          used := false, signals := [], first := none, readyAt := none }
      ({ s with coll := { s.coll with insts := s.coll.insts ++ [i] } }, seq)

/-- The header of a message of an instance (Table 11-5). -/
def State.collHeader (s : State) (kind : Nat) (i : Inst) (dst chunk first span round : Nat) : CollMsg :=
  { kind := BitVec.ofNat 8 kind, round := BitVec.ofNat 8 round, status := 0, rsv03 := 0
    group := BitVec.ofNat 16 i.group, seq := BitVec.ofNat 16 i.seq, epoch := BitVec.ofNat 16 i.epoch
    rankCount := BitVec.ofNat 16 i.entry.ranks.length, orderKey := BitVec.ofNat 32 i.key
    srcModule := BitVec.ofNat 32 s.moduleId, dstModule := BitVec.ofNat 32 dst, chunk := BitVec.ofNat 32 chunk
    nodeFirst := BitVec.ofNat 16 first, nodeSpan := BitVec.ofNat 16 span
    operation := BitVec.ofNat 8 i.entry.operation, dataFmt := BitVec.ofNat 8 i.entry.dataFmt, rsv22 := 0
    chunkBytes := BitVec.ofNat 32 i.entry.chunkBytes, length := BitVec.ofNat 64 i.entry.length
    lowEpoch := 0, lowGroup := 0, lowSeq := 0, rsv36 := 0, lowKey := 0, keyOfQuery := 0 }

/-- A function applied to the newest flight of a core. -/
def State.modFlight (s : State) (pc : Nat) (f : Flight → Flight) : State :=
  s.modCore pc fun k =>
    let fs := k.sq.flights
    { k with sq := { k.sq with flights := fs.modify (fs.length - 1) f } }

/-- The granules that a list of byte ranges touches, as runs: first granule and count; runs that meet are joined. -/
def granuleRuns (l : List (Nat × Nat)) : List (Nat × Nat) :=
  (l.map fun r => (r.1 / 256, (r.1 + r.2 + 255) / 256 - r.1 / 256)).foldr (fun r t => match t with
    | [] => [r]
    | q :: t => if r.1 + r.2 = q.1 then (r.1, r.2 + q.2) :: t else r :: q :: t) []

/-- The effect of an ST of mode 1: its granules written into the input area, a CSTART to the X-dies for each run of them (R370,
R371, R383). In a rerun, one for an instance that the step already had writes nothing (R393, Table 11-8). -/
def State.collStart (s : State) (a : Act) (d : Desc) (coll : Nat) : State :=
  match s.stepAt a, s.regionFor a d, s.collEntry a coll with
  | some x, some g, some e =>
    let rerun := (s.stepInst x e).any fun i => x.oldInsts.contains (instKey i.group i.seq)
    let (s, seq) := s.openInst a x e g
    let s := s.modFlight a.pc fun f => { f with inst := instKey e.group seq + 1 }
    let empty := decide (s.inputBytes e = 0)
    if rerun then s
    else
      let s := if empty then s else s.storeEffect a d
      let runs := if empty then [(0, 0)] else granuleRuns (d.memRows g a.loops)
      match s.inst e.group seq with
      | some i => s.emits (runs.map fun r => .cstart (s.collHeader 0x30 i s.moduleId 0 0 0 0) r.1 r.2)
      | none => s
  | _, _, _ => s

/-- ST of mode 1 (R370). -/
def execStCollectiveStart (c : CoreId) (h : Header) (desc : BitVec 12) (coll : BitVec 16) (s : State) :
    Host.Outcome State Fault Refusal :=
  .next (s.issue c.toNat 4 (.st h ⟨desc, 1, coll⟩) fun s a =>
    let d := s.descAt a desc
    ⟨none, [], s.canOpen a coll.toNat, true, transferTiming false d.granules, fun s => s.collStart a d coll.toNat⟩)

/-! ### ST of mode 2 (R345 to R349) -/

/-- The M-dies a command region names (R345). -/
def commandStacks (g : RegionE) : List Nat := if g.kind = 2 then [g.place] else List.range 24

/-- The number of commands in a run of granules, by the counts their headers state (R347). -/
def commandCount (granules : List (List Byte)) : Nat → Nat
  | 0 => 0
  | fuel + 1 =>
    match granules with
    | [] => 0
    | h :: _ => 1 + commandCount (granules.drop (max 1 (leAt h 1 1))) fuel

/-- The effect of an ST of mode 2: one NCMD for every granule to every M-die of its region, in order (R347). The tag
carries the core and the granule's number, the granule field the number left and the kind of the region (DESIGN CHOICE: log entry
16). -/
def State.commandSend (s : State) (a : Act) (d : Desc) : State :=
  match s.stepAt a, s.regionFor a d with
  | some _, some g =>
    let ram := s.localRam a.pc d.localSpace.toNat
    let l := (d.loc a.loops 0).local0
    let n := d.granules
    let gs := (List.range n).map fun i => ram.readRaw (l + 256 * i) 256
    let dies := commandStacks g
    let s := s.forEach dies fun s k => s.forEach (List.range n) fun s i =>
      let t : TxHeader :=
        { opcode := 0x20, srcDie := BitVec.ofNat 6 (clusterOf a.c / 4), srcCluster := BitVec.ofNat 2 (clusterOf a.c % 4)
          dstDie := BitVec.ofNat 6 (mDie k), dstCluster := 0, msgClass := 0
          tag := BitVec.ofNat 12 (a.c % 8 * 512 + i % 512), age := 0, partition := BitVec.ofNat 4 a.p
          granule := BitVec.ofNat 48 (2 * (n - i) + (if g.kind = 2 then 1 else 0)), mask := 0 }
      s.sendPacket t ((List.range 32).map fun w =>
        if l % 8 = 0 then ram.codeWord ((l + 256 * i) / 8 + w)
        else eccEncode (BitVec.ofNat 64 (leNat (ram.readRaw (l + 256 * i + 8 * w) 8))))
    let s := s.modFlight a.pc fun f => { f with acks := n * dies.length }
    let more := commandCount gs (n + 1) * dies.length
    s.modRunning a.p fun y => { y with nmuOpen := tabMod 0 y.nmuOpen a.c (· + more) }
  | _, _ => s

/-- ST of mode 2 (R345). -/
def execStNmuCommand (c : CoreId) (h : Header) (desc : BitVec 12) (s : State) : Host.Outcome State Fault Refusal :=
  .next (s.issue c.toNat 4 (.st h ⟨desc, 2, 0⟩) fun s a =>
    let d := s.descAt a desc
    ⟨none, [], true, true, transferTiming false d.granules, fun s => s.commandSend a d⟩)

end Sys2Proof.Machine
end

