-- ==== Sys2Proof/Machine/NmuOps.lean ====
section
/-! DEFINITION. Beside-memory commands (10_beside_memory_units.md): transaction headers and granules, the command buffer
of an M-die (R346 to R348), the checks of R350, records (R351, R352), the tree of R94. -/

namespace Sys2Proof

/-- The device address of a transaction's granule (R23). -/
def TxHeader.address (t : TxHeader) : Nat := t.granule.toNat * 256

/-- A response header to the sender of `t`. -/
def TxHeader.back (t : TxHeader) (op : Nat) : TxHeader :=
  { t with opcode := BitVec.ofNat 6 op, srcDie := t.dstDie, srcCluster := t.dstCluster, dstDie := t.srcDie
           dstCluster := t.srcCluster, msgClass := 1, mask := 0 }

end Sys2Proof

namespace Sys2Proof.Machine

/-- A granule of zero data whose check bits are 0xFF in every word. -/
def poisonGranule : List CodeWord := List.replicate 32 poisonMask

/-- The words of a granule as bytes, uncorrected. -/
def wordBytes (ws : List CodeWord) : List Byte := ws.flatMap fun w => leBytes 8 (codeData w).toNat

/-- The words that a producer stores bytes as (R100). -/
def codeOf (d : List Byte) : List CodeWord :=
  (chunksOf 8 ((d.length + 7) / 8) d).map fun b => eccEncode (BitVec.ofNat 64 (leNat b))

/-! ### The tree of R94 -/

/-- One level of the tree: adjacent pairs combined, an element left over passed up. -/
def treeLevel {α : Type} (f : α → α → α) : List α → List α
  | a :: b :: t => f a b :: treeLevel f t
  | l => l

/-- The single element of the top level, `fuel` levels at most. -/
def treeUp {α : Type} (f : α → α → α) (d : α) : Nat → List α → α
  | 0, l => l.headD d
  | fuel + 1, l => match l with
    | [] => d
    | [a] => a
    | l => treeUp f d fuel (treeLevel f l)

/-- The tree of R94 over a list; `d` for an empty one. -/
def treeFold {α : Type} (f : α → α → α) (d : α) (l : List α) : α := treeUp f d (l.length + 1) l

/-! ### Command headers -/

/-- The fields of a command header (Tables 10-4 and 10-5). -/
def NmuCmd.header (c : NmuCmd) : List Byte := c.granules.headD []
def NmuCmd.kind (c : NmuCmd) : Nat := leAt c.header 0 1
def NmuCmd.count (c : NmuCmd) : Nat := leAt c.header 1 1
def NmuCmd.tag (c : NmuCmd) : Nat := leAt c.header 4 4
def NmuCmd.retDie (c : NmuCmd) : Nat := leAt c.header 8 1
def NmuCmd.retCluster (c : NmuCmd) : Nat := leAt c.header 9 1
def NmuCmd.retBase (c : NmuCmd) : Nat := leAt c.header 0xC 4
def NmuCmd.addr (c : NmuCmd) : Nat := leAt c.header 0x40 8
def NmuCmd.entries (c : NmuCmd) : Nat := leAt c.header 0x48 2
def NmuCmd.heads (c : NmuCmd) : Nat := leAt c.header 0x4A 1
def NmuCmd.kvFmt (c : NmuCmd) : Nat := if leAt c.header 0x4B 1 = 0 then 0x4 else 0x5
def NmuCmd.blockOrdered (c : NmuCmd) : Bool := leAt c.header 0x4C 1 == 1
def NmuCmd.pitch (c : NmuCmd) : Nat := leAt c.header 0x48 8
def NmuCmd.rows (c : NmuCmd) : Nat := leAt c.header 0x50 2
def NmuCmd.rowGranules (c : NmuCmd) : Nat := leAt c.header 0x52 2
/-- Granules of an EWISE or REDUCE. -/
def NmuCmd.n (c : NmuCmd) : Nat := leAt c.header 0x48 4
/-- The element format: its field's place depends on the kind. -/
def NmuCmd.fmt (c : NmuCmd) : Nat := leAt c.header (if c.kind = 2 then 0x54 else 0x4C) 1
/-- Sources of a REDUCE. -/
def NmuCmd.sources (c : NmuCmd) : List Nat := (List.range (leAt c.header 0x4D 1)).map fun i => leAt c.header (0x50 + 8 * i) 8

/-- The length ℓ of a record in granules (R351). -/
def NmuCmd.recLen (c : NmuCmd) : Nat :=
  match c.kind with | 1 => 1 + 2 * c.heads | 2 => 1 + ceilDiv c.rows 32 | _ => 1

/-- The first granule of stack `k`'s record (R351). -/
def NmuCmd.recBase (c : NmuCmd) (k : Nat) : Nat := if c.kind = 4 then c.retBase else c.retBase + k * c.recLen

/-- True when the record area is that of a cluster of partition `p` and lies in its buffer (R350). -/
def State.returnOk (s : State) (p : Nat) (c : NmuCmd) : Bool :=
  decide (c.retDie < 16) && decide (c.retCluster < 4) && (s.num (0x2100 + p) 1).testBit (4 * c.retDie + c.retCluster) &&
    decide (c.recBase (if c.kind = 4 then 0 else 23) + c.recLen ≤ 98304)

/-- The unassigned bytes of the kind fields, as ranges. -/
def kindReserved (kind : Nat) : List (Nat × Nat) :=
  match kind with
  | 1 => [(0x4D, 3), (0x54, 0xAC)]
  | 2 => [(0x55, 0xAB)]
  | 3 => [(0x4E, 2), (0x60, 0xA0)]
  | 4 => [(0x4E, 2), (0xD0, 0x30)]
  | _ => []

/-- Two ranges of `n` bytes share a byte. -/
def meets (a b n : Nat) : Bool := decide (a < b + n) && decide (b < a + n)

/-- The conditions of R350 on the kind fields, for a command of partition `p` at stack `k`. -/
def State.badKind (s : State) (p k : Nat) (c : NmuCmd) : Bool :=
  match c.kind with
  | 1 =>
    c.entries == 0 || c.heads == 0 || decide (16 < c.heads) || decide (1 < leAt c.header 0x4B 1) ||
      decide (1 < leAt c.header 0x4C 1) || c.count != 1 + c.heads || c.placed || c.addr % 16 != 0 ||
      !s.inRegions p [1] c.addr 16
  | 2 =>
    c.rows == 0 || decide (4096 < c.rows) || c.rowGranules == 0 || decide (256 < c.rowGranules) ||
      !(c.fmt == 2 || c.fmt == 4 || c.fmt == 5) || c.count != 1 || c.placed || c.addr % 256 != 0 || c.pitch % 256 != 0 ||
      !(List.range c.rows).all fun r => s.inRegions p [1] (c.addr + r * c.pitch) (256 * c.rowGranules)
  | 3 =>
    c.n == 0 || !(c.fmt == 2 || c.fmt == 4 || c.fmt == 5) || decide (3 < leAt c.header 0x4D 1) || c.count != 1 ||
      c.placed || c.addr % 256 != 0 || !s.inRegions p [1] c.addr (256 * c.n)
  | 4 =>
    let ks := leAt c.header 0x4D 1
    let bytes := 256 * c.n
    let bad := fun (a : Nat) => a % 16384 != 0 || !s.inRegions p [2] a bytes ||
      !(match s.logicalPlace a with | some l => l.stack == k && decide (s.spreadRows ≤ l.row) | none => false)
    c.n == 0 || !(c.fmt == 1 || c.fmt == 2 || c.fmt == 3 || c.fmt == 0xC) || decide (ks < 2) || decide (16 < ks) ||
      c.count != 1 || bad c.addr || c.sources.any bad || !zeroAt c.header (0x50 + 8 * ks) (8 * (16 - ks)) ||
      (c.sources.zipIdx).any fun x => meets c.addr x.1 bytes && !(x.2 == 0 && x.1 == c.addr)
  | _ => true

/-- The conditions of R350: reserved fields, codes, ranges, counts, addresses, the return address. -/
def State.malformed (s : State) (p k : Nat) (c : NmuCmd) : Bool :=
  let h := c.header
  !zeroAt h 2 2 || !zeroAt h 0xA 2 || !zeroAt h 0x10 0x30 || (kindReserved c.kind).any (fun r => !zeroAt h r.1 r.2) ||
    c.granules.length != max 1 c.count || s.badKind p k c || !s.returnOk p c

/-! ### Records and ends -/

/-- The status granule (Table 10-6); `m` and `l` are the running maxima and sums of a DECODE. -/
def NmuCmd.statusGranule (c : NmuCmd) (k : Nat) (m l : List Nat) : List Byte :=
  leBytes 4 c.tag ++ leBytes 1 c.kind ++ leBytes 1 k ++ leBytes 1 c.status ++ leBytes 1 0 ++ leBytes 2 c.generation ++
    leBytes 1 c.faultPc ++ leBytes 1 0 ++ leBytes 4 c.faultIndex ++ List.replicate 48 0 ++
    slice (m.flatMap (leBytes 4)) 0 64 ++ slice (l.flatMap (leBytes 4)) 0 64 ++ List.replicate 64 0

/-- The record of a command written into the cluster buffer its header names, with zeros for data under a status other
than 0 (R351, R352); none when the return address is at fault (R350). A C-die that cannot be reached takes none, from the
stack or from the router that answers for it (R625). -/
def State.nmuRecord (s : State) (p k : Nat) (c : NmuCmd) (m l : List Nat) (data : List Byte) : State :=
  let d := c.retDie
  let gone := decide (2 ≤ s.dieState (mDie k)) || s.cutOff (mDie k)
  if !s.returnOk p c || decide (2 ≤ s.dieState d) || s.cutOff d || (!gone && s.routeLost (mDie k) d) then s
  else
    let n := 256 * c.recLen
    let ml := if c.status = 0 then (m, l) else ([], [])
    let b := c.statusGranule k ml.1 ml.2 ++ slice (if c.status = 0 then data else []) 0 (n - 256)
    s.putCluster true (4 * c.retDie + c.retCluster) (Ram.empty.writeRaw 0 b) 0 (256 * c.recBase k) n

/-- The unit that a status's event and failure name (Table 10-2). -/
def nmuUnit (k u : Nat) : Nat := unitId (mDie k) 0 0xF u

/-- True for the step that sent a command (R427: a step_seq is its client's). -/
def NmuCmd.sentBy (c : NmuCmd) (x : Step) : Bool := x.req.client == c.client && x.req.seq == c.stepSeq

/-- The core that sent a command has one command less to wait for, in the run of the step that sent it (R349). -/
def State.nmuClosed (s : State) (p : Nat) (c : NmuCmd) : State :=
  s.modRunning p fun x => if c.sentBy x = true ∧ x.runs = c.stepRun then
    { x with nmuOpen := tabMod 0 x.nmuOpen (8 * (4 * c.srcDie + c.srcCluster) + c.srcCore) (· - 1) } else x

/-- An event of a command, naming its step while it runs. -/
def State.raiseCmd (s : State) (p : Nat) (c : NmuCmd) (e : Event) : State :=
  let mine := (s.running p).any c.sentBy
  let e := { e with step := if mine then some c.stepSeq else none }
  if mine && e.kind == 1 then s.raiseBreach p e else s.raise { e with part := some p }

/-- A schedule-fault event of the command receiver: the manual gives it no stream index, so that field is free. -/
def State.cmdFault (s : State) (p k : Nat) (c : NmuCmd) : State :=
  (s.raiseCmd p c (.of 0x03 (nmuUnit k 1) ((Config.freeWord 3 s.freeCtr).toNat % 65536))).drawn

/-- A command whose status is not 0 stops its step (R352): one of status 1 is replayed as R445 says, any other step fails with cause 5
and the status as its detail (Table 13-5). -/
def State.cmdFailStep (s : State) (p k : Nat) (c : NmuCmd) : State :=
  if c.status ≠ 0 ∧ (s.running p).any c.sentBy then
    let unit := nmuUnit k (if c.status = 1 ∧ c.faultPc = 0xFF then 3 else if c.status = 1 ∨ c.status = 2 then 2 else 1)
    s.stopOrReplay p (c.status == 1) ⟨5, 0, c.status, some unit⟩
  else s

/-- The commands an M-die keeps for a partition. -/
def State.cmdsOf (s : State) (k p : Nat) : List NmuCmd := tabGet [] (s.stack k).cmds p
def State.setCmds (s : State) (k p : Nat) (l : List NmuCmd) : State :=
  s.modStack k fun m => { m with cmds := tabSet [] m.cmds p l }

/-- A command as its header granule arrives: its sender, the map of its step's start (R353). -/
def State.newCmd (s : State) (k p : Nat) (t : TxHeader) : NmuCmd :=
  let x := s.running p
  { granules := [], bad := false, srcDie := t.srcDie.toNat, srcCluster := t.srcCluster.toNat, srcCore := t.tag.toNat / 512
    client := (x.map fun y => y.req.client).getD 0, stepSeq := (x.map fun y => y.req.seq).getD 0, stepRun := (x.map (·.runs)).getD 0
    retired := setBits 64 ((x.map fun y => y.mapRetired.getD k 0).getD 0), generation := (x.map (·.mapGen)).getD 0
    held := false, running := false, placed := t.granule.getLsbD 0, status := 0, faultPc := 0xFF, faultIndex := 0xFFFFFFFF
    partials := [], coll := none }

/-- True for a command whose record has been written while granules of it were still to come. -/
def NmuCmd.ended (c : NmuCmd) : Bool := !c.held && c.status != 0

/-- A command finishes with its header's arrival (R348, R625): its record, its step; its other granules are let pass. -/
def State.cmdAtOnce (s : State) (k p : Nat) (c : NmuCmd) : State :=
  (((s.nmuRecord p k c [] [] []).nmuClosed p c).cmdFailStep p k c)

/-- The status a command takes as its last granule arrives: a word of it uncorrectable, malformed, no share, refused
under the strict setting. -/
def State.heldStatus (s : State) (p k : Nat) (c : NmuCmd) : Nat :=
  if c.bad then 2
  else if s.malformed p k c then 5
  else if s.num (0x5200 + p) 9 = 0 then 7
  else if (c.kind = 1 ∨ c.kind = 2) ∧ ((s.running p).map (·.determ)).getD false then 4
  else 0

/-- A command granule joins the command it belongs to; `mine` is false at the last router before a die that cannot be
reached (R348, R350, R625). `bad` tells that a word of it was uncorrectable. The granule field tells the ST's last granule (log
entry 16). -/
def State.nmuArrive (s : State) (k : Nat) (t : TxHeader) (g : List Byte) (bad mine : Bool) : State :=
  let p := t.partition.toNat
  let all := s.cmdsOf k p
  let final := decide (t.granule.toNat / 2 = 1)
  let same := fun (c : NmuCmd) => !c.held && c.srcDie == t.srcDie.toNat && c.srcCluster == t.srcCluster.toNat &&
    c.srcCore == t.tag.toNat / 512
  match findIdx same all with
  | none =>
    let c := { s.newCmd k p t with granules := [g], bad := bad }
    let st : Nat := if !mine then 2 else if 16 ≤ (all.filter fun x => !x.ended).length then 6 else 0
    let c := { c with status := st }
    let done := final || decide (c.count ≤ 1)
    if st ≠ 0 then
      let s := if done then s else s.setCmds k p (all ++ [c])
      (if st = 6 then s.cmdFault p k c else s).cmdAtOnce k p c
    else if done then
      let c := { c with held := true, status := s.heldStatus p k c }
      s.setCmds k p (all ++ [if c.bad then { c with faultIndex := 0 } else c])
    else s.setCmds k p (all ++ [c])
  | some (n, c) =>
    let worse := bad && !c.bad
    let c := { c with granules := c.granules ++ [g], bad := c.bad || bad
                      faultIndex := if worse then c.granules.length else c.faultIndex }
    let done := final || decide (c.count ≤ c.granules.length)
    if !done then s.setCmds k p (setAt all n c)
    else if c.status ≠ 0 then s.setCmds k p (dropAt all n)
    else s.setCmds k p (setAt all n { c with held := true, status := s.heldStatus p k c })

end Sys2Proof.Machine
end

