-- ==== Sys2Proof/Machine/Mesh.lean ====
section
/-! DEFINITION. The read, write and acknowledgement transactions at their destinations (09 R296, R297; 02 R104, R653; 03 R130,
R131), and the answers of routers for dies that cannot be reached (20 R625). -/

namespace Sys2Proof.Machine

/-! ### Replies for a die that cannot be reached (R625) -/

/-- The answer of the last router on the path to a die that is cut off, lost or inert (R625). The router itself sends it: no port of
that die does. -/
def State.routerReply (s : State) (t : TxHeader) (ws : List CodeWord) : State :=
  match t.opcode.toNat with
  | 0x01 => s.emit (.packet (t.back 0x10) poisonGranule)
  | 0x02 => s.emit (.packet (t.back 0x11) [])
  | 0x20 => (s.emit (.packet (t.back 0x21) [])).nmuArrive (t.dstDie.toNat - mDie 0) t (wordBytes ws) false false
  | _ => s.bump 0x8044 (t.dstDie.toNat + 1) 1

/-! ### Words of a flit -/

/-- The words of a flit as the receiver forwards them: single-bit errors corrected in place (R25); with the
uncorrectable ones by index and syndrome. -/
def checkFlit (ws : List CodeWord) : List CodeWord × List (Nat × Nat) :=
  let r := ws.zipIdx.map fun w => match eccCheck w.1 with
    | .uncorrectable => (w.1, some (w.2, syndrome w.1))
    | _ => (eccCorrect w.1, none)
  (r.map (·.1), r.filterMap (·.2))

/-- The 128 bits of words 2k and 2k + 1 of a flit, bits [127:64] in the odd word. R19 does not say which word holds them (DESIGN
CHOICE: log entry 180). -/
def pairAt (ws : List CodeWord) (k : Nat) : BitVec 128 :=
  codeData (ws.getD (2 * k + 1) 0) ++ codeData (ws.getD (2 * k) 0)

/-! ### Reads, writes and their answers -/

/-- A granule's worth of codewords as a memory image from address 0. -/
def imageOfWords (ws : List CodeWord) : Ram :=
  ws.zipIdx.foldl (fun r w => r.storeCode w.2 w.1) Ram.empty

/-- The codewords of a memory image's first granule. -/
def wordsOfImage (r : Ram) : List CodeWord := (List.range 32).map r.codeWord

/-- RDG: a granule read arrives at its destination and is served, its words as stored with their check bits (R296,
R103); one whose destination cannot be reached is answered by the last router (R37, R625). A C-die answers with a
granule of the cluster buffer that the header names. -/
def execRdg (t : TxHeader) (s : State) : Host.Outcome State Fault Refusal :=
  .next (let d := t.dstDie.toNat
    if t.opcode.toNat ≠ 0x01 then s
    else if !s.reach t.srcDie.toNat d then s.routerReply t []
    else if d < 16 then
      s.sendPacket (t.back 0x10)
        (wordsOfImage (Ram.copy (s.cluster (4 * d + t.dstCluster.toNat)).buf .empty (t.address % 25165824) 0 256))
    else
      let (s, img) := s.readDevice t.address 256
      s.sendPacket (t.back 0x10) (wordsOfImage img))

/-- The words of a granule that a mask enables, as runs of word numbers. -/
def maskWords (m : BitVec 32) : List Nat := (List.range 32).filter fun k => m.getLsbD k

/-- WRG: a granule write arrives and its enabled words are written with the check bits they carry (R103, R653); in a
cluster buffer the landing counters and the arrival list see it (R130, R617). -/
def execWrg (t : TxHeader) (words : List CodeWord) (s : State) : Host.Outcome State Fault Refusal :=
  .next (let d := t.dstDie.toNat
    if t.opcode.toNat ≠ 0x02 then s
    else if !s.reach t.srcDie.toNat d then s.routerReply t words
    else
      let img := imageOfWords words
      let s := if d < 16 then
          let k := 4 * d + t.dstCluster.toNat
          let a := t.address % 25165824
          let s := s.forEach (maskWords t.mask) fun s w => s.putCluster false k img (8 * w) (a + 8 * w) 8
          if t.mask = 0 then s else s.landGranules k a 256
        else s.forEach (maskWords t.mask) fun s w => s.writeDevice img (8 * w) (t.address + 8 * w) 8
      s.sendPacket (t.back 0x11) [])

/-- The physical core a transaction's tag names at its requester (log entry 16). -/
def State.tagCore (s : State) (die cluster tag : Nat) : Option Nat := s.physOf (8 * (4 * die + cluster) + tag / 512)

/-- A granule of the oldest transfer of a unit that still misses one has arrived or is acknowledged; none when there is
no such transfer. -/
def Seqr.ackOne (q : Seqr) (u : Nat) (cmd : Bool) : Option Seqr :=
  match findIdx (fun (f : Flight) => f.unit == u && f.complete.isNone && (if cmd then f.acks != 0 else f.unacked != 0))
      q.flights with
  | none => none
  | some (n, _) => some { q with flights := q.flights.modify n fun f =>
      if cmd then { f with acks := f.acks - 1, unacked := f.unacked - 1 } else { f with unacked := f.unacked - 1 } }

/-- RDG_RSP: a read response arrives. A granule that a load engine moves goes on with its check bits (R103); any other
consumer checks each word: corrections are counted, an uncorrectable word is a data fault, and a step that consumed it
fails (R104, R297). -/
def execRdgRsp (t : TxHeader) (words : List CodeWord) (s : State) : Host.Outcome State Fault Refusal :=
  .next (let d := t.dstDie.toNat
    if t.opcode.toNat ≠ 0x10 then s
    else
      let moved := if d < 16 then (s.tagCore d t.dstCluster.toNat t.tag.toNat).bind fun pc =>
          ((s.core pc).sq.ackOne 3 false).map fun q => (pc, q)
        else none
      match moved with
      | some (pc, q) => s.modCore pc fun k => { k with sq := q }
      | none =>
        let cs := words.map eccCheck
        let ce := (cs.filter fun c => decide (c ≠ .clean) && decide (c ≠ .uncorrectable)).length
        let ue := (cs.zipIdx.filter fun c => decide (c.1 = .uncorrectable)).map (·.2)
        let s := (s.count 0x8040 (d + 1) ce).count 0x8041 (d + 1) ue.length
        let p := t.partition.toNat
        let unit := unitId d t.dstCluster.toNat 0xF 0xF
        let core := decide (d < 16)
        s.forEach ue fun s w =>
          let e := { Event.of 0x01 unit (t.address + 8 * w) with part := some p }
          if core && (s.running p).isSome then
            (s.raiseBreach p { e with step := s.runningSeq p }).failStep p ⟨3, 0, 0, some unit⟩
          else s.raise e)

/-- WRG_ACK: a write acknowledgement arrives at the writer (R131): the oldest store of the core that still waits for one
has one granule less to wait for. -/
def execWrgAck (t : TxHeader) (s : State) : Host.Outcome State Fault Refusal :=
  .next (let d := t.dstDie.toNat
    if t.opcode.toNat ≠ 0x11 ∨ 16 ≤ d then s
    else match s.tagCore d t.dstCluster.toNat t.tag.toNat with
      | none => s
      | some pc => match (s.core pc).sq.ackOne 4 false with
        | none => s
        | some q => s.modCore pc fun k => { k with sq := q })

end Sys2Proof.Machine
end

