-- ==== Sys2Proof/Machine/Nmu.lean ====
section
/-! DEFINITION. Beside-memory commands at an M-die (10_beside_memory_units.md): their granules, and the work of the 64
NMUs of a stack: DECODE (R250, R251, R354 to R358), STATS (R360), EWISE (R361), REDUCE (R362). -/

namespace Sys2Proof.Machine

/-- NCMD: a command granule arrives at an M-die, is acknowledged and joins its command (R346 to R348); towards a die that
cannot be reached the last router answers (R625). -/
def execNcmd (t : TxHeader) (words : List CodeWord) (s : State) : Host.Outcome State Fault Refusal :=
  .next (let d := t.dstDie.toNat
    let k := d - mDie 0
    if t.opcode.toNat ≠ 0x20 ∨ d < mDie 0 ∨ xDie 0 ≤ d then s
    else if !s.reach t.srcDie.toNat d then s.routerReply t words
    else
      let s := s.sendPacket (t.back 0x21) []
      let (fixed, bad) := checkFlit words
      let p := t.partition.toNat
      let ce := (words.filter fun w => decide (eccCheck w ≠ .clean) && decide (eccCheck w ≠ .uncorrectable)).length
      let s := (s.count 0x8040 (d + 1) ce).count 0x8041 (d + 1) bad.length
      -- A command granule has no device address: the detail of its event is free.
      let s := s.forEach bad fun s _ =>
        (s.raiseCmd p (s.newCmd k p t) (.of 0x01 (nmuUnit k 1) (Config.freeWord 1 s.freeCtr).toNat)).drawn
      s.nmuArrive k t (wordBytes fixed) (!bad.isEmpty) true)

/-- NCMD_ACK: the oldest ST of mode 2 of the core that sent the granule has one acknowledgement less to wait for
(R347). -/
def execNcmdAck (t : TxHeader) (s : State) : Host.Outcome State Fault Refusal :=
  .next (let d := t.dstDie.toNat
    if t.opcode.toNat ≠ 0x21 ∨ 16 ≤ d then s
    else match s.tagCore d t.dstCluster.toNat t.tag.toNat with
      | none => s
      | some pc => match (s.core pc).sq.ackOne 4 true with
        | none => s
        | some q => s.modCore pc fun k => { k with sq := q })

/-! ### Ownership and reads -/

/-- What the NMUs of a stack have done for a command: the rotation of R353, the partial of every pseudo-channel, the
first fault (status, pseudo-channel, index), the KV pages of the group in progress (R357), and the list granule that the list
reader holds (R355). -/
structure Work where
  rot : Nat
  parts : List (List Nat)
  fault : Option (Nat × Nat × Nat)
  group : List Nat
  list : Ram
deriving DecidableEq, Repr

/-- The first fault of a command stands (R352). -/
def Work.failed (w : Work) (st pc i : Nat) : Work := if w.fault.isSome then w else { w with fault := some (st, pc, i) }

/-- The pseudo-channel of stack `k` that owns the granule at device address `a`, with the rotation after it (R353). -/
def State.owner (s : State) (k : Nat) (c : NmuCmd) (rot a : Nat) : Option (Nat × Nat) :=
  match s.logicalPlace a with
  | none => none
  | some l =>
    if l.stack ≠ k then none
    else if c.retired.contains l.pc then
      let live := (List.range 64).filter fun i => !c.retired.contains i
      some (live.getD (rot % max live.length 1) 0, rot + 1)
    else some (l.pc, rot)

/-- A granule read by NMU `pc` of stack `k`: its bytes, and false when a word of it was uncorrectable, with the event of
each such word (R366). -/
def State.nmuRead (s : State) (p k pc : Nat) (c : NmuCmd) (a : Nat) : State × List Byte × Bool :=
  let (s, f) := s.loadBytes (mDie k) a 256
  let s := s.count (0x8010 + p) 3 256
  (s.forEach f.ue fun s w => s.raiseCmd p c { Event.of 0x01 (nmuUnit k 2) (a + 8 * w) with pc := pc }, f.bytes, f.ue.isEmpty)

/-! ### DECODE -/

/-- The row function of R251: softmax with the command's scale, no mask. -/
def decodeRow (scale : Nat) : RowDesc :=
  { status := 0, softmax := 1, mask := 0, scale := 1, scaleValue := BitVec.ofNat 32 scale, maskMode := 0, qSegDesc := 0
    kSegDesc := 0, statBank := 0, statusDesc := 0, reserved := 0 }

/-- The starting partial of a head: m, l and the 128 elements of o (R251). -/
def headStart : List Nat := f32sentinel :: f32zero :: List.replicate 128 f32zero

/-- A head's partial after one token (R223, R251). -/
def headToken (scale : Nat) (q ks vs : List FVal) (h : List Nat) : List Nat :=
  let x := cellFloat true [] [] q ks f32zero
  let r := softmaxRow .dflt (decodeRow scale) (fun _ => false) (h.getD 0 0) (h.getD 1 0) [x]
  let p := elemVal 2 (elemEnc 2 false (f32 (r.weights.headD 0)))
  let o := match r.alpha with | some a => (h.drop 2).map fun v => f32mul v a | none => h.drop 2
  r.m :: r.l :: List.zipWith (fun o v => f32add o (groupResult true none [p.mul v])) o vs

/-- Query head `h` of a DECODE as values. -/
def NmuCmd.query (c : NmuCmd) (h : Nat) : List FVal := (unpackBits 16 128 (c.granules.getD (h + 1) [])).map (elemVal 2)

/-- One token of a page, by the NMU that owns its granule (R250, R251). -/
def State.decodeToken (s : State) (p k : Nat) (c : NmuCmd) (i a : Nat) (w : Work) : State × Work :=
  if w.fault.isSome then (s, w)
  else match s.owner k c w.rot a with
  | none => (s, w)
  | some (pc, rot) =>
    let (s, b, ok) := s.nmuRead p k pc c a
    let w := { w with rot := rot }
    if !ok then (s, w.failed 2 pc i)
    else
      let ks := (unpackBits 8 128 b).map (elemVal c.kvFmt)
      let vs := (unpackBits 8 128 (b.drop 128)).map (elemVal c.kvFmt)
      let scale := leAt c.header 0x50 4
      let old := w.parts.getD pc []
      let new := (List.range c.heads).flatMap fun h => headToken scale (c.query h) ks vs (slice' old (130 * h) 130)
      (s, { w with parts := setAt w.parts pc new })
where
  /-- Elements `o` to `o + n - 1` of a list. -/
  slice' (l : List Nat) (o n : Nat) : List Nat := (l.drop o).take n

/-- True when an entry's KV page breaks the order a block-ordered list states (R357). -/
def blockBreaks (group : List Nat) (kv : Nat) : Bool :=
  match group with
  | [] => false
  | f :: _ => group.contains kv || kv / 393216 != f / 393216

/-- One entry of the list, as the list reader delivers it to the NMUs; it reads each granule of the list once (R355 to R357). -/
def State.decodeEntry (s : State) (p k : Nat) (c : NmuCmd) (i : Nat) (w : Work) : State × Work :=
  if w.fault.isSome then (s, w)
  else
    let a := c.addr + 16 * i
    let walkFault := fun (s : State) => (s.cmdFault p k c, w.failed 3 0xFF i)
    if !s.inRegions p [1] c.addr (16 * (i + 1)) then walkFault s
    else
      let (s, img) := if i = 0 ∨ a % 256 = 0 then s.meshRead (mDie k) (a / 256 * 256) 256 else (s, w.list)
      let w := { w with list := img }
      let f := img.fetch (a % 256) 16
      let s := (s.count 0x8040 (mDie k + 1) f.ce.length).count 0x8041 (mDie k + 1) f.ue.length
      match f.ue with
      | _ :: _ =>
        (s.forEach f.ue fun s u => s.raiseCmd p c (.of 0x01 (nmuUnit k 1) (a / 256 * 256 + 8 * u)),
          w.failed 2 (((s.logicalPlace a).map (·.pc)).getD 0xFF) i)
      | [] =>
        match pageEntry (leAt f.bytes 0 8) (leAt f.bytes 8 8) with
        | none => walkFault s
        | some (kv, pos, tokens) =>
          let group := if i % 6 = 0 then [] else w.group
          if !(s.inRegions p [1] kv 65536 && s.inRegions p [1] pos 2048) || (c.blockOrdered && blockBreaks group kv) then
            walkFault s
          else
            (List.range tokens).foldl (fun (t : State × Work) j => t.1.decodeToken p k c i (kv + 256 * j) t.2)
              (s, { w with group := group ++ [kv] })

/-- The work of a DECODE on a stack. -/
def State.decodeWork (s : State) (p k : Nat) (c : NmuCmd) : State × Work :=
  let start := (List.range c.heads).flatMap fun _ => headStart
  (List.range c.entries).foldl (fun (t : State × Work) i => t.1.decodeEntry p k c i t.2)
    (s, ⟨0, List.replicate 64 start, none, [], .empty⟩)

/-! ### STATS -/

/-- A row's pair (s, q) after the elements of one granule (R360). -/
def statsGranule (fmt : Nat) (b : List Byte) (sq : Nat × Nat) : Nat × Nat :=
  (unpackBits (fmtBits fmt) (2048 / fmtBits fmt) b).foldl (fun (t : Nat × Nat) e =>
    let x := toF32 (elemVal fmt e)
    (f32add t.1 x, f32fma x x t.2)) sq

/-- One granule of a row. -/
def State.statsStep (s : State) (p k : Nat) (c : NmuCmd) (r j : Nat) (w : Work) : State × Work :=
  if w.fault.isSome then (s, w)
  else
    let a := c.addr + r * c.pitch + 256 * j
    match s.owner k c w.rot a with
    | none => (s, w)
    | some (pc, rot) =>
      let (s, b, ok) := s.nmuRead p k pc c a
      let w := { w with rot := rot }
      if !ok then (s, w.failed 2 pc (r * c.rowGranules + j))
      else
        let old := w.parts.getD pc []
        let n := statsGranule c.fmt b (old.getD (2 * r) 0, old.getD (2 * r + 1) 0)
        (s, { w with parts := setAt w.parts pc (setAt (setAt old (2 * r) n.1) (2 * r + 1) n.2) })

/-- The work of a STATS on a stack. -/
def State.statsWork (s : State) (p k : Nat) (c : NmuCmd) : State × Work :=
  (List.range c.rows).foldl (fun (t : State × Work) r =>
    (List.range c.rowGranules).foldl (fun (t : State × Work) j => t.1.statsStep p k c r j t.2) t)
    (s, ⟨0, List.replicate 64 (List.replicate (2 * c.rows) f32zero), none, [], .empty⟩)

/-! ### EWISE and REDUCE -/

/-- One element of an EWISE (R361). -/
def NmuCmd.ewiseElem (c : NmuCmd) (e : Nat) : Nat :=
  let h := c.header
  let y := f32fma (toF32 (elemVal c.fmt e)) (leAt h 0x50 4) (leAt h 0x54 4)
  let y := if (leAt h 0x4D 1).testBit 0 then f32min (f32max y (leAt h 0x58 4)) (leAt h 0x5C 4) else y
  elemEnc c.fmt ((leAt h 0x4D 1).testBit 1) (f32 y)

/-- One granule of an EWISE, by the NMU that owns it; one with an uncorrectable word is not written (R366). -/
def State.ewiseStep (s : State) (p k : Nat) (c : NmuCmd) (i : Nat) (w : Work) : State × Work :=
  let a := c.addr + 256 * i
  match s.owner k c w.rot a with
  | none => (s, w)
  | some (pc, rot) =>
    let (s, b, ok) := s.nmuRead p k pc c a
    let w := { w with rot := rot }
    if !ok then (s, w.failed 2 pc i)
    else
      let bits := fmtBits c.fmt
      (s.storeBytes (mDie k) a (packBits bits ((unpackBits bits (2048 / bits) b).map c.ewiseElem)), w)

/-- Granule `i` of a REDUCE by the NMU that owns it: every source read, the tree of R94 in source order, one write; none over an
uncorrectable word (R353, R362, R366). -/
def State.reduceStep (s : State) (p k : Nat) (c : NmuCmd) (i : Nat) (w : Work) : State × Work :=
  let (pc, rot) := (s.owner k c w.rot (c.addr + 256 * i)).getD (0, w.rot)
  let w := { w with rot := rot }
  let (s, bs, ok) := c.sources.foldl (fun (t : State × List (List Byte) × Bool) a =>
    let (s, b, ok) := t.1.nmuRead p k pc c (a + 256 * i)
    (s, t.2.1 ++ [b], t.2.2 && ok)) (s, [], true)
  if !ok then (s, w.failed 2 pc i)
  else (s.storeBytes (mDie k) (c.addr + 256 * i) (treeFold (reduceBytes c.fmt) [] bs), w)

/-- A function of the granules of a command applied to each in turn. -/
def State.eachGranule (s : State) (n : Nat) (f : State → Nat → Work → State × Work) : State × Work :=
  (List.range n).foldl (fun (t : State × Work) i => f t.1 i t.2) (s, ⟨0, [], none, [], .empty⟩)

/-! ### Starting -/

/-- A record of an M-die's filmstrip about a command (Table 19-3). -/
def State.traceCmd (s : State) (p k kind tag x : Nat) : State :=
  if s.num 0x8110 1 = p then s.trace (576 + k) (s.filmTs (576 + k)) kind 1 (tag * 2 ^ 48 + x * 2 ^ 40) else s

/-- The command of partition `p` that stack `k` runs or runs next (R348), with its place. -/
def State.front (s : State) (k p : Nat) : Option (Nat × NmuCmd) := findIdx (fun c => !c.ended) (s.cmdsOf k p)

/-- The next command starts when it is of `kind` and held without a status: `work` is what the NMUs do. -/
def State.startCmd (s : State) (k p kind : Nat) (work : State → NmuCmd → State × Work) : State :=
  match s.front k p with
  | none => s
  | some (n, c) =>
    if !c.held || c.running || c.status != 0 || c.kind != kind then s
    else
      let (s, w) := work (s.traceCmd p k 0x10 c.tag c.kind) c
      let c := { c with running := true, partials := w.parts }
      let c := match w.fault with | some (st, pc, i) => { c with status := st, faultPc := pc, faultIndex := i } | none => c
      s.setCmds k p (setAt (s.cmdsOf k p) n c)

/-- DECODE: the next command of the partition starts; every NMU walks the list and keeps its partial. -/
def execDecode (stack : Fin 24) (p : BitVec 4) (s : State) : Host.Outcome State Fault Refusal :=
  .next (s.startCmd stack.val p.toNat 1 fun s c => s.decodeWork p.toNat stack.val c)

/-- STATS: the next command of the partition starts; every NMU sums its granules. -/
def execStats (stack : Fin 24) (p : BitVec 4) (s : State) : Host.Outcome State Fault Refusal :=
  .next (s.startCmd stack.val p.toNat 2 fun s c => s.statsWork p.toNat stack.val c)

/-- EWISE: the next command of the partition starts; every NMU replaces the elements of its granules. -/
def execEwise (stack : Fin 24) (p : BitVec 4) (s : State) : Host.Outcome State Fault Refusal :=
  .next (s.startCmd stack.val p.toNat 3 fun s c => s.eachGranule c.n fun s i w => s.ewiseStep p.toNat stack.val c i w)

/-- REDUCE: the next command of the partition starts; the granules of its destination are written. -/
def execReduce (stack : Fin 24) (p : BitVec 4) (s : State) : Host.Outcome State Fault Refusal :=
  .next (s.startCmd stack.val p.toNat 4 fun s c => s.eachGranule c.n fun s i w => s.reduceStep p.toNat stack.val c i w)

/-! ### Merging -/

/-- The merge of two partials of a head (R252). -/
def mergeHead (a b : List Nat) : List Nat :=
  let m := f32max (a.getD 0 0) (b.getD 0 0)
  let scaled := fun (x : List Nat) =>
    let mx := x.getD 0 0
    if (f32 mx).lt (f32 m) || (f32 m).isNan then
      let f := sfnExp2 .dflt (f32mul (f32sub mx m) f32l2e)
      (x.drop 1).map fun v => f32mul v f
    else x.drop 1
  m :: List.zipWith f32add (scaled a) (scaled b)

/-- The merge of a DECODE over its 64 partials (R253): per head m, l and o. -/
def NmuCmd.merged (c : NmuCmd) : List (List Nat) :=
  (List.range c.heads).map fun h =>
    treeFold mergeHead [] (c.partials.map fun l => (l.drop (130 * h)).take 130)

/-- The data of a DECODE record: o element-major (R358). -/
def decodeData (heads : List (List Nat)) : List Byte :=
  (List.range 128).flatMap fun e => heads.flatMap fun h => leBytes 4 (h.getD (e + 2) 0)

/-- The data of a STATS record: row `r` at byte 8 r (R360). -/
def NmuCmd.statsData (c : NmuCmd) : List Byte :=
  (treeFold (List.zipWith f32add) [] c.partials).flatMap (leBytes 4)

end Sys2Proof.Machine
end

