-- ==== Sys2Proof/Machine/CollMsgs.lean ====
section
/-! DEFINITION. How collective messages travel between modules (11 R379, R383, R402; 15 R490 to R494, R497): their bytes,
the port each takes, the messages awaiting CACK, assembly of arriving writes. -/

namespace Sys2Proof.Machine

/-- The 64 bytes of a header (Table 11-5). -/
def collBytes (m : CollMsg) : List Byte :=
  leBytes 1 m.kind.toNat ++ leBytes 1 m.round.toNat ++ leBytes 1 m.status.toNat ++ leBytes 1 m.rsv03.toNat ++
    leBytes 2 m.group.toNat ++ leBytes 2 m.seq.toNat ++ leBytes 2 m.epoch.toNat ++ leBytes 2 m.rankCount.toNat ++
    leBytes 4 m.orderKey.toNat ++ leBytes 4 m.srcModule.toNat ++ leBytes 4 m.dstModule.toNat ++ leBytes 4 m.chunk.toNat ++
    leBytes 2 m.nodeFirst.toNat ++ leBytes 2 m.nodeSpan.toNat ++ leBytes 1 m.operation.toNat ++ leBytes 1 m.dataFmt.toNat ++
    leBytes 2 m.rsv22.toNat ++ leBytes 4 m.chunkBytes.toNat ++ leBytes 8 m.length.toNat ++ leBytes 2 m.lowEpoch.toNat ++
    leBytes 2 m.lowGroup.toNat ++ leBytes 2 m.lowSeq.toNat ++ leBytes 2 m.rsv36.toNat ++ leBytes 4 m.lowKey.toNat ++
    leBytes 4 m.keyOfQuery.toNat

/-- A header from its bytes (Table 11-5). -/
def collOfBytes (b : List Byte) : CollMsg :=
  let f := fun (w o k : Nat) => BitVec.ofNat w (leAt b o k)
  { kind := f 8 0 1, round := f 8 1 1, status := f 8 2 1, rsv03 := f 8 3 1, group := f 16 4 2, seq := f 16 6 2
    epoch := f 16 8 2, rankCount := f 16 0xA 2, orderKey := f 32 0xC 4, srcModule := f 32 0x10 4, dstModule := f 32 0x14 4
    chunk := f 32 0x18 4, nodeFirst := f 16 0x1C 2, nodeSpan := f 16 0x1E 2, operation := f 8 0x20 1, dataFmt := f 8 0x21 1
    rsv22 := f 16 0x22 2, chunkBytes := f 32 0x24 4, length := f 64 0x28 8, lowEpoch := f 16 0x30 2, lowGroup := f 16 0x32 2
    lowSeq := f 16 0x34 2, rsv36 := f 16 0x36 2, lowKey := f 32 0x38 4, keyOfQuery := f 32 0x3C 4 }

/-- The entry that a header describes, for what its fields imply (R377, R494). -/
def msgEntry (m : CollMsg) : CollE :=
  { index := 0, group := m.group.toNat, orderKey := m.orderKey.toNat, operation := m.operation.toNat, dataFmt := m.dataFmt.toNat
    ranks := List.replicate m.rankCount.toNat 0, length := m.length.toNat, chunkBytes := m.chunkBytes.toNat }

/-- Bytes of payload that a header implies (Table 11-4, R494). -/
def payloadLen (m : CollMsg) : Nat :=
  if m.kind = 0x31 ∨ m.kind = 0x32 then ((msgEntry m).chunkAt m.chunk.toNat).2.2 else 0

/-- The fabric ports that carry collective traffic, in service, ascending (R379). -/
def State.collPorts (s : State) : List Nat := s.portsUp (s.num 0x6100 2)

/-- The X-die that handles a chunk (R379). -/
def State.chunkDie (s : State) (c : Nat) : Nat :=
  let ps := s.collPorts
  xDie (ps.getD (c % max ps.length 1) 0 / 2)

/-- The route entry of a module through a fabric port (R490). -/
def State.route16 (s : State) (port m : Nat) : Nat := leAt (s.blob (0x6200 + (port - 1)) 1) (2 * m) 2

/-- The destination PID of a module through a fabric port (R490). -/
def State.routePid (s : State) (port m : Nat) : Nat := s.route16 port m % 4096

/-- True when a port can carry a message to module `m`: a fabric port, for P0 has no UIO (Table 15-2) and no route table, whose route
is valid (R490) and whose IDE is up where IDE is required (R497). -/
def State.carries (s : State) (m port : Nat) : Bool :=
  (port != 0 && (s.route16 port m).testBit 15) && s.keyed port

/-- The first of the collective ports at or after position `k` that can carry a message to module `m`. -/
def State.portFrom (s : State) (m k : Nat) : Option Nat :=
  let ps := s.collPorts
  let n := max ps.length 1
  (ps.drop (k % n) ++ ps.take (k % n)).find? (s.carries m)

/-- The port a message about a chunk takes (R379). -/
def State.portFor (s : State) (m : CollMsg) : Option Nat := s.portFrom m.dstModule.toNat m.chunk.toNat

/-- The next port after `port` (R402). -/
def State.portAfter (s : State) (m : CollMsg) (port : Nat) : Option Nat :=
  s.portFrom m.dstModule.toNat ((s.collPorts.filter fun q => decide (q ≤ port)).length)

/-- The writes that carry a message, the payload's words with their check bits (R103, R492). -/
def State.emitColl (s : State) (m : CollMsg) (payload : List CodeWord) (port id : Nat) : State :=
  let base := s.num 0x6100 8 + s.moduleId * 2 ^ 27 + id * 2 ^ 23
  let pid := s.routePid port m.dstModule.toNat
  let s := s.emit (.uio port pid base (codeOf (slice (collBytes m) 0 256)))
  s.emits ((chunksOf 512 (payload.length / 512 + 1) payload).zipIdx.map fun x => .uio port pid (base + 0x1000 + 4096 * x.2) x.1)

/-- A message number to a module, with nothing under it awaiting CACK and none of those a message has `used`; none when all
16 are taken (R493). -/
def State.freeId (s : State) (m : Nat) (used : List Nat) : Option Nat :=
  (List.range 16).find? fun k => !used.contains k &&
    (s.coll.sent.filter fun x => x.msg.dstModule.toNat == m).all fun x => !x.ids.contains k

/-- A function of the messages not yet acknowledged. -/
def State.setSent (s : State) (l : List Sent) : State := { s with coll := { s.coll with sent := l } }

/-- Message `x` goes out by `port` and is kept until its CACK; without a port or a number it waits (R493). -/
def State.launchSent (s : State) (x : Sent) (port : Option Nat) : State :=
  match port, s.freeId x.msg.dstModule.toNat x.used with
  | some q, some id =>
    let s := s.emitColl x.msg x.payload q id
    let s := match s.inst x.msg.group.toNat x.msg.seq.toNat with
      | some i => s.count (0x8010 + i.part) 6 (8 * x.payload.length)
      | none => s
    s.setSent (s.coll.sent ++ [{ x with port := q, msgId := id }])
  | _, _ => s.setSent (s.coll.sent ++ [{ x with port := 0xFF, msgId := 0 }])

/-- A message is sent to another module (R379, R402, R490). -/
def State.sendColl (s : State) (m : CollMsg) (payload : List CodeWord) : State :=
  s.launchSent ⟨m, payload, 0xFF, 0, 0, 0, []⟩ (s.portFor m)

/-- A message that is not acknowledged itself, a CACK, goes out when a number is free, which it takes no longer than its one write;
until then it waits (R402, R493). Without a port it is not sent. -/
def State.putCack (s : State) (k : CollMsg) : State :=
  match s.portFor k, s.freeId k.dstModule.toNat [] with
  | none, _ => s
  | some q, some id => s.emitColl k [] q id
  | some _, none => { s with coll := { s.coll with cacks := s.coll.cacks ++ [k] } }

/-- The CACKs and messages to a module that wait for a number go out as numbers are free (R493). -/
def State.flushSent (s : State) (m : Nat) : State :=
  let late := s.coll.cacks.filter fun k => k.dstModule.toNat == m
  let s := ({ s with coll := { s.coll with cacks := s.coll.cacks.filter fun k => k.dstModule.toNat != m } }).forEach late State.putCack
  let wait := s.coll.sent.filter fun x => x.msg.dstModule.toNat == m && x.port == 0xFF
  s.forEach wait fun s x => (s.setSent (s.coll.sent.erase x)).launchSent x (s.portFor x.msg)

/-- The CACK of a message (R402). -/
def State.sendCack (s : State) (m : CollMsg) : State :=
  s.putCack { m with kind := 0x37, status := 0, srcModule := BitVec.ofNat 32 s.moduleId, dstModule := m.srcModule }

/-- True when a CACK or CBUSY `a` answers message `x`: the same instance, chunk, node and round. -/
def answers (a x : CollMsg) : Bool :=
  a.srcModule == x.dstModule && a.group == x.group && a.seq == x.seq && a.chunk == x.chunk && a.nodeFirst == x.nodeFirst &&
    a.nodeSpan == x.nodeSpan && a.round == x.round

/-- A reserved field is nonzero or the kind is unknown (R384, Tables 11-4 and 11-5). -/
def badMsg (m : CollMsg) : Bool :=
  m.rsv03 != 0 || m.rsv22 != 0 || m.rsv36 != 0 || decide (2 ^ 17 ≤ m.srcModule.toNat) || decide (2 ^ 17 ≤ m.dstModule.toNat) ||
    decide (m.kind.toNat < 0x30) || decide (0x3A < m.kind.toNat)

/-- A message dropped and counted (R384). -/
def State.dropMsg (s : State) (m : CollMsg) : State := s.bump 0x8044 (s.chunkDie m.chunk.toNat + 1) 1

end Sys2Proof.Machine
end

