-- ==== Sys2Proof/Machine/Sheet.lean ====
section
/-! DEFINITION. The contact sheet (19_debug_and_trace.md R596 to R598, Tables 19-5 and 19-6) and the completion of a
stop-bath cut, which captures one (R604). Where a table lists contents without places, log entry 27 says where they
stand. -/

namespace Sys2Proof.Machine

/-- `n` free bytes: contents that the manual names and the model does not hold (log entry 27). -/
def State.freeBytes (s : State) (tag n : Nat) : List Byte := (List.range n).map (Config.freeByte tag s.freeCtr)

/-- Bytes cut or filled with zeros to a length. -/
def fitTo (n : Nat) (b : List Byte) : List Byte := slice b 0 n

/-- True for the dies of the west half (Table 1-1). -/
def westDie (d : Nat) : Bool :=
  if d < 0x10 then decide (d < 8) else if d < 0x28 then decide (d < 0x1C) else if d < 0x2C then decide (d < 0x2A)
  else if d < 0x3C then decide (d < 0x34) else decide (d < 0x3E)

/-- True when both crossings are lost: the halves have lost contact (R54). -/
def State.split (s : State) : Bool := s.num 0x9200 4 == 3

/-- True when the debug ring takes the conductor's master to a die: always while one crossing is left, and otherwise in its half
(R51, R54). A die that the mesh has lost, or that is inert, stays on the ring. -/
def State.ringReaches (s : State) (die : Nat) : Bool := !s.split || westDie die == westDie s.officeDie

/-- A section of a die: zero when the ring does not reach it (R598). -/
def State.section_ (s : State) (die n : Nat) (b : List Byte) : List Byte :=
  if s.ringReaches die then fitTo n b else List.replicate n 0

/-- The step controller of a partition. -/
def State.sheetPart (s : State) (p : Nat) : List Byte :=
  let x := s.running p
  let q := (s.part p).queue
  leBytes 4 ((x.map fun y => y.req.seq).getD 0) ++ leBytes 2 ((x.map (·.segment)).getD 0) ++
    leBytes 2 ((x.map fun y => y.arrived.length).getD 0) ++ leBytes 8 q.length ++
    q.flatMap fun y => leBytes 8 y.planned ++ leBytes 8 y.bound

/-- A cluster: its landing counters. -/
def State.sheetCluster (s : State) (k : Nat) : List Byte :=
  (List.range 16).flatMap (fun i => leBytes 4 (tabGet Landing.unbound (s.cluster k).land i).count) ++ s.freeBytes 20 64

/-- A core's section (Table 19-6). -/
def State.sheetCore (s : State) (pc : Nat) : List Byte :=
  let k := s.core pc
  let q := k.sq
  let halts := (List.range 5).map fun u => (q.unit u).halt
  let stopped := halts.all fun h => match h with | .atYield .. | .atEnd => true | _ => false
  let state := if s.coreFenced pc then 4 else if k.frozen then 3 else if k.run.isNone then 0 else if stopped then 2 else 1
  let wait := fun (u : Nat) => match q.head u with
    | some i =>
      let h := i.header
      if h.waitCount ≠ 0 ∧ (q.token h.waitToken.toNat).visible k.ac < h.waitCount.toNat then
        leBytes 1 h.waitToken.toNat ++ leBytes 1 h.waitCount.toNat
      else [0, 0]
    | none => [0, 0]
  -- A queue of 32 takes an instruction an ac (R118).
  let depth := fun (u : Nat) =>
    let v := q.unit u
    min 32 (min (dynLength ((q.prog.streams.getD u []).filterMap decodeEngine)) (s.acNow pc + 1) - v.issued)
  let pending := fun (u : Nat) => ((q.flights.filter fun f => f.unit == u).map (·.unacked)).sum
  leBytes 2 (coreUnit pc 0xF) ++ leBytes 1 state ++ List.replicate 5 0 ++ leBytes 4 ((k.run.map (·.stepSeq)).getD 0) ++
    leBytes 4 (k.acBase + s.acNow pc) ++ (List.range 5).flatMap (fun u => leBytes 16 ((q.headWord u).getD 0).toNat) ++
    (List.range 5).flatMap (fun u => leBytes 2 (q.unit u).pos) ++ (List.range 5).flatMap (fun u => leBytes 1 (if (q.head u).isSome then depth u else 0)) ++ [0] ++
    (List.range 5).flatMap wait ++ List.replicate 6 0 ++
    (List.range 64).flatMap (fun t => leBytes 2 ((q.token t).count % 65536)) ++
    (List.range 5).flatMap (fun u => (List.range 4).flatMap fun l => leBytes 2 (loopIndex (q.unit u).loops l)) ++
    leBytes 4 (pending 3) ++ leBytes 4 (pending 4) ++ List.replicate 208 0

/-- A die's edge ports: credits held by virtual channel, those returned (which the model does not hold), the flits in the replay
buffer, the oldest waiting header. -/
def State.sheetDie (s : State) (d : Nat) : List Byte :=
  (List.range (portCount d)).flatMap fun n =>
    let l := s.link d n
    let h := (s.packets.find? fun p => p.die == d && p.port == n).map fun p => (encodeTx p.header).toNat
    (List.range 8).flatMap (fun v => leBytes 1 (tabGet 8 l.credits v)) ++ s.freeBytes 22 7 ++ leBytes 1 (heldFlits l.held) ++
      leBytes 16 (h.getD 0)

/-- How far a command of an M-die is: granules received, whether all have, whether it runs, status, partials computed. -/
def NmuCmd.progress (c : NmuCmd) : List Byte :=
  leBytes 4 c.granules.length ++ leBytes 1 (boolNat c.held 1) ++ leBytes 1 (boolNat c.running 1) ++ leBytes 2 c.status ++
    leBytes 4 c.partials.length ++ leBytes 4 0

/-- An M-die: by partition, the first 16 bytes of the headers of the commands held, 15 at most, and the progress of the one in
front (log entry 27). -/
def State.sheetStack (s : State) (m : Nat) : List Byte :=
  (List.range 16).flatMap fun p =>
    let cs := s.cmdsOf m p
    fitTo 240 (cs.flatMap fun c => fitTo 16 c.header) ++ fitTo 16 ((cs.take 1).flatMap NmuCmd.progress)

/-- An instance's slot entry: its header fields and the number of chunks in each state. -/
def State.sheetInst (s : State) (i : Inst) : List Byte :=
  let n := fun (p : ChunkPhase) =>
    ((List.range i.entry.chunks.length).filter fun c => decide ((tabGet ChunkSt.new i.chunks c).phase = p)).length
  fitTo 64 (slice (collBytes (s.collHeader 0 i s.moduleId 0 0 0 0)) 4 28 ++ leBytes 4 (n .opened) ++ leBytes 4 (n .provisional) ++
    leBytes 4 (n .recalled) ++ leBytes 4 (n .fixed) ++ leBytes 4 (n .aborted))

/-- An X-die: 64 slot entries, escape slots first, and the messages held under R603. -/
def State.sheetXDie (s : State) (x : Nat) : List Byte :=
  let live := s.coll.insts.filter fun i => !i.done
  let escape := fun (p : Nat) => live.find? fun i => i.part == p && i.slot == 1
  let entry := fun (i : Option Inst) => match i with | some i => s.sheetInst i | none => List.replicate 64 0
  let pool := live.filter fun i => i.slot == 2
  let held := (s.coll.held.filter fun e => s.chunkDie e.1.chunk.toNat == xDie x).take 64
  (List.range 16).flatMap (fun p => entry (escape p)) ++ (List.range 48).flatMap (fun k => entry pool[k]?) ++
    fitTo 4096 (held.flatMap fun e => collBytes e.1)

/-- The dies that the ring reaches (R598). -/
def State.diesValid (s : State) : Nat := ((List.range 64).filter s.ringReaches).foldl withBit 0

/-- A contact sheet (Table 19-5) with its cause and partition. -/
def State.sheet (s : State) (cause p stopId : Nat) : List Byte :=
  fitTo 4096 (leBytes 4 0x54485343 ++ leBytes 2 1 ++ leBytes 1 cause ++ leBytes 1 0 ++ leBytes 8 s.now ++ leBytes 8 s.now ++
      leBytes 4 ((s.num 0x8120 4 + 1) % 2 ^ 32) ++ leBytes 2 p ++ leBytes 2 stopId ++ leBytes 8 s.diesValid) ++
    (List.range 16).flatMap (fun q => fitTo 256 (s.sheetPart q)) ++
    (List.range 64).flatMap (fun k => s.section_ (k / 4) 128 (s.sheetCluster k)) ++
    (List.range 576).flatMap (fun pc => s.section_ (pc / 36) 512 (s.sheetCore pc)) ++
    (List.range 64).flatMap (fun d => s.section_ d 1024 (s.sheetDie d)) ++
    (List.range 24).flatMap (fun m => s.section_ (mDie m) 4096 (s.sheetStack m)) ++
    (List.range 4).flatMap (fun x => s.section_ (xDie x) 8192 (s.sheetXDie x)) ++ List.replicate 16384 0

/-- A contact sheet is captured (R596): the latest becomes the one before. -/
def State.capture (s : State) (cause p stopId : Nat) : State :=
  let b := s.sheet cause p stopId
  let s := (s.setBlob 0x8120 2 (s.blob 0x8120 1)).setBlob 0x8120 1 b
  { s.setNum 0x8120 4 ((s.num 0x8120 4 + 1) % 2 ^ 32) with freeCtr := s.freeCtr + 1 }

/-- The contact sheet of a hang is captured, by a conductor in office; while a stop bath is stopping it waits 100 ms for the cut's
(R53, R596, Table 19-13). -/
def State.settleHang (s : State) (p : Nat) : State :=
  match (s.part p).hangAt with
  | none => s
  | some t =>
    if !s.conductor.inOffice || (s.num (0x8130 + p) 8 == 2 && decide (s.now < t + 100000000)) then s
    else (s.capture 1 p 0).modPart p fun q => { q with lastHang := some s.now, hangAt := none }

/-- The step that a stop bath names, when it runs (R601, R602). -/
def State.bathStep (s : State) (p : Nat) (b : StopBath) : Option Step :=
  (s.running p).bind fun x =>
    if (if b.mode = 0 then x.req.seq == b.stepSeq else x.req.epoch == b.epoch) then some x else none

/-- The dies of a step. -/
def State.stepDies (s : State) (x : Step) : List Nat := ((s.stepCores x).map (· / 32)).dedup

/-- A cut is complete when every die of the step has reported STOPPED and every instance below the key is Fixed: the stop
state, the sheet, which serves a hang event too, the trigger cause (R604, Table 19-13). Without a conductor in office the stop is
held (R53, R515). -/
def State.settleCut (s : State) (p : Nat) : State :=
  match (s.part p).stop with
  | none => s
  | some b =>
    match s.bathStep p b with
    | none => s
    | some x =>
      let below := s.coll.insts.all fun i => i.part != p || i.done || b.mode != 1 || !instBefore i.epoch i.key b.epoch b.key
      if s.conductor.inOffice ∧ s.num (0x8130 + p) 8 = 2 ∧ (s.stepDies x).all b.stoppedDies.contains ∧ below then
        let s := s.modPart p fun q => { q with hangAt := none, lastHang := some s.now }
        ((s.setNum (0x8130 + p) 8 3).capture 2 p (s.num (0x8130 + p) 0xA)).trigger p 5
      else s

end Sys2Proof.Machine
end

