-- ==== Sys2Proof/Machine/CollEngine.lean ====
section
/-! DEFINITION. The collective engines (11 R374 to R405): readiness of chunks, the tree, results, verdicts, fixes, recalls
and aborts. A message to this module itself is handled at once, one to another module is sent. -/

namespace Sys2Proof.Machine

/-- A chunk of an instance changed. -/
def State.modChunk (s : State) (g q c : Nat) (f : ChunkSt → ChunkSt) : State :=
  s.modInst g q fun i => { i with chunks := tabMod ChunkSt.new i.chunks c f }

/-- Chunk `c` of an instance. -/
def Inst.chunk (i : Inst) (c : Nat) : ChunkSt := tabGet ChunkSt.new i.chunks c

/-- The other modules of an entry. -/
def State.peers (s : State) (e : CollE) : List Nat := (e.ranks.filter (· ≠ s.moduleId)).dedup

/-- True when every rank of a node lies on one module: a leaf or a local node. -/
def CollE.oneModule (e : CollE) (first span : Nat) : Bool :=
  (rangeFrom first span).all fun r => e.module r == e.module first

/-- The module that computes a node of a chunk, or holds it (R381). -/
def CollE.computer (e : CollE) (c first span : Nat) : Nat := e.module (nodeRank first span c)

/-- A stop bath in order-key mode holds the instance (R603). -/
def State.collHeld (s : State) (i : Inst) : Bool :=
  match (s.part i.part).stop with
  | some b => b.mode == 1 && decide (2 ≤ s.num (0x8130 + i.part) 8) && !instBefore i.epoch i.key b.epoch b.key
  | none => false

/-! ### Aborts (R403) -/

/-- The steps that started an instance. -/
def State.stepsOf (s : State) (p key : Nat) : List Step := (s.part p).steps.filter fun x => x.insts.contains key

/-- The steps that started an instance fail with cause 6 and its reason code. -/
def State.failStarters (s : State) (p key code : Nat) : State :=
  s.forEach (s.stepsOf p key) fun s x =>
    let f : Failure := ⟨6, code, 0, some s.conductorUnit⟩
    if x.stage = .running then (s.failStep p f).settle p else s.leaveFailed p x f

/-- An instance is aborted: its chunks, the collective-fault event, CABORT to every member when this module decides it,
its steps (R401 to R403). -/
def State.abortInst (s : State) (g q code : Nat) (tell : Bool) : State :=
  match s.inst g q with
  | none => s
  | some i =>
    if i.done then s
    else
      let s := s.modInst g q fun i => { i with
        abort := some code
        chunks := (List.range i.entry.chunks.length).foldl (fun t c =>
          tabMod ChunkSt.new t c fun k => if k.phase = .fixed then k else { k with phase := .aborted }) i.chunks }
      let s := s.count (0x8050 + i.part) 4 1
      let s := s.raise { Event.of 0x0B s.conductorUnit (g + q * 65536) with
        part := some i.part, reason := code, step := ((s.stepsOf i.part (instKey g q)).head?).map fun x => x.req.seq }
      let s := if tell then s.forEach (s.peers i.entry) fun s m =>
          s.sendColl { s.collHeader 0x3A i m 0 0 0 0 with status := BitVec.ofNat 8 code } []
        else s
      s.failStarters i.part (instKey g q) code

/-- An uncorrectable word at device address `a` of a chunk's data: the data-fault event and the abort (R390). -/
def State.collDataFault (s : State) (i : Inst) (c a : Nat) : State :=
  let s := s.count 0x8041 (s.chunkDie c + 1) 1
  let s := s.raiseBreach i.part { Event.of 0x01 (dieUnit (s.chunkDie c)) a with step := s.runningSeq i.part }
  s.abortInst i.group i.seq 0x0609 true

/-! ### Data -/

/-- `n` bytes at device address `a` of a chunk's data, read by the engine: the words as stored (R103); none after an abort for
an uncorrectable one (R390). -/
def State.readWords (s : State) (i : Inst) (c a n : Nat) : State × Option (List CodeWord) :=
  let (s, img) := s.meshRead (s.chunkDie c) a n
  let f := img.fetch 0 n
  let s := s.count 0x8040 (s.chunkDie c + 1) f.ce.length
  match f.ue with
  | [] => (s, some (img.words 0 (n / 8)))
  | w :: _ => (s.collDataFault i c (a / 8 * 8 + 8 * w), none)

/-- A chunk of held rank `r`'s contribution. -/
def State.readChunk (s : State) (i : Inst) (r c : Nat) : State × Option (List CodeWord) :=
  let (_, off, len) := i.entry.chunkAt c
  s.readWords i c (i.base + s.inputOffset i.entry r + off) len

/-- The start of the result area (R370). -/
def State.resultBase (s : State) (i : Inst) : Nat := i.base + s.inputBytes i.entry

/-- The bytes a result of an adding operation leaves in the result area: the reduction, and free bytes in a block of a
reduce-scatter whose rank the module does not hold (Table 11-1). -/
def State.landSum (s : State) (i : Inst) (c : Nat) (d : List CodeWord) : State :=
  let (run, off, _) := i.entry.chunkAt c
  let a := s.resultBase i + off
  if i.entry.operation = 1 ∧ !(s.heldRanks i.entry).contains run then
    (s.storeBytes (s.chunkDie c) a ((List.range (8 * d.length)).map (Config.freeByte 11 s.freeCtr))).drawn
  else s.storeWords (s.chunkDie c) a d

/-- The data of rank `j` of an operation that does not add, written where Table 11-1 puts it with its check bits (R103). -/
def State.landData (s : State) (i : Inst) (c j : Nat) (d : List CodeWord) : State :=
  let (run, off, _) := i.entry.chunkAt c
  let o := match i.entry.operation with
    | 2 => j * i.entry.length + off
    | 4 => ((s.heldRanks i.entry).filter (· < run)).length * i.entry.length + (i.entry.block j).1 +
        (off - (i.entry.block run).1)
    | _ => off
  s.storeWords (s.chunkDie c) (s.resultBase i + o) d

/-! ### Posting -/

/-- The state, and the messages this module has for itself. -/
abbrev Post := State × List (CollMsg × List CodeWord)

/-- A message is sent, or kept for this module itself. -/
def Post.send (t : Post) (m : CollMsg) (payload : List CodeWord) : Post :=
  if m.dstModule.toNat = t.1.moduleId then (t.1, t.2 ++ [(m, payload)]) else (t.1.sendColl m payload, t.2)

/-- A change of the state. -/
def Post.map (t : Post) (f : State → State) : Post := (f t.1, t.2)

/-- A message of an instance about a node of a chunk, to module `dst`. -/
def Post.about (t : Post) (kind : Nat) (i : Inst) (dst c first span round : Nat) (payload : List CodeWord) : Post :=
  t.send (t.1.collHeader kind i dst c first span round) payload

/-- A message about a node to the computer of its parent; to this module about the root, when it is the root. -/
def Post.up (t : Post) (kind rootKind : Nat) (i : Inst) (c first span round : Nat) (payload : List CodeWord) : Post :=
  match treeParent i.entry.ranks.length first span with
  | some (pf, ps) => t.about kind i (i.entry.computer c pf ps) c first span round payload
  | none => t.about rootKind i t.1.moduleId c first span round payload

/-- A message passed on to the computers and leaves below a node (R381, R387). -/
def Post.down (t : Post) (kind : Nat) (i : Inst) (c first span round : Nat) (payload : List CodeWord) : Post :=
  if i.entry.oneModule first span then t
  else
    let (a, b) := treeChildren first span
    [a, b].foldl (fun (t : Post) n => t.about kind i (i.entry.computer c n.1 n.2) c n.1 n.2 round payload) t

/-! ### Starting a chunk -/

/-- The engine issues the REDUCE of a chunk's local node, when the partition's command buffer has room (R381, R348). Towards a stack
that cannot be reached the last router answers with status 2 (R625), which aborts the instance (R390). -/
def State.issueReduce (s : State) (i : Inst) (c round first h : Nat) : State :=
  let k := (i.base - placedBase 0) / 0x001000000000
  let cmds := s.cmdsOf k i.part
  if !s.reach (s.chunkDie c) (mDie k) then s.abortInst i.group i.seq 0x0609 true
  else if 16 ≤ (cmds.filter fun x => !x.ended).length then s
  else
    let (_, off, len) := i.entry.chunkAt c
    let srcs := (rangeFrom first h).map fun r => i.base + s.inputOffset i.entry r + off
    let head := leBytes 1 4 ++ leBytes 1 1 ++ List.replicate 62 0 ++ leBytes 8 (s.resultBase i + off) ++ leBytes 4 (len / 256) ++
      leBytes 1 i.entry.dataFmt ++ leBytes 1 h ++ List.replicate 2 0 ++ slice (srcs.flatMap (leBytes 8)) 0 128 ++
      List.replicate 48 0
    let x := s.running i.part
    let cmd : NmuCmd :=
      { granules := [head], bad := false, srcDie := 0, srcCluster := 0, srcCore := 0
        client := (x.map fun y => y.req.client).getD 0, stepSeq := (x.map fun y => y.req.seq).getD 0, stepRun := 0
        retired := setBits 64 ((x.map fun y => y.mapRetired.getD k 0).getD 0), generation := (x.map (·.mapGen)).getD 0
        held := true, running := false, placed := true, status := if s.num (0x5200 + i.part) 9 = 0 then 7 else 0
        faultPc := 0xFF, faultIndex := 0xFFFFFFFF, partials := [], coll := some (i.group, i.seq, c, round) }
    (s.setCmds k i.part (cmds ++ [cmd])).modChunk i.group i.seq c fun x => { x with sent := true }

/-- The held ranks that contribute to a chunk. -/
def State.contributors (s : State) (e : CollE) : List Nat :=
  let held := (s.heldRanks e).filter e.contributes
  match e.operation with
  | 3 | 5 => held.filter fun r => r == 0
  | _ => held

/-- The ranks whose data a chunk of an operation that does not add brings to this module. -/
def State.expected (s : State) (e : CollE) (c : Nat) : List Nat :=
  match e.operation with
  | 2 => List.range e.ranks.length
  | 3 => [0]
  | 4 => if (s.heldRanks e).contains (e.chunkAt c).1 then List.range e.ranks.length else []
  | 6 => [0]
  | _ => []

/-- The modules that held rank `r`'s data of a chunk goes to, this module among them when it takes it (Table 11-1). -/
def CollE.targets (e : CollE) (c : Nat) : List Nat :=
  match e.operation with
  | 2 | 3 => e.ranks.dedup
  | 4 => [e.module (e.chunkAt c).1]
  | 5 => [e.module 1]
  | _ => []

/-- A chunk of an operation that does not add becomes Fixed when its data is intact here, or, where none comes here, when
the receivers have acknowledged (Table 11-6, R385). -/
def State.settleData (s : State) (g q c : Nat) : State :=
  match s.inst g q with
  | none => s
  | some i =>
    let k := i.chunk c
    let due := s.expected i.entry c
    let ok := if due.isEmpty then k.sent && k.waits.isEmpty else due.all k.landed.contains
    if ok && decide (k.phase = .opened) then s.modChunk g q c fun x => { x with phase := .fixed } else s

/-- The module's part of a ready chunk goes out (R378, R381). -/
def Post.start (t : Post) (g q c : Nat) : Post :=
  match t.1.inst g q with
  | none => t
  | some i =>
    let s := t.1
    let e := i.entry
    let k := i.chunk c
    let open_ := decide (k.phase = .opened) || decide (k.phase = .recalled)
    if !i.started || !k.ready || k.sent || !open_ || s.collHeld i || i.abort.isSome then t
    else if e.adds then
      match s.localNode e with
      | none => t
      | some (p, h) =>
        if 2 ≤ h then t.map fun s => s.issueReduce i c k.round p h
        else
          let (s, d) := s.readChunk i p c
          match d with
          | none => (s, t.2)
          | some d => Post.up (s.modChunk g q c fun x => { x with sent := true }, t.2) 0x31 0x32 i c p 1 k.round d
    else
      let t := (s.contributors e).foldl (fun (t : Post) r =>
        let (s, d) := t.1.readChunk i r c
        match d with
        | none => (s, t.2)
        | some d =>
          let ms := e.targets c
          let s := s.modChunk g q c fun x => { x with waits := (x.waits ++ ms.filter (· ≠ s.moduleId)).dedup }
          ms.foldl (fun (t : Post) m => t.about 0x32 i m c r 1 0 d) (s, t.2)) t
      t.map fun s => (s.modChunk g q c fun x => { x with sent := true }).settleData g q c

/-! ### Up, down, verdicts -/

/-- A child's value reaches a node; with both, their sum goes on up, or down as the result from the root (R382). -/
def Post.onData (t : Post) (i : Inst) (m : CollMsg) (ws : List CodeWord) : Post :=
  let d := wordBytes (ws.map eccCorrect)
  let c := m.chunk.toNat
  let r := m.round.toNat
  match treeParent i.entry.ranks.length m.nodeFirst.toNat m.nodeSpan.toNat with
  | none => t
  | some (pf, ps) =>
    let k := i.chunk c
    let old := (k.nodes.find? fun n => n.first == pf && n.span == ps && n.round == r).getD
      ⟨pf, ps, r, none, none, none, none, false, false, false, false, 0⟩
    let new := if m.nodeFirst.toNat = pf then { old with left := some d } else { old with right := some d }
    let sum := match new.left, new.right with | some a, some b => some (reduceBytes i.entry.dataFmt a b) | _, _ => none
    let came := if m.srcModule.toNat = t.1.moduleId then 0 else 1
    let new := { new with value := sum, waiting := if sum.isSome then 0 else new.waiting + came }
    let rest := k.nodes.filter fun n => !(n.first == pf && n.span == ps && n.round == r)
    let t := t.map fun s => s.modChunk i.group i.seq c fun x => { x with nodes := rest ++ [new] }
    match sum with
    | none => t
    | some v => t.up 0x31 0x32 i c pf ps r (codeOf v)

/-- Whatever CCLEAN is due goes up, and from the root the fix: of a node whose verdict is clean, whose children are, and below
which the result has been passed; of a leaf or local node once the result is here (R387). -/
def Post.clean (t : Post) (g q c : Nat) : Post :=
  match t.1.inst g q with
  | none => t
  | some i =>
    let k := i.chunk c
    if k.phase ≠ .provisional then t
    else
      let due := k.nodes.filter fun n => n.round == k.round && n.value.isSome && n.verdict == some true && n.cleanL &&
        n.cleanR && n.passed && !n.cleanSent
      let leaf := match t.1.localNode i.entry with
        | some (p, h) => if !k.leafClean && (h == 1 || k.localClean) then [(p, h)] else []
        | none => []
      let t := t.map fun s => s.modChunk g q c fun x => { x with
        leafClean := x.leafClean || !leaf.isEmpty
        nodes := x.nodes.map fun n => if due.contains n then { n with cleanSent := true } else n }
      (leaf ++ due.map fun n => (n.first, n.span)).foldl (fun (t : Post) n => t.up 0x33 0x34 i c n.1 n.2 k.round []) t

/-- The step that started an instance has its collective wait, from the last local chunk's readiness to the instance's
completion less 10 µs, for an instance with a rank elsewhere (R405). -/
def State.noteUsable (s : State) (g q : Nat) : State :=
  match s.inst g q with
  | none => s
  | some i =>
    match i.readyAt with
    | none => s
    | some t =>
      if !i.usable then s
      else
        let s := s.modInst g q fun i => { i with readyAt := none }
        let w := if (s.peers i.entry).isEmpty then 0 else s.now - t - 10000
        let peer := if 5 ≤ i.entry.operation then w else 0
        (s.forEach (s.stepsOf i.part (instKey g q)) fun s x => s.modStep i.part x fun y =>
          { y with collWait := y.collWait + w, peerWait := y.peerWait + peer }).count (0x8050 + i.part) 1 w

/-- A result reaches this module: it lands, and is passed on below its node (R381, R387). -/
def Post.onResult (t : Post) (i : Inst) (m : CollMsg) (d : List CodeWord) : Post :=
  let c := m.chunk.toNat
  let r := m.round.toNat
  let k := i.chunk c
  if !i.entry.adds then
    t.map fun s => ((s.landData i c m.nodeFirst.toNat d).modChunk i.group i.seq c fun x => { x with
      landed := (x.landed ++ [m.nodeFirst.toNat]).dedup }).settleData i.group i.seq c
  else if r ≠ k.round then t
  else
    let first := decide (k.phase = .opened) || decide (k.phase = .recalled)
    let t := if first then t.map fun s =>
        (s.landSum i c d).modChunk i.group i.seq c fun x => { x with phase := .provisional }
      else t
    let pass := fun (n : NodeSt) =>
      if n.first = m.nodeFirst.toNat ∧ n.span = m.nodeSpan.toNat ∧ n.round = r then { n with passed := true } else n
    ((t.down 0x32 i c m.nodeFirst.toNat m.nodeSpan.toNat r d).map fun s => s.modChunk i.group i.seq c fun x =>
      { x with nodes := x.nodes.map pass }).clean i.group i.seq c

/-- CCLEAN of a child reaches its parent's computer (R387). -/
def Post.onClean (t : Post) (i : Inst) (m : CollMsg) : Post :=
  let c := m.chunk.toNat
  match treeParent i.entry.ranks.length m.nodeFirst.toNat m.nodeSpan.toNat with
  | none => t
  | some (pf, ps) =>
    let left := decide (m.nodeFirst.toNat = pf)
    (t.map fun s => s.modChunk i.group i.seq c fun x => { x with nodes := x.nodes.map fun n =>
      if n.first = pf ∧ n.span = ps ∧ n.round = m.round.toNat then
        (if left then { n with cleanL := true } else { n with cleanR := true })
      else n }).clean i.group i.seq c

/-- The fix notice (R387, Table 11-8): a Provisional chunk of this round becomes Fixed; the notice goes on down. -/
def Post.onFix (t : Post) (i : Inst) (m : CollMsg) : Post :=
  let c := m.chunk.toNat
  let k := i.chunk c
  if m.round.toNat ≠ k.round then t
  else
    let t := if k.phase = .provisional then
        t.map fun s => s.modChunk i.group i.seq c fun x => { x with phase := .fixed }
      else t
    t.down 0x34 i c m.nodeFirst.toNat m.nodeSpan.toNat k.round []

/-- A step rolls back when a recall takes back a chunk it has used (R393). Its time from its start to here is collective wait, the
waits it has counted in it included; the rerun's wait for the instance counts from here (R405). -/
def State.rollBack (s : State) (i : Inst) : State :=
  match s.running i.part with
  | none => s
  | some x =>
    if i.used && i.speculative && x.insts.contains (instKey i.group i.seq) && x.fail.isNone && !x.rollReq then
      let wait := max x.collWait (x.waitBase + (s.now - x.startTime))
      let s := (s.stopStep i.part).modRunning i.part fun y => { y with rollReq := true, collWait := wait }
      ((s.count (0x8050 + i.part) 1 (wait - x.collWait)).modInst i.group i.seq fun i => { i with
        used := false, signals := [], readyAt := some s.now }).settle i.part
    else s

/-- Chunk `c` is recalled at this member in round `r` and its part sent again (R388, R389). -/
def Post.recallHere (t : Post) (i : Inst) (c r : Nat) : Post :=
  let k := i.chunk c
  if k.round ≠ r ∨ k.phase = .fixed ∨ k.phase = .aborted then t
  else
    let limit := if (t.1.peers i.entry).isEmpty then 1 else t.1.num 0x6100 5
    if limit < r + 1 then t.map fun s => s.abortInst i.group i.seq 0x0602 true
    else
      let t := t.map fun s => ((s.modChunk i.group i.seq c fun x => { x with
        phase := .recalled, round := r + 1, sent := false, localClean := false, leafClean := false
        nodes := x.nodes.filter fun n => decide (r < n.round) }).count (0x8050 + i.part) 3 1).rollBack i
      t.start i.group i.seq c

/-- The recall notice (R388, Table 11-8): at the root's computer the first of a round goes down to every member;
elsewhere it is passed on below its node. -/
def Post.onRecall (t : Post) (i : Inst) (m : CollMsg) : Post :=
  let c := m.chunk.toNat
  let r := m.round.toNat
  let n := i.entry.ranks.length
  let k := i.chunk c
  if i.entry.computer c 0 n = t.1.moduleId ∧ r = k.round ∧ !k.recalledRounds.contains r then
    let t := t.map fun s => s.modChunk i.group i.seq c fun x => { x with recalledRounds := x.recalledRounds ++ [r] }
    (t.down 0x35 i c 0 n r []).recallHere i c r
  else if i.entry.computer c m.nodeFirst.toNat m.nodeSpan.toNat = t.1.moduleId then
    (t.down 0x35 i c m.nodeFirst.toNat m.nodeSpan.toNat r []).recallHere i c r
  else t

/-- A node's failed verdict: CRECALL to the root's computer (R388). -/
def Post.failedVerdict (t : Post) (i : Inst) (c first span round : Nat) : Post :=
  t.about 0x35 i (i.entry.computer c 0 i.entry.ranks.length) c first span round []

/-- A message of an open instance takes its effect. -/
def Post.handle (t : Post) (m : CollMsg) (d : List CodeWord) : Post :=
  match t.1.inst m.group.toNat m.seq.toNat with
  | none => t
  | some i =>
    if i.abort.isSome then t
    else match m.kind.toNat with
      | 0x31 => t.onData i m d
      | 0x32 => t.onResult i m d
      | 0x33 => t.onClean i m
      | 0x34 => t.onFix i m
      | 0x35 => t.onRecall i m
      | _ => t

/-- The messages this module has for itself, handled in turn. -/
def Post.drain : Nat → Post → State
  | 0, t => t.1
  | fuel + 1, t => match t.2 with
    | [] => t.1
    | x :: rest => Post.drain fuel (Post.handle (t.1, rest) x.1 x.2)

/-- What follows a change of an instance: its own messages, its collective wait, its partition's barrier. -/
def Post.run (t : Post) (g q : Nat) : State :=
  let s := (t.drain 1048576).noteUsable g q
  match s.inst g q with
  | some i => (s.settle i.part).settleCut i.part
  | none => s

/-! ### Readiness -/

/-- Every granule of a chunk in the input area has been written (R378). -/
def State.chunkReady (s : State) (i : Inst) (c : Nat) : Bool :=
  let (_, off, len) := i.entry.chunkAt c
  (s.contributors i.entry).all fun r =>
    (rangeFrom ((s.inputOffset i.entry r + off) / 256) (len / 256)).all i.written.contains

/-- The chunks that have become ready start; when the last of them has, its time is noted (R378, R405). -/
def State.startReady (s : State) (g q : Nat) : State :=
  match s.inst g q with
  | none => s
  | some i =>
    let new := (List.range i.entry.chunks.length).filter fun c => !(i.chunk c).ready && s.chunkReady i c
    let s := s.forEach new fun s c => s.modChunk g q c fun x => { x with ready := true }
    let all := match s.inst g q with
      | some j => (List.range j.entry.chunks.length).all fun c => (j.chunk c).ready
      | none => false
    let s := if all && !new.isEmpty then s.modInst g q fun j => { j with readyAt := some s.now } else s
    ((List.range i.entry.chunks.length).foldl (fun (t : Post) c => t.start g q c) (s, [])).run g q

/-- What a held instance would have done is kept until its stop bath is released (R603, R605). -/
def State.parkWork (s : State) (w : HeldWork) : State := { s with coll := { s.coll with parked := s.coll.parked ++ [w] } }

/-- A local node's REDUCE has ended: its value goes up, or a recall is asked for, or the instance is aborted (R386,
R388, R390); nothing of it while a stop bath holds the instance (R603). -/
def State.localDone (s : State) (g q c round status : Nat) : State :=
  match s.inst g q with
  | none => s
  | some i =>
    let k := i.chunk c
    match s.localNode i.entry with
    | none => s
    | some (p, h) =>
      if i.abort.isSome then s
      else if s.collHeld i then s.parkWork (.reduce g q c round status)
      else if status = 2 then s.abortInst g q 0x0609 true
      else if k.round ≠ round then s
      else if status = 1 then (Post.failedVerdict (s, []) i c p h round).run g q
      else if status ≠ 0 then s
      else
        let (_, off, len) := i.entry.chunkAt c
        match s.readWords i c (s.resultBase i + off) len with
        | (s, none) => s
        | (s, some ws) =>
          let s := s.modChunk g q c fun x => { x with localClean := true }
          (Post.up (s, []) 0x31 0x32 i c p h round ws).run g q

/-- Chunks whose REDUCE found no room go on when the command buffer has room again. -/
def State.retryReduces (s : State) (p : Nat) : State :=
  s.forEach ((s.coll.insts.filter fun i => i.part == p && !i.done && i.entry.adds).map fun i => (i.group, i.seq)) fun s k =>
    ((List.range (((s.inst k.1 k.2).map fun i => i.entry.chunks.length).getD 0)).foldl
      (fun (t : Post) c => t.start k.1 k.2 c) (s, [])).run k.1 k.2

end Sys2Proof.Machine
end

