-- ==== Sys2Proof/Machine/Collective.lean ====
section
/-! DEFINITION. The commands of the collective engines (11_collectives.md; 15 R490 to R494): messages taken, refused and
acknowledged, verdicts, queries, timeouts, writes into the receive window, ports that leave. -/

namespace Sys2Proof.Machine

/-- CSTART: granules of the input area are written; the chunks they make ready start (R378, R383); one with a reserved field set is
dropped and counted (R384). The step of an
instance already aborted fails (R403). The message that made the instance known is compared with the entry that opened it
(R376). -/
def execCstart (p : BitVec 4) (m : CollMsg) (first count : Nat) (s : State) : Host.Outcome State Fault Refusal :=
  .next (let g := m.group.toNat
    let q := m.seq.toNat
    if badMsg m then s.dropMsg m
    else match s.inst g q with
    | none => s
    | some i =>
      let wrong := (i.first.map (disagreement i)).getD 0
      if m.kind.toNat ≠ 0x30 ∨ i.part ≠ p.toNat ∨ !i.started then s
      else match i.abort with
        | some code => s.failStarters i.part (instKey g q) code
        | none =>
          if wrong ≠ 0 then s.abortInst g q wrong true
          else
          let s := s.modInst g q fun i => { i with first := none }
          let new := (rangeFrom first count).filter fun k => !i.written.contains k
          (s.modInst g q fun i => { i with written := i.written ++ new }).startReady g q)

/-! ### Taking a message -/

/-- The entry of a ready image that names a group, one that the message agrees with first, then one of the same order key, with its
partition (R376). -/
def State.groupEntry (s : State) (m : CollMsg) : Option (Nat × CollE) :=
  let all := ((List.range 64).filter fun k => s.num (slotObj k) 5 == 2).flatMap fun k =>
    ((s.imageOf k).colls.filter fun e => e.group == m.group.toNat).map fun e => (s.num (slotObj k) 3, e)
  ((all.find? fun x => x.2.differs x.2.orderKey m == 0).orElse fun _ =>
    all.find? fun x => x.2.orderKey == m.orderKey.toNat).orElse fun _ => all.head?

/-- An instance made known by its first message (R397), with the slot it can take, 0 for none. -/
def State.instOfMsg (s : State) (m : CollMsg) (slot : Nat) (p : Nat) (e : CollE) : State :=
  let i : Inst :=
    { part := p, group := m.group.toNat, seq := m.seq.toNat, epoch := m.epoch.toNat, key := e.orderKey, entry := e
      started := false, slot := slot, base := 0, written := [], chunks := [], abort := none
      speculative := false, used := false, signals := [], first := some m, readyAt := none }
  { s with coll := { s.coll with insts := s.coll.insts ++ [i] } }

/-- A message refused for lack of a slot (1) or landing buffer (2) (R399). -/
def State.refuseMsg (s : State) (m : CollMsg) (why : Nat) : State :=
  s.sendColl { m with kind := 0x36, status := BitVec.ofNat 8 why, srcModule := BitVec.ofNat 32 s.moduleId
                      dstModule := m.srcModule } []

/-- The landing buffer of an instance is full: four chunks that came from other modules wait in it for their nodes (R396). -/
def Inst.landingFull (i : Inst) : Bool :=
  decide (4 ≤ ((i.chunks.flatMap fun c => c.2.nodes).map NodeSt.waiting).sum)

/-- True when this module computes the parent of the message's node. -/
def State.atParent (s : State) (i : Inst) (m : CollMsg) : Bool :=
  match treeParent i.entry.ranks.length m.nodeFirst.toNat m.nodeSpan.toNat with
  | some (pf, ps) => i.entry.computer m.chunk.toNat pf ps == s.moduleId
  | none => false

/-- True when the parent of the message's node has its other child's value: the message's chunk is added at once and needs no
landing buffer. -/
def Inst.completes (i : Inst) (m : CollMsg) : Bool :=
  match treeParent i.entry.ranks.length m.nodeFirst.toNat m.nodeSpan.toNat with
  | some (pf, ps) => (i.chunk m.chunk.toNat).nodes.any fun n =>
      n.first == pf && n.span == ps && n.round == m.round.toNat &&
        (if m.nodeFirst.toNat = pf then n.right.isSome else n.left.isSome)
  | none => false

/-- The payload of a message as the engine of its chunk takes it: each word checked, corrections counted; false when a word is
uncorrectable, with the data-fault event and the abort of R390. The payload has no device address: the detail of its event is
free. -/
def State.checkPayload (s : State) (i : Inst) (m : CollMsg) (ws : List CodeWord) : State × Bool :=
  let bad := ws.any fun w => decide (eccCheck w = .uncorrectable)
  let ce := (ws.filter fun w => decide (eccCheck w ≠ .clean) && decide (eccCheck w ≠ .uncorrectable)).length
  let s := s.count 0x8040 (s.chunkDie m.chunk.toNat + 1) ce
  if bad then ((s.collDataFault i m.chunk.toNat (Config.freeWord 6 s.freeCtr).toNat).drawn, false) else (s, true)

/-- A message of an open instance: dropped when it repeats one, is of an older round or is not for this module (R384,
Table 11-8), refused when there is no room, handled otherwise. True when it was taken. -/
def State.deliver (s : State) (i : Inst) (m : CollMsg) (ws : List CodeWord) : State × Bool :=
  let c := m.chunk.toNat
  let k := i.chunk c
  let mark : Seen := ⟨m.kind.toNat, m.nodeFirst.toNat, m.nodeSpan.toNat, m.round.toNat⟩
  if i.entry.chunks.length ≤ c ∨ 8 * ws.length ≠ payloadLen m ∨ k.seen.contains mark ∨
      (i.entry.adds ∧ m.round.toNat < k.round) ∨ (m.kind = 0x31 ∧ !(i.entry.adds && s.atParent i m)) then (s.dropMsg m, true)
  else if m.kind = 0x31 ∧ i.landingFull ∧ !i.completes m then (s.refuseMsg m 2, false)
  else if m.kind = 0x32 ∧ !i.started then (s.refuseMsg m 2, false)
  else match s.checkPayload i m ws with
    | (s, false) => (s, true)
    | (s, true) =>
      let n := 8 * ws.length
      let s := (s.modChunk i.group i.seq c fun x => { x with seen := x.seen ++ [mark] }).count (0x8010 + i.part) 7 n
      ((Post.handle (s, []) m ws).run i.group i.seq, true)

/-- The instance that a message is about: a known one, or one that it makes known (R397). None when no image of the module names
its group, or when its number lies behind the counter's: it is of an instance that is over (R375). `data` for a message that needs
a slot. -/
def State.instFor (s : State) (m : CollMsg) (data : Bool) : State × Option Inst :=
  let g := m.group.toNat
  let q := m.seq.toNat
  match s.groupEntry m with
  | none => (s, s.inst g q)
  | some (p, e) =>
    let s := s.forgetOld p g q
    match s.inst g q with
    | some i => (s, some i)
    | none =>
      if serialAhead 16 (s.nextSeq p g) q then (s, none)
      else
        let s := s.instOfMsg m (if data then s.slotFor p m.epoch.toNat e.orderKey else 0) p e
        (s, s.inst g q)

/-- True while the device is disabling: it takes no collective start from outside, so a message about an instance that no accepted
step has made known finds that it cannot open (R526, R399; log entry 220). -/
def State.noStarts (s : State) (m : CollMsg) : Bool :=
  s.num 0x2000 2 == 4 && (s.inst m.group.toNat m.seq.toNat).isNone && (s.groupEntry m).isSome

/-- A CDATA, CRESULT, CCLEAN, CFIX or CRECALL arrives (R376, R384, R399, R603). True when it was taken. -/
def State.takeMsg (s : State) (m : CollMsg) (ws : List CodeWord) : State × Bool :=
  if s.noStarts m then (s.refuseMsg m 1, false)
  else
  let (s, known) := s.instFor m true
  match known with
  | none => (s.dropMsg m, true)
  | some i =>
    let c := m.chunk.toNat
    let mark : Seen := ⟨m.kind.toNat, m.nodeFirst.toNat, m.nodeSpan.toNat, m.round.toNat⟩
    if i.abort.isSome then
      -- It has no effect; a repeat of it is dropped and counted (R384).
      (if (i.chunk c).seen.contains mark then s.dropMsg m
       else s.modChunk i.group i.seq c fun x => { x with seen := x.seen ++ [mark] }, true)
    else match disagreement i m with
      | 0 =>
        let slot := if i.slot ≠ 0 then i.slot else s.slotFor i.part i.epoch i.key
        if slot = 0 then (s.refuseMsg m 1, false)
        else
          let s := s.modInst i.group i.seq fun j => { j with slot := slot }
          if s.collHeld i then
            (({ s with coll := { s.coll with held := s.coll.held ++ [(m, ws)] } }).bump (0x8130 + i.part) 0xB 1, true)
          else s.deliver { i with slot := slot } m ws
      | code => (s.abortInst i.group i.seq code true, true)

/-! ### The other kinds -/

/-- CACK: the oldest message it answers is acknowledged; its number is free, and a receiver has its data (R402, R385). One that
answers nothing repeats an earlier one (R384). -/
def State.onCack (s : State) (m : CollMsg) : State :=
  match s.coll.sent.find? fun x => !x.ids.isEmpty && answers m x.msg with
  | none => s.dropMsg m
  | some x =>
    let s := (s.setSent (s.coll.sent.erase x)).flushSent m.srcModule.toNat
    let g := m.group.toNat
    let q := m.seq.toNat
    let c := m.chunk.toNat
    if x.msg.kind ≠ 0x32 then s
    else match s.inst g q with
      | none => s
      | some i =>
        if i.entry.adds then s
        else
          let s := (s.modChunk g q c fun k => { k with waits := k.waits.filter (· ≠ m.srcModule.toNat) }).settleData g q c
          Post.run (s, []) g q

/-- CBUSY: the message it answers waits 1 µs, or twice as long as before up to 64 µs, before it is sent again (R399). One that answers nothing repeats an earlier one (R384). -/
def State.onBusy (s : State) (m : CollMsg) : State :=
  match s.coll.sent.find? fun x => !x.ids.isEmpty && answers m x.msg with
  | none => s.dropMsg m
  | some x =>
    let w := if x.waitUs = 0 then 1 else min 64 (2 * x.waitUs)
    let s := { s with coll := { s.coll with
      sent := s.coll.sent.erase x, backoff := s.coll.backoff ++ [(⟨x.msg, x.payload, w⟩ : Backoff)] } }
    let s := s.flushSent m.srcModule.toNat
    match s.inst m.group.toNat m.seq.toNat with
    | some i => s.count (0x8050 + i.part) 5 1
    | none => s

/-- CQUERY: the first message about an instance makes it outstanding here (R397); answered with this module's lowest outstanding instance and its key for the one asked about (R401). Where it has none,
the fields of the lowest are 0 (DESIGN CHOICE: log entry 185). -/
def State.onQuery (s : State) (m : CollMsg) : State :=
  let (s, i) := s.instFor m false
  let part : Option Nat := match i with | some i => some i.part | none => (s.groupEntry m).map fun x => x.1
  let low : Option Inst := part.bind s.lowest
  s.sendColl { m with
      kind := 0x39, status := if (i.map (·.started)).getD false then 1 else 0
      srcModule := BitVec.ofNat 32 s.moduleId, dstModule := m.srcModule
      lowEpoch := BitVec.ofNat 16 ((low.map (·.epoch)).getD 0), lowGroup := BitVec.ofNat 16 ((low.map (·.group)).getD 0)
      lowSeq := BitVec.ofNat 16 ((low.map (·.seq)).getD 0), lowKey := BitVec.ofNat 32 ((low.map (·.key)).getD 0)
      keyOfQuery := BitVec.ofNat 32 ((i.map (·.key)).getD 0) } []

/-- CREPLY: the peer's key differs, or it orders I and the J that it names as lowest the other way than this module, by the epoch
and key that each holds for J (R401). A key of 0 says that the peer holds none. -/
def State.onReply (s : State) (m : CollMsg) : State :=
  match s.inst m.group.toNat m.seq.toNat with
  | none => s
  | some i =>
    if i.done then s
    else if m.keyOfQuery ≠ 0 ∧ m.keyOfQuery.toNat ≠ i.key then s.abortInst i.group i.seq 0x0605 true
    else
      let jg := m.lowGroup.toNat
      let jq := m.lowSeq.toNat
      -- J as a message about it would make it known here.
      let about : CollMsg := { m with group := m.lowGroup, seq := m.lowSeq, epoch := m.lowEpoch, orderKey := m.lowKey }
      if jg = i.group ∧ jq = i.seq then s
      else match s.instFor about false with
        | (_, none) => s
        | (s', some j) =>
          if j.done || instBefore j.epoch j.key i.epoch i.key == instBefore m.lowEpoch.toNat m.lowKey.toNat i.epoch i.key then s
          else (s'.abortInst i.group i.seq 0x0601 true).abortInst jg jq 0x0601 true

/-- CABORT: the instance is aborted here too, known or not (R403). -/
def State.onAbort (s : State) (m : CollMsg) : State :=
  let code := 0x0600 + m.status.toNat
  match s.inst m.group.toNat m.seq.toNat with
  | some i => s.abortInst i.group i.seq code false
  | none => match s.groupEntry m with
    | some (p, e) => (s.instOfMsg m 0 p e).abortInst m.group.toNat m.seq.toNat code false
    | none => s.dropMsg m

/-- A message about a known instance whose fields disagree with the local entry aborts it (R376); `f` is what the others do. -/
def State.agreed (s : State) (m : CollMsg) (f : State → CollMsg → State) : State :=
  match s.inst m.group.toNat m.seq.toNat with
  | some i => match (if i.done then 0 else disagreement i m) with
    | 0 => f s m
    | code => s.abortInst i.group i.seq code true
  | none => f s m

/-- A CQUERY, CREPLY or CABORT takes its effect once for each sender and instance: a repeat is dropped and counted (R384; log entry
79). -/
def State.once (s : State) (m : CollMsg) (f : State → CollMsg → State) : State :=
  let h : Heard := ⟨m.kind.toNat, m.srcModule.toNat, m.group.toNat, m.seq.toNat⟩
  if s.coll.heard.contains h then s.dropMsg m
  else ({ s with coll := { s.coll with heard := s.coll.heard ++ [h] } } : State).agreed m f

/-- A message between modules, or inside this one, arrives: dropped and counted when malformed (R384), taken with a CACK
to another module (R402, R494), or refused. -/
def State.receiveMsg (s : State) (m : CollMsg) (ws : List CodeWord) : State :=
  if badMsg m ∨ m.dstModule.toNat ≠ s.moduleId then s.dropMsg m
  else
    let (s, taken) : State × Bool := match m.kind.toNat with
      | 0x36 => (s.agreed m State.onBusy, true)
      | 0x37 => (s.agreed m State.onCack, false)
      | 0x38 => (s.once m State.onQuery, true)
      | 0x39 => (s.once m State.onReply, true)
      | 0x3A => (s.once m State.onAbort, true)
      | 0x30 => (s, false)
      | _ => s.takeMsg m ws
    if taken && m.srcModule.toNat != s.moduleId then s.sendCack m else s

/-- A message of one kind. -/
def State.ofKind (s : State) (kind : Nat) (m : CollMsg) (ws : List CodeWord) : State :=
  if m.kind.toNat = kind then s.receiveMsg m ws else s

/-- CDATA: a leaf or node value reaches the computer of the parent node (R382). -/
def execCdata (m : CollMsg) (payload : List CodeWord) (s : State) : Host.Outcome State Fault Refusal :=
  .next (s.ofKind 0x31 m payload)

/-- CRESULT: a result comes down the tree, or the data of an operation that does not add (R381). -/
def execCresult (m : CollMsg) (payload : List CodeWord) (s : State) : Host.Outcome State Fault Refusal :=
  .next (s.ofKind 0x32 m payload)

/-- CCLEAN: a subtree is verified and delivered (R387). -/
def execCclean (m : CollMsg) (s : State) : Host.Outcome State Fault Refusal := .next (s.ofKind 0x33 m [])

/-- CFIX: the fix notice of a chunk (R387). -/
def execCfix (m : CollMsg) (s : State) : Host.Outcome State Fault Refusal := .next (s.ofKind 0x34 m [])

/-- CRECALL: the recall notice of a chunk (R388). -/
def execCrecall (m : CollMsg) (s : State) : Host.Outcome State Fault Refusal := .next (s.ofKind 0x35 m [])

/-- CBUSY: a message was refused (R399). -/
def execCbusy (m : CollMsg) (s : State) : Host.Outcome State Fault Refusal := .next (s.ofKind 0x36 m [])

/-- CBUSY_RETRY: the wait of a refused message is over and it is sent again (R399). -/
def execCbusyRetry (idx : Nat) (s : State) : Host.Outcome State Fault Refusal :=
  .next (match s.coll.backoff[idx]? with
    | none => s
    | some b =>
      -- A stop bath that holds its instance forwards nothing of it (R603).
      if ((s.inst b.msg.group.toNat b.msg.seq.toNat).map s.collHeld).getD false then s
      else
      let s := { s with coll := { s.coll with backoff := dropAt s.coll.backoff idx } }
      s.launchSent ⟨b.msg, b.payload, 0xFF, 0, 0, b.waitUs, []⟩ (s.portFor b.msg))

/-- CACK: one message between modules has been received (R402). -/
def execCack (m : CollMsg) (s : State) : Host.Outcome State Fault Refusal := .next (s.ofKind 0x37 m [])

/-- An unacknowledged message is sent again by the next port under a new number; after the third resend its instance is
aborted (R402, R493). One that has not left yet because all numbers are taken goes on waiting. -/
def State.resend (s : State) (idx : Nat) : State :=
  match s.coll.sent[idx]? with
  | none => s
  | some x =>
    let rest := s.setSent (dropAt s.coll.sent idx)
    let m := x.msg.dstModule.toNat
    if x.ids.isEmpty && (rest.freeId m []).isNone then s
    else if 3 ≤ x.resends then (rest.flushSent m).abortInst x.msg.group.toNat x.msg.seq.toNat 0x0604 true
    else rest.launchSent { x with resends := x.resends + 1, used := x.ids } (rest.portAfter x.msg x.port)

/-- CACK_TIMEOUT: no CACK has come within 50 µs (R402). -/
def execCackTimeout (idx : Nat) (s : State) : Host.Outcome State Fault Refusal := .next (s.resend idx)

/-- UIO_COMPLETION_TIMEOUT: a write of the message had no completion; the message counts as lost (R494). -/
def execUioCompletionTimeout (idx : Nat) (s : State) : Host.Outcome State Fault Refusal := .next (s.resend idx)

/-- PEER_TIMEOUT: an instance that waits for a member has heard nothing of it for `peer_timeout` (R402). -/
def execPeerTimeout (group seq : BitVec 16) (s : State) : Host.Outcome State Fault Refusal :=
  .next (match s.inst group.toNat seq.toNat with
    | none => s
    | some i => if i.done || (s.peers i.entry).isEmpty then s else s.abortInst i.group i.seq 0x0604 true)

/-- INVERSION_TIMEOUT: the partition's lowest outstanding instance has made no progress for `inversion_bound`; CQUERY goes
to every member of it (R401). -/
def execInversionTimeout (p : BitVec 4) (s : State) : Host.Outcome State Fault Refusal :=
  .next (match s.lowest p.toNat with
    | none => s
    | some i => s.forEach (s.peers i.entry) fun s m => s.sendColl (s.collHeader 0x38 i m 0 0 0 0) [])

/-- CQUERY (R401). -/
def execCquery (m : CollMsg) (s : State) : Host.Outcome State Fault Refusal := .next (s.ofKind 0x38 m [])

/-- CREPLY (R401). -/
def execCreply (m : CollMsg) (s : State) : Host.Outcome State Fault Refusal := .next (s.ofKind 0x39 m [])

/-- CABORT (R403). -/
def execCabort (m : CollMsg) (s : State) : Host.Outcome State Fault Refusal := .next (s.ofKind 0x3A m [])

/-! ### Verdicts -/

/-- A residue-check event about a chunk, or none (Table 20-2); one about an NMU carries its pseudo-channel (R341). -/
def State.residueEvent (s : State) (p unit place c pc : Nat) : State :=
  s.raise { Event.of 0x05 unit (place % 256 + c * 256) with part := some p, step := s.runningSeq p, pc := pc }

/-- An adder of a command on a stack has detected an error (R98, R365): the event naming its unit, status 1 unless an earlier
fault stands (R352). No chunk is named for a command that is no collective's: that field is free. -/
def State.residueFault (s : State) (k p unit pc : Nat) : State :=
  match s.front k p with
  | none => s
  | some (n, c) =>
    if !c.running || c.kind == 3 then s
    else
      let chunk := match c.coll with
        | some (_, _, ch, _) => ch
        | none => (Config.freeWord 5 s.freeCtr).toNat % 2 ^ 24
      let s := (s.residueEvent p (nmuUnit k unit) pc chunk (if unit = 2 then pc else 0xFF)).drawn
      if c.status ≠ 0 then s
      else s.setCmds k p (setAt (s.cmdsOf k p) n { c with status := 1, faultPc := if unit = 2 then pc else 0xFF })

/-- The verdict on a node that this module's X-die computes (R386 to R388). -/
def State.nodeVerdict (s : State) (g q c first span : Nat) (clean : Bool) : State :=
  match s.inst g q with
  | none => s
  | some i =>
    let k := i.chunk c
    let mine := fun (n : NodeSt) => n.first == first && n.span == span && n.round == k.round && n.value.isSome && n.verdict.isNone
    if i.abort.isSome || !k.nodes.any mine then s
    else if s.collHeld i then s.parkWork (.verdict g q c first span clean)
    else
      let mark := fun (n : NodeSt) => if mine n then { n with verdict := some clean } else n
      let s := s.modChunk g q c fun x => { x with nodes := x.nodes.map mark }
      if clean then (Post.clean (s, []) g q c).run g q
      else
        let ps := s.collPorts
        let s := s.residueEvent i.part (dieUnit (s.chunkDie c)) (ps.getD (c % max ps.length 1) 0) c 0xFF
        (Post.failedVerdict (s, []) i c first span k.round).run g q

/-- RESIDUE_VERDICT: the checks of an adder's additions are known, clean or failed (R97, R98, R365, R386). The verdict of a
module's local node is the status of its REDUCE. -/
def execResidueVerdict (adder : Adder) (operands : List (Bool × Nat × Nat)) (raws : List Nat) (shifts : List (Bool × Nat × Nat))
    (rounds exps : List (Nat × Nat)) (s : State) : Host.Outcome State Fault Refusal :=
  let clean := (adderChecks operands raws shifts rounds exps).all AdderCheck.clean
  .next (match adder with
    | .node g q c first span => s.nodeVerdict g.toNat q.toNat c.toNat first.toNat span.toNat clean
    | .nmu k p pc => if clean then s else s.residueFault k.val p.toNat 2 pc.toNat
    | .merge k p => if clean then s else s.residueFault k.val p.toNat 3 0xFF)

/-! ### The receive window -/

/-- The words of a message that have arrived from offset 0x1000 on without a hole. -/
def Assembly.payload (a : Assembly) : Nat → Nat → List CodeWord
  | 0, _ => []
  | fuel + 1, o => match a.words.find? fun e => e.1 == o with
    | some e => e.2 ++ a.payload fuel (o + 8 * e.2.length)
    | none => []

/-- A message is complete when its header and every payload byte that it implies have arrived (R494). -/
def Assembly.message (a : Assembly) : Option (CollMsg × List CodeWord) :=
  match a.words.find? fun e => e.1 == 0 && decide (8 ≤ e.2.length) with
  | none => none
  | some h =>
    let m := collOfBytes (wordBytes (h.2.map eccCorrect))
    let d := a.payload 2049 0x1000
    if payloadLen m ≤ 8 * d.length then some (m, d.take (payloadLen m / 8)) else none

/-- The words of a message's header as the port's X-die takes them: corrections counted; false, with the data-fault event, when one
is uncorrectable (R104). Its place in no memory: the detail of the event is free. -/
def State.checkHead (s : State) (port : Nat) (ws : List CodeWord) : State × Bool :=
  let bad := (ws.filter fun w => decide (eccCheck w = .uncorrectable)).length
  let ce := (ws.filter fun w => decide (eccCheck w ≠ .clean) && decide (eccCheck w ≠ .uncorrectable)).length
  let s := s.count 0x8040 (xDie (port / 2) + 1) ce
  if bad = 0 then (s, true)
  else
    let s := s.count 0x8041 (xDie (port / 2) + 1) bad
    ((s.raise (Event.of 0x01 (dieUnit (xDie (port / 2))) (Config.freeWord 7 s.freeCtr).toNat)).drawn, false)

/-- UIO_WRITE_RECEIVE: a write into the collective receive window by a fabric port, its words with their check bits; it receives one
completion (R103, R491, R492, R494). A message whose header cannot be read is discarded, and its sender sends it again. -/
def execUioWriteReceive (port : BitVec 3) (addr : BitVec 64) (data : List CodeWord) (s : State) :
    Host.Outcome State Fault Refusal :=
  .next (let base := s.num 0x6100 8
    let o := addr.toNat - base
    let n := port.toNat
    if n = 0 ∨ addr.toNat < base ∨ 2 ^ 44 ≤ o ∨ data.isEmpty ∨ s.num (0x6000 + n) 1 ≠ 1 ∨ !s.keyed n then s
    else
      let src := o / 2 ^ 27
      let id := o / 2 ^ 23 % 16
      let old := (s.coll.assembly.find? fun a => a.src == src && a.msgId == id).getD ⟨src, id, []⟩
      let new := { old with words := tabInsert old.words (o % 2 ^ 23) data }
      let rest := s.coll.assembly.filter fun a => !(a.src == src && a.msgId == id)
      let s := s.emit (.uioCompletion n addr.toNat)
      match s.checkHead n (if o % 2 ^ 23 = 0 then data.take 8 else []) with
      | (s, false) => { s with coll := { s.coll with assembly := rest } }
      | (s, true) => match new.message with
        | none => { s with coll := { s.coll with assembly := rest ++ [new] } }
        | some (m, d) => ({ s with coll := { s.coll with assembly := rest } }).receiveMsg m d)

/-- MESSAGE_ASSEMBLY_TIMEOUT: a message still incomplete 50 µs after its first write is discarded (R494). -/
def execMessageAssemblyTimeout (module : BitVec 17) (msgId : BitVec 4) (s : State) : Host.Outcome State Fault Refusal :=
  .next (let keep := s.coll.assembly.filter fun a => !(a.src == module.toNat && a.msgId == msgId.toNat)
    { s with coll := { s.coll with assembly := keep } })

/-- A fabric port leaves service: chunks take the remaining ports from the next one on, and what was out through the port
is sent again (R379, R402). -/
def State.fabricLeaves (s : State) (n : Nat) : State :=
  if n = 0 ∨ s.num (0x6000 + n) 1 ≠ 1 then s
  else
    let s := s.setNum (0x6000 + n) 1 3
    s.forEach (s.coll.sent.filter fun x => x.port == n) fun s x =>
      match findIdx (fun y => decide (y = x)) s.coll.sent with
      | some (k, _) => s.resend k
      | none => s

/-- P0 not in service. -/
def State.p0Drop (s : State) (state : Nat) : State := ((s.setNum 0x6000 1 state).setNum 0x6000 2 0).setNum 0x6000 3 0

/-- FABRIC_PORT_LEAVES_SERVICE (R379, R402). -/
def execFabricPortLeavesService (port : BitVec 3) (s : State) : Host.Outcome State Fault Refusal :=
  .next (s.fabricLeaves port.toNat)

/-- Every group counter of a partition returns to 0 (R375); instances that are over give up their numbers. -/
def State.collReset (s : State) (p : Nat) : State :=
  let s := s.modPart p fun q => { q with groupSeq := [] }
  let insts := s.coll.insts.filter fun i => !(i.part == p && i.done)
  { s with coll := { s.coll with
    insts := insts, heard := s.coll.heard.filter fun h => insts.any fun i => i.group == h.group && i.seq == h.seq } }

/-- COLL_RESET (R375). -/
def execCollReset (path : Path) (p : BitVec 4) (s : State) : Host.Outcome State Fault Refusal :=
  .next (s.writeDo path (0x6110 + p.toNat) 3 1 fun s => s.collReset p.toNat)

/-! ### The end of a beside-memory command -/

/-- NMU_COMMAND_END: the NMU phase of the partition's command on a stack ends; the merge runs, the records are written, a
status other than 0 fails the step (R351, R352, R364). -/
def execNmuCommandEnd (stack : Fin 24) (p : BitVec 4) (s : State) : Host.Outcome State Fault Refusal :=
  .next (let k := stack.val
    let p := p.toNat
    match s.front k p with
    | none => s
    | some (n, c) =>
      if !c.held || !(c.running || c.status != 0) then s
      else
        let s := s.setCmds k p (dropAt (s.cmdsOf k p) n)
        let s := s.traceCmd p k 0x11 c.tag c.status
        let s := if c.status = 0 then s.bump 0x5A03 (sub1 k) 1 else if c.status = 1 then s.bump 0x5A02 (sub1 k) 1 else s
        -- A status set on arrival raises its event here; the others have raised theirs (Table 10-7).
        let s := if !c.running && (c.status == 4 || c.status == 5 || c.status == 7) then s.cmdFault p k c else s
        let s := match c.coll with
          | some (g, q, ch, r) => if c.status = 7 then s.cmdFailStep p k c else s.localDone g q ch r c.status
          | none =>
            let heads : List (List Nat) := if c.kind = 1 then c.merged else []
            let data := if c.kind = 1 then decodeData heads else if c.kind = 2 then c.statsData else []
            ((s.nmuRecord p k c (heads.map fun (h : List Nat) => h.getD 0 0) (heads.map fun (h : List Nat) => h.getD 1 0) data).nmuClosed p c).cmdFailStep p k c
        ((s.retryReduces p).settle p).settleCut p)

end Sys2Proof.Machine
end

