-- ==== Sys2Proof/Machine/Debug.lean ====
section
/-! DEFINITION. Hang events, filmstrips, the contact sheet, the stop bath and breakpoints (03 R155; 19 R586 to R609). -/

namespace Sys2Proof.Machine

/-! ### Hangs -/

/-- HANG_TIMEOUT: a token wait of a unit that has not stopped has stayed unsatisfied for `hang_margin` after its segment's planned
end (R155): the hang event, and a contact sheet unless the partition caused one in the last 100 ms (R596, Table 19-13). -/
def execHangTimeout (c : CoreId) (u : UnitId) (s : State) : Host.Outcome State Fault Refusal :=
  .next (match s.physOf c.toNat with
    | none => s
    | some pc =>
      let k := s.core pc
      match k.run, k.sq.head u.val with
      | some r, some i =>
        let h := i.header
        let waits := h.waitCount != 0 && decide ((k.sq.unit u.val).halt = .running) && ((k.sq.token h.waitToken.toNat).readyAt h.waitCount.toNat 0).isNone
        if !waits then s
        else
          let p := r.part
          let seg := ((s.running p).map (·.segment)).getD 0
          let s := s.raiseStep p (.of 0x06 (coreUnit pc u.val) (seg + h.waitToken.toNat * 65536))
          let recent := match (s.part p).lastHang with | some t => decide (s.now < t + 100000000) | none => false
          if recent then s
          else (s.modPart p fun q => { q with hangAt := some (q.hangAt.getD s.now) }).settleHang p
      | _, _ => s)

/-! ### Filmstrips -/

/-- A WRAP record with the time stamp of now, written whenever the partition's trace is enabled (R587, R588). -/
def State.filmWrap (s : State) (f : Nat) : State :=
  match s.filmPart f with
  | none => s
  | some p =>
    if s.eff p (0x8100 + p) 1 ≠ 1 then s
    else s.filmPut p f (filmWord (s.filmTs f) 0x07 0 (filmWhere f) (s.now % 2 ^ 64 * 2 ^ 16))

/-- The ts counter of a filmstrip is 0 now (R588). -/
def State.filmZero (s : State) (f : Nat) : State := s.setFilm f { s.film f with zero := s.filmCount f }

/-- FILMSTRIP_WRAP: a filmstrip's ts counter passes from its greatest value to 0 (R588). -/
def execFilmstripWrap (strip : Nat) (s : State) : Host.Outcome State Fault Refusal :=
  .next (if strip < 600 then (s.filmZero strip).filmWrap strip else s)

/-- Every filmstrip of a partition emptied: a ring, with its WRAP record (R588, R589). -/
def State.armTrace (s : State) (p : Nat) : State :=
  let fs := s.filmsOf p
  let s := s.forEach fs fun s f => s.setFilm f { s.film f with recs := [], phase := 1, post := 0 }
  (s.forEach fs State.filmWrap).setNum (0x8100 + p) 9 1

/-- TRACE_ARM (R588, R589). -/
def execTraceArm (path : Path) (p : BitVec 4) (s : State) : Host.Outcome State Fault Refusal :=
  .next (s.writeDo path (0x8100 + p.toNat) 7 1 fun s => s.armTrace p.toNat)

/-- TRACE_TRIGGER: the manual trigger cause (R590). -/
def execTraceTrigger (path : Path) (p : BitVec 4) (s : State) : Host.Outcome State Fault Refusal :=
  .next (s.writeDo path (0x8100 + p.toNat) 8 1 fun s => s.trigger p.toNat 0)

/-- A filmstrip with its `n` oldest undrained records marked drained. -/
def drainMarks : Nat → List FilmRec → List FilmRec
  | 0, l => l
  | _, [] => []
  | n + 1, r :: t => if r.drained then r :: drainMarks (n + 1) t else { r with drained := true } :: drainMarks n t

/-- TRACE_DRAIN: the drain engine copies 15 undrained records of one filmstrip of the partition, after their SOURCE
record, into the window's staging ring, as soon as that has room (R593, R594, R331; Table 19-13). -/
def execTraceDrain (p : BitVec 4) (s : State) : Host.Outcome State Fault Refusal :=
  .next (let p := p.toNat
    let w := s.num (0x8100 + p) 6
    let size := s.num (0x5700 + w) 3
    let due := fun (f : Nat) => (s.film f).recs.filter fun r => !r.drained
    if 64 ≤ w ∨ s.num (0x5700 + w) 1 = 0 ∨ size < 256 ∨ s.ringFree w < 256 ∨ s.eff p (0x8100 + p) 1 ≠ 1 then s
    else match (s.filmsOf p).find? fun f => decide (15 ≤ (due f).length) with
      | none => s
      | some f =>
        let fm := s.film f
        let unit := if f < 576 then coreUnit f 0xF else dieUnit (mDie (f - 576))
        let src := filmWord (s.filmTs f) 0x0C 0 (filmWhere f) (unit * 2 ^ 64 + fm.drainSeq % 2 ^ 32 * 2 ^ 32)
        let g := (src :: ((due f).take 15).map FilmRec.word).flatMap fun r => leBytes 16 r.toNat
        let o := (s.part p).drained * 256 % (size / 256 * 256)
        let s := s.setFilm f { fm with recs := drainMarks 15 fm.recs, drainSeq := (fm.drainSeq + 1) % 2 ^ 32 }
        (s.modPart p fun q => { q with drained := q.drained + 1 }).stage (if f < 576 then f / 36 else mDie (f - 576)) p w o (Ram.empty.writeRaw 0 g) 0 256)

/-! ### Marks -/

/-- The granule field of a stop or marker message (Table 19-7): a 16-bit value above a 32-bit one. -/
def stopField (hi lo : Nat) : BitVec 48 := BitVec.ofNat 48 (hi % 65536 * 2 ^ 32 + lo % 2 ^ 32)

/-- A control-class message from the conductor to a die (R31, Table 19-7). -/
def State.control (s : State) (op die p hi lo mask : Nat) : State :=
  s.sendPacket { opcode := BitVec.ofNat 6 op, srcDie := BitVec.ofNat 6 (sDie (s.num 0x9200 1)), srcCluster := 0
                 dstDie := BitVec.ofNat 6 die, dstCluster := 0, msgClass := 3, tag := 0, age := 0
                 partition := BitVec.ofNat 4 p, granule := stopField hi lo, mask := BitVec.ofNat 32 mask } []

/-- The C-dies of a partition. -/
def State.partDies (s : State) (p : Nat) : List Nat := ((s.partClusters p).map (· / 4)).dedup

/-- A MARKER record in every filmstrip of a die that records for a partition of `ps` (Table 19-3). -/
def State.marker (s : State) (die : Nat) (ps : List Nat) (value bath : Nat) : State :=
  let fs := if die < 16 then rangeFrom (36 * die) 36 else if die < xDie 0 then [576 + (die - mDie 0)] else []
  s.forEach (fs.filter fun f => (s.filmPart f).any ps.contains) fun s f =>
    s.trace f (s.filmTs f) 0x06 0 (value % 65536 * 2 ^ 64 + bath * 2 ^ 63)

/-- MARK: every filmstrip of the die writes a MARKER (Table 19-7). -/
def execMark (die : BitVec 6) (t : TxHeader) (s : State) : Host.Outcome State Fault Refusal :=
  .next (if t.opcode.toNat ≠ 0x3E then s
    else s.marker die.toNat (List.range 16) (t.granule.toNat / 2 ^ 32) 0)

/-- MARK sent to every die of every enabled partition (Table 19-4). -/
def State.sendMark (s : State) (v : Nat) : State :=
  s.forEach s.enabledParts fun s p => s.forEach (s.partDies p) fun s d => s.control 0x3E d p v 0 0

/-- MARK_WRITE (Table 19-4). -/
def execMarkWrite (path : Path) (value : BitVec 16) (s : State) : Host.Outcome State Fault Refusal :=
  .next (s.writeDo path 0x8140 1 value.toNat fun s => s.sendMark value.toNat)

/-! ### The contact sheet -/

/-- SHEET_CAPTURE: the device captures a contact sheet (R596). -/
def execSheetCapture (path : Path) (s : State) : Host.Outcome State Fault Refusal :=
  .next (s.writeDo path 0x8120 3 1 fun s => s.capture 0 0xFFFF 0)

/-! ### The stop bath -/

/-- True when the stop named is ahead of every step of the partition that has started (R600). -/
def State.stopAhead (s : State) (p : Nat) (b : StopBath) : Bool :=
  (s.part p).started.all fun x => if b.mode = 0 then serialAhead 32 b.stepSeq x.1 else serialAhead 16 b.epoch x.2

/-- The T that a STOP carries in ns, where the step is already accepted; free before its bracket is known. -/
def State.stopTime (s : State) (p : Nat) (b : StopBath) : Nat :=
  match (s.part p).queue.find? fun x => x.req.seq == b.stepSeq with
  | some x => (s.imageOf x.slot).bathCut x.bracket b / 5
  | none => (Config.freeWord 19 s.freeCtr).toNat

/-- The conductor arms a partition's stop bath and sends STOP to its dies (R600). -/
def State.armStop (s : State) (p : Nat) : State × Nat :=
  let o := 0x8130 + p
  let b : StopBath := ⟨s.num o 1, s.num o 2, s.num o 3, s.num o 4, s.num o 5, s.num o 6, [], []⟩
  if !s.debugOn p then (s, 0x0103)
  else if !s.stopAhead p b then (s, 0x0102)
  else
    let id := (s.num o 0xA + 1) % 65536
    let s := ((s.setNum o 8 1).setNum o 0xA id).setNum o 0xB 0
    let s := s.modPart p fun q => { q with stop := some b }
    let lo := if b.mode = 0 then s.stopTime p b else b.key
    let s := s.forEach (s.partDies p) fun s d => s.control 0x3C d p id lo (if b.mode = 0 then b.stepSeq else b.epoch)
    (s.drawn, 0)

/-- STOP_ARM (R600). -/
def execStopArm (path : Path) (p : BitVec 4) (s : State) : Host.Outcome State Fault Refusal :=
  .next (s.writeVia path (0x8130 + p.toNat) 7 1 fun s => s.armStop p.toNat)

/-- STOP: a die takes the stop; the partition is stopping, and the die's filmstrips write a MARKER (R601 to R603, Table
19-3). -/
def execStop (die : BitVec 6) (t : TxHeader) (s : State) : Host.Outcome State Fault Refusal :=
  .next (let d := die.toNat
    let p := t.partition.toNat
    match (s.part p).stop with
    | none => s
    | some b =>
      if t.opcode.toNat ≠ 0x3C ∨ t.granule.toNat / 2 ^ 32 ≠ s.num (0x8130 + p) 0xA ∨ b.reached.contains d ∨
          !(s.partDies p).contains d then s
      else
        let s := s.modPart p fun q => { q with stop := some { b with reached := b.reached ++ [d] } }
        (s.setNum (0x8130 + p) 8 (max 2 (s.num (0x8130 + p) 8))).marker d [p] (s.num (0x8130 + p) 0xA) 1)

/-- True when every unit of a core stands at the cut and what it issued has completed (R604). -/
def State.coreCut (s : State) (x : Step) (c : Nat) : Bool :=
  match s.physOf c with
  | none => true
  | some pc =>
    let k := s.core pc
    match k.run with
    | none => true
    | some r =>
      k.sq.flights.isEmpty && tabGet 0 x.nmuOpen c == 0 && (List.range 5).all fun u =>
        decide ((k.sq.unit u).halt ≠ .running) ||
          (match k.sq.head u with | some i => s.bathHolds r u (k.sq.unit u).issued i | none => false)

/-- STOPPED: a die reports that its cores of the step stand at the cut; the last report may complete the cut (R604). -/
def execStopped (t : TxHeader) (s : State) : Host.Outcome State Fault Refusal :=
  .next (let d := t.srcDie.toNat
    let p := t.partition.toNat
    match (s.part p).stop with
    | none => s
    | some b =>
      match s.bathStep p b with
      | none => s
      | some x =>
        let mine := (s.stepCores x).filter fun c => c / 32 == d
        if t.opcode.toNat ≠ 0x3D ∨ t.granule.toNat / 2 ^ 32 ≠ s.num (0x8130 + p) 0xA ∨ !b.reached.contains d ∨ mine.isEmpty ∨
            !(mine.all (s.coreCut x)) then s
        else if b.stoppedDies.contains d then s.settleCut p
        else (s.modPart p fun q => { q with stop := some { b with stoppedDies := b.stoppedDies ++ [d] } }).settleCut p)

/-- Work of a held instance is done (R605). -/
def State.doWork (s : State) : HeldWork → State
  | .reduce g q c round status => s.localDone g q c round status
  | .verdict g q c first span clean => s.nodeVerdict g q c first span clean

/-- The stop of a partition is released (R605): its units go on, the time they stood counted as stall; its held instances and
their messages with them. -/
def State.releaseStop (s : State) (p : Nat) : State :=
  let s := (s.modPart p fun q => { q with stop := none }).setNum (0x8130 + p) 8 0
  let wake := fun (h : Halt) => if h = .bath then .running else h
  let s := s.forEach ((List.range 576).filter fun pc => ((s.core pc).run.map (·.part)) == some p) fun s pc =>
    (s.accountCore pc).modCore pc fun k =>
      let us := (List.range 5).foldl (fun us u => tabMod UnitSt.idle us u fun v => { v with halt := wake v.halt }) k.sq.units
      { k with sq := { k.sq with units := us } }
  let ofP := fun (m : CollMsg) => (s.inst m.group.toNat m.seq.toNat).any fun i => i.part == p
  let mine := s.coll.held.filter fun e => ofP e.1
  let s := { s with coll := { s.coll with held := s.coll.held.filter fun e => !ofP e.1 } }
  let s := s.forEach mine fun s e => match s.inst e.1.group.toNat e.1.seq.toNat with
    | some i => (s.deliver i e.1 e.2).1
    | none => s
  let work := s.coll.parked.filter fun w => (s.inst w.inst.1 w.inst.2).any fun i => i.part == p
  let s := ({ s with coll := { s.coll with parked := s.coll.parked.filter fun w => !work.contains w } }).forEach work State.doWork
  s.forEach ((s.coll.insts.filter fun i => i.part == p && !i.done && i.started).map fun i => (i.group, i.seq)) fun s k =>
    s.startReady k.1 k.2

/-- STOP_RELEASE_RESUME: every stopped unit goes on, held instances are released (R605). -/
def execStopReleaseResume (path : Path) (p : BitVec 4) (s : State) : Host.Outcome State Fault Refusal :=
  .next (s.writeDo path (0x8130 + p.toNat) 9 1 fun s => s.releaseStop p.toNat)

/-- The step that a stop names fails with cause 8 (R605). -/
def State.failStop (s : State) (p : Nat) : State :=
  let named := ((s.part p).stop.bind fun b => s.bathStep p b).isSome
  let s := if named then s.failStep p ⟨8, 0, 0, none⟩ else s
  (s.releaseStop p).settle p

/-- STOP_RELEASE_FAIL (R605). -/
def execStopReleaseFail (path : Path) (p : BitVec 4) (s : State) : Host.Outcome State Fault Refusal :=
  .next (s.writeDo path (0x8130 + p.toNat) 9 2 fun s => s.failStop p.toNat)

/-! ### Breakpoints -/

/-- A frozen core goes on (R609): the time it stood is stall, and its units issue no earlier than they would have after
it. `single` is the unit, plus 1, that alone may issue, 0 for all. -/
def State.thaw (s : State) (c single : Nat) : State :=
  match s.physOf c with
  | none => s
  | some pc =>
    if !(s.core pc).frozen then s
    else ((s.accountCore pc).modCore pc fun k => { k with frozen := false, frozenAt := 0, single := single }).setNum (bpObj c) 0xD 0

/-- BP_RESUME: the core restarts; the instruction it hit at issues without hitting again (R609). -/
def execBpResume (path : Path) (c : CoreId) (s : State) : Host.Outcome State Fault Refusal :=
  .next (s.writeDo path (bpObj c.toNat) 0xF 1 fun s => s.thaw c.toNat 0)

/-- BP_SINGLE_STEP: one instruction of the unit in `step_unit` issues, and the core freezes again (R609). -/
def execBpSingleStep (path : Path) (c : CoreId) (s : State) : Host.Outcome State Fault Refusal :=
  .next (s.writeDo path (bpObj c.toNat) 0xF 2 fun s => s.thaw c.toNat (s.num (bpObj c.toNat) 0x10 + 1))

end Sys2Proof.Machine
end

