-- ==== Sys2Proof/Machine/MemoryUpkeep.lean ====
section
/-! DEFINITION. Upkeep of the stacks (09_memory_system.md): training (R307, R308), patrol scrub (R299), temperature and
classes (R309 to R313), migration (R318 to R322); fills and generations of the tier cache (R323 to R330, 15 R496); export
rings and negatives (R331 to R333; 12 R419 to R421). -/

namespace Sys2Proof.Machine

/-- Idle partitions, which stand at a boundary, take the degraded-stack overlay of a stack whose second retirement waits (R141, R322). -/
def State.takeSlot15 (s : State) : State := s.forEach (s.enabledParts.filter fun p => (s.running p).isNone) State.settleSlot15

/-! ### Training -/

/-- TRAINING_WINDOW_START: a pseudo-channel is unavailable while it trains; one trains at a time in a stack (R307). -/
def execTrainingWindowStart (stack : Fin 24) (pc : BitVec 6) (s : State) : Host.Outcome State Fault Refusal :=
  .next (let k := stack.val
    if (s.stack k).training.isSome then s
    else (s.modStack k fun m => { m with training := some pc.toNat }).traceAt (576 + k) (s.filmTs (576 + k)) 0x12 0 pc.toNat 0)

/-- TRAINING_WINDOW_END: the window converged, or left the pseudo-channel at its last good settings; the third failure in
a row makes it a candidate for retirement (R308, R314). -/
def execTrainingWindowEnd (stack : Fin 24) (pc : BitVec 6) (converged : Bool) (s : State) :
    Host.Outcome State Fault Refusal :=
  .next (let k := stack.val
    let c := pc.toNat
    let m := s.stack k
    if m.training ≠ some c then s
    else
      let n := if converged then 0 else tabGet 0 m.trainFails c + 1
      let s := s.setStack k { m with training := none, trainFails := tabSet 0 m.trainFails c n }
      let s := s.traceAt (576 + k) (s.filmTs (576 + k)) 0x12 0 c ((if converged then 1 else 2) * 2 ^ 78)
      let s := if converged then s else s.count (0x8020 + k) 4 1
      if 3 ≤ n then (s.retire k c).takeSlot15 else s)

/-! ### Patrol scrub -/

/-- The granule of the spread view at a place: the map of R293 read backwards. -/
def spreadGranule (k c l : Nat) : Nat :=
  let lo := k % 8 ^^^ foldXor 3 8 l
  let ch := c ^^^ foldXor 6 4 l
  3 * (l * 512 + ch * 8 + lo) + k / 8

/-- The item of a second retirement that a row of the reserve band holds (R316 read backwards). -/
def remap2At (r d c j : Nat) : Nat :=
  let late := ((rangeFrom 47 16).map (svAt r)).filter (· ≠ d)
  let sv2 := (List.range 64).filter fun x => x ≠ r && x ≠ d
  let pos := fun (l : List Nat) => ((findIdx (· == c) l).map (·.1)).getD 0
  if j = 64495 ∧ late.contains c then pos late else late.length + (j - 64496) * 62 + pos sv2

/-- The channel and row, before any remap, of each granule that a place may hold: its own, and in the reserve band those that the remaps
of the first and of the second retirement bring there (R315, R316). -/
def Stack.origins (k : Stack) (c l : Nat) : List (Nat × Nat) :=
  if l < bandRows then [(c, l)]
  else
    let j := l - bandRows
    let first := fun (r : Nat) => if c = r then [] else [(r, j * 63 + svPos r c)]
    match k.mapped with
    | [r] => first r
    | [r, d] =>
      let i := remap2At r d c j
      first r ++ (if c = r ∨ c = d then [] else [if i < heldBy r d then (r, i * 63 + svPos r d) else (d, i - heldBy r d)])
    | _ => []

/-- The one of them that is read there, by its block's map-generation bit (R319). -/
def Stack.origin (k : Stack) (c l : Nat) : Option (Nat × Nat) :=
  (k.origins c l).find? fun o => decide (o.2 < bandRows) && k.locate o.1 o.2 == (c, l)

/-- The device address of the granule at a physical place; none when no address reaches it. -/
def State.addressAt (s : State) (k c l : Nat) : Option Nat :=
  match (s.stack k).origin c l with
  | none => none
  | some (c', l') =>
    if l' < s.spreadRows then some (256 * spreadGranule k c' l')
    else some (placedBase k + 256 * ((l' - s.spreadRows) * 64 + c'))

/-- True when a device address lies in the lent range (R336). -/
def State.lent (s : State) (a : Nat) : Bool :=
  s.num 0x5900 1 != 0 && decide (s.num 0x5900 3 ≤ a) && decide (a < s.spreadBytes)

/-- The data-fault event of a word that no step consumed: it names the host offset in the lent range (R299, R338, Table
9-8). -/
def State.scrubFault (s : State) (unit a : Nat) : State :=
  if s.lent a then s.raise { Event.of 0x01 unit (a - s.num 0x5900 3) with hostOffset := true }
  else s.raise (.of 0x01 unit a)

/-- A correctable word rewritten with its corrected data and its own check bits (R299): an error among the check bits stays. -/
def Ram.scrubWord (r : Ram) (w : Nat) : Ram :=
  let c := r.codeWord w
  r.storeCode w ((eccCorrect c &&& BitVec.ofNat 72 (2 ^ 64 - 1)) ||| (c &&& ~~~ BitVec.ofNat 72 (2 ^ 64 - 1)))

/-- PATROL_SCRUB: the next granule of a pseudo-channel is read; a correctable word is rewritten with its corrected data and
its own check bits, an uncorrectable one reported and left (R299). A channel that trains is not available (R307). -/
def execPatrolScrub (stack : Fin 24) (pc : BitVec 6) (s : State) : Host.Outcome State Fault Refusal :=
  .next (let k := stack.val
    let c := pc.toNat
    if (s.stack k).training = some c then s else
    let row := tabGet 0 (s.stack k).scrub c
    let base := physAddr k c row
    let f := s.dram.fetch base 256
    let addr := s.addressAt k c row
    let s := { s with dram := f.ce.foldl Ram.scrubWord s.dram }
    let s := s.modStack k fun m => { m with scrub := tabSet 0 m.scrub c ((row + 1) % 4194304) }
    let s := (s.count (0x8020 + k) 3 f.ce.length).seen ⟨k, c, row⟩ f.ce.length f.ue.length
    s.takeSlot15.forEach f.ue fun s w =>
      let a := match addr with | some a => a + 8 * (w % 32) | none => (Config.freeWord 2 s.freeCtr).toNat
      (s.scrubFault (unitId (mDie k) 0 0xF 5) a).drawn)

/-! ### Temperature and classes -/

/-- The throttle threshold in force, and 5 °C below it. -/
def State.throttleAt (s : State) : FVal := f32 (s.effDev 0x5300 1)
def State.coolBelow (s : State) : FVal := s.throttleAt.add (fInt (-5))

/-- The temperature a stack last reported. -/
def State.tempOf (s : State) (k : Nat) : FVal := f32 (s.num 0x5310 (sub1 k))

/-- True when a temperature is at or above another. -/
def atLeast (a b : FVal) : Bool := !a.isNan && !a.lt b

/-- The thermal class of a stack changed, and the class in force with it (R310). -/
def State.setThermal (s : State) (k c : Nat) : State :=
  let s := (s.modStack k fun m => { m with thermal := c }).noteClass k
  s.trace (576 + k) (s.filmTs (576 + k)) 0x13 0 (s.stackClass k * 2 ^ 77)

/-- The partitions with an accepted, unfinished step whose image is charged on stack `k` (R313). -/
def State.chargedParts (s : State) (k : Nat) : List Nat :=
  (List.range 16).filter fun p =>
    let q := s.part p
    (q.queue ++ q.backfill.filter fun x => decide (x.stage = .running)).any fun x => (s.imageOf x.slot).charged.contains k

/-- The emergency share begins on stack `k`: it serves every partition's buckets at class 4 at once (R313). -/
def State.enterEmergency (s : State) (k : Nat) : State :=
  (s.modStack k fun m => { m with emergency := true }).forEach (List.range 16) fun s p =>
    s.modPart p fun q => { q with serveClass := tabSet 0 q.serveClass k 4 }

/-- It ends, for class 3: a partition is served again at the class its running step was accepted under, at class 3 when that
was the emergency class or no step runs (R311, R313). -/
def State.leaveEmergency (s : State) (k : Nat) : State :=
  (s.modStack k fun m => { m with emergency := false, thermal := 3 }).forEach (List.range 16) fun s p =>
    s.modPart p fun q =>
      let c := match q.running with | some x => min 3 (x.classes.getD k 3) | none => 3
      { q with serveClass := tabSet 0 q.serveClass k c }

/-- THERMAL_CLASS_RISE: 50 ms more at or above the threshold raise the class by one, up to 3 (R309). -/
def execThermalClassRise (stack : Fin 24) (s : State) : Host.Outcome State Fault Refusal :=
  .next (let k := stack.val
    let m := s.stack k
    if m.emergency || decide (3 ≤ m.thermal) || !atLeast (s.tempOf k) s.throttleAt then s
    else s.setThermal k (m.thermal + 1))

/-- THERMAL_CLASS_FALL: a second below the threshold less 5 °C lowers the class by one (R309). -/
def execThermalClassFall (stack : Fin 24) (s : State) : Host.Outcome State Fault Refusal :=
  .next (let k := stack.val
    let m := s.stack k
    if m.emergency || m.thermal == 0 || !(s.tempOf k).lt s.coolBelow then s else s.setThermal k (m.thermal - 1))

/-! ### Migration -/

/-- True while a test strip runs on region `r` (R541, R547). -/
def State.underTest (s : State) (r : Nat) : Bool :=
  s.power.testing.contains r || s.power.requested.any fun q => q.1 == r

/-- MIGRATION_START: the second retirement of a stack starts to migrate once the degraded-stack overlay is applied to every
enabled partition and every step accepted before the decision has completed (R322), after a test strip of the stack (Table
17-9). -/
def execMigrationStart (stack : Fin 24) (s : State) : Host.Outcome State Fault Refusal :=
  .next (let k := stack.val
    let m := s.stack k
    let on := s.enabledParts
    let applied := on.isEmpty || (s.num 0x5330 (sub1 k) == 1 && on.all fun p => (s.num 0x300F 6).testBit p)
    let older := m.older.any s.acceptedSteps.contains
    if !m.waiting2 || m.migrating || older || s.underTest (80 + k) then s
    else if !applied then s.takeSlot15
    else (s.setStack k { m with waiting2 := false, older := [], migrating := true, moved := 0 }).setNum 0x5520 (sub1 k) 0)

/-- One granule of a block copied with its check bits, errors on the old place counted (R296, R319). -/
def State.migrateRow (s : State) (k c l : Nat) : State :=
  let (o, n) := (s.stack k).places c l
  if o = n then s
  else
    let a := physAddr k o.1 o.2
    let (ce, ue) := s.dramErrs a 256
    let s := s.seen ⟨k, o.1, o.2⟩ ce ue
    { s with dram := Ram.copy s.dram s.dram a (physAddr k n.1 n.2) 256 }

/-- True when copying rows of a stack's remapped channels reads or writes the pseudo-channel that trains (R307). -/
def Stack.trains (m : Stack) (rows : List Nat) : Bool :=
  match m.training with
  | none => false
  | some t => m.mapped.any fun c => rows.any fun l =>
    let (o, n) := m.places c l
    o != n && (o.1 == t || n.1 == t)

/-- MIGRATION_BLOCK_COPY: the block in transit has been copied and its map-generation bit is set; after block 991 the
migration is complete (R318, R319). The copy waits for a training window on a channel it uses (Table 9-8) and for a test strip of the
stack (Table 17-6). -/
def execMigrationBlockCopy (stack : Fin 24) (s : State) : Host.Outcome State Fault Refusal :=
  .next (let k := stack.val
    let m := s.stack k
    if !m.migrating || decide (992 ≤ m.moved) || s.underTest (80 + k) then s
    else
      let rows := rangeFrom (m.moved * 4096) 4096
      if m.trains rows then s else
      let s := s.forEach m.mapped fun s c => s.forEach rows fun s l => s.migrateRow k c l
      let n := m.moved + 1
      ((s.modStack k fun m => { m with moved := n, migrating := decide (n < 992) }).setNum 0x5520 (sub1 k) n).takeSlot15)

/-! ### Tier fills -/

/-- TIER_FILL_COMPLETE: 4 KiB of a window's page have been read: into the tier cache, into a region being copied up to its end
(R330), discarded when the generation has changed (R329), or kept while every page of the share is pinned (R328). A page that comes
over the fabric keeps its check bits (R103); one from host memory comes as bytes and is encoded here. -/
def execTierFillComplete (window : BitVec 6) (page : BitVec 52) (data : List CodeWord) (s : State) :
    Host.Outcome State Fault Refusal :=
  .next (match s.fills.find? fun f => f.window == window.toNat && f.page == page.toNat && f.data.isNone with
    | none => s
    | some f =>
      let words := if s.num (0x5600 + f.window) 1 = 2 then data.map fun w => eccEncode (codeData w) else data
      if data.length ≠ 512 then s
      else match f.target with
        | some a =>
          let ks := (List.range 64).filter fun k => s.copying k
          let s := ({ s with fills := s.fills.erase f }).meshWrite f.die (Ram.empty.putWords 0 words) 0 a f.len
          s.forEach ks State.settleSlot
        | none => (s.count (0x8010 + f.part) 4 4096).placeFill f words)

/-- FILL_TIMEOUT: the oldest held request of the partition has waited `fill_timeout` for its pages and is refused
(R326). -/
def execFillTimeout (p : BitVec 4) (s : State) : Host.Outcome State Fault Refusal :=
  .next (let p := p.toNat
    match (s.part p).held with
    | [] => s
    | q :: rest => ((s.modPart p fun t => { t with held := rest }).refuseRequest q 1 0x0309).readmit p)

/-- True when a request's bracket reaches a tier page (R325). -/
def State.reaches (s : State) (q : Request) (key : Nat) : Bool :=
  let i := s.imageOf q.slot
  match s.chooseBracket (s.num (clientObj q.client) 2) i q.size with
  | some e => (i.tierPages e.bracket).contains key
  | none => false

/-- A fill has failed: the requests held for its page are refused, or the image whose region it copies (R326, R330). -/
def State.fillFailed (s : State) (f : Fill) : State :=
  let ks := (List.range 64).filter fun k => ({ s with fills := [f] }).copying k
  let s := { s with fills := s.fills.erase f }
  match f.target with
  | some _ => s.forEach ks fun s k => ((s.emptySlot k).refuseImage k 0x0309 0).nextLoad s.loads
  | none =>
    let key := f.window * 2 ^ 52 + f.page
    let bad := (s.part f.part).held.filter fun q => s.reaches q key
    let s := s.modPart f.part fun t => { t with held := t.held.filter fun q => !bad.contains q }
    (s.forEach bad fun s q => s.refuseRequest q 1 0x0309).readmit f.part

/-- The port in service of a tier window's mask that comes next after port `n`, the first one after the last (R496); 0xFF when
none is. -/
def State.nextPort (s : State) (w n : Nat) : Nat :=
  let ports := s.portsUp (s.num (0x5600 + w) 6)
  (ports.find? fun m => decide (n < m)).getD (ports.headD 0xFF)

/-- FILL_READ_TIMEOUT: a read of a T2 page has had no completion for 1 ms; it is sent again once through the next port in
service, then the fill has failed (R496). -/
def execFillReadTimeout (window : BitVec 6) (page : BitVec 52) (s : State) : Host.Outcome State Fault Refusal :=
  .next (let w := window.toNat
    let k := page.toNat
    match s.fills.find? fun f => f.window == w && f.page == k && f.data.isNone with
    | none => s
    | some f =>
      if s.num (0x5600 + w) 1 ≠ 1 then s
      else if f.resent then s.fillFailed f
      else
        let n := s.nextPort w f.port
        let s := { s with fills := s.fills.map fun g => if g = f then { g with resent := true, port := n } else g }
        s.farFetch w k n)

/-- TIER_GENERATION_WRITE (R329). -/
def execTierGenerationWrite (path : Path) (window : BitVec 6) (value : BitVec 16) (s : State) :
    Host.Outcome State Fault Refusal :=
  .next (s.writeDo path (0x5600 + window.toNat) 4 value.toNat fun s => s.writeGeneration window.toNat value.toNat)

/-! ### Export rings -/

/-- The X-die by which bytes at window offset `o` of an export window leave (R331, Table 15-1). -/
def State.drainDie (s : State) (w o : Nat) : Nat :=
  let obj := 0x5700 + w
  if s.num obj 1 = 2 then xDie 0 else xDie (s.pagePort obj (s.num obj 0xA) (o / 4096) / 2)

/-- `n` bytes of a memory image, from address `b` on, sent to the far target of an export window at its offset `o`, cut at its 4 KiB
pages (R323, R331): bytes to host memory, words with their check bits over the fabric (R103). -/
def State.sendFar (s : State) (w : Nat) (img : Ram) : Nat → Nat → Nat → Nat → State
  | 0, _, _, _ => s
  | fuel + 1, b, o, n =>
    if n = 0 then s
    else
      let m := min n (4096 - o % 4096)
      let obj := 0x5700 + w
      let far := s.num obj 2
      let k := o / 4096
      let s := if s.num obj 1 = 2 then s.emit (.hostWrite (far + o) (img.fetch b m).bytes)
        else
          let ts := windowTargets (s.blob obj 5)
          let c := max ts.length 1
          let page := Ram.copy img .empty b (o % 4096) m
          s.emit (.farWrite (s.pagePort obj (s.num obj 0xA) k) (ts.getD (k % c) 0) (far + 4096 * (k / c) + o % 4096) m
            ((wordsOf (o % 4096) m).map page.codeWord))
      State.sendFar s w img fuel (b + m) (o + m) (n - m)

/-- `n` bytes of the ring from a position, wrapping, as an image from address `pos % 8` on. Over P0 they leave as bytes, so its die
checks them there: an uncorrectable word among them is a data fault of the drain (R104). -/
def State.readRing (s : State) (w o pos n : Nat) : State × Ram :=
  let size := max (s.ringSize w) 1
  let k := min n (size - pos)
  let die := s.drainDie w o
  let at_ := s.ringBase w
  let (s, a) := s.meshRead die (at_ + pos) k
  let (s, b) := s.meshRead die at_ (n - k)
  let img := Ram.copy b (Ram.copy a .empty 0 (pos % 8) k) 0 (pos % 8 + k) (n - k)
  if s.num (0x5700 + w) 1 ≠ 2 then (s, img)
  else
    let f := img.fetch (pos % 8) n
    let s := (s.count 0x8040 (die + 1) f.ce.length).count 0x8041 (die + 1) f.ue.length
    (s.forEach f.ue fun s i =>
      s.raise (.of 0x01 s.conductorUnit (at_ + (pos / 8 * 8 + 8 * i) % size)), img)

/-- Up to `n` staged bytes drained in write order. -/
def State.drain (s : State) (w : Nat) : Nat → Nat → State
  | 0, _ => s
  | fuel + 1, n =>
    let e := s.exportW w
    match e.staged with
    | [] => s
    | r :: rest =>
      let k := min n r.len
      if k = 0 then s
      else
        let (s, img) := s.readRing w r.offset r.ringPos k
        let s := s.sendFar w img (k / 4096 + 2) (r.ringPos % 8) r.offset k
        let e := s.exportW w
        let left := if k = r.len then rest
          else { r with offset := r.offset + k, ringPos := (r.ringPos + k) % max (s.ringSize w) 1, len := r.len - k } :: rest
        State.drain (s.setExport w { e with staged := left, sent := e.sent + k, owed := e.owed ++ [(r.part, k)] }) w fuel (n - k)

/-- EXPORT_DRAIN: the device drains staged bytes to the far target in write order (R331). -/
def execExportDrain (window : BitVec 6) (bytes : Nat) (s : State) : Host.Outcome State Fault Refusal :=
  .next (let w := window.toNat
    if s.num (0x5700 + w) 1 = 0 then s else s.drain w ((s.exportW w).staged.length + 1) bytes)

/-- `n` acknowledged bytes credited to the partitions that wrote them. -/
def creditOwed : Nat → List (Nat × Nat) → List (Nat × Nat) × List (Nat × Nat)
  | _, [] => ([], [])
  | n, (p, k) :: t =>
    if n = 0 then ([], (p, k) :: t)
    else if n < k then ([(p, n)], (p, k - n) :: t)
    else let r := creditOwed (n - k) t; ((p, k) :: r.1, r.2)

/-- EXPORT_DRAIN_ACK: the far target acknowledges bytes and `drained` advances (R331). -/
def execExportDrainAck (window : BitVec 6) (bytes : Nat) (s : State) : Host.Outcome State Fault Refusal :=
  .next (let w := window.toNat
    let e := s.exportW w
    let n := min bytes (e.sent - e.acked)
    let (paid, owed) := creditOwed n e.owed
    let s := (s.setExport w { e with acked := e.acked + n, owed := owed }).setNum (0x5700 + w) 6 (e.acked + n)
    s.forEach paid fun s x => s.count (0x8010 + x.1) 5 x.2)

/-- The seal block as the device completes it: the digest table after the header, the digest of the directory of section_count
entries, its own (R417, R421, Table 12-5). -/
def Export.sealed (e : Export) (blk : List Byte) : List Byte :=
  let b := patch blk 0x100 e.negDigests
  let b := patch b 0x30 (sha256 (e.negDir.take (32 * leAt blk 6 2)))
  let b := patch b 0x50 (List.replicate 32 0)
  patch b 0x50 (sha256 b)

/-- NEGATIVE_SEAL: with every byte written before the sealing ST acknowledged, the seal block goes to the far target and
the part is sealed (R421). -/
def execNegativeSeal (window : BitVec 6) (s : State) : Host.Outcome State Fault Refusal :=
  .next (let w := window.toNat
    let e := s.exportW w
    match e.sealBlock with
    | none => s
    | some blk =>
      if e.acked < e.sealAt ∨ s.num (0x5700 + w) 8 ≠ 1 then s
      else
        let blk := e.sealed blk
        let s := s.sendFar w (Ram.empty.writeRaw 0 blk) 4 0 0 blk.length
        (s.setExport w { e with sealBlock := none, negDir := [], negIdx := 0, negBuf := [], negDigests := [] }).setNum
          (0x5700 + w) 8 2)

end Sys2Proof.Machine
end

