-- ==== Sys2Proof/Machine/HostPort.lean ====
section
/-! DEFINITION. The host port P0: link, watched lines and step requests (13 R425 to R430, 15 R476, R485 to R488), HDM
decoders and host memory (15 R481 to R484), clients (13 R425), port identifiers (15 R490). -/

namespace Sys2Proof.Machine

/-! ### Watched lines -/

/-- WATCH_SNOOP: a host snoop invalidates a watched line in host memory; the device answers and reads it again (R485). -/
def execWatchSnoop (addr : BitVec 64) (s : State) : Host.Outcome State Fault Refusal :=
  .next (let a := addr.toNat / 64 * 64
    let ws := s.watchersOf false a 64
    if !s.p0Open || ws.isEmpty then s
    else (s.emit (.p0 "SnpResp" a [])).forEach ws State.learn)

/-! ### HDM decoders -/

/-- The decoder of a number; none of another. -/
def State.decoder (s : State) : Nat → Option Decoder
  | 0 => some s.host.dec0
  | 1 => some s.host.dec1
  | _ => none

def State.setDecoder (s : State) (n : Nat) (d : Decoder) : State :=
  { s with host := if n = 0 then { s.host with dec0 := d } else { s.host with dec1 := d } }

/-- The bytes of the range a decoder maps: the argument pools, the lent range (R481, R482). -/
def State.decoderSize (s : State) (n : Nat) : Nat :=
  if n = 0 then s.sumOver s.wantedParts 0x5200 6 * 2 ^ 30 else s.num 0x5900 1 * 2 ^ 30

/-- The device address of host offset `h` of a decoder (R482, R336). -/
def State.hostAddress (s : State) (n h : Nat) : Option Nat :=
  if n = 0 then
    (s.wantedParts.find? fun p =>
      decide (s.num 0x6010 (p + 1) ≤ h) && decide (h < s.num 0x6010 (p + 1) + s.num (0x5200 + p) 6 * 2 ^ 30)).map fun p =>
        s.poolBase p + (h - s.num 0x6010 (p + 1))
  else some (s.num 0x5900 3 + h)

/-- The pieces of a host access, one per granule: device address, host offset, length; none when no committed decoder
takes the whole of it (R481). -/
def State.hostPieces (s : State) (n a len : Nat) : Option (List (Nat × Nat × Nat)) :=
  match s.decoder n with
  | none => none
  | some d =>
    if !s.p0Open || !s.host.flit256 || !d.committed || decide (a < d.base) || decide (d.base + d.size < a + len) then none
    else (granulesOf (a - d.base) len).mapM fun e => (s.hostAddress n e.1).map fun x => (x, e.1, e.2)

/-- HDM_COMMIT: a decoder is committed, or left with its error bit set and a fabric fault (R481, R523). -/
def execHdmCommit (dec : BitVec 4) (base size : BitVec 64) (ways : BitVec 4) (s : State) : Host.Outcome State Fault Refusal :=
  .next (let n := dec.toNat
    match s.decoder n with
    | none => s
    | some d =>
      let refuse := fun (code : Nat) =>
        (s.setDecoder n { d with committed := false, error := true }).raise
          { Event.of 0x0C s.conductorUnit 0 with reason := code }
      if s.num 0x2000 1 ≠ 1 ∨ s.num 0x2000 2 = 4 then refuse 0x0A05
      else if ways ≠ 1 ∨ size.toNat ≠ s.decoderSize n ∨ size = 0 ∨ !s.host.flit256 then refuse 0x0A02
      else s.setDecoder n ⟨true, false, base.toNat, size.toNat⟩)

/-- HDM_DECOMMIT: the host decommits a decoder (R527). -/
def execHdmDecommit (dec : BitVec 4) (s : State) : Host.Outcome State Fault Refusal :=
  .next (let n := dec.toNat
    match s.decoder n with
    | none => s
    | some _ => s.setDecoder n .idle)

/-- A range that P0's CDAT table describes: its first host offset's device address, its size, and where stated its read latency in ns
and its bandwidth in granules per µs (R498). -/
structure CdatRange where
  base : Nat
  size : Nat
  latency : Option Nat
  bandwidth : Option Nat
deriving DecidableEq, Repr

/-- The CDAT table of P0: the ranges of both decoders (R498). -/
def State.cdat (s : State) : List CdatRange :=
  [⟨(s.hostAddress 0 0).getD 0, s.decoderSize 0, some 2300, some (24 * s.num 0x5900 2)⟩,
   ⟨s.num 0x5900 3, s.decoderSize 1, none, none⟩]

/-- The address under which the module answers on its I3C bus (R504). -/
def State.i3cAddress (s : State) : Nat := s.host.i3c.getD (Config.i3cStatic s.power.mid).toNat

/-- A host write of granule pieces: the bytes stored, the watchers of a line of them told (R486). -/
def State.hostStore (s : State) (ps : List (Nat × Nat × Nat)) (d : List Byte) : State :=
  (ps.foldl (fun (acc : State × List Byte) e =>
    let s := acc.1.storeBytes (xDie 0) e.1 (acc.2.take e.2.2)
    (s.forEach (s.watchersOf true e.1 e.2.2) State.learn, acc.2.drop e.2.2)) (s, d)).1

/-- HOST_MEM_WRITE: a host write through an HDM decoder (R337). -/
def execHostMemWrite (dec : BitVec 4) (addr : BitVec 64) (data : List Byte) (s : State) : Host.Outcome State Fault Refusal :=
  .next (match s.hostPieces dec.toNat addr.toNat data.length with
    | none => s
    | some ps => s.hostStore ps data)

/-- One piece of a host read: an uncorrectable word reads as all ones, with its event naming the host offset and its
General Media Event record (R338, R484). -/
def State.hostLoad (s : State) (e : Nat × Nat × Nat) : State × List Byte :=
  let (s, f) := s.loadBytes (xDie 0) e.1 e.2.2
  let mark := fun (b : List Byte) (w : Nat) => patch b (8 * w) (List.replicate (min 8 (e.2.2 - 8 * w)) 0xFF)
  let s := s.forEach f.ue fun s w =>
    let s := s.raise { Event.of 0x01 s.conductorUnit (e.2.1 / 8 * 8 + 8 * w) with hostOffset := true }
    { s with host := { s.host with mediaEvents := s.host.mediaEvents ++ [e.1 / 8 * 8 + 8 * w] } }
  (s, f.ue.foldl mark f.bytes)

/-- HOST_MEM_READ: a host read through an HDM decoder, whole 8-byte words at a time (R337, R484). -/
def execHostMemRead (dec : BitVec 4) (addr : BitVec 64) (len : Nat) (s : State) : Host.Outcome State Fault Refusal :=
  .next (let a := addr.toNat / 8 * 8
    let n := (addr.toNat + len + 7) / 8 * 8 - a
    match s.hostPieces dec.toNat a n with
    | none => s
    | some ps =>
      let r := ps.foldl (fun (acc : State × List Byte) e =>
        let (s, d) := acc.1.hostLoad e
        (s, acc.2 ++ d)) (s, ([] : List Byte))
      r.1.emit (.p0 "MemData" addr.toNat ((r.2.drop (addr.toNat - a)).take len)))

/-- WATCH_WRITEBACK: the host writes back a watched line of an argument pool (R486). -/
def execWatchWriteback (addr : BitVec 64) (data : List Byte) (s : State) : Host.Outcome State Fault Refusal :=
  .next (match s.hostPieces 0 addr.toNat data.length with
    | none => s
    | some ps => s.hostStore ps data)

/-- The watchers of a line of an argument pool by its host address. -/
def State.poolWatchers (s : State) (a : Nat) : List Nat :=
  match s.hostPieces 0 a 64 with
  | none => []
  | some ps => ps.flatMap fun e => s.watchersOf true e.1 e.2.2

/-- BI_PULL_TIMER: `bi_pull_delay` after the host took ownership of a watched line without writing it back, the device
issues BISnpData (R486). -/
def execBiPullTimer (addr : BitVec 64) (s : State) : Host.Outcome State Fault Refusal :=
  .next (let a := addr.toNat / 64 * 64
    let ws := s.poolWatchers a
    if ws.isEmpty then s
    else (s.emit (.p0 "BISnpData" a [])).forEach ws fun s w => s.setWatch w { s.watch w with snooped := true })

/-- BISNP_RESPONSE: the response to a BISnpData returns the line, whose data the stacks take; its entry is read (R486). -/
def execBisnpResponse (addr : BitVec 64) (data : List Byte) (s : State) : Host.Outcome State Fault Refusal :=
  .next (let a := addr.toNat / 64 * 64
    let ws := (s.poolWatchers a).filter fun w => (s.watch w).snooped
    if ws.isEmpty then s
    else
      let s := match s.hostPieces 0 a (min data.length 64) with
        | some ps => s.hostStore ps (data.take 64)
        | none => s
      s.forEach ws fun s w => if (s.watch w).snooped then s.learn w else s)

/-! ### Step requests -/

/-- An argument binding of 16 bytes (Table 13-3). -/
def argOf (b : List Byte) : Arg :=
  ⟨(leAt b 0xE 1).testBit 0, leAt b 0 8, leAt b 8 4, leAt b 0xC 2⟩

/-- A binding's reserved bits are zero. -/
def argClean (b : List Byte) : Bool := decide (leAt b 0xE 1 < 2) && leAt b 0xF 1 == 0

/-- A step request from its entry and its arg_block's bytes (Table 13-2); `ok` when the block lies in the pool. -/
def requestOf (n now : Nat) (e blk : List Byte) (ok : Bool) : Request :=
  let cnt := leAt e 0x30 1
  let binds := chunksOf 16 4 (slice e 0x40 64) ++ chunksOf 16 12 blk
  { client := n, seq := leAt e 0 4, epoch := leAt e 4 2, slot := leAt e 6 1, flags := leAt e 7 1 % 16
    deadline := leAt e 8 8, size := (List.range 4).map fun k => leAt e (0x10 + 4 * k) 4, tag := leAt e 0x20 8
    args := binds.map argOf, taken := now
    malformed := decide (16 ≤ leAt e 7 1) || decide (12 < cnt) || !zeroAt e 0x31 15 || !ok || !binds.all argClean }

/-- A data fault of a request's entry or arg_block: it names the partition and no step (R658). -/
def State.requestFault (s : State) (n a : Nat) : State :=
  s.raise { Event.of 0x01 s.conductorUnit a with part := some (s.num (clientObj n) 2) }

/-- A request of client `n` enters admission; its arg_block is read once (R430). -/
def State.takeRequest (s : State) (n : Nat) (e : List Byte) : State :=
  let p := s.num (clientObj n) 2
  let s := s.takeSlot15
  let blk := leAt e 0x28 8
  let cnt := leAt e 0x30 1
  if cnt = 0 ∨ 12 < cnt then s.enterRequest (requestOf n s.now e [] true)
  else if !s.inPool p blk (16 * cnt) || decide (blk % 16 ≠ 0) then s.enterRequest (requestOf n s.now e [] false)
  else
    let (s, f) := s.loadBytes s.officeDie blk (16 * cnt)
    match f.ue with
    | [] => s.enterRequest (requestOf n s.now e f.bytes true)
    | w :: _ => (s.requestFault n (blk / 8 * 8 + 8 * w)).refuseRequest (requestOf n s.now e [] true) 3 0

/-- The entry of client `n` as the device reads it: from the argument pool, or as host memory answered; the bytes, and
the first uncorrectable word. Fewer than 128 bytes from the host end at a word completed with poison or an error. -/
def State.clientEntry (s : State) (n : Nat) (given : List Byte) : State × List Byte × Option Nat :=
  if s.watchesPool n then
    let (s, f) := s.loadBytes s.officeDie (s.entryAddr n) 128
    (s, f.bytes, f.ue.head?)
  else (s, slice given 0 128, if given.length < 128 then some (given.length / 8) else none)

/-- STEP_REQUEST_TAKE: the read of a watched entry completes; an entry whose step_seq is next_seq is taken (R427, R658). -/
def execStepRequestTake (n : BitVec 12) (entry : List Byte) (s : State) : Host.Outcome State Fault Refusal :=
  .next (let n := n.toNat
    let o := clientObj n
    if !(s.client n).watching || s.num 0x2000 2 ≠ 2 || !(s.watchesPool n || s.p0Open) then s
    else
      let a := s.entryAddr n
      let (s, e, bad) := s.clientEntry n entry
      let s := match bad with | some w => s.requestFault n (a + 8 * w) | none => s
      if bad = some 0 ∨ leAt e 0 4 ≠ s.num o 7 then s.entryRead n e
      else
        let s := (s.setNum o 7 ((s.num o 7 + 1) % 2 ^ 32)).readEntry n
        match bad with
        | some _ => s.refuseRequest (requestOf n s.now e [] true) 3 0
        | none => s.takeRequest n e)

/-! ### Clients -/

/-- True when a number is a power of two from `lo` to `hi`. -/
def pow2In (n lo hi : Nat) : Bool := decide (lo ≤ n) && decide (n ≤ hi) && (List.range 13).any fun k => n == 2 ^ k

/-- Vectors that P0 exposes (Table 15-2). -/
def msixVectors : Nat := 2048

/-- The first condition of the client check that fails (R425, R476): its code and the object blamed (R525). -/
def State.clientCheck (s : State) (n : Nat) : Option (Nat × Nat × Nat) :=
  let o := clientObj n
  let p := s.num o 2
  if s.num 0x2000 2 ≠ 2 ∨ s.num (0x2100 + p) 3 ≠ 1 then some (0x0426, o, 2)
  else if !pow2In (s.num o 5) 1 256 then some (0x0426, o, 5)
  else if !pow2In (s.num o 9) 16 4096 then some (0x0426, o, 9)
  else if s.num o 4 % 4096 ≠ 0 then some (0x0426, o, 4)
  else if s.num o 8 % 4096 ≠ 0 then some (0x0426, o, 8)
  else if s.num o 3 = 1 ∧ !s.inPool p (s.num o 4) (128 * s.num o 5) then some (0x0426, 0x5200 + p, 3)
  else if msixVectors ≤ s.num o 0x0B then some (0x0426, o, 0x0B)
  else if s.num o 3 = 1 ∧ s.p0Up ∧ !s.host.flit256 then some (0x0A01, o, 3)
  else none

/-- A write of 1 to client_enable: the client check, then watching from first_seq (R425). -/
def State.enableClient (s : State) (n : Nat) : State × Nat :=
  let o := clientObj n
  if s.num o 1 = 1 then (s, 0)
  else match s.clientCheck n with
  | some (code, b, sub) => (s.blame code b sub, code)
  | none =>
    let s := (s.setNum o 1 1).setNum o 7 (s.num o 6)
    ((s.modClient n fun c => { c with watching := true }).readEntry n, 0)

/-- CLIENT_ENABLE (R425). -/
def execClientEnable (path : Path) (n : BitVec 12) (s : State) : Host.Outcome State Fault Refusal :=
  .next (s.writeVia path (clientObj n.toNat) 1 1 fun s => s.enableClient n.toNat)

/-- Watching stops; requests of the client held for fills are refused (Table 13-8). -/
def State.disableClient (s : State) (n : Nat) : State :=
  let p := s.num (clientObj n) 2
  let held := (s.part p).held.filter fun q => q.client == n
  let s := (s.setNum (clientObj n) 1 0).modClient n fun c => { c with watching := false }
  let s := s.setWatch n .idle
  let s := s.modPart p fun t => { t with held := t.held.filter fun q => q.client != n }
  s.forEach held fun s q => s.refuseRequest q 1 0x0426

/-- CLIENT_DISABLE (R425). -/
def execClientDisable (path : Path) (n : BitVec 12) (s : State) : Host.Outcome State Fault Refusal :=
  .next (s.writeDo path (clientObj n.toNat) 1 0 fun s => s.disableClient n.toNat)

/-! ### Stalls, link, identifiers -/

/-- HOST_STALL_BEGIN: a breach for every enabled partition with an accepted, unfinished step, one in its epilogue among them
(R488, Tables 3-8 and 3-9). -/
def execHostStallBegin (s : State) : Host.Outcome State Fault Refusal :=
  .next (if s.stalled then s
    else
      let s := { s with stalled := true, host := { s.host with stallTold := [] } }
      let ends := fun (p : Nat) => (s.clientsOf p).any s.inEpilogue
      s.forEach (s.enabledParts.filter fun p => !(s.part p).steps.isEmpty || ends p) fun s p =>
        s.breach7 p 3 s.conductorUnit 0)

/-- HOST_STALL_END: every overdue request has completed (R488). -/
def execHostStallEnd (s : State) : Host.Outcome State Fault Refusal :=
  .next { s with stalled := false }

/-- True when P0 supports a rate, width and flit mode (Table 15-1, R475). -/
def p0Mode (rate width : Nat) (flit256 : Bool) : Bool :=
  (if flit256 then rate == 64 else rate == 8 || rate == 16 || rate == 32) && (width == 4 || width == 8 || width == 16)

/-- P0 up at a rate and width: every watched line is read again (R476, Table 15-8). -/
def State.p0Train (s : State) (rate width : Nat) (flit256 : Bool) : State :=
  let s := ((s.setNum 0x6000 1 1).setNum 0x6000 2 rate).setNum 0x6000 3 width
  let s := { s with host := { s.host with flit256 := flit256 } }
  let s := if flit256 then s else (s.setDecoder 0 .idle).setDecoder 1 .idle
  s.forEach s.watchers State.readEntry

/-- P0_LINK_UP (R476). -/
def execP0LinkUp (rate width : BitVec 8) (flit256 : Bool) (s : State) : Host.Outcome State Fault Refusal :=
  .next (if (s.power.phase = .bringUp ∨ s.power.phase = .running) ∧ !s.power.perst ∧ p0Mode rate.toNat width.toNat flit256
    then s.p0Train rate.toNat width.toNat flit256 else s)

/-- P0_LINK_DOWN: the link goes down; requests waiting on P0 count toward a stall (R488, Table 15-8). -/
def execP0LinkDown (s : State) : Host.Outcome State Fault Refusal := .next (s.p0Drop 0)

/-- PID_ASSIGN: the fabric manager assigns a fabric port's identifier (R490). -/
def execPidAssign (port : BitVec 3) (pid : BitVec 12) (s : State) : Host.Outcome State Fault Refusal :=
  .next (if port = 0 then s else s.setNum (0x6000 + port.toNat) 4 pid.toNat)

end Sys2Proof.Machine
end

