-- ==== Sys2Proof/Machine/Pixel.lean ====
section
/-! DEFINITION. Pictures of the codec (14_video_codec.md): descriptors and layouts (Tables 14-4, 14-5), reading samples,
the pixel pipe (R461), writes checked against their buffers (R454). -/

namespace Sys2Proof.Machine

/-- A picture descriptor (Table 14-4) by its fields. -/
structure PicDesc where
  planes : List Nat
  pitch : Nat
  width : Nat
  height : Nat
  layout : Nat
  lens : List Nat
deriving DecidableEq, Repr

/-- The descriptor in 48 bytes. -/
def picDesc (b : List Byte) : PicDesc :=
  ⟨[leAt b 0 8, leAt b 8 8, leAt b 0x10 8], leAt b 0x18 4, leAt b 0x1C 2, leAt b 0x1E 2, leAt b 0x20 1,
    [leAt b 0x24 4, leAt b 0x28 4, leAt b 0x2C 4]⟩

/-- Planes a layout uses. -/
def layoutPlanes (l : Nat) : Nat := match l with | 0 | 1 => 2 | 2 | 3 => 1 | _ => 3

/-- Bytes of a sample container, and the bit depth of layouts 0 to 3 (Table 14-5). -/
def sampleBytes (l : Nat) : Nat := match l with | 0 | 2 => 1 | _ => 2
def sampleDepth (l : Nat) : Nat := match l with | 0 | 2 => 8 | _ => 10

/-- Rows of plane `k`; every plane holds `width` containers in a row (Table 14-5). -/
def PicDesc.rows (d : PicDesc) (k : Nat) : Nat := if k = 1 ∧ d.layout < 2 then d.height / 2 else d.height
def PicDesc.rowBytes (d : PicDesc) : Nat := d.width * sampleBytes d.layout

/-- Granules of a picture in its layout (R472). -/
def PicDesc.granules (d : PicDesc) : Nat :=
  ((List.range (layoutPlanes d.layout)).map fun k => ceilDiv (d.pitch * d.rows k) 256).sum

/-- True when the fields of a descriptor are in their ranges (Table 14-4). -/
def PicDesc.ok (d : PicDesc) (layouts : List Nat) : Bool :=
  let p := fun k => d.planes.getD k 0
  layouts.contains d.layout && p 0 % 256 == 0 && d.pitch % 256 == 0 &&
    decide (16 ≤ d.width) && decide (d.width ≤ 8192) && d.width % 2 == 0 &&
    decide (16 ≤ d.height) && decide (d.height ≤ 4352) && d.height % 2 == 0 &&
    (layoutPlanes d.layout != 1 || p 1 == 0) && (layoutPlanes d.layout == 3 || p 2 == 0)

/-! ### Memory of the channel's partition -/

/-- True when device address `a` lies in the kind-1, kind-2 or argument-pool memory of a partition (R453). -/
def State.jobMemory (s : State) (p a : Nat) : Bool := s.inPool p a 1 || s.inRegions p [1, 2] a 1

/-- True when a range lies in a partition's memory: its spread share, a placed band it owns (R292, R454). -/
def State.ownMemory (s : State) (p a n : Nat) : Bool :=
  (decide (s.num (0x5200 + p) 8 ≤ a) && decide (a + n ≤ s.num (0x5200 + p) 8 + s.num (0x5200 + p) 3 * 2 ^ 30)) ||
    (setBits 24 (s.num (0x5200 + p) 4)).any fun k =>
      decide (placedBase k ≤ a) && decide (a + n ≤ placedBase k + s.placedBand * 2 ^ 30)

/-- The bytes of `n` from `a` that a write may store: within its buffer and the partition's memory. -/
def State.writable (s : State) (p a n hi : Nat) : Nat :=
  let k := min n (hi - a)
  if s.ownMemory p a k then k else ((List.range k).filter fun i => s.ownMemory p (a + i) 1).length

/-- `n` bytes moved by a codec channel of partition `p` (Table 19-1, codec_bytes). -/
def State.codecMoved (s : State) (p n : Nat) : State := s.count (0x8010 + p) 8 n

/-- Bytes of a codec write stored from `a` by S-die `d`, those beyond the buffer's end `hi` dropped; the number dropped
(R454). -/
def State.codecStore (s : State) (p d a : Nat) (b : List Byte) (hi : Nat) : State × Nat :=
  let k := s.writable p a b.length hi
  ((s.meshWrite (sDie d) (Ram.empty.writeRaw 0 (b.take k)) 0 a k).codecMoved p k, b.length - k)

/-- Rows of plane `k` of a picture stored, `row i` giving pieces of row i by their place in it; the bytes dropped. -/
def State.storePlane (s : State) (p d k : Nat) (t : PicDesc) (row : Nat → List (Nat × List Byte)) : State × Nat :=
  let base := t.planes.getD k 0
  (List.range (t.rows k)).foldl (fun (acc : State × Nat) i =>
    (row i).foldl (fun (acc : State × Nat) e =>
      let (s, n) := acc.1.codecStore p d (base + t.pitch * i + e.1) e.2 (base + t.lens.getD k 0)
      (s, acc.2 + n)) acc) (s, 0)

/-! ### Samples -/

/-- A codec read of `n` bytes by S-die `d` for partition `p`, its words checked and counted there (R104, R470). -/
def State.codecLoad (s : State) (p d a n : Nat) : State × Fetched :=
  let (s, img) := (s.codecMoved p n).meshRead (sDie d) a n
  let f := img.fetch 0 n
  ((s.count 0x8040 (sDie d + 1) f.ce.length).count 0x8041 (sDie d + 1) f.ue.length, f)

/-- The addresses of the uncorrectable words of a read at `a`. -/
def Fetched.badAt (f : Fetched) (a : Nat) : List Nat := f.ue.map fun w => a / 8 * 8 + 8 * w

/-- The rows of plane `k` read by S-die `d` for partition `p`: the bytes, and the addresses of the uncorrectable words. -/
def State.loadPlane (s : State) (p d k : Nat) (t : PicDesc) : State × List (List Byte) × List Nat :=
  let base := t.planes.getD k 0
  (List.range (t.rows k)).foldl (fun (acc : State × List (List Byte) × List Nat) i =>
    let a := base + t.pitch * i
    let (s, f) := acc.1.codecLoad p d a t.rowBytes
    (s, acc.2.1 ++ [f.bytes], acc.2.2 ++ f.badAt a)) (s, [], [])

/-- The container values of a row. -/
def rowSamples (l : Nat) (b : List Byte) : List Nat :=
  let k := sampleBytes l
  (chunksOf k (b.length / k) b).map fun e => if l = 1 ∨ l = 3 then leNat e / 64 else leNat e

/-- A plane of samples. -/
structure Plane where
  w : Nat
  h : Nat
  at_ : List Nat
deriving DecidableEq, Repr

def Plane.get (q : Plane) (x y : Nat) : Nat := q.at_.getD (y * q.w + x) 0

/-- A plane whose sample at column x, row y is `f x y`. -/
def planeOf (w h : Nat) (f : Nat → Nat → Nat) : Plane :=
  ⟨w, h, (List.range h).flatMap fun y => (List.range w).map fun x => f x y⟩

/-- Mirror left-right, then top-bottom (R461 step 2). -/
def Plane.mirror (q : Plane) (lr tb : Bool) : Plane :=
  planeOf q.w q.h fun x y => q.get (if lr then q.w - 1 - x else x) (if tb then q.h - 1 - y else y)

/-- Rotation by 90 degrees clockwise (R461 step 3). -/
def Plane.turn (q : Plane) : Plane := planeOf q.h q.w fun x y => q.get y (q.h - 1 - x)

/-- `n` quarter turns. -/
def Plane.rotate (q : Plane) : Nat → Plane
  | 0 => q
  | n + 1 => (q.rotate n).turn

/-- Tap `k` of a phase of the enlarger (R656): a 16-bit number, little-endian. -/
def enlargerTapAt (chroma : Bool) (phase k : Nat) : Int :=
  let i := 2 * (if chroma then 512 + 4 * phase + k else 8 * phase + k)
  signed 16 ((Config.enlargerTap i).toNat + 256 * (Config.enlargerTap (i + 1)).toNat)

/-- `x / d` rounded to nearest, ties to even (R71). -/
def rneDiv (x : Int) (d : Nat) : Int :=
  let q := x / d
  let r := 2 * (x % d)
  if (d : Int) < r ∨ (r = d ∧ q % 2 = 1) then q + 1 else q

/-- One axis scaled to `m` samples: sums of 8 taps for luma and 4 for chroma, edge samples replicated, in 16,384ths (R461 step 4, R656);
unchanged at its own length. -/
def scaleAxis (chroma : Bool) (m : Nat) (l : List Int) : List Int :=
  let n := l.length
  if n = m then l.map (· * 16384)
  else (List.range m).map fun x =>
    let first := Config.scaleFrom chroma n m x
    let phase := (Config.scalePhase chroma n m x).val
    let at_ := fun (k : Nat) => l.getD (min (n - 1) (first + k).toNat) 0
    ((List.range (if chroma then 4 else 8)).map fun k => enlargerTapAt chroma phase k * at_ k).sum

/-- A value in `d`ths of a step as a sample of a bit depth: rounded (R71) and clamped to the depth's range. -/
def toSample (depth d : Nat) (v : Int) : Nat := min (2 ^ depth - 1) (rneDiv v d).toNat

/-- Every row of `h` rows of `w` values scaled to `m`, by `f`; and every column of rows of `w` values. -/
def eachRow (w h : Nat) (f : List Int → List Int) (l : List Int) : List Int := (chunksOf w h l).flatMap f
def flipGrid (w h : Nat) (l : List Int) : List Int := (List.range w).flatMap fun x => (List.range h).map fun y => l.getD (y * w + x) 0
def eachColumn (w h m : Nat) (f : List Int → List Int) (l : List Int) : List Int :=
  flipGrid m w (eachRow h w f (flipGrid w h l))

/-- A plane scaled to a width and height, one axis after the other (R461 step 4; log entry 215). -/
def Plane.scale (q : Plane) (chroma : Bool) (depth w h : Nat) : Plane :=
  let l : List Int := q.at_.map Int.ofNat
  let mid := fun (v : List Int) => if Config.scaleRoundsEach then v.map fun x => (toSample depth 16384 x : Int) * 16384 else v
  let sums := if Config.scaleRowsFirst then
      eachColumn w q.h h (scaleAxis chroma h) (mid (eachRow q.w q.h (scaleAxis chroma w) l))
    else eachRow q.w h (scaleAxis chroma w) (mid (eachColumn q.w q.h h (scaleAxis chroma h) l))
  ⟨w, h, sums.map (toSample depth (2 ^ 28))⟩

/-- A sample brought from one bit depth to another (R461 step 5): a left shift of 2, or rounding to nearest, ties to even (R71). -/
def depthTo (from_ to_ v : Nat) : Nat :=
  if from_ < to_ then v * 4 else if to_ < from_ then min 255 (rneShift v 2) else v

/-- A colour value clamped to 0.0 to 1.0, NaN to 0.0, as an FP32 encoding (R461 step 1). -/
def clampUnit (bf : Bool) (n : Nat) : Nat :=
  let v := elemVal (if bf then 0x2 else 0x3) n
  if v.isNan || v.neg then f32zero else toF32 (v.min (fInt 1))

/-- A finite FP32 encoding that is not negative, in units of 2^-149. -/
def f32Units (n : Nat) : Nat := let e := n / 2 ^ 23; if e = 0 then n else (2 ^ 23 + n % 2 ^ 23) * 2 ^ (e - 1)

/-- The weights of R' and B' of a matrix in ten-thousandths: BT.709, BT.2020 (PRESUMED: log entry 232). -/
def matrixWeights (matrix : Nat) : Nat × Nat := if matrix = 0 then (2126, 722) else (2627, 593)

/-- Ten thousand times the luma of R'G'B' values in the same unit. -/
def lumaSum (matrix r g b : Nat) : Nat :=
  let (kr, kb) := matrixWeights matrix
  kr * r + (10000 - kr - kb) * g + kb * b

/-- A luma sample in narrow range (R461 step 1): 16 to 235 at 8 bits, exact but for the pipe's precision. -/
def lumaOf (matrix depth r g b : Nat) : Nat :=
  let y := lumaSum matrix (f32Units r) (f32Units g) (f32Units b)
  let exact := rneDiv (2 ^ (depth - 8) * (219 * (y : Int) + 16 * (10000 * 2 ^ 149))) (10000 * 2 ^ 149)
  let v := exact + (Config.lumaDev matrix depth r g b).val - 1
  (max (16 * 2 ^ (depth - 8)) (min (235 * 2 ^ (depth - 8)) v)).toNat

/-- A chroma value at one luma site, Cb (0) or Cr (1), in narrow range and in 65,536ths of a step (R461 step 1): 16 to 240 at 8 bits,
exact but for the pipe's precision. -/
def chromaSite (matrix depth c r g b : Nat) : Nat :=
  let (kr, kb) := matrixWeights matrix
  let (k, x) := if c = 0 then (kb, f32Units b) else (kr, f32Units r)
  let y := lumaSum matrix (f32Units r) (f32Units g) (f32Units b)
  let d := 2 * (10000 - k)
  let step := 65536 * 2 ^ (depth - 8)
  let exact := rneDiv (step * (224 * (10000 * (x : Int) - y) + 128 * (d * 2 ^ 149))) (d * 2 ^ 149)
  let v := exact + (Config.chromaDev matrix depth c r g b).val - 65536
  (max (16 * step) (min (240 * step) v)).toNat

/-- The planes of a source picture as luma, Cb and Cr at a bit depth (R461 step 1). -/
def sourcePlanes (t : PicDesc) (matrix depth : Nat) (rows : List (List (List Nat))) : List Plane :=
  let flat := fun k => (rows.getD k []).flatten
  let w := t.width
  let h := t.height
  if t.layout < 2 then
    let c := flat 1
    let pick := fun (o : Nat) => planeOf (w / 2) (h / 2) fun x y => c.getD (y * w + 2 * x + o) 0
    [⟨w, h, flat 0⟩, pick 0, pick 1]
  else
    let rgb := fun (k i : Nat) => clampUnit (t.layout == 5) ((flat k).getD i 0)
    let luma := planeOf w h fun x y => let i := y * w + x; lumaOf matrix depth (rgb 0 i) (rgb 1 i) (rgb 2 i)
    let site := fun (c i : Nat) => chromaSite matrix depth c (rgb 0 i) (rgb 1 i) (rgb 2 i)
    let chroma := fun (c : Nat) => planeOf (w / 2) (h / 2) fun x y =>
      let i := 2 * y * w + 2 * x
      (site c i + site c (i + 1) + site c (i + w) + site c (i + w + 1) + 131072) / 262144
    [luma, chroma 0, chroma 1]

/-- The coded picture of a source (R461): its samples, luma then Cb then Cr. -/
def pixelPipe (t : PicDesc) (orient matrix outW outH depth : Nat) (rows : List (List (List Nat))) : List Plane :=
  let srcDepth := if t.layout < 2 then sampleDepth t.layout else depth
  (sourcePlanes t matrix depth rows).zipIdx.map fun (q, k) =>
    let q := (q.mirror (orient.testBit 2) (orient.testBit 3)).rotate (orient % 4)
    let q := q.scale (k != 0) srcDepth (if k = 0 then outW else outW / 2) (if k = 0 then outH else outH / 2)
    { q with at_ := q.at_.map (depthTo srcDepth depth) }

/-- True when a scale factor lies from 1/8 to 8 (R461). -/
def factorOk (src out : Nat) : Bool := decide (src ≤ 8 * out) && decide (out ≤ 8 * src)

end Sys2Proof.Machine
end

