-- ==== Sys2Proof/Machine/Codec.lean ====
section
/-! DEFINITION. The video codec (14_video_codec.md R448 to R474): channels, jobs, records, pixel-pipe modes. -/

namespace Sys2Proof.Machine

def State.channel (s : State) (c : Nat) : Channel := tabGet Channel.idle s.channels c
def State.setChannel (s : State) (c : Nat) (v : Channel) : State :=
  { s with channels := tabSet Channel.idle s.channels c v }
def State.modChannel (s : State) (c : Nat) (f : Channel → Channel) : State := s.setChannel c (f (s.channel c))

/-- The S-die of a channel (Table 14-1). -/
def chanDie (c : Nat) : Nat := if c < 8 then c / 2 else (c - 8) / 4

/-- The unit an event about a channel names. -/
def chanUnit (c : Nat) : Nat := unitId (sDie (chanDie c)) 0 0xF (Config.codecUnit c).toNat

/-- A free number drawn for purpose `tag`. -/
def State.free (s : State) (tag : Nat) : State × Nat := (s.drawn, (Config.freeWord tag s.freeCtr).toNat)

/-! ### Pixel-pipe modes (R462, Table 14-6) -/

/-- A job's operation, and a channel's running job. -/
def Job.op (j : Job) : Nat := leAt j.entry 4 1
def State.job (s : State) (c : Nat) : Option Job := (s.channel c).jobs.head?

/-- True when a job of channel `c` is in its pipe. -/
def State.inPipe (s : State) (c : Nat) : Bool := match s.job c with
  | some j => (j.op == 1 || j.op == 3) && j.done && j.status != 5 && j.status != 8
  | none => false

def State.pipeMode (s : State) (d : Nat) : Nat := s.num (0x7010 + d) 1
def State.pipeNextOf (s : State) (d : Nat) : Nat := tabGet 0 s.pipeNext d

/-- The pipe of S-die `d` takes a mode; recovery forgets earlier ANALYSE pictures (R463). -/
def State.enterPipe (s : State) (d mode : Nat) : State :=
  let s := { s.setNum (0x7010 + d) 1 mode with pipeNext := tabSet 0 s.pipeNext d 0 }
  if mode = 2 then s.forEach [2 * d, 2 * d + 1] fun s c => s.modChannel c fun v => { v with prev := none } else s

/-- The pipe takes the mode that waits for it, when no job of its channels is in it and no calibration or test runs (Table 14-6). -/
def State.settlePipe (s : State) (d : Nat) : State :=
  if s.pipeNextOf d = 0 ∨ s.pipeMode d = 1 ∨ s.pipeMode d = 3 ∨ s.inPipe (2 * d) ∨ s.inPipe (2 * d + 1) then s else s.enterPipe d (s.pipeNextOf d - 1)

/-- A mode asked for: at once, or once the pipe is free, its calibration or its test over. -/
def State.wantPipe (s : State) (d mode : Nat) : State :=
  ({ s with pipeNext := tabSet 0 s.pipeNext d (mode + 1) } : State).settlePipe d

/-- The mode that a test strip keeps the pipe from (Table 14-6). -/
def State.pipeKept (s : State) (d : Nat) : Nat := tabGet 0 s.pipeBefore d

/-- A test strip of the S-die holds its pipe in mode 3 (R462, R548). -/
def State.holdPipe (s : State) (d : Nat) : State :=
  if s.pipeMode d = 3 then s
  else { s.setNum (0x7010 + d) 1 3 with pipeBefore := tabSet 0 s.pipeBefore d (s.pipeMode d) }

/-- The test strip over: the pipe returns to its previous mode, and takes the one that waits. -/
def State.leaveTest (s : State) (d : Nat) : State :=
  if s.pipeMode d ≠ 3 then s
  else ({ s.setNum (0x7010 + d) 1 (s.pipeKept d) with pipeBefore := tabSet 0 s.pipeBefore d 0 } : State).settlePipe d

/-- Calibration begins at device_enable, in a pipe under test once its strip ends (Table 14-6). -/
def State.calibrate (s : State) (d : Nat) : State :=
  let s := s.setNum (0x7010 + d) 4 0
  if s.pipeMode d = 3 then { s with pipeBefore := tabSet 0 s.pipeBefore d 1, pipeNext := tabSet 0 s.pipeNext d 0 }
  else s.enterPipe d 1

/-- CALIBRATION_END: the pipe enters scale mode, or the mode that waits; a failure raises a codec-fault event (R462). -/
def execCalibrationEnd (sdie : BitVec 2) (ok : Bool) (s : State) : Host.Outcome State Fault Refusal :=
  .next (let d := sdie.toNat
    if s.num 0x2000 1 ≠ 1 ∨ s.num (0x7010 + d) 4 ≠ 0 then s
    else
      let s := s.setNum (0x7010 + d) 4 (if ok then 1 else 2)
      let s := if ok then s else s.raise (.of 0x0E (dieUnit (sDie d)) (2 * d))
      if s.pipeMode d = 1 then s.enterPipe d (s.pipeNextOf d - 1)
      else if s.pipeMode d = 3 ∧ s.pipeKept d = 1 then { s with pipeBefore := tabSet 0 s.pipeBefore d 0 }
      else s)

/-- PIPE_RECOVER: recovery once no job is in the pipe (R462). -/
def execPipeRecover (path : Path) (sdie : BitVec 2) (s : State) : Host.Outcome State Fault Refusal :=
  .next (s.writeDo path (0x7010 + sdie.toNat) 2 1 fun s => s.wantPipe sdie.toNat 2)

/-- True while a die's pipe is in recovery, or waits to be. -/
def State.recovering (s : State) (d : Nat) : Bool :=
  s.pipeMode d == 2 || s.pipeNextOf d == 3 || (s.pipeMode d == 3 && s.pipeKept d == 2)

/-- Recovery is left for scale mode (R462). -/
def State.resumePipe (s : State) (d : Nat) : State := if s.recovering d then s.wantPipe d 0 else s

/-- PIPE_RESUME (R462). -/
def execPipeResume (path : Path) (sdie : BitVec 2) (s : State) : Host.Outcome State Fault Refusal :=
  .next (s.writeDo path (0x7010 + sdie.toNat) 3 1 fun s => s.resumePipe sdie.toNat)

/-! ### Jobs -/

/-- The fields of a job by op: its picture, the address and length of its other buffer. -/
def Job.pic (j : Job) : PicDesc := picDesc (slice j.entry 0x10 48)
def Job.addr (j : Job) : Nat := leAt j.entry 0x40 8
def Job.len (j : Job) : Nat := leAt j.entry 0x48 4
def Job.seq (j : Job) : Nat := leAt j.entry 0 4

/-- Width and height of the picture an ENCODE job codes (Table 14-3). -/
def codedSize (e : List Byte) : Nat × Nat :=
  let t := picDesc (slice e 0x10 48)
  let turned := leAt e 0x64 1 % 2 == 1
  let w := leAt e 0x60 2
  let h := leAt e 0x62 2
  (if w = 0 then (if turned then t.height else t.width) else w, if h = 0 then (if turned then t.width else t.height) else h)

/-- The conditions of R453 and R461 on a job of channel `c` of partition `p`. -/
def State.jobOk (s : State) (p c : Nat) (e : List Byte) : Bool :=
  let op := leAt e 4 1
  let t := picDesc (slice e 0x10 48)
  let (w, h) := codedSize e
  let sides := if leAt e 0x64 1 % 2 = 1 then (t.height, t.width) else (t.width, t.height)
  let even := fun (v lo hi : Nat) => decide (lo ≤ v) && decide (v ≤ hi) && v % 2 == 0
  let picMem := (List.range (layoutPlanes t.layout)).all fun k => s.jobMemory p (t.planes.getD k 0)
  decide (leAt e 5 1 < 8) && zeroAt e 6 2 && zeroAt e 0x31 3 && zeroAt e 0x4C 20 && zeroAt e 0x6A 22 &&
    decide (leAt e 0x64 1 < 16) && picMem &&
    (match op with
     | 1 => decide (c < 8) && t.ok [0, 1, 4, 5] && leAt e 0x40 8 == 0 && even w 16 8192 && even h 16 4352 &&
         factorOk sides.1 w && factorOk sides.2 h && decide (leAt e 0x65 1 < 2) && leAt e 0x66 2 % 2 == 0 &&
         leAt e 0x68 2 % 2 == 0
     | 2 => decide (8 ≤ c) && t.ok [0, 1, 2, 3] && s.jobMemory p (leAt e 0x40 8)
     | 3 => decide (c < 8) && t.ok [0, 1, 2, 3] && s.jobMemory p (leAt e 0x40 8)
     | _ => false)

/-- A job as it is taken; `st` is the status it finishes with at once, none when it runs. -/
def jobOf (e : List Byte) (now : Nat) (st : Option Nat) : Job :=
  { entry := e, started := now, done := st.isSome, status := st.getD 0, picType := 0, bytes := 0, concealed := 0, clipped := 0
    order := 0, extra := 0, qp := 0, waiting := false, releases := [], picture := none }

/-- A full record ring holds a record: the channel takes no further job (Table 14-8). -/
def State.recordRoom (s : State) (c : Nat) : Bool :=
  decide ((((s.channel c).written + 2 ^ 32 - s.num (chanObj c) 9) % 2 ^ 32) < s.num (chanObj c) 8)

/-- CODEC_JOB_TAKE: the read of the watched entry completes; a job whose job_seq is next_seq is taken (R451, R453, R658). -/
def execCodecJobTake (ch : BitVec 5) (_entry : List Byte) (s : State) : Host.Outcome State Fault Refusal :=
  .next (let c := ch.toNat
    let o := chanObj c
    let held := !(s.channel c).records.isEmpty && !s.recordRoom c
    if decide (24 ≤ c) || s.num o 1 != 1 || s.num 0x2000 2 != 2 || held then s
    else
      let p := s.num o 2
      let a := s.entryAddr (4096 + c)
      -- The ring lies in device memory: what the device reads there counts, not the operand.
      let (s, f) := s.loadBytes (sDie (chanDie c)) a 128
      let s := match f.ue with
        | [] => s
        | ws => s.forEach ws fun s w => s.raise { Event.of 0x01 (chanUnit c) (a + 8 * w) with part := some p }
      if f.ue.head? = some 0 ∨ leAt f.bytes 0 4 ≠ s.num o 6 then s.entryRead (4096 + c) f.bytes
      else
        let st := if !f.ue.isEmpty then some 7 else if !s.jobOk p c f.bytes then some 5 else none
        let now := if (s.channel c).jobs.isEmpty then s.now else 0
        let s := s.modChannel c fun v => { v with jobs := v.jobs ++ [jobOf f.bytes now st] }
        (s.setNum o 6 ((s.num o 6 + 1) % 2 ^ 32)).readEntry (4096 + c))

/-- The running job of a channel replaced. -/
def State.modJob (s : State) (c : Nat) (f : Job → Job) : State :=
  s.modChannel c fun v => { v with jobs := match v.jobs with | [] => [] | j :: t => f j :: t }

/-- Data faults of a job, one event for each uncorrectable word (R104, R473). -/
def State.jobFaults (s : State) (c : Nat) (l : List Nat) : State :=
  s.forEach l fun s a => s.raise { Event.of 0x01 (chanUnit c) a with part := some (s.num (chanObj c) 2) }

/-- The planes a job reads, sample by sample; the addresses of the uncorrectable words. -/
def State.loadPicture (s : State) (p d n : Nat) (t : PicDesc) : State × List (List (List Nat)) × List Nat :=
  (List.range n).foldl (fun (acc : State × List (List (List Nat)) × List Nat) k =>
    let (s, rows, bad) := acc.1.loadPlane p d k t
    (s, acc.2.1 ++ [rows.map (rowSamples t.layout)], acc.2.2 ++ bad)) (s, [], [])

/-! ### Encode -/

/-- Bit depth of a channel's profile. -/
def State.chanDepth (s : State) (c : Nat) : Nat := if s.num (chanObj c) 0x0D = 0 then 8 else 10

/-- Bytes of a sample of channel `c`'s coded pictures. -/
def State.chanBytes (s : State) (c : Nat) : Nat := if s.chanDepth c = 8 then 1 else 2

/-- The encoder's reconstruction, kept somewhere in the channel's ref area, as the encoder's state `enc` has it (Table 14-7). A
random-access picture leaves no earlier one to search. -/
def State.keepRecon (s : State) (c w h : Nat) (ra : Bool) (enc : Nat) : State :=
  let o := chanObj c
  let size := s.num o 0x17
  let n := min size (w * h * 3 / 2 * s.chanBytes c)
  let b := (List.range n).map (Config.encRecon enc)
  let a := s.num o 0x16 + (Config.encChoice enc 40).toNat % (size - n + 1)
  ((s.meshWrite (sDie (chanDie c)) (Ram.empty.writeRaw 0 b) 0 a n).codecMoved (s.num o 2) n).modChannel c fun v =>
    { v with recons := (if ra then [] else v.recons.drop (v.recons.length - 1)) ++ [⟨a, w, h⟩] }

/-! ### Motion search (R459, R460) -/

/-- The luma rows of a reference that the searches of CTU row `r` read: the CTU's 64 and 128 either way, within the picture. -/
def searchRows (h r : Nat) : Nat × Nat := (64 * r - 128, min h (64 * r + 192))

/-- The columns of the search window of CTU column `x`: the CTU's 64 and 256 either way. -/
def searchCols (w x : Nat) : Nat × Nat := (64 * x - 256, min w (64 * x + 320))

/-- The luma rows that each pass over a reference reads: every sample once per CTU row whose window holds it with search_mode
0, once over the picture with search_mode 1. -/
def searchPasses (phv : Bool) (h : Nat) : List (Nat × Nat) :=
  if phv then [(0, h)] else (List.range (ceilDiv h 64)).map (searchRows h)

/-- A reference read by channel `c`: for each pass the rows of luma samples, then the chroma samples; the addresses of the
uncorrectable words. -/
def State.readRecon (s : State) (c : Nat) (phv : Bool) (r : Recon) : State × List (List (List Nat)) × List Nat :=
  let k := s.chanBytes c
  let p := s.num (chanObj c) 2
  let lim := s.num (chanObj c) 0x16 + s.num (chanObj c) 0x17
  (searchPasses phv r.h ++ [(r.h, r.h + r.h / 2)]).foldl (fun (acc : State × List (List (List Nat)) × List Nat) q =>
    let a := r.addr + q.1 * r.w * k
    let n := min ((q.2 - q.1) * r.w * k) (lim - a)
    let (s, f) := acc.1.codecLoad p (chanDie c) a n
    let rows := chunksOf r.w (q.2 - q.1) ((chunksOf k (n / k) f.bytes).map leNat)
    (s, acc.2.1 ++ [rows], acc.2.2 ++ f.badAt a)) (s, [], [])

/-- The samples of the search window of each CTU of a reference, the CTUs in raster order. -/
def searchWindows (r : Recon) (passes : List (List (List Nat))) : List (List Nat) :=
  (List.range (ceilDiv r.h 64)).flatMap fun y =>
    (List.range (ceilDiv r.w 64)).map fun x =>
      let q := searchCols r.w x
      (passes.getD y []).flatMap fun row => (row.drop q.1).take (q.2 - q.1)

/-- Vector `k` that an encoder in state `plan` chooses in its windows with search_mode 0, in quarter samples: its integer part lies
within ±256 horizontally and ±128 vertically (R459). -/
def searchVector (plan : Nat) (windows : List (List Nat)) (k : Nat) : Int × Int :=
  let v := (Config.encVector plan windows k).toNat
  ((v % 2 ^ 32 % (4 * 513) : Nat) - 1024, (v / 2 ^ 32 % (4 * 257) : Nat) - 512)

/-- The vectors chosen on some references, one for each 4 × 4 samples of each CTU: those of a larger block agree. -/
def searchVectors (plan : Nat) (windows : List (List Nat)) (rs : List Recon) : List (Int × Int) :=
  (List.range ((rs.map fun r => ceilDiv r.w 64 * ceilDiv r.h 64 * 256).sum)).map (searchVector plan windows)

/-- The references an ENCODE job searches, read: their search windows and the addresses of the uncorrectable words. -/
def State.searchRefs (s : State) (c : Nat) (phv : Bool) (rs : List Recon) : State × List (List Nat) × List Nat :=
  rs.foldl (fun (acc : State × List (List Nat) × List Nat) r =>
    let (s, passes, bad) := acc.1.readRecon c phv r
    (s, acc.2.1 ++ searchWindows r passes, acc.2.2 ++ bad)) (s, [], [])

/-- What an encoder's decisions rest on beside the source pictures: the channel's settings, and a job's flags and geometry (R456,
R460). Neither s_len nor the crop is among them (R457, R458). -/
def State.encSettings (s : State) (c : Nat) : List Nat := (List.range 9).map fun k => s.num (chanObj c) (0x0C + k)
def Job.encFields (j : Job) (ra : Bool) : List Nat :=
  let (w, h) := codedSize j.entry
  [ra.toNat, leAt j.entry 5 1 / 2 % 2, w, h, leAt j.entry 0x64 1, leAt j.entry 0x65 1]

/-- The state of channel `c`'s encoder when it has taken the picture of job `j`, of samples `src`. -/
def State.encPlan (s : State) (c : Nat) (j : Job) (src : List Nat) : Nat :=
  let v := s.channel c
  Config.encPlan (s.num (chanObj c) 0x14 == 1) (s.encSettings c) v.coder
    (j.encFields ((leAt j.entry 5 1).testBit 0 || v.forceRa)) src

/-- The type of the picture (Table 14-8): random-access when the job, a fault, the gop or the want of a reference asks for it; no
more B pictures in a row than b_frames. -/
def State.pictureType (s : State) (c : Nat) (j : Job) (plan : Nat) : Nat :=
  let o := chanObj c
  let v := s.channel c
  let ty := (Config.encChoice plan 44).toNat % 4
  if (leAt j.entry 5 1).testBit 0 || v.forceRa || v.recons.isEmpty || decide (s.num o 0x12 ≤ v.sinceRa) then 0
  else if ty = 3 ∧ s.num o 0x13 ≤ v.bRun then 2 else ty

/-- The bytes of a picture's stream that carry the display window, the crop taken off (R458): at a random-access point, and with AV1
in every frame header. -/
def State.displayHeader (s : State) (c : Nat) (j : Job) (ty : Nat) : List Byte :=
  if ty = 0 ∨ s.num (chanObj c) 0x0C = 1 then
    let (w, h) := codedSize j.entry
    Config.streamHeader (s.encSettings c) (w, h) (w - leAt j.entry 0x66 2, h - leAt j.entry 0x68 2)
  else []

/-- The attempt at which a picture is coded, its header of `head` bytes within `len` (R457): 0 as planned, 1 at the largest QP, 2 as
skipped blocks or without residual. -/
def codedAttempt (enc head len : Nat) : Nat :=
  if head + (Config.encChoice enc 42).toNat ≤ len then 0
  else if head + (Config.encChoice enc 47).toNat ≤ len then 1 else 2

/-- The bytes of the picture coded at an attempt, at most `len` with its header. -/
def codedBytes (enc : Nat) (head : List Byte) (len attempt : Nat) : List Byte :=
  let n := match attempt with
    | 0 => (Config.encChoice enc 42).toNat
    | 1 => (Config.encChoice enc 47).toNat
    | _ => (Config.encChoice enc 48).toNat % (len - head.length + 1)
  (head ++ (List.range n).map (Config.encByte enc attempt)).take len

/-- The record fields of a coded picture (R457): status, type and mean QP. A picture that took the last attempt is an inter picture of
skipped blocks, or a random-access picture at the largest QP. -/
def codedFields (settings : List Nat) (enc ty attempt : Nat) : Nat × Nat × Nat :=
  let q := fun (k : Nat) => (Config.encChoice enc k).toNat % 256
  match attempt with
  | 0 => (0, ty, q 46)
  | 1 => (6, ty, (Config.maxQp settings).toNat)
  | _ => if ty = 0 then (6, 0, (Config.maxQp settings).toNat) else (6, if ty = 3 then 3 else 2, q 49)

/-- An ENCODE job codes its picture: source read, pixel pipe, references searched, coded bytes into the ring (R455 to R461,
R473, R474). Every decision and byte is a function of the channel's settings and job sequence, of the source pictures and, with
search_mode 0, of the references searched: none of the time at which the job runs (R456). -/
def State.encodeJob (s : State) (c : Nat) (j : Job) (error : Bool) : State :=
  let o := chanObj c
  let p := s.num o 2
  let w := s.num o 0x15
  if s.ringFree w < j.len then s.modJob c fun k => { k with waiting := true }
  else
    let s := s.modJob c fun k => { k with waiting := false, done := true }
    if error then
      (s.modJob c fun k => { k with status := 9 }).raise { Event.of 0x0E (chanUnit c) c with part := some p }
    else
      let t := j.pic
      let (s, rows, bad) := s.loadPicture p (chanDie c) (layoutPlanes t.layout) t
      if !bad.isEmpty then (s.jobFaults c bad).modJob c fun k => { k with status := 7 }
      else
        let (ow, oh) := codedSize j.entry
        let src := (pixelPipe t (leAt j.entry 0x64 1) (leAt j.entry 0x65 1) ow oh (s.chanDepth c) rows).flatMap (·.at_)
        let mode1 := s.num o 0x14 == 1
        let v := s.channel c
        let plan := s.encPlan c j src
        let ty := s.pictureType c j plan
        let refs := if ty ≤ 1 then [] else v.recons.drop (v.recons.length - (1 + (Config.encChoice plan 55).toNat % 2))
        let (s, windows, bad) := s.searchRefs c mode1 refs
        if !bad.isEmpty then (s.jobFaults c bad).modJob c fun k => { k with status := 7 }
        else
          let enc := if mode1 then plan else Config.encSearch plan windows (searchVectors plan windows refs)
          let head := s.displayHeader c j ty
          let n := codedAttempt enc head.length j.len
          let b := codedBytes enc head j.len n
          let (st, ty, qp) := codedFields (s.encSettings c) enc ty n
          let after := Config.encAfter enc n
          let at_ := (s.exportW w).written
          let s := (s.stage (sDie (chanDie c)) p w at_ (Ram.empty.writeRaw 0 b) 0 b.length).codecMoved p b.length
          let s := s.modChannel c fun v => { v with
            forceRa := false, coder := after, sinceRa := if ty = 0 then 1 else v.sinceRa + 1, bRun := if ty = 3 then v.bRun + 1 else 0 }
          let s := s.keepRecon c ow oh (ty == 0) after
          s.modJob c fun k => { k with
            status := st, picType := ty, bytes := b.length, order := (Config.encChoice enc 45).toNat % 2 ^ 32, extra := at_, qp := qp }

/-- True when an ENCODE job may run: scale mode, with no change of mode waiting (Table 14-6). -/
def State.mayEncode (s : State) (c : Nat) : Bool :=
  decide (c < 8) && s.pipeMode (chanDie c) == 0 && s.pipeNextOf (chanDie c) == 0 && s.num 0x2000 1 == 1

/-- ENCODE (R455). -/
def execEncode (ch : BitVec 5) (error : Bool) (s : State) : Host.Outcome State Fault Refusal :=
  .next (let c := ch.toNat
    match s.job c with
    | some j => if j.op = 1 ∧ !j.done ∧ s.mayEncode c then s.encodeJob c j error else s
    | none => s)

/-- ENCODE_RING_SPACE: the drain has freed the bytes a waiting ENCODE job needs (R456). -/
def execEncodeRingSpace (ch : BitVec 5) (s : State) : Host.Outcome State Fault Refusal :=
  .next (let c := ch.toNat
    match s.job c with
    | some j => if j.op = 1 ∧ j.waiting ∧ s.mayEncode c then s.encodeJob c j false else s
    | none => s)

/-! ### Analyse -/

/-- A vector component in quarter samples within `r` samples either way. -/
def vectorIn (r v : Nat) : Nat := (v % (8 * r + 1) + 2 ^ 16 - 4 * r) % 2 ^ 16

/-- The samples of a 16 × 16 block of a luma plane, within the picture. -/
def lumaBlock (w : Nat) (rows : List (List Nat)) (bx by_ : Nat) : List Nat :=
  ((rows.drop (16 * by_)).take 16).flatMap fun r => ((r.take w).drop (16 * bx)).take 16

/-- The sum of absolute differences of block (bx, by_) at a vector in quarter samples (R463): exact at a whole vector within the
previous picture. -/
def sadAt (w : Nat) (rows : List (List Nat)) (prev : Nat × List Nat) (bx by_ : Nat) (mx my : Int) : Nat :=
  let b := lumaBlock w rows bx by_
  let ph := prev.2.length / max prev.1 1
  let x0 := 16 * (bx : Int) + mx / 4
  let y0 := 16 * (by_ : Int) + my / 4
  let bw := min 16 (w - 16 * bx)
  let bh := min 16 (rows.length - 16 * by_)
  if mx % 4 = 0 ∧ my % 4 = 0 ∧ 0 ≤ x0 ∧ 0 ≤ y0 ∧ x0 + bw ≤ prev.1 ∧ y0 + bh ≤ ph then
    ((List.range (bw * bh)).map fun i =>
      let u := b.getD i 0
      let v := prev.2.getD ((y0.toNat + i / bw) * prev.1 + x0.toNat + i % bw) 0
      u - v + (v - u)).sum
  else Config.blockSad b prev.1 prev.2 bx by_ mx my

/-- The 8 bytes of a block of a map (R463): the vector within ±64 and ±32 samples, its sum of absolute differences and the
block's complexity, both saturating. -/
def blockStat (w : Nat) (rows : List (List Nat)) (prev : Option (Nat × List Nat)) (bx by_ : Nat) : List Byte :=
  let b := lumaBlock w rows bx by_
  (match prev with
    | none => leBytes 2 0 ++ leBytes 2 0 ++ leBytes 2 0xFFFF
    | some q =>
      let v := Config.blockVector b q.1 q.2 bx by_
      let mx := vectorIn 64 v.1
      let my := vectorIn 32 v.2
      leBytes 2 mx ++ leBytes 2 my ++ leBytes 2 (min 0xFFFF (sadAt w rows q bx by_ (signed 16 mx) (signed 16 my)))) ++
    leBytes 2 (min 0xFFFF (Config.blockSatd b / 16))

/-- ANALYSE: block motion and complexity statistics; status 8 outside recovery, waiting under a test strip (R463, R473,
Table 14-6). -/
def execAnalyse (ch : BitVec 5) (s : State) : Host.Outcome State Fault Refusal :=
  .next (let c := ch.toNat
    let d := chanDie c
    match s.job c with
    | none => s
    | some j =>
      if j.op ≠ 3 ∨ j.done ∨ 8 ≤ c ∨ s.pipeMode d = 3 ∨ s.pipeNextOf d ≠ 0 then s
      else if s.pipeMode d ≠ 2 then s.modJob c fun k => { k with done := true, status := 8 }
      else
        let t := j.pic
        let s := s.modJob c fun k => { k with done := true }
        let (s, planes, bad) := s.loadPicture (s.num (chanObj c) 2) d 1 t
        if !bad.isEmpty then (s.jobFaults c bad).modJob c fun k => { k with status := 7 }
        else
          let rows := planes.headD []
          let prev := (s.channel c).prev
          let map := (List.range (ceilDiv t.height 16)).flatMap fun y => (List.range (ceilDiv t.width 16)).flatMap fun x =>
            blockStat t.width rows prev x y
          let (s, cut) := s.codecStore (s.num (chanObj c) 2) d j.addr map (j.addr + j.len)
          (s.modChannel c fun v => { v with prev := some (t.width, rows.flatten) }).modJob c fun k => { k with clipped := cut })

/-! ### Decode -/

/-- A row of the samples of a decoded picture, from its state (the standards fix them from the coded bits). -/
def decodedRow (dec : Nat) (t : PicDesc) (k i : Nat) : List Byte :=
  (List.range t.width).flatMap fun x =>
    let at_ := (k * 8192 + i) * 16384 + 2 * x
    if sampleBytes t.layout = 1 then [Config.decodedByte dec at_]
    else leBytes 2 ((Config.decodedByte dec at_).toNat * 256 + (Config.decodedByte dec (at_ + 1)).toNat / 64 * 64)

/-- A row of mid-grey. -/
def greyRow (t : PicDesc) : List Byte :=
  (List.replicate t.width (leBytes (sampleBytes t.layout)
    (if sampleBytes t.layout = 1 then 128 else 512 * 64))).flatten

/-- A reference picture read to conceal by: its descriptor and its planes' rows. -/
abbrev HidePic := PicDesc × List (List (List Byte))

/-- The bytes co-located with row `i` of plane `k` in a reference of the same layout; where it has none, or its layout is another,
no rule states them: free bytes (log entry 234). -/
def colocatedRow (dec : Nat) (t : PicDesc) (ref : HidePic) (k i : Nat) : List Byte :=
  let row := if ref.1.layout = t.layout then (ref.2.getD k []).getD i [] else []
  (List.range t.rowBytes).map fun x => row.getD x (Config.freeByte 57 dec ((k * 8192 + i) * 16384 + x))

/-- What conceals row `i` of plane `k`, by conceal_mode: the most recent reference picture or mid-grey, mid-grey, or nothing
written (R469). -/
def concealRow (mode dec : Nat) (t : PicDesc) (ref : Option HidePic) (k i : Nat) : Option (List Byte) :=
  match mode, ref with
  | 2, _ => none
  | 0, some r => some (colocatedRow dec t r k i)
  | _, _ => some (greyRow t)

/-- The pieces of row `i` of plane `k` of a decoded picture in units of `u` luma samples square: `decoded`, but what conceals it
in a unit that is `lost`. -/
def unitPieces (t : PicDesc) (u : Nat) (lost : Nat → Bool) (decoded : List Byte) (hide : Option (List Byte)) (k i : Nat) :
    List (Nat × List Byte) :=
  let n := u * sampleBytes t.layout
  let up := if k = 1 ∧ t.layout < 2 then u / 2 else u
  (List.range (ceilDiv t.width u)).filterMap fun x =>
    let cut := fun (r : List Byte) => (n * x, (r.drop (n * x)).take n)
    if lost (i / up * ceilDiv t.width u + x) then hide.map cut else some (cut decoded)

/-- The reference that conceals, read when a unit is lost and conceal_mode takes it (R469); the addresses of its uncorrectable words. -/
def State.hidePicture (s : State) (c : Nat) (t : PicDesc) (damaged : Bool) : State × Option HidePic × List Nat :=
  match (s.channel c).refs.getLast? with
  | some r =>
    if s.num 0x7000 4 = 0 ∧ damaged then
      let q := picDesc r.pic
      let (s, planes, bad) := (List.range (min (layoutPlanes q.layout) (layoutPlanes t.layout))).foldl
        (fun (acc : State × List (List (List Byte)) × List Nat) k =>
          let (s, rows, bad) := acc.1.loadPlane (s.num (chanObj c) 2) (chanDie c) k q
          (s, acc.2.1 ++ [rows], acc.2.2 ++ bad)) (s, [], [])
      (s, some (q, planes), bad)
    else (s, none, [])
  | none => (s, none, [])

/-- A picture stored, its lost units concealed (R464, R469); the bytes dropped, the addresses of the uncorrectable words met. -/
def State.storePicture (s : State) (c dec : Nat) (t : PicDesc) (u : Nat) (lost : Nat → Bool) : State × Nat × List Nat :=
  let mode := s.num 0x7000 4
  let (s, ref, bad) := s.hidePicture c t ((List.range (ceilDiv t.width u * ceilDiv t.height u)).any lost)
  (List.range (layoutPlanes t.layout)).foldl (fun (acc : State × Nat × List Nat) k =>
    let (s, n) := acc.1.storePlane (s.num (chanObj c) 2) (chanDie c) k t fun i =>
      unitPieces t u lost (decodedRow dec t k i) (concealRow mode dec t ref k i) k i
    (s, acc.2.1 + n, bad)) (s, 0, bad)

/-- The side of a decoder's blocks in luma samples (R468): H.264 macroblocks, HEVC coding tree units of 16 to 64, AV1 superblocks of
64 or 128. -/
def blockSide (standard dec : Nat) : Nat :=
  match standard with
  | 0 => 16 * 2 ^ (Config.decSide dec % 3)
  | 1 => 64 * 2 ^ (Config.decSide dec % 2)
  | _ => 16

/-- The blocks of a picture. -/
def PicDesc.blocks (t : PicDesc) (side : Nat) : Nat := ceilDiv t.width side * ceilDiv t.height side

/-- The status of a unit by its headers (R449, R468, Table 14-8): 4 for a picture above 8,192 × 4,352, 3 for a profile above the
channel's, else 1 when it is damaged. -/
def State.unitStatus (s : State) (c dec : Nat) (error : Bool) : Nat :=
  let (w, h) := Config.decSize dec
  if 8192 < w ∨ 4352 < h then 4
  else if s.num (chanObj c) 0x0D < Config.decProfile dec then 3
  else if error then 1 else 0

/-- The bytes of the references that a unit reads, and the addresses of their uncorrectable words. -/
def State.readRefs (s : State) (c dec : Nat) : State × List (List Byte) × List Nat :=
  let used := ((s.channel c).refs.zipIdx.filter fun r => Config.decReads dec r.2).map (·.1)
  used.foldl (fun (acc : State × List (List Byte) × List Nat) r =>
    let q := picDesc r.pic
    (List.range (layoutPlanes q.layout)).foldl (fun (acc : State × List (List Byte) × List Nat) k =>
      let (s, rows, bad) := acc.1.loadPlane (s.num (chanObj c) 2) (chanDie c) k q
      (s, acc.2.1 ++ [rows.flatten], acc.2.2 ++ bad)) acc) (s, [], [])

/-- The state of channel `c`'s decoder when it has read the headers of a unit. -/
def State.unitHeaders (s : State) (c : Nat) (unit : List Byte) : Nat :=
  Config.decHeaders (s.num (chanObj c) 0x0C) (s.channel c).coder unit

/-- A DECODE job decodes its unit (R464, R468, R473); `error` when the unit is damaged. Its picture is stored at its end, or at its
cap. -/
def State.decodeJob (s : State) (c : Nat) (j : Job) (error : Bool) : State :=
  let (s, f) := s.codecLoad (s.num (chanObj c) 2) (chanDie c) j.addr j.len
  let head := s.unitHeaders c f.bytes
  let fit := s.unitStatus c head error
  let (s, refs, badRef) := if 3 ≤ fit then (s, [], []) else s.readRefs c head
  let bad := f.badAt j.addr ++ badRef
  let dec := Config.decPicture head refs
  let s := (s.jobFaults c bad).modChannel c fun v => { v with coder := dec }
  s.modJob c fun k => { k with
    done := true, status := if bad.isEmpty then fit else 7, picType := Config.decNumber dec 1 % 5
    bytes := Config.decNumber dec 2 % (j.len + 1), order := Config.decNumber dec 3 % 2 ^ 32
    picture := some (dec, !bad.isEmpty || fit == 1, decide (3 ≤ fit)) }

/-- References released by a decoded picture: the release mask and the pictures of jobs more than 64 before it (R465,
R466); the picture becomes a reference (R464). -/
def State.releaseRefs (s : State) (c dec : Nat) (j : Job) : State :=
  let go := (s.channel c).refs.zipIdx.filter fun r => Config.decReleases dec r.2
  let back := fun (r : RefPic) => (j.seq + 2 ^ 32 - 1 - r.seq) % 2 ^ 32
  let mask := (go.filter fun r => decide (back r.1 < 64)).foldl (fun m r => withBit m (back r.1)) 0
  let old := (go.filter fun r => decide (64 ≤ back r.1)).map fun r => (r.1.seq, r.1.tag)
  let s := s.modChannel c fun v => { v with
    refs := v.refs.filter (fun r => !(go.map (·.1)).contains r) ++ [⟨j.seq, leAt j.entry 8 8, slice j.entry 0x10 48⟩] }
  s.modJob c fun k => { k with extra := mask, releases := old }

/-- The picture of a DECODE job stored, with the first `reached` blocks reconstructed (R464, R467 to R469): the others are concealed,
and those that the unit's damage has lost; a picture that cannot be decoded at all is concealed whole. -/
def State.finishPicture (s : State) (c : Nat) (j : Job) (reached : Option Nat) : State :=
  match j.picture with
  | none => s
  | some (dec, damaged, whole) =>
    let t := j.pic
    let u := blockSide (s.num (chanObj c) 0x0C) dec
    let n := t.blocks u
    let lost := fun (b : Nat) => whole || (reached.any fun m => decide (m ≤ b)) ||
      (damaged && (b == Config.decNumber dec 4 % n || Config.decLost dec b))
    let (s, cut, bad) := s.storePicture c dec t u lost
    let st := if !bad.isEmpty ∨ j.status = 7 then 7 else if reached.isSome then 2 else j.status
    ((s.jobFaults c bad).modJob c fun k => { k with
      status := st, concealed := ((List.range n).filter lost).length, clipped := cut, picture := none }).releaseRefs c dec j

/-- CODEC_DECODE (R464). -/
def execCodecDecode (ch : BitVec 5) (error : Bool) (s : State) : Host.Outcome State Fault Refusal :=
  .next (let c := ch.toNat
    match s.job c with
    | some j => if j.op = 2 ∧ !j.done ∧ 8 ≤ c then s.decodeJob c j error else s
    | none => s)

/-- DECODE_CAP: the job reaches its cap: decoding stops after some of its blocks, a free choice, the others are concealed, status 2,
or 7 when a data fault was found first (R467, Table 14-10). -/
def execDecodeCap (ch : BitVec 5) (s : State) : Host.Outcome State Fault Refusal :=
  .next (let c := ch.toNat
    match s.job c with
    | none => s
    | some j =>
      if j.op ≠ 2 ∨ c < 8 ∨ (j.done ∧ j.picture.isNone) then s
      else
        let s := if j.done then s else s.decodeJob c j false
        match s.job c with
        | none => s
        | some j =>
          let n := (j.picture.map fun e => j.pic.blocks (blockSide (s.num (chanObj c) 0x0C) e.1)).getD 1
          let (s, m) := s.free 51
          s.finishPicture c j (some (m % n)))

/-! ### Records -/

/-- A codec record (Table 14-8). -/
def Job.record (j : Job) (now : Nat) : List Byte :=
  leBytes 4 j.seq ++ leBytes 1 j.status ++ leBytes 1 j.picType ++ leBytes 2 0 ++ leBytes 8 (leAt j.entry 8 8) ++
    leBytes 8 j.started ++ leBytes 8 now ++ leBytes 4 j.bytes ++ leBytes 4 j.concealed ++ leBytes 4 j.clipped ++
    leBytes 4 j.order ++ leBytes 8 j.extra ++ leBytes 1 j.qp ++ List.replicate 7 0

/-- A release record (R466). -/
def releaseRecord (r : Nat × Nat) : List Byte :=
  leBytes 4 r.1 ++ leBytes 1 10 ++ List.replicate 3 0 ++ leBytes 8 r.2 ++ List.replicate 48 0

/-- The running job of a channel with its picture stored. -/
def State.finished (s : State) (c : Nat) : State := match s.job c with
  | some j => s.finishPicture c j none
  | none => s

/-- CODEC_JOB_END: the running job ends, a decoded picture stored; its records wait, the next job starts, the pipe may change mode
(R448, R464, R472, R474). -/
def execCodecJobEnd (ch : BitVec 5) (s : State) : Host.Outcome State Fault Refusal :=
  .next (let c := ch.toNat
    if !(s.job c).any Job.done then s
    else
    let s := s.finished c
    let v := s.channel c
    match v.jobs with
    | [] => s
    | j :: t =>
        let recs := j.releases.map (fun r => (releaseRecord r, false)) ++
          [(j.record s.now, (leAt j.entry 5 1).testBit 2)]
        let next := match t with | [] => [] | k :: u => { k with started := s.now } :: u
        let s := s.setChannel c { v with
          jobs := next, records := v.records ++ recs, forceRa := v.forceRa || j.status == 9 }
        if 8 ≤ c then s
        else if j.status = 9 then s.wantPipe (chanDie c) 2
        else s.settlePipe (chanDie c))

/-- CODEC_RECORD: the oldest waiting record is written when the ring has room, then its MSI-X message (R472). -/
def execCodecRecord (ch : BitVec 5) (s : State) : Host.Outcome State Fault Refusal :=
  .next (let c := ch.toNat
    let o := chanObj c
    let v := s.channel c
    match v.records with
    | [] => s
    | (r, msi) :: t =>
      if !s.p0Up || !s.recordRoom c || s.num 0x2000 1 != 1 then s
      else
        let s := s.setChannel c { v with written := (v.written + 1) % 2 ^ 32, records := t }
        let s := s.emit (.hostWrite (s.num o 7 + v.written % max (s.num o 8) 1 * 64) r)
        if msi then s.emit (.msix (s.num o 0x0A)) else s)

/-! ### Channels -/

/-- The largest luma picture of a level, 0 for a level that the standard does not define (Table 14-2; the levels of
H.265, AV1 and H.264: log entry 28). -/
def levelPicture (standard level : Nat) : Nat :=
  match standard with
  | 0 => match level with
    | 10 => 36864 | 20 => 122880 | 21 => 245760 | 30 => 552960 | 31 => 983040 | 40 | 41 => 2228224
    | 50 | 51 | 52 => 8912896 | 60 | 61 | 62 => 35651584 | _ => 0
  | 1 => match level with
    | 0 => 147456 | 1 => 278784 | 4 => 665856 | 5 => 1065024 | 8 | 9 => 2359296
    | 12 | 13 | 14 | 15 => 8912896 | 16 | 17 | 18 | 19 => 35651584 | _ => 0
  | _ => match level with
    | 10 => 25344 | 11 | 12 | 13 | 20 => 101376 | 21 => 202752 | 22 | 30 => 414720 | 31 => 921600 | 32 => 1310720
    | 40 | 41 => 2097152 | 42 => 2228224 | 50 => 5652480 | 51 | 52 => 9437184 | 60 | 61 | 62 => 35651584 | _ => 0

/-- The least reference area of an encode channel: three pictures of its level's largest size (Table 14-7). -/
def State.refLeast (s : State) (o : Nat) : Nat :=
  3 * (levelPicture (s.num o 0x0C) (s.num o 0x0E) * 3 / 2 * (if s.num o 0x0D = 0 then 1 else 2))

/-- The charges of a partition's channels with those of its ready images stay within its stack rate (R470, R471). -/
def State.codecFits (s : State) (p o : Nat) : Bool :=
  let all := HeldConfig.codecCharge ⟨s.dict⟩ p + s.num o 0x0B
  decide (all ≤ 24 * s.num (0x5200 + p) 1) &&
    (List.range 64).all fun k => s.num (0x4000 + k) 5 != 2 || s.num (0x4000 + k) 3 != p ||
      (List.range 24).all fun m => decide ((s.imageOf k).charges (fun _ => true) m + all ≤ 24 * s.num (0x5200 + p) 1)

/-- The first condition of the channel check that fails (R450): its code and the object blamed (R525). -/
def State.chanCheck (s : State) (c : Nat) : Option (Nat × Nat × Nat) :=
  let o := chanObj c
  let p := s.num o 2
  let w := 0x5700 + s.num o 0x15
  let share := s.num (0x5200 + p) 8
  if s.num 0x2000 1 ≠ 1 then some (0x0701, 0x2000, 1)
  else if s.num (0x2100 + p) 3 ≠ 1 then some (0x0701, o, 2)
  else if s.num o 3 % 4096 ≠ 0 then some (0x0702, o, 3)
  else if !s.inPool p (s.num o 3) (128 * s.num o 4) then some (0x0702, 0x5200 + p, 3)
  else if !pow2In (s.num o 4) 1 256 then some (0x0702, o, 4)
  else if s.num o 7 % 4096 ≠ 0 then some (0x0702, o, 7)
  else if !pow2In (s.num o 8) 16 4096 then some (0x0702, o, 8)
  else if msixVectors ≤ s.num o 0x0A then some (0x0702, o, 0x0A)
  else if c < 8 ∧ (63 < s.num o 0x15 ∨ s.num w 1 = 0) then
    (if 63 < s.num o 0x15 then some (0x0705, o, 0x15) else some (0x0705, w, 1))
  else if c < 8 ∧ (s.num o 0x16 < share ∨ share + s.num (0x5200 + p) 3 * 2 ^ 30 < s.num o 0x16 + s.num o 0x17) then
    some (0x0705, 0x5200 + p, 3)
  else if c < 8 ∧ s.num o 0x17 < s.refLeast o then some (0x0705, o, 0x0C)
  else if levelPicture (s.num o 0x0C) (s.num o 0x0E) = 0 ∨ (s.num o 0x0C = 2 ∧ (c < 8 ∨ s.num o 0x0D = 1)) then
    some (0x0704, o, 0x0C)
  else if c < 8 ∧ s.num o 0x14 = 1 ∧ s.num o 0x0C ≠ 0 then some (0x0706, o, 0x0C)
  else if !s.codecFits p o then some (0x0703, 0x5200 + p, 1)
  else none

/-- A write of 1 to chan_enable (R450). -/
def State.enableChan (s : State) (c : Nat) : State × Nat :=
  let o := chanObj c
  if s.num o 1 = 1 then (s, 0)
  else match s.chanCheck c with
  | some (code, b, sub) => (s.blame code b sub, code)
  | none =>
    let s := (s.setNum o 1 1).setNum o 6 (s.num o 5)
    ((s.modChannel c fun v => { v with recons := [], coder := 0, sinceRa := 0, bRun := 0 }).readEntry (4096 + c), 0)

/-- CHAN_ENABLE (R450). -/
def execChanEnable (path : Path) (ch : BitVec 5) (s : State) : Host.Outcome State Fault Refusal :=
  .next (if 24 ≤ ch.toNat then s else s.writeVia path (chanObj ch.toNat) 1 1 fun s => s.enableChan ch.toNat)

/-- A channel stops taking entries; its jobs complete (Table 14-10). -/
def State.disableChan (s : State) (c : Nat) : State := (s.setNum (chanObj c) 1 0).setWatch (4096 + c) .idle

/-- CHAN_DISABLE (R450). -/
def execChanDisable (path : Path) (ch : BitVec 5) (s : State) : Host.Outcome State Fault Refusal :=
  .next (if 24 ≤ ch.toNat then s else s.writeDo path (chanObj ch.toNat) 1 0 fun s => s.disableChan ch.toNat)

end Sys2Proof.Machine
end

