-- ==== Sys2Proof/Machine/Overlays.lean ====
section
/-! DEFINITION. RWS values and overlays (16_xemond_dictionary.md R511, R512, R529 to R534). -/

namespace Sys2Proof.Machine

/-! ### RWS objects -/

/-- The enabled partitions an object affects: its own, or all for a device-wide object (R529, R530). -/
def State.affected (s : State) (o : Nat) : List Nat :=
  if perPartition (o / 16 * 16) then s.enabledParts.filter (· == o % 16) else s.enabledParts

/-- What a direct write leaves in force for a partition until its next step boundary: the value before it (R511). -/
def State.holdOld (s : State) (o sub p : Nat) : State :=
  s.modPart p fun q =>
    if (tabGet none q.force (objKey o sub)).isSome then q
    else { q with force := tabSet none q.force (objKey o sub) (some (s.num o sub)) }

/-- A write of an RWS object: its base value, in force at the next step boundary of each partition it affects, at once
while the device is disabled (R511, R533). -/
def State.storeRws (s : State) (o sub v : Nat) : State :=
  let ps := s.affected o
  let before := s
  let s := if s.num 0x2000 1 = 1 then s.forEach ps fun s p => s.holdOld o sub p else s
  let s := s.setNum o sub v
  if s.num 0x2000 1 = 1 then s.forEach ps State.boundaryIfIdle else s.settleEnvelope.coolantFollows before

/-- POWER_ENVELOPE (R512, R50, R436). -/
def execPowerEnvelope (path : Path) (value : BitVec 8) (s : State) : Host.Outcome State Fault Refusal :=
  .next (s.writeDo path 0x2010 1 value.toNat fun s => s.storeRws 0x2010 1 value.toNat)

/-! ### Overlays -/

/-- The members a family object number names: the partition-0 member of a per-partition family, or another member (R529). -/
def otherMember (o : Nat) : Bool := perPartition (o / 16 * 16) && o % 16 != 0

/-- Entries a kind permits (Table 16-12). -/
def kindAllows (kind o sub v : Nat) (flag : Overlayable) : Bool :=
  match kind with
  | 1 => o == 0x2010 && sub == 1
  | 2 => o == 0x2020 && sub == 1 && v == 1
  | 3 => o == 0x6110 && sub == 4 && v == 1
  | 4 => o == 0x2020 && sub == 2 && v == 1
  | 7 => o == 0x8000 && sub == 1 && v == 1
  | 8 => o == 0x2012 && sub == 1 && v == 1
  | 9 => flag == .yes
  | _ => false

/-- True when an entry of slot `k` is permitted (R531 check 2). -/
def State.entryOk (s : State) (k : Nat) (e : List Byte) : Bool :=
  let o := leAt e 0 2
  let sub := leAt e 2 1
  let v := leAt e 8 8
  match (if sub = 0 then none else objRow o sub) with
  | none => false
  | some r =>
    let wide := !perPartition o
    zeroAt e 3 5 && !otherMember o && kindAllows (s.num (0x3000 + k) 1) o sub v r.ovl && numOk o sub r.ty v &&
      decide (v < 2 ^ (8 * objBytes o sub r.ty)) &&
      (!wide || (s.enabledMask ||| s.num (0x3000 + k) 2) == s.num (0x3000 + k) 2)

/-- True when a slot's entries are permitted. -/
def State.slotOk (s : State) (k : Nat) : Bool :=
  let b := s.blob (0x3000 + k) 3
  b.length % 16 == 0 && decide (16 ≤ b.length) && decide (b.length ≤ 512) &&
    (chunksOf 16 32 b).all (s.entryOk k)

/-- True when two slots, or two entries of one slot, set one object for one partition to different values (R531 check 3). -/
def State.slotsClash (s : State) (a b : Nat) : Bool :=
  (s.num (0x3000 + a) 2 &&& s.num (0x3000 + b) 2) != 0 &&
    (s.overlayEntries a).any fun x => (s.overlayEntries b).any fun y => x.1 == y.1 && x.2.1 == y.2.1 && x.2.2 != y.2.2

/-- The first check of R531 that a write of `overlay_apply` fails: its code and the object blamed (R525). -/
def State.overlayCheck (s : State) (v : Nat) : Option (Nat × Nat × Nat) :=
  let ap := setBits 16 v
  let rm := setBits 16 (v >>> 16)
  let st := fun (k : Nat) => s.num (0x3000 + k) 4
  let unusable := ap.any (rm.contains ·) || (ap ++ rm).any (fun k => decide (13 < k)) || ap.any (fun k => st k != 0) ||
    rm.any (fun k => st k != 2)
  let live := (((List.range 16).filter fun k => (st k == 1 || st k == 2) && !rm.contains k) ++ ap).dedup
  if unusable then some (0x0107, 0x3010, 1)
  else match ap.find? fun k => s.num (0x3000 + k) 1 == 0 with
  | some k => some (0x0107, 0x3000 + k, 1)
  | none => match ap.find? fun k => !s.slotOk k with
  | some k => some (0x0105, 0x3000 + k, 1)
  | none => match (List.range 16).find? fun k => live.contains k &&
      live.any fun j => (ap.contains j || ap.contains k) && s.slotsClash j k with
  | some k => some (0x0106, 0x3000 + k, 2)
  | none => match ap.find? fun k => (s.overlayEntries k).any fun e => e.1 == 0x2010 && e.2.1 == 1 && decide (s.num 0x2010 2 < e.2.2) with
  | some k => some (0x0901, 0x3000 + k, 3)
  | none => match ap.find? fun k => s.num (0x3000 + k) 1 == 8 && s.num 0x1000 3 == 0 with
  | some k => some (0x0902, 0x3000 + k, 1)
  | none => none

/-- A partition that is not enabled takes an accepted change at once (R532). -/
def State.takeNow (s : State) (c : Nat × Bool) (p : Nat) : State :=
  let o := 0x3000 + c.1
  (s.setNum o 6 (if c.2 then withBit (s.num o 6) p else withoutBit (s.num o 6) p)).reforce p

/-- A write of `overlay_apply`: checked, its slots pending, its changes taken at each partition's step boundary, at once
while disabled (R531, R532, Table 16-15). -/
def State.writeOverlays (s : State) (v : Nat) : State × Nat :=
  if s.num 0x2000 2 = 1 ∨ s.num 0x2000 2 = 4 then (s.blame 0x0103 0x3010 1, 0x0103)
  else match s.overlayCheck v with
  | some (code, o, sub) => (s.blame code o sub, code)
  | none =>
    let cs := ((setBits 16 v).map fun k => (k, true)) ++ (setBits 16 (v >>> 16)).map fun k => (k, false)
    let before := s
    let s := s.forEach cs fun s c => s.setNum (0x3000 + c.1) 4 (if c.2 then 1 else 3)
    let s := { s with overlays := s.overlays ++ cs }
    let off := (List.range 16).filter fun p => State.num s (0x2100 + p) 3 == 0
    let s := s.forEach cs fun s c => s.forEach ((setBits 16 (s.num (0x3000 + c.1) 2)).filter (off.contains ·)) fun s p => s.takeNow c p
    let s : State := s.settleOverlays
    let s : State := if s.num 0x2000 1 = 1 then s else s.settleEnvelope.coolantFollows before
    (s.forEach s.enabledParts State.boundaryIfIdle, 0)

/-- OVERLAY_APPLY: the apply half of a write of `overlay_apply` (R531). -/
def execOverlayApply (path : Path) (value : BitVec 32) (s : State) : Host.Outcome State Fault Refusal :=
  .next (s.writeVia path 0x3010 1 value.toNat fun s => s.writeOverlays value.toNat)

/-- OVERLAY_REMOVE: the remove half of a write of `overlay_apply` (R532). -/
def execOverlayRemove (path : Path) (value : BitVec 32) (s : State) : Host.Outcome State Fault Refusal :=
  .next (s.writeVia path 0x3010 1 value.toNat fun s => s.writeOverlays value.toNat)

end Sys2Proof.Machine
end

