-- ==== Sys2Proof/Machine/Enable.lean ====
section
/-! DEFINITION. Enabling and disabling the device (16_xemond_dictionary.md R524 to R528, R660; 15 R477; 20 R622). -/

namespace Sys2Proof.Machine

/-- `enable_status` changes, with its event (Table 20-2). -/
def State.enableStatus (s : State) (v : Nat) : State := (s.setNum 0x2000 2 v).raise (.of 0x17 s.conductorUnit v)

/-- The windows of a family (`0x5600` tier, `0x5700` export) that are not off. -/
def State.windowsOn (s : State) (fam : Nat) : List Nat := (List.range 64).filter fun w => s.num (fam + w) 1 != 0

/-- The fabric ports enabling trains (R524 step 2). -/
def State.portsWanted (s : State) : Nat :=
  (s.windowsOn 0x5700).foldl (fun m w => m ||| s.num (0x5700 + w) 0xA)
    ((s.windowsOn 0x5600).foldl (fun m w => m ||| s.num (0x5600 + w) 6) (s.num 0x6100 2))

/-- A fabric port trained, at 64 or 32 GT/s, or recorded as failed with its event (R477). -/
def State.trainPort (s : State) (n : Nat) (ok : Bool) : State :=
  let o := 0x6000 + n
  if ok then
    let rate := if Config.freeBool 60 s.freeCtr then 64 else 32
    ((s.drawn.setNum o 1 1).setNum o 2 rate).setNum o 3 16
  else (((s.setNum o 1 2).setNum o 2 0).setNum o 3 0).raise (.of 0x0C s.conductorUnit n)

/-- A fabric port in electrical idle. -/
def State.idlePort (s : State) (n : Nat) : State :=
  let o := 0x6000 + n
  ((s.setNum o 1 0).setNum o 2 0).setNum o 3 0

/-- The fabric ports. -/
def fabricPorts : List Nat := rangeFrom 1 7

/-! ### The configuration-consistency check -/

/-- The value in force of a device-wide object with the applied overlays. -/
def State.inForce (s : State) (o sub : Nat) : Nat := s.effDev o sub

/-- The park bound of a partition in ns, rounded up; none without a rate (R443). -/
def State.parkBound (s : State) (p : Nat) : Option Nat :=
  let g := parkGranules (popCount 64 (s.num (0x2100 + p) 1))
  let r := s.num (0x5200 + p) 1
  if r = 0 then none else some (3800 + ceilDiv (1000 * g) (24 * r))

/-- True when the partition's park area and bound are within their limits. -/
def State.parkOk (s : State) (p : Nat) : Bool :=
  let g := parkGranules (popCount 64 (s.num (0x2100 + p) 1))
  (match s.parkBound p with | some b => decide (b ≤ 400000) | none => false) &&
    decide (g * 256 + s.num (0x5200 + p) 6 * 2 ^ 30 + s.num (0x6110 + p) 2 * 2 ^ 20 ≤ s.num (0x5200 + p) 3 * 2 ^ 30)

/-- What every far target receives of a window: target (none for host memory), first far address, end (R323, R334). -/
def State.farRanges (s : State) (o : Nat) : List (Option Nat × Nat × Nat) :=
  let base := s.num o 2
  if s.num o 1 = 2 then [(none, base, base + s.num o 3)]
  else
    let ts := windowTargets (s.blob o 5)
    let pages := ceilDiv (s.num o 3) 4096
    ts.zipIdx.map fun (t, i) => (some (t % 4096), base, base + 4096 * (if i < pages then ceilDiv (pages - i) ts.length else 0))

/-- True when two windows overlap on a far target. -/
def State.windowsOverlap (s : State) (a b : Nat) : Bool :=
  (s.farRanges a).any fun x => (s.farRanges b).any fun y => x.1 == y.1 && decide (max x.2.1 y.2.1 < min x.2.2 y.2.2)

/-- The object of the first window an export window overlaps (R334). -/
def State.exportOverlap (s : State) : Option Nat :=
  (s.windowsOn 0x5700).findSome? fun w =>
    let others := ((s.windowsOn 0x5600).map (0x5600 + ·)) ++ ((s.windowsOn 0x5700).filter fun v => decide (v < w)).map (0x5700 + ·)
    others.find? fun o => s.windowsOverlap (0x5700 + w) o

/-- True when no target of a window can be reached (check 15, R495). -/
def State.windowLost (s : State) (o mask : Nat) : Bool :=
  if s.num o 1 = 2 then !s.p0Up
  else (s.blob o 5).isEmpty || !(setBits 8 (s.num o mask)).any fun n => n != 0 && s.num (0x6000 + n) 1 == 1

/-- The bucket rates every stack serves: C of R343 (R303, R660). -/
def State.bucketRates (s : State) : Nat :=
  let en := s.wantedParts
  s.sumOver en 0x5200 1 + s.sumOver en 0x5200 7 + s.num 0x5900 2

/-- The first two partitions that share a member of a mask object. -/
def State.shared (s : State) (o sub w : Nat) : Option Nat :=
  let en := s.wantedParts
  en.find? fun p => en.any fun q => decide (p < q) && (List.range w).any fun k =>
    (s.num (o + p) sub).testBit k && (s.num (o + q) sub).testBit k

/-- A check of Table 16-9: the object blamed when it fails, its subindex. -/
abbrev Blamed := Option (Nat × Nat)

/-- A check of a condition that blames one object. -/
def blameIf (c : Bool) (o sub : Nat) : Blamed := if c then some (o, sub) else none

/-- A check that blames the first partition or window, of family `o`, that fails it. -/
def blameFirst (l : List Nat) (f : Nat → Bool) (o sub : Nat) : Blamed := (l.find? f).map fun k => (o + k, sub)

/-- The checks of Table 16-9 in order, each with its code. -/
def State.enableChecks (s : State) : List (Nat × Blamed) :=
  let en := s.wantedParts
  let first := en.headD 0
  let tiers := s.windowsOn 0x5600
  let rings := s.windowsOn 0x5700
  let low := if en.isEmpty then (match rings with | w :: _ => (0x5700 + w, 4) | [] => (0x5800, 1)) else (0x5200 + first, 3)
  let total := (s.num 0x5800 1 + s.sumOver en 0x5200 3 + s.num 0x5900 1) * 2 ^ 30 +
    (rings.map fun w => s.num (0x5700 + w) 4 * 2 ^ 20).sum
  [(0x0B01, blameIf (s.num 0x1010 2 == 0) 0x2000 1),
   (0x0801, blameIf (s.lifecycle == 0 || s.lifecycle == 4) 0x2000 1),
   (0x0901, blameIf (decide (s.num 0x2010 2 < s.inForce 0x2010 1)) 0x2010 1),
   (0x0902, blameIf (s.inForce 0x2012 1 == 1 && s.num 0x1000 3 == 0) 0x2012 1),
   (0x0903, blameIf ((f32 (s.num 0x8E10 1)).lt (fInt 40) || (FVal.fin false 119 (-1)).lt (f32 (s.num 0x8E10 1))) 0x2000 1),
   (0x0201, (s.shared 0x2100 1 64).map fun p => (0x2100 + p, 1)),
   (0x0202, blameFirst en (fun p => (s.partClusters p).all s.clusterFenced) 0x2100 1),
   (0x0203, blameFirst en (fun p => s.num (0x5200 + p) 3 == 0) 0x5200 3),
   (0x0220, blameFirst en (fun p => !s.parkOk p) 0x2100 1),
   (0x0301, if 62 < s.num 0x5000 1 then some (0x5000, 1) else (s.shared 0x5200 4 24).map fun p => (0x5200 + p, 4)),
   (0x0302, blameIf (decide (s.spreadBytes < total)) low.1 low.2),
   (0x0303, blameIf ((List.range 24).any fun k =>
      decide ((if s.num 0x5330 (sub1 k) = 1 then 5794 else 6184) < s.bucketRates))
      (if en.isEmpty then 0x5900 else 0x5200 + first) (if en.isEmpty then 2 else 1)),
   (0x0304, if s.num 0x5800 1 < 64 ∨ 512 < s.num 0x5800 1 then some (0x5800, 1)
      else blameIf (decide (s.num 0x5800 1 < s.sumOver en 0x5200 5)) (0x5200 + first) 5),
   (0x0305, s.exportOverlap.map fun o => (o, 1)),
   (0x0306, blameFirst tiers (fun w => s.windowLost (0x5600 + w) 6) 0x5600 1 <|>
      blameFirst rings (fun w => s.windowLost (0x5700 + w) 0xA) 0x5700 1),
   (0x0307, blameIf (decide (1024 < s.num 0x5900 1)) 0x5900 1),
   (0x030B, blameFirst rings (fun w => s.num (0x5700 + w) 4 == 0 || decide (4096 < s.num (0x5700 + w) 4)) 0x5700 4),
   (0x030C, blameIf (decide (64 < s.sumOver en 0x5200 9)) (0x5200 + first) 9),
   (0x0606, blameIf (decide (48 < s.sumOver en 0x6110 1)) (0x6110 + first) 1),
   (0x0607, blameFirst en (fun p => decide (s.num (0x5200 + p) 3 * 1024 < s.num (0x6110 + p) 2 + s.num (0x5200 + p) 6 * 1024)) 0x5200 3),
   (0x0703, blameFirst en (fun p => decide (24 * s.num (0x5200 + p) 1 < HeldConfig.codecCharge ⟨s.dict⟩ p)) 0x5200 1),
   (0x0A03, blameIf ((List.range 64).any (fun k => (s.imageOf k).colls.any fun e => e.ranks.any (· != s.moduleId)) &&
      (s.num 0x6100 8 == 0 || s.num 0x6100 8 % 2 ^ 44 != 0)) 0x6100 8)]

/-- The first check that fails. -/
def State.enableCheck (s : State) : Option (Nat × Nat × Nat) :=
  s.enableChecks.findSome? fun c => c.2.map fun b => (c.1, b.1, b.2)

/-! ### The base configuration (R528) -/

/-- True for the objects that the base configuration leaves out. -/
def notBase (o : Nat) : Bool :=
  (decide (0x3000 ≤ o) && decide (o ≤ 0x300F)) || (decide (0x4000 ≤ o) && decide (o ≤ 0x403F)) ||
    (decide (0x7100 ≤ o) && decide (o ≤ 0x7107)) || (decide (0x7200 ≤ o) && decide (o ≤ 0x720F)) || decide (0xC000 ≤ o)

/-- The keys of the subindices of the base configuration, ascending. -/
def baseKeys : List Nat :=
  let ks := (objRows.filter fun r => (r.acc == .rwd || r.acc == .rws) && !notBase r.lo).flatMap fun r =>
    (rangeFrom r.lo (r.hi + 1 - r.lo)).flatMap fun o => (rangeFrom r.sub0 (r.sub1 + 1 - r.sub0)).map (objKey o ·)
  (ks.foldl (fun (t : Tab Unit) k => tabInsert t k ()) []).map (·.1)

/-- The record of one subindex. -/
def State.baseRecord (s : State) (k : Nat) : List Byte :=
  let o := k / 256
  let sub := k % 256
  match objRow o sub with
  | none => []
  | some r =>
    let v := match r.ty with
      | .blob | .str => let b := s.readBlob .fmApi o sub; leBytes 4 b.length ++ b
      | t => leBytes (objBytes o sub t) (s.num o sub)
    leBytes 2 o ++ leBytes 1 sub ++ leBytes 1 r.ty.code ++ leBytes 4 v.length ++ v

/-- `base_digest`. -/
def State.baseDigest (s : State) : List Byte := sha256 (baseKeys.flatMap s.baseRecord)

/-! ### Enabling -/

/-- Slot 15 at enabling: every stack with two retired channels (R622). -/
def State.enableSlot15 (s : State) : State :=
  let ks := (List.range 24).filter fun k => decide (2 ≤ (s.stack k).retired.length)
  if ks.isEmpty then s
  else
    let s := s.forEach ks fun s k => s.setNum 0x5330 (sub1 k) 1
    s.deviceSlot 15 5 (ks.map fun k => (0x5330, sub1 k)) (2 ^ 16 - 1)

/-- Slots 14 and 15 applied to every partition that has become enabled (R534, R622). -/
def State.renewSlots (s : State) : State :=
  let s := s.settleSlot14
  if s.num 0x300F 4 = 0 then s
  else s.deviceSlot 15 5 (s.degradedStacks.map fun k => (0x5330, sub1 k)) (2 ^ 16 - 1)

/-- Slot 15 and its objects cleared. -/
def State.dropSlot15 (s : State) : State :=
  if s.num 0x300F 4 = 0 then s
  else (s.forEach (List.range 24) fun s k => s.setNum 0x5330 (sub1 k) 0).clearSlot 15

/-- What enabling derives for the partitions (R292, R336, R343, R443, R482). -/
def State.derive (s : State) : State :=
  let en := s.wantedParts
  let s := s.forEach (List.range 16) fun s p =>
    (s.setNum (0x5200 + p) 8 (s.shareBase p)).setNum 0x6010 (p + 1) (s.sumOver (en.filter fun q => decide (q < p)) 0x5200 6 * 2 ^ 30)
  let s := s.forEach en fun s p => s.setNum (0x4100 + p) 1 ((s.parkBound p).getD 0)
  let s := s.setNum 0x5900 3 s.lendBase
  s.forEach (List.range 24) fun s k => s.setNum 0x5A00 (sub1 k) ((14000 - s.bucketRates) / 64)

/-- The device enabled (R524 step 4). -/
def State.enableNow (s : State) : State :=
  let s := s.derive
  let s := s.setBlob 0x2001 1 s.baseDigest
  let s := s.forEach s.wantedParts fun s p => s.setNum (0x2100 + p) 3 1
  let s := s.forEach (List.range 4) fun s d => s.calibrate d
  let s := (s.renewSlots.setNum 0x2000 1 1).enableStatus 2
  s.forEach s.enabledParts State.boundaryIfIdle

/-- A write of 1 to device_enable: ports trained (bit n of `trained`: port Pn would), the checks, enabled or refused (R524,
R525, R527). -/
def State.enableDevice (s : State) (trained : Nat) : State × Nat :=
  if s.num 0x2000 2 = 1 ∨ s.num 0x2000 2 = 4 then (s.blame 0x0103 0x2000 1, 0x0103)
  else if s.num 0x2000 1 = 1 then (s, 0)
  else
    let s := s.enableStatus 1
    let up := (fabricPorts.filter fun n => s.portsWanted.testBit n && s.num (0x6000 + n) 1 != 1)
    let s := s.forEach up fun s n => s.trainPort n (trained.testBit n)
    let s := s.enableSlot15
    match s.enableCheck with
    | none => (s.enableNow, 0)
    | some (code, o, sub) =>
      let s := s.forEach (up.filter fun n => trained.testBit n) State.idlePort
      ((s.dropSlot15.blame code o sub).enableStatus 3, code)

/-- DEVICE_ENABLE (R524). -/
def execDeviceEnable (path : Path) (trained : BitVec 8) (s : State) : Host.Outcome State Fault Refusal :=
  .next (s.writeVia path 0x2000 1 1 fun s => s.enableDevice trained.toNat)

/-- A write of 0 to device_enable: work is no longer taken (R526, R527). -/
def State.disableDevice (s : State) : State × Nat :=
  if s.num 0x2000 2 = 1 ∨ s.num 0x2000 2 = 4 then (s, 0x0103)
  else if s.host.dec0.committed || s.host.dec1.committed then (s, 0x0A05)
  else if s.num 0x2000 1 = 0 then (s, 0)
  else
    let s := s.forEach s.enabledParts fun s p => s.setNum (0x2100 + p) 3 2
    (s.enableStatus 4, 0)

/-- DEVICE_DISABLE (R526). -/
def execDeviceDisable (path : Path) (s : State) : Host.Outcome State Fault Refusal :=
  .next (s.writeVia path 0x2000 1 0 State.disableDevice)

/-- True when every accepted step and every codec job has completed. -/
def State.drained (s : State) : Bool :=
  ((List.range 16).all fun p => (s.part p).steps.isEmpty) && (List.range 24).all fun c => (s.channel c).jobs.isEmpty

/-- Enabled state ends: enables 0, slots empty, group counters and instances reset (R375), ports idle, changes that waited
taken (R526, Table 16-15). -/
def State.disableNow (s : State) : State :=
  let before := s
  let s := s.forEach (s.clients.map (·.1)) fun s n => if s.num (clientObj n) 1 = 1 then s.disableClient n else s
  let s := s.forEach (List.range 24) State.disableChan
  let s := s.forEach (List.range 64) State.emptySlot
  let s := s.forEach (List.range 16) fun s p => (s.modPart p fun q => { q with groupSeq := [] }).setNum (0x2100 + p) 3 0
  let s := { s with coll := .idle, tier := [], fills := [] }
  let s := s.forEach fabricPorts State.idlePort
  let s := (s.setDecoder 0 .idle).setDecoder 1 .idle
  let s := s.setNum 0x2000 1 0
  let s := s.forEach s.overlays fun s c => s.forEach (setBits 16 (s.num (0x3000 + c.1) 2)) fun s p => s.takeNow c p
  let s := (s.forEach (List.range 16) State.reforce).settleOverlays
  (s.dropSlot15.settleEnvelope.coolantFollows before).enableStatus 0

/-- DISABLE_COMPLETE (R526). -/
def execDisableComplete (s : State) : Host.Outcome State Fault Refusal :=
  .next (if s.num 0x2000 2 = 4 ∧ s.drained then s.disableNow else s)

end Sys2Proof.Machine
end

