-- ==== Sys2Proof/Machine/Firmware.lean ====
section
/-! DEFINITION. The signature check of the boot ROM, RSASSA-PSS of RFC 8017, and the verification of a firmware stage (18_security.md
R565 to R568, Table 18-1). -/

namespace Sys2Proof.Machine

/-- `b` to the power whose bits from bit `k - 1` down to bit 0 of `e` are given, modulo `n`, `acc` the power of the bits above. -/
def powModFrom (n b e : Nat) : Nat → Nat → Nat
  | 0, acc => acc
  | k + 1, acc => powModFrom n b e k (let sq := acc * acc % n; if e.testBit k then sq * b % n else sq)

/-- `b` to the power `e`, of 32 bits, modulo `n`. -/
def powMod (n b e : Nat) : Nat := powModFrom n (b % n) e 32 (1 % n)

/-- The first `n` bytes of MGF1 with SHA-256 over a seed. -/
def mgf1 (seed : List Byte) (n : Nat) : List Byte :=
  ((List.range (ceilDiv n 32)).flatMap fun i => sha256 (seed ++ beBytes 4 i)).take n

/-- EMSA-PSS verification of an encoded message of `emBits` bits over a digest: SHA-256, MGF1 with SHA-256, a salt of 32 bytes (R565
step 4). -/
def pssEncodes (em digest : List Byte) (emBits : Nat) : Bool :=
  let emLen := ceilDiv emBits 8
  let n := emLen - 33
  let masked := em.take n
  let h := (em.drop n).take 32
  let unused := 8 * emLen - emBits
  let plain := (masked.zip (mgf1 h n)).map fun x => x.1 ^^^ x.2
  let db := match plain with
    | [] => []
    | b :: t => BitVec.ofNat 8 (b.toNat % 2 ^ (8 - unused)) :: t
  decide (em.length = emLen) && decide (66 ≤ emLen) && em.getLast? == some 0xBC &&
    decide ((masked.headD 0).toNat < 2 ^ (8 - unused)) && (db.take (n - 33)).all (· == 0) && db[n - 33]? == some 0x01 &&
    decide (sha256 (List.replicate 8 0 ++ digest ++ db.drop (n - 32)) = h)

/-- RSASSA-PSS verification under a modulus and an exponent, the modulus and the signature big-endian octet strings (R565, R568). -/
def pssVerifies (modulus : List Byte) (exponent : Nat) (digest signature : List Byte) : Bool :=
  let n := beNat modulus
  let x := beNat signature
  let bits := Nat.log2 n
  decide (x < n) && decide (signature.length = modulus.length) &&
    (let m := powMod n x exponent
     decide (m < 2 ^ (8 * ceilDiv bits 8)) && pssEncodes (beBytes (ceilDiv bits 8) m) digest bits)

/-- The fused hash of key slot `k`. -/
def slotHash (k : Nat) : List Byte := (List.range 32).map (Config.rootKeyHash k)

/-- True when the key and the signature of a header or token check: the slot not revoked, the key's hash fused in it, the
signature over bytes 0x000 to 0x1FF (R565 steps 2 to 4). -/
def State.keySigned (s : State) (b : List Byte) (keySlot : Nat) : Bool :=
  decide (keySlot < 4) && !(s.num 0xA000 1).testBit keySlot && decide (sha256 (slice b 0x40 388) = slotHash keySlot) &&
    pssVerifies (slice b 0x40 384) (leAt b 0x1C0 4) (sha256 (slice b 0 0x200)) (slice b 0x200 384)

/-- True when a stage image verifies against the fuses: its header's key and signature, its body, its version (R565, R566, Table
18-1). -/
def State.stageVerifies (s : State) (b : List Byte) (stage : Nat) : Bool :=
  decide (1024 ≤ b.length) && leAt b 0 4 == 0x57464850 && leAt b 4 1 == stage && s.keySigned b (leAt b 5 1) &&
    leAt b 0x10 4 == b.length - 1024 && decide (sha256 (b.drop 1024) = slice b 0x20 32) &&
    decide (s.num 0xA000 3 ≤ leAt b 0xC 4) && decide (leAt b 0xC 4 ≤ 63)

/-- True when a copy of a stage boots: it verifies. What a module is shipped with, which the manual does not print, is signed under
its key slot (log entry 132). -/
def State.copyBoots (s : State) (stage : Nat) (f : FwCopy) : Bool :=
  f.present && (if f.image = [] then !(s.num 0xA000 1).testBit f.keySlot && decide (s.num 0xA000 3 ≤ f.security)
    else s.stageVerifies f.image stage)

/-- The number of the copy of a stage that boots, tried from `first`: copy A, unless a verified update has written copy B, which then
runs (R565, R569; log entry 131). -/
def State.bootCopy (s : State) (stage : Nat) (cs : List FwCopy) (first : Nat) : Option Nat :=
  [first, 1 - first].find? fun k => match cs[k]? with | some f => s.copyBoots stage f | none => false

end Sys2Proof.Machine
end

