-- ==== Sys2Proof/Machine/Power.lean ====
section
/-! DEFINITION. Bring-up, boot verification, test strips and the reset classes (17_bringup_reset_selftest.md R536 to R564,
R657; 18 R565 to R567; 21 R640), requested fences (20 R618, R624). -/

namespace Sys2Proof.Machine

/-! ### What a reset keeps (R552, R553, Table 17-5) -/

/-- The classes of reset that end in bring-up: cold, input loss and wake, warm. -/
inductive ResetClass where
  | cold
  | input
  | warm
deriving DecidableEq, Repr

/-- Objects held in the nonvolatile store or in fuses. -/
def nonvolatile (k : Nat) : Bool :=
  let o := k / 256
  let sub := k % 256
  o == 0x1000 || o == 0x5510 || o == 0xA020 || k == objKey 0x1010 1 || k == objKey 0x5500 1 || k == objKey 0xA000 1 ||
    k == objKey 0xA000 3 || (o == 0xA100 && sub == 4)

/-- Objects held in the retained SRAM: the reset and safelight objects, counters from cold reset, histories. -/
def retained (k : Nat) : Bool :=
  let o := k / 256
  let sub := k % 256
  o == 0x9001 || o == 0x9002 || (decide (0x8010 ≤ o) && decide (o ≤ 0x8061)) || (decide (0x8400 ≤ o) && decide (o ≤ 0x840F)) ||
    (decide (0x8500 ≤ o) && decide (o ≤ 0x873F)) || o == 0x8F00 || (decide (0xC000 ≤ o) && decide (0xF ≤ sub) && decide (sub ≤ 0x13)) ||
    o == 0x5A02 || o == 0x5A03 || k == objKey 0x8120 4 || k == objKey 0x9140 4 || k == objKey 0xB000 4 ||
    (o == 0xB0F0 && decide (4 ≤ sub)) || o == 0xB300 || k == objKey 0x9200 5

/-- Readings of the supplies and the coolant, which no reset changes. -/
def sensor (k : Nat) : Bool := k / 256 == 0x8E10

/-- What a reset leaves of an M-die: its retirements, and on a warm reset the journal of its migration (R321, R554). -/
def Stack.afterReset (m : Stack) (c : ResetClass) : Stack :=
  if c = .warm then
    { Stack.idle with retired := m.retired, moved := m.moved, migrating := m.migrating, waiting2 := m.waiting2 }
  else { Stack.idle with retired := m.retired }

/-- Fresh bytes in `lc_nonce` (R582). -/
def State.newNonce (s : State) : State := (s.setBlob 0xA100 3 (s.freeBytes 62 16)).drawn

/-- The machine after a reset of a class, before bring-up: every object at its default but for what the class keeps,
everything volatile cleared. -/
def State.cleared (s : State) (c : ResetClass) : State :=
  let keep := fun (k : Nat) => nonvolatile k || sensor k || (c != .cold && retained k)
  let s' : State := { State.reset with
    pending := s.pending, out := s.out, freeCtr := s.freeCtr
    now := if c = .cold then 0 else s.now
    eventSeq := if c = .cold then 0 else s.eventSeq
    dict := s.dict.filter fun e => keep e.1
    blobs := s.blobs.filter fun e => keep e.1
    dram := if c = .warm then s.dram else .empty
    power := { s.power with
      round := none, testing := [], requested := none, failed := c != .cold && s.power.failed, warm := c == .warm }
    security := { s.security with active1 := none, active2 := none, sessions := [], ide := [], ideSession := [] } }
  let s' := s'.forEach s.hbm fun t e => t.setStack e.1 (e.2.afterReset c)
  let s' := if c = .warm then s'.forEach (List.range 24) fun t k => t.setNum 0x5520 (sub1 k) (s.num 0x5520 (sub1 k)) else s'
  s'.newNonce

/-! ### Pins -/

/-- The FAULT pin driven. -/
def State.faultPin (s : State) (v : Bool) : State :=
  if s.power.fault = v then s else { s with power := { s.power with fault := v } }.emit (.pin "FAULT" v)

/-- The PWRGD pin driven (R537). -/
def State.pwrgdPin (s : State) (v : Bool) : State :=
  if s.power.pwrgd = v then s else { s with power := { s.power with pwrgd := v } }.emit (.pin "PWRGD" v)

def State.phaseTo (s : State) (p : Phase) : State := { s with power := { s.power with phase := p } }

/-! ### Bring-up (R537, R540, R551) -/

/-- The envelope that the ENV straps set (R640). -/
def strapEnvelope (env : Nat) : Nat := if env = 0 then 1 else env

/-- Bring-up from t0, or from the verification step of a warm reset: the firmware verified, the conductor's lease taken, the
fixed set due; with no firmware FAULT and nothing more (R537, R540, R551). -/
def State.bringUp (s : State) : State :=
  let s := ((s.phaseTo .bringUp).pwrgdPin true).setNum 0x2010 2 (strapEnvelope s.power.env)
  match s.bootCopy 1 s.security.stage1 s.security.first1, s.bootCopy 2 s.security.stage2 s.security.first2 with
  | some a, some b =>
    if s.power.failed then s.faultPin true
    else
      let f := s.security.stage1.getD a .factory
      let s := { s with security := { s.security with
        active1 := some a, active2 := some b, running1 := f, running2 := s.security.stage2.getD b .factory } }
      let s := ((s.setNum 0xA000 5 a).setNum 0x1000 6 f.version).faultPin false
      let s := ((s.setNum 0x9200 1 0).setNum 0x9200 2 1).setNum 0x9200 3 0xF
      let r : TokenReg := ⟨0, 1, false, leaseNs⟩
      let s := { s with
        conductor := { regs := [r, r, r], inOffice := true, acks := [], claim := none }
        power := { s.power with round := some 0 } }
      s.raise (.of 0x16 s.conductorUnit (2 ^ 16 + 3 * 2 ^ 32))
  | _, _ => { s with power := { s.power with failed := true } }.faultPin true

/-! ### Resets that end in bring-up -/

/-- The record of a reset's cause (Table 17-8). -/
def State.resetNote (s : State) (cause at_ : Nat) : State := (s.setNum 0xB0F0 4 cause).setNum 0xB0F0 6 at_

/-- A warm reset (R551): stacks and safelight domain kept, everything else reset. -/
def State.warmReset (s : State) (cause : Nat) : State := ((s.cleared .warm).resetNote cause s.now).bringUp

/-- Bring-up when the 48 V input is in range, otherwise a wait for it (R564). -/
def State.upOrWait (s : State) : State := if s.power.supplyOk then s.bringUp else (s.phaseTo .auxOnly).pwrgdPin false

/-- The straps read (R640). -/
def State.latch (s : State) : State := { s with power := { s.power with env := s.power.envPin, mid := s.power.midPin } }

/-- A cold reset by request (R552, R657). -/
def State.coldReset (s : State) (cause : Nat) : State := (((s.cleared .cold).latch).resetNote cause 0).upOrWait

/-- A write of 1 to a reset object: refused unless the device is disabled and idle (R559); the path is answered first. -/
def State.writeReset (s : State) (path : Path) (o sub v : Nat) (check : State → Nat) (op : State → State) : State :=
  if !s.serves then s.hold (.number path o sub v)
  else
    match s.writeCode path o sub v with
    | 0 =>
      let c := check s
      let s := (s.xwNote path o sub 2 1 0 c (leBytes 1 v)).reply path c []
      if c = 0 then op s else s
    | c => (s.xwNote path o sub 2 1 0 c (leBytes 1 v)).reply path c []

/-- The condition of R559. -/
def State.resetCheck (s : State) : Nat := if s.num 0x2000 1 = 0 ∧ s.num 0x2000 2 = 0 then 0 else 0x0103

/-- WARM_RESET (R551, R559). -/
def execWarmReset (path : Path) (s : State) : Host.Outcome State Fault Refusal :=
  .next (s.writeReset path 0xB0F0 1 1 State.resetCheck fun s => s.warmReset 4)

/-- COLD_RESET (R552, R559). -/
def execColdReset (path : Path) (s : State) : Host.Outcome State Fault Refusal :=
  .next (s.writeReset path 0xB0F0 2 1 State.resetCheck fun s => s.coldReset 1)

/-- Sleep: everything but the safelight domain is off (R562). -/
def State.toSleep (s : State) : State :=
  let s' := s.cleared .input
  (s'.phaseTo .asleep).pwrgdPin false

/-- SLEEP (R559, R562). -/
def execSleep (path : Path) (s : State) : Host.Outcome State Fault Refusal :=
  .next (s.writeReset path 0xB0F0 3 1 State.resetCheck State.toSleep)

/-- True while the module is awake. -/
def State.awake (s : State) : Bool := s.power.phase == .bringUp || s.power.phase == .running

/-- PERST_ASSERT: a warm reset of an awake module (Table 17-5). -/
def execPerstAssert (s : State) : Host.Outcome State Fault Refusal :=
  .next (if s.power.perst then s
    else
      let s := { s with power := { s.power with perst := true } }
      if s.awake then s.warmReset 3 else s)

/-- True when a voltage (FP32) lies in a range. -/
def voltsIn (v : Nat) (lo hi : FVal) : Bool :=
  let x := f32 v
  !x.isNan && !x.lt lo && !hi.lt x

/-- The 48 V input in range (Table 21-4), the auxiliary rail in range (Table 21-5). -/
def supplyIn (v : Nat) : Bool := voltsIn v (fInt 38) (FVal.fin false 121 (-1))
def auxIn (v : Nat) : Bool := voltsIn v (f32 0x412CCCCD) (f32 0x41533333)

/-- POWER_UP: the levels of the supplies and straps; what comes into range starts the safelight domain, reads the straps, or
starts bring-up (R536, R537, R564, R640). -/
def execPowerUp (supply aux : BitVec 32) (env : BitVec 2) (mid : BitVec 4) (s : State) : Host.Outcome State Fault Refusal :=
  .next (let ok := supplyIn supply.toNat
    let s := { s with power := { s.power with envPin := env.toNat, midPin := mid.toNat } }
    if s.power.phase = .off ∧ !auxIn aux.toNat then { s with power := { s.power with supplyOk := ok } }
    else
      let s := (s.setNum 0x8E10 1 supply.toNat).setNum 0x8E10 3 aux.toNat
      match s.power.phase with
      | .off => ((({ s with power := { s.power with supplyOk := ok } } : State).latch).newNonce).upOrWait
      | .auxOnly => ({ s with power := { s.power with supplyOk := ok } } : State).upOrWait
      | .asleep => { s with power := { s.power with supplyOk := ok } }
      | .bringUp | .running => s)

/-- AUX_RAIL_LOSS: the safelight domain loses its supply: a cold reset, and nothing runs until the rail returns (R536,
Table 17-9). -/
def execAuxRailLoss (s : State) : Host.Outcome State Fault Refusal :=
  .next (if s.power.phase = .off then s
    else (((((s.cleared .cold).resetNote 0 0).phaseTo .off).pwrgdPin false).faultPin false))

/-- INPUT_LOSS: the 48 V input leaves its range; no effect in sleep but that wake waits for it (R537, R554, Table 21-11). -/
def execInputLoss (s : State) : Host.Outcome State Fault Refusal :=
  .next (let t := s.now
    let s := { s with power := { s.power with supplyOk := false } }
    if !s.awake then s
    else (((s.cleared .input).resetNote 2 t).phaseTo .auxOnly).pwrgdPin false)

/-! ### Safelight comparators -/

/-- Wake from sleep (R563, R564). -/
def State.wake (s : State) : State := ((s.cleared .input).resetNote 8 s.now).upOrWait

/-- A comparator trips (R563). -/
def State.comparator (s : State) (k : Nat) : State :=
  if s.power.phase = .off ∨ (k < 4 ∧ s.num 0xB300 (k + 1) = 0) then s
  else
    let wakes := s.power.phase == .asleep && (s.num 0xB300 8).testBit k
    let faults := (s.num 0xB300 9).testBit k
    if !wakes && !faults then s
    else
      let s := s.setNum 0xB300 0xA (withBit (s.num 0xB300 0xA) k)
      let s := if wakes then s.wake else s
      if faults then s.faultPin true else s

/-- COMPARATOR_TRIP (R563). -/
def execComparatorTrip (k : BitVec 3) (s : State) : Host.Outcome State Fault Refusal := .next (s.comparator k.toNat)

/-- PERST_DEASSERT: the wake comparator trips; P0 begins to train (R538, Table 17-7). -/
def execPerstDeassert (s : State) : Host.Outcome State Fault Refusal :=
  .next (if s.power.perst then ({ s with power := { s.power with perst := false } } : State).comparator 7 else s)

/-- A read of wake_cause served: the tripped comparators, which it clears. -/
def State.readWake (s : State) (path : Path) : State :=
  if !s.serves then s.hold (.read path 0xB300 0xA 0)
  else match s.readCode 0xB300 0xA with
  | 0 =>
    let d := leBytes 1 (s.num 0xB300 0xA)
    ((s.setNum 0xB300 0xA 0).xwNote path 0xB300 0xA 1 0 0 0 d).reply path 0 d
  | c => (s.xwNote path 0xB300 0xA 1 0 0 c []).reply path c []

/-- WAKE_CAUSE_READ (R563). -/
def execWakeCauseRead (path : Path) (s : State) : Host.Outcome State Fault Refusal := .next (s.readWake path)

/-- RETAIN_REGIONS: a write of 0 ends the retention; 1 is refused by the object's range (R561). -/
def execRetainRegions (path : Path) (value : BitVec 8) (s : State) : Host.Outcome State Fault Refusal :=
  .next (s.writeDo path 0xB0F0 5 value.toNat fun s => s.setNum 0xB0F0 5 0)

/-! ### Test strips -/

/-- The regions of round `k` (Tables 17-2 and 17-3). -/
def roundRegions (k : Nat) : List Nat :=
  ([2 * k, 2 * k + 1, 2 * k + 8, 2 * k + 9].flatMap fun d => rangeFrom (5 * d) 5) ++
    (rangeFrom (3 * k) 3 ++ rangeFrom (3 * k + 12) 3).map (80 + ·) ++ [104 + k] ++
    [2 * k, 2 * k + 1, 2 * k + 8, 2 * k + 9].map (108 + ·) ++ [124 + k]

/-- The cluster that a region is, if it is one. -/
def regionCluster (r : Nat) : Option Nat := if r < 80 ∧ r % 5 < 4 then some (4 * (r / 5) + r % 5) else none

/-- The region of a cluster. -/
def clusterRegion (k : Nat) : Nat := 5 * (k / 4) + k % 4

/-- The edge-port link layers of a die at zero; a port keeps its place in service (R545; log entry 140). -/
def State.testLinks (s : State) (d : Nat) : State :=
  s.forEach (List.range (portCount d)) fun s n => s.setLink d n { LinkSt.idle with state := (s.link d n).state }

/-- An M-die after its test strip: its units' buffers, queues and records at zero; what firmware keeps of the stack stays (R545). -/
def Stack.tested (m : Stack) : Stack :=
  { m with trainFails := [], training := none, ceLog := [], ueLog := [], scrub := [], cmds := [], buckets := []
           film := { Film.off with zero := m.film.zero } }

/-- A codec channel after the test strip of its S-die: its cores and its pipe at zero (R545). -/
def Channel.tested (c : Channel) : Channel :=
  { c with forceRa := false, prev := none, refs := [], recons := [], coder := 0, sinceRa := 0, bRun := 0 }

/-- A test strip leaves what it tests at zero: a cluster; the links of a C-die or B-die, with the packets of a B-die's router; an
M-die, whose DRAM sample is put back as it was; the codec of an S-die (Table 17-2, R545, R546). -/
def State.testRegion (s : State) (r : Nat) : State :=
  match regionCluster r with
  | some k => (s.forEach (rangeFrom (9 * k) 9) fun t pc => t.modCore pc Core.reset).setCluster k .idle
  | none =>
    if r < 80 then s.testLinks (r / 5)
    else if r < 104 then s.modStack (r - 80) Stack.tested
    else if r < 108 then s
    else if r < 124 then
      let d := bDie (r - 108)
      { s.testLinks d with packets := s.packets.filter fun x => x.die != d }
    else s.forEach ((List.range 24).filter fun c => chanDie c == r - 124) fun s c => s.modChannel c Channel.tested

/-- STRIP_ROUND: the next round of the fixed set starts (R541, R546). -/
def execStripRound (s : State) : Host.Outcome State Fault Refusal :=
  .next (match s.power.round with
    | some k =>
      if s.power.phase ≠ .bringUp ∨ 4 ≤ k ∨ !s.power.testing.isEmpty then s
      else
        let s := if k = 0 then s.setNum 0xB000 4 ((s.num 0xB000 4 + 1) % 2 ^ 32) else s
        ({ s with power := { s.power with round := some (k + 1), testing := roundRegions k } } : State).holdPipe k
    | none => s)

/-- The result of a region's test strip: 1 passed, 2 failed, 3 aborted; the fail map follows it (R543, Table 17-4). -/
def State.stripResult (s : State) (r result : Nat) : State :=
  let o := 0xB100 + r
  let s := (s.setNum o 3 result).setNum o 4 s.now
  let sub := if r < 64 then 2 else 3
  s.setNum 0xB000 sub (if result = 1 then withoutBit (s.num 0xB000 sub) (r % 64) else withBit (s.num 0xB000 sub) (r % 64))

/-- The end of the fixed set: release (R539, R561). -/
def State.release (s : State) : State :=
  let all := (List.range 128).all fun r => s.num (0xB100 + r) 3 == 1
  let v := if all then 1 else 2
  let s := (s.setNum 0xB000 1 v).setNum 0x1010 2 v
  let s := if s.power.warm then s.setNum 0xB0F0 5 1 else s
  { s with power := { s.power with round := none, phase := .running } }

/-- A region's strip of the fixed set has ended; the last one releases the module (R539). -/
def State.roundDone (s : State) (r : Nat) : State :=
  let s := { s with power := { s.power with testing := s.power.testing.filter (· ≠ r) } }
  let s := if 124 ≤ r then s.leaveTest (r - 124) else s
  if s.power.testing.isEmpty && s.power.round == some 4 then s.release else s

/-- The test strip of a stack that reaches its emergency temperature stops, aborted and flagged (Table 17-9). -/
def State.stopStackStrip (s : State) (k : Nat) : State :=
  let r := 80 + k
  if s.power.testing.contains r then (s.stripResult r 3).roundDone r
  else if s.underTest r then ({ s with power := { s.power with requested := none } }.stripResult r 3).setNum 0xB010 2 2
  else s

/-- STACK_TEMP_SAMPLE: an M-die reports its stack's temperature: the emergency share at 105 °C with its breaches, its end
below 100 °C, one class up at a crossing of the throttle threshold (R309, R313); the emergency ends the stack's test strip. -/
def execStackTempSample (stack : Fin 24) (temp : BitVec 32) (s : State) : Host.Outcome State Fault Refusal :=
  .next (let k := stack.val
    let old := s.tempOf k
    let now := f32 temp.toNat
    let s := s.setNum 0x5310 (sub1 k) temp.toNat
    let m := s.stack k
    if m.emergency then
      if now.lt (fInt 100) then (s.leaveEmergency k).setThermal k 3 else s
    else if atLeast now (f32 (s.num 0x5300 2)) then
      let s := ((s.enterEmergency k).setThermal k m.thermal).stopStackStrip k
      s.forEach (s.chargedParts k) fun s p => s.breach7 p 1 (dieUnit (mDie k)) k
    else if atLeast now s.throttleAt && !atLeast old s.throttleAt then s.setThermal k (min 3 (m.thermal + 1))
    else s)

/-- Every fence and bank fence of a cluster lifted, its placement recomputed (R624). -/
def State.liftFences (s : State) (k : Nat) : State :=
  let s := s.forEach (rangeFrom (9 * k) 9) fun s pc =>
    let o := 0x9150 + pc / 36
    let (bo, bi) := bankFenceKey pc
    ((s.modCore pc fun c => { c with bankFence := none }).setNum o 1 (withoutBit (s.num o 1) (pc % 36))).setNum bo bi 0
  ((s.setNum 0x9160 1 (withoutBit (s.num 0x9160 1) k)).remapCluster k).settleSlot14

/-- What follows a requested strip: its status, the fences it was to lift, the pixel pipe (R547, R548, R624). -/
def State.requestedEnd (s : State) (r : Nat) (fences : Bool) (result : Nat) : State :=
  let s := { s with power := { s.power with requested := none } }.setNum 0xB010 2 2
  let s := match regionCluster r with
    | some k => if fences && result == 1 then s.liftFences k else s
    | none => s
  if 124 ≤ r then s.leaveTest (r - 124) else s

/-- The outcome of a strip by its signature (R543). -/
def State.judge (s : State) (r signature : Nat) (aborted : Bool) : State × Nat :=
  if aborted then (s.stripResult r 3, 3)
  else
    let s := s.setNum (0xB100 + r) 1 signature
    let ok := signature == (Config.expectedSignature r (s.num 0x1000 6)).toNat
    let v := if ok then 1 else 2
    (s.stripResult r v, v)

/-- STRIP_END: a test strip ends; the last one of the fixed set releases the module (R539, R543, R545). -/
def execStripEnd (region : BitVec 7) (signature : BitVec 64) (aborted : Bool) (s : State) :
    Host.Outcome State Fault Refusal :=
  .next (let r := region.toNat
    if s.power.testing.contains r then ((s.testRegion r).judge r signature.toNat aborted).1.roundDone r
    else match s.power.requested with
      | some (q, fences) =>
        if q ≠ r then s
        else
          let (s, v) := (s.testRegion r).judge r signature.toNat aborted
          s.requestedEnd r fences v
      | none => s)

/-- True when a cluster belongs to an enabled partition. -/
def State.clusterUsed (s : State) (k : Nat) : Bool := s.enabledParts.any fun p => (s.num (0x2100 + p) 1).testBit k

/-- A requested strip starts (R548). -/
def State.startStrip (s : State) (r : Nat) (fences : Bool) : State :=
  let s := { s with power := { s.power with requested := some (r, fences) } }.setNum 0xB010 2 1
  let s := s.testRegion r
  if 124 ≤ r then s.holdPipe (r - 124) else s

/-- A requested strip, or its refusal: 0x0B03 for a region in use, 0x0103 while another runs (R547). -/
def State.requestStrip (s : State) (r : Nat) (fences : Bool) : State × Nat :=
  let used := match regionCluster r with | some k => s.clusterUsed k | none => s.num 0x2000 1 == 1
  if used then (s, 0x0B03)
  else if s.power.requested.isSome then (s, 0x0103)
  else (s.startStrip r fences, 0)

/-- STRIP_REQUEST (R547). -/
def execStripRequest (path : Path) (region : BitVec 16) (s : State) : Host.Outcome State Fault Refusal :=
  .next (s.writeVia path 0xB010 1 region.toNat fun s => s.requestStrip region.toNat false)

/-- A run of the programmable self-test engine: its output is Caerdin service material, so free bytes (R550). -/
def State.runEngine (s : State) : State × Nat :=
  if !Config.engineSigned (s.blob 0xB200 1) then (s, 0x0804)
  else
    let n := (Config.freeWord 61 s.freeCtr).toNat % 16777213
    ((s.setBlob 0xB200 3 (s.freeBytes 61 n)).drawn, 0)

/-- ENGINE_RUN (R549, R550). -/
def execEngineRun (path : Path) (region : BitVec 16) (s : State) : Host.Outcome State Fault Refusal :=
  .next (s.writeVia path 0xB200 2 region.toNat State.runEngine)

/-! ### Requested fences -/

/-- After a fence: a partition that stands at its step boundary takes it there; a cluster of no enabled partition is
remapped at once (R620, R621). -/
def State.fenceSettle (s : State) (k : Nat) : State :=
  match s.enabledParts.find? fun p => (s.num (0x2100 + p) 1).testBit k with
  | some p => s.boundaryIfIdle p
  | none => (s.remapCluster k).settleSlot14

/-- A core fenced, with what follows it. -/
def State.fenceAndSettle (s : State) (pc cause : Nat) : State :=
  if s.coreFenced pc then s else (s.fenceCore pc cause).fenceSettle (clusterOfPhys pc)

/-- FENCE_REQUEST (R618, cause 5). -/
def execFenceRequest (path : Path) (pc : BitVec 16) (s : State) : Host.Outcome State Fault Refusal :=
  .next (s.writeDo path 0x9140 1 pc.toNat fun s => s.fenceAndSettle pc.toNat 5)

/-- FENCE_CLEAR (R624). -/
def execFenceClear (path : Path) (pc : BitVec 16) (s : State) : Host.Outcome State Fault Refusal :=
  .next (s.writeVia path 0x9140 2 pc.toNat fun s => s.requestStrip (clusterRegion (clusterOfPhys pc.toNat)) true)

/-- LOCKSTEP_MISMATCH (R618, cause 1). -/
def execLockstepMismatch (pc : BitVec 10) (s : State) : Host.Outcome State Fault Refusal :=
  .next (if 576 ≤ pc.toNat then s else s.fenceAndSettle pc.toNat 1)

/-! ### Resets of P0 and of a fabric port -/

/-- The sessions of the module (`0xA030:01`); keys that an ended one programmed are no longer its (R578). -/
def State.setSessions (s : State) (l : List Session) : State :=
  { s with security := { s.security with
    sessions := l, ideSession := s.security.ideSession.filter fun e => l.any fun x => x.id + 1 == e.2 } }.setNum 0xA030 1 (l.filter fun (x : Session) => x.established).length

/-- A port's IDE keys lost (R579). -/
def State.dropKeys (s : State) (port : Nat) : State :=
  { s with security := { s.security with
    ide := s.security.ide.filter fun e => e.1 / 128 != port
    ideSession := s.security.ideSession.filter fun e => e.1 / 128 != port } }

/-- A step leaves without a record: its pages unpinned, its cores idle (R555, R556). -/
def State.dropStep (s : State) (p : Nat) (x : Step) : State :=
  let s := (s.unpin p x).unbind x
  let s := if x.stage = .running then s.unloadCores p else s
  s.modPart p fun q => { q with queue := q.queue.filter (fun y => !y.is x), backfill := q.backfill.filter (fun y => !y.is x) }

/-- Open instances of stopped steps aborted on the module without CABORT (R557). -/
def State.quietAborts (s : State) : State :=
  s.forEach (s.coll.insts.filter fun i => i.started && !i.done) fun s i =>
    let s := s.modInst i.group i.seq fun i => { i with abort := some 0x0604 }
    (s.count (0x8050 + i.part) 4 1).raise
      { Event.of 0x0B s.conductorUnit (i.group + i.seq * 65536) with part := some i.part, reason := 0x0604 }

/-- Every step and request of every partition ends without a record, and the commands beside the stacks with them. -/
def State.stopWork (s : State) : State :=
  let s := s.quietAborts
  let s := s.forEach (List.range 16) fun s p =>
    let s := s.modPart p fun q => { q with held := [], prefetched := none }
    s.forEach (s.part p).steps fun s x => s.dropStep p x
  s.forEach (List.range 24) fun s k => s.modStack k fun m => { m with cmds := [] }

/-- The dictionary access window after a reset (Table 15-4). -/
def State.windowReset (s : State) : State :=
  { s with host := { s.host with xwCtrl := 0, xwReason := 0, xwReturned := 0, xwError := false, xwData := [] } }

/-- Every piece sequence discarded (Table 17-6). -/
def State.dropPieces (s : State) : State :=
  s.forEach [0, 1, 2] fun s k =>
    { s with paths := tabMod PathSt.idle s.paths k fun v => { v with staged := none } }

/-- A requested strip cut by a reset (Table 17-6). -/
def State.abortStrip (s : State) : State :=
  match s.power.requested with
  | some (r, fences) => (s.stripResult r 3).requestedEnd r fences 3
  | none => s

/-- A reset of P0 reaches a module whose link is up (Table 17-9). -/
def State.p0Resets (s : State) : Bool := s.awake && s.p0Up

/-- Every enable written 0, then device_enable, and what that ends (R526, R555). -/
def State.enablesOff (s : State) : State :=
  if s.num 0x2000 1 = 1 ∨ s.num 0x2000 2 = 4 then s.disableNow
  else
    let s := s.forEach (List.range 64) State.emptySlot
    let s := s.forEach (List.range 24) State.disableChan
    s.forEach (s.clients.map (·.1)) fun s n => if s.num (clientObj n) 1 = 1 then s.disableClient n else s

/-- CXL_HOT_RESET (R555; Tables 17-5 and 17-6). Which of causes 5 and 6 it was the command does not say: free. -/
def execCxlHotReset (s : State) : Host.Outcome State Fault Refusal :=
  .next (if !s.p0Resets then s
    else
      let s := s.stopWork
      let s := s.forEach (List.range 24) fun s c => s.setChannel c .idle
      let s := s.forEach (List.range 64) fun s w =>
        { s.setNum (0x5700 + w) 8 0 with exports := tabErase s.exports w }
      let s := s.forEach (s.clients.map (·.1)) fun s n => s.modClient n fun c => { c with waiting := [] }
      let s := s.enablesOff
      let s := { s with coll := .idle, tier := [], fills := [], packets := [], stalled := false }.dropPieces
      let s := ((s.setDecoder 0 .idle).setDecoder 1 .idle).abortStrip
      let s := (s.dropKeys 0).windowReset
      let s := s.setSessions (s.security.sessions.filter fun x => x.carrier != 0)
      let s := (({ s with host := { s.host with watch := [], function := .idle } } : State).p0Drop 0).newNonce
      let cause := if Config.freeBool 63 s.freeCtr then 5 else 6
      s.drawn.resetNote cause s.now)

/-- FLR: P0's CXL.io function state, clients and codec channels; the rest is kept (R556). -/
def execFlr (s : State) : Host.Outcome State Fault Refusal :=
  .next (if !s.p0Resets then s
    else
      let s := s.stopWork
      let s := s.forEach (List.range 24) State.disableChan
      let s := s.forEach (s.clients.map (·.1)) fun s n =>
        let s := if s.num (clientObj n) 1 = 1 then s.disableClient n else s
        s.modClient n fun c => { c with waiting := [] }
      let s := s.windowReset.setSessions (s.security.sessions.filter fun x => x.carrier != 0)
      let s := { s with host := { s.host with function := { P0Function.idle with
        component := s.host.function.component, ideSkid := s.host.function.ideSkid } } }
      let s := s.forEach s.enabledParts State.boundaryIfIdle
      s.newNonce.resetNote 7 s.now)

/-- FABRIC_HOT_RESET: only that port retrains; its traffic is that of a port leaving service (R555). -/
def execFabricHotReset (port : BitVec 3) (trained : Bool) (s : State) : Host.Outcome State Fault Refusal :=
  .next (let n := port.toNat
    if n = 0 ∨ s.num (0x6000 + n) 1 = 0 then s else ((s.fabricLeaves n).dropKeys n).trainPort n trained)

end Sys2Proof.Machine
end

