-- ==== Sys2Proof/Machine/Security.lean ====
section
/-! DEFINITION. Security and identity (18_security.md R565 to R582): firmware update and commit, life-cycle transitions,
SPDM responses and sessions, IDE keys. -/

namespace Sys2Proof.Machine

/-! ### Firmware images -/

/-- The copy that a stage image makes, with its stage (Table 18-1). -/
def fwCopy (b : List Byte) : Nat × FwCopy :=
  (leAt b 4 1,
   { present := true, keySlot := leAt b 5 1, revoke := leAt b 6 1 % 16, version := leAt b 8 4, security := leAt b 0xC 4
     image := b })

/-- True when every byte of the fields (offset, length) is zero (R11). -/
def fieldsZero (b : List Byte) (l : List (Nat × Nat)) : Bool := l.all fun f => allZero (slice b f.1 f.2)

/-- True when a stage image verifies, its reserved fields zero (R11, R565), and its revocations are allowed (R570). -/
def State.imageVerifies (s : State) (b : List Byte) : Bool :=
  let (stage, f) := fwCopy b
  (stage == 1 || stage == 2) && s.stageVerifies b stage && leAt b 6 1 / 16 == 0 &&
    fieldsZero b [(7, 1), (0x14, 12), (0x1C4, 60), (0x380, 128)] && !f.revoke.testBit f.keySlot &&
    decide ((s.num 0xA000 1 ||| f.revoke) ≠ 0xF)

/-- A stage image verified and written over the copy that did not boot, to run from the next reset; a failing one is refused
(R569). -/
def State.takeImage (s : State) (b : List Byte) : State × Nat :=
  if !s.imageVerifies b then (s, 0x0804)
  else
    let (stage, f) := fwCopy b
    let c := s.security
    let other := fun (a : Option Nat) => 1 - a.getD 0
    let s := { s with security :=
      if stage = 1 then { c with stage1 := setAt c.stage1 (other c.active1) f, first1 := other c.active1 }
      else { c with stage2 := setAt c.stage2 (other c.active2) f, first2 := other c.active2 } }
    (s.setNum 0xA010 2 (s.num 0xA010 2 ||| stage), 0)

/-- A write of a BLOB or STR value that has come whole: its gates, then its command or store. -/
def State.writeBytes (s : State) (path : Path) (o sub : Nat) (d : List Byte) (op : State → State × Nat) : State :=
  if !s.serves then s.hold (.value path o sub d)
  else
    let (s, c) := match s.accessCode path o sub with
      | 0 => op s
      | c => (s, c)
    (s.xwNote path o sub 2 (min (4 + d.length) 4096) 0 c (leBytes 4 d.length ++ d)).reply path c []

/-- FW_IMAGE (R569). -/
def execFwImage (path : Path) (data : List Byte) (s : State) : Host.Outcome State Fault Refusal :=
  .next (s.writeBytes path 0xA010 1 data fun s => s.takeImage data)

/-- A firmware image that has come by PLDM over MCTP (R569). -/
def State.pldmUpdate (s : State) (data : List Byte) : State :=
  if !s.serves then s.hold (.firmware data)
  else
    let (s, c) := s.takeImage data
    s.reply .mctp c []

/-- PLDM_FIRMWARE_UPDATE (R569). -/
def execPldmFirmwareUpdate (data : List Byte) (s : State) : Host.Outcome State Fault Refusal := .next (s.pldmUpdate data)

/-- The running stage 1 committed: the version floor, its revocations (R571). -/
def State.commitVersion (s : State) : State :=
  let f := s.security.running1
  (s.setNum 0xA000 3 (max (s.num 0xA000 3) f.security)).setNum 0xA000 1 (s.num 0xA000 1 ||| f.revoke)

/-- COMMIT_VERSION (R571). -/
def execCommitVersion (path : Path) (s : State) : Host.Outcome State Fault Refusal :=
  .next (s.writeDo path 0xA000 4 1 State.commitVersion)

/-! ### Life cycle -/

/-- The module's serial as a token holds it. -/
def serialBytes : List Byte := (List.range 32).map Config.factoryByte

/-- True when the transition token verifies for a transition to `target`, its reserved fields zero (R11, R582, Table 18-6). -/
def State.tokenOk (s : State) (target : Nat) : Bool :=
  let b := s.blob 0xA100 2
  b.length == 896 && fieldsZero b [(7, 1), (0x38, 8), (0x1C4, 60)] && leAt b 0 4 == 0x4B54434C && leAt b 4 1 == s.lifecycle && leAt b 5 1 == target &&
    decide (slice b 8 16 = s.lcNonce) && decide (slice b 0x18 32 = serialBytes) && s.keySigned b (leAt b 6 1)

/-- Why a transition to `target` is refused, in the order of R581; 0 when it is taken. -/
def State.transitionCode (s : State) (target : Nat) : Nat :=
  let l := s.lifecycle
  let listed := (l == 0 && target == 1) || (l == 1 && target == 2 && !(s.blob 0xA020 1).isEmpty) || (l == 2 && target == 3) ||
    (l == 3 && target == 2) || (l != 4 && target == 4)
  let needs := l == 2 || l == 3
  if !listed ∨ (needs ∧ !s.tokenOk target) then 0x0803
  else if s.resetCheck ≠ 0 then 0x0103
  else if l = 2 ∧ target = 3 ∧ 3 ≤ s.num 0xA100 4 then 0x0803
  else 0

/-- The identity key generated from the engine's random source: free bytes (R572). -/
def State.makeIdentity (s : State) : State := { s with security := { s.security with identity := some (s.freeBytes 64 384) } }.drawn

/-- What a transition blows and clears (Table 18-5). -/
def State.transition (s : State) (target : Nat) : State :=
  let l := s.lifecycle
  let s := s.setNum 0x1010 1 target
  if target = 1 then s.makeIdentity
  else if l = 2 ∧ target = 3 then (s.setBlob 0xA020 3 []).setNum 0xA100 4 (s.num 0xA100 4 + 1)
  else if target = 4 then { s with security := { s.security with identity := none, rootKey := false } }
  else s

/-- A served write of `lc_transition`: refused with a fresh nonce, or taken, and a cold reset (R581, R582). -/
def State.writeLifecycle (s : State) (path : Path) (v : Nat) : State :=
  if !s.serves then s.hold (.number path 0xA100 1 v)
  else
    let answer := fun (s : State) (c : Nat) => (s.xwNote path 0xA100 1 2 1 0 c (leBytes 1 v)).reply path c []
    match s.writeCode path 0xA100 1 v with
    | 0 => match s.transitionCode v with
      | 0 => ((answer s 0).transition v).coldReset 1
      | c => (answer s c).newNonce
    | c => answer s c

/-- LC_TRANSITION (R581). -/
def execLcTransition (path : Path) (value : BitVec 8) (s : State) : Host.Outcome State Fault Refusal :=
  .next (s.writeLifecycle path value.toNat)

/-! ### SPDM (R574 to R577) -/

/-- True when an SPDM carrier reaches the module: the DOE instance of a port in service, or MCTP. -/
def State.carrierUp (s : State) (c : Nat) : Bool :=
  s.awake && (c == 8 || (decide (c < 8) && s.num (0x6000 + c) 1 == 1))

/-- True when the firmware verified (R540). -/
def State.verified (s : State) : Bool := s.security.active1.isSome && s.security.active2.isSome

/-- An ERROR response. -/
def State.spdmError (s : State) (c : Nat) (name : String) : State := s.emit (.spdm c ("ERROR " ++ name) [])

/-- One of the carriers that reach the module: a request of an unverified device names a session, and no session is left to say by which
it came. -/
def State.someCarrier (s : State) : Nat :=
  let cs := (List.range 9).filter s.carrierUp
  cs.getD ((Config.freeWord 69 s.freeCtr).toNat % max cs.length 1) 8

/-- A request inside a session: an unverified device, which holds none, answers it with an ERROR (R576). -/
def State.inSpdm (s : State) (op : State → State) : State :=
  if s.verified then op s
  else if !s.awake then s
  else (s.spdmError s.someCarrier "UnsupportedRequest").drawn

/-- A request that only a verified device answers (R576). -/
def State.spdm (s : State) (c : Nat) (op : State → State) : State :=
  if !s.carrierUp c then s else if !s.verified then s.spdmError c "UnsupportedRequest" else op s

/-- The signature of the identity key over a message; none while the module holds no key (Table 18-4). -/
def State.sign (s : State) (msg : List Byte) : Option (List Byte) :=
  if s.lifecycle = 0 ∨ s.lifecycle = 4 then none
  else s.security.identity.map fun k => (List.range 384).map (Config.signByte (identityKey k) (sha256 msg))

/-- A signed response: fresh responder nonce of 32 bytes, content, signature over requester nonce, responder nonce and
content. -/
def State.signed (s : State) (c : Nat) (name : String) (nonce body : List Byte) : State :=
  let mine := s.freeBytes 65 32
  match s.sign (nonce ++ mine ++ body) with
  | none => s.spdmError c "Unspecified"
  | some g => s.drawn.emit (.spdm c name (mine ++ body ++ g))

/-- GET_VERSION (R574, R576). -/
def execGetVersion (carrier : BitVec 4) (versions : List (BitVec 8)) (s : State) : Host.Outcome State Fault Refusal :=
  .next (let c := carrier.toNat
    if !s.carrierUp c then s
    else if versions.contains 0x12 then s.emit (.spdm c "VERSION" [0x12])
    else s.spdmError c "MajorVersionMismatch")

/-- The capability flags of Table 18-2: CERT, CHAL, MEAS with signature, MEAS_FRESH, ENCRYPT, MAC, MUT_AUTH, KEY_EX, HBEAT,
KEY_UPD. Their bit positions are those of SPDM 1.2 (PRESUMED). -/
def capabilityFlags : Nat := 0x63F6

/-- GET_CAPABILITIES (Table 18-2, R576). -/
def execGetCapabilities (carrier : BitVec 4) (s : State) : Host.Outcome State Fault Refusal :=
  .next (let c := carrier.toNat
    if !s.carrierUp c then s
    else s.emit (.spdm c "CAPABILITIES" (leBytes 4 (if s.verified then capabilityFlags else 0))))

/-- GET_CERTIFICATE: a part of the chain in slot 0, and how much remains (R573). -/
def execGetCertificate (carrier : BitVec 4) (slot : BitVec 4) (offset length : BitVec 16) (s : State) :
    Host.Outcome State Fault Refusal :=
  .next (let c := carrier.toNat
    s.spdm c fun s =>
      let b := s.blob 0xA020 1
      if slot ≠ 0 ∨ b.isEmpty ∨ b.length ≤ offset.toNat then s.spdmError c "InvalidRequest"
      else
        let d := (b.drop offset.toNat).take length.toNat
        s.emit (.spdm c "CERTIFICATE" (leBytes 2 d.length ++ leBytes 2 (b.length - offset.toNat - d.length) ++ d)))

/-- CHALLENGE: a signed answer over the chain's digest (R574). -/
def execChallenge (carrier : BitVec 4) (nonce : List Byte) (s : State) : Host.Outcome State Fault Refusal :=
  .next (let c := carrier.toNat
    s.spdm c fun s => s.signed c "CHALLENGE_AUTH" nonce (sha256 (s.blob 0xA020 1)))

/-- The digest of a running stage; that of the shipped firmware is not in the manual. -/
def stageDigest (stage : Nat) (f : FwCopy) : List Byte :=
  if f.image = [] then (List.range 32).map (Config.shippedByte stage) else sha256 f.image

/-- A measurement block (Table 18-3). -/
def State.measurement (s : State) (k : Nat) : Option (List Byte) :=
  let zeros := List.replicate 32 (0 : Byte)
  if k = 1 then some ((List.range 32).map Config.bootRomByte)
  else if k = 2 then some (stageDigest 1 s.security.running1)
  else if k = 3 then some (stageDigest 2 s.security.running2)
  else if k = 4 then
    some (leBytes 1 s.lifecycle ++ leBytes 1 (s.num 0xA000 1) ++ leBytes 1 (s.num 0xA000 3) ++ leBytes 1 (s.num 0xA100 4) ++
      List.replicate 4 0)
  else if k = 16 then some (if s.blob 0x2001 1 = [] then zeros else s.blob 0x2001 1)
  else if 32 ≤ k ∧ k < 48 then
    let o := 0x3000 + (k - 32)
    some (if s.num o 6 = 0 then zeros else sha256 (s.blob o 3))
  else none

/-- The indices of the measurement blocks. -/
def measurementIndices : List Nat := [1, 2, 3, 4, 16] ++ rangeFrom 32 16

/-- The value type of a measurement block (Table 18-3): 0 immutable ROM, 1 mutable firmware, 2 hardware and 3 firmware
configuration, bit 7 a raw bit stream. The codes are those of SPDM 1.2 (PRESUMED: log entry 147). -/
def measurementType (k : Nat) : Nat := if k = 1 then 0 else if k ≤ 3 then 1 else if k = 4 then 0x82 else 3

/-- GET_MEASUREMENTS: the number of blocks (0), one block, or all (0xFF); signed when a nonce comes with it (R575). -/
def execGetMeasurements (carrier : BitVec 4) (block : BitVec 8) (nonce : List Byte) (s : State) :
    Host.Outcome State Fault Refusal :=
  .next (let c := carrier.toNat
    let k := block.toNat
    s.spdm c fun s =>
      let entry := fun (i : Nat) => (s.measurement i).map fun d =>
        leBytes 1 i ++ leBytes 1 (measurementType i) ++ leBytes 2 d.length ++ d
      let body := if k = 0 then some (leBytes 1 measurementIndices.length)
        else if k = 0xFF then some ((measurementIndices.filterMap entry).flatMap id) else entry k
      match body with
      | none => s.spdmError c "InvalidRequest"
      | some b => if nonce.isEmpty then s.emit (.spdm c "MEASUREMENTS" b) else s.signed c "MEASUREMENTS" nonce b)

/-! ### Sessions and IDE keys -/

/-- A session by its identifier. -/
def State.session (s : State) (id : Nat) : Option Session := s.security.sessions.find? fun x => x.id == id

/-- KEY_EXCHANGE: a session begins, at most four to a carrier (R577, Table 18-2). -/
def execKeyExchange (carrier : BitVec 4) (session : BitVec 16) (exchange : List Byte) (s : State) :
    Host.Outcome State Fault Refusal :=
  .next (let c := carrier.toNat
    let id := session.toNat
    s.spdm c fun s =>
      if (s.session id).isSome then s.spdmError c "InvalidRequest"
      else if 4 ≤ (s.security.sessions.filter fun x => x.carrier == c).length then s.spdmError c "SessionLimitExceeded"
      else
        let mine := s.freeBytes 66 384
        match s.sign (exchange ++ mine) with
        | none => s.spdmError c "Unspecified"
        | some g =>
          let s := s.drawn.setSessions (s.security.sessions ++ [⟨id, c, false, exchange ++ mine⟩])
          s.emit (.spdm c "KEY_EXCHANGE_RSP" (leBytes 2 id ++ mine ++ g)))

/-- True when a requester's chain is accepted (R577). -/
def State.chainOk (s : State) (chain : List Byte) : Bool :=
  allZero (s.blob 0xA020 3) || Config.chainTo chain (s.blob 0xA020 3)

/-- FINISH: the requester authenticates and the session is established, or ends (R577). -/
def execFinish (session : BitVec 16) (chain signature : List Byte) (s : State) : Host.Outcome State Fault Refusal :=
  .next (s.inSpdm fun s => match s.session session.toNat with
    | none => s
    | some x => s.spdm x.carrier fun s =>
      let rest := s.security.sessions.filter fun y => y.id != x.id
      if x.established then s.spdmError x.carrier "UnexpectedRequest"
      else if s.chainOk chain && Config.verifies chain (sha256 x.exchange) signature then
        (s.setSessions (rest ++ [{ x with established := true }])).emit (.spdm x.carrier "FINISH_RSP" [])
      else (s.setSessions rest).spdmError x.carrier "DecryptError")

/-- HEARTBEAT: a session is kept alive (R577). -/
def execHeartbeat (session : BitVec 16) (s : State) : Host.Outcome State Fault Refusal :=
  .next (s.inSpdm fun s => match s.session session.toNat with
    | none => s
    | some x => s.spdm x.carrier fun s =>
      if x.established then s.emit (.spdm x.carrier "HEARTBEAT_ACK" []) else s.spdmError x.carrier "UnexpectedRequest")

/-- SESSION_TIMEOUT: a session with no traffic for three heartbeat periods ends; its IDE keys stay (R577, R579). -/
def execSessionTimeout (session : BitVec 16) (s : State) : Host.Outcome State Fault Refusal :=
  .next (s.setSessions (s.security.sessions.filter fun x => x.id != session.toNat))

/-- True when a port has a stream: CXL.cachemem on P0 alone, selective streams on the others (Table 15-2, R579). -/
def streamOf (t : IdeTarget) : Bool :=
  match t.stream with | .cachemem => t.port == 0 | .link => true | .selective _ => t.port != 0

/-- The keys of a stream programmed by session `id`; watched lines are read when P0 begins to carry CXL.cache (R497, R579). -/
def State.programKeys (s : State) (t : IdeTarget) (id : Nat) (key : List Byte) : State :=
  let c := s.security
  let k := ideSlot t.port.toNat t.stream
  let s' := { s with security := { c with ide := tabSet [] c.ide k key, ideSession := tabSet 0 c.ideSession k (id + 1) } }
  if !s.p0Open && s'.p0Open then s'.forEach s'.watchers State.readEntry else s'

/-- IDE_KEY_PROGRAM: AES-256-GCM keys of a stream of a port, inside a session on its DOE instance (R579). -/
def execIdeKeyProgram (session : BitVec 16) (target : IdeTarget) (key : List Byte) (s : State) :
    Host.Outcome State Fault Refusal :=
  .next (let n := target.port.toNat
    if !s.verified then if s.carrierUp n then s.spdmError n "UnsupportedRequest" else s
    else match s.session session.toNat with
    | none => s
    | some x =>
      if !x.established ∨ x.carrier ≠ n ∨ key.length ≠ 32 ∨ !streamOf target ∨ !s.carrierUp n then s
      else (s.programKeys target x.id key).emit (.spdm n "KP_ACK" []))

end Sys2Proof.Machine
end

