-- ==== Sys2Proof/Machine/Conductor.lean ====
section
/-! DEFINITION. Device time (15_cxl_and_fabric_ports.md R499 to R503) and the conductor (20_faults_and_guarantees.md R627 to
R632; 01 R51 to R54). -/

namespace Sys2Proof.Machine

/-! ### Time -/

/-- A write of `set_time` of a disabled device steps the time, never backward; what was left to slew is dropped (R500; log entry
120). -/
def State.stepTime (s : State) (v : Nat) : State :=
  { s.setNum 0x6400 5 v with now := max s.now v, time := { s.time with slew := 0 } }

/-- SET_TIME (R500). -/
def execSetTime (path : Path) (value : BitVec 64) (s : State) : Host.Outcome State Fault Refusal :=
  .next (s.writeDo path 0x6400 5 value.toNat fun s => s.stepTime value.toNat)

/-- The port of the selected PTM source (R499); with TIMEREF the first PTM port in service gives the seconds (R501; log entry
119). -/
def State.ptmPort (s : State) : Option Nat :=
  let v := s.num 0x6400 1
  if 1 ≤ v ∧ v ≤ 8 then some (v - 1)
  else if v = 9 then (List.range 8).find? fun n => s.num (0x6000 + n) 1 == 1
  else none

/-- PTM_REQUEST: every `ptm_interval` a PTM request leaves by the selected port (R499). -/
def execPtmRequest (s : State) : Host.Outcome State Fault Refusal :=
  .next (match s.ptmPort with
    | none => s
    | some n =>
      if s.num (0x6000 + n) 1 ≠ 1 then s
      else { s with time := { s.time with asked := true } }.emit (.link "PTM Request" (xDie (n / 2)) n s.now))

/-- A valid input of the selected source: the error found is slewed away, the source disciplines the time (R500, R503). -/
def State.discipline (s : State) (err : Int) : State :=
  { s with time := { s.time with slew := err, holdover := false, asked := false } }.setNum 0x6400 7 1

/-- The whole seconds nearest to an offset in ns. -/
def wholeSeconds (e : Int) : Int := (e + 500000000) / 1000000000 * 1000000000

/-- The offset a PTM exchange finds: t1 and t4 are device times, t2 and t3 the source's, the link delay equal both ways (R499). -/
def ptmOffset (t1 t2 t3 t4 : BitVec 64) : Int := (((t2.toNat : Int) - t1.toNat) + ((t3.toNat : Int) - t4.toNat)) / 2

/-- PTM_RESPONSE: the offset disciplines the time (R499), or with TIMEREF gives the count of seconds alone (R501). -/
def execPtmResponse (t1 t2 t3 t4 : BitVec 64) (s : State) : Host.Outcome State Fault Refusal :=
  .next (if s.ptmPort.isNone || !s.time.asked then s
    else if s.num 0x6400 1 = 9 then
      { s with time := { s.time with
          slew := s.time.slew + wholeSeconds (ptmOffset t1 t2 t3 t4 - s.time.slew), asked := false } }
    else s.discipline (ptmOffset t1 t2 t3 t4))

/-- The error of a time whose second should begin `delay` ns before: between half a second back and half a second on. -/
def ppsError (now delay : Int) : Int :=
  let r := (now - delay) % 1000000000
  if r ≤ 500000000 then -r else 1000000000 - r

/-- TIMEREF_PPS: the nanosecond count, with what is left to slew, is aligned to the second at the edge, less `timeref_delay`
(R501); the seconds it is to be slewed by stay. -/
def execTimerefPps (s : State) : Host.Outcome State Fault Refusal :=
  .next (if s.num 0x6400 1 = 9 then
      let asked := s.time.asked
      let s := s.discipline (s.time.slew + ppsError ((s.now : Int) + s.time.slew) (signed 32 (s.num 0x6400 3)))
      { s with time := { s.time with asked := asked } }
    else s)

/-- HOLDOVER_TIMEOUT: no valid input for `holdover_limit`: a time fault, and the last frequency is held (R503). -/
def execHoldoverTimeout (s : State) : Host.Outcome State Fault Refusal :=
  .next (if s.num 0x6400 1 = 0 ∨ s.time.holdover then s
    else
      let s := { s with time := { s.time with slew := 0, since := 0, holdover := true, asked := false } }.setNum 0x6400 7 0
      s.raise (.of 0x0F s.conductorUnit (s.num 0x6400 1)))

/-- One nanosecond of device time, slewed by up to 100 ppm: one nanosecond more or less in 10,000 (R500). -/
def State.advance (s : State) : State :=
  let t := { s.time with ticks := s.time.ticks + 1, acMicro := s.time.acMicro + s.clock }
  if t.slew = 0 then { s with now := s.now + 1, time := { t with since := 0 } }
  else if t.since + 1 < 10000 then { s with now := s.now + 1, time := { t with since := t.since + 1 } }
  else if 0 < t.slew then { s with now := s.now + 2, time := { t with slew := t.slew - 1, since := 0 } }
  else { s with time := { t with slew := t.slew + 1, since := 0 } }

/-- One nanosecond counted for a stack of an awake module: at thermal class 1 to 3, or at the emergency share (Table 19-1). -/
def State.countClass (s : State) (k : Nat) : State :=
  let c := s.stackClass k
  if c = 4 then s.count 0x8061 (sub1 k) 1 else if 1 ≤ c then s.count 0x8060 (sub1 k) 1 else s

/-- One nanosecond of partition `p`'s enabled time counted to its cause (R416), and to the step that runs when it is busy. -/
def State.countIdle (s : State) (p : Nat) : State :=
  let c := s.idleCounter p
  let s := s.bump (0x8400 + p) c 1
  match (if c = 9 then s.running p else none) with
  | some x => s.modStep p x fun y => { y with busyNs := y.busyNs + 1 }
  | none => s

/-- A nanosecond of a token register's countdown: at 0 the register is free (R627; log entry 240). -/
def TokenReg.tick (r : TokenReg) : TokenReg :=
  if r.left = 0 then r else { r with left := r.left - 1, free := r.free || r.left == 1 }

def Conductor.tick (c : Conductor) : Conductor := { c with regs := c.regs.map TokenReg.tick }

/-- A nanosecond in which no command comes: none passes while the safelight domain has no supply (R536). -/
def State.idle (s : State) : State :=
  if s.power.phase = .off then s
  else
    let s := { s with conductor := s.conductor.tick }
    if s.power.phase = .running then
      let s := ((s.forEach (List.range 24) State.countClass).forEach s.enabledParts State.countIdle).advance
      s.forEach s.enabledParts State.settleHang
    else s.advance

/-! ### The ring -/

/-- The B-die of a token register (R15). -/
def tokenDie (r : Nat) : Nat := bDie (match r with | 0 => 5 | 1 => 6 | _ => 10)

/-- RING_CROSSING_LOST (R54). -/
def execRingCrossingLost (north : Bool) (s : State) : Host.Outcome State Fault Refusal :=
  .next (s.setNum 0x9200 4 (withBit (s.num 0x9200 4) (if north then 0 else 1)))

/-- RING_CROSSING_RECOVERED (R54). -/
def execRingCrossingRecovered (north : Bool) (s : State) : Host.Outcome State Fault Refusal :=
  .next (s.setNum 0x9200 4 (withoutBit (s.num 0x9200 4) (if north then 0 else 1)))

/-! ### The lease -/

def State.conductorDie (s : State) : Nat := s.num 0x9200 1
def State.term (s : State) : Nat := s.num 0x9200 2

def State.modConductor (s : State) (f : Conductor → Conductor) : State := { s with conductor := f s.conductor }

/-- Token register `r`. -/
def Conductor.reg (c : Conductor) (r : Nat) : TokenReg := c.regs.getD r ⟨0, 0, true, 0⟩
def Conductor.setReg (c : Conductor) (r : Nat) (v : TokenReg) : Conductor := { c with regs := setAt c.regs r v }

/-- LEASE_RENEWAL: the conductor renews the three registers and broadcasts the renewal (R628). -/
def execLeaseRenewal (s : State) : Host.Outcome State Fault Refusal :=
  .next (if !s.conductor.inOffice then s
    else
      let msgs := [0, 1, 2].map fun r => Output.ring "RENEWAL" (tokenDie r) s.term s.conductorDie
      (s.modConductor fun c => { c with acks := [] }).emits (msgs ++ [Output.ring "RENEWAL" 0x40 s.term s.conductorDie]))

/-- TOKEN_RENEWAL: a register takes a renewal of its owner with the owner's term, counts down from the beginning and acknowledges it
(R627). -/
def execTokenRenewal (reg : Fin 3) (sdie : BitVec 2) (term : BitVec 16) (s : State) : Host.Outcome State Fault Refusal :=
  .next (let r := s.conductor.reg reg.val
    if r.free || r.owner != sdie.toNat || r.term != term.toNat then s
    else (s.modConductor fun c => c.setReg reg.val { r with left := leaseNs }).emit
      (.ring "RENEWAL ACK" (sDie sdie.toNat) term.toNat reg.val))

/-- TOKEN_CLAIM: a free register grants a claim with a term ahead of its own (R627) of an S-die that takes part (R36). -/
def execTokenClaim (reg : Fin 3) (sdie : BitVec 2) (term : BitVec 16) (s : State) : Host.Outcome State Fault Refusal :=
  .next (let r := s.conductor.reg reg.val
    if !r.free || !serialAhead 16 term.toNat r.term || !s.elects sdie.toNat then s
    else (s.modConductor fun c => c.setReg reg.val ⟨sdie.toNat, term.toNat, false, leaseNs⟩).emit
      (.ring "GRANT" (sDie sdie.toNat) term.toNat reg.val))

/-- TOKEN_EXPIRY: a countdown reaches 0 and the register is free (R627). -/
def execTokenExpiry (reg : Fin 3) (s : State) : Host.Outcome State Fault Refusal :=
  .next (s.modConductor fun c => c.setReg reg.val { c.reg reg.val with free := true, left := 0 })

/-- GRANT_RELEASE: a claimant gives a grant back (R629). -/
def execGrantRelease (reg : Fin 3) (sdie : BitVec 2) (term : BitVec 16) (s : State) : Host.Outcome State Fault Refusal :=
  .next (let r := s.conductor.reg reg.val
    if r.free || r.owner != sdie.toNat || r.term != term.toNat then s
    else s.modConductor fun c => c.setReg reg.val { r with free := true, left := 0 })

/-- RENEWAL_ACK: an acknowledgement of the present round (R628). -/
def execRenewalAck (reg : Fin 3) (s : State) : Host.Outcome State Fault Refusal :=
  .next (if !s.conductor.inOffice || s.conductor.acks.contains reg.val then s
    else s.modConductor fun c => { c with acks := c.acks ++ [reg.val] })

/-- The conductor leaves office: its step controllers and its dictionary service stop (R628). -/
def State.leaveOffice (s : State) : State := s.modConductor fun c => { c with inOffice := false, acks := [] }

/-- CONDUCTOR_STEP_DOWN: no majority round began in the last 1.5 ms (R628). -/
def execConductorStepDown (s : State) : Host.Outcome State Fault Refusal :=
  .next (if !s.conductor.inOffice || decide (2 ≤ s.conductor.acks.length) then s else s.leaveOffice)

/-- CLAIM_TIMEOUT: a verified deputy that has had no renewal claims with the next term (R629). -/
def execClaimTimeout (sdie : BitVec 2) (s : State) : Host.Outcome State Fault Refusal :=
  .next (let d := sdie.toNat
    let ready := (s.num 0x9200 3).testBit d && s.elects d
    if !ready || (s.conductor.inOffice && s.conductorDie == d) then s
    else
      let t := (s.term + 1) % 2 ^ 16
      (s.modConductor fun c => { c with claim := some (d, t) }).emits
        ([0, 1, 2].map fun r => Output.ring "CLAIM" (tokenDie r) t d))

/-! ### Inert dies and lost segments -/

/-- A die stops all work, its edge ports quiesce and its fabric ports idle (R631); the clusters of a C-die are fenced for cause 8
(R618). -/
def State.goInert (s : State) (d : Nat) : State :=
  if s.dieState d = 3 then s
  else
    let s := if d < 0x10 then s.forEach (rangeFrom (4 * d) 4) fun s k => s.fenceCluster k 8 else s
    let s := s.setNum 0x9210 (d + 1) 3
    let s := s.forEach (List.range (portCount d)) fun s n =>
      s.setLink d n { LinkSt.idle with state := 2 }
    if d < 0x10 then s.forEach (rangeFrom (36 * d) 36) fun s pc => s.modCore pc Core.halted
    else if d < 0x28 then s.modStack (d - 0x10) fun m => { m with cmds := [] }
    else if d < 0x2C then s.forEach ([2 * (d - 0x28), 2 * (d - 0x28) + 1].filter (· ≠ 0)) State.idlePort
    else if 0x3C ≤ d then
      let s := (s.setNum 0x9200 3 (withoutBit (s.num 0x9200 3) (d - 0x3C))).dropClaim d
      if s.conductor.inOffice && s.conductorDie == d - 0x3C then s.leaveOffice else s
    else s

/-- FENCE: a FENCE message of the ring reaches a die (R631). -/
def execFence (die : BitVec 6) (s : State) : Host.Outcome State Fault Refusal := .next (s.goInert die.toNat)

/-- INERT_TIMEOUT: a die has had no renewal broadcast for 4.0 ms (R631). -/
def execInertTimeout (die : BitVec 6) (s : State) : Host.Outcome State Fault Refusal := .next (s.goInert die.toNat)

/-- SEGMENT_LOST: the conductor declares the dies of the other half unreachable: the split event and its time (R632, Table 20-8). -/
def execSegmentLost (s : State) : Host.Outcome State Fault Refusal :=
  .next (let lost := (List.range 64).filter fun x => westDie x != westDie (sDie s.conductorDie)
    if !s.conductor.inOffice || !s.split || lost.all (fun x => s.dieState x == 2) then s
    else
      let s := s.forEach lost fun s x => s.setNum 0x9210 (x + 1) 2
      ((s.setNum 0x9200 5 s.now).raise (.of 0x08 s.conductorUnit 4)).faultPin true)

end Sys2Proof.Machine
end

