-- ==== Sys2Proof/Machine/Control.lean ====
section
/-! DEFINITION. The control instructions of the five streams (04 Table 4-3; 03 R142, R146, R162, R163). -/

namespace Sys2Proof.Machine

/-- TWAIT: its wait and its header's signals, 1 ac (R122). -/
def execTwait (c : CoreId) (u : UnitId) (h : Header) (s : State) : Host.Outcome State Fault Refusal :=
  .next (s.issue c.toNat u.val (.twait h) fun _ _ => .control 1)

/-- TSIG: its header's signals, 1 ac (R124). -/
def execTsig (c : CoreId) (u : UnitId) (h : Header) (s : State) : Host.Outcome State Fault Refusal :=
  .next (s.issue c.toNat u.val (.tsig h) fun _ _ => .control 1)

/-- LOOP: the unit enters the body; the header acts once (R162, R163). -/
def execLoop (c : CoreId) (u : UnitId) (h : Header) (count : BitVec 16) (body : BitVec 12) (s : State) :
    Host.Outcome State Fault Refusal :=
  .next (s.issue c.toNat u.val (.loop h count body) fun _ _ => .control 1)

/-- BRB: the sequencer runs the bracket that admission chose (R142), 3 ac. Its bracket is the program's (R164). -/
def execBrb (c : CoreId) (h : Header) (bracket : BitVec 4) (s : State) : Host.Outcome State Fault Refusal :=
  .next (s.issue c.toNat 0 (.brb h bracket) fun _ _ => .control 3)

/-- YIELD: the unit stops at the yield point until the barrier releases it (R146). -/
def execYield (c : CoreId) (u : UnitId) (h : Header) (passEnd : BitVec 1) (segment : BitVec 16) (s : State) :
    Host.Outcome State Fault Refusal :=
  .next (s.issue c.toNat u.val (.yield h passEnd segment) fun _ _ => .control 0)

/-- STEPEND: the unit stops until the step ends (R146). -/
def execStepEnd (c : CoreId) (u : UnitId) (h : Header) (s : State) : Host.Outcome State Fault Refusal :=
  .next (s.issue c.toNat u.val (.stepEnd h) fun _ _ => .control 0)

end Sys2Proof.Machine
end

