-- ==== Sys2Proof/Machine/Observe.lean ====
section
/-! DEFINITION. Counters, sensors and the loupe (19_debug_and_trace.md R583, R584, R610 to R612; 21 R649, R650). -/

namespace Sys2Proof.Machine

/-- COUNTER_FOLD: every local count is added to its counter in the retained SRAM (R584). -/
def execCounterFold (s : State) : Host.Outcome State Fault Refusal :=
  .next ({ s with localCounts := [] }.forEach s.localCounts fun t e => t.bump (e.1 / 256) (e.1 % 256) e.2)

/-- COOLANT_SAMPLE: inlet temperature and flow published, with the marks of Table 21-10 (R650). -/
def execCoolantSample (inlet flow : BitVec 32) (s : State) : Host.Outcome State Fault Refusal :=
  .next (((s.setNum 0x8E10 4 inlet.toNat).setNum 0x8E10 5 flow.toNat).markCoolant)

/-! ### The loupe -/

/-- The fields of `loupe_target`. -/
structure Target where
  die : Nat
  cluster : Nat
  core : Nat
  space : Nat
  offset : Nat
deriving DecidableEq, Repr

/-- The target in force. -/
def State.loupeTarget (s : State) : Target :=
  let v := s.num 0x8E00 1
  let u := bits v 63 48
  ⟨u / 1024, u / 256 % 4, u / 16 % 16, bits v 47 44, bits v 41 0⟩

/-- True when the target's unit is a physical core, a cluster, an M-die. -/
def Target.isCore (t : Target) : Bool := decide (t.die < 16) && decide (t.core < 9)
def Target.isCluster (t : Target) : Bool := decide (t.die < 16) && t.core == 0xF
def Target.isStack (t : Target) : Bool := decide (0x10 ≤ t.die) && decide (t.die < 0x28)

/-- The package number of the target's core. -/
def Target.pc (t : Target) : Nat := t.die * 36 + t.cluster * 9 + t.core

/-- A unit's section of Table 19-5. -/
def State.loupeSection (s : State) (t : Target) : List Byte :=
  if t.isCore then fitTo 512 (s.sheetCore t.pc)
  else if t.isCluster then fitTo 128 (s.sheetCluster (4 * t.die + t.cluster))
  else if t.die < 16 then []
  else if t.isStack then fitTo 4096 (s.sheetStack (t.die - 0x10))
  else if t.die < 0x2C then fitTo 8192 (s.sheetXDie (t.die - 0x28))
  else fitTo 1024 (s.sheetDie t.die)

/-- A unit's counters of Table 19-1 in object order, padded to 16 bytes. -/
def State.loupeCounters (s : State) (t : Target) : List Byte :=
  let dies := (rangeFrom 0x8040 5).map fun o => (o, t.die + 1)
  let ks := if t.isCore then (rangeFrom 1 11).map fun k => (0x8500 + t.pc, k)
    else if t.die < 16 then (if t.cluster = 0 then dies else [])
    else if t.isStack then
      let n := t.die - 0x10
      ((rangeFrom 1 4).map fun k => (0x8020 + n, k)) ++ dies ++ [(0x8060, n + 1), (0x8061, n + 1)]
    else dies
  let b := ks.flatMap fun k => leBytes 8 (s.counter k.1 k.2)
  b ++ List.replicate ((16 - b.length % 16) % 16) 0

/-- The size of a space; DRAM is bounded by the device addresses that exist (Table 19-11). -/
def State.loupeSize (s : State) (t : Target) : Nat :=
  match t.space with
  | 0 => (s.loupeSection t).length
  | 1 => if t.isCore then 0x550000 else if t.isCluster then 0x1800000 else if t.isStack then 0x140000 else 0
  | 2 => 2 ^ 42
  | _ => (s.loupeCounters t).length

/-- Where physical accumulator byte `o` of a core lies in its logical banks; none in a fenced bank (R199). -/
def State.accPlace (s : State) (pc o : Nat) : Option Nat :=
  ((List.range (s.logicalBanks pc)).find? fun l => s.physBank pc l == o / 65536).map fun l => l * 65536 + o % 65536

/-- Sixteen bytes of a memory, with the number of words found uncorrectable (R611). -/
def peek (r : Ram) (a : Nat) : List Byte × Nat :=
  let f := r.fetch a 16
  (f.bytes, f.ue.length)

/-- One half of an instruction store: the descriptor table, then the five streams (R187, Table 4-21). -/
def Program.bytes (q : Program) : List Byte :=
  fitTo 131072 ((q.descs.flatMap fun d => leBytes 32 d.toNat) ++ q.streams.flatMap fun l => l.flatMap fun w => leBytes 16 w.toNat)

/-- The records of a filmstrip, oldest first, 16 bytes each. -/
def Film.bytes (f : Film) : List Byte := f.recs.flatMap fun r => leBytes 16 r.word.toNat

/-- The partial store of NMU `pc` of a stack: the FP32 words of the commands that run, by partition. -/
def State.partialStore (s : State) (k pc : Nat) : List Byte :=
  fitTo 16384 ((List.range 16).flatMap fun p => match s.front k p with
    | some (_, c) => if c.running then ((c.partials.getD pc []).flatMap (leBytes 4)) else []
    | none => [])

/-- Sixteen bytes of a space at an offset: of an instruction store the active half first (log entry 219). A fenced accumulator
bank reads as free bytes. -/
def State.loupe16 (s : State) (t : Target) (o : Nat) : List Byte × Nat :=
  let free := ((List.range 16).map fun i => Config.freeByte 68 s.freeCtr (o + i), 0)
  match t.space with
  | 0 => (slice (s.loupeSection t) o 16, 0)
  | 1 =>
    if t.isCore then
      if o < 0x400000 then peek (s.core t.pc).opnd o
      else if o < 0x500000 then (match s.accPlace t.pc (o - 0x400000) with | some a => peek (s.core t.pc).acc a | none => free)
      else if o < 0x520000 then (slice (s.core t.pc).sq.prog.bytes (o - 0x500000) 16, 0)
      else if o < 0x540000 then (slice (s.core t.pc).other.bytes (o - 0x520000) 16, 0)
      else (slice (s.core t.pc).film.bytes (o - 0x540000) 16, 0)
    else if t.isCluster then peek (s.cluster (4 * t.die + t.cluster)).buf o
    else if t.isStack then
      if o < 0x100000 then (slice (s.partialStore (t.die - 0x10) (o / 0x4000)) (o % 0x4000) 16, 0)
      else (slice (s.stack (t.die - 0x10)).film.bytes (o - 0x100000) 16, 0)
    else free
  | 2 => match s.place o with
    | some p => peek s.dram (physAddr p.stack p.pc p.row + o % 256)
    | none => free
  | _ => (slice (s.loupeCounters t) o 16, 0)

/-- The regions that a target lies in (Table 17-2). -/
def State.loupeRegions (s : State) (t : Target) (n : Nat) : List Nat :=
  if t.space = 2 then
    ((List.range (n / 16)).filterMap fun k => (s.place (t.offset + 16 * k)).map fun p => 80 + p.stack).dedup
  else if t.die < 16 then [if t.isCore || t.isCluster then clusterRegion (4 * t.die + t.cluster) else 5 * t.die + 4]
  else if t.die < 0x28 then [80 + (t.die - 0x10)]
  else if t.die < 0x2C then [104 + (t.die - 0x28)]
  else if t.die < 0x3C then [108 + (t.die - 0x2C)]
  else [124 + (t.die - 0x3C)]

/-- Why a read of `loupe_data` is refused (R612); 0 when it is served. -/
def State.loupeCode (s : State) : Nat :=
  let t := s.loupeTarget
  let n := s.num 0x8E00 2
  let hole := t.space == 2 && (List.range (n / 16)).any fun k => (s.place (t.offset + 16 * k)).isNone
  if s.loupeGate ≠ 0 then s.loupeGate
  else if s.loupeSize t < t.offset + n ∨ hole then 0x0102
  else if (s.loupeRegions t n).any s.underTest then 0x0103
  else 0

/-- The read made: the bytes, and `loupe_faults` (R610, R611). -/
def State.loupeRead (s : State) : State × List Byte :=
  let t := s.loupeTarget
  let parts := (List.range (s.num 0x8E00 2 / 16)).map fun k => s.loupe16 t (t.offset + 16 * k)
  let s := s.setNum 0x8E00 4 (parts.map (·.2)).sum
  (s.drawn, parts.flatMap (·.1))

end Sys2Proof.Machine
end

