-- ==== Sys2Proof/Machine/Dictionary.lean ====
section
/-! DEFINITION. Accesses to the dictionary by any path (15_cxl_and_fabric_ports.md R480, R490, R505, R506;
16_xemond_dictionary.md R507 to R520): values in pieces, the command that each write starts, the window, the route table. -/

namespace Sys2Proof.Machine

/-! ### Paths -/

def State.path (s : State) (p : Path) : PathSt := tabGet PathSt.idle s.paths p.num
def State.modPath (s : State) (p : Path) (f : PathSt → PathSt) : State :=
  { s with paths := tabMod PathSt.idle s.paths p.num f }

/-- Bytes of a piece (R516). -/
def pieceBytes : Nat := 4096

/-- True for a BLOB or STR object. -/
def isBlob (o sub : Nat) : Bool :=
  match (if sub = 0 then none else objRow o sub) with
  | some r => r.ty == .blob || r.ty == .str
  | none => false

/-! ### Reads -/

/-- A piece of the encoding that a path read whole at its piece 0; 0x0104 when it has changed since, or has no such piece
(R517). -/
def State.laterPiece (s : State) (p : Path) (k piece : Nat) (now : Option (List Byte)) : State × Nat × List Byte :=
  let e := tabGet [] (s.path p).seen k
  let same := match now with | some d => decide (d = e) | none => true
  if same && decide (pieceBytes * piece < e.length) then (s, 0, (e.drop (pieceBytes * piece)).take pieceBytes) else (s, 0x0104, [])

/-- A path has read piece 0 of a value. -/
def State.noteSeen (s : State) (p : Path) (k : Nat) (e : List Byte) : State :=
  s.modPath p fun v => { v with seen := tabSet [] v.seen k e }

/-- A read of `loupe_data`: made at piece 0 (R610, R612). -/
def State.readLoupe (s : State) (p : Path) (piece : Nat) : State × Nat × List Byte :=
  let k := objKey 0x8E00 3
  if piece ≠ 0 then s.laterPiece p k piece none
  else match s.loupeCode with
  | 0 =>
    let (s, d) := s.loupeRead
    let e := leBytes 4 d.length ++ d
    (s.noteSeen p k e, 0, e.take pieceBytes)
  | c => (s, c, [])

/-- What a read of a piece of an object answers, and what it changes. -/
def State.readAt (s : State) (p : Path) (o sub piece : Nat) : State × Nat × List Byte :=
  match s.readCode o sub with
  | 0 =>
    let e := s.encoding p o sub
    if o = 0x8E00 ∧ sub = 3 then s.readLoupe p piece
    else if isBlob o sub then
      if piece = 0 then (s.noteSeen p (objKey o sub) e, 0, e.take pieceBytes) else s.laterPiece p (objKey o sub) piece (some e)
    else if piece ≠ 0 then (s, 0x0104, [])
    else if o = 0xB300 ∧ sub = 0xA then (s.setNum 0xB300 0xA 0, 0, e)
    else (s, 0, e)
  | c => (s, c, [])

/-- A read served. -/
def State.readVia (s : State) (p : Path) (o sub piece : Nat) : State :=
  if !s.serves then s.hold (.read p o sub piece)
  else
    let (s, c, d) := s.readAt p o sub piece
    (s.xwNote p o sub 1 0 piece c d).reply p c d

/-- LOUPE_READ (R610 to R612). -/
def execLoupeRead (path : Path) (piece : BitVec 16) (s : State) : Host.Outcome State Fault Refusal :=
  .next (s.readVia path 0x8E00 3 piece.toNat)

/-! ### What an accepted numeric write does -/

/-- The family member of an object, when the object lies in a family. -/
def member (o lo n : Nat) : Option Nat := if lo ≤ o ∧ o < lo + n then some (o - lo) else none

/-- The codec channel of an object. -/
def chanOf (o : Nat) : Option Nat := (member o 0x7100 8).or ((member o 0x7200 16).map (8 + ·))

/-- The five enables: written 1 they check and enable, written 0 they disable. Which fabric ports would train is free. -/
def State.writeEnable (s : State) (o sub v : Nat) : Option (State × Nat) :=
  if o = 0x2000 ∧ sub = 1 then
    some (if v = 1 then s.drawn.enableDevice ((Config.freeWord 69 s.freeCtr).toNat % 256) else s.disableDevice)
  else if o = 0x3010 ∧ sub = 1 then some (s.writeOverlays v)
  else match member o 0x4000 64, member o 0xC000 4096, chanOf o with
  | some k, _, _ => if sub = 4 then some (if v = 1 then s.loadSlot k else s.unloadSlot k) else none
  | _, some n, _ => if sub = 1 then some (if v = 1 then s.enableClient n else (s.disableClient n, 0)) else none
  | _, _, some c => if sub = 1 then some (if v = 1 then s.enableChan c else (s.disableChan c, 0)) else none
  | _, _, _ => none

/-- The commands of the WO objects (R513); a command of type BOOL written 0 does nothing. -/
def State.writeCommand (s : State) (o sub v : Nat) : Option (State × Nat) :=
  let one := fun (t : State) => if v = 0 then (s, 0) else (t, 0)
  match objRow o sub with
  | none => none
  | some r =>
    if r.acc ≠ .wo then none
    else some (match member o 0x6110 16, member o 0x7010 4, member o 0x8100 16, member o 0x8130 16, member o 0x8800 512 with
      | some p, _, _, _, _ => one (s.collReset p)
      | _, some d, _, _, _ => one (if sub = 2 then s.wantPipe d 2 else s.resumePipe d)
      | _, _, some p, _, _ => one (if sub = 7 then s.armTrace p else s.trigger p 0)
      | _, _, _, some p, _ =>
        if sub = 7 then (if v = 0 then (s, 0) else s.armStop p) else if v = 1 then (s.releaseStop p, 0) else (s.failStop p, 0)
      | _, _, _, _, some c => (s.thaw c (if v = 1 then 0 else s.num (bpObj c) 0x10 + 1), 0)
      | _, _, _, _, _ =>
        if o = 0x8120 then one (s.capture 0 0xFFFF 0)
        else if o = 0x8140 then (s.sendMark v, 0)
        else if o = 0x9140 then
          (if sub = 1 then (s.fenceAndSettle v 5, 0) else s.requestStrip (clusterRegion (clusterOfPhys v)) true)
        else if o = 0xA000 then one s.commitVersion
        else if o = 0xB010 then s.requestStrip v false
        else if o = 0xB200 then s.runEngine
        else (s, 0))

/-- A value stored: at the next step boundary for an RWS object (R511), at once for the others, with what some of them
cause. -/
def State.storeNum (s : State) (p : Path) (o sub v : Nat) : State :=
  match objRow o sub with
  | none => s
  | some r =>
    if r.acc = .rws then s.storeRws o sub v
    else if o = 0x1002 then s.modPath p fun x => { x with describe := v }
    else if 0x5600 ≤ o ∧ o ≤ 0x563F ∧ sub = 4 then s.writeGeneration (o - 0x5600) v
    else if o = 0x6400 ∧ sub = 5 then s.stepTime v
    else if o = 0x6400 ∧ sub = 1 then { (s.setNum o sub v).setNum 0x6400 7 0 with time := .idle }
    else s.setNum o sub v

/-- What an accepted numeric write does, with its own refusal. -/
def State.applyNum (s : State) (p : Path) (o sub v : Nat) : State × Nat :=
  match s.writeEnable o sub v with
  | some r => r
  | none => match s.writeCommand o sub v with
    | some r => r
    | none => (s.storeNum p o sub v, 0)

/-- A numeric write served. Writes that reset the module answer first. -/
def State.writeNumber (s : State) (p : Path) (o sub v : Nat) : State :=
  if o = 0xA100 ∧ sub = 1 then s.writeLifecycle p v
  else if o = 0xB0F0 ∧ 1 ≤ sub ∧ sub ≤ 3 ∧ v ≠ 0 then
    s.writeReset p o sub v State.resetCheck fun s =>
      if sub = 1 then s.warmReset 4 else if sub = 2 then s.coldReset 1 else s.toSleep
  else s.writeVia p o sub v fun s => s.applyNum p o sub v

/-! ### BLOB and STR writes (R516) -/

/-- What a piece did to a path's staged value. -/
inductive Piece where
  | refused
  | more
  | whole (value : List Byte)
deriving DecidableEq, Repr

/-- The value staged after a piece of object `k`, and what became of it. -/
def stagePiece (st : Option (Nat × List Byte)) (k piece : Nat) (d : List Byte) : Option (Nat × List Byte) × Piece :=
  let before : Option (List Byte) := if piece = 0 then some []
    else match st with
    | some (k', b) => if k' = k ∧ b.length = pieceBytes * piece then some b else none
    | none => none
  match before with
  | none => (none, .refused)
  | some b =>
    let all := b ++ d
    let need := 4 + leAt all 0 4
    if all.length < 4 ∨ need < all.length then (none, .refused)
    else if all.length = need then (none, .whole (all.drop 4))
    else if d.length < pieceBytes then (none, .refused)
    else (some (k, all), .more)

/-- A BLOB or STR value written whole: its validity (R509), its command or store. An all-zero value whose default reads as
zeros is the default. -/
def State.storeBlob (s : State) (o sub : Nat) (b : List Byte) : State × Nat :=
  match objRow o sub with
  | none => (s, 0x0101)
  | some r =>
    if !blobOk o sub r.ty b then (s, 0x0102)
    else if o = 0xA010 then s.takeImage b
    else
      let zeroDefault := (decide (0x6200 ≤ o) && decide (o ≤ 0x6206)) || (o == 0xA020 && sub == 3)
      (s.setBlob o sub (if zeroDefault && allZero b then [] else b), 0)

/-- A refusal told to a path. -/
def State.refuseWrite (s : State) (p : Path) (o sub piece code : Nat) (d : List Byte) : State :=
  (s.xwNote p o sub 2 d.length piece code d).reply p code []

/-- A piece of a value written. -/
def State.writePiece (s : State) (p : Path) (o sub piece : Nat) (d : List Byte) : State :=
  match s.accessCode p o sub with
  | 0 =>
    let (st, r) := stagePiece (s.path p).staged (objKey o sub) piece d
    let s := s.modPath p fun v => { v with staged := st }
    match r with
    | .refused => s.refuseWrite p o sub piece 0x0104 d
    | .more => s.refuseWrite p o sub piece 0 d
    | .whole b =>
      let (s, c) := s.storeBlob o sub b
      s.refuseWrite p o sub piece c d
  | c => s.refuseWrite p o sub piece c d

/-- A write of a piece of an object served: the gates first, then the piece and its length, then the value. -/
def State.writeAt (s : State) (p : Path) (o sub piece : Nat) (d : List Byte) : State :=
  if !s.serves then s.hold (.write p o sub piece d)
  else if isBlob o sub then s.writePiece p o sub piece d
  else
    match s.accessCode p o sub, objRow o sub with
    | 0, some r =>
      if piece ≠ 0 then s.refuseWrite p o sub piece 0x0104 d
      else if d.length ≠ objBytes o sub r.ty then s.refuseWrite p o sub piece 0x0102 d
      else s.writeNumber p o sub (leNat d)
    | _, _ => s.writeNumber p o sub (leNat d)

/-! ### The commands of Table 15-6 -/

/-- A command with a nonzero reserved field or a field outside its range: CXL return code "invalid input" and reason 0x0A04 (R506). -/
def State.badRequest (s : State) (p : Path) : State := s.emit (.invalidInput p.num 0x0A04)

/-- A malformed access to the dictionary, answered in its place among the accesses held (R515). -/
def State.refuseLength (s : State) (p : Path) : State :=
  if s.serves then s.badRequest p else s.hold (.badLength p)

/-- DICTIONARY_READ (R505, R506, R514). -/
def execDictionaryRead (path : Path) (obj : BitVec 16) (sub : ByteField) (piece : WordField) (s : State) :
    Host.Outcome State Fault Refusal :=
  .next (if 4096 ≤ piece.value.toNat ∨ sub.reserved ≠ 0 ∨ piece.reserved ≠ 0 then s.refuseLength path
    else s.readVia path obj.toNat sub.value.toNat piece.value.toNat)

/-- DICTIONARY_WRITE (R505, R506, R514). -/
def execDictionaryWrite (path : Path) (obj : BitVec 16) (sub : ByteField) (piece : BitVec 16) (data : List Byte) (s : State) :
    Host.Outcome State Fault Refusal :=
  .next (if 4096 ≤ piece.toNat ∨ pieceBytes < data.length ∨ sub.reserved ≠ 0 then s.refuseLength path
    else s.writeAt path obj.toNat sub.value.toNat piece.toNat data)

/-- A whole value of any type written (R509 to R513). -/
def State.writeValue (s : State) (path : Path) (o k : Nat) (data : List Byte) : State :=
  if isBlob o k then s.writeBytes path o k data fun s => s.storeBlob o k data else s.writeAt path o k 0 data

/-- REGISTER_WRITE (R509 to R513). -/
def execRegisterWrite (path : Path) (obj : BitVec 16) (sub : BitVec 8) (data : List Byte) (s : State) :
    Host.Outcome State Fault Refusal :=
  .next (s.writeValue path obj.toNat sub.toNat data)

/-- DESCRIBE_TARGET: what this path's `describe_result` describes (Table 16-4). -/
def execDescribeTarget (path : Path) (value : BitVec 32) (s : State) : Host.Outcome State Fault Refusal :=
  .next (s.writeDo path 0x1002 1 value.toNat fun s => s.storeNum path 0x1002 1 value.toNat)

/-- True when a Route command is well formed: a fabric port, 1 to 512 entries inside the table (R506). -/
def routeOk (port first count : Nat) : Bool :=
  decide (1 ≤ port) && decide (port ≤ 7) && decide (1 ≤ count) && decide (count ≤ 512) && decide (first + count ≤ 131072)

/-- The FM API commands do not come by the MMIO window. -/
def Path.fm : Path → Bool | .mmio => false | _ => true

/-- Entries of a port's route table written; with a reserved bit set in one, none (R490, R505, R506). -/
def State.routeWrite (s : State) (path : Path) (port : ByteField) (first : Nat) (entries : List Byte) : State :=
  let n := port.value.toNat
  let o := 0x61FF + n
  let es := chunksOf 2 512 entries
  if !Path.fm path then s
  else if !s.serves then s.hold (.routeWrite path port first entries)
  else if !routeOk n first (entries.length / 2) || entries.length % 2 != 0 || port.reserved != 0 ||
      es.any (fun e => bits (leNat e) 14 12 != 0) then s.badRequest path
  else match s.accessCode path o 1 with
  | 0 => (s.storeBlob o 1 (patch (s.readBlob path o 1) (2 * first) entries)).1.reply path 0 []
  | c => s.reply path c []

/-- ROUTE_WRITE (R490, R505, R506). -/
def execRouteWrite (path : Path) (port : ByteField) (first : BitVec 32) (entries : List Byte) (s : State) :
    Host.Outcome State Fault Refusal :=
  .next (s.routeWrite path port first.toNat entries)

/-- Entries of a port's route table read (R505). -/
def State.routeRead (s : State) (path : Path) (port : ByteField) (first count : Nat) : State :=
  let n := port.value.toNat
  let o := 0x61FF + n
  if !Path.fm path then s
  else if !s.serves then s.hold (.routeRead path port first count)
  else if !routeOk n first count || port.reserved != 0 then s.badRequest path
  else match s.readCode o 1 with
  | 0 => s.reply path 0 (leBytes 2 count ++ slice (s.readBlob path o 1) (2 * first) (2 * count))
  | c => s.reply path c []

/-- ROUTE_READ (R505). -/
def execRouteRead (path : Path) (port : ByteField) (first count : BitVec 32) (s : State) : Host.Outcome State Fault Refusal :=
  .next (s.routeRead path port first.toNat count.toNat)

/-! ### The window of P0 (Table 15-4) -/

/-- A write of XW_CTRL: dropped while the window is busy; without go only its fields are kept; with it one access, refused for a
reserved op or a length above 4,096, and `go` stays 1 while it is held (R480, R515). -/
def State.window (s : State) (ctrl : Nat) : State :=
  let o := bits ctrl 63 48
  let sub := bits ctrl 47 40
  let op := bits ctrl 39 32
  let len := bits ctrl 31 16
  let piece := bits ctrl 15 4
  let go := { s with host := { s.host with xwCtrl := ctrl / 16 * 16 + if s.serves then 0 else 1 } }
  if !s.p0Up || s.xwBusy then s
  else if !ctrl.testBit 0 then { s with host := { s.host with xwCtrl := ctrl / 16 * 16 } }
  else if op = 1 then go.readVia .mmio o sub piece
  else if op = 2 ∧ len ≤ 4096 then go.writeAt .mmio o sub piece (slice s.host.xwData 0 len)
  else
    ({ s with host := { s.host with xwCtrl := ctrl / 16 * 16, xwReason := 0x0102, xwError := true, xwReturned := 0 } } : State).reply
      .mmio 0x0102 []

/-- WINDOW_READ: XW_CTRL written (R480). -/
def execWindowRead (ctrl : BitVec 64) (s : State) : Host.Outcome State Fault Refusal := .next (s.window ctrl.toNat)

/-- WINDOW_WRITE: XW_DATA written, then XW_CTRL (R480). -/
def execWindowWrite (ctrl : BitVec 64) (data : List Byte) (s : State) : Host.Outcome State Fault Refusal :=
  .next (if !s.p0Up || s.xwBusy then s
    else ({ s with host := { s.host with xwData := patch (slice s.host.xwData 0 4096) 0 data } } : State).window ctrl.toNat)

end Sys2Proof.Machine
end

