-- ==== Sys2Proof/Machine/Links.lean ====
section
/-! DEFINITION. Edge ports, flits and routers (01_package_and_hierarchy.md R17 to R37; 20 R625, R626, R636). -/

namespace Sys2Proof.Machine

/-! ### Ports leaving service -/

/-- True when traffic of partition `p` uses an edge port: its C-dies' own attachments, every M-die (the spread view lies
over all of them), the torus links between the two, X0 and the conductor, and the other X-dies when its images name
collectives or windows (DESIGN CHOICE: log entry 26). -/
def State.usesPort (s : State) (p d port : Nat) : Bool :=
  let cs := ((s.partClusters p).map (· / 4)).dedup
  let ms := (List.range 24).map mDie
  let (d, port) := if bDie 0 ≤ d ∧ d ≤ bDie 15 ∧ 16 ≤ port then otherEnd d port else (d, port)
  if bDie 0 ≤ d ∧ d ≤ bDie 15 then
    let near := (d - bDie 0, port / 4)
    let far := (neighbour (d - bDie 0) (port / 4), opposite (port / 4))
    cs.any fun c => ms.any fun m =>
      let r := route (attachB c) (attachB m) ++ route (attachB m) (attachB c)
      r.contains near || r.contains far
  else if d < 16 then cs.contains d
  else if d < xDie 0 then true
  else if d = xDie 0 ∨ d = sDie (s.num 0x9200 1) then true
  else if d < bDie 0 then (List.range 64).any fun k =>
    s.num (slotObj k) 3 == p && s.num (slotObj k) 5 == 2 &&
      (!(s.imageOf k).colls.isEmpty || (s.imageOf k).regions.any fun g => g.kind == 5 || g.kind == 6)
  else false

/-- The fabric ports of an X-die (Table 15-1). -/
def xPorts (x : Nat) : List Nat := [2 * x, 2 * x + 1]

/-- A die other than a C-die is lost (R36, R626): its state, its event, and what it carried. -/
def State.loseDie (s : State) (d : Nat) : State :=
  if s.dieState d ≠ 0 then s
  else
    let s := s.setNum 0x9210 (d + 1) 2
    let cond := decide (d = sDie (s.num 0x9200 1))
    let s := if sDie 0 ≤ d ∧ !cond then s else s.raise (.of 0x08 (dieUnit d) 3)
    let s := if xDie 0 ≤ d ∧ d < bDie 0 then
        s.forEach (xPorts (d - xDie 0)) fun t n => if n = 0 then t.p0Drop 3 else t.fabricLeaves n
      else s
    let s := s.dropClaim d
    if cond then { s with conductor := { s.conductor with inOffice := false, acks := [] } } else s

/-! ### Routers -/

/-- The age count of a router: units of 16 mc of its 2.0 GHz clock, modulo 256 (Table 1-5). -/
def State.routerAge (s : State) : Nat := s.now / 8 % 256

/-- The output of router `b` towards a die (R29): its attachment, or the next torus direction; the port is the first in
service of the link. None when every port of it is out of service. -/
def State.outPort (s : State) (b dst : Nat) : Option Nat :=
  let ports := match route b (attachB dst) with
    | l :: _ => rangeFrom (4 * l.2) 4
    | [] => match (bPorts b).find? fun (e : Nat × Nat × Nat) => e.1 == dst with
      | some e => rangeFrom e.2.1 e.2.2
      | none => []
  ports.find? fun n => !s.portOut (bDie b) n

/-- True when a packet that left position `start` of a dimension has crossed the dateline, the wrap between 3 and 0, once it has
gone one hop on from position `pos`, upwards or downwards (R30). -/
def pastDateline (start pos : Nat) (up : Bool) : Bool :=
  if up then decide ((pos + 1) % 4 < start) else decide (start < (pos + 3) % 4)

/-- The virtual channel of a packet from B-die `src` on the torus link that leaves B-die `b` in direction `k` (R30): the first of
its class, the second from the dateline on, the first again after the turn. No field of a header carries a channel: both ends of
a link find it from the packet's route, which its header fixes (R29; DEDUCED: log entry 181). The two of class c are numbered 2c
and 2c + 1 (DESIGN CHOICE: log entry 223). -/
def linkVc (src b k cls : Nat) : Nat :=
  let (start, pos) := if k < 2 then (src / 4, b / 4) else (src % 4, b % 4)
  2 * cls + boolNat (pastDateline start pos (k % 2 == 0)) 1

/-- Flits a packet takes (R19): its header's, and its data flit. -/
def Packet.flits (p : Packet) : Nat := if p.words.isEmpty then 1 else 2

/-- A collective message that is lost on the mesh aborts its instance (R37). The message's header stands in its first data flit
(R383); a flit that is no header of the packet's kind names no instance (DEDUCED: log entry 182). -/
def State.loseMessage (s : State) (t : TxHeader) (ws : List CodeWord) : State :=
  let m := collOfBytes (wordBytes (ws.map eccCorrect))
  if m.kind.toNat = t.opcode.toNat ∧ !badMsg m then s.abortInst m.group.toNat m.seq.toNat 0x0604 true else s

/-- A packet that router `b` has received joins the packets waiting at its output; one whose destination cannot be
reached, or whose route has lost its next link, is answered, dropped or sent over the debug ring here (R37, R625). -/
def State.arrive (s : State) (b port : Nat) (t : TxHeader) (ws : List CodeWord) : State :=
  let dst := t.dstDie.toNat
  if 2 ≤ s.dieState dst ∨ s.cutOff dst then s.routerReply t ws
  else match s.outPort b dst with
    | none =>
      if t.msgClass = 3 then s.emit (.ring "control" dst (s.num 0x9200 2) (encodeTx t).toNat)
      else if t.opcode.toNat = 0x01 ∨ t.opcode.toNat = 0x02 ∨ t.opcode.toNat = 0x20 then s.routerReply t ws
      else (s.bump 0x8044 (bDie b + 1) 1).loseMessage t ws
    | some out =>
      let v := if out < 16 then linkVc (attachB t.srcDie.toNat) b (out / 4) t.msgClass.toNat else 2 * t.msgClass.toNat
      { s with packets := s.packets ++ [⟨bDie b, out, t, ws, false, port, v⟩] }

/-- The packets that wait for a port out of service are placed again: on a port of the same link that remains, or as R37 says
(R34). -/
def State.rehome (s : State) : State :=
  let (moved, rest) := s.packets.partition fun p => s.portOut p.die p.port
  ({ s with packets := rest } : State).forEach moved fun s p => s.arrive (p.die - bDie 0) p.inPort p.header p.words

/-- True when port state `o`, at the other end of a link, has taken a held packet with all its data. -/
def LinkSt.took (o : LinkSt) (x : HeldPacket) : Bool :=
  decide (0 < o.taken) && (serialAhead 12 o.lastSeq x.seq ||
    (o.lastSeq == x.seq && (x.words.isEmpty || decide (o.group.length < o.taken))))

/-- What port `n` of die `d` has sent and the other end of its link has not taken whole. -/
def State.untaken (s : State) (d n : Nat) : List HeldPacket :=
  let e := otherEnd d n
  (s.link d n).held.filter fun x => !(s.link e.1 e.2).took x

/-- Die `d` sends again, by the ports that remain, what it had sent by a port that left service (R34); a die with no port left
sends nothing. -/
def State.sendAgain (s : State) (d : Nat) (lost : List HeldPacket) : State :=
  s.forEach lost fun s x =>
    if bDie 0 ≤ d ∧ d ≤ bDie 15 then s.arrive (d - bDie 0) x.inPort x.header x.words
    else match s.sendPort d with
      | some n => (s.setLink d n ((s.link d n).sending x.header x.words 0)).emit (.packet x.header x.words)
      | none => s

/-- The credits an output holds on a virtual channel. -/
def LinkSt.credit (l : LinkSt) (vc : Nat) : Nat := tabGet 8 l.credits vc

/-- True when packet `p` goes before `q` at an output (R32, R636): stale ones first, then the older, then the lower
input port. -/
def Packet.before (p q : Packet) : Bool :=
  if p.stale != q.stale then p.stale
  else if p.stale then decide (p.inPort < q.inPort)
  else if p.header.age = q.header.age then decide (p.inPort < q.inPort)
  else serialAhead 8 q.header.age.toNat p.header.age.toNat

/-- The winner of a list of packets. -/
def winner : List Packet → Option Packet
  | [] => none
  | p :: t => match winner t with
    | none => some p
    | some q => some (if Packet.before q p then q else p)

/-- True when a packet can go now: its flits have credits (R30) and room to be held for a replay (R26). -/
def LinkSt.room (l : LinkSt) (p : Packet) : Bool :=
  decide (p.flits ≤ l.credit p.vc) && decide (heldFlits l.held + p.flits ≤ 128)

/-- The packets that compete for an output (R33): a latency-critical one shuts out requests and responses, unless others wait and
it would take more than one flit in eight (log entry 175). -/
def contenders (sinceLc : Nat) (here : List Packet) : List Packet :=
  let isLc := fun (p : Packet) => decide (p.header.msgClass = 2)
  let others := here.filter fun p => !isLc p
  let lc := here.filter fun p => isLc p && (others.isEmpty || decide (7 * p.flits ≤ sinceLc))
  if lc.isEmpty then others else lc ++ others.filter fun p => decide (p.header.msgClass = 3)

/-- One output of a die sends the oldest of the packets that compete for it (R31 to R33). -/
def State.sendFrom (s : State) (d out : Nat) : State :=
  let l := s.link d out
  let here := s.packets.filter fun p => p.die == d && p.port == out && l.room p
  match winner (contenders l.sinceLc here) with
  | none => s
  | some p =>
    let cr := tabSet 8 l.credits p.vc (l.credit p.vc - p.flits)
    let since := if p.header.msgClass = 2 then 0 else min 14 (l.sinceLc + p.flits)
    let s := { s with packets := s.packets.erase p }
    let s := s.setLink d out { l.sending p.header p.words p.inPort with credits := cr, sinceLc := since }
    s.emit (.packet p.header p.words)

/-- Every output of router `b` sends once. -/
def State.router (s : State) (b : Nat) : State := s.forEach (List.range (portCount (bDie b))) fun t n => t.sendFrom (bDie b) n

/-- A header, with its data, has been received by die `d`: handed on by a router, or to the units of the die. -/
def State.received (s : State) (d port : Nat) (t : TxHeader) (ws : List CodeWord) : State :=
  if bDie 0 ≤ d ∧ d ≤ bDie 15 ∧ t.dstDie.toNat ≠ d then s.arrive (d - bDie 0) port t ws
  else s.emit (.packet t ws)

/-! ### Ports out of service -/

/-- What follows when a die or a torus link has no port left (R36, R37). -/
def State.afterLeave (s : State) (d port : Nat) : State :=
  let ends := [(d, port), otherEnd d port]
  s.forEach ends fun t e =>
    if bDie 0 ≤ e.1 ∧ e.1 ≤ bDie 15 then
      if e.2 < 16 ∧ e.1 = d ∧ t.torusLost (e.1 - bDie 0) (e.2 / 4) then t.raise (.of 0x08 (dieUnit e.1) 3) else t
    else if !t.cutOff e.1 then t
    else if e.1 < 16 then
      (t.setNum 0x9210 (e.1 + 1) (if t.dieState e.1 = 0 then 1 else t.dieState e.1)).forEach
        (rangeFrom (4 * e.1) 4) fun t k => t.fenceCluster k 7
    else t.loseDie e.1

/-- An edge port leaves service (R34): the uncorrectable-error event, a breach for every partition with a step in
flight whose traffic used the port, then R36 and R37; the traffic of both directions moves: what either end had sent and the other
has not taken, and what waited for the port. -/
def State.portLeaves (s : State) (d port : Nat) : State :=
  if (s.link d port).state = 2 then s
  else
    let far := otherEnd d port
    let mine := s.untaken d port
    let theirs := s.untaken far.1 far.2
    let s := s.setLink d port { LinkSt.idle with state := 2 }
    let s := s.setLink far.1 far.2 { s.link far.1 far.2 with held := [] }
    let e := Event.of 0x02 (dieUnit d) (port + 256)
    let ps := (List.range 16).filter fun p => (s.running p).isSome && s.usesPort p d port
    let s := if ps.isEmpty then s.raise { e with breach := true }
      else s.forEach ps fun t p => t.raiseBreach p { e with step := t.runningSeq p }
    (((s.afterLeave d port).sendAgain d mine).sendAgain far.1 theirs).rehome

/-- EDGE_PORT_TRAINING: an edge port trains at 32 GT/s on all lanes, or is recorded as failed and stays out of service
(R17). -/
def execEdgePortTraining (die : BitVec 6) (port : BitVec 5) (trained : Bool) (s : State) :
    Host.Outcome State Fault Refusal :=
  .next (let d := die.toNat
    let n := port.toNat
    if portCount d ≤ n ∨ (s.link d n).state ≠ 0 then s
    else if trained then s.setLink d n { LinkSt.idle with state := 1 }
    else s.portLeaves d n)

/-! ### Flits -/

/-- True for the transactions that carry a data flit (Table 1-6, Tables 10-2 and 11-4): a collective message carries its header
in one (R383). -/
def carriesData (op : Nat) : Bool :=
  op == 0x02 || op == 0x10 || op == 0x20 || (decide (0x30 ≤ op) && decide (op ≤ 0x3A))

/-- A reserved opcode, or a field that must be zero and is not (R24, Tables 1-5 and 1-6): the mask of every transaction but a
write and the stop messages that use it (Table 19-7). -/
def badHeader24 (t : TxHeader) : Bool :=
  let op := t.opcode.toNat
  !([0x01, 0x02, 0x10, 0x11, 0x20, 0x21].contains op || (decide (0x30 ≤ op) && decide (op ≤ 0x3A)) ||
      (decide (0x3C ≤ op) && decide (op ≤ 0x3E))) ||
    (!(op == 0x02 || op == 0x3C || op == 0x3D) && t.mask != 0) ||
    (decide (16 ≤ t.srcDie.toNat) && t.srcCluster != 0) || (decide (16 ≤ t.dstDie.toNat) && t.dstCluster != 0)

/-- A link header with a nonzero reserved field or a reserved link state (R11, Table 1-4). -/
def badLink (h : LinkHeader) : Bool := h.reserved != 0 || decide (4 ≤ h.linkState.toNat)

/-- The eight lanes from 8l on in one UI. -/
def uiByte (x : BitVec 256) (l : Nat) : Byte := x.extractLsb' (8 * l) 8

/-- Word `w` of a flit from its nine UI of 256 lanes: its bits 8u to 8u + 7 travel in UI u on lanes 8((w + u) mod 32) on (R18). -/
def wireWord (ui : List (BitVec 256)) (w : Nat) : CodeWord :=
  BitVec.ofNat 72 (leNat ((List.range 9).map fun u => uiByte (ui.getD u 0) ((w + u) % 32)))

/-- The 32 words of a flit from its nine UI (R18). -/
def wireWords (ui : List (BitVec 256)) : List CodeWord := (List.range 32).map (wireWord ui)

/-- The nine UI that carry the 32 words of a flit (R18). -/
def toWire (ws : List CodeWord) : List (BitVec 256) :=
  (List.range 9).map fun u => BitVec.ofNat 256 (leNat ((List.range 32).map fun l =>
    ((ws.getD ((l + 32 - u) % 32) 0).extractLsb' (8 * u) 8)))

/-- A 128-bit unit of a flit as two codewords, bits [127:64] in the second (log entry 180). -/
def pairWords (x : BitVec 128) : List CodeWord := [eccEncode (x.extractLsb' 0 64), eccEncode (x.extractLsb' 64 64)]

/-- The flits of a held packet as port state `l` sends them: its control flit with the packet in slot 0, and its data flit. -/
def HeldPacket.resent (l : LinkSt) (x : HeldPacket) : List (List (BitVec 256)) :=
  let h : LinkHeader :=
    { flitSeq := BitVec.ofNat 12 x.seq, ackSeq := BitVec.ofNat 12 l.lastSeq, dataCount := if x.words.isEmpty then 0 else 1
      slotValid := 1, creditVcA := 0, creditCntA := 0, creditVcB := 0, creditCntB := 0, linkState := 0, reserved := 0 }
  let empty : List CodeWord := List.replicate 28 (eccEncode 0)
  let ctl := pairWords (encodeLink h) ++ pairWords (encodeTx x.header) ++ empty
  toWire ctl :: (if x.words.isEmpty then [] else [toWire x.words])

/-- What a received flit is: taken with its words, or to be replayed. A word uncorrectable with the same syndrome as when the
flit last came is forwarded unchanged (R25 to R27). -/
def State.takeFlit (s : State) (d n : Nat) (ws : List CodeWord) : State × Option (List CodeWord) :=
  let l := s.link d n
  let (fixed, bad) := checkFlit ws
  if bad.all (tabGet [] l.bad l.place).contains then (s.count 0x8043 (d + 1) bad.length, some fixed)
  else (s.setLink d n { l with bad := tabSet [] l.bad l.place bad, waiting := true }, none)

/-- What the data flits after a control flit belong to, in slot order (R20): as many as `data_count` says; a header that is
dropped loses its data (R24). -/
def announcedBy (h : LinkHeader) (ts : List TxHeader) : List (Option TxHeader) :=
  let data := (ts.filter fun t => carriesData t.opcode.toNat).map fun t =>
    if badHeader24 t || badLink h then none else some t
  (data ++ List.replicate 15 none).take h.dataCount.toNat

/-- A control flit that continues the sequence is taken (R19, R24, R26): its acknowledgement frees what is held, its credits are
counted, its sound headers are received and the others dropped, counted and reported; under a link header at fault all are
dropped (log entry 183). -/
def State.takeControl (s : State) (d n : Nat) (h : LinkHeader) (ts : List TxHeader) : State :=
  let l := s.link d n
  let add := fun (t : Tab Nat) (v c : Nat) => tabMod 8 t v (· + c)
  let l := { l with
    lastSeq := h.flitSeq.toNat, group := announcedBy h ts, place := 1, taken := 1, replays := [], bad := []
    held := l.held.filter fun x => x.seq == h.ackSeq.toNat || serialAhead 12 x.seq h.ackSeq.toNat
    credits := if badLink h then l.credits else
      add (add l.credits h.creditVcA.toNat h.creditCntA.toNat) h.creditVcB.toNat h.creditCntB.toNat }
  let s := s.setLink d n l
  let drop := fun (s : State) => (s.raise (.of 0x02 (dieUnit d) n)).bump 0x8044 (d + 1) 1
  if badLink h then drop s
  else
    let s := s.forEach (ts.filter badHeader24) fun s _ => drop s
    let s := if h.linkState.toNat = 1 then
        s.emits (l.held.flatMap fun x => (x.resent l).map (.flit d n))
      else s
    s.forEach (ts.filter fun t => !badHeader24 t && !carriesData t.opcode.toNat) fun s t => s.received d n t []

/-- The packets at a router's outputs go on. -/
def State.routerAt (s : State) (d : Nat) : State := if bDie 0 ≤ d ∧ d ≤ bDie 15 then s.router (d - bDie 0) else s

/-- CONTROL_FLIT: a control flit is checked, its link header read, its headers taken (R18 to R27, R29 to R33). The last control
flit again, in a replay, is not taken again; one out of sequence is dropped. -/
def execControlFlit (die : BitVec 6) (port : BitVec 5) (ui : List (BitVec 256)) (s : State) :
    Host.Outcome State Fault Refusal :=
  .next (let d := die.toNat
    let n := port.toNat
    let l := s.link d n
    if l.state ≠ 1 ∨ l.waiting ∨ ui.length ≠ 9 ∨ (l.place ≠ 0 ∧ l.place ≠ l.group.length + 1) then s
    else match s.takeFlit d n (wireWords ui) with
      | (s, none) => s
      | (s, some ws) =>
        let h := decodeLink (pairAt ws 0)
        let ts := ((List.range 15).filter fun k => h.slotValid.getLsbD k).map fun k => decodeTx (pairAt ws (k + 1))
        if h.flitSeq.toNat = l.lastSeq ∧ 0 < l.taken then s.setLink d n { l with place := 1 }
        else if h.flitSeq.toNat ≠ (l.lastSeq + 1) % 4096 then s
        else if !badLink h ∧ h.linkState.toNat = 3 ∧ h.slotValid = 0 then
          -- The other side quiesces: its die takes its ports out of use (R631; log entry 30).
          s.portLeaves d n
        else ((s.takeControl d n h ts).emit (.link "ack" d n h.flitSeq.toNat)).routerAt d)

/-- DATA_FLIT: a data flit announced by the last control flit is checked and joined to its header (R19, R20, R25 to
R27); one taken before the replay that brings it is not taken again. -/
def execDataFlit (die : BitVec 6) (port : BitVec 5) (ui : List (BitVec 256)) (s : State) :
    Host.Outcome State Fault Refusal :=
  .next (let d := die.toNat
    let n := port.toNat
    let l := s.link d n
    if l.state ≠ 1 ∨ l.waiting ∨ ui.length ≠ 9 ∨ l.place = 0 ∨ l.group.length < l.place then s
    else match s.takeFlit d n (wireWords ui) with
      | (s, none) => s
      | (s, some ws) =>
        let s := s.setLink d n { l with place := l.place + 1, taken := max l.taken (l.place + 1) }
        if l.place < l.taken then s
        else match l.group.getD (l.place - 1) none with
          | none => s
          | some t => (s.received d n t ws).routerAt d)

/-- LINK_REPLAY_REQUEST: the receiver that found an uncorrectable word asks for a replay from the last intact control
flit; a fourth replay of one flit takes the port out of service (R26, R28). -/
def execLinkReplayRequest (die : BitVec 6) (port : BitVec 5) (s : State) : Host.Outcome State Fault Refusal :=
  .next (let d := die.toNat
    let n := port.toNat
    let l := s.link d n
    let asked := tabGet 0 l.replays l.place
    if l.state ≠ 1 ∨ !l.waiting then s
    else if 3 ≤ asked then s.portLeaves d n
    else
      let s := (s.count 0x8042 (d + 1) 1).setLink d n
        { l with waiting := false, replays := tabSet 0 l.replays l.place (asked + 1), place := if l.taken = 0 then 1 else 0 }
      s.emit (.link "replay" d n l.lastSeq))

/-- PACKET_STALE: the packet at place `idx` of the packets waiting at a router is marked stale (R636), and its output
sends. -/
def execPacketStale (die : BitVec 6) (idx : Nat) (s : State) : Host.Outcome State Fault Refusal :=
  .next (let d := die.toNat
    match (s.packets.filter fun p => p.die == d)[idx]? with
    | none => s
    | some p =>
      let s := { s with packets := s.packets.map fun q => if q = p then { q with stale := true } else q }
      s.sendFrom d p.port)

end Sys2Proof.Machine
end

