-- ==== Sys2Proof/Machine/Office.lean ====
section
/-! DEFINITION. Taking office as conductor (20_faults_and_guarantees.md R629 to R631), with the accesses held during the change of
leadership (16_xemond_dictionary.md R515). -/

namespace Sys2Proof.Machine

/-- An access served. -/
def State.runAccess (s : State) : HeldAccess → State
  | .read p o sub piece => s.readVia p o sub piece
  | .write p o sub piece d => s.writeAt p o sub piece d
  | .number p o sub v => s.writeNumber p o sub v
  | .value p o sub d => s.writeValue p o sub d
  | .routeRead p port first count => s.routeRead p port first count
  | .routeWrite p port first entries => s.routeWrite p port first entries
  | .badLength p => s.refuseLength p
  | .firmware d => s.pldmUpdate d

/-- The accesses held during a change of leadership completed, each once, in the order in which they came (R515). -/
def State.serveHeld (s : State) : State :=
  let l := s.heldOps
  ({ s with heldOps := [] }).forEach l State.runAccess

/-- An S-die becomes conductor with a term: the event, and every session ends (Tables 20-2 and 18-8); stops and accesses
held during the change go on (R515). -/
def State.takeOffice (s : State) (d t : Nat) : State :=
  let s := ((s.setNum 0x9200 1 d).setNum 0x9200 2 t).modConductor fun c => { c with inOffice := true, acks := [], claim := none }
  let s := (s.raise (.of 0x16 s.conductorUnit (d + t * 2 ^ 16 + (if s.split then 2 else 1) * 2 ^ 32))).setSessions []
  ((s.forEach (List.range 16) State.settleCut).forEach (List.range 16) State.settleHang).serveHeld

/-- A claim without a majority: its grants released, and with both crossings lost the half fenced (R629, R631). -/
def State.failClaim (s : State) (d t grants : Nat) : State :=
  let s := (s.modConductor fun c => { c with claim := none }).emits
    ((setBits 3 grants).map fun r => Output.ring "GRANT RELEASE" (tokenDie r) t d)
  if !s.split then s
  else
    let half := (List.range 64).filter fun x => westDie x == westDie (sDie d)
    (s.setNum 0x9200 5 s.now).emits (half.map fun x => Output.ring "FENCE" x t d)

/-- CLAIM_GRANT: the grants of a claim return, bit r for register r (R629); a claimant cut off meanwhile takes no office (R36). -/
def execClaimGrant (sdie : BitVec 2) (grants : BitVec 3) (s : State) : Host.Outcome State Fault Refusal :=
  .next (match s.conductor.claim with
    | none => s
    | some (d, t) =>
      if d ≠ sdie.toNat then s
      else if !s.elects d then s.modConductor fun c => { c with claim := none }
      else if 2 ≤ popCount 3 grants.toNat then s.takeOffice d t
      else s.failClaim d t grants.toNat)

end Sys2Proof.Machine
end

