-- ==== Sys2Proof/Machine/Vector.lean ====
section
/-! DEFINITION. The vector engine: VOP, VCVT, VROW, SFN, SFM (04 Tables 4-5, 4-6, 4-8; 02 R72 to R77; 06 R228 to R232;
07 R254 to R273). -/

namespace Sys2Proof.Machine

/-- The elements of a tile in order, on entry to the vector engine as FP32 (R77). -/
def Tile.flat32 (t : Tile) : List Nat :=
  (List.range t.rows.length).flatMap fun r => (List.range (t.rows.getD r []).length).map fun k => t.f32At r k

/-- The exact values of the elements of a tile in order. -/
def Tile.flatVals (t : Tile) : List FVal :=
  (List.range t.rows.length).flatMap fun r => (List.range (t.rows.getD r []).length).map fun k => t.fullVal r k

/-- The rows of a destination filled from a list of results; an element without a result is a free value that depends on
the results alone (R105). -/
def fitRows (d : Desc) (vs : List FVal) : List (List FVal) :=
  let w := d.rowElems.toNat
  let key := if vs.length < d.elems then vs.map toF32 else []
  (List.range d.rows.toNat).map fun r => (List.range w).map fun k =>
    vs.getD (r * w + k) (f32 (Config.unfilled key (r * w + k)).toNat)

/-- Results written to a destination (R77). -/
def State.putResults (s : State) (a : Act) (d : Desc) (sat : Bool) (vs : List FVal) : State :=
  s.writeTile a.pc d a.loops sat (fitRows d vs)

/-- The tile scales of a two-level destination, read before it is written (R70). -/
def State.scaleReads (s : State) (a : Act) (d : Desc) : List (Nat × Fetched) :=
  if d.scaleMode = 2 then
    [(0, (s.core a.pc).opnd.fetch (d.loc a.loops 0).tscale0 (4 * (d.rowElems.toNat / 64)))] else []

/-! ### VOP and VCVT -/

/-- The result of an element-wise VOP on FP32 encodings (Table 4-6). -/
def vopElem (op a b c : Nat) : FVal :=
  let va := f32 a
  let vb := f32 b
  match op with
  | 0x01 => f32 (f32add a b)
  | 0x02 => f32 (f32sub a b)
  | 0x03 => f32 (f32mul a b)
  | 0x04 => f32 (f32fma a b c)
  | 0x05 => f32 (f32div a b)
  | 0x06 => f32 (f32sqrt a)
  | 0x07 => va.max vb
  | 0x08 => va.min vb
  | 0x09 => va.abs
  | 0x0A => va.negate
  | 0x0B => va
  | _ => if (f32 c).isZero then vb else va

/-- Element `k` of a source of `n` elements for a destination of `d` elements: broadcast of a single row (R169). -/
def pick (l : List Nat) (n d k : Nat) : Nat := if n = d then l.getD k 0 else l.getD (k % n) 0

/-- ROWSUM or ROWMAX of one row (Table 4-6). -/
def rowReduce (op : Nat) (l : List Nat) : FVal :=
  if op = 0x0D then f32 (l.foldl f32add f32zero)
  else match l with
    | [] => f32 f32zero
    | x :: t => t.foldl (fun (m : FVal) y => m.max (f32 y)) (f32 x)

/-- The effect of VOP. -/
def State.vopEffect (s : State) (a : Act) (f : VopFields) : State :=
  let q := (s.core a.pc).sq.prog
  let op := f.op.toNat
  let dst := q.desc f.dst.toNat
  let rd := fun i : BitVec 12 => s.readTile a.pc (q.desc i.toNat) a.loops 0
  let none : Tile := ⟨0, [], [], [], []⟩
  let n := vopArity op
  let ta := rd f.srcA
  let tb := if 2 ≤ n then rd f.srcB else none
  let tc := if 3 ≤ n then rd f.srcC else none
  let (s1, ok) := s.checked a (ta.reads ++ tb.reads ++ tc.reads)
  if !ok then s1
  else
    let la := ta.flat32
    let lb := tb.flat32
    let lc := tc.flat32
    let res :=
      if isRowOp op then
        let rows := (List.range dst.rows.toNat).map fun r =>
          rowReduce op ((List.range (ta.rows.getD (if ta.rows.length = 1 then 0 else r) []).length).map fun k =>
            ta.f32At (if ta.rows.length = 1 then 0 else r) k)
        rows
      else (List.range dst.elems).map fun k =>
        vopElem op (pick la la.length dst.elems k) (pick lb lb.length dst.elems k) (pick lc lc.length dst.elems k)
    s1.putResults a dst (vecSat dst.fmt.toNat) res

/-- VOP: an element-wise operation in FP32 (R169). -/
def execVop (c : CoreId) (h : Header) (f : VopFields) (s : State) : Host.Outcome State Fault Refusal :=
  .next (s.issue c.toNat 2 (.vop h f) fun s a => s.arith a (.vop h f) true fun s => s.vopEffect a f)

/-- The effect of VCVT: each exact source value converted once under the saturation flag (R72, R652). -/
def State.vcvtEffect (s : State) (a : Act) (f : VcvtFields) : State :=
  let q := (s.core a.pc).sq.prog
  let dst := q.desc f.dst.toNat
  let t := s.readTile a.pc (q.desc f.src.toNat) a.loops 0
  let (s1, ok) := s.checked a (t.reads ++ s.scaleReads a dst)
  if !ok then s1 else s1.putResults a dst (f.sat == 1) t.flatVals

/-- VCVT: conversion to the destination format (R72). -/
def execVcvt (c : CoreId) (h : Header) (f : VcvtFields) (s : State) : Host.Outcome State Fault Refusal :=
  .next (s.issue c.toNat 2 (.vcvt h f) fun s a => s.arith a (.vcvt h f) true fun s => s.vcvtEffect a f)

/-! ### VROW -/

/-- A row of the finish (R228, R229): its output, lse and status bit. -/
def finishRow (b : Bank) (m l : Nat) (o : List Nat) : List FVal × Nat × Bool :=
  if (f32 m).isNan || (f32 l).isNan then (o.map fun _ => FVal.nan, f32nan, false)
  else if (f32 l).isZero then (o.map fun _ => f32 f32zero, f32sentinel, true)
  else (o.map fun x => f32 (f32div x l), f32add m (sfnLog true b l), false)

/-- The rows of a tile as FP32 encodings. -/
def Tile.rows32 (t : Tile) : List (List Nat) :=
  (List.range t.rows.length).map fun r => (List.range (t.rows.getD r []).length).map fun k => t.f32At r k

/-- The effect of VROW: the finish, a softmax block update, or the plain stages (R228, R232, Table 4-10). -/
def State.vrowEffect (s : State) (a : Act) (f : VrowFields) : State :=
  let k := s.core a.pc
  let q := k.sq.prog
  let r := q.rowDesc f.descRow.toNat
  let dst := q.desc f.dst.toNat
  let t := s.readTile a.pc (q.desc f.src.toNat) a.loops 0
  let sb := r.statBank.toNat
  let h := t.rows.length
  let (qs, ks) := if r.softmax = 0 ∧ r.status = 1 then ([], []) else s.maskReads a r
  let accs := if usesStat r then s.accReads a.pc sb 0 h 2 else []
  let (s1, ok) := s.checked a (t.reads ++ qs ++ ks ++ accs)
  if !ok then s1
  else
    let stat := fun i => s.accRow a.pc sb i 2
    if r.softmax = 0 ∧ r.status = 1 then
      let rows := t.rows32.zipIdx.map fun x =>
        finishRow k.bankActive ((stat x.2).getD 0 0) ((stat x.2).getD 1 0) x.1
      let hits := (List.range h).flatMap fun i => sfnHits 0x04 ((stat i).getD 1 0)
      let (s1, ok) := s1.bankReads a k.bankActive hits
      if !ok then s1 else
      let s2 := s1.putResults a dst (vecSat dst.fmt.toNat) (rows.flatMap (·.1))
      let s3 := s2.forEach rows.zipIdx fun s x =>
        s.writeLocal a.pc 2 (accAddr sb x.2 0 + 8) (leBytes 4 x.1.2.1)
      s3.writeStatus a r (rows.map fun x => x.2.2)
    else
      let rows := t.rows32.zipIdx.map fun x =>
        let masked := maskOf r qs ks x.2
        if r.softmax = 1 then softmaxRow k.bankActive r masked ((stat x.2).getD 0 0) ((stat x.2).getD 1 0) x.1
        else plainRow r masked 0 0 x.1
      let vals := (rows.flatMap (·.weights)).map f32
      let hits := if r.softmax = 1 then rows.zipIdx.flatMap fun x => x.1.hits ((stat x.2).getD 0 0) else []
      let (s1, ok) := s1.bankReads a k.bankActive hits
      if !ok then s1 else
      let s2 := s1.putResults a dst (r.softmax == 1 || vecSat dst.fmt.toNat) vals
      let s3 := if r.softmax = 1 then s2.writeStat a.pc sb rows false else s2
      s3.writeStatus a r (rows.map (·.allMasked))

/-- VROW: the row function of its descriptor, holding the row-function pipeline (R112, R232). -/
def execVrow (c : CoreId) (h : Header) (f : VrowFields) (s : State) : Host.Outcome State Fault Refusal :=
  .next (s.issue c.toNat 2 (.vrow h f) fun s a => s.arith a (.vrow h f) true fun s => s.vrowEffect a f)

/-! ### SFN and SFM -/

/-- The coefficient banks exchanged (R273). -/
def State.swapBanks (s : State) (pc : Nat) : State :=
  s.modCore pc fun k => { k with bankActive := k.bankShadow, bankShadow := k.bankActive }

/-- True when an SFN may issue: it asks for no swap, or the shadow bank holds the generation it names (R170, R273). -/
def State.swapReady (s : State) (pc : Nat) (f : SfnFields) : Bool :=
  f.swap == 0 || (s.core pc).bankShadow.gen == some f.generation.toNat

/-- The effect of SFN: the swap first, then each element from the bank then active (R254, R270, R273). -/
def State.sfnEffect (s : State) (a : Act) (f : SfnFields) : State :=
  let s := if f.swap = 1 then s.swapBanks a.pc else s
  let q := (s.core a.pc).sq.prog
  let t := s.readTile a.pc (q.desc f.src.toNat) a.loops 0
  let (s1, ok) := s.checked a t.reads
  if !ok then s1
  else
    let b := (s.core a.pc).bankActive
    let ys := t.flat32.map fun x => sfnEval (s.compat a.pc) b f.func.toNat x
    let compat := s.compat a.pc && sfnIsCompat f.func.toNat
    let (s1, ok) := s1.bankReads a b (if compat then [] else t.flat32.flatMap (sfnHits f.func.toNat))
    if !ok then s1 else
    let dst := q.desc f.dst.toNat
    let s2 := s1.putResults a dst (vecSat dst.fmt.toNat) (ys.map fun y => f32 y.1)
    if f.func = 0x0E then
      let d2 := q.desc f.dst2.toNat
      s2.putResults a d2 (vecSat d2.fmt.toNat) (ys.map fun y => f32 y.2)
    else s2

/-- SFN: one special function per element (R254). -/
def execSfn (c : CoreId) (h : Header) (f : SfnFields) (s : State) : Host.Outcome State Fault Refusal :=
  .next (s.issue c.toNat 2 (.sfn h f) fun s a => s.arith a (.sfn h f) (s.swapReady a.pc f) fun s => s.sfnEffect a f)

/-- The words of the microprogram store that a call of `n` passes reads: its micro-instructions, and the constant groups of four
words that they name (R266, R267, R617). -/
def microWords (micro : List (BitVec 64)) (start n : Nat) : List Nat :=
  rangeFrom start n ++ ((micro.drop start).take n).flatMap fun w => rangeFrom (256 + 4 * (w.toNat >>> 14 % 64)) 4

/-- The effect of SFM: the passes of a microprogram over each element (R267). -/
def State.sfmEffect (s : State) (a : Act) (f : SfmFields) : State :=
  let k := s.core a.pc
  let q := k.sq.prog
  let t := s.readTile a.pc (q.desc f.src.toNat) a.loops 0
  let (s1, ok) := s.checked a t.reads
  if !ok then s1
  else
    let dst := q.desc f.dst.toNat
    let hits := t.flat32.flatMap fun x => sfmHits k.bankActive k.micro k.groups f.program.toNat f.passes.toNat x f32zero
    let (s1, ok) := s1.bankReads a k.bankActive hits
    let (s1, ok2) := s1.storeRead a.p a.pc a.u k.microErrs
      (microWords k.micro f.program.toNat f.passes.toNat)
    if !(ok && ok2) then s1 else
    s1.putResults a dst (vecSat dst.fmt.toNat) (t.flat32.map fun x =>
      f32 (sfmRun k.bankActive k.micro k.groups f.program.toNat f.passes.toNat x f32zero))

/-- SFM: a microprogram call (R267). -/
def execSfm (c : CoreId) (h : Header) (f : SfmFields) (s : State) : Host.Outcome State Fault Refusal :=
  .next (s.issue c.toNat 2 (.sfm h f) fun s a => s.arith a (.sfm h f) true fun s => s.sfmEffect a f)

end Sys2Proof.Machine
end

