-- ==== Sys2Proof/Machine/Dispatch.lean ====
section
/-! DEFINITION. One arm per command: its meaning, or its refusal by name. -/

namespace Sys2Proof.Machine

def exec (i : Instr) (s : State) : Host.Outcome State Fault Refusal :=
  match i with
  | .twait c u h => Sys2Proof.Machine.execTwait c u h s
  | .tsig c u h => Sys2Proof.Machine.execTsig c u h s
  | .loop c u h count body => Sys2Proof.Machine.execLoop c u h count body s
  | .brb c h bracket => Sys2Proof.Machine.execBrb c h bracket s
  | .yield c u h passEnd segment => Sys2Proof.Machine.execYield c u h passEnd segment s
  | .stepEnd c u h => Sys2Proof.Machine.execStepEnd c u h s
  | .mma c h f => Sys2Proof.Machine.execMma c h f s
  | .mmab c h f => Sys2Proof.Machine.execMmab c h f s
  | .mmf c h f => Sys2Proof.Machine.execMmf c h f s
  | .vop c h f => Sys2Proof.Machine.execVop c h f s
  | .vcvt c h f => Sys2Proof.Machine.execVcvt c h f s
  | .vrow c h f => Sys2Proof.Machine.execVrow c h f s
  | .sfn c h f => Sys2Proof.Machine.execSfn c h f s
  | .sfm c h f => Sys2Proof.Machine.execSfm c h f s
  | .ld c h desc => Sys2Proof.Machine.execLd c h desc s
  | .ldp c h f => Sys2Proof.Machine.execLdp c h f s
  | .halo c outbound h f => Sys2Proof.Machine.execHalo c outbound h f s
  | .st c h desc => Sys2Proof.Machine.execSt c h desc s
  | .stCollectiveStart c h desc coll => Sys2Proof.Machine.execStCollectiveStart c h desc coll s
  | .stNmuCommand c h desc => Sys2Proof.Machine.execStNmuCommand c h desc s
  | .instructionComplete c u => Sys2Proof.Machine.execInstructionComplete c u s
  | .transferComplete c u ac => Sys2Proof.Machine.execTransferComplete c u ac s
  | .remoteTokenSignal k => Sys2Proof.Machine.execRemoteTokenSignal k s
  | .landingSignal k counter ac => Sys2Proof.Machine.execLandingSignal k counter ac s
  | .barrierArrival c => Sys2Proof.Machine.execBarrierArrival c s
  | .yieldRelease c ac => Sys2Proof.Machine.execYieldRelease c ac s
  | .stepStart p => Sys2Proof.Machine.execStepStart p s
  | .backfillStart p => Sys2Proof.Machine.execBackfillStart p s
  | .stepResume p => Sys2Proof.Machine.execStepResume p s
  | .stepReplay p => Sys2Proof.Machine.execStepReplay p s
  | .completionRecord n => Sys2Proof.Machine.execCompletionRecord n s
  | .hangTimeout c u => Sys2Proof.Machine.execHangTimeout c u s
  | .edgePortTraining die port trained => Sys2Proof.Machine.execEdgePortTraining die port trained s
  | .controlFlit die port ui => Sys2Proof.Machine.execControlFlit die port ui s
  | .dataFlit die port ui => Sys2Proof.Machine.execDataFlit die port ui s
  | .linkReplayRequest die port => Sys2Proof.Machine.execLinkReplayRequest die port s
  | .packetStale die idx => Sys2Proof.Machine.execPacketStale die idx s
  | .rdg t => Sys2Proof.Machine.execRdg t s
  | .wrg t words => Sys2Proof.Machine.execWrg t words s
  | .rdgRsp t words => Sys2Proof.Machine.execRdgRsp t words s
  | .wrgAck t => Sys2Proof.Machine.execWrgAck t s
  | .ncmd t words => Sys2Proof.Machine.execNcmd t words s
  | .ncmdAck t => Sys2Proof.Machine.execNcmdAck t s
  | .decode stack p => Sys2Proof.Machine.execDecode stack p s
  | .stats stack p => Sys2Proof.Machine.execStats stack p s
  | .ewise stack p => Sys2Proof.Machine.execEwise stack p s
  | .reduce stack p => Sys2Proof.Machine.execReduce stack p s
  | .nmuCommandEnd stack p => Sys2Proof.Machine.execNmuCommandEnd stack p s
  | .cstart p m first count => Sys2Proof.Machine.execCstart p m first count s
  | .cdata m payload => Sys2Proof.Machine.execCdata m payload s
  | .cresult m payload => Sys2Proof.Machine.execCresult m payload s
  | .cclean m => Sys2Proof.Machine.execCclean m s
  | .cfix m => Sys2Proof.Machine.execCfix m s
  | .crecall m => Sys2Proof.Machine.execCrecall m s
  | .cbusy m => Sys2Proof.Machine.execCbusy m s
  | .cbusyRetry idx => Sys2Proof.Machine.execCbusyRetry idx s
  | .cack m => Sys2Proof.Machine.execCack m s
  | .cackTimeout idx => Sys2Proof.Machine.execCackTimeout idx s
  | .peerTimeout group seq => Sys2Proof.Machine.execPeerTimeout group seq s
  | .inversionTimeout p => Sys2Proof.Machine.execInversionTimeout p s
  | .cquery m => Sys2Proof.Machine.execCquery m s
  | .creply m => Sys2Proof.Machine.execCreply m s
  | .cabort m => Sys2Proof.Machine.execCabort m s
  | .residueVerdict adder operands raws shifts rounds exps => Sys2Proof.Machine.execResidueVerdict adder operands raws shifts rounds exps s
  | .uioWriteReceive port addr data => Sys2Proof.Machine.execUioWriteReceive port addr data s
  | .messageAssemblyTimeout module msgId => Sys2Proof.Machine.execMessageAssemblyTimeout module msgId s
  | .uioCompletionTimeout idx => Sys2Proof.Machine.execUioCompletionTimeout idx s
  | .stop die t => Sys2Proof.Machine.execStop die t s
  | .stopped t => Sys2Proof.Machine.execStopped t s
  | .mark die t => Sys2Proof.Machine.execMark die t s
  | .trainingWindowStart stack pc => Sys2Proof.Machine.execTrainingWindowStart stack pc s
  | .trainingWindowEnd stack pc converged => Sys2Proof.Machine.execTrainingWindowEnd stack pc converged s
  | .patrolScrub stack pc => Sys2Proof.Machine.execPatrolScrub stack pc s
  | .stackTempSample stack temp => Sys2Proof.Machine.execStackTempSample stack temp s
  | .thermalClassRise stack => Sys2Proof.Machine.execThermalClassRise stack s
  | .thermalClassFall stack => Sys2Proof.Machine.execThermalClassFall stack s
  | .migrationStart stack => Sys2Proof.Machine.execMigrationStart stack s
  | .migrationBlockCopy stack => Sys2Proof.Machine.execMigrationBlockCopy stack s
  | .tierFillComplete window page data => Sys2Proof.Machine.execTierFillComplete window page data s
  | .fillTimeout p => Sys2Proof.Machine.execFillTimeout p s
  | .fillReadTimeout window page => Sys2Proof.Machine.execFillReadTimeout window page s
  | .tierGenerationWrite path window value => Sys2Proof.Machine.execTierGenerationWrite path window value s
  | .exportDrain window bytes => Sys2Proof.Machine.execExportDrain window bytes s
  | .exportDrainAck window bytes => Sys2Proof.Machine.execExportDrainAck window bytes s
  | .negativeSeal window => Sys2Proof.Machine.execNegativeSeal window s
  | .watchSnoop addr => Sys2Proof.Machine.execWatchSnoop addr s
  | .watchWriteback addr data => Sys2Proof.Machine.execWatchWriteback addr data s
  | .biPullTimer addr => Sys2Proof.Machine.execBiPullTimer addr s
  | .bisnpResponse addr data => Sys2Proof.Machine.execBisnpResponse addr data s
  | .stepRequestTake n entry => Sys2Proof.Machine.execStepRequestTake n entry s
  | .hostStallBegin => Sys2Proof.Machine.execHostStallBegin s
  | .hostStallEnd => Sys2Proof.Machine.execHostStallEnd s
  | .hostMemRead dec addr len => Sys2Proof.Machine.execHostMemRead dec addr len s
  | .hostMemWrite dec addr data => Sys2Proof.Machine.execHostMemWrite dec addr data s
  | .hdmCommit dec base size ways => Sys2Proof.Machine.execHdmCommit dec base size ways s
  | .codecJobTake ch entry => Sys2Proof.Machine.execCodecJobTake ch entry s
  | .encode ch error => Sys2Proof.Machine.execEncode ch error s
  | .encodeRingSpace ch => Sys2Proof.Machine.execEncodeRingSpace ch s
  | .codecDecode ch error => Sys2Proof.Machine.execCodecDecode ch error s
  | .analyse ch => Sys2Proof.Machine.execAnalyse ch s
  | .decodeCap ch => Sys2Proof.Machine.execDecodeCap ch s
  | .codecJobEnd ch => Sys2Proof.Machine.execCodecJobEnd ch s
  | .codecRecord ch => Sys2Proof.Machine.execCodecRecord ch s
  | .calibrationEnd sdie ok => Sys2Proof.Machine.execCalibrationEnd sdie ok s
  | .pipeRecover path sdie => Sys2Proof.Machine.execPipeRecover path sdie s
  | .pipeResume path sdie => Sys2Proof.Machine.execPipeResume path sdie s
  | .chanEnable path ch => Sys2Proof.Machine.execChanEnable path ch s
  | .chanDisable path ch => Sys2Proof.Machine.execChanDisable path ch s
  | .windowRead ctrl => Sys2Proof.Machine.execWindowRead ctrl s
  | .windowWrite ctrl data => Sys2Proof.Machine.execWindowWrite ctrl data s
  | .dictionaryRead path obj sub piece => Sys2Proof.Machine.execDictionaryRead path obj sub piece s
  | .dictionaryWrite path obj sub piece data => Sys2Proof.Machine.execDictionaryWrite path obj sub piece data s
  | .routeWrite path port first entries => Sys2Proof.Machine.execRouteWrite path port first entries s
  | .routeRead path port first count => Sys2Proof.Machine.execRouteRead path port first count s
  | .registerWrite path obj sub data => Sys2Proof.Machine.execRegisterWrite path obj sub data s
  | .describeTarget path value => Sys2Proof.Machine.execDescribeTarget path value s
  | .deviceEnable path trained => Sys2Proof.Machine.execDeviceEnable path trained s
  | .deviceDisable path => Sys2Proof.Machine.execDeviceDisable path s
  | .disableComplete => Sys2Proof.Machine.execDisableComplete s
  | .powerEnvelope path value => Sys2Proof.Machine.execPowerEnvelope path value s
  | .slotEnable path slot => Sys2Proof.Machine.execSlotEnable path slot s
  | .slotDisable path slot => Sys2Proof.Machine.execSlotDisable path slot s
  | .imageLoadComplete slot bytes => Sys2Proof.Machine.execImageLoadComplete slot bytes s
  | .clientEnable path n => Sys2Proof.Machine.execClientEnable path n s
  | .clientDisable path n => Sys2Proof.Machine.execClientDisable path n s
  | .overlayApply path value => Sys2Proof.Machine.execOverlayApply path value s
  | .overlayRemove path value => Sys2Proof.Machine.execOverlayRemove path value s
  | .collReset path p => Sys2Proof.Machine.execCollReset path p s
  | .traceArm path p => Sys2Proof.Machine.execTraceArm path p s
  | .traceTrigger path p => Sys2Proof.Machine.execTraceTrigger path p s
  | .markWrite path value => Sys2Proof.Machine.execMarkWrite path value s
  | .sheetCapture path => Sys2Proof.Machine.execSheetCapture path s
  | .stopArm path p => Sys2Proof.Machine.execStopArm path p s
  | .stopReleaseResume path p => Sys2Proof.Machine.execStopReleaseResume path p s
  | .stopReleaseFail path p => Sys2Proof.Machine.execStopReleaseFail path p s
  | .bpResume path c => Sys2Proof.Machine.execBpResume path c s
  | .bpSingleStep path c => Sys2Proof.Machine.execBpSingleStep path c s
  | .loupeRead path piece => Sys2Proof.Machine.execLoupeRead path piece s
  | .wakeCauseRead path => Sys2Proof.Machine.execWakeCauseRead path s
  | .stripRequest path region => Sys2Proof.Machine.execStripRequest path region s
  | .engineRun path region => Sys2Proof.Machine.execEngineRun path region s
  | .stripRound => Sys2Proof.Machine.execStripRound s
  | .stripEnd region signature aborted => Sys2Proof.Machine.execStripEnd region signature aborted s
  | .warmReset path => Sys2Proof.Machine.execWarmReset path s
  | .coldReset path => Sys2Proof.Machine.execColdReset path s
  | .sleep path => Sys2Proof.Machine.execSleep path s
  | .powerUp supply aux env mid => Sys2Proof.Machine.execPowerUp supply aux env mid s
  | .perstAssert => Sys2Proof.Machine.execPerstAssert s
  | .perstDeassert => Sys2Proof.Machine.execPerstDeassert s
  | .auxRailLoss => Sys2Proof.Machine.execAuxRailLoss s
  | .inputLoss => Sys2Proof.Machine.execInputLoss s
  | .cxlHotReset => Sys2Proof.Machine.execCxlHotReset s
  | .flr => Sys2Proof.Machine.execFlr s
  | .fabricHotReset port trained => Sys2Proof.Machine.execFabricHotReset port trained s
  | .comparatorTrip k => Sys2Proof.Machine.execComparatorTrip k s
  | .fenceRequest path pc => Sys2Proof.Machine.execFenceRequest path pc s
  | .fenceClear path pc => Sys2Proof.Machine.execFenceClear path pc s
  | .lockstepMismatch pc => Sys2Proof.Machine.execLockstepMismatch pc s
  | .commitVersion path => Sys2Proof.Machine.execCommitVersion path s
  | .fwImage path data => Sys2Proof.Machine.execFwImage path data s
  | .pldmFirmwareUpdate data => Sys2Proof.Machine.execPldmFirmwareUpdate data s
  | .lcTransition path value => Sys2Proof.Machine.execLcTransition path value s
  | .setTime path value => Sys2Proof.Machine.execSetTime path value s
  | .retainRegions path value => Sys2Proof.Machine.execRetainRegions path value s
  | .getVersion carrier versions => Sys2Proof.Machine.execGetVersion carrier versions s
  | .getCapabilities carrier => Sys2Proof.Machine.execGetCapabilities carrier s
  | .getCertificate carrier slot offset length => Sys2Proof.Machine.execGetCertificate carrier slot offset length s
  | .challenge carrier nonce => Sys2Proof.Machine.execChallenge carrier nonce s
  | .getMeasurements carrier block nonce => Sys2Proof.Machine.execGetMeasurements carrier block nonce s
  | .keyExchange carrier session exchange => Sys2Proof.Machine.execKeyExchange carrier session exchange s
  | .finish session chain signature => Sys2Proof.Machine.execFinish session chain signature s
  | .heartbeat session => Sys2Proof.Machine.execHeartbeat session s
  | .sessionTimeout session => Sys2Proof.Machine.execSessionTimeout session s
  | .ideKeyProgram session port key => Sys2Proof.Machine.execIdeKeyProgram session port key s
  | .ptmRequest => Sys2Proof.Machine.execPtmRequest s
  | .ptmResponse t1 t2 t3 t4 => Sys2Proof.Machine.execPtmResponse t1 t2 t3 t4 s
  | .timerefPps => Sys2Proof.Machine.execTimerefPps s
  | .holdoverTimeout => Sys2Proof.Machine.execHoldoverTimeout s
  | .leaseRenewal => Sys2Proof.Machine.execLeaseRenewal s
  | .tokenRenewal reg sdie term => Sys2Proof.Machine.execTokenRenewal reg sdie term s
  | .tokenClaim reg sdie term => Sys2Proof.Machine.execTokenClaim reg sdie term s
  | .tokenExpiry reg => Sys2Proof.Machine.execTokenExpiry reg s
  | .renewalAck reg => Sys2Proof.Machine.execRenewalAck reg s
  | .conductorStepDown => Sys2Proof.Machine.execConductorStepDown s
  | .claimTimeout sdie => Sys2Proof.Machine.execClaimTimeout sdie s
  | .claimGrant sdie grants => Sys2Proof.Machine.execClaimGrant sdie grants s
  | .fence die => Sys2Proof.Machine.execFence die s
  | .inertTimeout die => Sys2Proof.Machine.execInertTimeout die s
  | .segmentLost => Sys2Proof.Machine.execSegmentLost s
  | .counterFold => Sys2Proof.Machine.execCounterFold s
  | .filmstripWrap strip => Sys2Proof.Machine.execFilmstripWrap strip s
  | .traceDrain p => Sys2Proof.Machine.execTraceDrain p s
  | .coolantSample inlet flow => Sys2Proof.Machine.execCoolantSample inlet flow s
  | .p0LinkUp rate width flit256 => Sys2Proof.Machine.execP0LinkUp rate width flit256 s
  | .p0LinkDown => Sys2Proof.Machine.execP0LinkDown s
  | .fabricPortLeavesService port => Sys2Proof.Machine.execFabricPortLeavesService port s
  | .ringCrossingLost north => Sys2Proof.Machine.execRingCrossingLost north s
  | .ringCrossingRecovered north => Sys2Proof.Machine.execRingCrossingRecovered north s
  | .grantRelease reg sdie term => Sys2Proof.Machine.execGrantRelease reg sdie term s
  | .hdmDecommit dec => Sys2Proof.Machine.execHdmDecommit dec s
  | .pidAssign port pid => Sys2Proof.Machine.execPidAssign port pid s

end Sys2Proof.Machine
end

