-- ==== Sys2Proof/WellFormed.lean ====
section
/-! DEFINITION. Which commands are well formed: the rules of 04_instruction_and_image_reference.md on an instruction's header
(R158, R159), and the lengths of what a command carries. A check names what it refuses. -/

namespace Sys2Proof

/-- What is wrong with a command. -/
inductive IllFormed where
  /-- A wait with count 0 names a token (R158). -/
  | waitToken
  /-- A signal with increment 0 has another field that is not 0 (R158). -/
  | signalFields
  /-- A signal with remote 0 names a core (R158). -/
  | signalCore
  /-- STEPEND carries a signal (R158). -/
  | stepEndSignal
  /-- T63 is named in a wait or a signal (R159). -/
  | token63
  /-- A flit is not 32 words (R19). -/
  | flitLength
  /-- A write or a response does not carry whole granules of 32 words (Table 1-5). -/
  | granuleLength
  /-- A page of a fill is not 512 words, 4,096 bytes (R323). -/
  | pageLength
  /-- A table entry is longer than 128 bytes (R425, R451). -/
  | entryLength
  /-- A nonce of an SPDM request is neither absent nor 32 bytes. -/
  | nonceLength
  /-- An IDE key is not 32 bytes (R579). -/
  | keyLength
  /-- The lists of what an adder's checkers saw differ in length (R97). -/
  | tapLength
deriving DecidableEq, Repr

/-- The first rule that a signal breaks. -/
def Signal.illFormed (s : Signal) : Option IllFormed :=
  if s.inc = 0 then (if s.token = 0 ∧ s.point = 0 ∧ s.remote = 0 ∧ s.core = 0 then none else some .signalFields)
  else if s.token = 63 then some .token63
  else if s.remote = 0 ∧ s.core ≠ 0 then some .signalCore
  else none

/-- The first rule that a header breaks. -/
def Header.illFormed (h : Header) : Option IllFormed :=
  if h.waitCount = 0 ∧ h.waitToken ≠ 0 then some .waitToken
  else if h.waitToken = 63 then some .token63
  else h.sig0.illFormed.or h.sig1.illFormed

/-- A check of a condition. -/
def illIf (c : Bool) (w : IllFormed) : Option IllFormed := if c then some w else none

/-- The first rule that a command breaks; none when it is well formed. -/
def Instr.illFormed : Instr → Option IllFormed
  | .twait _ _ h | .tsig _ _ h | .loop _ _ h _ _ | .brb _ h _ | .yield _ _ h _ _ | .mma _ h _ | .mmab _ h _ | .mmf _ h _
  | .vop _ h _ | .vcvt _ h _ | .vrow _ h _ | .sfn _ h _ | .sfm _ h _ | .ld _ h _ | .ldp _ h _ | .halo _ _ h _ | .st _ h _
  | .stCollectiveStart _ h _ _ | .stNmuCommand _ h _ => h.illFormed
  | .stepEnd _ _ h => (illIf (h.sig0.inc != 0 || h.sig1.inc != 0) .stepEndSignal).or h.illFormed
  | .controlFlit _ _ ui | .dataFlit _ _ ui => illIf (ui.length != 9) .flitLength
  | .wrg _ ws | .rdgRsp _ ws | .ncmd _ ws => illIf (ws.length % 32 != 0) .granuleLength
  | .tierFillComplete _ _ d => illIf (d.length != 512) .pageLength
  | .stepRequestTake _ e | .codecJobTake _ e => illIf (decide (128 < e.length)) .entryLength
  | .challenge _ n => illIf (n.length != 32) .nonceLength
  | .getMeasurements _ _ n => illIf (n.length != 32 && !n.isEmpty) .nonceLength
  | .ideKeyProgram _ _ k => illIf (k.length != 32) .keyLength
  | .residueVerdict _ o r h d e =>
    illIf (r.length != o.length || h.length != o.length || d.length != o.length || e.length != o.length) .tapLength
  | _ => none

/-- A well-formed command. -/
abbrev Instr.WellFormed (i : Instr) : Prop := i.illFormed = none

end Sys2Proof
end

