-- ==== Sys2Proof/Safety.lean ====
section
/-! DEFINITION. What statements about the block are written in: when a unit issues an instruction and what the issue alone
leaves, when a path's write is accepted, and when a message arrives. -/

namespace Sys2Proof.Machine

/-! ### Issue -/

/-- Unit `u` of logical core `c` issues instruction `i` as act `a` (R117, R118): a physical core carries the logical one
and runs a step, nothing holds it, `i` is at the head of the unit's stream, its wait is satisfied from `tok` on, no other unit
goes first (R115, R125), no signal made before that ac is still to be judged (R127), the core's program and token file are sound
(R617), and no stop bath or address breakpoint stands before it. -/
structure Issues (s : State) (c u : Nat) (i : Engine) (a : Act) (tok : Nat) : Prop where
  carried : s.physOf c = some a.pc
  runs : ∃ r, (s.core a.pc).run = some r ∧ r.part = a.p
  free : (s.core a.pc).frozen = false ∧ (s.core a.pc).single = 0
  running : ((s.core a.pc).sq.unit u).halt = .running
  head : (s.core a.pc).sq.head u = some i
  place : a.c = c ∧ a.u = u ∧ a.idx = ((s.core a.pc).sq.unit u).pos ∧ a.loops = ((s.core a.pc).sq.unit u).loops
  ready : (s.core a.pc).sq.issueAt u i = some (a.t, tok)
  first : (s.core a.pc).sq.outbid u a.t i.header = false
  settled : ∀ g ∈ (s.core a.pc).sq.late, a.t ≤ g.made
  sound : (s.core a.pc).sq.prog.errs = [] ∧ (s.core a.pc).tokErrs = []
  noBath : (s.part a.p).stop = none
  noBreak : ∀ n, 1 ≤ n → n ≤ 8 → (s.num (bpObj c) n).testBit 63 = false

/-- The signals that an instruction makes when it issues: at operand release, and at completion too for a control
instruction; a YIELD's and a STEPEND's are made when the core leaves the barrier (R123). -/
def issueSigs (i : Engine) : List Signal :=
  if isBarrier i then [] else i.header.sigs 0 ++ (if isControl i then i.header.sigs 1 else [])

/-- What the signals of a list add to token `k` of the signalling core. -/
def addedTo (k : Nat) (l : List Signal) : Nat :=
  ((l.filter fun g => g.remote == 0 && g.token.toNat == k).map fun g => g.inc.toNat).sum

/-- No signal that the instruction makes when it issues takes a token of its own core above 65,535 (R127). -/
def NoOverflow (s : State) (pc : Nat) (i : Engine) : Prop :=
  ∀ k, ((s.core pc).sq.token k).count + addedTo k (issueSigs i) ≤ 65535

/-- The unit after it has issued `i` at `t` with occupancy `occ` (R117, R146, R162). -/
def UnitSt.after (v : UnitSt) (i : Engine) (t occ : Nat) : UnitSt :=
  { (match i with
     | .loop _ n b => v.enter n.toNat b.toNat
     | .yield _ e g => { v with halt := .atYield (e == 1) g.toNat, issued := v.issued + 1 }
     | .stepEnd _ => { v with halt := .atEnd, issued := v.issued + 1 }
     | _ => v.advance) with nextIssue := t + occ }

/-- What the issue of `i` as act `a` with timing `tm` leaves, apart from the instruction's own effect: `t` follows `s`. -/
structure Issued (s t : State) (i : Engine) (a : Act) (tm : Timing) : Prop where
  /-- The unit is past the instruction. -/
  unit : (t.core a.pc).sq.unit a.u = ((s.core a.pc).sq.unit a.u).after i a.t tm.occ
  /-- Tokens: the wait taken, the signals made (R122, R124). -/
  tokens : ∀ k, ((t.core a.pc).sq.token k).count = ((s.core a.pc).sq.token k).count -
    (if i.header.waitToken.toNat = k then i.header.waitCount.toNat else 0) + addedTo k (issueSigs i)
  /-- The instruction is in flight until its latency is past (R123), unless it completes at once. -/
  flights : isControl i = false → isBarrier i = false → (t.core a.pc).sq.flights = (s.core a.pc).sq.flights ++
    [⟨a.u, i.opcode, a.idx, tm.lat.map (a.t + ·), i.header.sigs 1, tm.granules, 0, 0, a.t, tm.granules⟩]
  prog : (t.core a.pc).sq.prog = (s.core a.pc).sq.prog
  run : (t.core a.pc).run = (s.core a.pc).run
  banks : (t.core a.pc).bankActive = (s.core a.pc).bankActive ∧ (t.core a.pc).bankShadow = (s.core a.pc).bankShadow
  /-- No memory has changed. -/
  opnd : ∀ pc, (t.core pc).opnd = (s.core pc).opnd
  acc : ∀ pc, (t.core pc).acc = (s.core pc).acc
  buf : ∀ k, (t.cluster k).buf = (s.cluster k).buf
  dram : t.dram = s.dram
  /-- An instance whose completion signal the wait takes counts as used (R393). -/
  coll : t.coll = (if i.header.waitCount = 0 then s else s.noteUse a.pc i.header.waitToken.toNat).coll
  others : t = { s with dict := t.dict, localCounts := t.localCounts, cores := t.cores, clusters := t.clusters
                        hbm := t.hbm, coll := t.coll }

/-- No word of the core's own memories or of its cluster buffer is in error: every check there is clean (R101, R104). -/
def State.Clean (s : State) (pc : Nat) : Prop := ∀ sp w, (s.localRam pc sp).mask w = 0

/-- Memory `r'` holds the bytes `row i` from `base + i * pitch` for every `i < n`, and everywhere else what `r` holds. -/
def HoldsRows (r r' : Ram) (base pitch n : Nat) (row : Nat → List Byte) : Prop :=
  (∀ i, i < n → r'.readRaw (base + i * pitch) (row i).length = row i) ∧
    ∀ x, (∀ i, i < n → x < base + i * pitch ∨ base + i * pitch + (row i).length ≤ x) → r'.read1 x = r.read1 x

/-- The memories of core `pc` other than its space `sp`, every other core's and cluster's, and the stacks, are as before. -/
def OtherMemory (s t : State) (pc sp : Nat) : Prop :=
  (∀ k, (k ≠ pc ∨ sp ≠ 0) → (t.core k).opnd = (s.core k).opnd) ∧
  (∀ k, (k ≠ pc ∨ sp < 2) → (t.core k).acc = (s.core k).acc) ∧
  (∀ k, (k ≠ clusterOfPhys pc ∨ sp ≠ 1) → (t.cluster k).buf = (s.cluster k).buf) ∧ t.dram = s.dram

/-- The memories of every core and cluster, and the stacks, are as before. -/
def SameMemory (s t : State) : Prop :=
  (∀ k, (t.core k).opnd = (s.core k).opnd ∧ (t.core k).acc = (s.core k).acc) ∧
  (∀ k, (t.cluster k).buf = (s.cluster k).buf) ∧ t.dram = s.dram

/-- A flight of core `pc` has left: its completion signals are made and nothing else of the core's tokens, units and
memories changes (R123). -/
structure Landed (s t : State) (pc : Nat) (f : Flight) : Prop where
  flights : (t.core pc).sq.flights = (s.core pc).sq.flights.erase f
  tokens : ∀ k, ((t.core pc).sq.token k).count = ((s.core pc).sq.token k).count + addedTo k f.sigs
  units : (t.core pc).sq.units = (s.core pc).sq.units
  memory : SameMemory s t

/-- One more event of a kind has been raised (R613). -/
def EventCounted (s t : State) (kind : Nat) : Prop := t.num 0x9002 kind = (s.num 0x9002 kind + 1) % 2 ^ 64

/-! ### Accesses -/

/-- A numeric write of value `v` to an object arrives on a path and its command or store is carried out (R505, R509,
R515). -/
def Accepted (s : State) (path : Path) (o sub v : Nat) : Prop := s.serves = true ∧ s.writeCode path o sub v = 0

/-! ### Runs -/

/-- The running step of partition `p` is not failed, stopped or at its end, and no stop bath is armed: nothing is due. -/
def State.NothingDue (s : State) (p : Nat) : Prop :=
  (s.part p).stop = none ∧
    ∀ x, s.running p = some x → x.fail = none ∧ x.replayReq = false ∧ x.rollReq = false ∧ x.atEnd = false

/-- A message of collective instance `i` with payload words `d` arrives that this module takes: sound, addressed here, of the one
open instance of its number, which holds a slot and whose entry it agrees with, of the chunk's present round and not seen before
(R376, R384, R398). -/
structure Arrives (s : State) (i : Inst) (m : CollMsg) (d : List CodeWord) : Prop where
  sound : badMsg m = false
  here : m.dstModule.toNat = s.moduleId
  known : s.inst m.group.toNat m.seq.toNat = some i
  alone : ∀ j ∈ s.coll.insts, j.group = m.group.toNat → j.seq = m.seq.toNat → j = i
  opened : i.abort = none
  live : i.done = false
  slot : i.slot ≠ 0
  agrees : disagreement i m = 0
  chunk : m.chunk.toNat < i.entry.chunks.length
  size : 8 * d.length = payloadLen m
  intact : ∀ w ∈ d, eccCheck w ≠ .uncorrectable
  fresh : (i.chunk m.chunk.toNat).seen.contains ⟨m.kind.toNat, m.nodeFirst.toNat, m.nodeSpan.toNat, m.round.toNat⟩ = false
  round : m.round.toNat = (i.chunk m.chunk.toNat).round
  undue : s.NothingDue i.part
  noted : i.readyAt = none

/-- Filmstrip `f` records kind `kind` for partition `p`, as a ring with room (R587, R589). -/
def State.FilmOpen (s : State) (f p kind : Nat) : Prop :=
  s.filmPart f = some p ∧ s.eff p (0x8100 + p) 1 = 1 ∧ (s.eff p (0x8100 + p) 2).testBit kind = true ∧
    (s.film f).phase = 1 ∧ (s.film f).recs.length < filmSize f

/-- The path has been told the outcome of its write and nothing else has been sent. -/
def Told (s t : State) (path : Path) (code : Nat) : Prop := t.out = s.out ++ [.response path.num code []]

end Sys2Proof.Machine
end

