-- ==== Sys2Proof/Certificates/Slice0/Obligations.lean ====
section
/-! DEFINITION. The statements for the provers, by family of commands: what each command does where it runs, what it leaves alone, and
what holds of the machine as a whole. -/

section Slice0

open Sys2Proof Sys2Proof.Machine

/-! ### The engines of a core -/

/-- TWAIT, TSIG, LOOP, BRB, YIELD and STEPEND issue: the wait is taken, the header's signals are made (a YIELD's and a STEPEND's
only when the core leaves the barrier), the unit is past the instruction, in the loop's body or stopped at the barrier, and
nothing else changes. Completes (exec answers a next state): twait, tsig, loop, brb, yield, stepEnd. -/
def Obligations.ControlInstructionsIssue : Prop :=
  ∀ (s : State) (c : CoreId) (u : UnitId) (h : Header) (a : Act) (tok : Nat),
    (Issues s c.toNat u.val (.twait h) a tok → NoOverflow s a.pc (.twait h) →
      ∃ t, exec (.twait c u h) s = .next t ∧ Issued s t (.twait h) a ⟨1, 1, some 1, none, 0⟩) ∧
    (Issues s c.toNat u.val (.tsig h) a tok → NoOverflow s a.pc (.tsig h) →
      ∃ t, exec (.tsig c u h) s = .next t ∧ Issued s t (.tsig h) a ⟨1, 1, some 1, none, 0⟩) ∧
    (∀ count body, Issues s c.toNat u.val (.loop h count body) a tok → NoOverflow s a.pc (.loop h count body) →
      ∃ t, exec (.loop c u h count body) s = .next t ∧ Issued s t (.loop h count body) a ⟨1, 1, some 1, none, 0⟩) ∧
    (∀ bracket, Issues s c.toNat 0 (.brb h bracket) a tok → NoOverflow s a.pc (.brb h bracket) →
      ∃ t, exec (.brb c h bracket) s = .next t ∧ Issued s t (.brb h bracket) a ⟨3, 3, some 3, none, 0⟩) ∧
    (∀ passEnd segment, Issues s c.toNat u.val (.yield h passEnd segment) a tok →
      NoOverflow s a.pc (.yield h passEnd segment) →
      ∃ t, exec (.yield c u h passEnd segment) s = .next t ∧
        Issued s t (.yield h passEnd segment) a ⟨0, 0, some 0, none, 0⟩) ∧
    (Issues s c.toNat u.val (.stepEnd h) a tok → NoOverflow s a.pc (.stepEnd h) →
      ∃ t, exec (.stepEnd c u h) s = .next t ∧ Issued s t (.stepEnd h) a ⟨0, 0, some 0, none, 0⟩)

/-- MMA on sound memories writes its M by N product, added to +0, to the bank or to C as `init` says, into the rows of its
accumulator bank, and changes no other byte of any memory (R167, R78 to R85, R198). Where the manual leaves it open it follows the
model's choices (log entries 4 and 35). Completes (exec answers a next state): mma. -/
def Obligations.MmaWritesItsProduct : Prop :=
  ∀ (s : State) (c : CoreId) (h : Header) (f : MmaFields) (a : Act) (tok : Nat),
    Issues s c.toNat 1 (.mma h f) a tok → NoOverflow s a.pc (.mma h f) → s.shapeAt a (.mma h f) = none → s.Clean a.pc →
    let q := (s.core a.pc).sq.prog
    let ta := s.readTile a.pc (q.desc f.descA.toNat) a.loops 0
    let tb := s.readTile a.pc (q.desc f.descB.toNat) a.loops 0
    let tc := s.readTile a.pc (q.desc f.descC.toNat) a.loops 0
    let bank := f.accBank.toNat
    let start := fun r k => match resolveInit f.init.toNat a.loops with
      | 1 => (s.accRow a.pc bank r tb.rows.length).getD k 0
      | 2 => (tc.rows.getD r []).getD k 0
      | _ => 0
    ∃ t0 t, exec (.mma c h f) s = .next t ∧ Issued s t0 (.mma h f) a (q.timing (s.compat a.pc) (.mma h f)) ∧
      t = { t0 with cores := t.cores } ∧ t.core a.pc = { t0.core a.pc with acc := (t.core a.pc).acc } ∧
      HoldsRows (s.core a.pc).acc (t.core a.pc).acc (accAddr bank 0 0) 512 ta.rows.length
        (fun r => packBits 32 ((product ta tb start).getD r [])) ∧
      OtherMemory s t a.pc 2

/-- MMAB whose problems have rows of their own (a stride at least their number of rows, or one problem) writes the product of each
into its rows of the accumulator (R168, R206); whatever its stride it completes with its problems done in turn. Where the manual
leaves it open it follows the model's choices (log entries 4 and 34). Completes (exec answers a next state): mmab. -/
def Obligations.MmabWritesItsProducts : Prop :=
  ∀ (s : State) (c : CoreId) (h : Header) (f : MmabFields) (a : Act) (tok : Nat),
    Issues s c.toNat 1 (.mmab h f) a tok → NoOverflow s a.pc (.mmab h f) → s.shapeAt a (.mmab h f) = none →
    let q := (s.core a.pc).sq.prog
    let tile := fun (i : BitVec 12) j => s.readTile a.pc (q.desc i.toNat) a.loops j
    let bank := f.mat.accBank.toNat
    let stride := f.accStride.toNat
    let n := (tile f.mat.descB 0).rows.length
    let start := fun j r k => match resolveInit f.mat.init.toNat a.loops with
      | 1 => (s.accRow a.pc bank (j * stride + r) n).getD k 0
      | 2 => ((tile f.mat.descC j).rows.getD r []).getD k 0
      | _ => 0
    ∃ t0 t, exec (.mmab c h f) s = .next t ∧ Issued s t0 (.mmab h f) a (q.timing (s.compat a.pc) (.mmab h f)) ∧
      t = t0.matProblems a f.mat f.batch.toNat stride ∧
      (s.Clean a.pc → (0 < stride ∨ f.batch = 1) →
        (∀ j r, j < f.batch.toNat → r < (tile f.mat.descA 0).rows.length →
          (t.core a.pc).acc.readRaw (accAddr bank (j * stride + r) 0) (4 * n) =
            packBits 32 ((product (tile f.mat.descA j) (tile f.mat.descB j) (start j)).getD r [])) ∧
        (∀ x, (∀ j r, j < f.batch.toNat → r < (tile f.mat.descA 0).rows.length →
            x < accAddr bank (j * stride + r) 0 ∨ accAddr bank (j * stride + r) 0 + 4 * n ≤ x) →
          (t.core a.pc).acc.read1 x = (s.core a.pc).acc.read1 x) ∧
        OtherMemory s t a.pc 2)

/-- MMF and VROW that issue leave the state of their issue with the row phase's effect on it (R208, R219 to R232). Where the
manual leaves it open it follows the model's choices (log entries 4 and 57). Completes (exec answers a next state): mmf, vrow. -/
def Obligations.RowInstructionsComplete : Prop :=
  ∀ (s : State) (c : CoreId) (h : Header) (a : Act) (tok : Nat),
    (∀ f : MmfFields, Issues s c.toNat 1 (.mmf h f) a tok → NoOverflow s a.pc (.mmf h f) →
      s.shapeAt a (.mmf h f) = none →
      ∃ t0, exec (.mmf c h f) s = .next (t0.mmfEffect a f) ∧
        Issued s t0 (.mmf h f) a ((s.core a.pc).sq.prog.timing (s.compat a.pc) (.mmf h f))) ∧
    (∀ f : VrowFields, Issues s c.toNat 2 (.vrow h f) a tok → NoOverflow s a.pc (.vrow h f) →
      s.shapeAt a (.vrow h f) = none →
      ∃ t0, exec (.vrow c h f) s = .next (t0.vrowEffect a f) ∧
        Issued s t0 (.vrow h f) a ((s.core a.pc).sq.prog.timing (s.compat a.pc) (.vrow h f)))

/-- MMF on sound memories and a bank without errors leaves the scores of its first product, scaled, masked and clamped by the row
function, in bank P (R208, R219, R223). Where the manual leaves it open it follows the model's choices (log entries 4 and 58).
Completes (exec answers a next state): mmf. -/
def Obligations.MmfLeavesScores : Prop :=
  ∀ (s : State) (c : CoreId) (h : Header) (f : MmfFields) (a : Act) (tok : Nat),
    Issues s c.toNat 1 (.mmf h f) a tok → NoOverflow s a.pc (.mmf h f) → s.shapeAt a (.mmf h f) = none → s.Clean a.pc →
    (s.core a.pc).bankActive.errs = [] →
    let q := (s.core a.pc).sq.prog
    let r := q.rowDesc f.descRow.toNat
    let ta := s.readTile a.pc (q.desc f.descA.toNat) a.loops 0
    let tb := s.readTile a.pc (q.desc f.descB.toNat) a.loops 0
    let (qs, ks) := s.maskReads a r
    r.status = 0 →
    ∃ t, exec (.mmf c h f) s = .next t ∧
      ∀ i, i < ta.rows.length →
        (t.core a.pc).acc.readRaw (accAddr f.bankP.toNat i 0) (4 * tb.rows.length) =
          packBits 32 ((rowScores r (maskOf r qs ks i) ((product ta tb fun _ _ => 0).getD i [])).map (·.1))

/-- VOP on sound memories writes its element-wise or row results, each converted once to the destination's format, to the rows of
its destination, and changes no other byte of any memory (R169, R77, Table 4-6). Where the manual leaves it open it follows the
model's choices (log entries 4, 44 and 46). Completes (exec answers a next state): vop. -/
def Obligations.VopWritesItsResults : Prop :=
  ∀ (s : State) (c : CoreId) (h : Header) (f : VopFields) (a : Act) (tok : Nat),
    Issues s c.toNat 2 (.vop h f) a tok → NoOverflow s a.pc (.vop h f) → s.shapeAt a (.vop h f) = none → s.Clean a.pc →
    f.dst ≠ 0 →
    let q := (s.core a.pc).sq.prog
    let dst := q.desc f.dst.toNat
    let op := f.op.toNat
    let src := fun (i : BitVec 12) k => if k ≤ vopArity op then (s.readTile a.pc (q.desc i.toNat) a.loops 0).flat32 else []
    let ta := s.readTile a.pc (q.desc f.srcA.toNat) a.loops 0
    let value := fun k => if isRowOp op then
        let r := if ta.rows.length = 1 then 0 else k
        rowReduce op ((List.range (ta.rows.getD r []).length).map (ta.f32At r))
      else vopElem op (pick (src f.srcA 1) (src f.srcA 1).length dst.elems k)
        (pick (src f.srcB 2) (src f.srcB 2).length dst.elems k) (pick (src f.srcC 3) (src f.srcC 3).length dst.elems k)
    ∃ t0 t, exec (.vop c h f) s = .next t ∧ Issued s t0 (.vop h f) a (q.timing (s.compat a.pc) (.vop h f)) ∧
      t = { t0 with cores := t.cores, clusters := t.clusters } ∧ (t.core a.pc).sq = (t0.core a.pc).sq ∧
      HoldsRows (s.localRam a.pc dst.localSpace.toNat) (t.localRam a.pc dst.localSpace.toNat) (dst.loc a.loops 0).local0
        dst.rowBytes dst.rows.toNat (fun r => packBits (fmtBits dst.fmt.toNat) ((List.range dst.rowElems.toNat).map fun k =>
          elemEnc dst.fmt.toNat (vecSat dst.fmt.toNat) (value (r * dst.rowElems.toNat + k)))) ∧
      OtherMemory s t a.pc dst.localSpace.toNat

/-- VCVT, SFN with one output and SFM on sound memories and a bank without errors write to the rows of their destination: a
converted source value under the instruction's saturation flag, the special function of each element by the bank then active, the
microprogram's result; an element beyond the source's count is a free value that the results alone fix (R72, R105, R254, R267,
R270, R273). Where the manual leaves it open it follows the model's choices (log entries 4, 46 and 195). Completes (exec answers a
next state): vcvt, sfn, sfm. -/
def Obligations.VectorConversionsAndFunctions : Prop :=
  ∀ (s : State) (c : CoreId) (h : Header) (a : Act) (tok : Nat),
    let q := (s.core a.pc).sq.prog
    let k := s.core a.pc
    let holds := fun (t : State) (dst : Desc) (sat : Bool) (vs : List FVal) =>
      HoldsRows (s.localRam a.pc dst.localSpace.toNat) (t.localRam a.pc dst.localSpace.toNat) (dst.loc a.loops 0).local0
        dst.rowBytes dst.rows.toNat
        (fun r => packBits (fmtBits dst.fmt.toNat) (((fitRows dst vs).getD r []).map (elemEnc dst.fmt.toNat sat))) ∧
      OtherMemory s t a.pc dst.localSpace.toNat
    (∀ f : VcvtFields, Issues s c.toNat 2 (.vcvt h f) a tok → NoOverflow s a.pc (.vcvt h f) →
      s.shapeAt a (.vcvt h f) = none → s.Clean a.pc → fmtIsMx (q.desc f.dst.toNat).fmt.toNat = false →
      ∃ t, exec (.vcvt c h f) s = .next t ∧
        holds t (q.desc f.dst.toNat) (f.sat == 1) (s.readTile a.pc (q.desc f.src.toNat) a.loops 0).flatVals) ∧
    (∀ f : SfnFields, Issues s c.toNat 2 (.sfn h f) a tok → NoOverflow s a.pc (.sfn h f) →
      s.shapeAt a (.sfn h f) = none → s.swapReady a.pc f = true → s.Clean a.pc → f.func ≠ 0x0E →
      (if f.swap = 1 then k.bankShadow else k.bankActive).errs = [] →
      fmtIsMx (q.desc f.dst.toNat).fmt.toNat = false →
      ∃ t, exec (.sfn c h f) s = .next t ∧
        (t.core a.pc).bankActive = (if f.swap = 1 then k.bankShadow else k.bankActive) ∧
        (t.core a.pc).bankShadow = (if f.swap = 1 then k.bankActive else k.bankShadow) ∧
        holds t (q.desc f.dst.toNat) (vecSat (q.desc f.dst.toNat).fmt.toNat)
          ((s.readTile a.pc (q.desc f.src.toNat) a.loops 0).flat32.map fun x =>
            f32 (sfnEval (s.compat a.pc) (if f.swap = 1 then k.bankShadow else k.bankActive) f.func.toNat x).1)) ∧
    (∀ f : SfmFields, Issues s c.toNat 2 (.sfm h f) a tok → NoOverflow s a.pc (.sfm h f) →
      s.shapeAt a (.sfm h f) = none → s.Clean a.pc → k.bankActive.errs = [] → k.microErrs = [] → fmtIsMx (q.desc f.dst.toNat).fmt.toNat = false →
      ∃ t, exec (.sfm c h f) s = .next t ∧
        holds t (q.desc f.dst.toNat) (vecSat (q.desc f.dst.toNat).fmt.toNat)
          ((s.readTile a.pc (q.desc f.src.toNat) a.loops 0).flat32.map fun x =>
            f32 (sfmRun k.bankActive k.micro k.groups f.program.toNat f.passes.toNat x f32zero)))

/-- A special function with two outputs and a conversion to an MX format that issue leave the state of their issue with the effect
on it. Where the manual leaves it open it follows the model's choices (log entry 4). Completes (exec answers a next state): vcvt,
sfn, sfm. -/
def Obligations.WideVectorFormsComplete : Prop :=
  ∀ (s : State) (c : CoreId) (h : Header) (a : Act) (tok : Nat),
    (∀ f : VcvtFields, Issues s c.toNat 2 (.vcvt h f) a tok → NoOverflow s a.pc (.vcvt h f) →
      s.shapeAt a (.vcvt h f) = none →
      ∃ t0, exec (.vcvt c h f) s = .next (t0.vcvtEffect a f) ∧
        Issued s t0 (.vcvt h f) a ((s.core a.pc).sq.prog.timing (s.compat a.pc) (.vcvt h f))) ∧
    (∀ f : SfnFields, Issues s c.toNat 2 (.sfn h f) a tok → NoOverflow s a.pc (.sfn h f) →
      s.shapeAt a (.sfn h f) = none → s.swapReady a.pc f = true →
      ∃ t0, exec (.sfn c h f) s = .next (t0.sfnEffect a f) ∧
        Issued s t0 (.sfn h f) a ((s.core a.pc).sq.prog.timing (s.compat a.pc) (.sfn h f))) ∧
    (∀ f : SfmFields, Issues s c.toNat 2 (.sfm h f) a tok → NoOverflow s a.pc (.sfm h f) →
      s.shapeAt a (.sfm h f) = none →
      ∃ t0, exec (.sfm c h f) s = .next (t0.sfmEffect a f) ∧
        Issued s t0 (.sfm h f) a ((s.core a.pc).sq.prog.timing (s.compat a.pc) (.sfm h f)))

/-- An instruction of the matrix or vector engine that meets a failing shape condition does not issue: its step fails with cause 2
and the condition's code (R203, R204), one event is raised for each faulting unit of the step that issues in that ac (R205,
Table 5-5), the unit stops, and no memory changes. -/
def Obligations.ShapeFaultStopsTheStep : Prop :=
  ∀ (s : State) (c : CoreId) (h : Header),
    let stops := fun (x : Instr) (i : Engine) (u : Nat) => ∀ (a : Act) (tok code : Nat) (y : Step),
      Issues s c.toNat u i a tok → s.shapeAt a i = some code → s.running a.p = some y → y.fail = none →
      ∃ t z, exec x s = .next t ∧ t.running a.p = some z ∧
        z.fail = some ⟨2, code, 0, some (coreUnit a.pc u)⟩ ∧ ((t.core a.pc).sq.unit u).halt = .stopped ∧ SameMemory s t ∧
        (∀ r, (s.core a.pc).run = some r → r.logical = a.c → ⟨a.pc, u, a.idx, code⟩ ∈ s.faultsAt a) ∧
        (s.faultsAt a ≠ [] → t.num 0x9002 4 = (s.num 0x9002 4 + (s.faultsAt a).length) % 2 ^ 64)
    (∀ f, stops (.mma c h f) (.mma h f) 1) ∧ (∀ f, stops (.mmab c h f) (.mmab h f) 1) ∧ (∀ f, stops (.mmf c h f) (.mmf h f) 1) ∧
    (∀ f, stops (.vop c h f) (.vop h f) 2) ∧ (∀ f, stops (.vcvt c h f) (.vcvt h f) 2) ∧ (∀ f, stops (.vrow c h f) (.vrow h f) 2) ∧
    (∀ f, stops (.sfn c h f) (.sfn h f) 2) ∧ (∀ f, stops (.sfm c h f) (.sfm h f) 2)

/-- LD and ST of mode 0 and HALO whose memory side is the core's own cluster, on sound memories, copy their tile's bytes and
change no other byte of the memory they write (R172, R173, R283); an outbound HALO on any region issues with its effect, occupying
the unit for its granules. Where the manual leaves it open it follows the model's choices (log entries 4 and 12). Completes (exec
answers a next state): ld, halo, st. -/
def Obligations.LocalTransfersCopy : Prop :=
  ∀ (s : State) (c : CoreId) (h : Header) (a : Act) (tok : Nat) (x : Step) (g : RegionE),
    s.running a.p = some x → s.Clean a.pc → g.kind = 7 →
    let tile := fun (d : Desc) => (d.loc a.loops 0).local0
    let bytes := fun (r : Ram) l n (_ : Nat) => r.readRaw l n
    (∀ desc, Issues s c.toNat 3 (.ld h desc) a tok → NoOverflow s a.pc (.ld h desc) →
      s.regionFor a (s.descAt a desc) = some g →
      (clusterPlace a (s.descAt a desc) g).1 = clusterOf c.toNat → clusterOf c.toNat = clusterOfPhys a.pc →
      ∃ t, exec (.ld c h desc) s = .next t ∧
        HoldsRows (s.localRam a.pc (s.descAt a desc).localSpace.toNat) (t.localRam a.pc (s.descAt a desc).localSpace.toNat)
          (tile (s.descAt a desc)) 0 1
          (bytes (s.cluster (clusterOf c.toNat)).buf (clusterPlace a (s.descAt a desc) g).2 (s.descAt a desc).bytes) ∧
        OtherMemory s t a.pc (s.descAt a desc).localSpace.toNat) ∧
    (∀ desc, Issues s c.toNat 4 (.st h ⟨desc, 0, 0⟩) a tok → NoOverflow s a.pc (.st h ⟨desc, 0, 0⟩) →
      s.regionFor a (s.descAt a desc) = some g →
      (clusterPlace a (s.descAt a desc) g).1 = clusterOf c.toNat → clusterOf c.toNat = clusterOfPhys a.pc →
      ∃ t, exec (.st c h desc) s = .next t ∧
        HoldsRows (s.cluster (clusterOf c.toNat)).buf (t.cluster (clusterOf c.toNat)).buf
          (clusterPlace a (s.descAt a desc) g).2 0 1
          (bytes (s.localRam a.pc (s.descAt a desc).localSpace.toNat) (tile (s.descAt a desc)) (s.descAt a desc).bytes) ∧
        OtherMemory s t a.pc 1) ∧
    (∀ f : HaloFields, Issues s c.toNat 3 (.halo h f) a tok → NoOverflow s a.pc (.halo h f) →
      s.regionFor a (s.descAt a f.descRemote) = some g → clusterOf c.toNat = clusterOfPhys a.pc →
      ∃ t, exec (.halo c false h f) s = .next t ∧
        HoldsRows (s.localRam a.pc (s.descAt a f.descLocal).localSpace.toNat)
          (t.localRam a.pc (s.descAt a f.descLocal).localSpace.toNat) (tile (s.descAt a f.descLocal)) 0 1
          (bytes (s.cluster (clusterOf c.toNat)).buf (clusterPlace a (s.descAt a f.descRemote) g).2
            (s.descAt a f.descLocal).bytes) ∧
        OtherMemory s t a.pc (s.descAt a f.descLocal).localSpace.toNat) ∧
    (∀ f : HaloFields, Issues s c.toNat 4 (.halo h f) a tok → NoOverflow s a.pc (.halo h f) →
      s.regionFor a (s.descAt a f.descRemote) = some g →
      ∃ t0, exec (.halo c true h f) s = .next (t0.haloOut a f) ∧
        Issued s t0 (.halo h f) a (transferTiming (s.isLocal a (s.descAt a f.descRemote)) (s.descAt a f.descLocal).granules))

/-- LD, ST of mode 0 and LDP on any region issue with their effect, occupying the unit for their granules (R172, R138, R240,
R244). Where the manual leaves it open it follows the model's choices (log entries 4 and 60). Completes (exec answers a next
state): ld, ldp, st. -/
def Obligations.TransfersComplete : Prop :=
  ∀ (s : State) (c : CoreId) (h : Header) (a : Act) (tok : Nat),
    (∀ desc, Issues s c.toNat 3 (.ld h desc) a tok → NoOverflow s a.pc (.ld h desc) →
      ∃ t0, exec (.ld c h desc) s = .next (t0.loadEffect a (s.descAt a desc)) ∧
        Issued s t0 (.ld h desc) a (transferTiming (s.isLocal a (s.descAt a desc)) (s.descAt a desc).granules)) ∧
    (∀ desc, Issues s c.toNat 4 (.st h ⟨desc, 0, 0⟩) a tok → NoOverflow s a.pc (.st h ⟨desc, 0, 0⟩) →
      ∃ t0, exec (.st c h desc) s = .next (t0.storeEffect a (s.descAt a desc)) ∧
        Issued s t0 (.st h ⟨desc, 0, 0⟩) a
          (transferTiming (s.isLocal a (s.descAt a desc)) (s.descAt a desc).granules)) ∧
    (∀ f : LdpFields, Issues s c.toNat 3 (.ldp h f) a tok → NoOverflow s a.pc (.ldp h f) →
      let n := (s.descAt a f.descData).rows.toNat
      ∃ t0, exec (.ldp c h f) s = .next (t0.ldpEffect a f) ∧
        Issued s t0 (.ldp h f) a ⟨n + n / 32, n + n / 32, none, none, n + n / 32⟩)

/-- An ST of mode 2 sends one NCMD for every granule of its tile to every M-die that its region names, and the core holds the
transfer until as many acknowledgements have come (R345, R347); an ST of mode 1 opens its instance, sends one CSTART for each run
of granules it writes and marks its flight with the instance (R370, R374, R383). Where the manual leaves it open it follows the
model's choices (log entries 4, 16 and 169). Completes (exec answers a next state): st, stCollectiveStart, stNmuCommand. -/
def Obligations.CommandStoresSend : Prop :=
  ∀ (s : State) (c : CoreId) (h : Header) (a : Act) (tok : Nat) (desc : BitVec 12) (x : Step) (g : RegionE),
    s.running a.p = some x → s.regionFor a (s.descAt a desc) = some g →
    (Issues s c.toNat 4 (.st h ⟨desc, 2, 0⟩) a tok → NoOverflow s a.pc (.st h ⟨desc, 2, 0⟩) →
      let n := (s.descAt a desc).granules * (commandStacks g).length
      ∃ t, exec (.stNmuCommand c h desc) s = .next t ∧ t.out.length = s.out.length + n ∧ t.out.take s.out.length = s.out ∧
        ((t.core a.pc).sq.flights.getLast?.map fun f => (f.acks, f.complete)) = some (n, none) ∧
        OtherMemory s t a.pc 3 ∧ (t.core a.pc).acc = (s.core a.pc).acc) ∧
    (∀ (coll : BitVec 16) (e : CollE), Issues s c.toNat 4 (.st h ⟨desc, 1, coll⟩) a tok →
      NoOverflow s a.pc (.st h ⟨desc, 1, coll⟩) → s.collEntry a coll.toNat = some e → s.stepInst x e = none →
      s.canOpen a coll.toNat = true →
      let seq := s.nextSeq a.p e.group
      s.inst e.group seq = none →
      let runs := if s.inputBytes e = 0 then [(0, 0)] else granuleRuns ((s.descAt a desc).memRows g a.loops)
      ∃ t i pre, exec (.stCollectiveStart c h desc coll) s = .next t ∧ t.inst e.group seq = some i ∧ i.started = true ∧
        i.key = e.orderKey ∧ i.part = a.p ∧ t.nextSeq a.p e.group = (seq + 1) % 65536 ∧
        t.out = pre ++ (runs.map fun r => .cstart (s.collHeader 0x30 i s.moduleId 0 0 0 0) r.1 r.2) ∧ i.seq = seq ∧
        ((t.core a.pc).sq.flights.getLast?.map Flight.inst) = some (instKey e.group seq + 1))

/-! ### Completions, tokens and barriers -/

/-- INSTRUCTION_COMPLETE takes out the flight of the unit that completes first, TRANSFER_COMPLETE the oldest transfer of the unit
that waits for nothing more; its completion signals are made (R123, R131, R132), and the tokens that an ST's completion signals
are noted on its instance while that has Provisional chunks (R393). No signal made before that ac is still to be judged (R127), and
the token file is sound.
Where the manual leaves it open it follows the model's choices (log entry 4). Completes (exec answers a next state):
instructionComplete, transferComplete. -/
def Obligations.CompletionsSignal : Prop :=
  ∀ (s : State) (c : CoreId) (u : UnitId) (p pc : Nat) (k : Core) (f : Flight),
    s.runOf c.toNat = some (p, pc, k) → (∀ j, ((s.core pc).sq.token j).count + addedTo j f.sigs ≤ 65535) → k.tokErrs = [] →
    (leastBy (fun (f : Flight) => f.complete.getD 0)
        (k.sq.flights.filter fun f => f.unit == u.val && f.complete.isSome) = some f →
      (∀ g ∈ k.sq.late, f.complete.getD 0 ≤ g.made) →
      ∃ t, exec (.instructionComplete c u) s = .next t ∧ Landed s t pc f ∧
        t = { s with dict := t.dict, localCounts := t.localCounts, cores := t.cores, clusters := t.clusters, hbm := t.hbm }) ∧
    (∀ ac, k.sq.flights.find? (fun f => f.unit == u.val && s.arrivedAll f) = some f →
      (∀ g ∈ k.sq.late, max ac (f.issued + f.granules) ≤ g.made) →
      ∃ t, exec (.transferComplete c u ac) s = .next t ∧ Landed s t pc f ∧
        (f.inst = 0 → t.coll = s.coll) ∧
        (∀ i, f.inst ≠ 0 → s.inst ((f.inst - 1) / 65536) ((f.inst - 1) % 65536) = some i →
          t.inst ((f.inst - 1) / 65536) ((f.inst - 1) % 65536) = some (if i.done then i else
            { i with signals := i.signals ++ f.sigs.map fun g =>
                (if g.remote = 1 then (s.physOf (c.toNat / 8 * 8 + g.core.toNat)).getD pc else pc, g.token.toNat) })))

/-- REMOTE_TOKEN_SIGNAL takes the oldest signal on its way in the cluster and raises the token it names; LANDING_SIGNAL takes one
due crossing of the landing counter and raises its token by 1 (R126, R130), in a sound token file. Completes (exec answers a next state):
remoteTokenSignal, landingSignal. -/
def Obligations.ArrivingSignalsRaiseTokens : Prop :=
  ∀ (s : State) (k : ClusterId),
    (∀ (g : Remote) (rest : List Remote) (p pc : Nat) (x : Core),
      (s.cluster k.toNat).remote = g :: rest → s.runOf (8 * k.toNat + g.core) = some (p, pc, x) →
      (x.sq.token g.token).count + g.inc ≤ 65535 → x.tokErrs = [] →
      ∃ t, exec (.remoteTokenSignal k) s = .next t ∧ (t.cluster k.toNat).remote = rest ∧
        ((t.core pc).sq.token g.token).count = (x.sq.token g.token).count + g.inc ∧
        (∀ j, j ≠ g.token → ((t.core pc).sq.token j) = x.sq.token j) ∧ SameMemory s t) ∧
    (∀ (counter : BitVec 4) (ac p pc : Nat) (x : Core),
      let l := tabGet Landing.unbound (s.cluster k.toNat).land counter.toNat
      l.due ≠ 0 → s.runOf (8 * k.toNat + l.core) = some (p, pc, x) → (x.sq.token l.token).count + 1 ≤ 65535 →
      x.tokErrs = [] →
      ∃ t, exec (.landingSignal k counter ac) s = .next t ∧
        (tabGet Landing.unbound (t.cluster k.toNat).land counter.toNat) = { l with due := l.due - 1 } ∧
        ((t.core pc).sq.token l.token).count = (x.sq.token l.token).count + 1 ∧ SameMemory s t)

/-- BARRIER_ARRIVAL of a core whose five units have stopped, with no signal still to be judged (R127), adds the core to those that
have arrived; the last arrival at a yield point that ends no pass and meets no pre-emption lets every core of the step leave, in
the next segment. YIELD_RELEASE starts the units of a core again (R146). Where the manual leaves it open it follows the model's
choices (log entries 38 and 128). Completes (exec answers a next state): barrierArrival, yieldRelease. -/
def Obligations.BarrierGathersAndReleases : Prop :=
  ∀ (s : State) (c : CoreId) (pc : Nat) (r : CoreRun) (x : Step),
    s.physOf c.toNat = some pc → (s.core pc).run = some r → s.running r.part = some x → x.fail = none →
    x.replayReq = false → x.rollReq = false →
    (∀ atEnd, s.conductor.inOffice = true → (s.core pc).stoppedAt = some atEnd → x.arrived.contains c.toNat = false →
      x.leaving.contains c.toNat = false → tabGet 0 x.nmuOpen c.toNat = 0 → (s.core pc).sq.late = [] →
      (s.stepCores x).all (x.arrived ++ [c.toNat]).contains = false →
      ∃ t y, exec (.barrierArrival c) s = .next t ∧ t.running r.part = some y ∧ y.arrived = x.arrived ++ [c.toNat] ∧
        y.atEnd = atEnd ∧ y.arrivedAt = s.now ∧ y.segment = x.segment) ∧
    (s.conductor.inOffice = true → (s.core pc).stoppedAt = some false → x.arrived.contains c.toNat = false →
      x.leaving.contains c.toNat = false → tabGet 0 x.nmuOpen c.toNat = 0 → (s.core pc).sq.late = [] → x.preemptReq = false →
      (s.stepCores x).all (x.arrived ++ [c.toNat]).contains = true →
      (s.imageOf x.slot).passEnded x.bracket x.segment = none →
      ∃ t y, exec (.barrierArrival c) s = .next t ∧ t.running r.part = some y ∧ y.arrived = [] ∧
        y.leaving = s.stepCores x ∧ y.segment = x.segment + 1) ∧
    (∀ ac, x.leaving.contains c.toNat = true →
      (∀ j, ((s.core pc).sq.token j).count + addedTo j (((List.range 5).filterMap (s.core pc).sq.head).flatMap fun e =>
        e.header.sigs 0 ++ e.header.sigs 1) ≤ 65535) → (s.core pc).tokErrs = [] →
      ∃ t y, exec (.yieldRelease c ac) s = .next t ∧ t.running r.part = some y ∧
        y.leaving = x.leaving.filter (· != c.toNat) ∧
        (∀ u, u < 5 → ((t.core pc).sq.unit u).halt = .running ∧
          ((t.core pc).sq.unit u).pos = ((s.core pc).sq.unit u).advance.pos ∧ ac ≤ ((t.core pc).sq.unit u).nextIssue) ∧
        SameMemory s t)

/-! ### The step controller -/

/-- STEP_START starts the queued head of a partition's queue, BACKFILL_START the oldest backfill step within the limits when no
step of the primary client is accepted, each at the partition's step boundary (R142, R412, R415), neither while a step waits for its
replay (R446, Table 13-8); a backfill step's bound counts from its first start, and a rolled-back one keeps it (R414). Where the manual leaves it open it follows the model's choices (log
entries 19 and 85). Completes (exec answers a next state): stepStart, backfillStart. -/
def Obligations.StepsStart : Prop :=
  ∀ (s : State) (p : BitVec 4) (x : Step),
    (s.replayWaits p.toNat = true → exec (.stepStart p) s = .next s ∧ exec (.backfillStart p) s = .next s) ∧
    (s.mayStart p.toNat = true → s.replayWaits p.toNat = false →
    let b := s.boundary p.toNat
    let len := fun (x : Step) =>
      if x.started then x.bound - b.now else (b.imageOf x.slot).stepLength b.admClock (b.classNow x) x.bracket 0
    (∀ rest, (b.part p.toNat).queue = x :: rest → x.stage = .queued →
      ∃ t y, exec (.stepStart p) s = .next t ∧ t.running p.toNat = some y ∧ y.req = x.req ∧ y.startTime = b.now ∧
        y.segment = 0 ∧ y.arrived = [] ∧ (x.req.seq, x.req.epoch) ∈ (t.part p.toNat).started) ∧
    let queue := (b.part p.toNat).queue
    ((queue.any fun x => x.req.client == b.eff p.toNat (0x6300 + p.toNat) 1) = false → b.running p.toNat = none →
      (b.part p.toNat).backfill.find? (fun x => decide (x.stage = .queued) &&
        decide (len x ≤ b.eff p.toNat (0x6300 + p.toNat) 2) &&
        decide (len x + (queue.foldl (fun m x => max m x.bound) 0 - b.now) ≤ 200000000)) = some x →
      ∃ t y, exec (.backfillStart p) s = .next t ∧ t.running p.toNat = some y ∧ y.req = x.req ∧ y.startTime = b.now ∧
        (x.started = true → y.cls = x.cls ∧ y.bound = x.bound) ∧
        (x.started = false → y.cls = b.classNow x ∧ (x.backfill = true → y.bound = b.now + len x))))

/-- STEP_RESUME restores a parked head whose cores have not been fenced and adds the time it stood to its parked time; STEP_REPLAY
restarts a step that a fence stopped, once, with the bound the timing check gives it and the ring bytes of its bracket reserved again (R332,
R444, R446). Where the manual leaves it open
it follows the model's choices (log entries 23 and 90). Completes (exec answers a next state): stepResume, stepReplay. -/
def Obligations.StepsResumeAndReplay : Prop :=
  ∀ (s : State) (p : BitVec 4) (x : Step),
    (s.mayStart p.toNat = true → s.replayWaits p.toNat = false →
      let b := s.boundary p.toNat
      ∀ rest, (b.part p.toNat).queue = x :: rest → x.stage = .parked →
      x.savedCores.find? (fun k => b.coreFenced k.phys) = none →
      ∃ t y, exec (.stepResume p) s = .next t ∧ t.running p.toNat = some y ∧ y.req = x.req ∧
        y.parkedNs = x.parkedNs + (b.now - x.parkedAt) ∧ y.savedCores = [] ∧
        (x.backfill = false → y.bound = x.bound)) ∧
    ((s.settle p.toNat).mayStart p.toNat = true →
      let b := (s.settle p.toNat).boundary p.toNat
      ∀ e bound d, b.running p.toNat = none →
      (b.part p.toNat).steps.find? (fun x => decide (x.stage = .replay)) = some x →
      b.chooseBracket p.toNat (b.imageOf x.home) x.req.size = some e →
      b.replayFits p.toNat x ((b.imageOf x.home).stepLength b.admClock (b.admClass (b.imageOf x.home)) e.bracket 0) =
        some (bound, d) →
      ∃ t y, exec (.stepReplay p) s = .next t ∧ t.running p.toNat = some y ∧ y.req = x.req ∧ y.replayed = true ∧
        y.bound = bound ∧ y.bracket = e.bracket ∧ y.dodgePass = none ∧ y.exports = (b.imageOf x.home).exportBytes e.bracket)

/-- COMPLETION_RECORD writes the oldest waiting record of the client to its slot of the ring in host memory, then sends its MSI-X
message when the request asked for it (R437, R438). Where the manual leaves it open it follows the model's choices (log entries
115 and 179). Completes (exec answers a next state): completionRecord. -/
def Obligations.CompletionRecordWritten : Prop :=
  ∀ (s : State) (n : BitVec 12) (r : List Byte) (msi : Bool) (rest : List (List Byte × Bool)),
    let o := clientObj n.toNat
    let b := s.settle (s.num o 2)
    let w := (b.client n.toNat).written
    (b.client n.toNat).waiting = (r, msi) :: rest → b.p0Up = true → b.num 0x2000 1 = 1 →
    (w + 2 ^ 32 - b.num o 0x0A % 2 ^ 32) % 2 ^ 32 < b.num o 9 →
    ∃ t, exec (.completionRecord n) s = .next t ∧
      t.out = b.out ++ .hostWrite (b.num o 8 + w % b.num o 9 * 64) r :: (if msi then [.msix (b.num o 0x0B)] else []) ∧
      (t.client n.toNat).waiting = rest ∧ (t.client n.toNat).written = (w + 1) % 2 ^ 32 ∧
      (∀ m, m ≠ n.toNat → t.client m = b.client m) ∧ t = { b with clients := t.clients, out := t.out }

/-- HANG_TIMEOUT of a running unit whose head waits on a token that nothing covers counts one hang event and, when the partition
has had no hang capture yet, captures a contact sheet, unless a stop bath is stopping it or no conductor is in office: then the
capture waits (R155, R596, R53). Where the manual leaves it open it follows the model's choices (log entry 40). Completes (exec
answers a next state): hangTimeout. -/
def Obligations.HangIsReported : Prop :=
  ∀ (s : State) (c : CoreId) (u : UnitId) (pc : Nat) (r : CoreRun) (i : Engine),
    s.physOf c.toNat = some pc → (s.core pc).run = some r → (s.core pc).sq.head u.val = some i →
    i.header.waitCount ≠ 0 → ((s.core pc).sq.unit u.val).halt = .running →
    ((s.core pc).sq.token i.header.waitToken.toNat).readyAt i.header.waitCount.toNat 0 = none →
    ∃ t, exec (.hangTimeout c u) s = .next t ∧ EventCounted s t 6 ∧
      ((s.part r.part).lastHang = none → r.part < 16 →
        (s.conductor.inOffice = true → s.num (0x8130 + r.part) 8 ≠ 2 →
          (t.part r.part).lastHang = some s.now ∧ (t.part r.part).hangAt = none ∧
            t.num 0x8120 4 = (s.num 0x8120 4 + 1) % 2 ^ 32) ∧
        ((s.part r.part).hangAt = none → s.conductor.inOffice = false ∨ s.num (0x8130 + r.part) 8 = 2 →
          (t.part r.part).hangAt = some s.now ∧ (t.part r.part).lastHang = none ∧ t.num 0x8120 4 = s.num 0x8120 4)) ∧
      SameMemory s t

/-! ### Links and the mesh -/

/-- EDGE_PORT_TRAINING puts a port that has not trained into service, or records it as out of service (R17); a link that waits for
a replay asks for it, up to three times for a flit, then leaves service (R26, R28). Where the manual leaves it open it follows the
model's choices (log entry 30). Completes (exec answers a next state): edgePortTraining, linkReplayRequest. -/
def Obligations.EdgePortsTrainAndReplay : Prop :=
  ∀ (s : State) (die : BitVec 6) (port : BitVec 5),
    let d := die.toNat
    let n := port.toNat
    (n < portCount d → (s.link d n).state = 0 →
      (∃ t, exec (.edgePortTraining die port true) s = .next t ∧ (t.link d n).state = 1 ∧
        t = { s with links := t.links } ∧ (∀ j, j ≠ d * 32 + n → tabGet LinkSt.idle t.links j = tabGet LinkSt.idle s.links j)) ∧
      (∃ t, exec (.edgePortTraining die port false) s = .next t ∧ (t.link d n).state = 2)) ∧
    ((s.link d n).state = 1 → (s.link d n).waiting = true →
      ∃ t, exec (.linkReplayRequest die port) s = .next t ∧
        let l := s.link d n
        let asked := tabGet 0 l.replays l.place
        (if asked < 3 then
          t.link d n = { l with waiting := false, replays := tabSet 0 l.replays l.place (asked + 1)
                                place := if l.taken = 0 then 1 else 0 } ∧
            t.out = s.out ++ [.link "replay" d n l.lastSeq]
        else (t.link d n).state = 2))

/-- The bits of a flit's words travel as R18 says, and none is lost. A control flit and a data flit in sequence whose words all
pass the check are taken: the control flit moves the sequence number on, announces what its data flits belong to and is
acknowledged; a data flit is taken in its place (R19, R20, R24 to R27). A flit with an uncorrectable word waits for a replay and
nothing of it is taken (R26). Where the manual leaves it open it follows the model's choices (log entries 25, 30, 176, 180 and
183). Completes (exec answers a next state): controlFlit, dataFlit. -/
def Obligations.FlitsAreTaken : Prop :=
  (∀ (ui : List (BitVec 256)) (w u b : Nat), w < 32 → u < 9 → b < 8 →
    (wireWord ui w).getLsbD (8 * u + b) = (ui.getD u 0).getLsbD (8 * ((w + u) % 32) + b)) ∧
  (∀ ws : List CodeWord, ws.length = 32 → wireWords (toWire ws) = ws) ∧
  ∀ (s : State) (die : BitVec 6) (port : BitVec 5) (ui : List (BitVec 256)),
    let d := die.toNat
    let n := port.toNat
    let l := s.link d n
    let ws := (checkFlit (wireWords ui)).1
    let bad := (checkFlit (wireWords ui)).2
    l.state = 1 → l.waiting = false → ui.length = 9 →
    (l.place = 0 ∨ l.place = l.group.length + 1 → bad = [] →
      let h := decodeLink (pairAt ws 0)
      h.flitSeq.toNat = (l.lastSeq + 1) % 4096 → badLink h = false → ¬ (h.linkState = 3 ∧ h.slotValid = 0) →
      let ts := ((List.range 15).filter fun k => h.slotValid.getLsbD k).map fun k => decodeTx (pairAt ws (k + 1))
      ∃ t, exec (.controlFlit die port ui) s = .next t ∧ (t.link d n).lastSeq = h.flitSeq.toNat ∧
        (t.link d n).group = announcedBy h ts ∧ (t.link d n).place = 1 ∧ (t.link d n).taken = 1 ∧
        .link "ack" d n h.flitSeq.toNat ∈ t.out) ∧
    (l.place ≠ 0 → l.place ≤ l.group.length → bad = [] →
      ∃ t, exec (.dataFlit die port ui) s = .next t ∧ (t.link d n).place = l.place + 1 ∧ (t.link d n).group = l.group ∧
        (t.link d n).taken = max l.taken (l.place + 1) ∧
        (l.group.getD (l.place - 1) none = none → t = s.setLink d n { l with place := l.place + 1, taken := max l.taken (l.place + 1) })) ∧
    (l.place = 0 ∨ l.place = l.group.length + 1 → bad ≠ [] → bad.all (tabGet [] l.bad l.place).contains = false →
      exec (.controlFlit die port ui) s =
        .next (s.setLink d n { l with bad := tabSet [] l.bad l.place bad, waiting := true }))

/-- PACKET_STALE marks the packet, and its output then sends: the only packet of an output whose flits have credits and room to be
held goes, and takes its credits; no packet leaves an output at which none can go (R26, R30, R32, R33, R636). It completes for
every place in the list. Where the manual leaves it open it follows the model's choices (log entries 25 and 175). Completes (exec
answers a next state): packetStale. -/
def Obligations.StalePacketsGoFirst : Prop :=
  ∀ (s : State) (die : BitVec 6) (idx : Nat),
    ((s.packets.filter fun q => q.die == die.toNat)[idx]? = none → exec (.packetStale die idx) s = .next s) ∧
    ∀ p : Packet, (s.packets.filter fun q => q.die == die.toNat)[idx]? = some p →
    let l := s.link die.toNat p.port
    let marked := { s with packets := s.packets.map fun q => if q = p then { q with stale := true } else q }
    exec (.packetStale die idx) s = .next (marked.sendFrom die.toNat p.port) ∧
    (s.packets.filter (fun q => q.die == die.toNat && q.port == p.port) = [p] → l.room p = true →
      ∃ t, exec (.packetStale die idx) s = .next t ∧ t.out = s.out ++ [.packet p.header p.words] ∧
        t.packets = s.packets.erase p ∧ (t.link die.toNat p.port).credit p.vc = l.credit p.vc - p.flits) ∧
    ((∀ q ∈ s.packets, q.die = die.toNat → q.port = p.port → (s.link die.toNat q.port).room q = false) →
      exec (.packetStale die idx) s = .next marked)

/-- RDG at a C-die answers with the granule of the cluster buffer as stored, and at an M-die with the granule at the place of its
address, check bits included, in an RDG_RSP to the requester (R103, R296); one without memory is answered with zeros. WRG stores
every enabled word as the 72 bits it carries and no other, in the cluster buffer or at every place of its granule in the stacks,
and is acknowledged (R103, R320, R653). Each completes. Where the manual leaves it open it follows the model's choices (log entry
32). Completes (exec answers a next state): rdg, wrg. -/
def Obligations.GranulesAreServed : Prop :=
  ∀ (s : State) (h : TxHeader) (ws : List CodeWord),
    let d := h.dstDie.toNat
    let k := 4 * d + h.dstCluster.toNat
    let a := h.address % 25165824
    let base := fun (p : Place) => physAddr p.stack p.pc p.row
    s.reach h.srcDie.toNat d = true →
    (h.opcode = 0x01 → d < 16 →
      exec (.rdg h) s = .next (s.sendPacket (h.back 0x10) ((List.range 32).map fun w => (s.cluster k).buf.codeWord (a / 8 + w)))) ∧
    (∀ p, h.opcode = 0x01 → 16 ≤ d → s.place h.address = some p →
      exec (.rdg h) s = .next ((s.seen p (s.dramErrs (base p) 256).1 (s.dramErrs (base p) 256).2).sendPacket (h.back 0x10)
        ((List.range 32).map fun w => s.dram.codeWord (base p / 8 + w)))) ∧
    (h.opcode = 0x01 → 16 ≤ d → s.place h.address = none →
      exec (.rdg h) s = .next (s.sendPacket (h.back 0x10) (List.replicate 32 (eccEncode 0)))) ∧
    (h.opcode = 0x02 → d < 16 →
      ∃ t, exec (.wrg h ws) s = .next t ∧ .packet (h.back 0x11) [] ∈ t.out ∧
        ((s.cluster k).landErrs = [] → t.out = s.out ++ [.packet (h.back 0x11) []]) ∧
        (∀ w, w < 32 → (t.cluster k).buf.codeWord (a / 8 + w) =
          if h.mask.getLsbD w then ws.getD w (eccEncode 0) else (s.cluster k).buf.codeWord (a / 8 + w)) ∧
        (∀ x, (x < a ∨ a + 256 ≤ x) → (t.cluster k).buf.read1 x = (s.cluster k).buf.read1 x) ∧ t.dram = s.dram) ∧
    (∀ l, h.opcode = 0x02 → 16 ≤ d → s.logicalPlace h.address = some l →
      let places := ((s.stack l.stack).writePlaces l.pc l.row).map fun c => base ⟨l.stack, c.1, c.2⟩
      ∃ t, exec (.wrg h ws) s = .next t ∧ t.out = s.out ++ [.packet (h.back 0x11) []] ∧ t.clusters = s.clusters ∧
        (∀ b ∈ places, ∀ w, w < 32 → t.dram.codeWord (b / 8 + w) =
          if h.mask.getLsbD w then ws.getD w (eccEncode 0) else s.dram.codeWord (b / 8 + w)) ∧
        (∀ x, (∀ b ∈ places, x < b ∨ b + 256 ≤ x) → t.dram.read1 x = s.dram.read1 x)) ∧
    (h.opcode = 0x02 → 16 ≤ d → s.logicalPlace h.address = none → exec (.wrg h ws) s = .next (s.sendPacket (h.back 0x11) []))

/-- A granule read or written towards a die that cannot be reached is answered by the last router: zero data with every check bit
1, or an acknowledgement with no write (R625). Where the manual leaves it open it follows the model's choices (log entry 33). -/
def Obligations.UnreachableDiesAreAnswered : Prop :=
  ∀ (s : State) (h : TxHeader) (ws : List CodeWord), s.reach h.srcDie.toNat h.dstDie.toNat = false →
    (h.opcode = 0x01 → exec (.rdg h) s = .next (s.emit (.packet (h.back 0x10) (List.replicate 32 poisonMask)))) ∧
    (h.opcode = 0x02 → exec (.wrg h ws) s = .next (s.emit (.packet (h.back 0x11) [])))

/-- RDG_RSP and WRG_ACK take one granule off the oldest load or store of the core that waits for one, NCMD_ACK one acknowledgement
off its oldest ST of mode 2 (R131, R347); an acknowledgement that nothing waits for changes nothing. A response that no load of
its core waits for is checked word by word: sound, it changes nothing; each uncorrectable word is counted and raises a data-fault
event (R104, R297). Each completes. Where the manual leaves it open it follows the model's choices (log entries 16 and 31).
Completes (exec answers a next state): rdgRsp, wrgAck, ncmdAck. -/
def Obligations.AnswersAreTaken : Prop :=
  ∀ (s : State) (h : TxHeader) (ws : List CodeWord),
    let d := h.dstDie.toNat
    let pc? := s.tagCore d h.dstCluster.toNat h.tag.toNat
    let take := fun (pc u : Nat) (cmd : Bool) =>
      findIdx (fun (f : Flight) => f.unit == u && f.complete.isNone && (if cmd then f.acks != 0 else f.unacked != 0))
        (s.core pc).sq.flights
    (∀ pc n f, d < 16 → pc? = some pc →
      (h.opcode = 0x10 → take pc 3 false = some (n, f) → ∃ t, exec (.rdgRsp h ws) s = .next t ∧
        (t.core pc).sq.flights = setAt (s.core pc).sq.flights n { f with unacked := f.unacked - 1 } ∧
        t = { s with cores := t.cores } ∧ ∀ j, j ≠ pc → t.core j = s.core j) ∧
      (h.opcode = 0x11 → take pc 4 false = some (n, f) → ∃ t, exec (.wrgAck h) s = .next t ∧
        (t.core pc).sq.flights = setAt (s.core pc).sq.flights n { f with unacked := f.unacked - 1 } ∧
        t = { s with cores := t.cores } ∧ ∀ j, j ≠ pc → t.core j = s.core j) ∧
      (h.opcode = 0x21 → take pc 4 true = some (n, f) → ∃ t, exec (.ncmdAck h) s = .next t ∧
        (t.core pc).sq.flights = setAt (s.core pc).sq.flights n { f with acks := f.acks - 1, unacked := f.unacked - 1 } ∧
        t = { s with cores := t.cores } ∧ ∀ j, j ≠ pc → t.core j = s.core j)) ∧
    (16 ≤ d ∨ pc? = none ∨ (∃ pc, pc? = some pc ∧ take pc 4 false = none) → exec (.wrgAck h) s = .next s) ∧
    (16 ≤ d ∨ pc? = none ∨ (∃ pc, pc? = some pc ∧ take pc 4 true = none) → exec (.ncmdAck h) s = .next s) ∧
    (16 ≤ d ∨ pc? = none ∨ (∃ pc, pc? = some pc ∧ take pc 3 false = none) → h.opcode = 0x10 →
      ((∀ w ∈ ws, eccCheck w = .clean) → exec (.rdgRsp h ws) s = .next s) ∧
      (let bad := (ws.filter fun w => decide (eccCheck w = .uncorrectable)).length
       bad ≠ 0 → ∃ t, exec (.rdgRsp h ws) s = .next t ∧ t.num 0x9002 1 = (s.num 0x9002 1 + bad) % 2 ^ 64 ∧
         t.counter 0x8041 (d + 1) = (s.counter 0x8041 (d + 1) + bad) % 2 ^ 64 ∧ SameMemory s t))

/-! ### Beside-memory units -/

/-- NCMD is acknowledged to its sender; the sound single granule of a command that no other waits before joins the end of its
partition's commands, held, with the status that R348 to R350 give it (R347, R348, R350). DECODE, STATS, EWISE and REDUCE start
the front command of their kind: it runs with the partials its work gives, or with the status of the first fault met (R352). Where
the manual leaves it open it follows the model's choices (log entries 59, 69 and 71). Completes (exec answers a next state): ncmd,
decode, stats, ewise, reduce. -/
def Obligations.NmuCommandsRun : Prop :=
  ∀ (s : State),
    (∀ (h : TxHeader) (ws : List CodeWord),
      let k := h.dstDie.toNat - mDie 0
      let p := h.partition.toNat
      let c : NmuCmd := { s.newCmd k p h with granules := [wordBytes (checkFlit ws).1], held := true }
      h.opcode = 0x20 → mDie 0 ≤ h.dstDie.toNat → h.dstDie.toNat < xDie 0 →
      s.reach h.srcDie.toNat h.dstDie.toNat = true → (∀ w ∈ ws, eccCheck w = .clean) →
      h.granule.toNat / 2 = 1 ∨ c.count ≤ 1 → (∀ x ∈ s.cmdsOf k p, x.held = true) →
      ((s.cmdsOf k p).filter fun x => !x.ended).length < 16 →
      ∃ t, exec (.ncmd h ws) s = .next t ∧ t.out = s.out ++ [.packet (h.back 0x21) []] ∧
        t.cmdsOf k p = s.cmdsOf k p ++ [{ c with status := s.heldStatus p k { c with held := false } }]) ∧
    (∀ (stack : Fin 24) (p : BitVec 4) (n : Nat) (c : NmuCmd),
      let k := stack.val
      let v := s.traceCmd p.toNat k 0x10 c.tag c.kind
      let started := fun (u : State × Work) (t : State) =>
        t = { u.1 with hbm := t.hbm } ∧ ∃ c', t.cmdsOf k p.toNat = setAt (u.1.cmdsOf k p.toNat) n c' ∧ c'.running = true ∧
          c'.partials = u.2.parts ∧ (c'.status, c'.faultPc, c'.faultIndex) = u.2.fault.getD (0, c.faultPc, c.faultIndex)
      s.front k p.toNat = some (n, c) → c.held = true → c.running = false → c.status = 0 →
      (c.kind = 1 → ∃ t, exec (.decode stack p) s = .next t ∧ started (v.decodeWork p.toNat k c) t) ∧
      (c.kind = 2 → ∃ t, exec (.stats stack p) s = .next t ∧ started (v.statsWork p.toNat k c) t) ∧
      (c.kind = 3 → ∃ t, exec (.ewise stack p) s = .next t ∧
        started (v.eachGranule c.n fun s i w => s.ewiseStep p.toNat k c i w) t) ∧
      (c.kind = 4 → ∃ t, exec (.reduce stack p) s = .next t ∧
        started (v.eachGranule c.n fun s i w => s.reduceStep p.toNat k c i w) t))

/-- NMU_COMMAND_END of a command that ran without a fault removes it, counts it, and writes its status granule at its place in the
cluster buffer that its header names (R351, R352, R364). Where the manual leaves it open it follows the model's choices (log
entries 59 and 72). Completes (exec answers a next state): nmuCommandEnd. -/
def Obligations.NmuCommandEnds : Prop :=
  ∀ (s : State) (stack : Fin 24) (p : BitVec 4) (n : Nat) (c : NmuCmd),
    let k := stack.val
    let heads := if c.kind = 1 then c.merged else []
    s.front k p.toNat = some (n, c) → c.held = true → c.running = true → c.status = 0 → c.coll = none →
    s.returnOk p.toNat c = true → s.reach (mDie k) c.retDie = true → s.coll.insts = [] → (s.part p.toNat).stop = none →
    (∀ x, s.running p.toNat = some x → x.fail = none ∧ x.replayReq = false ∧ x.rollReq = false ∧ x.atEnd = false) →
    (∀ w, (s.cluster (4 * c.retDie + c.retCluster)).buf.mask w = 0) → (s.cluster (4 * c.retDie + c.retCluster)).landErrs = [] →
    ∃ t, exec (.nmuCommandEnd stack p) s = .next t ∧ t.cmdsOf k p.toNat = dropAt (s.cmdsOf k p.toNat) n ∧
      t.num 0x5A03 (k + 1) = (s.num 0x5A03 (k + 1) + 1) % 2 ^ 64 ∧
      (t.cluster (4 * c.retDie + c.retCluster)).buf.readRaw (256 * c.recBase k) 256 =
        c.statusGranule k (heads.map fun h => h.getD 0 0) (heads.map fun h => h.getD 1 0) ∧ t.dram = s.dram

/-! ### Collective engines -/

/-- CDATA, CRESULT, CCLEAN, CFIX and CRECALL of an open instance take their effect: a child's value waits at its node or is added
and sent on (R382), a result lands and makes the chunk Provisional (R381, R387), a verified subtree is noted at its parent (R387),
a fix notice makes a Provisional chunk Fixed (R387), a recall notice opens the next round (R388). Where the manual leaves it open
it follows the model's choices (log entries 17, 73, 75, 76, 77 and 82). Completes (exec answers a next state): cdata, cresult,
cclean, cfix, crecall. -/
def Obligations.CollectiveMessagesTakeEffect : Prop :=
  ∀ (s : State) (i : Inst) (m : CollMsg) (d : List CodeWord),
    let g := m.group.toNat
    let q := m.seq.toNat
    let v := wordBytes (d.map eccCorrect)
    let came := if m.srcModule.toNat = s.moduleId then 0 else 1
    let c := m.chunk.toNat
    let r := m.round.toNat
    let k := i.chunk c
    let n := i.entry.ranks.length
    let elsewhere := fun (first span : Nat) => i.entry.computer c first span % 2 ^ 32 ≠ s.moduleId
    let leaf := i.entry.oneModule m.nodeFirst.toNat m.nodeSpan.toNat = true
    Arrives s i m d →
    (∀ pf ps, m.kind = 0x31 → i.entry.adds = true → s.atParent i m = true → i.landingFull = false ∨ i.completes m = true →
      treeParent n m.nodeFirst.toNat m.nodeSpan.toNat = some (pf, ps) →
      let isLeft := m.nodeFirst.toNat = pf
      ((∀ x ∈ k.nodes, ¬ (x.first = pf ∧ x.span = ps ∧ x.round = r)) →
        ∃ t j, exec (.cdata m d) s = .next t ∧ t.inst g q = some j ∧ (j.chunk c).phase = k.phase ∧ (j.chunk c).nodes = k.nodes ++
          [⟨pf, ps, r, if isLeft then some v else none, if isLeft then none else some v, none, none, false, false, false, false, came⟩]) ∧
      (∀ x a b gf gs, k.nodes.find? (fun x => x.first == pf && x.span == ps && x.round == r) = some x →
        (if isLeft then some v else x.left) = some a → (if isLeft then x.right else some v) = some b →
        treeParent n pf ps = some (gf, gs) → elsewhere gf gs →
        ∃ t j y, exec (.cdata m d) s = .next t ∧ t.inst g q = some j ∧
          { x with left := some a, right := some b, value := some (reduceBytes i.entry.dataFmt a b), waiting := 0 } ∈
            (j.chunk c).nodes ∧ y ∈ t.coll.sent ∧ y.payload = codeOf (reduceBytes i.entry.dataFmt a b) ∧ y.msg = s.collHeader 0x31 i (i.entry.computer c gf gs) c pf ps r)) ∧
    (∀ p h gf gs, m.kind = 0x32 → i.entry.adds = true → i.started = true → leaf → (k.phase = .opened ∨ k.phase = .recalled) →
      k.nodes = [] → s.localNode i.entry = some (p, h) → treeParent n p h = some (gf, gs) → elsewhere gf gs →
      (i.entry.operation ≠ 1 ∨ (s.heldRanks i.entry).contains (i.entry.chunkAt c).1 = true) →
      ∃ t j, exec (.cresult m d) s = .next t ∧ t.inst g q = some j ∧ (j.chunk c).phase = .provisional ∧
        t.dram = (s.storeWords (s.chunkDie c) (s.resultBase i + (i.entry.chunkAt c).2.1) d).dram) ∧
    (m.kind = 0x32 → i.entry.adds = false → i.started = true →
      ∃ t j, exec (.cresult m d) s = .next t ∧ t.inst g q = some j ∧ m.nodeFirst.toNat ∈ (j.chunk c).landed ∧
        t.dram = (s.landData i c m.nodeFirst.toNat d).dram) ∧
    (∀ pf ps x, m.kind = 0x33 → k.phase = .opened → treeParent n m.nodeFirst.toNat m.nodeSpan.toNat = some (pf, ps) →
      x ∈ k.nodes → x.first = pf → x.span = ps → x.round = r →
      ∃ t j, exec (.cclean m) s = .next t ∧ t.inst g q = some j ∧
        (if m.nodeFirst.toNat = pf then { x with cleanL := true } else { x with cleanR := true }) ∈ (j.chunk c).nodes) ∧
    (m.kind = 0x34 → k.phase = .provisional → leaf →
      ∃ t j, exec (.cfix m) s = .next t ∧ t.inst g q = some j ∧ (j.chunk c).phase = .fixed) ∧
    (m.kind = 0x35 → leaf → i.entry.computer c 0 n ≠ s.moduleId →
      i.entry.computer c m.nodeFirst.toNat m.nodeSpan.toNat = s.moduleId → k.phase ≠ .fixed → k.phase ≠ .aborted →
      r + 1 ≤ (if (s.peers i.entry).isEmpty then 1 else s.num 0x6100 5) → k.ready = false → i.used = false →
      ∃ t j, exec (.crecall m) s = .next t ∧ t.inst g q = some j ∧ (j.chunk c).phase = .recalled ∧ (j.chunk c).round = r + 1)

/-- CBUSY sets the message it answers aside with a wait of 1 µs, doubled each time up to 64 µs, CBUSY_RETRY sends it again (R399);
CACK ends the wait for one message (R402); without CACK or completion in time a message is sent again by the next port under a
number it has not had, and after the third resend its instance is aborted with reason 0x0604 (R402, R493, R494); one that has no
number yet because all are taken goes on waiting (R493). Where the manual leaves it open it follows the model's choices (log
entries 80 and 84). Completes (exec answers a next state): cbusy, cbusyRetry, cack, cackTimeout, uioCompletionTimeout. -/
def Obligations.MessagesAreAcknowledged : Prop :=
  ∀ (s : State) (m : CollMsg) (x : Sent) (b : Backoff) (idx q id : Nat),
    let out := fun (t : State) (m : CollMsg) =>
      Output.uio q (s.routePid q m.dstModule.toNat) (s.num 0x6100 8 + s.moduleId * 2 ^ 27 + id * 2 ^ 23)
        (codeOf (slice (collBytes m) 0 256)) ∈ t.out
    (badMsg m = false → (∀ i, s.inst m.group.toNat m.seq.toNat = some i → i.done = true ∨ disagreement i m = 0) → m.dstModule.toNat = s.moduleId →
      s.coll.sent.find? (fun x => !x.ids.isEmpty && answers m x.msg) = some x →
      (m.kind = 0x36 → ∃ t, exec (.cbusy m) s = .next t ∧ t.coll.insts = s.coll.insts ∧ t.coll.backoff = s.coll.backoff ++
        [⟨x.msg, x.payload, if x.waitUs = 0 then 1 else min 64 (2 * x.waitUs)⟩]) ∧
      (m.kind = 0x37 → x.msg.kind ≠ 0x32 → (∀ y ∈ s.coll.sent, y.port ≠ 0xFF) → (∀ k ∈ s.coll.cacks, k.dstModule ≠ m.srcModule) →
        exec (.cack m) s = .next (s.setSent (s.coll.sent.erase x)))) ∧
    (s.coll.backoff[idx]? = some b → s.portFor b.msg = some q → s.freeId b.msg.dstModule.toNat [] = some id →
      (∀ i, s.inst b.msg.group.toNat b.msg.seq.toNat = some i → s.collHeld i = false) →
      ∃ t, exec (.cbusyRetry idx) s = .next t ∧ t.coll.backoff = dropAt s.coll.backoff idx ∧
        t.coll.sent = s.coll.sent ++ [⟨b.msg, b.payload, q, id, 0, b.waitUs, []⟩] ∧ out t b.msg) ∧
    (s.coll.sent[idx]? = some x →
      let rest := s.setSent (dropAt s.coll.sent idx)
      let resent := fun (c : Instr) => ∃ t, exec c s = .next t ∧ out t x.msg ∧
        t.coll.sent = dropAt s.coll.sent idx ++ [{ x with resends := x.resends + 1, port := q, msgId := id, used := x.ids }]
      let given := fun (c : Instr) => ∃ t j, exec c s = .next t ∧ t.inst x.msg.group.toNat x.msg.seq.toNat = some j ∧
        j.abort = some 0x0604
      (x.resends < 3 → x.ids ≠ [] → s.portAfter x.msg x.port = some q → rest.freeId x.msg.dstModule.toNat x.ids = some id →
        id ∉ x.ids ∧ resent (.cackTimeout idx) ∧ resent (.uioCompletionTimeout idx)) ∧
      (x.ids = [] → rest.freeId x.msg.dstModule.toNat [] = none → exec (.cackTimeout idx) s = .next s) ∧
      (∀ i, 3 ≤ x.resends → x.ids ≠ [] → s.inst x.msg.group.toNat x.msg.seq.toNat = some i → i.done = false →
        s.stepsOf i.part (instKey x.msg.group.toNat x.msg.seq.toNat) = [] →
        given (.cackTimeout idx) ∧ given (.uioCompletionTimeout idx)))

/-- A peer that stays silent aborts the instance with reason 0x0604 (R402); a partition that makes no progress asks every member
of its lowest instance (R401); a query is answered with this module's key, a reply whose key differs aborts with 0x0605 (R401); an
abort notice aborts the instance here and is not passed on (R403); one that repeats an earlier one is dropped and counted (R384).
Where the manual leaves it open it follows the model's choices (log entries 78, 79, 81 and 185). Completes (exec answers a next
state): peerTimeout, inversionTimeout, cquery, creply, cabort. -/
def Obligations.QueriesAndAborts : Prop :=
  ∀ (s : State) (m : CollMsg) (i : Inst),
    let g := m.group.toNat
    let q := m.seq.toNat
    let aborted := fun (c : Instr) (code : Nat) => ∃ t j, exec c s = .next t ∧ t.inst g q = some j ∧ j.abort = some code ∧
      EventCounted s t 0x0B ∧ SameMemory s t
    (∀ p : BitVec 4, s.lowest p.toNat = some i →
      ∃ t, exec (.inversionTimeout p) s = .next t ∧ t.coll.insts = s.coll.insts ∧
        t.coll.sent.map (·.msg) = s.coll.sent.map (·.msg) ++ (s.peers i.entry).map fun k => s.collHeader 0x38 i k 0 0 0 0) ∧
    (s.inst g q = some i → i.done = false → s.stepsOf i.part (instKey g q) = [] →
      (∀ j ∈ s.coll.insts, j.group = g → j.seq = q → j = i) →
      (s.peers i.entry ≠ [] → aborted (.peerTimeout m.group m.seq) 0x0604) ∧
      (badMsg m = false → m.dstModule.toNat = s.moduleId → disagreement i m = 0 →
        s.coll.heard.contains ⟨m.kind.toNat, m.srcModule.toNat, g, q⟩ = false →
        (m.kind = 0x38 → ∃ t x, exec (.cquery m) s = .next t ∧ t.coll.insts = s.coll.insts ∧ x ∈ t.coll.sent ∧
          x.msg.kind = 0x39 ∧ x.msg.dstModule = m.srcModule ∧ x.msg.keyOfQuery = BitVec.ofNat 32 i.key ∧
          ∀ j, s.lowest i.part = some j → x.msg.lowGroup = BitVec.ofNat 16 j.group ∧ x.msg.lowKey = BitVec.ofNat 32 j.key) ∧
        (m.kind = 0x39 → m.keyOfQuery ≠ 0 → m.keyOfQuery.toNat ≠ i.key → aborted (.creply m) 0x0605) ∧
        (m.kind = 0x3A → aborted (.cabort m) (0x0600 + m.status.toNat) ∧
          ∃ t, exec (.cabort m) s = .next t ∧ t.coll.sent = s.coll.sent))) ∧
    (badMsg m = false → m.dstModule.toNat = s.moduleId → s.coll.heard.contains ⟨m.kind.toNat, m.srcModule.toNat, g, q⟩ = true →
      (m.kind = 0x38 → exec (.cquery m) s = .next (if m.srcModule.toNat = s.moduleId then s.dropMsg m else (s.dropMsg m).sendCack m)) ∧
      (m.kind = 0x3A → exec (.cabort m) s = .next (if m.srcModule.toNat = s.moduleId then s.dropMsg m else (s.dropMsg m).sendCack m)))

/-- CSTART records the granules written and starts nothing while no chunk is complete (R378); a verdict is noted at its node, and
a failed one recalls the chunk at the root's computer and raises the event (R386, R388); a failed check in an NMU or a merge stage
gives the command it runs status 1 and raises the event (R98, R365). The checks of a right addition are clean, those of a raw sum
with one bit wrong, or of two exponents that differ, are not (R97). Where the manual leaves it open it follows the model's choices
(log entries 17, 211). Completes (exec answers a next state): cstart, residueVerdict. -/
def Obligations.ReadinessAndVerdicts : Prop :=
  ∀ (s : State) (i : Inst) (m : CollMsg) (group seq : BitVec 16),
    let g := group.toNat
    let q := seq.toNat
    (s.inst g q = some i → i.abort = none → s.NothingDue i.part → i.readyAt = none → (∀ j ∈ s.coll.insts, j.group = g → j.seq = q → j = i) →
    (∀ (p : BitVec 4) (first count : Nat), badMsg m = false → m.kind = 0x30 → m.group = group → m.seq = seq → i.part = p.toNat → i.started = true →
      (∀ m, i.first = some m → disagreement i m = 0) →
      let j := { i with written := i.written ++ (rangeFrom first count).filter fun k => !i.written.contains k }
      (∀ c, c < i.entry.chunks.length → (i.chunk c).ready = false ∧ s.chunkReady j c = false) →
      exec (.cstart p m first count) s =
        .next (s.modInst g q fun x => { x with
          first := none, written := x.written ++ (rangeFrom first count).filter fun k => !i.written.contains k })) ∧
    (∀ (chunk : BitVec 32) (first span : BitVec 16) (x : NodeSt) (ops shifts : List (Bool × Nat × Nat)) (raws : List Nat)
        (rounds exps : List (Nat × Nat)),
      let checks := adderChecks ops raws shifts rounds exps
      let c := chunk.toNat
      let k := i.chunk c
      let n := i.entry.ranks.length
      x ∈ k.nodes → x.first = first.toNat → x.span = span.toNat → x.round = k.round → x.value ≠ none → x.verdict = none →
      (k.phase = .opened → checks.all AdderCheck.clean = true →
        ∃ t j, exec (.residueVerdict (.node group seq chunk first span) ops raws shifts rounds exps) s = .next t ∧ t.inst g q = some j ∧
        { x with verdict := some true } ∈ (j.chunk c).nodes) ∧
      (i.entry.computer c 0 n % 2 ^ 32 ≠ s.moduleId → checks.all AdderCheck.clean = false →
        ∃ t j y, exec (.residueVerdict (.node group seq chunk first span) ops raws shifts rounds exps) s = .next t ∧ t.inst g q = some j ∧
          { x with verdict := some false } ∈ (j.chunk c).nodes ∧ EventCounted s t 5 ∧ y ∈ t.coll.sent ∧
          y.msg = s.collHeader 0x35 i (i.entry.computer c 0 n) c first.toNat span.toNat k.round))) ∧
    (∀ (stack : Fin 24) (p : BitVec 4) (pc : BitVec 6) (ops shifts : List (Bool × Nat × Nat)) (raws : List Nat)
        (rounds exps : List (Nat × Nat)) (n : Nat) (c : NmuCmd),
      let checks := adderChecks ops raws shifts rounds exps
      let k := stack.val
      (checks.all AdderCheck.clean = true → exec (.residueVerdict (.nmu stack p pc) ops raws shifts rounds exps) s = .next s ∧
        exec (.residueVerdict (.merge stack p) ops raws shifts rounds exps) s = .next s) ∧
      (checks.all AdderCheck.clean = false → s.front k p.toNat = some (n, c) → c.running = true → c.kind ≠ 3 → c.status = 0 →
        (∃ t, exec (.residueVerdict (.nmu stack p pc) ops raws shifts rounds exps) s = .next t ∧ EventCounted s t 5 ∧ SameMemory s t ∧
          t.cmdsOf k p.toNat = setAt (s.cmdsOf k p.toNat) n { c with status := 1, faultPc := pc.toNat }) ∧
        (∃ t, exec (.residueVerdict (.merge stack p) ops raws shifts rounds exps) s = .next t ∧ EventCounted s t 5 ∧ SameMemory s t ∧
          t.cmdsOf k p.toNat = setAt (s.cmdsOf k p.toNat) n { c with status := 1, faultPc := 0xFF }))) ∧
    (∀ x : AdderCheck, (if x.differ then x.raw + x.b = x.a else x.raw = x.a + x.b) →
      (if x.up then x.rounded = x.raw * 2 ^ x.shift + x.inc
        else x.inc ≤ x.rounded ∧ x.raw = (x.rounded - x.inc) * 2 ^ x.shift + x.dropped) →
      x.clean = (x.exp0 == x.exp1) ∧ ∀ k, ({ x with raw := x.raw + 2 ^ k } : AdderCheck).clean = false)

/-- A write into the receive window receives its completion; one that brings a whole message has that message's effect, one that
brings part of it is kept until the rest comes or 50 µs are over (R491, R494); a fabric port that leaves service is marked and what was out through it goes
by the next (R379, R402); `coll_reset` returns the group counters to 0 (R375). Where the manual leaves it open it follows the
model's choices (log entry 84). Completes (exec answers a next state): cack, uioWriteReceive, messageAssemblyTimeout, collReset,
fabricPortLeavesService. -/
def Obligations.MessagesBetweenModules : Prop :=
  ∀ (s : State) (port : BitVec 3),
    let n := port.toNat
    (∀ (addr : BitVec 64) (data : List CodeWord) (src id : Nat),
      src < 2 ^ 17 → id < 16 → addr.toNat = s.num 0x6100 8 + src * 2 ^ 27 + id * 2 ^ 23 → s.num (0x6000 + n) 1 = 1 →
      n ≠ 0 → s.num 0x6000 5 = 0 → (∀ a ∈ s.coll.assembly, ¬ (a.src = src ∧ a.msgId = id)) → data ≠ [] →
      (∀ w ∈ data.take 8, eccCheck w = .clean) →
      let m := collOfBytes (wordBytes (data.map eccCorrect))
      let u := s.emit (.uioCompletion n addr.toNat)
      (8 ≤ data.length → m.kind = 0x37 → exec (.uioWriteReceive port addr data) s = exec (.cack m) u) ∧
      (data.length < 8 → ∃ t, exec (.uioWriteReceive port addr data) s = .next t ∧
        t = { u with coll := { s.coll with assembly := s.coll.assembly ++ [⟨src, id, [(0, data)]⟩] } })) ∧
    (∀ (module : BitVec 17) (msgId : BitVec 4),
      ∃ t, exec (.messageAssemblyTimeout module msgId) s = .next t ∧
        (∀ a, a ∈ t.coll.assembly ↔ a ∈ s.coll.assembly ∧ ¬ (a.src = module.toNat ∧ a.msgId = msgId.toNat)) ∧
        t = { s with coll := { s.coll with assembly := t.coll.assembly } }) ∧
    (n ≠ 0 → s.num (0x6000 + n) 1 = 1 →
      let u := s.setNum (0x6000 + n) 1 3
      ((∀ x ∈ s.coll.sent, x.port ≠ n) → exec (.fabricPortLeavesService port) s = .next u) ∧
      (∀ x q id, s.coll.sent = [x] → x.port = n → x.resends < 3 → x.used = [] → u.portAfter x.msg n = some q →
        id = (if x.msgId = 0 then 1 else 0) →
        ∃ t, exec (.fabricPortLeavesService port) s = .next t ∧ t.num (0x6000 + n) 1 = 3 ∧
          t.coll.sent = [{ x with resends := x.resends + 1, port := q, msgId := id, used := [x.msgId] }])) ∧
    (∀ (path : Path) (p : BitVec 4), Accepted s path (0x6110 + p.toNat) 3 1 →
      ∃ t, exec (.collReset path p) s = .next t ∧ (t.part p.toNat).groupSeq = [] ∧ Told s t path 0)

/-! ### Debug -/

/-- FILMSTRIP_WRAP adds a WRAP record of time stamp 0 (R588); TRACE_ARM makes every filmstrip of the partition an armed ring (R588, R589);
TRACE_TRIGGER triggers an armed trace that enables the manual cause (R590); MARK adds a MARKER record with its value, MARK_WRITE
sends MARK to every die of every enabled partition (Tables 19-3, 19-4, 19-7); SHEET_CAPTURE makes the new sheet the latest and the
latest the one before (R596); TRACE_DRAIN writes the 15 oldest undrained records of a filmstrip that has them to the staging
ring of the partition's export window, when it has room, and marks them drained (R593, R594). Where the manual leaves it open it follows the model's choices (log entries 27,
155 and 158). Completes (exec answers a next state): mark, traceArm, traceTrigger, markWrite, sheetCapture, filmstripWrap,
traceDrain. -/
def Obligations.TracesAndSheets : Prop :=
  ∀ (s : State) (path : Path) (p : BitVec 4),
    (∀ strip q, strip < 600 → s.filmPart strip = some q → s.eff q (0x8100 + q) 1 = 1 → (s.film strip).phase = 1 →
      (s.film strip).recs.length < filmSize strip →
      ∃ t, exec (.filmstripWrap strip) s = .next t ∧ (t.film strip).recs = (s.film strip).recs ++
        [⟨filmWord 0 0x07 0 (filmWhere strip) (s.now % 2 ^ 64 * 2 ^ 16), false⟩]) ∧
    (Accepted s path (0x8100 + p.toNat) 7 1 →
      ∃ t, exec (.traceArm path p) s = .next t ∧ t.num (0x8100 + p.toNat) 9 = 1 ∧ Told s t path 0 ∧
        ∀ f ∈ s.filmsOf p.toNat, (t.film f).phase = 1) ∧
    (Accepted s path (0x8100 + p.toNat) 8 1 → s.eff p.toNat (0x8100 + p.toNat) 1 = 1 → s.num (0x8100 + p.toNat) 9 = 1 →
      (s.eff p.toNat (0x8100 + p.toNat) 3).testBit 0 = true →
      ∃ t, exec (.traceTrigger path p) s = .next t ∧ t.num (0x8100 + p.toNat) 9 = 2 ∧ Told s t path 0) ∧
    (∀ (die : BitVec 6) (h : TxHeader) j q, h.opcode = 0x3E → die.toNat < 16 → j < 36 →
      s.FilmOpen (36 * die.toNat + j) q 6 →
      let f := 36 * die.toNat + j
      ∃ t, exec (.mark die h) s = .next t ∧ SameMemory s t ∧ (t.film f).recs = (s.film f).recs ++
        [⟨filmWord (s.filmTs f) 6 0 (j / 9 * 16 + j % 9) (h.granule.toNat / 2 ^ 32 % 65536 * 2 ^ 64), false⟩]) ∧
    (∀ value : BitVec 16, Accepted s path 0x8140 1 value.toNat →
      ∃ t, exec (.markWrite path value) s = .next t ∧ ∀ q ∈ s.enabledParts, ∀ d ∈ s.partDies q,
        ∃ h, .packet h [] ∈ t.out ∧ h.opcode = 0x3E ∧ h.dstDie = BitVec.ofNat 6 d ∧ h.granule = stopField value.toNat 0) ∧
    (Accepted s path 0x8120 3 1 →
      ∃ t, exec (.sheetCapture path) s = .next t ∧ t.num 0x8120 4 = (s.num 0x8120 4 + 1) % 2 ^ 32 ∧
        t.blob 0x8120 1 = s.sheet 0 0xFFFF 0 ∧ t.blob 0x8120 2 = s.blob 0x8120 1 ∧ Told s t path 0) ∧
    (∀ f,
      let o := 0x8100 + p.toNat
      let w := s.num o 6
      let due := fun (s : State) (f : Nat) => (s.film f).recs.filter fun r => !r.drained
      w < 64 → s.num (0x5700 + w) 1 ≠ 0 → 256 ≤ s.num (0x5700 + w) 3 → 256 ≤ s.ringFree w → s.eff p.toNat o 1 = 1 →
      (s.filmsOf p.toNat).find? (fun f => decide (15 ≤ (due s f).length)) = some f →
      ∃ t, exec (.traceDrain p) s = .next t ∧ due t f = (due s f).drop 15 ∧
        (t.film f).recs.map (·.word) = (s.film f).recs.map (·.word) ∧ (t.part p.toNat).drained = (s.part p.toNat).drained + 1)

/-- STOP_ARM under the debug overlay arms the bath that its registers describe, names it and tells every die of the partition;
without the overlay it is refused with 0x0103 and arms nothing (R600). STOP reaches a die once; STOPPED is counted once its cores
stand at the cut (R601 to R604). Released to resume, every unit that the bath held runs (R605); released to fail, a step with
instructions still in flight has failed with cause 8. A core frozen at a breakpoint goes on by BP_RESUME, or for one instruction
of the unit in `step_unit` by BP_SINGLE_STEP; its hit is cleared (R609). Where the manual leaves it open it follows the model's
choices (log entries 38, 159 and 160). Completes (exec answers a next state): stop, stopped, stopArm, stopReleaseResume,
stopReleaseFail, bpResume, bpSingleStep. -/
def Obligations.StopBathHoldsAndReleases : Prop :=
  ∀ (s : State) (path : Path) (p : BitVec 4),
    let o := 0x8130 + p.toNat
    let b : StopBath := ⟨s.num o 1, s.num o 2, s.num o 3, s.num o 4, s.num o 5, s.num o 6, [], []⟩
    (Accepted s path o 7 1 →
      (s.debugOn p.toNat = true → s.stopAhead p.toNat b = true →
        ∃ t, exec (.stopArm path p) s = .next t ∧ (t.part p.toNat).stop = some b ∧ t.num o 8 = 1 ∧
          t.num o 0xA = (s.num o 0xA + 1) % 65536 ∧ ∀ d ∈ s.partDies p.toNat,
            ∃ h, .packet h [] ∈ t.out ∧ h.opcode = 0x3C ∧ h.dstDie = BitVec.ofNat 6 d) ∧
      (s.debugOn p.toNat = false →
        ∃ t, exec (.stopArm path p) s = .next t ∧ t.parts = s.parts ∧ t.dict = s.dict ∧ Told s t path 0x0103)) ∧
    (∀ (die : BitVec 6) (h : TxHeader) (b : StopBath), h.partition = p → (s.part p.toNat).stop = some b →
      h.granule.toNat / 2 ^ 32 = s.num o 0xA →
      (h.opcode = 0x3C → b.reached.contains die.toNat = false → (s.partDies p.toNat).contains die.toNat = true →
        ∃ t, exec (.stop die h) s = .next t ∧ t.num o 8 = max 2 (s.num o 8) ∧
          (t.part p.toNat).stop = some { b with reached := b.reached ++ [die.toNat] }) ∧
      (∀ x, h.opcode = 0x3D → h.srcDie = die → s.bathStep p.toNat b = some x → b.reached.contains die.toNat = true →
        b.stoppedDies.contains die.toNat = false →
        let mine := (s.stepCores x).filter fun c => c / 32 == die.toNat
        mine ≠ [] → mine.all (s.coreCut x) = true →
        ∃ t, exec (.stopped h) s = .next t ∧
          (t.part p.toNat).stop = some { b with stoppedDies := b.stoppedDies ++ [die.toNat] } ∧
          ((s.stepDies x).all (b.stoppedDies ++ [die.toNat]).contains = true → s.coll.insts = [] → s.conductor.inOffice = true →
            s.num o 8 = 2 → t.num o 8 = 3)))
    ∧ (s.coll.insts = [] →
      (Accepted s path o 9 1 → ∃ t, exec (.stopReleaseResume path p) s = .next t ∧ (t.part p.toNat).stop = none ∧
        t.num o 8 = 0 ∧ Told s t path 0 ∧ ∀ pc u, pc < 576 → u < 5 → (s.core pc).run.map (·.part) = some p.toNat →
          ((t.core pc).sq.unit u).halt =
            (if ((s.core pc).sq.unit u).halt = .bath then .running else ((s.core pc).sq.unit u).halt)) ∧
      (∀ bath x pc r, Accepted s path o 9 2 → (s.part p.toNat).stop = some bath → s.bathStep p.toNat bath = some x → x.fail = none →
        pc < 576 → (s.core pc).run = some r → r.part = p.toNat → (s.core pc).sq.flights ≠ [] →
        ∃ t y, exec (.stopReleaseFail path p) s = .next t ∧ (t.part p.toNat).stop = none ∧ t.num o 8 = 0 ∧
          t.running p.toNat = some y ∧ y.req = x.req ∧ y.fail = some ⟨8, 0, 0, none⟩)) ∧
    (∀ (c : CoreId) (pc : Nat),
      let o := bpObj c.toNat
      let thawed := fun (t : State) (single : Nat) => (t.core pc).frozen = false ∧ (t.core pc).single = single ∧ t.num o 0xD = 0 ∧
        (t.core pc).sq.flights = (s.core pc).sq.flights ∧ SameMemory s t ∧ Told s t path 0
      s.physOf c.toNat = some pc → (s.core pc).frozen = true →
      (Accepted s path o 0xF 1 → ∃ t, exec (.bpResume path c) s = .next t ∧ thawed t 0) ∧
      (Accepted s path o 0xF 2 → ∃ t, exec (.bpSingleStep path c) s = .next t ∧ thawed t (s.num o 0x10 + 1)))

/-! ### The stacks, tiers and exports -/

/-- Training opens and closes a window on a pseudo-channel, counting failures in a row (R307, R308); the patrol scrub rewrites the
correctable words of a granule and only those, with their corrected data and their own check bits, and moves on (R299), but not on
the pseudo-channel that trains (R307); a temperature sample raises and lowers the emergency share, which every partition is served
at once, and the class at its thresholds (R309, R311, R313), a rise and a fall move the class by one (R309); a second migration
starts once its overlay is applied and the steps accepted before it have completed (R322), and each block copied moves the map
generation on (R318, R319), or waits for a training window, and neither goes on while a test strip runs on the stack (Tables 17-6
and 17-9). Where the manual leaves it open it follows the model's choices (log entries 61, 62 and 63). Completes (exec answers a
next state): trainingWindowStart, trainingWindowEnd, patrolScrub, stackTempSample, thermalClassRise, thermalClassFall,
migrationStart, migrationBlockCopy. -/
def Obligations.StackUpkeep : Prop :=
  ∀ (s : State) (stack : Fin 24) (pc : BitVec 6),
    let k := stack.val
    let m := s.stack k
    let c := pc.toNat
    (m.training = none →
      ∃ t, exec (.trainingWindowStart stack pc) s = .next t ∧ (t.stack k).training = some c ∧ SameMemory s t) ∧
    (∀ converged, m.training = some c →
      ∃ t, exec (.trainingWindowEnd stack pc converged) s = .next t ∧ (t.stack k).training = none ∧ SameMemory s t ∧
        tabGet 0 (t.stack k).trainFails c = (if converged then 0 else tabGet 0 m.trainFails c + 1) ∧
        (converged = false → tabGet 0 m.trainFails c = 2 → s.effDev 0x5500 2 = 1 → m.retired = [] →
          (t.stack k).retired = [c] ∧ t.num 0x5500 1 = (s.num 0x5500 1 + 1) % 65536 ∧ EventCounted s t 9)) ∧
    (m.training = some c → exec (.patrolScrub stack pc) s = .next s) ∧
    (let row := tabGet 0 m.scrub c
      let f := s.dram.fetch (physAddr k c row) 256
      let data : CodeWord := BitVec.ofNat 72 (2 ^ 64 - 1)
      m.training ≠ some c →
      ∃ t, exec (.patrolScrub stack pc) s = .next t ∧ tabGet 0 (t.stack k).scrub c = (row + 1) % 4194304 ∧
        ∀ w, t.dram.codeWord w = if w ∈ f.ce
          then (eccCorrect (s.dram.codeWord w) &&& data) ||| (s.dram.codeWord w &&& ~~~data) else s.dram.codeWord w) ∧
    (∀ temp : BitVec 32,
      let now := f32 temp.toNat
      let hot := atLeast now (f32 (s.num 0x5300 2))
      ∃ t, exec (.stackTempSample stack temp) s = .next t ∧ t.num 0x5310 (k + 1) = temp.toNat ∧ SameMemory s t ∧
        (m.emergency = false → hot = true → (t.stack k).emergency = true ∧ t.stackClass k = 4 ∧
          ∀ p, p < 16 → tabGet 0 (t.part p).serveClass k = 4) ∧
        (m.emergency = true → now.lt (fInt 100) = true → (t.stack k).emergency = false ∧ (t.stack k).thermal = 3 ∧
          ∀ p, p < 16 → tabGet 0 (t.part p).serveClass k =
            (match (s.part p).running with | some x => min 3 (x.classes.getD k 3) | none => 3)) ∧
        (m.emergency = false → hot = false → atLeast now s.throttleAt = true → atLeast (s.tempOf k) s.throttleAt = false →
          (t.stack k).thermal = min 3 (m.thermal + 1))) ∧
    (m.emergency = false → m.thermal < 3 → atLeast (s.tempOf k) s.throttleAt = true →
      ∃ t, exec (.thermalClassRise stack) s = .next t ∧ (t.stack k).thermal = m.thermal + 1 ∧ t.num 0x5320 (k + 1) = t.stackClass k) ∧
    (m.emergency = false → 0 < m.thermal → (s.tempOf k).lt s.coolBelow = true →
      ∃ t, exec (.thermalClassFall stack) s = .next t ∧ (t.stack k).thermal = m.thermal - 1 ∧ t.num 0x5320 (k + 1) = t.stackClass k) ∧
    (m.waiting2 = true → m.migrating = false →
      (s.enabledParts = [] ∨ s.num 0x5330 (k + 1) = 1 ∧ ∀ p ∈ s.enabledParts, (s.num 0x300F 6).testBit p = true) →
      m.older.any s.acceptedSteps.contains = false → s.underTest (80 + k) = false →
      ∃ t, exec (.migrationStart stack) s = .next t ∧ (t.stack k).migrating = true ∧ (t.stack k).waiting2 = false ∧
        (t.stack k).moved = 0 ∧ t.num 0x5520 (k + 1) = 0) ∧
    (s.underTest (80 + k) = true → exec (.migrationStart stack) s = .next s ∧ exec (.migrationBlockCopy stack) s = .next s) ∧
    (m.trains (rangeFrom (m.moved * 4096) 4096) = true → exec (.migrationBlockCopy stack) s = .next s) ∧
    (m.migrating = true → m.moved < 992 → s.underTest (80 + k) = false → m.trains (rangeFrom (m.moved * 4096) 4096) = false →
      ∃ t, exec (.migrationBlockCopy stack) s = .next t ∧ (t.stack k).moved = m.moved + 1 ∧
        (t.stack k).migrating = decide (m.moved + 1 < 992) ∧ t.num 0x5520 (k + 1) = m.moved + 1)

/-- A page read for the tier cache takes a frame and its bytes lie there, or waits while every page of the share is pinned (R328);
one of an old generation is discarded (R329); a page of a region being copied is stored up to the region's end (R330); a request
held too long is refused with 0x0309 (R326); a read without completion is sent once more through the next port in service, then
its fill has failed and the requests held for it are refused with 0x0309 (R326, R496); a generation write invalidates every
unpinned page of the window at once, and its pinned pages and fills in flight are stale from then on (R329). Where the manual
leaves it open it follows the model's choices (log entries 52 and 64). Completes (exec answers a next state): tierFillComplete,
fillTimeout, fillReadTimeout, tierGenerationWrite. -/
def Obligations.FillsComplete : Prop :=
  ∀ (s : State) (w : BitVec 6) (page : BitVec 52),
    let o := 0x5600 + w.toNat
    let refused := fun (t : State) (q : Request) => (t.client q.client).waiting =
      (s.client q.client).waiting ++ [((Record.refusal s.now 1 0x0309 q.slot).bytes q, q.flags.testBit 3)]
    (∀ f, s.fills.find? (fun f => f.window == w.toNat && f.page == page.toNat && f.data.isNone) = some f →
      (∀ data : List CodeWord, data.length = 512 →
        let words := if s.num (0x5600 + f.window) 1 = 2 then data.map fun w => eccEncode (codeData w) else data
        (f.target = none → (s.part f.part).held = [] →
          (∀ u frame, f.generation = s.num o 4 → (s.count (0x8010 + f.part) 4 4096).takeFrame f.part = some (u, frame) →
            let x : TierPage := { window := f.window, page := f.page, part := f.part, frame := frame, generation := f.generation
                                  pins := 0, lastUse := s.now }
            ∃ t, exec (.tierFillComplete w page data) s = .next t ∧ t.fills = s.fills.erase f ∧ t.tier = u.tier ++ [x] ∧
              t.dram = (({ u with tier := u.tier ++ [x] } : State).storeWords f.die (4096 * frame) words).dram) ∧
          (f.generation = s.num o 4 → (s.count (0x8010 + f.part) 4 4096).takeFrame f.part = none →
            ∃ t, exec (.tierFillComplete w page data) s = .next t ∧ t.tier = s.tier ∧ t.dram = s.dram ∧
              t.fills = s.fills.map fun g => if g = f then { f with data := some words } else g) ∧
          (f.generation ≠ s.num o 4 → ∃ t, exec (.tierFillComplete w page data) s = .next t ∧
            t.fills = s.fills.erase f ∧ t.tier = s.tier ∧ t.dram = s.dram)) ∧
        (∀ a, f.target = some a → (∀ k, k < 64 → s.copying k = false) →
          exec (.tierFillComplete w page data) s =
            .next (({ s with fills := s.fills.erase f } : State).meshWrite f.die (Ram.empty.putWords 0 words) 0 a f.len))) ∧
      (s.num o 1 = 1 →
        (f.resent = false →
          let ts := windowTargets (s.blob o 5)
          let n := max ts.length 1
          let port := s.nextPort w.toNat f.port
          exec (.fillReadTimeout w page) s = .next { s with
            fills := s.fills.map fun g => if g = f then { g with resent := true, port := port } else g
            out := s.out ++ [.farRead port (ts.getD (page.toNat % n) 0) (s.num o 2 + 4096 * (page.toNat / n)) 4096] }) ∧
        (f.resent = true → f.target = none →
          ((s.part f.part).held = [] → ∃ t, exec (.fillReadTimeout w page) s = .next t ∧ t.fills = s.fills.erase f ∧
            t.tier = s.tier) ∧
          ∀ q, (s.part f.part).held = [q] → s.reaches q (f.window * 2 ^ 52 + f.page) = true →
            ∃ t, exec (.fillReadTimeout w page) s = .next t ∧ t.fills = s.fills.erase f ∧ (t.part f.part).held = [] ∧
              refused t q))) ∧
    (∀ (p : BitVec 4) (q : Request), (s.part p.toNat).held = [q] →
      ∃ t, exec (.fillTimeout p) s = .next t ∧ (t.part p.toNat).held = [] ∧ refused t q) ∧
    (∀ (path : Path) (v : BitVec 16), Accepted s path o 4 v.toNat →
      (∀ f ∈ s.fills, f.window = w.toNat → f.target = none → f.data = none) →
      ∃ t, exec (.tierGenerationWrite path w v) s = .next t ∧ t.num o 4 = v.toNat ∧ Told s t path 0 ∧
        (∀ x ∈ t.tier, x.window = w.toNat → x.pins ≠ 0 ∧ x.generation = 65536) ∧
        (∀ x ∈ s.tier, x.window ≠ w.toNat → x ∈ t.tier) ∧
        (∀ f ∈ t.fills, f.window = w.toNat → f.target = none → f.generation = 65536) ∧
        ∀ f ∈ s.fills, f.window ≠ w.toNat → f ∈ t.fills)

/-- Staged bytes of a host window drain in order to the far target, as the ring holds them (R331); the acknowledgement advances
`drained` (R331); with every earlier byte acknowledged the seal block follows, its digests filled in, and the part is sealed, its
directory's digest taken over the section_count entries (R417, R421). Where the manual leaves it open it follows the model's
choices (log entry 67). Completes (exec answers a next state): exportDrain, exportDrainAck, negativeSeal. -/
def Obligations.ExportsDrain : Prop :=
  ∀ (s : State) (w : BitVec 6) (bytes : Nat),
    let o := 0x5700 + w.toNat
    let e := s.exportW w.toNat
    (∀ r, s.num o 1 = 2 → e.staged = [r] → 0 < r.len → r.len ≤ bytes → r.offset % 4096 + r.len ≤ 4096 →
      let d := ((s.readRing w.toNat r.offset r.ringPos r.len).2.fetch (r.ringPos % 8) r.len).bytes
      ∃ t, exec (.exportDrain w bytes) s = .next t ∧ (t.exportW w.toNat).staged = [] ∧
        (t.exportW w.toNat).sent = e.sent + r.len ∧ d.length = r.len ∧ .hostWrite (s.num o 2 + r.offset) d ∈ t.out) ∧
    (let n := min bytes (e.sent - e.acked)
      ∃ t, exec (.exportDrainAck w bytes) s = .next t ∧ (t.exportW w.toNat).acked = e.acked + n ∧ t.num o 6 = e.acked + n ∧
        (t.exportW w.toNat).staged = e.staged ∧ t.dram = s.dram) ∧
    (∀ blk, e.sealBlock = some blk → e.sealAt ≤ e.acked → s.num o 8 = 1 →
      ∃ t, exec (.negativeSeal w) s = .next t ∧ (t.exportW w.toNat).sealBlock = none ∧ t.num o 8 = 2 ∧
        (s.num o 1 = 2 → blk.length = 4096 →
          t.out = s.out ++ [.hostWrite (s.num o 2) (e.sealed blk)] ∧
          slice (e.sealed blk) 0x30 32 = sha256 (e.negDir.take (32 * leAt blk 6 2))))

/-! ### The host port -/

/-- A snooped line in host memory is answered and read again (R485); the bias flip of a watched pool line is asked for and its
answer read (R486); an entry whose step_seq is `next_seq` is taken and the next one watched, any other leaves the client as it is
(R427), its line in the watch cache (R485). Where the manual leaves it open it follows the model's choices (log entries 92 and 177). Completes (exec answers a next
state): watchSnoop, biPullTimer, bisnpResponse, stepRequestTake. -/
def Obligations.WatchedEntriesAreRead : Prop :=
  ∀ (s : State) (addr : BitVec 64) (w : Nat),
    let a := addr.toNat / 64 * 64
    (s.p0Open = true → s.watchersOf false a 64 = [w] →
      ((s.watch w).reads = 0 → ∃ t, exec (.watchSnoop addr) s = .next t ∧ (t.watch w).reads = 1 ∧
        t.out = s.out ++ [.p0 "SnpResp" a [], .p0 "RdShared" (s.entryAddr w) [], .hostRead (s.entryAddr w + 64) 64]) ∧
      ((s.watch w).reads ≠ 0 → ∃ t, exec (.watchSnoop addr) s = .next t ∧ (t.watch w).again = true ∧
        t.out = s.out ++ [.p0 "SnpResp" a []])) ∧
    (s.poolWatchers a = [w] →
      (∃ t, exec (.biPullTimer addr) s = .next t ∧ (t.watch w).snooped = true ∧ t.out = s.out ++ [.p0 "BISnpData" a []]) ∧
      (∀ data, (s.watch w).snooped = true → (s.watch w).reads = 0 →
        ∃ t, exec (.bisnpResponse addr data) s = .next t ∧ (t.watch w).reads = 1 ∧ (t.watch w).snooped = false)) ∧
    (∀ (n : BitVec 12) (entry : List Byte),
      let o := clientObj n.toNat
      (s.client n.toNat).watching = true → s.num 0x2000 2 = 2 → s.watchesPool n.toNat = false → s.p0Open = true →
      128 ≤ entry.length →
      (leAt entry 0 4 = s.num o 7 → ∃ t, exec (.stepRequestTake n entry) s = .next t ∧ t.num o 7 = (s.num o 7 + 1) % 2 ^ 32 ∧
        (t.watch n.toNat).reads = 1) ∧
      (leAt entry 0 4 ≠ s.num o 7 → (s.watch n.toNat).again = false →
        exec (.stepRequestTake n entry) s = .next (s.setWatch n.toNat { Watch.idle with line := some (entry.take 64) })))

/-- Host accesses through a committed decoder read and write device memory (R337), an uncorrectable word reads as all ones and is
reported (R338, R484); decoders commit only the range they map (R481); a stall marks the steps of every partition that has some,
the records of steps in their epilogue among them (R152, R488); the link comes up in a mode of Table 15-1 and reads every watched line
again (R476); a port takes its PID (R490). Where the manual leaves it open it follows the model's choices (log entries 107, 109
and 112). Completes (exec answers a next state): watchWriteback, hostStallBegin, hostStallEnd, hostMemRead, hostMemWrite,
hdmCommit, p0LinkUp, p0LinkDown, hdmDecommit, pidAssign. -/
def Obligations.HostPortServes : Prop :=
  ∀ (s : State) (dec : BitVec 4) (addr : BitVec 64),
    let n := dec.toNat
    let a := addr.toNat / 8 * 8
    (∀ (x : Nat × Nat × Nat) (data : List Byte), x.2.2 = data.length → s.watchersOf true x.1 x.2.2 = [] →
      (s.hostPieces n addr.toNat data.length = some [x] →
        exec (.hostMemWrite dec addr data) s = .next (s.storeBytes (xDie 0) x.1 data)) ∧
      (s.hostPieces 0 addr.toNat data.length = some [x] →
        exec (.watchWriteback addr data) s = .next (s.storeBytes (xDie 0) x.1 data))) ∧
    (∀ (x : Nat × Nat × Nat) (len : Nat), s.hostPieces n a ((addr.toNat + len + 7) / 8 * 8 - a) = some [x] →
      let f := (s.loadBytes (xDie 0) x.1 x.2.2).2
      (f.ue = [] → ∃ t, exec (.hostMemRead dec addr len) s = .next t ∧ t.dram = s.dram ∧
        t.out.getLast? = some (.p0 "MemData" addr.toNat ((f.bytes.drop (addr.toNat - a)).take len))) ∧
      (∀ v, f.ue = [v] → ∃ t, exec (.hostMemRead dec addr len) s = .next t ∧ EventCounted s t 1 ∧
        t.host.mediaEvents = s.host.mediaEvents ++ [x.1 / 8 * 8 + 8 * v])) ∧
    (∀ (d : Decoder) (size : BitVec 64) (ways : BitVec 4), s.decoder n = some d →
      (s.num 0x2000 1 = 1 → s.num 0x2000 2 ≠ 4 → s.host.flit256 = true →
        (ways = 1 → size ≠ 0 → size.toNat = s.decoderSize n → ∃ t, exec (.hdmCommit dec addr size ways) s = .next t ∧
          t.decoder n = some ⟨true, false, addr.toNat, size.toNat⟩) ∧
        (size.toNat ≠ s.decoderSize n → ∃ t, exec (.hdmCommit dec addr size ways) s = .next t ∧
          t.decoder n = some { d with committed := false, error := true } ∧ EventCounted s t 0x0C)) ∧
      ∃ t, exec (.hdmDecommit dec) s = .next t ∧ t.decoder n = some .idle) ∧
    (s.stalled = false → ∃ t, exec .hostStallBegin s = .next t ∧ t.stalled = true ∧
      ∀ p ∈ s.enabledParts, s.debugOn p = false → (∀ x ∈ (t.part p).steps, x.breach = true) ∧
        ∀ n ∈ s.clientsOf p, s.inEpilogue n = true → (t.client n).waiting = ((s.flagWaiting n).client n).waiting) ∧
    (∃ t, exec .hostStallEnd s = .next t ∧ t.stalled = false ∧ t = { s with stalled := false }) ∧
    (∀ (rate width : BitVec 8) (flit256 : Bool), s.power.phase = .running → s.power.perst = false →
      p0Mode rate.toNat width.toNat flit256 = true →
      ∃ t, exec (.p0LinkUp rate width flit256) s = .next t ∧ t.num 0x6000 1 = 1 ∧ t.num 0x6000 2 = rate.toNat ∧
        t.num 0x6000 3 = width.toNat ∧ t.host.flit256 = flit256 ∧ ∀ w ∈ s.watchers, (t.watch w).reads = 1) ∧
    (∃ t, exec .p0LinkDown s = .next t ∧ t.p0Up = false ∧ t.num 0x6000 2 = 0 ∧ t.num 0x6000 3 = 0) ∧
    (∀ (port : BitVec 3) (pid : BitVec 12), port ≠ 0 → ∃ t, exec (.pidAssign port pid) s = .next t ∧
      t.num (0x6000 + port.toNat) 4 = pid.toNat ∧ t = { s with dict := t.dict })

/-! ### Codec -/

/-- A codec job whose job_seq is `next_seq` is taken (R451, R453); an ENCODE job waits for the ring bytes it may need (R456), else
codes its picture into no more than s_len bytes (R457), every decision with search_mode 1 a function of the channel's job
sequence, its settings and its source pictures (R460), or ends with status 9 (R474); a DECODE job whose memory is clean decodes its
unit from the channel's decoder state and its references, status 4 or 3 for a picture or profile too large (R449), 1 for a damaged unit
(R468), else 0; ANALYSE runs in recovery and ends with status 8 outside it (R463); a job
at its cap conceals the blocks it has not reached, and ends with status 2 (R467). Where the manual leaves it open it follows the
model's choices (log entries 95, 97, 98, 99, 105 and 106). Completes (exec answers a next state): codecJobTake, encode, encodeRingSpace, codecDecode,
analyse, decodeCap. -/
def Obligations.CodecJobsRun : Prop :=
  ∀ (s : State) (ch : BitVec 5) (j : Job),
    let c := ch.toNat
    let o := chanObj c
    let d := chanDie c
    let room := s.modJob c fun k => { k with waiting := false, done := true }
    let pic := fun (s : State) n => s.loadPicture (s.num o 2) d n j.pic
    let read := pic room (layoutPlanes j.pic.layout)
    let phv := s.num o 0x14 == 1
    let ra := (leAt j.entry 5 1).testBit 0 || (s.channel c).forceRa
    let size := codedSize j.entry
    let src := (pixelPipe j.pic (leAt j.entry 0x64 1) (leAt j.entry 0x65 1) size.1 size.2 (s.chanDepth c) read.2.1).flatMap (·.at_)
    let plan := Config.encPlan true (s.encSettings c) (s.channel c).coder (j.encFields ra) src
    let ty := read.1.pictureType c j plan
    let head := read.1.displayHeader c j ty
    let tries := codedAttempt plan head.length j.len
    let unit := s.codecLoad (s.num o 2) d j.addr j.len
    let dec := unit.1.unitHeaders c unit.2.bytes
    let refs := unit.1.readRefs c dec
    let clean := fun error => unit.2.ue = [] ∧ (refs.2.2 = [] ∨ 3 ≤ unit.1.unitStatus c dec error)
    let seen := fun error => if 3 ≤ unit.1.unitStatus c dec error then [] else refs.2.1
    let coded := fun (x : Instr) => ∃ t k, exec x s = .next t ∧ t.job c = some k ∧ k.done = true ∧ k.waiting = false ∧
      (k.status = 0 ∨ k.status = 6) ∧ k.bytes ≤ j.len ∧ (t.channel c).forceRa = false ∧
      (phv = true → (t.channel c).coder = Config.encAfter plan tries ∧ k.bytes = (codedBytes plan head j.len tries).length ∧
        (k.status, k.picType, k.qp) = codedFields (s.encSettings c) plan ty tries)
    (∀ entry, c < 24 → s.num o 1 = 1 → s.num 0x2000 2 = 2 → (s.channel c).records = [] →
      let l := s.loadBytes (sDie d) (s.entryAddr (4096 + c)) 128
      l.2.ue = [] → leAt l.2.bytes 0 4 = s.num o 6 →
      ∃ t, exec (.codecJobTake ch entry) s = .next t ∧ t.num o 6 = (s.num o 6 + 1) % 2 ^ 32 ∧
        (t.channel c).jobs = (s.channel c).jobs ++ [jobOf l.2.bytes (if (s.channel c).jobs = [] then s.now else 0)
          (if l.1.jobOk (s.num o 2) c l.2.bytes then none else some 5)]) ∧
    (s.job c = some j → j.op = 1 → s.mayEncode c = true →
      (j.done = false → s.ringFree (s.num o 0x15) < j.len → ∀ error, ∃ t k, exec (.encode ch error) s = .next t ∧
        t.job c = some k ∧ k.waiting = true ∧ k.done = false ∧ t.exports = s.exports) ∧
      (j.len ≤ s.ringFree (s.num o 0x15) →
        (j.done = false → ∃ t k, exec (.encode ch true) s = .next t ∧ t.job c = some k ∧ k.done = true ∧ k.status = 9 ∧
          EventCounted s t 0x0E ∧ t.exports = s.exports) ∧
        (read.2.2 = [] → (∀ refs, refs <:+ (s.channel c).recons → (read.1.searchRefs c phv refs).2.2 = []) →
          (j.done = false → coded (.encode ch false)) ∧ (j.waiting = true → coded (.encodeRingSpace ch))))) ∧
    (s.job c = some j → 8 ≤ c → j.op = 2 → j.done = false →
      (∀ error, clean error → ∃ t k, exec (.codecDecode ch error) s = .next t ∧ t.job c = some k ∧ k.done = true ∧
        k.status = unit.1.unitStatus c dec error ∧ (t.channel c).coder = Config.decPicture dec (seen error) ∧
        k.picture = some ((t.channel c).coder, k.status == 1, decide (3 ≤ k.status))) ∧
      (∃ t k, exec (.decodeCap ch) s = .next t ∧ t.job c = some k ∧ k.done = true ∧ k.picture = none ∧
        k.concealed ≤ j.pic.blocks (blockSide (s.num o 0x0C) (t.channel c).coder) ∧
        (clean false → s.num 0x7000 4 ≠ 0 → k.status = 2) ∧
        (t.channel c).refs.getLast? = some ⟨j.seq, leAt j.entry 8 8, slice j.entry 0x10 48⟩)) ∧
    (s.job c = some j → c < 8 → j.op = 3 → j.done = false → s.pipeNextOf d = 0 →
      (s.pipeMode d = 2 → (pic (s.modJob c fun k => { k with done := true }) 1).2.2 = [] →
        ∃ t k, exec (.analyse ch) s = .next t ∧ t.job c = some k ∧ k.done = true ∧ k.status = j.status ∧
          (t.channel c).prev = some (j.pic.width,
            ((pic (s.modJob c fun k => { k with done := true }) 1).2.1.headD []).flatten)) ∧
      (s.pipeMode d = 0 → ∃ t k, exec (.analyse ch) s = .next t ∧ t.job c = some k ∧ k.done = true ∧ k.status = 8 ∧
        t.dram = s.dram))

/-- A decoded picture is stored, its lost blocks concealed, and becomes a reference (R464, R468), and the
finished job leaves its channel with its record, the releases before it, and the next job starts (R448, R466, R472); the
oldest record is written to its ring with its MSI-X message (R472); calibration ends in scale mode or the mode asked for
meanwhile, a failed one with its event (R462); recovery is entered and left when no job is in the pipe and no calibration runs
(R462); a channel is enabled when its check passes, or the failing condition is recorded and told (R450, R525), and disabled on
demand. Where the manual leaves it open it follows the model's choices (log entries 28, 101, 102 and 104). Completes (exec answers
a next state): codecJobEnd, codecRecord, calibrationEnd, pipeRecover, pipeResume, chanEnable, chanDisable. -/
def Obligations.ChannelsAndPipes : Prop :=
  ∀ (s : State) (path : Path) (ch : BitVec 5) (sdie : BitVec 2),
    let c := ch.toNat
    let o := chanObj c
    let d := sdie.toNat
    let free := s.inPipe (2 * d) = false ∧ s.inPipe (2 * d + 1) = false
    let f := s.finished c
    (∀ j, s.job c = some j → (j.picture = none → f = s) ∧
      ∀ e damaged whole, j.picture = some (e, damaged, whole) → ∃ k, f.job c = some k ∧ k.picture = none ∧
        (f.channel c).refs.getLast? = some ⟨j.seq, leAt j.entry 8 8, slice j.entry 0x10 48⟩ ∧
        (damaged = false → whole = false → k.concealed = 0) ∧
        (whole = true → k.concealed = j.pic.blocks (blockSide (s.num o 0x0C) e))) ∧
    ((s.job c).any Job.done = true → ∀ j rest, (f.channel c).jobs = j :: rest →
      ∃ t, exec (.codecJobEnd ch) s = .next t ∧
        (t.channel c).jobs = (match rest with | [] => [] | k :: u => { k with started := s.now } :: u) ∧
        (t.channel c).records = (f.channel c).records ++ j.releases.map (fun r => (releaseRecord r, false)) ++
          [(j.record s.now, (leAt j.entry 5 1).testBit 2)]) ∧
    (∀ r msi rest, (s.channel c).records = (r, msi) :: rest → s.p0Up = true → s.recordRoom c = true → s.num 0x2000 1 = 1 →
      ∃ t, exec (.codecRecord ch) s = .next t ∧ (t.channel c).records = rest ∧
        (t.channel c).written = ((s.channel c).written + 1) % 2 ^ 32 ∧
        t.out = s.out ++ .hostWrite (s.num o 7 + (s.channel c).written % max (s.num o 8) 1 * 64) r ::
          (if msi then [.msix (s.num o 0x0A)] else [])) ∧
    (∀ ok, s.num 0x2000 1 = 1 → s.num (0x7010 + d) 4 = 0 →
      ∃ t, exec (.calibrationEnd sdie ok) s = .next t ∧ t.num (0x7010 + d) 4 = (if ok then 1 else 2) ∧
        (ok = false → EventCounted s t 0x0E) ∧ (s.pipeMode d = 1 → t.pipeMode d = s.pipeNextOf d - 1)) ∧
    (Accepted s path (0x7010 + d) 2 1 → s.pipeMode d ≠ 3 →
      ∃ t, exec (.pipeRecover path sdie) s = .next t ∧ Told s t path 0 ∧
        (free → s.pipeMode d ≠ 1 → t.pipeMode d = 2) ∧
        (¬ free ∨ s.pipeMode d = 1 → t.pipeMode d = s.pipeMode d ∧ t.pipeNextOf d = 3)) ∧
    (Accepted s path (0x7010 + d) 3 1 → s.pipeMode d = 2 → free →
      ∃ t, exec (.pipeResume path sdie) s = .next t ∧ Told s t path 0 ∧ t.pipeMode d = 0) ∧
    (c < 24 → Accepted s path o 1 1 → s.num o 1 ≠ 1 →
      (s.chanCheck c = none → ∃ t, exec (.chanEnable path ch) s = .next t ∧ t.num o 1 = 1 ∧ t.num o 6 = s.num o 5 ∧
        (t.watch (4096 + c)).reads = 1 ∧ Told s t path 0) ∧
      (∀ code b sub, s.chanCheck c = some (code, b, sub) → ∃ t, exec (.chanEnable path ch) s = .next t ∧ t.num o 1 = s.num o 1 ∧
        t.num 0x2000 3 = code ∧ t.num 0x2000 4 = objKey b sub ∧ EventCounted s t 0x15 ∧
        t.out.getLast? = some (.response path.num code []))) ∧
    (c < 24 → Accepted s path o 1 0 →
      ∃ t, exec (.chanDisable path ch) s = .next t ∧ t.num o 1 = 0 ∧ t.watch (4096 + c) = .idle ∧ Told s t path 0)

/-! ### The dictionary -/

/-- A read of an object answers its encoding and changes nothing, or its reason code (R505, R514, R515); the window of P0 leaves
its outcome in its registers (R480, Table 15-4); a route table is read by entries (R490, R505); `loupe_data` of a core reads its
operand buffer as it is stored (R610), or tells why not (R612); a command with a nonzero reserved field is answered "invalid input"
(R506); a read of `wake_cause` clears it (R563). While no conductor is in
office an access is held, unanswered, with those before it (R515), and the window of P0, busy with one, drops what is written to it
(R480). Where the manual leaves it open it follows the model's choices
(log entries 126, 127 and 128). Completes (exec answers a next state): windowRead, dictionaryRead, routeRead, loupeRead,
wakeCauseRead. -/
def Obligations.DictionaryReads : Prop :=
  ∀ (s : State) (path : Path),
    (∀ (obj : BitVec 16) (sub : BitVec 8),
      (s.manages = false → exec (.dictionaryRead path obj ⟨sub, 0⟩ ⟨0, 0⟩) s = .next s) ∧
      (s.manages = true → s.conductor.inOffice = false → path ≠ .mmio ∨ s.xwBusy = false → exec (.dictionaryRead path obj ⟨sub, 0⟩ ⟨0, 0⟩) s =
        .next { s with heldOps := s.heldOps ++ [.read path obj.toNat sub.toNat 0] }) ∧
      (∀ b : BitVec 8, s.serves = true → b ≠ 0 →
        exec (.dictionaryRead path obj ⟨sub, b⟩ ⟨0, 0⟩) s = .next (s.emit (.invalidInput path.num 0x0A04))) ∧
      (s.serves = true → s.readCode obj.toNat sub.toNat ≠ 0 → ∃ t, exec (.dictionaryRead path obj ⟨sub, 0⟩ ⟨0, 0⟩) s = .next t ∧
        Told s t path (s.readCode obj.toNat sub.toNat) ∧ t.dict = s.dict ∧ t.blobs = s.blobs) ∧
      (s.serves = true → s.readCode obj.toNat sub.toNat = 0 → isBlob obj.toNat sub.toNat = false → ¬ (obj = 0xB300 ∧ sub = 0xA) →
        ∃ t, exec (.dictionaryRead path obj ⟨sub, 0⟩ ⟨0, 0⟩) s = .next t ∧
          t.out = s.out ++ [.response path.num 0 (s.encoding path obj.toNat sub.toNat)] ∧ t = { s with host := t.host, out := t.out })) ∧
    (s.xwBusy = true → ∀ (ctrl : BitVec 64) data, exec (.windowRead ctrl) s = .next s ∧ exec (.windowWrite ctrl data) s = .next s) ∧
    (∀ ctrl : BitVec 64,
      let o := bits ctrl.toNat 63 48
      let sub := bits ctrl.toNat 47 40
      s.p0Up = true → s.xwBusy = false → s.serves = true → ctrl.toNat.testBit 0 = true → bits ctrl.toNat 39 32 = 1 → bits ctrl.toNat 15 4 = 0 →
      s.readCode o sub = 0 → isBlob o sub = false → ¬ (o = 0xB300 ∧ sub = 0xA) →
      ∃ t, exec (.windowRead ctrl) s = .next t ∧ t.out = s.out ++ [.response 0 0 (s.encoding .mmio o sub)] ∧
        t.host.xwError = false ∧ t.host.xwReason = 0 ∧ t.host.xwReturned = (s.encoding .mmio o sub).length ∧
        (s.encoding .mmio o sub) <+: t.host.xwData) ∧
    (∀ (port : BitVec 8) (first count : BitVec 32), path ≠ .mmio → s.serves = true →
      routeOk port.toNat first.toNat count.toNat = true → s.readCode (0x61FF + port.toNat) 1 = 0 →
      ∃ t, exec (.routeRead path ⟨port, 0⟩ first count) s = .next t ∧ t = { s with out := s.out ++ [.response path.num 0
        (leBytes 2 count.toNat ++ slice (s.readBlob path (0x61FF + port.toNat) 1) (2 * first.toNat) (2 * count.toNat))] }) ∧
    (s.serves = true → s.readCode 0x8E00 3 = 0 →
      let g := s.loupeTarget
      let n := s.num 0x8E00 2
      (s.loupeCode ≠ 0 → ∃ t, exec (.loupeRead path 0) s = .next t ∧ Told s t path s.loupeCode ∧ t.dict = s.dict) ∧
      (s.loupeCode = 0 → g.space = 1 → g.isCore = true → n % 16 = 0 → g.offset + n ≤ 0x400000 →
        (∀ w, (s.core g.pc).opnd.mask w = 0) →
        ∃ t, exec (.loupeRead path 0) s = .next t ∧ t.num 0x8E00 4 = 0 ∧ SameMemory s t ∧
          t.out = s.out ++ [.response path.num 0 ((leBytes 4 n ++ (s.core g.pc).opnd.readRaw g.offset n).take 4096)])) ∧
    (s.serves = true → s.readCode 0xB300 0xA = 0 →
      ∃ t, exec (.wakeCauseRead path) s = .next t ∧ t.num 0xB300 0xA = 0 ∧
        t.out = s.out ++ [.response path.num 0 (leBytes 1 (s.num 0xB300 0xA))])

/-- A write of a plain numeric object in range is stored and answered with code 0 by every path that carries it, and a refused one
changes no object and is answered with its reason code (R509, R514, R515), while no conductor is in office it is held (R515); a
BLOB value written whole is stored (R516); DESCRIBE_TARGET is kept for its own path (Table 16-4); route entries are written in
place (R490, R506). Where the manual leaves it open it follows the model's choices (log entries 121, 126 and 127). Completes (exec
answers a next state): windowWrite, dictionaryWrite, routeWrite, registerWrite, describeTarget. -/
def Obligations.DictionaryWrites : Prop :=
  ∀ (s : State) (path : Path) (obj : BitVec 16) (sub : BitVec 8) (r : ObjRow),
    let o := obj.toNat
    let k := sub.toNat
    (objRow o k = some r → isBlob o k = false → ∀ data : List Byte, data.length = objBytes o k r.ty →
      let v := leNat data
      let stored := fun (x : Instr) (path : Path) => ∃ t, exec x s = .next t ∧ t.num o k = v ∧ Told s t path 0 ∧ t.blobs = s.blobs ∧
        t = { s with dict := t.dict, host := t.host, out := t.out }
      let refused := fun (x : Instr) => ∃ t, exec x s = .next t ∧ t.dict = s.dict ∧ Told s t path (s.writeCode path o k v)
      ((r.acc = .rw ∨ r.acc = .rwd) → s.writeEnable o k v = none → o ≠ 0x1002 → o ≠ 0x6400 → o ≠ 0xA100 → o ≠ 0xB0F0 →
        ¬ (0x5600 ≤ o ∧ o ≤ 0x563F ∧ k = 4) →
        (Accepted s path o k v → stored (.dictionaryWrite path obj ⟨sub, 0⟩ 0 data) path ∧ stored (.registerWrite path obj sub data) path) ∧
        (∀ ctrl : BitVec 64, Accepted s .mmio o k v → s.p0Up = true → s.xwBusy = false → bits ctrl.toNat 63 48 = o → bits ctrl.toNat 47 40 = k →
          bits ctrl.toNat 39 32 = 2 → bits ctrl.toNat 31 16 = data.length → bits ctrl.toNat 15 4 = 0 → ctrl.toNat.testBit 0 = true →
          stored (.windowWrite ctrl data) .mmio)) ∧
      (s.serves = true → s.writeCode path o k v ≠ 0 → isEnable o k = false →
        refused (.dictionaryWrite path obj ⟨sub, 0⟩ 0 data) ∧ refused (.registerWrite path obj sub data)) ∧
      (s.manages = true → s.conductor.inOffice = false → path ≠ .mmio ∨ s.xwBusy = false →
        let kept := fun (x : Instr) => exec x s = .next { s with heldOps := s.heldOps ++ [.write path o k 0 data] }
        kept (.dictionaryWrite path obj ⟨sub, 0⟩ 0 data) ∧ kept (.registerWrite path obj sub data))) ∧
    (objRow o k = some r → isBlob o k = true → ∀ b : List Byte, s.serves = true → s.accessCode path o k = 0 → blobOk o k r.ty b = true →
      o ≠ 0xA010 → allZero b = false →
      let stored := fun (x : Instr) => ∃ t, exec x s = .next t ∧ t.blob o k = b ∧ Told s t path 0 ∧ t.dict = s.dict
      (b.length ≤ 4092 → stored (.dictionaryWrite path obj ⟨sub, 0⟩ 0 (leBytes 4 b.length ++ b))) ∧ stored (.registerWrite path obj sub b)) ∧
    (∀ value : BitVec 32, Accepted s path 0x1002 1 value.toNat →
      ∃ t, exec (.describeTarget path value) s = .next t ∧ (t.path path).describe = value.toNat ∧ Told s t path 0 ∧ t.dict = s.dict) ∧
    (∀ (port : BitVec 8) (first : BitVec 32) (entries : List Byte), path ≠ .mmio → s.serves = true →
      routeOk port.toNat first.toNat (entries.length / 2) = true → entries.length % 2 = 0 →
      (∀ e ∈ chunksOf 2 512 entries, bits (leNat e) 14 12 = 0) → s.accessCode path (0x61FF + port.toNat) 1 = 0 →
      let table := patch (s.readBlob path (0x61FF + port.toNat) 1) (2 * first.toNat) entries
      blobOk (0x61FF + port.toNat) 1 .blob table = true →
      ∃ t, exec (.routeWrite path ⟨port, 0⟩ first entries) s = .next t ∧ t.readBlob path (0x61FF + port.toNat) 1 = table ∧ Told s t path 0)

/-! ### Enables -/

/-- Enabling a device that needs no fabric port, on which every check passes, enables it and its partitions; a failing check is
recorded with the object it blames and leaves status 3 (R524, R525). Disabling stops new work and waits while a decoder is
committed or work is left, then empties what was enabled (R526, R527). An envelope written is the base value at once, in force for
a partition that runs a step only at its boundary (R511, R512). Where the manual leaves it open it follows the model's choices
(log entries 113, 114, 121 and 130). Completes (exec answers a next state): deviceEnable, deviceDisable, disableComplete,
powerEnvelope. -/
def Obligations.DeviceIsEnabledAndDisabled : Prop :=
  ∀ (s : State) (path : Path),
    let u := s.enableStatus 1
    (∀ trained : BitVec 8, Accepted s path 0x2000 1 1 → s.num 0x2000 1 = 0 → s.num 0x2000 2 ≠ 1 → s.num 0x2000 2 ≠ 4 →
      s.portsWanted = 0 → (∀ k, k < 24 → (s.stack k).retired.length < 2) →
      (u.enableCheck = none → ∃ t, exec (.deviceEnable path trained) s = .next t ∧ t.num 0x2000 1 = 1 ∧ t.num 0x2000 2 = 2 ∧
        (∀ p ∈ s.wantedParts, t.num (0x2100 + p) 3 = 1) ∧ t.out.getLast? = some (.response path.num 0 [])) ∧
      (∀ code o sub, u.enableCheck = some (code, o, sub) → ∃ t, exec (.deviceEnable path trained) s = .next t ∧
        t.num 0x2000 1 = 0 ∧ t.num 0x2000 2 = 3 ∧ t.num 0x2000 3 = code ∧ t.num 0x2000 4 = objKey o sub ∧
        t.out.getLast? = some (.response path.num code []))) ∧
    (Accepted s path 0x2000 1 0 → s.num 0x2000 1 = 1 → s.num 0x2000 2 = 2 →
      (s.host.dec0.committed = false → s.host.dec1.committed = false →
        ∃ t, exec (.deviceDisable path) s = .next t ∧ t.num 0x2000 1 = 1 ∧ t.num 0x2000 2 = 4 ∧
          (∀ p ∈ s.enabledParts, t.num (0x2100 + p) 3 = 2) ∧ t.out.getLast? = some (.response path.num 0 [])) ∧
      ((s.host.dec0.committed = true ∨ s.host.dec1.committed = true) →
        ∃ t, exec (.deviceDisable path) s = .next t ∧ t.dict = s.dict ∧ Told s t path 0x0A05)) ∧
    (s.num 0x2000 2 = 4 →
      (s.drained = true → ∃ t, exec .disableComplete s = .next t ∧ t.num 0x2000 1 = 0 ∧ t.num 0x2000 2 = 0 ∧
        (∀ p, p < 16 → t.num (0x2100 + p) 3 = 0) ∧ t.coll = .idle ∧ t.tier = [] ∧ t.fills = [] ∧ t.decoder 0 = some .idle ∧
        t.decoder 1 = some .idle) ∧
      (s.drained = false → exec .disableComplete s = .next s)) ∧
    (∀ value : BitVec 8, Accepted s path 0x2010 1 value.toNat →
      ∃ t, exec (.powerEnvelope path value) s = .next t ∧ t.num 0x2010 1 = value.toNat ∧
        t.out.getLast? = some (.response path.num 0 []) ∧
        ∀ p ∈ s.enabledParts, s.num 0x2000 1 = 1 → s.running p ≠ none → t.eff p 0x2010 1 = s.eff p 0x2010 1)

/-- A slot's load takes its place behind the loads before it and begins, when it is first, with the reads of its image (R192, R489,
Table 4-25), ends ready when every check passes or refused with the code and the place of the first that fails (R188), and stops on
demand, so that the next load begins; an image is unloaded unless it is in use (Table 4-25); a client is enabled when its check
passes and watches from `first_seq` (R425), else the failing condition is recorded (R525); overlay changes that pass their checks
take effect at once while no partition is enabled, others are refused (R531, R532). Where the manual leaves it open it follows the
model's choices (log entries 47, 49, 94, 122 and 123). Completes (exec answers a next state): slotEnable, slotDisable,
imageLoadComplete, clientEnable, clientDisable, overlayApply, overlayRemove. -/
def Obligations.SlotsClientsAndOverlays : Prop :=
  ∀ (s : State) (path : Path) (slot : BitVec 6) (n : BitVec 12),
    let k := slot.toNat
    let o := slotObj k
    let c := clientObj n.toNat
    (Accepted s path o 4 1 → s.num o 4 ≠ 1 → s.num o 5 ≠ 1 →
      ∃ t, exec (.slotEnable path slot) s = .next t ∧ t.num o 4 = 1 ∧ t.num o 5 = 1 ∧ (t.slot k).held = some ⟨s.dict⟩ ∧
        t.loads = s.loads ++ [k] ∧ (s.loads ≠ [] → Told s t path 0) ∧
        (s.loads = [] → t.out = s.out ++ s.imageReads k ++ [.response path.num 0 []])) ∧
    (Accepted s path o 4 0 →
      (s.num o 5 = 1 ∨ (s.num o 4 = 1 ∧ s.slotInUse k = false) → ∃ t, exec (.slotDisable path slot) s = .next t ∧
        t.slot k = .empty ∧ t.num o 4 = 0 ∧ t.num o 5 = 0 ∧ t.loads = s.loads.erase k ∧
        (s.num o 5 ≠ 1 ∨ s.loads.head? ≠ some k ∨ s.loads = [k] → Told s t path 0) ∧
        ∀ j rest, s.num o 5 = 1 → s.loads = k :: j :: rest → j ≠ k →
          t.out = s.out ++ s.imageReads j ++ [.response path.num 0 []]) ∧
      (s.num o 5 ≠ 1 → s.num o 4 = 1 → s.slotInUse k = true →
        ∃ t, exec (.slotDisable path slot) s = .next t ∧ t.slots = s.slots ∧ t.dict = s.dict ∧ Told s t path 0x041B)) ∧
    (∀ bytes, s.num o 5 = 1 → s.loads.head? = some k → (s.slot k).image = none →
      let i := parseImage bytes
      let found := (s.setNum o 8 bytes.length).validate bytes i ((s.slot k).held.getD ⟨s.dict⟩) k
      (found = none → s.fills = [] → (∀ g ∈ i.regions, g.init ≠ 1) →
        ∃ t, exec (.imageLoadComplete slot bytes) s = .next t ∧ t.num o 5 = 2 ∧ t.num o 6 = i.id ∧ t.num o 8 = bytes.length ∧
          (t.slot k).image.isSome = true ∧ t.loads = s.loads.tail) ∧
      (∀ code offset, found = some (code, offset) → ∃ t, exec (.imageLoadComplete slot bytes) s = .next t ∧ t.num o 4 = 0 ∧
        t.num o 5 = 3 ∧ t.num o 9 = offset ∧ t.num 0x2000 3 = code ∧ t.slot k = .empty ∧ t.loads = s.loads.tail ∧ EventCounted s t 0x15)) ∧
    (Accepted s path c 1 1 → s.num c 1 ≠ 1 →
      (s.clientCheck n.toNat = none → ∃ t, exec (.clientEnable path n) s = .next t ∧ t.num c 1 = 1 ∧ t.num c 7 = s.num c 6 ∧
        (t.client n.toNat).watching = true ∧ (t.watch n.toNat).reads = 1 ∧ t.out.getLast? = some (.response path.num 0 [])) ∧
      (∀ code b sub, s.clientCheck n.toNat = some (code, b, sub) → ∃ t, exec (.clientEnable path n) s = .next t ∧
        t.num c 1 = s.num c 1 ∧ t.num 0x2000 3 = code ∧ t.num 0x2000 4 = objKey b sub ∧
        t.out.getLast? = some (.response path.num code []))) ∧
    (Accepted s path c 1 0 → ∃ t, exec (.clientDisable path n) s = .next t ∧ t.num c 1 = 0 ∧
      (t.client n.toNat).watching = false ∧ t.watch n.toNat = .idle ∧
      ∀ q ∈ (t.part (s.num c 2)).held, q.client ≠ n.toNat) ∧
    (∀ value : BitVec 32, Accepted s path 0x3010 1 value.toNat → s.num 0x2000 2 ≠ 1 → s.num 0x2000 2 ≠ 4 →
      (∀ code b sub, s.overlayCheck value.toNat = some (code, b, sub) →
        let refused := fun (x : Instr) => ∃ t, exec x s = .next t ∧ t.overlays = s.overlays ∧ t.num 0x2000 3 = code ∧
          t.num 0x2000 4 = objKey b sub ∧ t.out.getLast? = some (.response path.num code [])
        refused (.overlayApply path value) ∧ refused (.overlayRemove path value)) ∧
      (s.overlayCheck value.toNat = none → s.num 0x2000 1 = 0 → (∀ p, p < 16 → s.num (0x2100 + p) 3 = 0) →
        let taken := fun (x : Instr) => ∃ t, exec x s = .next t ∧ (∀ j ∈ setBits 16 value.toNat, t.num (0x3000 + j) 4 = 2) ∧
          (∀ j ∈ setBits 16 (value.toNat >>> 16), t.num (0x3000 + j) 4 = 0) ∧ t.out.getLast? = some (.response path.num 0 [])
        taken (.overlayApply path value) ∧ taken (.overlayRemove path value)))

/-! ### Test strips, resets, fences -/

/-- The rounds of the fixed set start one after another and the last strip to end releases the module (R539, R541, R546); a strip
leaves its cluster at zero, and its result, by its signature, in the result objects and the fail map (R543, R545); a requested
strip starts, or is refused while its cluster is in use (R547), and a passed one lifts the fences it was to lift (R624); the
engine runs only a signed program (R550); retention ends on demand (R561). Where the manual leaves it open it follows the model's
choices (log entries 139, 140 and 144). Completes (exec answers a next state): stripRequest, engineRun, stripRound, stripEnd,
retainRegions. -/
def Obligations.TestStripsRun : Prop :=
  ∀ (s : State) (path : Path),
    (∀ k, s.power.phase = .bringUp → s.power.round = some k → k < 4 → s.power.testing = [] →
      ∃ t, exec .stripRound s = .next t ∧ t.power.round = some (k + 1) ∧ t.power.testing = roundRegions k) ∧
    (∀ (region : BitVec 7) (signature : BitVec 64) (aborted : Bool),
      let r := region.toNat
      let v := if aborted then 3 else if signature = Config.expectedSignature r (s.num 0x1000 6) then 1 else 2
      let sub := if r < 64 then 2 else 3
      (s.power.testing.contains r = true → s.power.round ≠ some 4 →
        ∃ t, exec (.stripEnd region signature aborted) s = .next t ∧ t.num (0xB100 + r) 3 = v ∧ r ∉ t.power.testing ∧
          (t.num 0xB000 sub).testBit (r % 64) = decide (v ≠ 1) ∧ t.power.phase = s.power.phase ∧
          ∀ k, regionCluster r = some k → t.cluster k = .idle ∧ ∀ i, i < 9 → (t.core (9 * k + i)).opnd = .empty) ∧
      (s.power.testing = [r] → s.power.round = some 4 → ∃ t, exec (.stripEnd region signature aborted) s = .next t ∧
        t.power.phase = .running ∧ (t.num 0x1010 2 = 1 ∨ t.num 0x1010 2 = 2) ∧
        (t.num 0x1010 2 = 1 ↔ ∀ q, q < 128 → t.num (0xB100 + q) 3 = 1)) ∧
      (∀ fences, s.power.testing.contains r = false → s.power.requested = some (r, fences) →
        ∃ t, exec (.stripEnd region signature aborted) s = .next t ∧ t.num (0xB100 + r) 3 = v ∧ t.power.requested = none ∧
          t.num 0xB010 2 = 2 ∧ (∀ k i, regionCluster r = some k → fences = true → v = 1 → i < 9 → t.coreFenced (9 * k + i) = false))) ∧
    (∀ region : BitVec 16, Accepted s path 0xB010 1 region.toNat →
      let used := match regionCluster region.toNat with | some k => s.clusterUsed k | none => s.num 0x2000 1 == 1
      (used = false → s.power.requested = none → ∃ t, exec (.stripRequest path region) s = .next t ∧
        t.power.requested = some (region.toNat, false) ∧ t.num 0xB010 2 = 1 ∧ Told s t path 0) ∧
      (used = true → ∃ t, exec (.stripRequest path region) s = .next t ∧ t.power = s.power ∧ t.dict = s.dict ∧ Told s t path 0x0B03)) ∧
    (∀ region : BitVec 16, Accepted s path 0xB200 2 region.toNat →
      ∃ t, exec (.engineRun path region) s = .next t ∧ t.dict = s.dict ∧ SameMemory s t ∧
        if Config.engineSigned (s.blob 0xB200 1) then Told s t path 0 else Told s t path 0x0804 ∧ t.blobs = s.blobs) ∧
    (∀ value : BitVec 8, Accepted s path 0xB0F0 5 value.toNat →
      ∃ t, exec (.retainRegions path value) s = .next t ∧ t.num 0xB0F0 5 = 0 ∧ Told s t path 0)

/-- A warm reset keeps the stacks and what the safelight domain holds, a cold reset nothing but what is nonvolatile (R551, R552,
R553); both are refused unless the device is disabled and idle (R559); sleep turns off all but the safelight domain (R562);
supplies in range start bring-up with the straps read (R537, R564, R640); PERST# warm-resets an awake module (Table 17-5) and its
release may wake a sleeping one (R563, R564); a comparator drives FAULT (R563); the loss of a supply stops the module (R536,
R537). Where the manual leaves it open it follows the model's choices (log entries 134, 135, 136 and 146). Completes (exec answers
a next state): warmReset, coldReset, sleep, powerUp, perstAssert, perstDeassert, auxRailLoss, inputLoss, comparatorTrip. -/
def Obligations.ResetsAndSupplies : Prop :=
  ∀ (s : State) (path : Path),
    let warm := fun (t : State) (cause : Nat) => t.dram = s.dram ∧ t.cores = [] ∧ t.power.phase = .bringUp ∧ t.num 0xB0F0 4 = cause ∧
      t.num 0xB0F0 6 = s.now ∧ t.now = s.now ∧ t.num 0x1010 2 = 0 ∧ t.num 0x8F00 1 = s.num 0x8F00 1 ∧ t.num 0x5500 1 = s.num 0x5500 1
    let idle := s.num 0x2000 1 = 0 ∧ s.num 0x2000 2 = 0
    (Accepted s path 0xB0F0 1 1 →
      (idle → ∃ t, exec (.warmReset path) s = .next t ∧ warm t 4 ∧ .response path.num 0 [] ∈ t.out) ∧
      (¬ idle → ∃ t, exec (.warmReset path) s = .next t ∧ t.dict = s.dict ∧ Told s t path 0x0103)) ∧
    (Accepted s path 0xB0F0 2 1 →
      (idle → ∃ t, exec (.coldReset path) s = .next t ∧ t.dram = .empty ∧ t.cores = [] ∧ t.now = 0 ∧ t.num 0xB0F0 4 = 1 ∧
        t.num 0x5500 1 = s.num 0x5500 1 ∧ t.num 0x8F00 1 = objDefault (objKey 0x8F00 1) ∧ .response path.num 0 [] ∈ t.out) ∧
      (¬ idle → ∃ t, exec (.coldReset path) s = .next t ∧ t.dict = s.dict ∧ Told s t path 0x0103)) ∧
    (Accepted s path 0xB0F0 3 1 → idle → ∃ t, exec (.sleep path) s = .next t ∧ t.dram = .empty ∧ t.cores = [] ∧
      t.power.phase = .asleep ∧ t.power.pwrgd = false ∧ t.num 0x8F00 1 = s.num 0x8F00 1) ∧
    (∀ (supply aux : BitVec 32) (env : BitVec 2) (mid : BitVec 4), s.power.phase = .off →
      (auxIn aux.toNat = true → ∃ t, exec (.powerUp supply aux env mid) s = .next t ∧
        t.power.phase = (if supplyIn supply.toNat then .bringUp else .auxOnly) ∧ t.power.env = env.toNat ∧ t.power.mid = mid.toNat ∧
        t.num 0x8E10 1 = supply.toNat) ∧
      (auxIn aux.toNat = false → ∃ t, exec (.powerUp supply aux env mid) s = .next t ∧ t.power.phase = .off ∧ t.dict = s.dict)) ∧
    (s.power.perst = false →
      (s.awake = true → ∃ t, exec .perstAssert s = .next t ∧ warm t 3 ∧ t.power.perst = true) ∧
      (s.awake = false → ∃ t, exec .perstAssert s = .next t ∧ t.power.perst = true ∧ t = { s with power := t.power })) ∧
    (s.power.perst = true → s.power.phase = .asleep → (s.num 0xB300 9).testBit 7 = false →
      ∃ t, exec .perstDeassert s = .next t ∧ t.power.perst = false ∧
        if (s.num 0xB300 8).testBit 7 then t.power.phase = (if s.power.supplyOk then .bringUp else .auxOnly) ∧
          (t.num 0xB300 0xA).testBit 7 = true ∧ t.num 0xB0F0 4 = 8
        else t = { s with power := t.power }) ∧
    (∀ k : BitVec 3, s.power.phase ≠ .off → s.power.phase ≠ .asleep → (4 ≤ k.toNat ∨ s.num 0xB300 (k.toNat + 1) ≠ 0) →
      (s.num 0xB300 9).testBit k.toNat = true →
      ∃ t, exec (.comparatorTrip k) s = .next t ∧ t.power.fault = true ∧ (t.num 0xB300 0xA).testBit k.toNat = true ∧ SameMemory s t) ∧
    (s.power.phase ≠ .off → ∃ t, exec .auxRailLoss s = .next t ∧ t.power.phase = .off ∧ t.dram = .empty ∧ t.cores = [] ∧
      t.power.pwrgd = false ∧ t.power.fault = false) ∧
    (s.awake = true → ∃ t, exec .inputLoss s = .next t ∧ t.power.phase = .auxOnly ∧ t.dram = .empty ∧ t.cores = [] ∧
      t.power.pwrgd = false ∧ t.num 0xB0F0 4 = 2 ∧ t.num 0xB0F0 6 = s.now)

/-- A CXL reset of P0 ends every step, empties what is enabled and takes the link down, with the stacks as they are (R555); FLR
ends the steps and disables the codec channels and clients (R556); a hot reset of a fabric port drops its keys and trains it again
(R555, R477, R579). A requested fence and a lockstep mismatch fence the core and leave its memories at zero (R618, R558); a fence
is cleared by a test strip of its cluster (R624). Where the manual leaves it open it follows the model's choices (log entries 135,
137, 138 and 143). Completes (exec answers a next state): cxlHotReset, flr, fabricHotReset, fenceRequest, fenceClear,
lockstepMismatch. -/
def Obligations.PortResetsAndFences : Prop :=
  ∀ (s : State) (path : Path),
    (s.p0Resets = true →
      (∃ t, exec .cxlHotReset s = .next t ∧ t.num 0x6000 1 = 0 ∧ (∀ p, p < 16 → (t.part p).steps = []) ∧ t.coll = .idle ∧
        t.tier = [] ∧ t.fills = [] ∧ t.packets = [] ∧ t.dram = s.dram ∧ (t.num 0xB0F0 4 = 5 ∨ t.num 0xB0F0 4 = 6) ∧
        (s.num 0x2000 1 = 1 → t.num 0x2000 1 = 0)) ∧
      (∃ t, exec .flr s = .next t ∧ (∀ p, p < 16 → (t.part p).steps = []) ∧ (∀ c, c < 24 → t.num (chanObj c) 1 = 0) ∧
        t.dram = s.dram ∧ t.num 0xB0F0 4 = 7)) ∧
    (∀ port : BitVec 3,
      let n := port.toNat
      n ≠ 0 → s.num (0x6000 + n) 1 ≠ 0 → (∀ x ∈ s.coll.sent, x.port ≠ n) → ∀ trained,
      ∃ t, exec (.fabricHotReset port trained) s = .next t ∧ t.num (0x6000 + n) 1 = (if trained then 1 else 2) ∧
        (∀ st, tabGet [] t.security.ide (ideSlot n st) = []) ∧ (trained = false → EventCounted s t 0x0C)) ∧
    (∀ pc : BitVec 16, Accepted s path 0x9140 1 pc.toNat → s.coreFenced pc.toNat = false →
      ∃ t, exec (.fenceRequest path pc) s = .next t ∧ t.coreFenced pc.toNat = true ∧ (t.core pc.toNat).opnd = .empty ∧
        (t.core pc.toNat).acc = .empty ∧ t.out.getLast? = some (.response path.num 0 [])) ∧
    (∀ pc : BitVec 16, Accepted s path 0x9140 2 pc.toNat →
      let k := clusterOfPhys pc.toNat
      s.clusterUsed k = false → s.power.requested = none → ∃ t, exec (.fenceClear path pc) s = .next t ∧
        t.power.requested = some (clusterRegion k, true) ∧ t.num 0xB010 2 = 1 ∧ t.cluster k = .idle ∧ Told s t path 0) ∧
    (∀ pc : BitVec 10, pc.toNat < 576 → s.coreFenced pc.toNat = false →
      ∃ t, exec (.lockstepMismatch pc) s = .next t ∧ t.coreFenced pc.toNat = true ∧ (t.core pc.toNat).opnd = .empty ∧
        (t.core pc.toNat).acc = .empty)

/-! ### Security -/

/-- A firmware image that verifies is written over the copy that did not boot and no other (R569), any other is refused with
0x0804; committing raises the version floor and revokes keys (R571); a life-cycle transition that its conditions allow is taken
with a cold reset, a refused one changes no object (R581). Where the manual leaves it open it follows the model's choices (log
entries 131, 132, 150 and 152). Completes (exec answers a next state): commitVersion, fwImage, pldmFirmwareUpdate, lcTransition.
-/
def Obligations.FirmwareAndLifeCycle : Prop :=
  ∀ (s : State) (path : Path),
    (∀ data : List Byte,
      let f := (fwCopy data).2
      let written := fun (t : State) => t.num 0xA010 2 = s.num 0xA010 2 ||| (fwCopy data).1 ∧
        if (fwCopy data).1 = 1 then t.security.stage2 = s.security.stage2 ∧
          t.security.stage1 = setAt s.security.stage1 (1 - s.security.active1.getD 0) f
        else t.security.stage1 = s.security.stage1 ∧ t.security.stage2 = setAt s.security.stage2 (1 - s.security.active2.getD 0) f
      let ends := fun (t : State) (path : Path) => if s.imageVerifies data then written t ∧ Told s t path 0
        else t.security = s.security ∧ t.dict = s.dict ∧ Told s t path 0x0804
      s.serves = true →
      (s.accessCode path 0xA010 1 = 0 → ∃ t, exec (.fwImage path data) s = .next t ∧ ends t path) ∧
      ∃ t, exec (.pldmFirmwareUpdate data) s = .next t ∧ ends t .mctp) ∧
    (Accepted s path 0xA000 4 1 → ∃ t, exec (.commitVersion path) s = .next t ∧ Told s t path 0 ∧
      t.num 0xA000 3 = max (s.num 0xA000 3) s.security.running1.security ∧
      t.num 0xA000 1 = s.num 0xA000 1 ||| s.security.running1.revoke) ∧
    (∀ value : BitVec 8, Accepted s path 0xA100 1 value.toNat →
      (s.transitionCode value.toNat = 0 → ∃ t, exec (.lcTransition path value) s = .next t ∧ t.num 0x1010 1 = value.toNat ∧
        t.dram = .empty ∧ t.num 0xB0F0 4 = 1 ∧ .response path.num 0 [] ∈ t.out) ∧
      (s.transitionCode value.toNat ≠ 0 → ∃ t, exec (.lcTransition path value) s = .next t ∧ t.dict = s.dict ∧
        (t.blob 0xA100 3).length = 16 ∧ Told s t path (s.transitionCode value.toNat)))

/-- The SPDM responder answers on a carrier in service: version and capabilities always, the rest once the firmware has verified
(R574, R576); the chain by parts (R573), signed challenges and measurements (R574, R575), sessions at most four to a carrier,
ended when they time out with their port keys kept (R577, R579). Where the manual leaves it open it follows the model's choices
(log entries 147, 148 and 149). Completes (exec answers a next state): getVersion, getCapabilities, getCertificate, challenge,
getMeasurements, keyExchange, finish, heartbeat, sessionTimeout, ideKeyProgram. -/
def Obligations.SpdmAnswers : Prop :=
  ∀ (s : State) (carrier : BitVec 4) (session : BitVec 16),
    let c := carrier.toNat
    let id := session.toNat
    let tells := fun (x : Instr) (name : String) (d : List Byte) => ∃ t, exec x s = .next t ∧ t = { s with out := s.out ++ [.spdm c name d] }
    let signs := fun (x : Instr) (name : String) (body : List Byte) => ∃ t mine g, exec x s = .next t ∧ mine.length = 32 ∧
      g.length = 384 ∧ t.out = s.out ++ [.spdm c name (mine ++ body ++ g)] ∧ t.security = s.security
    let owner := s.lifecycle ≠ 0 ∧ s.lifecycle ≠ 4 ∧ s.security.identity.isSome = true
    let unsupported := fun (x : Instr) => ∃ t k, exec x s = .next t ∧ t.out = s.out ++ [.spdm k "ERROR UnsupportedRequest" []]
    (s.carrierUp c = true →
      (∀ versions : List (BitVec 8), (0x12 ∈ versions → tells (.getVersion carrier versions) "VERSION" [0x12]) ∧
        (0x12 ∉ versions → tells (.getVersion carrier versions) "ERROR MajorVersionMismatch" [])) ∧
      tells (.getCapabilities carrier) "CAPABILITIES" (leBytes 4 (if s.verified then capabilityFlags else 0)) ∧
      (∀ nonce, s.verified = false → tells (.challenge carrier nonce) "ERROR UnsupportedRequest" []) ∧
      (s.verified = true →
        (∀ offset length : BitVec 16, offset.toNat < (s.blob 0xA020 1).length →
          let d := ((s.blob 0xA020 1).drop offset.toNat).take length.toNat
          tells (.getCertificate carrier 0 offset length) "CERTIFICATE"
            (leBytes 2 d.length ++ leBytes 2 ((s.blob 0xA020 1).length - offset.toNat - d.length) ++ d)) ∧
        (∀ nonce, owner → signs (.challenge carrier nonce) "CHALLENGE_AUTH" (sha256 (s.blob 0xA020 1))) ∧
        tells (.getMeasurements carrier 0 []) "MEASUREMENTS" [21] ∧
        (∀ (block : BitVec 8) d nonce, block ≠ 0 → block ≠ 0xFF → s.measurement block.toNat = some d →
          let entry := leBytes 1 block.toNat ++ leBytes 1 (measurementType block.toNat) ++ leBytes 2 d.length ++ d
          (nonce = [] → tells (.getMeasurements carrier block nonce) "MEASUREMENTS" entry) ∧
          (nonce ≠ [] → owner → signs (.getMeasurements carrier block nonce) "MEASUREMENTS" entry)) ∧
        (∀ exchange, s.session id = none → owner →
          ((s.security.sessions.filter fun x => x.carrier == c).length < 4 →
            ∃ t x, exec (.keyExchange carrier session exchange) s = .next t ∧ t.security.sessions = s.security.sessions ++ [x] ∧
              x.id = id ∧ x.carrier = c ∧ x.established = false) ∧
          (4 ≤ (s.security.sessions.filter fun x => x.carrier == c).length →
            tells (.keyExchange carrier session exchange) "ERROR SessionLimitExceeded" [])))) ∧
    (s.verified = false → s.awake = true →
      unsupported (.heartbeat session) ∧ ∀ chain signature, unsupported (.finish session chain signature)) ∧
    (∀ x, s.session id = some x → x.carrier = c → s.carrierUp c = true → s.verified = true →
      (x.established = true → tells (.heartbeat session) "HEARTBEAT_ACK" []) ∧
      (∀ chain signature, x.established = false → ∃ t, exec (.finish session chain signature) s = .next t ∧ t.session id =
        if s.chainOk chain && Config.verifies chain (sha256 x.exchange) signature then some { x with established := true } else none) ∧
      (∀ (g : IdeTarget) (key : List Byte), x.established = true → c = g.port.toNat → key.length = 32 → streamOf g = true →
        ∃ t, exec (.ideKeyProgram session g key) s = .next t ∧ tabGet [] t.security.ide (ideSlot c g.stream) = key ∧
          tabGet 0 t.security.ideSession (ideSlot c g.stream) = id + 1 ∧
          t.out.getLast? = some (.spdm c "KP_ACK" []) ∧ t.security.sessions = s.security.sessions)) ∧
    (∃ t, exec (.sessionTimeout session) s = .next t ∧ t.session id = none ∧ t.security.ide = s.security.ide ∧
      (∀ k, tabGet 0 t.security.ideSession k ≠ id + 1) ∧
      (∀ y ∈ s.security.sessions, y.id ≠ id → y ∈ t.security.sessions) ∧
      t.num 0xA030 1 = (t.security.sessions.filter fun x => x.established).length)

/-! ### Time, conductor, counters -/

/-- `set_time` never steps back (R500); a PTM request leaves by the selected port and its response disciplines the time by the
offset found (R499, R500), or with TIMEREF corrects it by whole seconds; the PPS edge aligns the second (R501); without an input
the last frequency is held and a fault is raised (R503). Folding moves every local count into its counter without changing what a
counter reads (R584); a coolant sample is published with its marks (R650). A nanosecond that passes with no command waiting is
counted for every enabled partition in exactly one of its nine counters of Table 12-4 (R416). Where the manual leaves it open it
follows the model's choices (log entries 118, 119, 120 and 157). Completes (exec answers a next state): setTime, ptmRequest,
ptmResponse, timerefPps, holdoverTimeout, counterFold, coolantSample. -/
def Obligations.TimeAndCounters : Prop :=
  ∀ (s : State),
    (s.pending = [] → s.power.phase = .running → ∃ t, step s = .next t ∧ ∀ p, p < 16 → s.num (0x2100 + p) 3 ≠ 0 →
      ∃ k, 1 ≤ k ∧ k ≤ 9 ∧ t.num (0x8400 + p) k = (s.num (0x8400 + p) k + 1) % 2 ^ 64 ∧
        ∀ j, 1 ≤ j → j ≤ 9 → j ≠ k → t.num (0x8400 + p) j = s.num (0x8400 + p) j) ∧
    (∀ (path : Path) (value : BitVec 64), Accepted s path 0x6400 5 value.toNat →
      ∃ t, exec (.setTime path value) s = .next t ∧ t.now = max s.now value.toNat ∧ Told s t path 0) ∧
    (∀ n, s.ptmPort = some n →
      (s.num (0x6000 + n) 1 = 1 → ∃ t, exec .ptmRequest s = .next t ∧ t.time.asked = true ∧
        t.out = s.out ++ [.link "PTM Request" (xDie (n / 2)) n s.now]) ∧
      (∀ t1 t2 t3 t4 : BitVec 64, s.time.asked = true →
        let offset := (((t2.toNat : Int) - t1.toNat) + ((t3.toNat : Int) - t4.toNat)) / 2
        ∃ t, exec (.ptmResponse t1 t2 t3 t4) s = .next t ∧ t.time.asked = false ∧ t.now = s.now ∧
          (s.num 0x6400 1 ≠ 9 → t.num 0x6400 7 = 1 ∧ t.time.holdover = false ∧ t.time.slew = offset) ∧
          (s.num 0x6400 1 = 9 → (t.time.slew - s.time.slew) % 1000000000 = 0 ∧
            -500000000 ≤ offset - t.time.slew ∧ offset - t.time.slew ≤ 500000000))) ∧
    (s.num 0x6400 1 = 9 → ∃ t, exec .timerefPps s = .next t ∧ t.num 0x6400 7 = 1 ∧ t.now = s.now ∧
      ((s.now : Int) + t.time.slew - signed 32 (s.num 0x6400 3)) % 1000000000 = 0 ∧
      -500000000 ≤ t.time.slew - s.time.slew ∧ t.time.slew - s.time.slew ≤ 500000000) ∧
    (s.num 0x6400 1 ≠ 0 → s.time.holdover = false →
      ∃ t, exec .holdoverTimeout s = .next t ∧ t.time.holdover = true ∧ t.num 0x6400 7 = 0 ∧ EventCounted s t 0x0F) ∧
    (tabWf 0 s.localCounts = true →
      ∃ t, exec .counterFold s = .next t ∧ t.localCounts = [] ∧ (∀ o sub, t.counter o sub = s.counter o sub) ∧
        t = { s with dict := t.dict, localCounts := [] }) ∧
    (∀ inlet flow : BitVec 32, ∃ t, exec (.coolantSample inlet flow) s = .next t ∧ t.num 0x8E10 4 = inlet.toNat ∧
      t.num 0x8E10 5 = flow.toNat ∧ t.num 0x8E10 7 = (if s.coolantLimits.1.lt (f32 inlet.toNat) then 1 else 0) ∧
      t.num 0x8E10 8 = (if (f32 flow.toNat).lt s.coolantLimits.2 then 1 else 0) ∧ t = { s with dict := t.dict })

/-- A token register acknowledges only its owner's renewals, grants only a claim ahead of its own term when it is free, and is
freed by its countdown or by the claimant (R627, R629); the conductor renews, counts acknowledgements and steps down without a
majority (R628); a deputy that the ring reaches claims (R629), but an S-die lost, inert or cut off has no part in it (R36); a
claim with a majority of grants makes its S-die the conductor, ends every session and serves the accesses held meanwhile, each
once and in order (R515), one without gives its grants back (R629). Where the manual leaves it open it follows the model's
choices (log entries 162, 163 and 164). Completes (exec answers a next state): leaseRenewal, tokenRenewal, tokenClaim,
tokenExpiry, renewalAck, conductorStepDown, claimTimeout, claimGrant, grantRelease. -/
def Obligations.ConductorIsElected : Prop :=
  ∀ (s : State) (reg : Fin 3) (sdie : BitVec 2) (term : BitVec 16),
    let d := sdie.toNat
    let r := s.conductor.reg reg.val
    let only := fun (t : State) (v : TokenReg) => t.conductor.reg reg.val = v ∧
      ∀ i : Fin 3, i ≠ reg → t.conductor.reg i.val = s.conductor.reg i.val
    s.conductor.regs.length = 3 →
    (r.free = false → r.owner = d → r.term = term.toNat →
      (∃ t, exec (.tokenRenewal reg sdie term) s = .next t ∧ only t { r with left := 2000000 } ∧
        t = { s with conductor := t.conductor, out := s.out ++ [.ring "RENEWAL ACK" (sDie d) term.toNat reg.val] }) ∧
      (∃ t, exec (.grantRelease reg sdie term) s = .next t ∧ only t { r with free := true, left := 0 } ∧ t.out = s.out)) ∧
    (r.free = true → serialAhead 16 term.toNat r.term = true → s.elects d = true → ∃ t, exec (.tokenClaim reg sdie term) s = .next t ∧
      only t ⟨d, term.toNat, false, 2000000⟩ ∧ t.out = s.out ++ [.ring "GRANT" (sDie d) term.toNat reg.val]) ∧
    ((r.free = false ∨ serialAhead 16 term.toNat r.term = false ∨ s.elects d = false) → exec (.tokenClaim reg sdie term) s = .next s) ∧
    (∃ t, exec (.tokenExpiry reg) s = .next t ∧ only t { r with free := true, left := 0 } ∧ t.out = s.out) ∧
    (s.conductor.inOffice = true →
      (∃ t, exec .leaseRenewal s = .next t ∧ t.conductor.acks = [] ∧ t.out = s.out ++
        [.ring "RENEWAL" (tokenDie 0) s.term s.conductorDie, .ring "RENEWAL" (tokenDie 1) s.term s.conductorDie,
         .ring "RENEWAL" (tokenDie 2) s.term s.conductorDie, .ring "RENEWAL" 0x40 s.term s.conductorDie]) ∧
      (s.conductor.acks.contains reg.val = false → ∃ t, exec (.renewalAck reg) s = .next t ∧
        t.conductor.acks = s.conductor.acks ++ [reg.val]) ∧
      (s.conductor.acks.length < 2 → ∃ t, exec .conductorStepDown s = .next t ∧ t.conductor.inOffice = false ∧ t.serves = false) ∧
      (2 ≤ s.conductor.acks.length → exec .conductorStepDown s = .next s)) ∧
    ((s.num 0x9200 3).testBit d = true → s.elects d = true → ¬ (s.conductor.inOffice = true ∧ s.conductorDie = d) →
      let u := (s.term + 1) % 2 ^ 16
      ∃ t, exec (.claimTimeout sdie) s = .next t ∧ t.conductor.claim = some (d, u) ∧ t.out = s.out ++
        [.ring "CLAIM" (tokenDie 0) u d, .ring "CLAIM" (tokenDie 1) u d, .ring "CLAIM" (tokenDie 2) u d]) ∧
    (∀ (u : Nat) (grants : BitVec 3), s.conductor.claim = some (d, u) →
      (s.elects d = false → exec (.claimGrant sdie grants) s = .next (s.modConductor fun c => { c with claim := none })) ∧
      (s.elects d = true → 2 ≤ popCount 3 grants.toNat → ∃ t, exec (.claimGrant sdie grants) s = .next (t.forEach s.heldOps State.runAccess) ∧
        t.conductor.inOffice = true ∧ t.conductorDie = d ∧ t.term = u ∧ t.security.sessions = [] ∧ t.conductor.claim = none ∧
        t.heldOps = [] ∧ EventCounted s t 0x16) ∧
      (s.elects d = true → popCount 3 grants.toNat < 2 → ∃ t, exec (.claimGrant sdie grants) s = .next t ∧ t.conductor.claim = none ∧
        t.conductor.inOffice = s.conductor.inOffice ∧ (∀ i ∈ setBits 3 grants.toNat, .ring "GRANT RELEASE" (tokenDie i) u d ∈ t.out) ∧
        (s.split = true → t.num 0x9200 5 = s.now ∧
          ∀ x, x < 64 → westDie x = westDie (sDie d) → .ring "FENCE" x u d ∈ t.out)))

/-- A die that is fenced, or hears no renewal in time, is inert: it is marked, its edge ports are out of service and the units of
a C-die stop (R631), its clusters fenced for cause 8 (R618); the conductor declares the dies of a lost half unreachable and drives
FAULT (R632); a lost crossing is marked, a recovered one cleared (R54). Where the manual leaves it open it follows the model's
choices (log entry 165). Completes (exec answers a next state): fence, inertTimeout, segmentLost, ringCrossingLost,
ringCrossingRecovered. -/
def Obligations.HalvesPart : Prop :=
  ∀ (s : State) (die : BitVec 6),
    let d := die.toNat
    let inert := fun (x : Instr) => ∃ t, exec x s = .next t ∧ t.dieState d = 3 ∧
      (∀ n, n < portCount d → (t.link d n).state = 2) ∧ t.dram = s.dram ∧ (∀ k, (t.cluster k).buf = (s.cluster k).buf) ∧
      (∀ k, ¬ (d < 16 ∧ 36 * d ≤ k ∧ k < 36 * d + 36) → (t.core k).opnd = (s.core k).opnd ∧ (t.core k).acc = (s.core k).acc) ∧
      (∀ k, d < 16 → k < 4 → t.clusterFenced (4 * d + k) = true) ∧
      ∀ i u, d < 16 → i < 36 → u < 5 → ((t.core (36 * d + i)).sq.unit u).halt = .stopped
    (s.dieState d ≠ 3 → inert (.fence die) ∧ inert (.inertTimeout die)) ∧
    (s.dieState d = 3 → exec (.fence die) s = .next s ∧ exec (.inertTimeout die) s = .next s) ∧
    (∀ x, s.conductor.inOffice = true → s.split = true → x < 64 → westDie x ≠ westDie (sDie s.conductorDie) → s.dieState x ≠ 2 →
      ∃ t, exec .segmentLost s = .next t ∧ EventCounted s t 8 ∧ t.power.fault = true ∧ t.num 0x9200 5 = s.now ∧
        ∀ y, y < 64 → t.dieState y = if westDie y = westDie (sDie s.conductorDie) then s.dieState y else 2) ∧
    (∀ north : Bool, let i := if north then 0 else 1
      (∃ t, exec (.ringCrossingLost north) s = .next t ∧ t = { s with dict := t.dict } ∧
        ∀ j, (t.num 0x9200 4).testBit j = (decide (j = i) || (s.num 0x9200 4).testBit j)) ∧
      (∃ t, exec (.ringCrossingRecovered north) s = .next t ∧ t = { s with dict := t.dict } ∧
        ∀ j, (t.num 0x9200 4).testBit j = (decide (j ≠ i) && (s.num 0x9200 4).testBit j)))

/-! ### The machine as a whole -/

/-- A write of 1 to `warm_reset`, `cold_reset` or `sleep`, however it reaches the dictionary, is refused with 0x0103 unless
`device_enable` is 0 and `enable_status` is 0, and changes nothing (R559). Where an earlier gate refuses the write, its code is
the one told. -/
def Obligations.ResetsNeedADisabledDevice : Prop :=
  ∀ (s : State) (path : Path) (sub : BitVec 8), s.serves = true → (s.num 0x2000 1 ≠ 0 ∨ s.num 0x2000 2 ≠ 0) →
    let refused := fun (x : Instr) (path : Path) (k : Nat) => ∃ t, exec x s = .next t ∧ t = { s with host := t.host, out := t.out } ∧
      Told s t path (if s.writeCode path 0xB0F0 k 1 = 0 then 0x0103 else s.writeCode path 0xB0F0 k 1)
    refused (.warmReset path) path 1 ∧ refused (.coldReset path) path 2 ∧ refused (.sleep path) path 3 ∧
    (sub = 1 ∨ sub = 2 ∨ sub = 3 →
      refused (.dictionaryWrite path 0xB0F0 ⟨sub, 0⟩ 0 [1]) path sub.toNat ∧ refused (.registerWrite path 0xB0F0 sub [1]) path sub.toNat ∧
      ∀ ctrl : BitVec 64, s.p0Up = true → s.xwBusy = false → bits ctrl.toNat 63 48 = 0xB0F0 → bits ctrl.toNat 47 40 = sub.toNat →
        bits ctrl.toNat 39 32 = 2 → bits ctrl.toNat 31 16 = 1 → bits ctrl.toNat 15 4 = 0 → ctrl.toNat.testBit 0 = true →
        refused (.windowWrite ctrl [1]) .mmio sub.toNat)

/-- Byte o of the placed view of stack k lies in pseudo-channel g mod 64, at row S + g div 64, where g is o without its low eight
bits (R294, with S of R289 and the bases of Table 9-3); and no two granules of the address map, spread or placed, share a place,
each of which lies in the spread and placed bands of a stack (R289, R293). -/
def Obligations.AddressMapIsOneToOne : Prop :=
  ∀ s : State,
    (∀ k o, k < 24 → o < min 62 (s.num 0x5000 1) * 2 ^ 30 →
      s.logicalPlace (0x020000000000 + k * 0x001000000000 + o) =
        some ⟨k, o / 256 % 64, (62 - min 62 (s.num 0x5000 1)) * 65536 + o / 256 / 64⟩) ∧
    (∀ a p, s.logicalPlace a = some p → p.stack < 24 ∧ p.pc < 64 ∧ p.row < 4063232) ∧
    (∀ a b p, s.logicalPlace a = some p → s.logicalPlace b = some p → a / 256 = b / 256)

/-- The code corrects every single-bit error: a word with one bit inverted is found correctable and corrected to the codeword. It
detects every double-bit error, and every error of two, three or four bits confined to one aligned nibble, as uncorrectable
(R102). -/
def Obligations.TheCodeCorrectsAndDetects : Prop :=
  ∀ d : BitVec 64,
    eccCheck (eccEncode d) = .clean ∧ codeData (eccEncode d) = d ∧
    (∀ b, b < 72 → let w := eccEncode d ^^^ BitVec.ofNat 72 (2 ^ b)
      eccCheck w = .correctable b ∧ eccCorrect w = eccEncode d) ∧
    (∀ a b, a < b → b < 72 → eccCheck (eccEncode d ^^^ BitVec.ofNat 72 (2 ^ a + 2 ^ b)) = .uncorrectable) ∧
    (∀ n m, n < 18 → m < 16 → (∀ i, i < 4 → m ≠ 2 ^ i) → m ≠ 0 →
      eccCheck (eccEncode d ^^^ BitVec.ofNat 72 (m * 2 ^ (4 * n))) = .uncorrectable)

/-- Every 128-bit instruction word, tile descriptor, row-function descriptor, transaction header and link header decodes from its
encoding to itself, with every field at every value (Tables 4-1 to 4-7, 4-9, 4-10, 1-4, 1-5). -/
def Obligations.DecodingUndoesEncoding : Prop :=
  (∀ i : Engine, decodeEngine (encodeEngine i) = some i) ∧
  (∀ d : Desc, decodeDesc (encodeDesc d) = d) ∧
  (∀ d : RowDesc, decodeRowDesc (encodeRowDesc d) = d) ∧
  (∀ h : TxHeader, decodeTx (encodeTx h) = h) ∧
  (∀ h : LinkHeader, decodeLink (encodeLink h) = h)

/-- After a cold reset no command waits, the module is off and serves no access, every dictionary value is at its default, no
release has happened (R520), every word of the stacks and of the cores' memories reads zero and is clean (R657, R558), and the
stacks' memory is in its canonical form. -/
def Obligations.ResetState : Prop :=
  let s := State.reset
  s.pending = [] ∧ s.heldOps = [] ∧ s.loads = [] ∧ s.power.phase = .off ∧ s.serves = false ∧ (∀ o sub, s.num o sub = objDefault (objKey o sub)) ∧
    s.num 0x1010 2 = 0 ∧ s.num 0x2000 1 = 0 ∧ s.num 0x2000 2 = 0 ∧
    (∀ a, s.dram.read1 a = 0) ∧ (∀ w, (s.dram.checkWord w).2 = .clean) ∧
    (∀ pc sp a w, (s.localRam pc sp).read1 a = 0 ∧ ((s.localRam pc sp).checkWord w).2 = .clean) ∧
    (∀ pc k, ((s.core pc).sq.token k).count = 0) ∧ s.dram.wf = true

/-- A step runs the command at the front of the queue on the state with the rest of the queue. With none waiting a nanosecond
passes, one exactly when no correction is outstanding and none while the module is off, and nothing else changes but what counts
it: the counts, the objects of Table 12-4, a busy step's own time; the contact sheet of a hang that waited for a conductor is
captured (R596; log entries 2 and 40). -/
def Obligations.StepRunsTheFrontCommand : Prop :=
  ∀ s : State,
    let clocks := fun (q : Part) => q.mapSteps (fun _ => true) fun x => { x with busyNs := 0 }
    (∀ c rest, s.pending = c :: rest → step s = exec c { s with pending := rest }) ∧
    (s.pending = [] →
      (s.power.phase = .off → step s = .next s) ∧
      (s.power.phase ≠ .off → ∃ t, step s = .next t ∧ s.now ≤ t.now ∧ t.now ≤ s.now + 2 ∧
        (s.time.slew = 0 → t.now = s.now + 1) ∧
        ((∀ p, (s.part p).hangAt = none) →
          t = { s with now := t.now, time := t.time, localCounts := t.localCounts, dict := t.dict, parts := t.parts,
                       conductor := s.conductor.tick } ∧
          (∀ p, clocks (t.part p) = clocks (s.part p)) ∧
          ∀ o sub, sub < 256 → o < 0x8400 ∨ 0x840F < o → t.num o sub = s.num o sub) ∧
        ∀ p τ, s.power.phase = .running → p ∈ s.enabledParts → s.conductor.inOffice = true → (s.part p).hangAt = some τ →
          s.num (0x8130 + p) 8 ≠ 2 → (t.part p).hangAt = none ∧ (t.part p).lastHang = some t.now))

/-- The stacks' memory keeps its canonical form: addresses strictly rising, and no entry that holds what an unlisted one reads as.
Whatever command a step runs, a state whose memory is in that form is followed by one whose memory is. -/
def Obligations.StepKeepsMemoryCanonical : Prop :=
  ∀ s t : State, s.dram.wf = true → step s = .next t → t.dram.wf = true

end Slice0
end

