-- ==== Sys2Proof/Laws/Tab.lean ====
section
/-! SUPPORT. Laws of sparse tables and of memories: reading after writing, and the canonical form that every operation
keeps. -/

namespace Sys2Proof.Machine

variable {α : Type}

theorem tabGet_tabErase (d : α) (t : Tab α) (k j : Nat) :
    tabGet d (tabErase t k) j = if j = k then d else tabGet d t j := by
  induction t with
  | nil => simp [tabErase, tabGet]
  | cons e t ih =>
    obtain ⟨k', v⟩ := e
    by_cases h : k' = k
    · subst h
      simp only [tabErase, tabGet, if_true, ih]
      by_cases hj : j = k'
      · simp [hj]
      · rw [if_neg hj, if_neg hj, if_neg (Ne.symm hj)]
    · simp only [tabErase, tabGet, if_neg h, ih]
      by_cases hj : j = k
      · subst hj; simp [h]
      · rw [if_neg hj, if_neg hj]

theorem tabGet_tabInsert (d : α) (t : Tab α) (k j : Nat) (v : α) :
    tabGet d (tabInsert t k v) j = if j = k then v else tabGet d t j := by
  induction t with
  | nil => simp [tabInsert, tabGet, eq_comm]
  | cons e t ih =>
    obtain ⟨k', v'⟩ := e
    simp only [tabInsert]
    split
    · simp only [tabGet, eq_comm]
    · split
      · rename_i h; subst h; simp only [tabGet, eq_comm]; split <;> rfl
      · simp only [tabGet, ih]; split <;> split <;> simp_all

/-- What a table holds after a write: the value written at its key, every other key as before. -/
theorem tabGet_tabSet [DecidableEq α] (d : α) (t : Tab α) (k j : Nat) (v : α) :
    tabGet d (tabSet d t k v) j = if j = k then v else tabGet d t j := by
  unfold tabSet
  split
  · subst_vars; exact tabGet_tabErase ..
  · exact tabGet_tabInsert ..

@[simp] theorem tabGet_tabSet_same [DecidableEq α] (d : α) (t : Tab α) (k : Nat) (v : α) :
    tabGet d (tabSet d t k v) k = v := by simp [tabGet_tabSet]

theorem tabGet_tabSet_ne [DecidableEq α] (d : α) (t : Tab α) {k j : Nat} (v : α) (h : j ≠ k) :
    tabGet d (tabSet d t k v) j = tabGet d t j := by simp [tabGet_tabSet, h]

/-! ### The canonical form -/

theorem tabWf_cons [DecidableEq α] {d : α} {k : Nat} {v : α} {t : Tab α} :
    tabWf d ((k, v) :: t) = true ↔ v ≠ d ∧ (∀ e ∈ t.head?, k < e.1) ∧ tabWf d t = true := by
  cases t with
  | nil => simp [tabWf]
  | cons e t => simp [tabWf, and_assoc]

/-- The keys of a canonical table are above its first. -/
theorem tabWf_above [DecidableEq α] {d : α} {t : Tab α} : ∀ {k : Nat} {v : α}, tabWf d ((k, v) :: t) = true →
    tabAbove k t := by
  induction t with
  | nil => intro k v _ e he; cases he
  | cons e t ih =>
    obtain ⟨k', v'⟩ := e
    intro k v h
    obtain ⟨-, hk, ht⟩ := tabWf_cons.1 h
    have h1 : k < k' := by simpa using hk
    intro x hx
    rcases List.mem_cons.1 hx with rfl | hx
    · exact h1
    · exact lt_trans h1 (ih ht x hx)

theorem tabWf_of [DecidableEq α] {d : α} {k : Nat} {v : α} {t : Tab α} (hv : v ≠ d) (hk : tabAbove k t)
    (ht : tabWf d t = true) : tabWf d ((k, v) :: t) = true := by
  refine tabWf_cons.2 ⟨hv, fun e he => hk e ?_, ht⟩
  cases t <;> simp_all

theorem tabErase_subset {t : Tab α} {k : Nat} {e : Nat × α} : e ∈ tabErase t k → e ∈ t := by
  induction t with
  | nil => simp [tabErase]
  | cons x t ih =>
    obtain ⟨k', v⟩ := x
    simp only [tabErase]
    split
    · exact fun h => List.mem_cons_of_mem _ (ih h)
    · intro h
      rcases List.mem_cons.1 h with rfl | h
      · exact List.mem_cons_self ..
      · exact List.mem_cons_of_mem _ (ih h)

theorem tabWf_tabErase [DecidableEq α] {d : α} {t : Tab α} {k : Nat} : tabWf d t = true →
    tabWf d (tabErase t k) = true := by
  induction t with
  | nil => simp [tabErase]
  | cons x t ih =>
    obtain ⟨k', v⟩ := x
    intro h
    have ht := (tabWf_cons.1 h).2.2
    simp only [tabErase]
    split
    · exact ih ht
    · exact tabWf_of (tabWf_cons.1 h).1 (fun e he => tabWf_above h e (tabErase_subset he)) (ih ht)

theorem mem_tabInsert {t : Tab α} {k : Nat} {v : α} {e : Nat × α} : e ∈ tabInsert t k v → e = (k, v) ∨ e ∈ t := by
  induction t with
  | nil => simp [tabInsert]
  | cons x t ih =>
    obtain ⟨k', v'⟩ := x
    simp only [tabInsert]
    split
    · simp
    · split
      · simp only [List.mem_cons]; tauto
      · simp only [List.mem_cons]; intro h; rcases h with h | h
        · exact .inr (.inl h)
        · exact (ih h).imp id .inr

theorem tabWf_tabInsert [DecidableEq α] {d : α} {t : Tab α} {k : Nat} {v : α} (hv : v ≠ d) :
    tabWf d t = true → tabWf d (tabInsert t k v) = true := by
  induction t with
  | nil => intro; simp [tabInsert, tabWf, hv]
  | cons x t ih =>
    obtain ⟨k', v'⟩ := x
    intro h
    obtain ⟨hv', -, ht⟩ := tabWf_cons.1 h
    have ha := tabWf_above h
    simp only [tabInsert]
    split
    · rename_i hk
      refine tabWf_of hv (fun e he => ?_) h
      rcases List.mem_cons.1 he with rfl | he
      · exact hk
      · exact lt_trans hk (ha e he)
    · split
      · rename_i hk; subst hk; exact tabWf_of hv ha ht
      · rename_i h1 h2
        refine tabWf_of hv' (fun e he => ?_) (ih ht)
        rcases mem_tabInsert he with rfl | he
        · show k' < k; omega
        · exact ha e he

/-- A write keeps the canonical form of a table. -/
theorem tabWf_tabSet [DecidableEq α] {d : α} {t : Tab α} (k : Nat) (v : α) (h : tabWf d t = true) :
    tabWf d (tabSet d t k v) = true := by
  unfold tabSet
  split
  · exact tabWf_tabErase h
  · exact tabWf_tabInsert ‹_› h

theorem tabWf_filter [DecidableEq α] {d : α} {t : Tab α} (f : Nat × α → Bool) (h : tabWf d t = true) :
    tabWf d (t.filter f) = true := by
  induction t with
  | nil => simp [tabWf]
  | cons x t ih =>
    obtain ⟨k, v⟩ := x
    have ht := (tabWf_cons.1 h).2.2
    simp only [List.filter_cons]
    split
    · exact tabWf_of (tabWf_cons.1 h).1 (fun e he => tabWf_above h e (List.mem_of_mem_filter he)) (ih ht)
    · exact ih ht

/-! ### Memories -/

@[simp] theorem Ram.read1_empty (a : Nat) : Ram.empty.read1 a = 0 := rfl
@[simp] theorem Ram.mask_empty (w : Nat) : Ram.empty.mask w = 0 := rfl

/-- A byte read after a byte is written. -/
theorem Ram.read1_write1 (r : Ram) (a x : Nat) (b : Byte) :
    (r.write1 a b).read1 x = if x = a then b else r.read1 x := tabGet_tabSet ..

@[simp] theorem Ram.mask_write1 (r : Ram) (a w : Nat) (b : Byte) : (r.write1 a b).mask w = r.mask w := rfl
@[simp] theorem Ram.read1_setMask (r : Ram) (w a : Nat) (m : CodeWord) : (r.setMask w m).read1 a = r.read1 a := rfl

theorem Ram.mask_setMask (r : Ram) (w x : Nat) (m : CodeWord) :
    (r.setMask w m).mask x = if x = w then m else r.mask x := tabGet_tabSet ..

/-- A byte read after a run of bytes is written. -/
theorem Ram.read1_writeRaw (d : List Byte) : ∀ (r : Ram) (a x : Nat),
    (r.writeRaw a d).read1 x = if a ≤ x ∧ x < a + d.length then d.getD (x - a) 0 else r.read1 x := by
  induction d with
  | nil => intro r a x; rw [Ram.writeRaw, if_neg (by simp only [List.length_nil]; omega)]
  | cons b d ih =>
    intro r a x
    rw [Ram.writeRaw, ih, Ram.read1_write1, List.length_cons]
    by_cases h1 : x = a
    · subst h1; simp
    · by_cases h2 : a + 1 ≤ x ∧ x < a + 1 + d.length
      · have h3 : a ≤ x ∧ x < a + (d.length + 1) := by omega
        have h4 : x - a = (x - (a + 1)) + 1 := by omega
        simp [h2, h3, h4]
      · have h3 : ¬(a ≤ x ∧ x < a + (d.length + 1)) := by omega
        rw [if_neg h2, if_neg h1, if_neg h3]

@[simp] theorem Ram.mask_writeRaw (d : List Byte) : ∀ (r : Ram) (a w : Nat), (r.writeRaw a d).mask w = r.mask w := by
  induction d with
  | nil => intros; rfl
  | cons b d ih => intro r a w; rw [Ram.writeRaw, ih]; rfl

theorem Ram.wf_iff {r : Ram} : r.wf = true ↔ tabWf (0 : Byte) r.bytes = true ∧ tabWf (0 : CodeWord) r.errs = true := by
  simp [Ram.wf]

@[simp] theorem Ram.wf_empty : Ram.empty.wf = true := rfl

theorem Ram.wf_write1 {r : Ram} (a : Nat) (b : Byte) (h : r.wf = true) : (r.write1 a b).wf = true :=
  Ram.wf_iff.2 ⟨tabWf_tabSet a b (Ram.wf_iff.1 h).1, (Ram.wf_iff.1 h).2⟩

theorem Ram.wf_setMask {r : Ram} (w : Nat) (m : CodeWord) (h : r.wf = true) : (r.setMask w m).wf = true :=
  Ram.wf_iff.2 ⟨(Ram.wf_iff.1 h).1, tabWf_tabSet w m (Ram.wf_iff.1 h).2⟩

theorem Ram.wf_writeRaw (d : List Byte) : ∀ {r : Ram} (a : Nat), r.wf = true → (r.writeRaw a d).wf = true := by
  induction d with
  | nil => intro r a h; exact h
  | cons b d ih => intro r a h; exact ih (a + 1) (Ram.wf_write1 a b h)

theorem Ram.wf_storeCode {r : Ram} (w : Nat) (c : CodeWord) (h : r.wf = true) : (r.storeCode w c).wf = true :=
  Ram.wf_setMask _ _ (Ram.wf_writeRaw _ _ h)

theorem Ram.wf_mergeWord {r : Ram} (w : Nat) (f : Nat → Option Byte) (p : Bool) (h : r.wf = true) :
    (r.mergeWord w f p).wf = true := Ram.wf_setMask _ _ (Ram.wf_writeRaw _ _ h)

theorem Ram.wf_foldl {β : Type} (f : Ram → β → Ram) (hf : ∀ r x, r.wf = true → (f r x).wf = true) (l : List β) :
    ∀ {r : Ram}, r.wf = true → (l.foldl f r).wf = true := by
  induction l with
  | nil => intro r h; exact h
  | cons x l ih => intro r h; exact ih (hf r x h)

/-- A checked write keeps the canonical form. -/
theorem Ram.wf_write {r : Ram} (a : Nat) (d : List Byte) (h : r.wf = true) : (r.write a d).wf = true := by
  refine Ram.wf_foldl _ (fun r w h => ?_) _ h
  split
  · exact Ram.wf_setMask _ _ (Ram.wf_writeRaw _ _ h)
  · exact Ram.wf_mergeWord _ _ _ h

/-- A copy keeps the canonical form of its destination. -/
theorem Ram.wf_copy (src : Ram) {dst : Ram} (a b n : Nat) (h : dst.wf = true) : (Ram.copy src dst a b n).wf = true := by
  refine Ram.wf_foldl _ (fun r w h => ?_) _ h
  split
  · exact Ram.wf_storeCode _ _ h
  · dsimp only
    split
    · exact Ram.wf_setMask _ _ (Ram.wf_writeRaw _ _ h)
    · exact Ram.wf_mergeWord _ _ _ h

theorem Ram.wf_zero {r : Ram} (a n : Nat) (h : r.wf = true) : (r.zero a n).wf = true :=
  Ram.wf_iff.2 ⟨tabWf_filter _ (Ram.wf_iff.1 h).1, tabWf_filter _ (Ram.wf_iff.1 h).2⟩

theorem Ram.wf_restrict {r : Ram} (a n : Nat) (h : r.wf = true) : (r.restrict a n).wf = true :=
  Ram.wf_iff.2 ⟨tabWf_filter _ (Ram.wf_iff.1 h).1, tabWf_filter _ (Ram.wf_iff.1 h).2⟩

end Sys2Proof.Machine
end

