-- ==== Sys2Proof/Laws/State.lean ====
section
/-! SUPPORT. What each named update of the state leaves unchanged, one lemma per field, and what each accessor reads after it. -/

namespace Sys2Proof.Machine

variable (s : State)

/-! ### setNum -/

@[simp] theorem State.setNum_pending (o sub v : Nat) : (s.setNum o sub v).pending = s.pending := rfl
@[simp] theorem State.setNum_now (o sub v : Nat) : (s.setNum o sub v).now = s.now := rfl
@[simp] theorem State.setNum_freeCtr (o sub v : Nat) : (s.setNum o sub v).freeCtr = s.freeCtr := rfl
@[simp] theorem State.setNum_out (o sub v : Nat) : (s.setNum o sub v).out = s.out := rfl
@[simp] theorem State.setNum_blobs (o sub v : Nat) : (s.setNum o sub v).blobs = s.blobs := rfl
@[simp] theorem State.setNum_localCounts (o sub v : Nat) : (s.setNum o sub v).localCounts = s.localCounts := rfl
@[simp] theorem State.setNum_eventSeq (o sub v : Nat) : (s.setNum o sub v).eventSeq = s.eventSeq := rfl
@[simp] theorem State.setNum_eventGap (o sub v : Nat) : (s.setNum o sub v).eventGap = s.eventGap := rfl
@[simp] theorem State.setNum_cores (o sub v : Nat) : (s.setNum o sub v).cores = s.cores := rfl
@[simp] theorem State.setNum_clusters (o sub v : Nat) : (s.setNum o sub v).clusters = s.clusters := rfl
@[simp] theorem State.setNum_dram (o sub v : Nat) : (s.setNum o sub v).dram = s.dram := rfl
@[simp] theorem State.setNum_hbm (o sub v : Nat) : (s.setNum o sub v).hbm = s.hbm := rfl
@[simp] theorem State.setNum_parts (o sub v : Nat) : (s.setNum o sub v).parts = s.parts := rfl
@[simp] theorem State.setNum_clients (o sub v : Nat) : (s.setNum o sub v).clients = s.clients := rfl
@[simp] theorem State.setNum_slots (o sub v : Nat) : (s.setNum o sub v).slots = s.slots := rfl
@[simp] theorem State.setNum_loads (o sub v : Nat) : (s.setNum o sub v).loads = s.loads := rfl
@[simp] theorem State.setNum_tier (o sub v : Nat) : (s.setNum o sub v).tier = s.tier := rfl
@[simp] theorem State.setNum_fills (o sub v : Nat) : (s.setNum o sub v).fills = s.fills := rfl
@[simp] theorem State.setNum_exports (o sub v : Nat) : (s.setNum o sub v).exports = s.exports := rfl
@[simp] theorem State.setNum_coll (o sub v : Nat) : (s.setNum o sub v).coll = s.coll := rfl
@[simp] theorem State.setNum_links (o sub v : Nat) : (s.setNum o sub v).links = s.links := rfl
@[simp] theorem State.setNum_packets (o sub v : Nat) : (s.setNum o sub v).packets = s.packets := rfl
@[simp] theorem State.setNum_overlays (o sub v : Nat) : (s.setNum o sub v).overlays = s.overlays := rfl
@[simp] theorem State.setNum_stalled (o sub v : Nat) : (s.setNum o sub v).stalled = s.stalled := rfl
@[simp] theorem State.setNum_paths (o sub v : Nat) : (s.setNum o sub v).paths = s.paths := rfl
@[simp] theorem State.setNum_heldOps (o sub v : Nat) : (s.setNum o sub v).heldOps = s.heldOps := rfl
@[simp] theorem State.setNum_host (o sub v : Nat) : (s.setNum o sub v).host = s.host := rfl
@[simp] theorem State.setNum_power (o sub v : Nat) : (s.setNum o sub v).power = s.power := rfl
@[simp] theorem State.setNum_security (o sub v : Nat) : (s.setNum o sub v).security = s.security := rfl
@[simp] theorem State.setNum_time (o sub v : Nat) : (s.setNum o sub v).time = s.time := rfl
@[simp] theorem State.setNum_conductor (o sub v : Nat) : (s.setNum o sub v).conductor = s.conductor := rfl
@[simp] theorem State.setNum_channels (o sub v : Nat) : (s.setNum o sub v).channels = s.channels := rfl
@[simp] theorem State.setNum_pipeBefore (o sub v : Nat) : (s.setNum o sub v).pipeBefore = s.pipeBefore := rfl
@[simp] theorem State.setNum_pipeNext (o sub v : Nat) : (s.setNum o sub v).pipeNext = s.pipeNext := rfl
@[simp] theorem State.setNum_blob (o sub v : Nat) (o2 sub2 : Nat) : (s.setNum o sub v).blob o2 sub2 = s.blob o2 sub2 := rfl
@[simp] theorem State.setNum_core (o sub v : Nat) (j : Nat) : (s.setNum o sub v).core j = s.core j := rfl
@[simp] theorem State.setNum_cluster (o sub v : Nat) (j : Nat) : (s.setNum o sub v).cluster j = s.cluster j := rfl
@[simp] theorem State.setNum_stack (o sub v : Nat) (j : Nat) : (s.setNum o sub v).stack j = s.stack j := rfl
@[simp] theorem State.setNum_part (o sub v : Nat) (j : Nat) : (s.setNum o sub v).part j = s.part j := rfl
@[simp] theorem State.setNum_client (o sub v : Nat) (j : Nat) : (s.setNum o sub v).client j = s.client j := rfl
@[simp] theorem State.setNum_slot (o sub v : Nat) (j : Nat) : (s.setNum o sub v).slot j = s.slot j := rfl

/-! ### setBlob -/

@[simp] theorem State.setBlob_pending (o sub : Nat) (b : List Byte) : (s.setBlob o sub b).pending = s.pending := rfl
@[simp] theorem State.setBlob_now (o sub : Nat) (b : List Byte) : (s.setBlob o sub b).now = s.now := rfl
@[simp] theorem State.setBlob_freeCtr (o sub : Nat) (b : List Byte) : (s.setBlob o sub b).freeCtr = s.freeCtr := rfl
@[simp] theorem State.setBlob_out (o sub : Nat) (b : List Byte) : (s.setBlob o sub b).out = s.out := rfl
@[simp] theorem State.setBlob_dict (o sub : Nat) (b : List Byte) : (s.setBlob o sub b).dict = s.dict := rfl
@[simp] theorem State.setBlob_localCounts (o sub : Nat) (b : List Byte) : (s.setBlob o sub b).localCounts = s.localCounts := rfl
@[simp] theorem State.setBlob_eventSeq (o sub : Nat) (b : List Byte) : (s.setBlob o sub b).eventSeq = s.eventSeq := rfl
@[simp] theorem State.setBlob_eventGap (o sub : Nat) (b : List Byte) : (s.setBlob o sub b).eventGap = s.eventGap := rfl
@[simp] theorem State.setBlob_cores (o sub : Nat) (b : List Byte) : (s.setBlob o sub b).cores = s.cores := rfl
@[simp] theorem State.setBlob_clusters (o sub : Nat) (b : List Byte) : (s.setBlob o sub b).clusters = s.clusters := rfl
@[simp] theorem State.setBlob_dram (o sub : Nat) (b : List Byte) : (s.setBlob o sub b).dram = s.dram := rfl
@[simp] theorem State.setBlob_hbm (o sub : Nat) (b : List Byte) : (s.setBlob o sub b).hbm = s.hbm := rfl
@[simp] theorem State.setBlob_parts (o sub : Nat) (b : List Byte) : (s.setBlob o sub b).parts = s.parts := rfl
@[simp] theorem State.setBlob_clients (o sub : Nat) (b : List Byte) : (s.setBlob o sub b).clients = s.clients := rfl
@[simp] theorem State.setBlob_slots (o sub : Nat) (b : List Byte) : (s.setBlob o sub b).slots = s.slots := rfl
@[simp] theorem State.setBlob_loads (o sub : Nat) (b : List Byte) : (s.setBlob o sub b).loads = s.loads := rfl
@[simp] theorem State.setBlob_tier (o sub : Nat) (b : List Byte) : (s.setBlob o sub b).tier = s.tier := rfl
@[simp] theorem State.setBlob_fills (o sub : Nat) (b : List Byte) : (s.setBlob o sub b).fills = s.fills := rfl
@[simp] theorem State.setBlob_exports (o sub : Nat) (b : List Byte) : (s.setBlob o sub b).exports = s.exports := rfl
@[simp] theorem State.setBlob_coll (o sub : Nat) (b : List Byte) : (s.setBlob o sub b).coll = s.coll := rfl
@[simp] theorem State.setBlob_links (o sub : Nat) (b : List Byte) : (s.setBlob o sub b).links = s.links := rfl
@[simp] theorem State.setBlob_packets (o sub : Nat) (b : List Byte) : (s.setBlob o sub b).packets = s.packets := rfl
@[simp] theorem State.setBlob_overlays (o sub : Nat) (b : List Byte) : (s.setBlob o sub b).overlays = s.overlays := rfl
@[simp] theorem State.setBlob_stalled (o sub : Nat) (b : List Byte) : (s.setBlob o sub b).stalled = s.stalled := rfl
@[simp] theorem State.setBlob_paths (o sub : Nat) (b : List Byte) : (s.setBlob o sub b).paths = s.paths := rfl
@[simp] theorem State.setBlob_heldOps (o sub : Nat) (b : List Byte) : (s.setBlob o sub b).heldOps = s.heldOps := rfl
@[simp] theorem State.setBlob_host (o sub : Nat) (b : List Byte) : (s.setBlob o sub b).host = s.host := rfl
@[simp] theorem State.setBlob_power (o sub : Nat) (b : List Byte) : (s.setBlob o sub b).power = s.power := rfl
@[simp] theorem State.setBlob_security (o sub : Nat) (b : List Byte) : (s.setBlob o sub b).security = s.security := rfl
@[simp] theorem State.setBlob_time (o sub : Nat) (b : List Byte) : (s.setBlob o sub b).time = s.time := rfl
@[simp] theorem State.setBlob_conductor (o sub : Nat) (b : List Byte) : (s.setBlob o sub b).conductor = s.conductor := rfl
@[simp] theorem State.setBlob_channels (o sub : Nat) (b : List Byte) : (s.setBlob o sub b).channels = s.channels := rfl
@[simp] theorem State.setBlob_pipeBefore (o sub : Nat) (b : List Byte) : (s.setBlob o sub b).pipeBefore = s.pipeBefore := rfl
@[simp] theorem State.setBlob_pipeNext (o sub : Nat) (b : List Byte) : (s.setBlob o sub b).pipeNext = s.pipeNext := rfl
@[simp] theorem State.setBlob_num (o sub : Nat) (b : List Byte) (o2 sub2 : Nat) : (s.setBlob o sub b).num o2 sub2 = s.num o2 sub2 := rfl
@[simp] theorem State.setBlob_core (o sub : Nat) (b : List Byte) (j : Nat) : (s.setBlob o sub b).core j = s.core j := rfl
@[simp] theorem State.setBlob_cluster (o sub : Nat) (b : List Byte) (j : Nat) : (s.setBlob o sub b).cluster j = s.cluster j := rfl
@[simp] theorem State.setBlob_stack (o sub : Nat) (b : List Byte) (j : Nat) : (s.setBlob o sub b).stack j = s.stack j := rfl
@[simp] theorem State.setBlob_part (o sub : Nat) (b : List Byte) (j : Nat) : (s.setBlob o sub b).part j = s.part j := rfl
@[simp] theorem State.setBlob_client (o sub : Nat) (b : List Byte) (j : Nat) : (s.setBlob o sub b).client j = s.client j := rfl
@[simp] theorem State.setBlob_slot (o sub : Nat) (b : List Byte) (j : Nat) : (s.setBlob o sub b).slot j = s.slot j := rfl

/-! ### bump -/

@[simp] theorem State.bump_pending (o sub n : Nat) : (s.bump o sub n).pending = s.pending := rfl
@[simp] theorem State.bump_now (o sub n : Nat) : (s.bump o sub n).now = s.now := rfl
@[simp] theorem State.bump_freeCtr (o sub n : Nat) : (s.bump o sub n).freeCtr = s.freeCtr := rfl
@[simp] theorem State.bump_out (o sub n : Nat) : (s.bump o sub n).out = s.out := rfl
@[simp] theorem State.bump_blobs (o sub n : Nat) : (s.bump o sub n).blobs = s.blobs := rfl
@[simp] theorem State.bump_localCounts (o sub n : Nat) : (s.bump o sub n).localCounts = s.localCounts := rfl
@[simp] theorem State.bump_eventSeq (o sub n : Nat) : (s.bump o sub n).eventSeq = s.eventSeq := rfl
@[simp] theorem State.bump_eventGap (o sub n : Nat) : (s.bump o sub n).eventGap = s.eventGap := rfl
@[simp] theorem State.bump_cores (o sub n : Nat) : (s.bump o sub n).cores = s.cores := rfl
@[simp] theorem State.bump_clusters (o sub n : Nat) : (s.bump o sub n).clusters = s.clusters := rfl
@[simp] theorem State.bump_dram (o sub n : Nat) : (s.bump o sub n).dram = s.dram := rfl
@[simp] theorem State.bump_hbm (o sub n : Nat) : (s.bump o sub n).hbm = s.hbm := rfl
@[simp] theorem State.bump_parts (o sub n : Nat) : (s.bump o sub n).parts = s.parts := rfl
@[simp] theorem State.bump_clients (o sub n : Nat) : (s.bump o sub n).clients = s.clients := rfl
@[simp] theorem State.bump_slots (o sub n : Nat) : (s.bump o sub n).slots = s.slots := rfl
@[simp] theorem State.bump_loads (o sub n : Nat) : (s.bump o sub n).loads = s.loads := rfl
@[simp] theorem State.bump_tier (o sub n : Nat) : (s.bump o sub n).tier = s.tier := rfl
@[simp] theorem State.bump_fills (o sub n : Nat) : (s.bump o sub n).fills = s.fills := rfl
@[simp] theorem State.bump_exports (o sub n : Nat) : (s.bump o sub n).exports = s.exports := rfl
@[simp] theorem State.bump_coll (o sub n : Nat) : (s.bump o sub n).coll = s.coll := rfl
@[simp] theorem State.bump_links (o sub n : Nat) : (s.bump o sub n).links = s.links := rfl
@[simp] theorem State.bump_packets (o sub n : Nat) : (s.bump o sub n).packets = s.packets := rfl
@[simp] theorem State.bump_overlays (o sub n : Nat) : (s.bump o sub n).overlays = s.overlays := rfl
@[simp] theorem State.bump_stalled (o sub n : Nat) : (s.bump o sub n).stalled = s.stalled := rfl
@[simp] theorem State.bump_paths (o sub n : Nat) : (s.bump o sub n).paths = s.paths := rfl
@[simp] theorem State.bump_heldOps (o sub n : Nat) : (s.bump o sub n).heldOps = s.heldOps := rfl
@[simp] theorem State.bump_host (o sub n : Nat) : (s.bump o sub n).host = s.host := rfl
@[simp] theorem State.bump_power (o sub n : Nat) : (s.bump o sub n).power = s.power := rfl
@[simp] theorem State.bump_security (o sub n : Nat) : (s.bump o sub n).security = s.security := rfl
@[simp] theorem State.bump_time (o sub n : Nat) : (s.bump o sub n).time = s.time := rfl
@[simp] theorem State.bump_conductor (o sub n : Nat) : (s.bump o sub n).conductor = s.conductor := rfl
@[simp] theorem State.bump_channels (o sub n : Nat) : (s.bump o sub n).channels = s.channels := rfl
@[simp] theorem State.bump_pipeBefore (o sub n : Nat) : (s.bump o sub n).pipeBefore = s.pipeBefore := rfl
@[simp] theorem State.bump_pipeNext (o sub n : Nat) : (s.bump o sub n).pipeNext = s.pipeNext := rfl
@[simp] theorem State.bump_blob (o sub n : Nat) (o2 sub2 : Nat) : (s.bump o sub n).blob o2 sub2 = s.blob o2 sub2 := rfl
@[simp] theorem State.bump_core (o sub n : Nat) (j : Nat) : (s.bump o sub n).core j = s.core j := rfl
@[simp] theorem State.bump_cluster (o sub n : Nat) (j : Nat) : (s.bump o sub n).cluster j = s.cluster j := rfl
@[simp] theorem State.bump_stack (o sub n : Nat) (j : Nat) : (s.bump o sub n).stack j = s.stack j := rfl
@[simp] theorem State.bump_part (o sub n : Nat) (j : Nat) : (s.bump o sub n).part j = s.part j := rfl
@[simp] theorem State.bump_client (o sub n : Nat) (j : Nat) : (s.bump o sub n).client j = s.client j := rfl
@[simp] theorem State.bump_slot (o sub n : Nat) (j : Nat) : (s.bump o sub n).slot j = s.slot j := rfl

/-! ### emit -/

@[simp] theorem State.emit_pending (x : Output) : (s.emit x).pending = s.pending := rfl
@[simp] theorem State.emit_now (x : Output) : (s.emit x).now = s.now := rfl
@[simp] theorem State.emit_freeCtr (x : Output) : (s.emit x).freeCtr = s.freeCtr := rfl
@[simp] theorem State.emit_dict (x : Output) : (s.emit x).dict = s.dict := rfl
@[simp] theorem State.emit_blobs (x : Output) : (s.emit x).blobs = s.blobs := rfl
@[simp] theorem State.emit_localCounts (x : Output) : (s.emit x).localCounts = s.localCounts := rfl
@[simp] theorem State.emit_eventSeq (x : Output) : (s.emit x).eventSeq = s.eventSeq := rfl
@[simp] theorem State.emit_eventGap (x : Output) : (s.emit x).eventGap = s.eventGap := rfl
@[simp] theorem State.emit_cores (x : Output) : (s.emit x).cores = s.cores := rfl
@[simp] theorem State.emit_clusters (x : Output) : (s.emit x).clusters = s.clusters := rfl
@[simp] theorem State.emit_dram (x : Output) : (s.emit x).dram = s.dram := rfl
@[simp] theorem State.emit_hbm (x : Output) : (s.emit x).hbm = s.hbm := rfl
@[simp] theorem State.emit_parts (x : Output) : (s.emit x).parts = s.parts := rfl
@[simp] theorem State.emit_clients (x : Output) : (s.emit x).clients = s.clients := rfl
@[simp] theorem State.emit_slots (x : Output) : (s.emit x).slots = s.slots := rfl
@[simp] theorem State.emit_loads (x : Output) : (s.emit x).loads = s.loads := rfl
@[simp] theorem State.emit_tier (x : Output) : (s.emit x).tier = s.tier := rfl
@[simp] theorem State.emit_fills (x : Output) : (s.emit x).fills = s.fills := rfl
@[simp] theorem State.emit_exports (x : Output) : (s.emit x).exports = s.exports := rfl
@[simp] theorem State.emit_coll (x : Output) : (s.emit x).coll = s.coll := rfl
@[simp] theorem State.emit_links (x : Output) : (s.emit x).links = s.links := rfl
@[simp] theorem State.emit_packets (x : Output) : (s.emit x).packets = s.packets := rfl
@[simp] theorem State.emit_overlays (x : Output) : (s.emit x).overlays = s.overlays := rfl
@[simp] theorem State.emit_stalled (x : Output) : (s.emit x).stalled = s.stalled := rfl
@[simp] theorem State.emit_paths (x : Output) : (s.emit x).paths = s.paths := rfl
@[simp] theorem State.emit_heldOps (x : Output) : (s.emit x).heldOps = s.heldOps := rfl
@[simp] theorem State.emit_host (x : Output) : (s.emit x).host = s.host := rfl
@[simp] theorem State.emit_power (x : Output) : (s.emit x).power = s.power := rfl
@[simp] theorem State.emit_security (x : Output) : (s.emit x).security = s.security := rfl
@[simp] theorem State.emit_time (x : Output) : (s.emit x).time = s.time := rfl
@[simp] theorem State.emit_conductor (x : Output) : (s.emit x).conductor = s.conductor := rfl
@[simp] theorem State.emit_channels (x : Output) : (s.emit x).channels = s.channels := rfl
@[simp] theorem State.emit_pipeBefore (x : Output) : (s.emit x).pipeBefore = s.pipeBefore := rfl
@[simp] theorem State.emit_pipeNext (x : Output) : (s.emit x).pipeNext = s.pipeNext := rfl
@[simp] theorem State.emit_num (x : Output) (o2 sub2 : Nat) : (s.emit x).num o2 sub2 = s.num o2 sub2 := rfl
@[simp] theorem State.emit_blob (x : Output) (o2 sub2 : Nat) : (s.emit x).blob o2 sub2 = s.blob o2 sub2 := rfl
@[simp] theorem State.emit_core (x : Output) (j : Nat) : (s.emit x).core j = s.core j := rfl
@[simp] theorem State.emit_cluster (x : Output) (j : Nat) : (s.emit x).cluster j = s.cluster j := rfl
@[simp] theorem State.emit_stack (x : Output) (j : Nat) : (s.emit x).stack j = s.stack j := rfl
@[simp] theorem State.emit_part (x : Output) (j : Nat) : (s.emit x).part j = s.part j := rfl
@[simp] theorem State.emit_client (x : Output) (j : Nat) : (s.emit x).client j = s.client j := rfl
@[simp] theorem State.emit_slot (x : Output) (j : Nat) : (s.emit x).slot j = s.slot j := rfl

/-! ### emits -/

@[simp] theorem State.emits_pending (x : List Output) : (s.emits x).pending = s.pending := rfl
@[simp] theorem State.emits_now (x : List Output) : (s.emits x).now = s.now := rfl
@[simp] theorem State.emits_freeCtr (x : List Output) : (s.emits x).freeCtr = s.freeCtr := rfl
@[simp] theorem State.emits_dict (x : List Output) : (s.emits x).dict = s.dict := rfl
@[simp] theorem State.emits_blobs (x : List Output) : (s.emits x).blobs = s.blobs := rfl
@[simp] theorem State.emits_localCounts (x : List Output) : (s.emits x).localCounts = s.localCounts := rfl
@[simp] theorem State.emits_eventSeq (x : List Output) : (s.emits x).eventSeq = s.eventSeq := rfl
@[simp] theorem State.emits_eventGap (x : List Output) : (s.emits x).eventGap = s.eventGap := rfl
@[simp] theorem State.emits_cores (x : List Output) : (s.emits x).cores = s.cores := rfl
@[simp] theorem State.emits_clusters (x : List Output) : (s.emits x).clusters = s.clusters := rfl
@[simp] theorem State.emits_dram (x : List Output) : (s.emits x).dram = s.dram := rfl
@[simp] theorem State.emits_hbm (x : List Output) : (s.emits x).hbm = s.hbm := rfl
@[simp] theorem State.emits_parts (x : List Output) : (s.emits x).parts = s.parts := rfl
@[simp] theorem State.emits_clients (x : List Output) : (s.emits x).clients = s.clients := rfl
@[simp] theorem State.emits_slots (x : List Output) : (s.emits x).slots = s.slots := rfl
@[simp] theorem State.emits_loads (x : List Output) : (s.emits x).loads = s.loads := rfl
@[simp] theorem State.emits_tier (x : List Output) : (s.emits x).tier = s.tier := rfl
@[simp] theorem State.emits_fills (x : List Output) : (s.emits x).fills = s.fills := rfl
@[simp] theorem State.emits_exports (x : List Output) : (s.emits x).exports = s.exports := rfl
@[simp] theorem State.emits_coll (x : List Output) : (s.emits x).coll = s.coll := rfl
@[simp] theorem State.emits_links (x : List Output) : (s.emits x).links = s.links := rfl
@[simp] theorem State.emits_packets (x : List Output) : (s.emits x).packets = s.packets := rfl
@[simp] theorem State.emits_overlays (x : List Output) : (s.emits x).overlays = s.overlays := rfl
@[simp] theorem State.emits_stalled (x : List Output) : (s.emits x).stalled = s.stalled := rfl
@[simp] theorem State.emits_paths (x : List Output) : (s.emits x).paths = s.paths := rfl
@[simp] theorem State.emits_heldOps (x : List Output) : (s.emits x).heldOps = s.heldOps := rfl
@[simp] theorem State.emits_host (x : List Output) : (s.emits x).host = s.host := rfl
@[simp] theorem State.emits_power (x : List Output) : (s.emits x).power = s.power := rfl
@[simp] theorem State.emits_security (x : List Output) : (s.emits x).security = s.security := rfl
@[simp] theorem State.emits_time (x : List Output) : (s.emits x).time = s.time := rfl
@[simp] theorem State.emits_conductor (x : List Output) : (s.emits x).conductor = s.conductor := rfl
@[simp] theorem State.emits_channels (x : List Output) : (s.emits x).channels = s.channels := rfl
@[simp] theorem State.emits_pipeBefore (x : List Output) : (s.emits x).pipeBefore = s.pipeBefore := rfl
@[simp] theorem State.emits_pipeNext (x : List Output) : (s.emits x).pipeNext = s.pipeNext := rfl
@[simp] theorem State.emits_num (x : List Output) (o2 sub2 : Nat) : (s.emits x).num o2 sub2 = s.num o2 sub2 := rfl
@[simp] theorem State.emits_blob (x : List Output) (o2 sub2 : Nat) : (s.emits x).blob o2 sub2 = s.blob o2 sub2 := rfl
@[simp] theorem State.emits_core (x : List Output) (j : Nat) : (s.emits x).core j = s.core j := rfl
@[simp] theorem State.emits_cluster (x : List Output) (j : Nat) : (s.emits x).cluster j = s.cluster j := rfl
@[simp] theorem State.emits_stack (x : List Output) (j : Nat) : (s.emits x).stack j = s.stack j := rfl
@[simp] theorem State.emits_part (x : List Output) (j : Nat) : (s.emits x).part j = s.part j := rfl
@[simp] theorem State.emits_client (x : List Output) (j : Nat) : (s.emits x).client j = s.client j := rfl
@[simp] theorem State.emits_slot (x : List Output) (j : Nat) : (s.emits x).slot j = s.slot j := rfl

/-! ### drawn -/

@[simp] theorem State.drawn_pending : (s.drawn).pending = s.pending := rfl
@[simp] theorem State.drawn_now : (s.drawn).now = s.now := rfl
@[simp] theorem State.drawn_out : (s.drawn).out = s.out := rfl
@[simp] theorem State.drawn_dict : (s.drawn).dict = s.dict := rfl
@[simp] theorem State.drawn_blobs : (s.drawn).blobs = s.blobs := rfl
@[simp] theorem State.drawn_localCounts : (s.drawn).localCounts = s.localCounts := rfl
@[simp] theorem State.drawn_eventSeq : (s.drawn).eventSeq = s.eventSeq := rfl
@[simp] theorem State.drawn_eventGap : (s.drawn).eventGap = s.eventGap := rfl
@[simp] theorem State.drawn_cores : (s.drawn).cores = s.cores := rfl
@[simp] theorem State.drawn_clusters : (s.drawn).clusters = s.clusters := rfl
@[simp] theorem State.drawn_dram : (s.drawn).dram = s.dram := rfl
@[simp] theorem State.drawn_hbm : (s.drawn).hbm = s.hbm := rfl
@[simp] theorem State.drawn_parts : (s.drawn).parts = s.parts := rfl
@[simp] theorem State.drawn_clients : (s.drawn).clients = s.clients := rfl
@[simp] theorem State.drawn_slots : (s.drawn).slots = s.slots := rfl
@[simp] theorem State.drawn_loads : (s.drawn).loads = s.loads := rfl
@[simp] theorem State.drawn_tier : (s.drawn).tier = s.tier := rfl
@[simp] theorem State.drawn_fills : (s.drawn).fills = s.fills := rfl
@[simp] theorem State.drawn_exports : (s.drawn).exports = s.exports := rfl
@[simp] theorem State.drawn_coll : (s.drawn).coll = s.coll := rfl
@[simp] theorem State.drawn_links : (s.drawn).links = s.links := rfl
@[simp] theorem State.drawn_packets : (s.drawn).packets = s.packets := rfl
@[simp] theorem State.drawn_overlays : (s.drawn).overlays = s.overlays := rfl
@[simp] theorem State.drawn_stalled : (s.drawn).stalled = s.stalled := rfl
@[simp] theorem State.drawn_paths : (s.drawn).paths = s.paths := rfl
@[simp] theorem State.drawn_heldOps : (s.drawn).heldOps = s.heldOps := rfl
@[simp] theorem State.drawn_host : (s.drawn).host = s.host := rfl
@[simp] theorem State.drawn_power : (s.drawn).power = s.power := rfl
@[simp] theorem State.drawn_security : (s.drawn).security = s.security := rfl
@[simp] theorem State.drawn_time : (s.drawn).time = s.time := rfl
@[simp] theorem State.drawn_conductor : (s.drawn).conductor = s.conductor := rfl
@[simp] theorem State.drawn_channels : (s.drawn).channels = s.channels := rfl
@[simp] theorem State.drawn_pipeBefore : (s.drawn).pipeBefore = s.pipeBefore := rfl
@[simp] theorem State.drawn_pipeNext : (s.drawn).pipeNext = s.pipeNext := rfl
@[simp] theorem State.drawn_num (o2 sub2 : Nat) : (s.drawn).num o2 sub2 = s.num o2 sub2 := rfl
@[simp] theorem State.drawn_blob (o2 sub2 : Nat) : (s.drawn).blob o2 sub2 = s.blob o2 sub2 := rfl
@[simp] theorem State.drawn_core (j : Nat) : (s.drawn).core j = s.core j := rfl
@[simp] theorem State.drawn_cluster (j : Nat) : (s.drawn).cluster j = s.cluster j := rfl
@[simp] theorem State.drawn_stack (j : Nat) : (s.drawn).stack j = s.stack j := rfl
@[simp] theorem State.drawn_part (j : Nat) : (s.drawn).part j = s.part j := rfl
@[simp] theorem State.drawn_client (j : Nat) : (s.drawn).client j = s.client j := rfl
@[simp] theorem State.drawn_slot (j : Nat) : (s.drawn).slot j = s.slot j := rfl

/-! ### setCore -/

@[simp] theorem State.setCore_pending (k : Nat) (c : Core) : (s.setCore k c).pending = s.pending := rfl
@[simp] theorem State.setCore_now (k : Nat) (c : Core) : (s.setCore k c).now = s.now := rfl
@[simp] theorem State.setCore_freeCtr (k : Nat) (c : Core) : (s.setCore k c).freeCtr = s.freeCtr := rfl
@[simp] theorem State.setCore_out (k : Nat) (c : Core) : (s.setCore k c).out = s.out := rfl
@[simp] theorem State.setCore_dict (k : Nat) (c : Core) : (s.setCore k c).dict = s.dict := rfl
@[simp] theorem State.setCore_blobs (k : Nat) (c : Core) : (s.setCore k c).blobs = s.blobs := rfl
@[simp] theorem State.setCore_localCounts (k : Nat) (c : Core) : (s.setCore k c).localCounts = s.localCounts := rfl
@[simp] theorem State.setCore_eventSeq (k : Nat) (c : Core) : (s.setCore k c).eventSeq = s.eventSeq := rfl
@[simp] theorem State.setCore_eventGap (k : Nat) (c : Core) : (s.setCore k c).eventGap = s.eventGap := rfl
@[simp] theorem State.setCore_clusters (k : Nat) (c : Core) : (s.setCore k c).clusters = s.clusters := rfl
@[simp] theorem State.setCore_dram (k : Nat) (c : Core) : (s.setCore k c).dram = s.dram := rfl
@[simp] theorem State.setCore_hbm (k : Nat) (c : Core) : (s.setCore k c).hbm = s.hbm := rfl
@[simp] theorem State.setCore_parts (k : Nat) (c : Core) : (s.setCore k c).parts = s.parts := rfl
@[simp] theorem State.setCore_clients (k : Nat) (c : Core) : (s.setCore k c).clients = s.clients := rfl
@[simp] theorem State.setCore_slots (k : Nat) (c : Core) : (s.setCore k c).slots = s.slots := rfl
@[simp] theorem State.setCore_loads (k : Nat) (c : Core) : (s.setCore k c).loads = s.loads := rfl
@[simp] theorem State.setCore_tier (k : Nat) (c : Core) : (s.setCore k c).tier = s.tier := rfl
@[simp] theorem State.setCore_fills (k : Nat) (c : Core) : (s.setCore k c).fills = s.fills := rfl
@[simp] theorem State.setCore_exports (k : Nat) (c : Core) : (s.setCore k c).exports = s.exports := rfl
@[simp] theorem State.setCore_coll (k : Nat) (c : Core) : (s.setCore k c).coll = s.coll := rfl
@[simp] theorem State.setCore_links (k : Nat) (c : Core) : (s.setCore k c).links = s.links := rfl
@[simp] theorem State.setCore_packets (k : Nat) (c : Core) : (s.setCore k c).packets = s.packets := rfl
@[simp] theorem State.setCore_overlays (k : Nat) (c : Core) : (s.setCore k c).overlays = s.overlays := rfl
@[simp] theorem State.setCore_stalled (k : Nat) (c : Core) : (s.setCore k c).stalled = s.stalled := rfl
@[simp] theorem State.setCore_paths (k : Nat) (c : Core) : (s.setCore k c).paths = s.paths := rfl
@[simp] theorem State.setCore_heldOps (k : Nat) (c : Core) : (s.setCore k c).heldOps = s.heldOps := rfl
@[simp] theorem State.setCore_host (k : Nat) (c : Core) : (s.setCore k c).host = s.host := rfl
@[simp] theorem State.setCore_power (k : Nat) (c : Core) : (s.setCore k c).power = s.power := rfl
@[simp] theorem State.setCore_security (k : Nat) (c : Core) : (s.setCore k c).security = s.security := rfl
@[simp] theorem State.setCore_time (k : Nat) (c : Core) : (s.setCore k c).time = s.time := rfl
@[simp] theorem State.setCore_conductor (k : Nat) (c : Core) : (s.setCore k c).conductor = s.conductor := rfl
@[simp] theorem State.setCore_channels (k : Nat) (c : Core) : (s.setCore k c).channels = s.channels := rfl
@[simp] theorem State.setCore_pipeBefore (k : Nat) (c : Core) : (s.setCore k c).pipeBefore = s.pipeBefore := rfl
@[simp] theorem State.setCore_pipeNext (k : Nat) (c : Core) : (s.setCore k c).pipeNext = s.pipeNext := rfl
@[simp] theorem State.setCore_num (k : Nat) (c : Core) (o2 sub2 : Nat) : (s.setCore k c).num o2 sub2 = s.num o2 sub2 := rfl
@[simp] theorem State.setCore_blob (k : Nat) (c : Core) (o2 sub2 : Nat) : (s.setCore k c).blob o2 sub2 = s.blob o2 sub2 := rfl
@[simp] theorem State.setCore_cluster (k : Nat) (c : Core) (j : Nat) : (s.setCore k c).cluster j = s.cluster j := rfl
@[simp] theorem State.setCore_stack (k : Nat) (c : Core) (j : Nat) : (s.setCore k c).stack j = s.stack j := rfl
@[simp] theorem State.setCore_part (k : Nat) (c : Core) (j : Nat) : (s.setCore k c).part j = s.part j := rfl
@[simp] theorem State.setCore_client (k : Nat) (c : Core) (j : Nat) : (s.setCore k c).client j = s.client j := rfl
@[simp] theorem State.setCore_slot (k : Nat) (c : Core) (j : Nat) : (s.setCore k c).slot j = s.slot j := rfl

/-! ### modCore -/

@[simp] theorem State.modCore_pending (k : Nat) (f : Core → Core) : (s.modCore k f).pending = s.pending := rfl
@[simp] theorem State.modCore_now (k : Nat) (f : Core → Core) : (s.modCore k f).now = s.now := rfl
@[simp] theorem State.modCore_freeCtr (k : Nat) (f : Core → Core) : (s.modCore k f).freeCtr = s.freeCtr := rfl
@[simp] theorem State.modCore_out (k : Nat) (f : Core → Core) : (s.modCore k f).out = s.out := rfl
@[simp] theorem State.modCore_dict (k : Nat) (f : Core → Core) : (s.modCore k f).dict = s.dict := rfl
@[simp] theorem State.modCore_blobs (k : Nat) (f : Core → Core) : (s.modCore k f).blobs = s.blobs := rfl
@[simp] theorem State.modCore_localCounts (k : Nat) (f : Core → Core) : (s.modCore k f).localCounts = s.localCounts := rfl
@[simp] theorem State.modCore_eventSeq (k : Nat) (f : Core → Core) : (s.modCore k f).eventSeq = s.eventSeq := rfl
@[simp] theorem State.modCore_eventGap (k : Nat) (f : Core → Core) : (s.modCore k f).eventGap = s.eventGap := rfl
@[simp] theorem State.modCore_clusters (k : Nat) (f : Core → Core) : (s.modCore k f).clusters = s.clusters := rfl
@[simp] theorem State.modCore_dram (k : Nat) (f : Core → Core) : (s.modCore k f).dram = s.dram := rfl
@[simp] theorem State.modCore_hbm (k : Nat) (f : Core → Core) : (s.modCore k f).hbm = s.hbm := rfl
@[simp] theorem State.modCore_parts (k : Nat) (f : Core → Core) : (s.modCore k f).parts = s.parts := rfl
@[simp] theorem State.modCore_clients (k : Nat) (f : Core → Core) : (s.modCore k f).clients = s.clients := rfl
@[simp] theorem State.modCore_slots (k : Nat) (f : Core → Core) : (s.modCore k f).slots = s.slots := rfl
@[simp] theorem State.modCore_loads (k : Nat) (f : Core → Core) : (s.modCore k f).loads = s.loads := rfl
@[simp] theorem State.modCore_tier (k : Nat) (f : Core → Core) : (s.modCore k f).tier = s.tier := rfl
@[simp] theorem State.modCore_fills (k : Nat) (f : Core → Core) : (s.modCore k f).fills = s.fills := rfl
@[simp] theorem State.modCore_exports (k : Nat) (f : Core → Core) : (s.modCore k f).exports = s.exports := rfl
@[simp] theorem State.modCore_coll (k : Nat) (f : Core → Core) : (s.modCore k f).coll = s.coll := rfl
@[simp] theorem State.modCore_links (k : Nat) (f : Core → Core) : (s.modCore k f).links = s.links := rfl
@[simp] theorem State.modCore_packets (k : Nat) (f : Core → Core) : (s.modCore k f).packets = s.packets := rfl
@[simp] theorem State.modCore_overlays (k : Nat) (f : Core → Core) : (s.modCore k f).overlays = s.overlays := rfl
@[simp] theorem State.modCore_stalled (k : Nat) (f : Core → Core) : (s.modCore k f).stalled = s.stalled := rfl
@[simp] theorem State.modCore_paths (k : Nat) (f : Core → Core) : (s.modCore k f).paths = s.paths := rfl
@[simp] theorem State.modCore_heldOps (k : Nat) (f : Core → Core) : (s.modCore k f).heldOps = s.heldOps := rfl
@[simp] theorem State.modCore_host (k : Nat) (f : Core → Core) : (s.modCore k f).host = s.host := rfl
@[simp] theorem State.modCore_power (k : Nat) (f : Core → Core) : (s.modCore k f).power = s.power := rfl
@[simp] theorem State.modCore_security (k : Nat) (f : Core → Core) : (s.modCore k f).security = s.security := rfl
@[simp] theorem State.modCore_time (k : Nat) (f : Core → Core) : (s.modCore k f).time = s.time := rfl
@[simp] theorem State.modCore_conductor (k : Nat) (f : Core → Core) : (s.modCore k f).conductor = s.conductor := rfl
@[simp] theorem State.modCore_channels (k : Nat) (f : Core → Core) : (s.modCore k f).channels = s.channels := rfl
@[simp] theorem State.modCore_pipeBefore (k : Nat) (f : Core → Core) : (s.modCore k f).pipeBefore = s.pipeBefore := rfl
@[simp] theorem State.modCore_pipeNext (k : Nat) (f : Core → Core) : (s.modCore k f).pipeNext = s.pipeNext := rfl
@[simp] theorem State.modCore_num (k : Nat) (f : Core → Core) (o2 sub2 : Nat) : (s.modCore k f).num o2 sub2 = s.num o2 sub2 := rfl
@[simp] theorem State.modCore_blob (k : Nat) (f : Core → Core) (o2 sub2 : Nat) : (s.modCore k f).blob o2 sub2 = s.blob o2 sub2 := rfl
@[simp] theorem State.modCore_cluster (k : Nat) (f : Core → Core) (j : Nat) : (s.modCore k f).cluster j = s.cluster j := rfl
@[simp] theorem State.modCore_stack (k : Nat) (f : Core → Core) (j : Nat) : (s.modCore k f).stack j = s.stack j := rfl
@[simp] theorem State.modCore_part (k : Nat) (f : Core → Core) (j : Nat) : (s.modCore k f).part j = s.part j := rfl
@[simp] theorem State.modCore_client (k : Nat) (f : Core → Core) (j : Nat) : (s.modCore k f).client j = s.client j := rfl
@[simp] theorem State.modCore_slot (k : Nat) (f : Core → Core) (j : Nat) : (s.modCore k f).slot j = s.slot j := rfl

/-! ### setCluster -/

@[simp] theorem State.setCluster_pending (k : Nat) (c : Cluster) : (s.setCluster k c).pending = s.pending := rfl
@[simp] theorem State.setCluster_now (k : Nat) (c : Cluster) : (s.setCluster k c).now = s.now := rfl
@[simp] theorem State.setCluster_freeCtr (k : Nat) (c : Cluster) : (s.setCluster k c).freeCtr = s.freeCtr := rfl
@[simp] theorem State.setCluster_out (k : Nat) (c : Cluster) : (s.setCluster k c).out = s.out := rfl
@[simp] theorem State.setCluster_dict (k : Nat) (c : Cluster) : (s.setCluster k c).dict = s.dict := rfl
@[simp] theorem State.setCluster_blobs (k : Nat) (c : Cluster) : (s.setCluster k c).blobs = s.blobs := rfl
@[simp] theorem State.setCluster_localCounts (k : Nat) (c : Cluster) : (s.setCluster k c).localCounts = s.localCounts := rfl
@[simp] theorem State.setCluster_eventSeq (k : Nat) (c : Cluster) : (s.setCluster k c).eventSeq = s.eventSeq := rfl
@[simp] theorem State.setCluster_eventGap (k : Nat) (c : Cluster) : (s.setCluster k c).eventGap = s.eventGap := rfl
@[simp] theorem State.setCluster_cores (k : Nat) (c : Cluster) : (s.setCluster k c).cores = s.cores := rfl
@[simp] theorem State.setCluster_dram (k : Nat) (c : Cluster) : (s.setCluster k c).dram = s.dram := rfl
@[simp] theorem State.setCluster_hbm (k : Nat) (c : Cluster) : (s.setCluster k c).hbm = s.hbm := rfl
@[simp] theorem State.setCluster_parts (k : Nat) (c : Cluster) : (s.setCluster k c).parts = s.parts := rfl
@[simp] theorem State.setCluster_clients (k : Nat) (c : Cluster) : (s.setCluster k c).clients = s.clients := rfl
@[simp] theorem State.setCluster_slots (k : Nat) (c : Cluster) : (s.setCluster k c).slots = s.slots := rfl
@[simp] theorem State.setCluster_loads (k : Nat) (c : Cluster) : (s.setCluster k c).loads = s.loads := rfl
@[simp] theorem State.setCluster_tier (k : Nat) (c : Cluster) : (s.setCluster k c).tier = s.tier := rfl
@[simp] theorem State.setCluster_fills (k : Nat) (c : Cluster) : (s.setCluster k c).fills = s.fills := rfl
@[simp] theorem State.setCluster_exports (k : Nat) (c : Cluster) : (s.setCluster k c).exports = s.exports := rfl
@[simp] theorem State.setCluster_coll (k : Nat) (c : Cluster) : (s.setCluster k c).coll = s.coll := rfl
@[simp] theorem State.setCluster_links (k : Nat) (c : Cluster) : (s.setCluster k c).links = s.links := rfl
@[simp] theorem State.setCluster_packets (k : Nat) (c : Cluster) : (s.setCluster k c).packets = s.packets := rfl
@[simp] theorem State.setCluster_overlays (k : Nat) (c : Cluster) : (s.setCluster k c).overlays = s.overlays := rfl
@[simp] theorem State.setCluster_stalled (k : Nat) (c : Cluster) : (s.setCluster k c).stalled = s.stalled := rfl
@[simp] theorem State.setCluster_paths (k : Nat) (c : Cluster) : (s.setCluster k c).paths = s.paths := rfl
@[simp] theorem State.setCluster_heldOps (k : Nat) (c : Cluster) : (s.setCluster k c).heldOps = s.heldOps := rfl
@[simp] theorem State.setCluster_host (k : Nat) (c : Cluster) : (s.setCluster k c).host = s.host := rfl
@[simp] theorem State.setCluster_power (k : Nat) (c : Cluster) : (s.setCluster k c).power = s.power := rfl
@[simp] theorem State.setCluster_security (k : Nat) (c : Cluster) : (s.setCluster k c).security = s.security := rfl
@[simp] theorem State.setCluster_time (k : Nat) (c : Cluster) : (s.setCluster k c).time = s.time := rfl
@[simp] theorem State.setCluster_conductor (k : Nat) (c : Cluster) : (s.setCluster k c).conductor = s.conductor := rfl
@[simp] theorem State.setCluster_channels (k : Nat) (c : Cluster) : (s.setCluster k c).channels = s.channels := rfl
@[simp] theorem State.setCluster_pipeBefore (k : Nat) (c : Cluster) : (s.setCluster k c).pipeBefore = s.pipeBefore := rfl
@[simp] theorem State.setCluster_pipeNext (k : Nat) (c : Cluster) : (s.setCluster k c).pipeNext = s.pipeNext := rfl
@[simp] theorem State.setCluster_num (k : Nat) (c : Cluster) (o2 sub2 : Nat) : (s.setCluster k c).num o2 sub2 = s.num o2 sub2 := rfl
@[simp] theorem State.setCluster_blob (k : Nat) (c : Cluster) (o2 sub2 : Nat) : (s.setCluster k c).blob o2 sub2 = s.blob o2 sub2 := rfl
@[simp] theorem State.setCluster_core (k : Nat) (c : Cluster) (j : Nat) : (s.setCluster k c).core j = s.core j := rfl
@[simp] theorem State.setCluster_stack (k : Nat) (c : Cluster) (j : Nat) : (s.setCluster k c).stack j = s.stack j := rfl
@[simp] theorem State.setCluster_part (k : Nat) (c : Cluster) (j : Nat) : (s.setCluster k c).part j = s.part j := rfl
@[simp] theorem State.setCluster_client (k : Nat) (c : Cluster) (j : Nat) : (s.setCluster k c).client j = s.client j := rfl
@[simp] theorem State.setCluster_slot (k : Nat) (c : Cluster) (j : Nat) : (s.setCluster k c).slot j = s.slot j := rfl

/-! ### modCluster -/

@[simp] theorem State.modCluster_pending (k : Nat) (f : Cluster → Cluster) : (s.modCluster k f).pending = s.pending := rfl
@[simp] theorem State.modCluster_now (k : Nat) (f : Cluster → Cluster) : (s.modCluster k f).now = s.now := rfl
@[simp] theorem State.modCluster_freeCtr (k : Nat) (f : Cluster → Cluster) : (s.modCluster k f).freeCtr = s.freeCtr := rfl
@[simp] theorem State.modCluster_out (k : Nat) (f : Cluster → Cluster) : (s.modCluster k f).out = s.out := rfl
@[simp] theorem State.modCluster_dict (k : Nat) (f : Cluster → Cluster) : (s.modCluster k f).dict = s.dict := rfl
@[simp] theorem State.modCluster_blobs (k : Nat) (f : Cluster → Cluster) : (s.modCluster k f).blobs = s.blobs := rfl
@[simp] theorem State.modCluster_localCounts (k : Nat) (f : Cluster → Cluster) : (s.modCluster k f).localCounts = s.localCounts := rfl
@[simp] theorem State.modCluster_eventSeq (k : Nat) (f : Cluster → Cluster) : (s.modCluster k f).eventSeq = s.eventSeq := rfl
@[simp] theorem State.modCluster_eventGap (k : Nat) (f : Cluster → Cluster) : (s.modCluster k f).eventGap = s.eventGap := rfl
@[simp] theorem State.modCluster_cores (k : Nat) (f : Cluster → Cluster) : (s.modCluster k f).cores = s.cores := rfl
@[simp] theorem State.modCluster_dram (k : Nat) (f : Cluster → Cluster) : (s.modCluster k f).dram = s.dram := rfl
@[simp] theorem State.modCluster_hbm (k : Nat) (f : Cluster → Cluster) : (s.modCluster k f).hbm = s.hbm := rfl
@[simp] theorem State.modCluster_parts (k : Nat) (f : Cluster → Cluster) : (s.modCluster k f).parts = s.parts := rfl
@[simp] theorem State.modCluster_clients (k : Nat) (f : Cluster → Cluster) : (s.modCluster k f).clients = s.clients := rfl
@[simp] theorem State.modCluster_slots (k : Nat) (f : Cluster → Cluster) : (s.modCluster k f).slots = s.slots := rfl
@[simp] theorem State.modCluster_loads (k : Nat) (f : Cluster → Cluster) : (s.modCluster k f).loads = s.loads := rfl
@[simp] theorem State.modCluster_tier (k : Nat) (f : Cluster → Cluster) : (s.modCluster k f).tier = s.tier := rfl
@[simp] theorem State.modCluster_fills (k : Nat) (f : Cluster → Cluster) : (s.modCluster k f).fills = s.fills := rfl
@[simp] theorem State.modCluster_exports (k : Nat) (f : Cluster → Cluster) : (s.modCluster k f).exports = s.exports := rfl
@[simp] theorem State.modCluster_coll (k : Nat) (f : Cluster → Cluster) : (s.modCluster k f).coll = s.coll := rfl
@[simp] theorem State.modCluster_links (k : Nat) (f : Cluster → Cluster) : (s.modCluster k f).links = s.links := rfl
@[simp] theorem State.modCluster_packets (k : Nat) (f : Cluster → Cluster) : (s.modCluster k f).packets = s.packets := rfl
@[simp] theorem State.modCluster_overlays (k : Nat) (f : Cluster → Cluster) : (s.modCluster k f).overlays = s.overlays := rfl
@[simp] theorem State.modCluster_stalled (k : Nat) (f : Cluster → Cluster) : (s.modCluster k f).stalled = s.stalled := rfl
@[simp] theorem State.modCluster_paths (k : Nat) (f : Cluster → Cluster) : (s.modCluster k f).paths = s.paths := rfl
@[simp] theorem State.modCluster_heldOps (k : Nat) (f : Cluster → Cluster) : (s.modCluster k f).heldOps = s.heldOps := rfl
@[simp] theorem State.modCluster_host (k : Nat) (f : Cluster → Cluster) : (s.modCluster k f).host = s.host := rfl
@[simp] theorem State.modCluster_power (k : Nat) (f : Cluster → Cluster) : (s.modCluster k f).power = s.power := rfl
@[simp] theorem State.modCluster_security (k : Nat) (f : Cluster → Cluster) : (s.modCluster k f).security = s.security := rfl
@[simp] theorem State.modCluster_time (k : Nat) (f : Cluster → Cluster) : (s.modCluster k f).time = s.time := rfl
@[simp] theorem State.modCluster_conductor (k : Nat) (f : Cluster → Cluster) : (s.modCluster k f).conductor = s.conductor := rfl
@[simp] theorem State.modCluster_channels (k : Nat) (f : Cluster → Cluster) : (s.modCluster k f).channels = s.channels := rfl
@[simp] theorem State.modCluster_pipeBefore (k : Nat) (f : Cluster → Cluster) : (s.modCluster k f).pipeBefore = s.pipeBefore := rfl
@[simp] theorem State.modCluster_pipeNext (k : Nat) (f : Cluster → Cluster) : (s.modCluster k f).pipeNext = s.pipeNext := rfl
@[simp] theorem State.modCluster_num (k : Nat) (f : Cluster → Cluster) (o2 sub2 : Nat) : (s.modCluster k f).num o2 sub2 = s.num o2 sub2 := rfl
@[simp] theorem State.modCluster_blob (k : Nat) (f : Cluster → Cluster) (o2 sub2 : Nat) : (s.modCluster k f).blob o2 sub2 = s.blob o2 sub2 := rfl
@[simp] theorem State.modCluster_core (k : Nat) (f : Cluster → Cluster) (j : Nat) : (s.modCluster k f).core j = s.core j := rfl
@[simp] theorem State.modCluster_stack (k : Nat) (f : Cluster → Cluster) (j : Nat) : (s.modCluster k f).stack j = s.stack j := rfl
@[simp] theorem State.modCluster_part (k : Nat) (f : Cluster → Cluster) (j : Nat) : (s.modCluster k f).part j = s.part j := rfl
@[simp] theorem State.modCluster_client (k : Nat) (f : Cluster → Cluster) (j : Nat) : (s.modCluster k f).client j = s.client j := rfl
@[simp] theorem State.modCluster_slot (k : Nat) (f : Cluster → Cluster) (j : Nat) : (s.modCluster k f).slot j = s.slot j := rfl

/-! ### setStack -/

@[simp] theorem State.setStack_pending (k : Nat) (c : Stack) : (s.setStack k c).pending = s.pending := rfl
@[simp] theorem State.setStack_now (k : Nat) (c : Stack) : (s.setStack k c).now = s.now := rfl
@[simp] theorem State.setStack_freeCtr (k : Nat) (c : Stack) : (s.setStack k c).freeCtr = s.freeCtr := rfl
@[simp] theorem State.setStack_out (k : Nat) (c : Stack) : (s.setStack k c).out = s.out := rfl
@[simp] theorem State.setStack_dict (k : Nat) (c : Stack) : (s.setStack k c).dict = s.dict := rfl
@[simp] theorem State.setStack_blobs (k : Nat) (c : Stack) : (s.setStack k c).blobs = s.blobs := rfl
@[simp] theorem State.setStack_localCounts (k : Nat) (c : Stack) : (s.setStack k c).localCounts = s.localCounts := rfl
@[simp] theorem State.setStack_eventSeq (k : Nat) (c : Stack) : (s.setStack k c).eventSeq = s.eventSeq := rfl
@[simp] theorem State.setStack_eventGap (k : Nat) (c : Stack) : (s.setStack k c).eventGap = s.eventGap := rfl
@[simp] theorem State.setStack_cores (k : Nat) (c : Stack) : (s.setStack k c).cores = s.cores := rfl
@[simp] theorem State.setStack_clusters (k : Nat) (c : Stack) : (s.setStack k c).clusters = s.clusters := rfl
@[simp] theorem State.setStack_dram (k : Nat) (c : Stack) : (s.setStack k c).dram = s.dram := rfl
@[simp] theorem State.setStack_parts (k : Nat) (c : Stack) : (s.setStack k c).parts = s.parts := rfl
@[simp] theorem State.setStack_clients (k : Nat) (c : Stack) : (s.setStack k c).clients = s.clients := rfl
@[simp] theorem State.setStack_slots (k : Nat) (c : Stack) : (s.setStack k c).slots = s.slots := rfl
@[simp] theorem State.setStack_loads (k : Nat) (c : Stack) : (s.setStack k c).loads = s.loads := rfl
@[simp] theorem State.setStack_tier (k : Nat) (c : Stack) : (s.setStack k c).tier = s.tier := rfl
@[simp] theorem State.setStack_fills (k : Nat) (c : Stack) : (s.setStack k c).fills = s.fills := rfl
@[simp] theorem State.setStack_exports (k : Nat) (c : Stack) : (s.setStack k c).exports = s.exports := rfl
@[simp] theorem State.setStack_coll (k : Nat) (c : Stack) : (s.setStack k c).coll = s.coll := rfl
@[simp] theorem State.setStack_links (k : Nat) (c : Stack) : (s.setStack k c).links = s.links := rfl
@[simp] theorem State.setStack_packets (k : Nat) (c : Stack) : (s.setStack k c).packets = s.packets := rfl
@[simp] theorem State.setStack_overlays (k : Nat) (c : Stack) : (s.setStack k c).overlays = s.overlays := rfl
@[simp] theorem State.setStack_stalled (k : Nat) (c : Stack) : (s.setStack k c).stalled = s.stalled := rfl
@[simp] theorem State.setStack_paths (k : Nat) (c : Stack) : (s.setStack k c).paths = s.paths := rfl
@[simp] theorem State.setStack_heldOps (k : Nat) (c : Stack) : (s.setStack k c).heldOps = s.heldOps := rfl
@[simp] theorem State.setStack_host (k : Nat) (c : Stack) : (s.setStack k c).host = s.host := rfl
@[simp] theorem State.setStack_power (k : Nat) (c : Stack) : (s.setStack k c).power = s.power := rfl
@[simp] theorem State.setStack_security (k : Nat) (c : Stack) : (s.setStack k c).security = s.security := rfl
@[simp] theorem State.setStack_time (k : Nat) (c : Stack) : (s.setStack k c).time = s.time := rfl
@[simp] theorem State.setStack_conductor (k : Nat) (c : Stack) : (s.setStack k c).conductor = s.conductor := rfl
@[simp] theorem State.setStack_channels (k : Nat) (c : Stack) : (s.setStack k c).channels = s.channels := rfl
@[simp] theorem State.setStack_pipeBefore (k : Nat) (c : Stack) : (s.setStack k c).pipeBefore = s.pipeBefore := rfl
@[simp] theorem State.setStack_pipeNext (k : Nat) (c : Stack) : (s.setStack k c).pipeNext = s.pipeNext := rfl
@[simp] theorem State.setStack_num (k : Nat) (c : Stack) (o2 sub2 : Nat) : (s.setStack k c).num o2 sub2 = s.num o2 sub2 := rfl
@[simp] theorem State.setStack_blob (k : Nat) (c : Stack) (o2 sub2 : Nat) : (s.setStack k c).blob o2 sub2 = s.blob o2 sub2 := rfl
@[simp] theorem State.setStack_core (k : Nat) (c : Stack) (j : Nat) : (s.setStack k c).core j = s.core j := rfl
@[simp] theorem State.setStack_cluster (k : Nat) (c : Stack) (j : Nat) : (s.setStack k c).cluster j = s.cluster j := rfl
@[simp] theorem State.setStack_part (k : Nat) (c : Stack) (j : Nat) : (s.setStack k c).part j = s.part j := rfl
@[simp] theorem State.setStack_client (k : Nat) (c : Stack) (j : Nat) : (s.setStack k c).client j = s.client j := rfl
@[simp] theorem State.setStack_slot (k : Nat) (c : Stack) (j : Nat) : (s.setStack k c).slot j = s.slot j := rfl

/-! ### modStack -/

@[simp] theorem State.modStack_pending (k : Nat) (f : Stack → Stack) : (s.modStack k f).pending = s.pending := rfl
@[simp] theorem State.modStack_now (k : Nat) (f : Stack → Stack) : (s.modStack k f).now = s.now := rfl
@[simp] theorem State.modStack_freeCtr (k : Nat) (f : Stack → Stack) : (s.modStack k f).freeCtr = s.freeCtr := rfl
@[simp] theorem State.modStack_out (k : Nat) (f : Stack → Stack) : (s.modStack k f).out = s.out := rfl
@[simp] theorem State.modStack_dict (k : Nat) (f : Stack → Stack) : (s.modStack k f).dict = s.dict := rfl
@[simp] theorem State.modStack_blobs (k : Nat) (f : Stack → Stack) : (s.modStack k f).blobs = s.blobs := rfl
@[simp] theorem State.modStack_localCounts (k : Nat) (f : Stack → Stack) : (s.modStack k f).localCounts = s.localCounts := rfl
@[simp] theorem State.modStack_eventSeq (k : Nat) (f : Stack → Stack) : (s.modStack k f).eventSeq = s.eventSeq := rfl
@[simp] theorem State.modStack_eventGap (k : Nat) (f : Stack → Stack) : (s.modStack k f).eventGap = s.eventGap := rfl
@[simp] theorem State.modStack_cores (k : Nat) (f : Stack → Stack) : (s.modStack k f).cores = s.cores := rfl
@[simp] theorem State.modStack_clusters (k : Nat) (f : Stack → Stack) : (s.modStack k f).clusters = s.clusters := rfl
@[simp] theorem State.modStack_dram (k : Nat) (f : Stack → Stack) : (s.modStack k f).dram = s.dram := rfl
@[simp] theorem State.modStack_parts (k : Nat) (f : Stack → Stack) : (s.modStack k f).parts = s.parts := rfl
@[simp] theorem State.modStack_clients (k : Nat) (f : Stack → Stack) : (s.modStack k f).clients = s.clients := rfl
@[simp] theorem State.modStack_slots (k : Nat) (f : Stack → Stack) : (s.modStack k f).slots = s.slots := rfl
@[simp] theorem State.modStack_loads (k : Nat) (f : Stack → Stack) : (s.modStack k f).loads = s.loads := rfl
@[simp] theorem State.modStack_tier (k : Nat) (f : Stack → Stack) : (s.modStack k f).tier = s.tier := rfl
@[simp] theorem State.modStack_fills (k : Nat) (f : Stack → Stack) : (s.modStack k f).fills = s.fills := rfl
@[simp] theorem State.modStack_exports (k : Nat) (f : Stack → Stack) : (s.modStack k f).exports = s.exports := rfl
@[simp] theorem State.modStack_coll (k : Nat) (f : Stack → Stack) : (s.modStack k f).coll = s.coll := rfl
@[simp] theorem State.modStack_links (k : Nat) (f : Stack → Stack) : (s.modStack k f).links = s.links := rfl
@[simp] theorem State.modStack_packets (k : Nat) (f : Stack → Stack) : (s.modStack k f).packets = s.packets := rfl
@[simp] theorem State.modStack_overlays (k : Nat) (f : Stack → Stack) : (s.modStack k f).overlays = s.overlays := rfl
@[simp] theorem State.modStack_stalled (k : Nat) (f : Stack → Stack) : (s.modStack k f).stalled = s.stalled := rfl
@[simp] theorem State.modStack_paths (k : Nat) (f : Stack → Stack) : (s.modStack k f).paths = s.paths := rfl
@[simp] theorem State.modStack_heldOps (k : Nat) (f : Stack → Stack) : (s.modStack k f).heldOps = s.heldOps := rfl
@[simp] theorem State.modStack_host (k : Nat) (f : Stack → Stack) : (s.modStack k f).host = s.host := rfl
@[simp] theorem State.modStack_power (k : Nat) (f : Stack → Stack) : (s.modStack k f).power = s.power := rfl
@[simp] theorem State.modStack_security (k : Nat) (f : Stack → Stack) : (s.modStack k f).security = s.security := rfl
@[simp] theorem State.modStack_time (k : Nat) (f : Stack → Stack) : (s.modStack k f).time = s.time := rfl
@[simp] theorem State.modStack_conductor (k : Nat) (f : Stack → Stack) : (s.modStack k f).conductor = s.conductor := rfl
@[simp] theorem State.modStack_channels (k : Nat) (f : Stack → Stack) : (s.modStack k f).channels = s.channels := rfl
@[simp] theorem State.modStack_pipeBefore (k : Nat) (f : Stack → Stack) : (s.modStack k f).pipeBefore = s.pipeBefore := rfl
@[simp] theorem State.modStack_pipeNext (k : Nat) (f : Stack → Stack) : (s.modStack k f).pipeNext = s.pipeNext := rfl
@[simp] theorem State.modStack_num (k : Nat) (f : Stack → Stack) (o2 sub2 : Nat) : (s.modStack k f).num o2 sub2 = s.num o2 sub2 := rfl
@[simp] theorem State.modStack_blob (k : Nat) (f : Stack → Stack) (o2 sub2 : Nat) : (s.modStack k f).blob o2 sub2 = s.blob o2 sub2 := rfl
@[simp] theorem State.modStack_core (k : Nat) (f : Stack → Stack) (j : Nat) : (s.modStack k f).core j = s.core j := rfl
@[simp] theorem State.modStack_cluster (k : Nat) (f : Stack → Stack) (j : Nat) : (s.modStack k f).cluster j = s.cluster j := rfl
@[simp] theorem State.modStack_part (k : Nat) (f : Stack → Stack) (j : Nat) : (s.modStack k f).part j = s.part j := rfl
@[simp] theorem State.modStack_client (k : Nat) (f : Stack → Stack) (j : Nat) : (s.modStack k f).client j = s.client j := rfl
@[simp] theorem State.modStack_slot (k : Nat) (f : Stack → Stack) (j : Nat) : (s.modStack k f).slot j = s.slot j := rfl

/-! ### setPart -/

@[simp] theorem State.setPart_pending (k : Nat) (c : Part) : (s.setPart k c).pending = s.pending := rfl
@[simp] theorem State.setPart_now (k : Nat) (c : Part) : (s.setPart k c).now = s.now := rfl
@[simp] theorem State.setPart_freeCtr (k : Nat) (c : Part) : (s.setPart k c).freeCtr = s.freeCtr := rfl
@[simp] theorem State.setPart_out (k : Nat) (c : Part) : (s.setPart k c).out = s.out := rfl
@[simp] theorem State.setPart_dict (k : Nat) (c : Part) : (s.setPart k c).dict = s.dict := rfl
@[simp] theorem State.setPart_blobs (k : Nat) (c : Part) : (s.setPart k c).blobs = s.blobs := rfl
@[simp] theorem State.setPart_localCounts (k : Nat) (c : Part) : (s.setPart k c).localCounts = s.localCounts := rfl
@[simp] theorem State.setPart_eventSeq (k : Nat) (c : Part) : (s.setPart k c).eventSeq = s.eventSeq := rfl
@[simp] theorem State.setPart_eventGap (k : Nat) (c : Part) : (s.setPart k c).eventGap = s.eventGap := rfl
@[simp] theorem State.setPart_cores (k : Nat) (c : Part) : (s.setPart k c).cores = s.cores := rfl
@[simp] theorem State.setPart_clusters (k : Nat) (c : Part) : (s.setPart k c).clusters = s.clusters := rfl
@[simp] theorem State.setPart_dram (k : Nat) (c : Part) : (s.setPart k c).dram = s.dram := rfl
@[simp] theorem State.setPart_hbm (k : Nat) (c : Part) : (s.setPart k c).hbm = s.hbm := rfl
@[simp] theorem State.setPart_clients (k : Nat) (c : Part) : (s.setPart k c).clients = s.clients := rfl
@[simp] theorem State.setPart_slots (k : Nat) (c : Part) : (s.setPart k c).slots = s.slots := rfl
@[simp] theorem State.setPart_loads (k : Nat) (c : Part) : (s.setPart k c).loads = s.loads := rfl
@[simp] theorem State.setPart_tier (k : Nat) (c : Part) : (s.setPart k c).tier = s.tier := rfl
@[simp] theorem State.setPart_fills (k : Nat) (c : Part) : (s.setPart k c).fills = s.fills := rfl
@[simp] theorem State.setPart_exports (k : Nat) (c : Part) : (s.setPart k c).exports = s.exports := rfl
@[simp] theorem State.setPart_coll (k : Nat) (c : Part) : (s.setPart k c).coll = s.coll := rfl
@[simp] theorem State.setPart_links (k : Nat) (c : Part) : (s.setPart k c).links = s.links := rfl
@[simp] theorem State.setPart_packets (k : Nat) (c : Part) : (s.setPart k c).packets = s.packets := rfl
@[simp] theorem State.setPart_overlays (k : Nat) (c : Part) : (s.setPart k c).overlays = s.overlays := rfl
@[simp] theorem State.setPart_stalled (k : Nat) (c : Part) : (s.setPart k c).stalled = s.stalled := rfl
@[simp] theorem State.setPart_paths (k : Nat) (c : Part) : (s.setPart k c).paths = s.paths := rfl
@[simp] theorem State.setPart_heldOps (k : Nat) (c : Part) : (s.setPart k c).heldOps = s.heldOps := rfl
@[simp] theorem State.setPart_host (k : Nat) (c : Part) : (s.setPart k c).host = s.host := rfl
@[simp] theorem State.setPart_power (k : Nat) (c : Part) : (s.setPart k c).power = s.power := rfl
@[simp] theorem State.setPart_security (k : Nat) (c : Part) : (s.setPart k c).security = s.security := rfl
@[simp] theorem State.setPart_time (k : Nat) (c : Part) : (s.setPart k c).time = s.time := rfl
@[simp] theorem State.setPart_conductor (k : Nat) (c : Part) : (s.setPart k c).conductor = s.conductor := rfl
@[simp] theorem State.setPart_channels (k : Nat) (c : Part) : (s.setPart k c).channels = s.channels := rfl
@[simp] theorem State.setPart_pipeBefore (k : Nat) (c : Part) : (s.setPart k c).pipeBefore = s.pipeBefore := rfl
@[simp] theorem State.setPart_pipeNext (k : Nat) (c : Part) : (s.setPart k c).pipeNext = s.pipeNext := rfl
@[simp] theorem State.setPart_num (k : Nat) (c : Part) (o2 sub2 : Nat) : (s.setPart k c).num o2 sub2 = s.num o2 sub2 := rfl
@[simp] theorem State.setPart_blob (k : Nat) (c : Part) (o2 sub2 : Nat) : (s.setPart k c).blob o2 sub2 = s.blob o2 sub2 := rfl
@[simp] theorem State.setPart_core (k : Nat) (c : Part) (j : Nat) : (s.setPart k c).core j = s.core j := rfl
@[simp] theorem State.setPart_cluster (k : Nat) (c : Part) (j : Nat) : (s.setPart k c).cluster j = s.cluster j := rfl
@[simp] theorem State.setPart_stack (k : Nat) (c : Part) (j : Nat) : (s.setPart k c).stack j = s.stack j := rfl
@[simp] theorem State.setPart_client (k : Nat) (c : Part) (j : Nat) : (s.setPart k c).client j = s.client j := rfl
@[simp] theorem State.setPart_slot (k : Nat) (c : Part) (j : Nat) : (s.setPart k c).slot j = s.slot j := rfl

/-! ### modPart -/

@[simp] theorem State.modPart_pending (k : Nat) (f : Part → Part) : (s.modPart k f).pending = s.pending := rfl
@[simp] theorem State.modPart_now (k : Nat) (f : Part → Part) : (s.modPart k f).now = s.now := rfl
@[simp] theorem State.modPart_freeCtr (k : Nat) (f : Part → Part) : (s.modPart k f).freeCtr = s.freeCtr := rfl
@[simp] theorem State.modPart_out (k : Nat) (f : Part → Part) : (s.modPart k f).out = s.out := rfl
@[simp] theorem State.modPart_dict (k : Nat) (f : Part → Part) : (s.modPart k f).dict = s.dict := rfl
@[simp] theorem State.modPart_blobs (k : Nat) (f : Part → Part) : (s.modPart k f).blobs = s.blobs := rfl
@[simp] theorem State.modPart_localCounts (k : Nat) (f : Part → Part) : (s.modPart k f).localCounts = s.localCounts := rfl
@[simp] theorem State.modPart_eventSeq (k : Nat) (f : Part → Part) : (s.modPart k f).eventSeq = s.eventSeq := rfl
@[simp] theorem State.modPart_eventGap (k : Nat) (f : Part → Part) : (s.modPart k f).eventGap = s.eventGap := rfl
@[simp] theorem State.modPart_cores (k : Nat) (f : Part → Part) : (s.modPart k f).cores = s.cores := rfl
@[simp] theorem State.modPart_clusters (k : Nat) (f : Part → Part) : (s.modPart k f).clusters = s.clusters := rfl
@[simp] theorem State.modPart_dram (k : Nat) (f : Part → Part) : (s.modPart k f).dram = s.dram := rfl
@[simp] theorem State.modPart_hbm (k : Nat) (f : Part → Part) : (s.modPart k f).hbm = s.hbm := rfl
@[simp] theorem State.modPart_clients (k : Nat) (f : Part → Part) : (s.modPart k f).clients = s.clients := rfl
@[simp] theorem State.modPart_slots (k : Nat) (f : Part → Part) : (s.modPart k f).slots = s.slots := rfl
@[simp] theorem State.modPart_loads (k : Nat) (f : Part → Part) : (s.modPart k f).loads = s.loads := rfl
@[simp] theorem State.modPart_tier (k : Nat) (f : Part → Part) : (s.modPart k f).tier = s.tier := rfl
@[simp] theorem State.modPart_fills (k : Nat) (f : Part → Part) : (s.modPart k f).fills = s.fills := rfl
@[simp] theorem State.modPart_exports (k : Nat) (f : Part → Part) : (s.modPart k f).exports = s.exports := rfl
@[simp] theorem State.modPart_coll (k : Nat) (f : Part → Part) : (s.modPart k f).coll = s.coll := rfl
@[simp] theorem State.modPart_links (k : Nat) (f : Part → Part) : (s.modPart k f).links = s.links := rfl
@[simp] theorem State.modPart_packets (k : Nat) (f : Part → Part) : (s.modPart k f).packets = s.packets := rfl
@[simp] theorem State.modPart_overlays (k : Nat) (f : Part → Part) : (s.modPart k f).overlays = s.overlays := rfl
@[simp] theorem State.modPart_stalled (k : Nat) (f : Part → Part) : (s.modPart k f).stalled = s.stalled := rfl
@[simp] theorem State.modPart_paths (k : Nat) (f : Part → Part) : (s.modPart k f).paths = s.paths := rfl
@[simp] theorem State.modPart_heldOps (k : Nat) (f : Part → Part) : (s.modPart k f).heldOps = s.heldOps := rfl
@[simp] theorem State.modPart_host (k : Nat) (f : Part → Part) : (s.modPart k f).host = s.host := rfl
@[simp] theorem State.modPart_power (k : Nat) (f : Part → Part) : (s.modPart k f).power = s.power := rfl
@[simp] theorem State.modPart_security (k : Nat) (f : Part → Part) : (s.modPart k f).security = s.security := rfl
@[simp] theorem State.modPart_time (k : Nat) (f : Part → Part) : (s.modPart k f).time = s.time := rfl
@[simp] theorem State.modPart_conductor (k : Nat) (f : Part → Part) : (s.modPart k f).conductor = s.conductor := rfl
@[simp] theorem State.modPart_channels (k : Nat) (f : Part → Part) : (s.modPart k f).channels = s.channels := rfl
@[simp] theorem State.modPart_pipeBefore (k : Nat) (f : Part → Part) : (s.modPart k f).pipeBefore = s.pipeBefore := rfl
@[simp] theorem State.modPart_pipeNext (k : Nat) (f : Part → Part) : (s.modPart k f).pipeNext = s.pipeNext := rfl
@[simp] theorem State.modPart_num (k : Nat) (f : Part → Part) (o2 sub2 : Nat) : (s.modPart k f).num o2 sub2 = s.num o2 sub2 := rfl
@[simp] theorem State.modPart_blob (k : Nat) (f : Part → Part) (o2 sub2 : Nat) : (s.modPart k f).blob o2 sub2 = s.blob o2 sub2 := rfl
@[simp] theorem State.modPart_core (k : Nat) (f : Part → Part) (j : Nat) : (s.modPart k f).core j = s.core j := rfl
@[simp] theorem State.modPart_cluster (k : Nat) (f : Part → Part) (j : Nat) : (s.modPart k f).cluster j = s.cluster j := rfl
@[simp] theorem State.modPart_stack (k : Nat) (f : Part → Part) (j : Nat) : (s.modPart k f).stack j = s.stack j := rfl
@[simp] theorem State.modPart_client (k : Nat) (f : Part → Part) (j : Nat) : (s.modPart k f).client j = s.client j := rfl
@[simp] theorem State.modPart_slot (k : Nat) (f : Part → Part) (j : Nat) : (s.modPart k f).slot j = s.slot j := rfl

/-! ### setClient -/

@[simp] theorem State.setClient_pending (k : Nat) (c : Client) : (s.setClient k c).pending = s.pending := rfl
@[simp] theorem State.setClient_now (k : Nat) (c : Client) : (s.setClient k c).now = s.now := rfl
@[simp] theorem State.setClient_freeCtr (k : Nat) (c : Client) : (s.setClient k c).freeCtr = s.freeCtr := rfl
@[simp] theorem State.setClient_out (k : Nat) (c : Client) : (s.setClient k c).out = s.out := rfl
@[simp] theorem State.setClient_dict (k : Nat) (c : Client) : (s.setClient k c).dict = s.dict := rfl
@[simp] theorem State.setClient_blobs (k : Nat) (c : Client) : (s.setClient k c).blobs = s.blobs := rfl
@[simp] theorem State.setClient_localCounts (k : Nat) (c : Client) : (s.setClient k c).localCounts = s.localCounts := rfl
@[simp] theorem State.setClient_eventSeq (k : Nat) (c : Client) : (s.setClient k c).eventSeq = s.eventSeq := rfl
@[simp] theorem State.setClient_eventGap (k : Nat) (c : Client) : (s.setClient k c).eventGap = s.eventGap := rfl
@[simp] theorem State.setClient_cores (k : Nat) (c : Client) : (s.setClient k c).cores = s.cores := rfl
@[simp] theorem State.setClient_clusters (k : Nat) (c : Client) : (s.setClient k c).clusters = s.clusters := rfl
@[simp] theorem State.setClient_dram (k : Nat) (c : Client) : (s.setClient k c).dram = s.dram := rfl
@[simp] theorem State.setClient_hbm (k : Nat) (c : Client) : (s.setClient k c).hbm = s.hbm := rfl
@[simp] theorem State.setClient_parts (k : Nat) (c : Client) : (s.setClient k c).parts = s.parts := rfl
@[simp] theorem State.setClient_slots (k : Nat) (c : Client) : (s.setClient k c).slots = s.slots := rfl
@[simp] theorem State.setClient_loads (k : Nat) (c : Client) : (s.setClient k c).loads = s.loads := rfl
@[simp] theorem State.setClient_tier (k : Nat) (c : Client) : (s.setClient k c).tier = s.tier := rfl
@[simp] theorem State.setClient_fills (k : Nat) (c : Client) : (s.setClient k c).fills = s.fills := rfl
@[simp] theorem State.setClient_exports (k : Nat) (c : Client) : (s.setClient k c).exports = s.exports := rfl
@[simp] theorem State.setClient_coll (k : Nat) (c : Client) : (s.setClient k c).coll = s.coll := rfl
@[simp] theorem State.setClient_links (k : Nat) (c : Client) : (s.setClient k c).links = s.links := rfl
@[simp] theorem State.setClient_packets (k : Nat) (c : Client) : (s.setClient k c).packets = s.packets := rfl
@[simp] theorem State.setClient_overlays (k : Nat) (c : Client) : (s.setClient k c).overlays = s.overlays := rfl
@[simp] theorem State.setClient_stalled (k : Nat) (c : Client) : (s.setClient k c).stalled = s.stalled := rfl
@[simp] theorem State.setClient_paths (k : Nat) (c : Client) : (s.setClient k c).paths = s.paths := rfl
@[simp] theorem State.setClient_heldOps (k : Nat) (c : Client) : (s.setClient k c).heldOps = s.heldOps := rfl
@[simp] theorem State.setClient_host (k : Nat) (c : Client) : (s.setClient k c).host = s.host := rfl
@[simp] theorem State.setClient_power (k : Nat) (c : Client) : (s.setClient k c).power = s.power := rfl
@[simp] theorem State.setClient_security (k : Nat) (c : Client) : (s.setClient k c).security = s.security := rfl
@[simp] theorem State.setClient_time (k : Nat) (c : Client) : (s.setClient k c).time = s.time := rfl
@[simp] theorem State.setClient_conductor (k : Nat) (c : Client) : (s.setClient k c).conductor = s.conductor := rfl
@[simp] theorem State.setClient_channels (k : Nat) (c : Client) : (s.setClient k c).channels = s.channels := rfl
@[simp] theorem State.setClient_pipeBefore (k : Nat) (c : Client) : (s.setClient k c).pipeBefore = s.pipeBefore := rfl
@[simp] theorem State.setClient_pipeNext (k : Nat) (c : Client) : (s.setClient k c).pipeNext = s.pipeNext := rfl
@[simp] theorem State.setClient_num (k : Nat) (c : Client) (o2 sub2 : Nat) : (s.setClient k c).num o2 sub2 = s.num o2 sub2 := rfl
@[simp] theorem State.setClient_blob (k : Nat) (c : Client) (o2 sub2 : Nat) : (s.setClient k c).blob o2 sub2 = s.blob o2 sub2 := rfl
@[simp] theorem State.setClient_core (k : Nat) (c : Client) (j : Nat) : (s.setClient k c).core j = s.core j := rfl
@[simp] theorem State.setClient_cluster (k : Nat) (c : Client) (j : Nat) : (s.setClient k c).cluster j = s.cluster j := rfl
@[simp] theorem State.setClient_stack (k : Nat) (c : Client) (j : Nat) : (s.setClient k c).stack j = s.stack j := rfl
@[simp] theorem State.setClient_part (k : Nat) (c : Client) (j : Nat) : (s.setClient k c).part j = s.part j := rfl
@[simp] theorem State.setClient_slot (k : Nat) (c : Client) (j : Nat) : (s.setClient k c).slot j = s.slot j := rfl

/-! ### modClient -/

@[simp] theorem State.modClient_pending (k : Nat) (f : Client → Client) : (s.modClient k f).pending = s.pending := rfl
@[simp] theorem State.modClient_now (k : Nat) (f : Client → Client) : (s.modClient k f).now = s.now := rfl
@[simp] theorem State.modClient_freeCtr (k : Nat) (f : Client → Client) : (s.modClient k f).freeCtr = s.freeCtr := rfl
@[simp] theorem State.modClient_out (k : Nat) (f : Client → Client) : (s.modClient k f).out = s.out := rfl
@[simp] theorem State.modClient_dict (k : Nat) (f : Client → Client) : (s.modClient k f).dict = s.dict := rfl
@[simp] theorem State.modClient_blobs (k : Nat) (f : Client → Client) : (s.modClient k f).blobs = s.blobs := rfl
@[simp] theorem State.modClient_localCounts (k : Nat) (f : Client → Client) : (s.modClient k f).localCounts = s.localCounts := rfl
@[simp] theorem State.modClient_eventSeq (k : Nat) (f : Client → Client) : (s.modClient k f).eventSeq = s.eventSeq := rfl
@[simp] theorem State.modClient_eventGap (k : Nat) (f : Client → Client) : (s.modClient k f).eventGap = s.eventGap := rfl
@[simp] theorem State.modClient_cores (k : Nat) (f : Client → Client) : (s.modClient k f).cores = s.cores := rfl
@[simp] theorem State.modClient_clusters (k : Nat) (f : Client → Client) : (s.modClient k f).clusters = s.clusters := rfl
@[simp] theorem State.modClient_dram (k : Nat) (f : Client → Client) : (s.modClient k f).dram = s.dram := rfl
@[simp] theorem State.modClient_hbm (k : Nat) (f : Client → Client) : (s.modClient k f).hbm = s.hbm := rfl
@[simp] theorem State.modClient_parts (k : Nat) (f : Client → Client) : (s.modClient k f).parts = s.parts := rfl
@[simp] theorem State.modClient_slots (k : Nat) (f : Client → Client) : (s.modClient k f).slots = s.slots := rfl
@[simp] theorem State.modClient_loads (k : Nat) (f : Client → Client) : (s.modClient k f).loads = s.loads := rfl
@[simp] theorem State.modClient_tier (k : Nat) (f : Client → Client) : (s.modClient k f).tier = s.tier := rfl
@[simp] theorem State.modClient_fills (k : Nat) (f : Client → Client) : (s.modClient k f).fills = s.fills := rfl
@[simp] theorem State.modClient_exports (k : Nat) (f : Client → Client) : (s.modClient k f).exports = s.exports := rfl
@[simp] theorem State.modClient_coll (k : Nat) (f : Client → Client) : (s.modClient k f).coll = s.coll := rfl
@[simp] theorem State.modClient_links (k : Nat) (f : Client → Client) : (s.modClient k f).links = s.links := rfl
@[simp] theorem State.modClient_packets (k : Nat) (f : Client → Client) : (s.modClient k f).packets = s.packets := rfl
@[simp] theorem State.modClient_overlays (k : Nat) (f : Client → Client) : (s.modClient k f).overlays = s.overlays := rfl
@[simp] theorem State.modClient_stalled (k : Nat) (f : Client → Client) : (s.modClient k f).stalled = s.stalled := rfl
@[simp] theorem State.modClient_paths (k : Nat) (f : Client → Client) : (s.modClient k f).paths = s.paths := rfl
@[simp] theorem State.modClient_heldOps (k : Nat) (f : Client → Client) : (s.modClient k f).heldOps = s.heldOps := rfl
@[simp] theorem State.modClient_host (k : Nat) (f : Client → Client) : (s.modClient k f).host = s.host := rfl
@[simp] theorem State.modClient_power (k : Nat) (f : Client → Client) : (s.modClient k f).power = s.power := rfl
@[simp] theorem State.modClient_security (k : Nat) (f : Client → Client) : (s.modClient k f).security = s.security := rfl
@[simp] theorem State.modClient_time (k : Nat) (f : Client → Client) : (s.modClient k f).time = s.time := rfl
@[simp] theorem State.modClient_conductor (k : Nat) (f : Client → Client) : (s.modClient k f).conductor = s.conductor := rfl
@[simp] theorem State.modClient_channels (k : Nat) (f : Client → Client) : (s.modClient k f).channels = s.channels := rfl
@[simp] theorem State.modClient_pipeBefore (k : Nat) (f : Client → Client) : (s.modClient k f).pipeBefore = s.pipeBefore := rfl
@[simp] theorem State.modClient_pipeNext (k : Nat) (f : Client → Client) : (s.modClient k f).pipeNext = s.pipeNext := rfl
@[simp] theorem State.modClient_num (k : Nat) (f : Client → Client) (o2 sub2 : Nat) : (s.modClient k f).num o2 sub2 = s.num o2 sub2 := rfl
@[simp] theorem State.modClient_blob (k : Nat) (f : Client → Client) (o2 sub2 : Nat) : (s.modClient k f).blob o2 sub2 = s.blob o2 sub2 := rfl
@[simp] theorem State.modClient_core (k : Nat) (f : Client → Client) (j : Nat) : (s.modClient k f).core j = s.core j := rfl
@[simp] theorem State.modClient_cluster (k : Nat) (f : Client → Client) (j : Nat) : (s.modClient k f).cluster j = s.cluster j := rfl
@[simp] theorem State.modClient_stack (k : Nat) (f : Client → Client) (j : Nat) : (s.modClient k f).stack j = s.stack j := rfl
@[simp] theorem State.modClient_part (k : Nat) (f : Client → Client) (j : Nat) : (s.modClient k f).part j = s.part j := rfl
@[simp] theorem State.modClient_slot (k : Nat) (f : Client → Client) (j : Nat) : (s.modClient k f).slot j = s.slot j := rfl

/-! ### setSlot -/

@[simp] theorem State.setSlot_pending (k : Nat) (c : Slot) : (s.setSlot k c).pending = s.pending := rfl
@[simp] theorem State.setSlot_now (k : Nat) (c : Slot) : (s.setSlot k c).now = s.now := rfl
@[simp] theorem State.setSlot_freeCtr (k : Nat) (c : Slot) : (s.setSlot k c).freeCtr = s.freeCtr := rfl
@[simp] theorem State.setSlot_out (k : Nat) (c : Slot) : (s.setSlot k c).out = s.out := rfl
@[simp] theorem State.setSlot_dict (k : Nat) (c : Slot) : (s.setSlot k c).dict = s.dict := rfl
@[simp] theorem State.setSlot_blobs (k : Nat) (c : Slot) : (s.setSlot k c).blobs = s.blobs := rfl
@[simp] theorem State.setSlot_localCounts (k : Nat) (c : Slot) : (s.setSlot k c).localCounts = s.localCounts := rfl
@[simp] theorem State.setSlot_eventSeq (k : Nat) (c : Slot) : (s.setSlot k c).eventSeq = s.eventSeq := rfl
@[simp] theorem State.setSlot_eventGap (k : Nat) (c : Slot) : (s.setSlot k c).eventGap = s.eventGap := rfl
@[simp] theorem State.setSlot_cores (k : Nat) (c : Slot) : (s.setSlot k c).cores = s.cores := rfl
@[simp] theorem State.setSlot_clusters (k : Nat) (c : Slot) : (s.setSlot k c).clusters = s.clusters := rfl
@[simp] theorem State.setSlot_dram (k : Nat) (c : Slot) : (s.setSlot k c).dram = s.dram := rfl
@[simp] theorem State.setSlot_hbm (k : Nat) (c : Slot) : (s.setSlot k c).hbm = s.hbm := rfl
@[simp] theorem State.setSlot_parts (k : Nat) (c : Slot) : (s.setSlot k c).parts = s.parts := rfl
@[simp] theorem State.setSlot_clients (k : Nat) (c : Slot) : (s.setSlot k c).clients = s.clients := rfl
@[simp] theorem State.setSlot_loads (k : Nat) (c : Slot) : (s.setSlot k c).loads = s.loads := rfl
@[simp] theorem State.setSlot_tier (k : Nat) (c : Slot) : (s.setSlot k c).tier = s.tier := rfl
@[simp] theorem State.setSlot_fills (k : Nat) (c : Slot) : (s.setSlot k c).fills = s.fills := rfl
@[simp] theorem State.setSlot_exports (k : Nat) (c : Slot) : (s.setSlot k c).exports = s.exports := rfl
@[simp] theorem State.setSlot_coll (k : Nat) (c : Slot) : (s.setSlot k c).coll = s.coll := rfl
@[simp] theorem State.setSlot_links (k : Nat) (c : Slot) : (s.setSlot k c).links = s.links := rfl
@[simp] theorem State.setSlot_packets (k : Nat) (c : Slot) : (s.setSlot k c).packets = s.packets := rfl
@[simp] theorem State.setSlot_overlays (k : Nat) (c : Slot) : (s.setSlot k c).overlays = s.overlays := rfl
@[simp] theorem State.setSlot_stalled (k : Nat) (c : Slot) : (s.setSlot k c).stalled = s.stalled := rfl
@[simp] theorem State.setSlot_paths (k : Nat) (c : Slot) : (s.setSlot k c).paths = s.paths := rfl
@[simp] theorem State.setSlot_heldOps (k : Nat) (c : Slot) : (s.setSlot k c).heldOps = s.heldOps := rfl
@[simp] theorem State.setSlot_host (k : Nat) (c : Slot) : (s.setSlot k c).host = s.host := rfl
@[simp] theorem State.setSlot_power (k : Nat) (c : Slot) : (s.setSlot k c).power = s.power := rfl
@[simp] theorem State.setSlot_security (k : Nat) (c : Slot) : (s.setSlot k c).security = s.security := rfl
@[simp] theorem State.setSlot_time (k : Nat) (c : Slot) : (s.setSlot k c).time = s.time := rfl
@[simp] theorem State.setSlot_conductor (k : Nat) (c : Slot) : (s.setSlot k c).conductor = s.conductor := rfl
@[simp] theorem State.setSlot_channels (k : Nat) (c : Slot) : (s.setSlot k c).channels = s.channels := rfl
@[simp] theorem State.setSlot_pipeBefore (k : Nat) (c : Slot) : (s.setSlot k c).pipeBefore = s.pipeBefore := rfl
@[simp] theorem State.setSlot_pipeNext (k : Nat) (c : Slot) : (s.setSlot k c).pipeNext = s.pipeNext := rfl
@[simp] theorem State.setSlot_num (k : Nat) (c : Slot) (o2 sub2 : Nat) : (s.setSlot k c).num o2 sub2 = s.num o2 sub2 := rfl
@[simp] theorem State.setSlot_blob (k : Nat) (c : Slot) (o2 sub2 : Nat) : (s.setSlot k c).blob o2 sub2 = s.blob o2 sub2 := rfl
@[simp] theorem State.setSlot_core (k : Nat) (c : Slot) (j : Nat) : (s.setSlot k c).core j = s.core j := rfl
@[simp] theorem State.setSlot_cluster (k : Nat) (c : Slot) (j : Nat) : (s.setSlot k c).cluster j = s.cluster j := rfl
@[simp] theorem State.setSlot_stack (k : Nat) (c : Slot) (j : Nat) : (s.setSlot k c).stack j = s.stack j := rfl
@[simp] theorem State.setSlot_part (k : Nat) (c : Slot) (j : Nat) : (s.setSlot k c).part j = s.part j := rfl
@[simp] theorem State.setSlot_client (k : Nat) (c : Slot) (j : Nat) : (s.setSlot k c).client j = s.client j := rfl

/-! ### modSlot -/

@[simp] theorem State.modSlot_pending (k : Nat) (f : Slot → Slot) : (s.modSlot k f).pending = s.pending := rfl
@[simp] theorem State.modSlot_now (k : Nat) (f : Slot → Slot) : (s.modSlot k f).now = s.now := rfl
@[simp] theorem State.modSlot_freeCtr (k : Nat) (f : Slot → Slot) : (s.modSlot k f).freeCtr = s.freeCtr := rfl
@[simp] theorem State.modSlot_out (k : Nat) (f : Slot → Slot) : (s.modSlot k f).out = s.out := rfl
@[simp] theorem State.modSlot_dict (k : Nat) (f : Slot → Slot) : (s.modSlot k f).dict = s.dict := rfl
@[simp] theorem State.modSlot_blobs (k : Nat) (f : Slot → Slot) : (s.modSlot k f).blobs = s.blobs := rfl
@[simp] theorem State.modSlot_localCounts (k : Nat) (f : Slot → Slot) : (s.modSlot k f).localCounts = s.localCounts := rfl
@[simp] theorem State.modSlot_eventSeq (k : Nat) (f : Slot → Slot) : (s.modSlot k f).eventSeq = s.eventSeq := rfl
@[simp] theorem State.modSlot_eventGap (k : Nat) (f : Slot → Slot) : (s.modSlot k f).eventGap = s.eventGap := rfl
@[simp] theorem State.modSlot_cores (k : Nat) (f : Slot → Slot) : (s.modSlot k f).cores = s.cores := rfl
@[simp] theorem State.modSlot_clusters (k : Nat) (f : Slot → Slot) : (s.modSlot k f).clusters = s.clusters := rfl
@[simp] theorem State.modSlot_dram (k : Nat) (f : Slot → Slot) : (s.modSlot k f).dram = s.dram := rfl
@[simp] theorem State.modSlot_hbm (k : Nat) (f : Slot → Slot) : (s.modSlot k f).hbm = s.hbm := rfl
@[simp] theorem State.modSlot_parts (k : Nat) (f : Slot → Slot) : (s.modSlot k f).parts = s.parts := rfl
@[simp] theorem State.modSlot_clients (k : Nat) (f : Slot → Slot) : (s.modSlot k f).clients = s.clients := rfl
@[simp] theorem State.modSlot_loads (k : Nat) (f : Slot → Slot) : (s.modSlot k f).loads = s.loads := rfl
@[simp] theorem State.modSlot_tier (k : Nat) (f : Slot → Slot) : (s.modSlot k f).tier = s.tier := rfl
@[simp] theorem State.modSlot_fills (k : Nat) (f : Slot → Slot) : (s.modSlot k f).fills = s.fills := rfl
@[simp] theorem State.modSlot_exports (k : Nat) (f : Slot → Slot) : (s.modSlot k f).exports = s.exports := rfl
@[simp] theorem State.modSlot_coll (k : Nat) (f : Slot → Slot) : (s.modSlot k f).coll = s.coll := rfl
@[simp] theorem State.modSlot_links (k : Nat) (f : Slot → Slot) : (s.modSlot k f).links = s.links := rfl
@[simp] theorem State.modSlot_packets (k : Nat) (f : Slot → Slot) : (s.modSlot k f).packets = s.packets := rfl
@[simp] theorem State.modSlot_overlays (k : Nat) (f : Slot → Slot) : (s.modSlot k f).overlays = s.overlays := rfl
@[simp] theorem State.modSlot_stalled (k : Nat) (f : Slot → Slot) : (s.modSlot k f).stalled = s.stalled := rfl
@[simp] theorem State.modSlot_paths (k : Nat) (f : Slot → Slot) : (s.modSlot k f).paths = s.paths := rfl
@[simp] theorem State.modSlot_heldOps (k : Nat) (f : Slot → Slot) : (s.modSlot k f).heldOps = s.heldOps := rfl
@[simp] theorem State.modSlot_host (k : Nat) (f : Slot → Slot) : (s.modSlot k f).host = s.host := rfl
@[simp] theorem State.modSlot_power (k : Nat) (f : Slot → Slot) : (s.modSlot k f).power = s.power := rfl
@[simp] theorem State.modSlot_security (k : Nat) (f : Slot → Slot) : (s.modSlot k f).security = s.security := rfl
@[simp] theorem State.modSlot_time (k : Nat) (f : Slot → Slot) : (s.modSlot k f).time = s.time := rfl
@[simp] theorem State.modSlot_conductor (k : Nat) (f : Slot → Slot) : (s.modSlot k f).conductor = s.conductor := rfl
@[simp] theorem State.modSlot_channels (k : Nat) (f : Slot → Slot) : (s.modSlot k f).channels = s.channels := rfl
@[simp] theorem State.modSlot_pipeBefore (k : Nat) (f : Slot → Slot) : (s.modSlot k f).pipeBefore = s.pipeBefore := rfl
@[simp] theorem State.modSlot_pipeNext (k : Nat) (f : Slot → Slot) : (s.modSlot k f).pipeNext = s.pipeNext := rfl
@[simp] theorem State.modSlot_num (k : Nat) (f : Slot → Slot) (o2 sub2 : Nat) : (s.modSlot k f).num o2 sub2 = s.num o2 sub2 := rfl
@[simp] theorem State.modSlot_blob (k : Nat) (f : Slot → Slot) (o2 sub2 : Nat) : (s.modSlot k f).blob o2 sub2 = s.blob o2 sub2 := rfl
@[simp] theorem State.modSlot_core (k : Nat) (f : Slot → Slot) (j : Nat) : (s.modSlot k f).core j = s.core j := rfl
@[simp] theorem State.modSlot_cluster (k : Nat) (f : Slot → Slot) (j : Nat) : (s.modSlot k f).cluster j = s.cluster j := rfl
@[simp] theorem State.modSlot_stack (k : Nat) (f : Slot → Slot) (j : Nat) : (s.modSlot k f).stack j = s.stack j := rfl
@[simp] theorem State.modSlot_part (k : Nat) (f : Slot → Slot) (j : Nat) : (s.modSlot k f).part j = s.part j := rfl
@[simp] theorem State.modSlot_client (k : Nat) (f : Slot → Slot) (j : Nat) : (s.modSlot k f).client j = s.client j := rfl

/-! ### reply -/

@[simp] theorem State.reply_pending (p : Path) (c : Nat) (d : List Byte) : (s.reply p c d).pending = s.pending := rfl
@[simp] theorem State.reply_now (p : Path) (c : Nat) (d : List Byte) : (s.reply p c d).now = s.now := rfl
@[simp] theorem State.reply_freeCtr (p : Path) (c : Nat) (d : List Byte) : (s.reply p c d).freeCtr = s.freeCtr := rfl
@[simp] theorem State.reply_dict (p : Path) (c : Nat) (d : List Byte) : (s.reply p c d).dict = s.dict := rfl
@[simp] theorem State.reply_blobs (p : Path) (c : Nat) (d : List Byte) : (s.reply p c d).blobs = s.blobs := rfl
@[simp] theorem State.reply_localCounts (p : Path) (c : Nat) (d : List Byte) : (s.reply p c d).localCounts = s.localCounts := rfl
@[simp] theorem State.reply_eventSeq (p : Path) (c : Nat) (d : List Byte) : (s.reply p c d).eventSeq = s.eventSeq := rfl
@[simp] theorem State.reply_eventGap (p : Path) (c : Nat) (d : List Byte) : (s.reply p c d).eventGap = s.eventGap := rfl
@[simp] theorem State.reply_cores (p : Path) (c : Nat) (d : List Byte) : (s.reply p c d).cores = s.cores := rfl
@[simp] theorem State.reply_clusters (p : Path) (c : Nat) (d : List Byte) : (s.reply p c d).clusters = s.clusters := rfl
@[simp] theorem State.reply_dram (p : Path) (c : Nat) (d : List Byte) : (s.reply p c d).dram = s.dram := rfl
@[simp] theorem State.reply_hbm (p : Path) (c : Nat) (d : List Byte) : (s.reply p c d).hbm = s.hbm := rfl
@[simp] theorem State.reply_parts (p : Path) (c : Nat) (d : List Byte) : (s.reply p c d).parts = s.parts := rfl
@[simp] theorem State.reply_clients (p : Path) (c : Nat) (d : List Byte) : (s.reply p c d).clients = s.clients := rfl
@[simp] theorem State.reply_slots (p : Path) (c : Nat) (d : List Byte) : (s.reply p c d).slots = s.slots := rfl
@[simp] theorem State.reply_loads (p : Path) (c : Nat) (d : List Byte) : (s.reply p c d).loads = s.loads := rfl
@[simp] theorem State.reply_tier (p : Path) (c : Nat) (d : List Byte) : (s.reply p c d).tier = s.tier := rfl
@[simp] theorem State.reply_fills (p : Path) (c : Nat) (d : List Byte) : (s.reply p c d).fills = s.fills := rfl
@[simp] theorem State.reply_exports (p : Path) (c : Nat) (d : List Byte) : (s.reply p c d).exports = s.exports := rfl
@[simp] theorem State.reply_coll (p : Path) (c : Nat) (d : List Byte) : (s.reply p c d).coll = s.coll := rfl
@[simp] theorem State.reply_links (p : Path) (c : Nat) (d : List Byte) : (s.reply p c d).links = s.links := rfl
@[simp] theorem State.reply_packets (p : Path) (c : Nat) (d : List Byte) : (s.reply p c d).packets = s.packets := rfl
@[simp] theorem State.reply_overlays (p : Path) (c : Nat) (d : List Byte) : (s.reply p c d).overlays = s.overlays := rfl
@[simp] theorem State.reply_stalled (p : Path) (c : Nat) (d : List Byte) : (s.reply p c d).stalled = s.stalled := rfl
@[simp] theorem State.reply_paths (p : Path) (c : Nat) (d : List Byte) : (s.reply p c d).paths = s.paths := rfl
@[simp] theorem State.reply_heldOps (p : Path) (c : Nat) (d : List Byte) : (s.reply p c d).heldOps = s.heldOps := rfl
@[simp] theorem State.reply_host (p : Path) (c : Nat) (d : List Byte) : (s.reply p c d).host = s.host := rfl
@[simp] theorem State.reply_power (p : Path) (c : Nat) (d : List Byte) : (s.reply p c d).power = s.power := rfl
@[simp] theorem State.reply_security (p : Path) (c : Nat) (d : List Byte) : (s.reply p c d).security = s.security := rfl
@[simp] theorem State.reply_time (p : Path) (c : Nat) (d : List Byte) : (s.reply p c d).time = s.time := rfl
@[simp] theorem State.reply_conductor (p : Path) (c : Nat) (d : List Byte) : (s.reply p c d).conductor = s.conductor := rfl
@[simp] theorem State.reply_channels (p : Path) (c : Nat) (d : List Byte) : (s.reply p c d).channels = s.channels := rfl
@[simp] theorem State.reply_pipeBefore (p : Path) (c : Nat) (d : List Byte) : (s.reply p c d).pipeBefore = s.pipeBefore := rfl
@[simp] theorem State.reply_pipeNext (p : Path) (c : Nat) (d : List Byte) : (s.reply p c d).pipeNext = s.pipeNext := rfl
@[simp] theorem State.reply_num (p : Path) (c : Nat) (d : List Byte) (o2 sub2 : Nat) : (s.reply p c d).num o2 sub2 = s.num o2 sub2 := rfl
@[simp] theorem State.reply_blob (p : Path) (c : Nat) (d : List Byte) (o2 sub2 : Nat) : (s.reply p c d).blob o2 sub2 = s.blob o2 sub2 := rfl
@[simp] theorem State.reply_core (p : Path) (c : Nat) (d : List Byte) (j : Nat) : (s.reply p c d).core j = s.core j := rfl
@[simp] theorem State.reply_cluster (p : Path) (c : Nat) (d : List Byte) (j : Nat) : (s.reply p c d).cluster j = s.cluster j := rfl
@[simp] theorem State.reply_stack (p : Path) (c : Nat) (d : List Byte) (j : Nat) : (s.reply p c d).stack j = s.stack j := rfl
@[simp] theorem State.reply_part (p : Path) (c : Nat) (d : List Byte) (j : Nat) : (s.reply p c d).part j = s.part j := rfl
@[simp] theorem State.reply_client (p : Path) (c : Nat) (d : List Byte) (j : Nat) : (s.reply p c d).client j = s.client j := rfl
@[simp] theorem State.reply_slot (p : Path) (c : Nat) (d : List Byte) (j : Nat) : (s.reply p c d).slot j = s.slot j := rfl

/-! ### count -/

@[simp] theorem State.count_pending (o sub n : Nat) : (s.count o sub n).pending = s.pending := by unfold State.count; split <;> rfl
@[simp] theorem State.count_now (o sub n : Nat) : (s.count o sub n).now = s.now := by unfold State.count; split <;> rfl
@[simp] theorem State.count_freeCtr (o sub n : Nat) : (s.count o sub n).freeCtr = s.freeCtr := by unfold State.count; split <;> rfl
@[simp] theorem State.count_out (o sub n : Nat) : (s.count o sub n).out = s.out := by unfold State.count; split <;> rfl
@[simp] theorem State.count_dict (o sub n : Nat) : (s.count o sub n).dict = s.dict := by unfold State.count; split <;> rfl
@[simp] theorem State.count_blobs (o sub n : Nat) : (s.count o sub n).blobs = s.blobs := by unfold State.count; split <;> rfl
@[simp] theorem State.count_eventSeq (o sub n : Nat) : (s.count o sub n).eventSeq = s.eventSeq := by unfold State.count; split <;> rfl
@[simp] theorem State.count_eventGap (o sub n : Nat) : (s.count o sub n).eventGap = s.eventGap := by unfold State.count; split <;> rfl
@[simp] theorem State.count_cores (o sub n : Nat) : (s.count o sub n).cores = s.cores := by unfold State.count; split <;> rfl
@[simp] theorem State.count_clusters (o sub n : Nat) : (s.count o sub n).clusters = s.clusters := by unfold State.count; split <;> rfl
@[simp] theorem State.count_dram (o sub n : Nat) : (s.count o sub n).dram = s.dram := by unfold State.count; split <;> rfl
@[simp] theorem State.count_hbm (o sub n : Nat) : (s.count o sub n).hbm = s.hbm := by unfold State.count; split <;> rfl
@[simp] theorem State.count_parts (o sub n : Nat) : (s.count o sub n).parts = s.parts := by unfold State.count; split <;> rfl
@[simp] theorem State.count_clients (o sub n : Nat) : (s.count o sub n).clients = s.clients := by unfold State.count; split <;> rfl
@[simp] theorem State.count_slots (o sub n : Nat) : (s.count o sub n).slots = s.slots := by unfold State.count; split <;> rfl
@[simp] theorem State.count_loads (o sub n : Nat) : (s.count o sub n).loads = s.loads := by unfold State.count; split <;> rfl
@[simp] theorem State.count_tier (o sub n : Nat) : (s.count o sub n).tier = s.tier := by unfold State.count; split <;> rfl
@[simp] theorem State.count_fills (o sub n : Nat) : (s.count o sub n).fills = s.fills := by unfold State.count; split <;> rfl
@[simp] theorem State.count_exports (o sub n : Nat) : (s.count o sub n).exports = s.exports := by unfold State.count; split <;> rfl
@[simp] theorem State.count_coll (o sub n : Nat) : (s.count o sub n).coll = s.coll := by unfold State.count; split <;> rfl
@[simp] theorem State.count_links (o sub n : Nat) : (s.count o sub n).links = s.links := by unfold State.count; split <;> rfl
@[simp] theorem State.count_packets (o sub n : Nat) : (s.count o sub n).packets = s.packets := by unfold State.count; split <;> rfl
@[simp] theorem State.count_overlays (o sub n : Nat) : (s.count o sub n).overlays = s.overlays := by unfold State.count; split <;> rfl
@[simp] theorem State.count_stalled (o sub n : Nat) : (s.count o sub n).stalled = s.stalled := by unfold State.count; split <;> rfl
@[simp] theorem State.count_paths (o sub n : Nat) : (s.count o sub n).paths = s.paths := by unfold State.count; split <;> rfl
@[simp] theorem State.count_heldOps (o sub n : Nat) : (s.count o sub n).heldOps = s.heldOps := by unfold State.count; split <;> rfl
@[simp] theorem State.count_host (o sub n : Nat) : (s.count o sub n).host = s.host := by unfold State.count; split <;> rfl
@[simp] theorem State.count_power (o sub n : Nat) : (s.count o sub n).power = s.power := by unfold State.count; split <;> rfl
@[simp] theorem State.count_security (o sub n : Nat) : (s.count o sub n).security = s.security := by unfold State.count; split <;> rfl
@[simp] theorem State.count_time (o sub n : Nat) : (s.count o sub n).time = s.time := by unfold State.count; split <;> rfl
@[simp] theorem State.count_conductor (o sub n : Nat) : (s.count o sub n).conductor = s.conductor := by unfold State.count; split <;> rfl
@[simp] theorem State.count_channels (o sub n : Nat) : (s.count o sub n).channels = s.channels := by unfold State.count; split <;> rfl
@[simp] theorem State.count_pipeBefore (o sub n : Nat) : (s.count o sub n).pipeBefore = s.pipeBefore := by unfold State.count; split <;> rfl
@[simp] theorem State.count_pipeNext (o sub n : Nat) : (s.count o sub n).pipeNext = s.pipeNext := by unfold State.count; split <;> rfl
@[simp] theorem State.count_num (o sub n : Nat) (o2 sub2 : Nat) : (s.count o sub n).num o2 sub2 = s.num o2 sub2 := by
  unfold State.count; split <;> rfl
@[simp] theorem State.count_blob (o sub n : Nat) (o2 sub2 : Nat) : (s.count o sub n).blob o2 sub2 = s.blob o2 sub2 := by
  unfold State.count; split <;> rfl
@[simp] theorem State.count_core (o sub n : Nat) (j : Nat) : (s.count o sub n).core j = s.core j := by
  unfold State.count; split <;> rfl
@[simp] theorem State.count_cluster (o sub n : Nat) (j : Nat) : (s.count o sub n).cluster j = s.cluster j := by
  unfold State.count; split <;> rfl
@[simp] theorem State.count_stack (o sub n : Nat) (j : Nat) : (s.count o sub n).stack j = s.stack j := by
  unfold State.count; split <;> rfl
@[simp] theorem State.count_part (o sub n : Nat) (j : Nat) : (s.count o sub n).part j = s.part j := by
  unfold State.count; split <;> rfl
@[simp] theorem State.count_client (o sub n : Nat) (j : Nat) : (s.count o sub n).client j = s.client j := by
  unfold State.count; split <;> rfl
@[simp] theorem State.count_slot (o sub n : Nat) (j : Nat) : (s.count o sub n).slot j = s.slot j := by
  unfold State.count; split <;> rfl

/-! ### xwNote -/

@[simp] theorem State.xwNote_pending (p : Path) (o sub op len piece code : Nat) (d : List Byte) :
    (s.xwNote p o sub op len piece code d).pending = s.pending := by cases p <;> rfl
@[simp] theorem State.xwNote_now (p : Path) (o sub op len piece code : Nat) (d : List Byte) :
    (s.xwNote p o sub op len piece code d).now = s.now := by cases p <;> rfl
@[simp] theorem State.xwNote_freeCtr (p : Path) (o sub op len piece code : Nat) (d : List Byte) :
    (s.xwNote p o sub op len piece code d).freeCtr = s.freeCtr := by cases p <;> rfl
@[simp] theorem State.xwNote_out (p : Path) (o sub op len piece code : Nat) (d : List Byte) :
    (s.xwNote p o sub op len piece code d).out = s.out := by cases p <;> rfl
@[simp] theorem State.xwNote_dict (p : Path) (o sub op len piece code : Nat) (d : List Byte) :
    (s.xwNote p o sub op len piece code d).dict = s.dict := by cases p <;> rfl
@[simp] theorem State.xwNote_blobs (p : Path) (o sub op len piece code : Nat) (d : List Byte) :
    (s.xwNote p o sub op len piece code d).blobs = s.blobs := by cases p <;> rfl
@[simp] theorem State.xwNote_localCounts (p : Path) (o sub op len piece code : Nat) (d : List Byte) :
    (s.xwNote p o sub op len piece code d).localCounts = s.localCounts := by cases p <;> rfl
@[simp] theorem State.xwNote_eventSeq (p : Path) (o sub op len piece code : Nat) (d : List Byte) :
    (s.xwNote p o sub op len piece code d).eventSeq = s.eventSeq := by cases p <;> rfl
@[simp] theorem State.xwNote_eventGap (p : Path) (o sub op len piece code : Nat) (d : List Byte) :
    (s.xwNote p o sub op len piece code d).eventGap = s.eventGap := by cases p <;> rfl
@[simp] theorem State.xwNote_cores (p : Path) (o sub op len piece code : Nat) (d : List Byte) :
    (s.xwNote p o sub op len piece code d).cores = s.cores := by cases p <;> rfl
@[simp] theorem State.xwNote_clusters (p : Path) (o sub op len piece code : Nat) (d : List Byte) :
    (s.xwNote p o sub op len piece code d).clusters = s.clusters := by cases p <;> rfl
@[simp] theorem State.xwNote_dram (p : Path) (o sub op len piece code : Nat) (d : List Byte) :
    (s.xwNote p o sub op len piece code d).dram = s.dram := by cases p <;> rfl
@[simp] theorem State.xwNote_hbm (p : Path) (o sub op len piece code : Nat) (d : List Byte) :
    (s.xwNote p o sub op len piece code d).hbm = s.hbm := by cases p <;> rfl
@[simp] theorem State.xwNote_parts (p : Path) (o sub op len piece code : Nat) (d : List Byte) :
    (s.xwNote p o sub op len piece code d).parts = s.parts := by cases p <;> rfl
@[simp] theorem State.xwNote_clients (p : Path) (o sub op len piece code : Nat) (d : List Byte) :
    (s.xwNote p o sub op len piece code d).clients = s.clients := by cases p <;> rfl
@[simp] theorem State.xwNote_slots (p : Path) (o sub op len piece code : Nat) (d : List Byte) :
    (s.xwNote p o sub op len piece code d).slots = s.slots := by cases p <;> rfl
@[simp] theorem State.xwNote_loads (p : Path) (o sub op len piece code : Nat) (d : List Byte) :
    (s.xwNote p o sub op len piece code d).loads = s.loads := by cases p <;> rfl
@[simp] theorem State.xwNote_tier (p : Path) (o sub op len piece code : Nat) (d : List Byte) :
    (s.xwNote p o sub op len piece code d).tier = s.tier := by cases p <;> rfl
@[simp] theorem State.xwNote_fills (p : Path) (o sub op len piece code : Nat) (d : List Byte) :
    (s.xwNote p o sub op len piece code d).fills = s.fills := by cases p <;> rfl
@[simp] theorem State.xwNote_exports (p : Path) (o sub op len piece code : Nat) (d : List Byte) :
    (s.xwNote p o sub op len piece code d).exports = s.exports := by cases p <;> rfl
@[simp] theorem State.xwNote_coll (p : Path) (o sub op len piece code : Nat) (d : List Byte) :
    (s.xwNote p o sub op len piece code d).coll = s.coll := by cases p <;> rfl
@[simp] theorem State.xwNote_links (p : Path) (o sub op len piece code : Nat) (d : List Byte) :
    (s.xwNote p o sub op len piece code d).links = s.links := by cases p <;> rfl
@[simp] theorem State.xwNote_packets (p : Path) (o sub op len piece code : Nat) (d : List Byte) :
    (s.xwNote p o sub op len piece code d).packets = s.packets := by cases p <;> rfl
@[simp] theorem State.xwNote_overlays (p : Path) (o sub op len piece code : Nat) (d : List Byte) :
    (s.xwNote p o sub op len piece code d).overlays = s.overlays := by cases p <;> rfl
@[simp] theorem State.xwNote_stalled (p : Path) (o sub op len piece code : Nat) (d : List Byte) :
    (s.xwNote p o sub op len piece code d).stalled = s.stalled := by cases p <;> rfl
@[simp] theorem State.xwNote_paths (p : Path) (o sub op len piece code : Nat) (d : List Byte) :
    (s.xwNote p o sub op len piece code d).paths = s.paths := by cases p <;> rfl
@[simp] theorem State.xwNote_heldOps (p : Path) (o sub op len piece code : Nat) (d : List Byte) :
    (s.xwNote p o sub op len piece code d).heldOps = s.heldOps := by cases p <;> rfl
@[simp] theorem State.xwNote_power (p : Path) (o sub op len piece code : Nat) (d : List Byte) :
    (s.xwNote p o sub op len piece code d).power = s.power := by cases p <;> rfl
@[simp] theorem State.xwNote_security (p : Path) (o sub op len piece code : Nat) (d : List Byte) :
    (s.xwNote p o sub op len piece code d).security = s.security := by cases p <;> rfl
@[simp] theorem State.xwNote_time (p : Path) (o sub op len piece code : Nat) (d : List Byte) :
    (s.xwNote p o sub op len piece code d).time = s.time := by cases p <;> rfl
@[simp] theorem State.xwNote_conductor (p : Path) (o sub op len piece code : Nat) (d : List Byte) :
    (s.xwNote p o sub op len piece code d).conductor = s.conductor := by cases p <;> rfl
@[simp] theorem State.xwNote_channels (p : Path) (o sub op len piece code : Nat) (d : List Byte) :
    (s.xwNote p o sub op len piece code d).channels = s.channels := by cases p <;> rfl
@[simp] theorem State.xwNote_pipeBefore (p : Path) (o sub op len piece code : Nat) (d : List Byte) :
    (s.xwNote p o sub op len piece code d).pipeBefore = s.pipeBefore := by cases p <;> rfl
@[simp] theorem State.xwNote_pipeNext (p : Path) (o sub op len piece code : Nat) (d : List Byte) :
    (s.xwNote p o sub op len piece code d).pipeNext = s.pipeNext := by cases p <;> rfl
@[simp] theorem State.xwNote_num (p : Path) (o sub op len piece code : Nat) (d : List Byte) (o2 sub2 : Nat) :
    (s.xwNote p o sub op len piece code d).num o2 sub2 = s.num o2 sub2 := by cases p <;> rfl
@[simp] theorem State.xwNote_blob (p : Path) (o sub op len piece code : Nat) (d : List Byte) (o2 sub2 : Nat) :
    (s.xwNote p o sub op len piece code d).blob o2 sub2 = s.blob o2 sub2 := by cases p <;> rfl
@[simp] theorem State.xwNote_core (p : Path) (o sub op len piece code : Nat) (d : List Byte) (j : Nat) :
    (s.xwNote p o sub op len piece code d).core j = s.core j := by cases p <;> rfl
@[simp] theorem State.xwNote_cluster (p : Path) (o sub op len piece code : Nat) (d : List Byte) (j : Nat) :
    (s.xwNote p o sub op len piece code d).cluster j = s.cluster j := by cases p <;> rfl
@[simp] theorem State.xwNote_stack (p : Path) (o sub op len piece code : Nat) (d : List Byte) (j : Nat) :
    (s.xwNote p o sub op len piece code d).stack j = s.stack j := by cases p <;> rfl
@[simp] theorem State.xwNote_part (p : Path) (o sub op len piece code : Nat) (d : List Byte) (j : Nat) :
    (s.xwNote p o sub op len piece code d).part j = s.part j := by cases p <;> rfl
@[simp] theorem State.xwNote_client (p : Path) (o sub op len piece code : Nat) (d : List Byte) (j : Nat) :
    (s.xwNote p o sub op len piece code d).client j = s.client j := by cases p <;> rfl
@[simp] theorem State.xwNote_slot (p : Path) (o sub op len piece code : Nat) (d : List Byte) (j : Nat) :
    (s.xwNote p o sub op len piece code d).slot j = s.slot j := by cases p <;> rfl

/-! ### Reading what was written -/

/-- A dictionary value after a write: the value at the object written, every other as before. -/
theorem State.num_setNum (o sub v o2 sub2 : Nat) :
    (s.setNum o sub v).num o2 sub2 = if objKey o2 sub2 = objKey o sub then v else s.num o2 sub2 := by
  unfold State.num State.setNum
  simp only [tabGet_tabSet]
  split
  · rename_i h
    rw [h]
    split
    · simp_all
    · rfl
  · rfl

@[simp] theorem State.num_setNum_same (o sub v : Nat) : (s.setNum o sub v).num o sub = v := by simp [State.num_setNum]

theorem State.num_setNum_ne {o sub o2 sub2 : Nat} (v : Nat) (h : objKey o2 sub2 ≠ objKey o sub) :
    (s.setNum o sub v).num o2 sub2 = s.num o2 sub2 := by simp [State.num_setNum, h]

theorem State.num_bump (o sub n o2 sub2 : Nat) :
    (s.bump o sub n).num o2 sub2 = if objKey o2 sub2 = objKey o sub then (s.num o sub + n) % 2 ^ 64 else s.num o2 sub2 :=
  State.num_setNum ..

theorem State.blob_setBlob (o sub : Nat) (b : List Byte) (o2 sub2 : Nat) :
    (s.setBlob o sub b).blob o2 sub2 = if objKey o2 sub2 = objKey o sub then b else s.blob o2 sub2 := tabGet_tabSet ..

@[simp] theorem State.emit_out (x : Output) : (s.emit x).out = s.out ++ [x] := rfl
@[simp] theorem State.emits_out (x : List Output) : (s.emits x).out = s.out ++ x := rfl
@[simp] theorem State.reply_out (p : Path) (c : Nat) (d : List Byte) :
    (s.reply p c d).out = s.out ++ [.response p.num c d] := rfl

theorem State.core_setCore (k j : Nat) (c : Core) :
    (s.setCore k c).core j = if j = k then c else s.core j := tabGet_tabSet ..

theorem State.core_modCore (k j : Nat) (f : Core → Core) :
    (s.modCore k f).core j = if j = k then f (s.core k) else s.core j := tabGet_tabSet ..

@[simp] theorem State.core_setCore_same (k : Nat) (c : Core) : (s.setCore k c).core k = c := tabGet_tabSet_same ..

@[simp] theorem State.core_modCore_same (k : Nat) (f : Core → Core) : (s.modCore k f).core k = f (s.core k) :=
  tabGet_tabSet_same ..

theorem State.cluster_setCluster (k j : Nat) (c : Cluster) :
    (s.setCluster k c).cluster j = if j = k then c else s.cluster j := tabGet_tabSet ..

theorem State.cluster_modCluster (k j : Nat) (f : Cluster → Cluster) :
    (s.modCluster k f).cluster j = if j = k then f (s.cluster k) else s.cluster j := tabGet_tabSet ..

@[simp] theorem State.cluster_setCluster_same (k : Nat) (c : Cluster) : (s.setCluster k c).cluster k = c := tabGet_tabSet_same ..

@[simp] theorem State.cluster_modCluster_same (k : Nat) (f : Cluster → Cluster) : (s.modCluster k f).cluster k = f (s.cluster k) :=
  tabGet_tabSet_same ..

theorem State.stack_setStack (k j : Nat) (c : Stack) :
    (s.setStack k c).stack j = if j = k then c else s.stack j := tabGet_tabSet ..

theorem State.stack_modStack (k j : Nat) (f : Stack → Stack) :
    (s.modStack k f).stack j = if j = k then f (s.stack k) else s.stack j := tabGet_tabSet ..

@[simp] theorem State.stack_setStack_same (k : Nat) (c : Stack) : (s.setStack k c).stack k = c := tabGet_tabSet_same ..

@[simp] theorem State.stack_modStack_same (k : Nat) (f : Stack → Stack) : (s.modStack k f).stack k = f (s.stack k) :=
  tabGet_tabSet_same ..

theorem State.part_setPart (k j : Nat) (c : Part) :
    (s.setPart k c).part j = if j = k then c else s.part j := tabGet_tabSet ..

theorem State.part_modPart (k j : Nat) (f : Part → Part) :
    (s.modPart k f).part j = if j = k then f (s.part k) else s.part j := tabGet_tabSet ..

@[simp] theorem State.part_setPart_same (k : Nat) (c : Part) : (s.setPart k c).part k = c := tabGet_tabSet_same ..

@[simp] theorem State.part_modPart_same (k : Nat) (f : Part → Part) : (s.modPart k f).part k = f (s.part k) :=
  tabGet_tabSet_same ..

theorem State.client_setClient (k j : Nat) (c : Client) :
    (s.setClient k c).client j = if j = k then c else s.client j := tabGet_tabSet ..

theorem State.client_modClient (k j : Nat) (f : Client → Client) :
    (s.modClient k f).client j = if j = k then f (s.client k) else s.client j := tabGet_tabSet ..

@[simp] theorem State.client_setClient_same (k : Nat) (c : Client) : (s.setClient k c).client k = c := tabGet_tabSet_same ..

@[simp] theorem State.client_modClient_same (k : Nat) (f : Client → Client) : (s.modClient k f).client k = f (s.client k) :=
  tabGet_tabSet_same ..

theorem State.slot_setSlot (k j : Nat) (c : Slot) :
    (s.setSlot k c).slot j = if j = k then c else s.slot j := tabGet_tabSet ..

theorem State.slot_modSlot (k j : Nat) (f : Slot → Slot) :
    (s.modSlot k f).slot j = if j = k then f (s.slot k) else s.slot j := tabGet_tabSet ..

@[simp] theorem State.slot_setSlot_same (k : Nat) (c : Slot) : (s.setSlot k c).slot k = c := tabGet_tabSet_same ..

@[simp] theorem State.slot_modSlot_same (k : Nat) (f : Slot → Slot) : (s.modSlot k f).slot k = f (s.slot k) :=
  tabGet_tabSet_same ..

end Sys2Proof.Machine
end

