-- ==== Sys2Proof/Laws/Issue.lean ====
section
/-! SUPPORT. What the shared operation of every engine instruction does: bookkeeping (filmstrips, breakpoints, counters)
touches no memory, token or unit, and an issue that meets its conditions leaves what `Issued` says. -/

namespace Sys2Proof.Machine

/-- `t` follows `s` by bookkeeping only: filmstrips, breakpoint and trace objects, counters, a core's freeze. -/
structure Bookkept (s t : State) : Prop where
  core : ∀ j, ∃ f b n, t.core j = { s.core j with film := f, frozen := b, frozenAt := n }
  rest : t = { s with dict := t.dict, localCounts := t.localCounts, cores := t.cores, hbm := t.hbm }

theorem Bookkept.refl (s : State) : Bookkept s s := ⟨fun _ => ⟨_, _, _, rfl⟩, rfl⟩

theorem Bookkept.trans {s t r : State} (h : Bookkept s t) (g : Bookkept t r) : Bookkept s r := by
  refine ⟨fun j => ?_, ?_⟩
  · obtain ⟨f, b, n, hs⟩ := h.core j
    obtain ⟨f', b', n', hr⟩ := g.core j
    exact ⟨f', b', n', by rw [hr, hs]⟩
  · rw [g.rest, h.rest]

theorem Bookkept.setNum (s : State) (o sub v : Nat) : Bookkept s (s.setNum o sub v) :=
  ⟨fun _ => ⟨_, _, _, rfl⟩, rfl⟩

theorem Bookkept.count (s : State) (o sub n : Nat) : Bookkept s (s.count o sub n) := by
  unfold State.count; split
  · exact .refl s
  · exact ⟨fun _ => ⟨_, _, _, rfl⟩, rfl⟩

theorem Bookkept.modStack (s : State) (k : Nat) (f : Stack → Stack) : Bookkept s (s.modStack k f) :=
  ⟨fun _ => ⟨_, _, _, rfl⟩, rfl⟩

theorem Bookkept.modCore (s : State) (k : Nat) (f : Core → Core)
    (hf : ∀ c, ∃ x b n, f c = { c with film := x, frozen := b, frozenAt := n }) : Bookkept s (s.modCore k f) := by
  refine ⟨fun j => ?_, rfl⟩
  rw [State.core_modCore]
  split
  · subst_vars; exact hf _
  · exact ⟨_, _, _, rfl⟩

theorem Bookkept.setFilm (s : State) (f : Nat) (v : Film) : Bookkept s (s.setFilm f v) := by
  unfold State.setFilm; split
  · exact .modCore _ _ _ fun c => ⟨_, _, _, rfl⟩
  · exact .modStack ..

theorem Bookkept.forEach {α : Type} (f : State → α → State) (hf : ∀ s x, Bookkept s (f s x)) (l : List α) :
    ∀ s : State, Bookkept s (s.forEach l f) := by
  induction l with
  | nil => exact fun s => .refl s
  | cons x l ih => exact fun s => (hf s x).trans (ih _)

theorem Bookkept.traceSettle (s : State) (p : Nat) : Bookkept s (s.traceSettle p) := by
  unfold State.traceSettle; dsimp only
  repeat' split
  all_goals first | exact .refl s | exact .setNum ..

theorem Bookkept.filmPut (s : State) (p f : Nat) (w : BitVec 128) : Bookkept s (s.filmPut p f w) := by
  unfold State.filmPut; dsimp only
  split
  · exact (Bookkept.setFilm ..).trans (.setNum ..)
  · exact (Bookkept.setFilm ..).trans (.traceSettle ..)
  · exact .refl s

theorem Bookkept.trace (s : State) (f ts kind unit payload : Nat) : Bookkept s (s.trace f ts kind unit payload) := by
  unfold State.trace State.traceAt
  repeat' split
  all_goals first | exact .refl s | exact .filmPut ..

theorem Bookkept.traceCore (s : State) (pc t kind unit payload : Nat) : Bookkept s (s.traceCore pc t kind unit payload) :=
  .trace ..

theorem Bookkept.filmTrigger (s : State) (p f cause : Nat) : Bookkept s (s.filmTrigger p f cause) := by
  unfold State.filmTrigger; dsimp only
  split
  · exact .refl s
  · exact (Bookkept.setFilm ..).trans (.setNum ..)

theorem Bookkept.trigger (s : State) (p cause : Nat) : Bookkept s (s.trigger p cause) := by
  unfold State.trigger
  split
  · exact (Bookkept.forEach _ (fun t f => .filmTrigger t p f cause) _ s).trans (.setNum ..)
  · exact .refl s

theorem Bookkept.freeze (s : State) (c pc n u idx : Nat) : Bookkept s (s.freeze c pc n u idx) := by
  unfold State.freeze; dsimp only
  have h : Bookkept s _ := (Bookkept.traceCore s pc (s.core pc).ac 0x0B 0xF (n * 2 ^ 76 + u * 2 ^ 73 + idx * 2 ^ 60)).trans
    ((Bookkept.modCore _ pc (fun k => { k with frozen := true, frozenAt := k.ac }) fun c => ⟨c.film, true, _, rfl⟩).trans
    ((Bookkept.setNum _ (bpObj c) 0x0D 1).trans (.setNum _ (bpObj c) 0x0E n)))
  split
  · exact h.trans (.trigger ..)
  · exact h

theorem Bookkept.tokenBp (s : State) (c pc k old new : Nat) (sig : Bool) :
    Bookkept s (s.tokenBp c pc k old new sig) := by
  unfold State.tokenBp
  repeat' split
  all_goals first | exact .refl s | exact .freeze ..

theorem Bookkept.issueCounts (s : State) (pc u occ next tok t : Nat) :
    Bookkept s (s.issueCounts pc u occ next tok t) :=
  (((Bookkept.count ..).trans (.count ..)).trans (.count ..)).trans (.count ..)

/-! ### Tokens and units -/

@[simp] theorem Seqr.token_setToken (q : Seqr) (k j : Nat) (v : Token) :
    (q.setToken k v).token j = if j = k then v else q.token j := tabGet_tabSet ..
@[simp] theorem Seqr.unit_setUnit (q : Seqr) (k j : Nat) (v : UnitSt) :
    (q.setUnit k v).unit j = if j = k then v else q.unit j := tabGet_tabSet ..
@[simp] theorem Seqr.unit_setToken (q : Seqr) (k j : Nat) (v : Token) : (q.setToken k v).unit j = q.unit j := rfl
@[simp] theorem Seqr.token_setUnit (q : Seqr) (k j : Nat) (v : UnitSt) : (q.setUnit k v).token j = q.token j := rfl
@[simp] theorem Seqr.prog_setToken (q : Seqr) (k : Nat) (v : Token) : (q.setToken k v).prog = q.prog := rfl
@[simp] theorem Seqr.prog_setUnit (q : Seqr) (k : Nat) (v : UnitSt) : (q.setUnit k v).prog = q.prog := rfl
@[simp] theorem Seqr.flights_setToken (q : Seqr) (k : Nat) (v : Token) : (q.setToken k v).flights = q.flights := rfl
@[simp] theorem Seqr.flights_setUnit (q : Seqr) (k : Nat) (v : UnitSt) : (q.setUnit k v).flights = q.flights := rfl

/-- `t` follows `s` by signals worth `n k` on the tokens `k` of core `pc`, and bookkeeping. -/
structure Signalled (s t : State) (pc : Nat) (n : Nat → Nat) : Prop where
  tokens : ∀ k, ((t.core pc).sq.token k).count = ((s.core pc).sq.token k).count + n k
  sq : (t.core pc).sq = { (s.core pc).sq with tokens := (t.core pc).sq.tokens, late := (t.core pc).sq.late }
  core : ∀ j, ∃ q f b m x, t.core j = { s.core j with sq := q, film := f, frozen := b, frozenAt := m, ac := x }
  buf : ∀ k, (t.cluster k).buf = (s.cluster k).buf
  rest : t = { s with dict := t.dict, localCounts := t.localCounts, cores := t.cores, clusters := t.clusters, hbm := t.hbm }

theorem Bookkept.signalled {s t : State} (h : Bookkept s t) (pc : Nat) : Signalled s t pc fun _ => 0 := by
  have hq : (t.core pc).sq = (s.core pc).sq := by obtain ⟨f, b, n, e⟩ := h.core pc; rw [e]
  refine ⟨fun k => by rw [hq]; rfl, by rw [hq], fun j => ?_, fun k => ?_, ?_⟩
  · obtain ⟨f, b, n, e⟩ := h.core j; exact ⟨_, f, b, n, _, e⟩
  · have := congrArg State.clusters h.rest
    unfold State.cluster; rw [this]
  · have h2 := congrArg State.clusters h.rest
    dsimp only at h2
    rw [h2]; exact h.rest

theorem Signalled.trans {s t r : State} {pc : Nat} {m n : Nat → Nat} (h : Signalled s t pc m)
    (g : Signalled t r pc n) : Signalled s r pc fun k => m k + n k := by
  refine ⟨fun k => by rw [g.tokens, h.tokens]; omega, ?_, fun j => ?_, fun k => (g.buf k).trans (h.buf k), ?_⟩
  · rw [g.sq, h.sq]
  · obtain ⟨q, f, b, x, y, e⟩ := h.core j
    obtain ⟨q', f', b', x', y', e'⟩ := g.core j
    exact ⟨q', f', b', x', y', by rw [e', e]⟩
  · rw [g.rest, h.rest]

/-- A store without errors reads clean. -/
theorem State.storeRead_sound (s : State) (p pc u : Nat) (ws : List Nat) : s.storeRead p pc u [] ws = (s, true) := rfl

theorem State.tokenRead_sound (s : State) (p pc u k : Nat) (h : (s.core pc).tokErrs = []) : s.tokenRead p pc u k = (s, true) := by
  unfold State.tokenRead; rw [h]; rfl

/-- Nothing a sound core issues meets an unusable word. -/
theorem State.issueReads_sound (s : State) (a : Act) (i : Engine) (h : (s.core a.pc).sq.prog.errs = [])
    (ht : (s.core a.pc).tokErrs = []) : s.issueReads a i = (s, true) := by
  unfold State.issueReads
  simp only [h, State.storeRead_sound, State.tokenRead_sound s a.p a.pc a.u _ ht]
  split <;> rfl

/-- A signal that does not take the token above 65,535 (R124). -/
theorem State.signal_spec (s : State) (p c pc u k inc t vis : Nat)
    (h : ((s.core pc).sq.token k).count + inc ≤ 65535) (he : (s.core pc).tokErrs = []) :
    Signalled s (s.signal p c pc u k inc t vis) pc fun j => if j = k then inc else 0 := by
  have hr : ((s.core pc).sq.token k).raised ((s.core pc).sq.held k t) inc vis =
      some ⟨((s.core pc).sq.token k).count + inc, ((s.core pc).sq.token k).pend ++ [(vis, inc)]⟩ := by
    unfold Token.raised; rw [if_neg (by omega)]
  unfold State.signal
  rw [State.tokenRead_sound s p pc u k he]
  simp only [hr, Bool.not_true, Bool.false_eq_true, if_false]
  have h1 : Signalled s (s.modCore pc fun x => { x with
      sq := x.sq.setToken k ⟨((s.core pc).sq.token k).count + inc, ((s.core pc).sq.token k).pend ++ [(vis, inc)]⟩
      ac := max x.ac t }) pc fun j => if j = k then inc else 0 := by
    refine ⟨fun j => ?_, ?_, fun j => ?_, fun _ => rfl, rfl⟩
    · rw [State.core_modCore_same]; simp only [Seqr.token_setToken]; split <;> simp_all
    · rw [State.core_modCore_same]; rfl
    · rw [State.core_modCore]; split
      · subst_vars; exact ⟨_, _, _, _, _, rfl⟩
      · exact ⟨_, _, _, _, _, rfl⟩
  have h2 := h1.trans (((Bookkept.traceCore _ pc t 0x03 u (k * 2 ^ 74 + inc * 2 ^ 66 +
    (((s.core pc).sq.token k).count + inc) % 65536 * 2 ^ 50)).trans
    (.tokenBp _ c pc k ((s.core pc).sq.token k).count (((s.core pc).sq.token k).count + inc) true)).signalled pc)
  simpa using h2

theorem State.headerSignal_spec (s : State) (p c pc u : Nat) (g : Signal) (t : Nat)
    (h : ((s.core pc).sq.token g.token.toNat).count + g.inc.toNat ≤ 65535 ∨ g.remote = 1) (he : (s.core pc).tokErrs = []) :
    Signalled s (s.headerSignal p c pc u g t) pc fun j => if g.remote = 0 ∧ g.token.toNat = j then g.inc.toNat else 0 := by
  unfold State.headerSignal
  have r01 : g.remote = 0 ∨ g.remote = 1 := by
    have : ∀ x : BitVec 1, x = 0 ∨ x = 1 := by decide
    exact this _
  split
  · rename_i h0
    have : (fun j => if g.remote = 0 ∧ g.token.toNat = j then g.inc.toNat else 0) = fun _ => 0 := by
      funext j; simp [h0]
    rw [this]; exact (Bookkept.refl s).signalled pc
  · split
    · rename_i h1
      have : (fun j => if g.remote = 0 ∧ g.token.toNat = j then g.inc.toNat else 0) = fun _ => 0 := by
        funext j; simp [h1]
      rw [this]
      refine (show Signalled s _ pc fun _ => 0 + 0 from ((Bookkept.traceCore s pc t 0x03 u (g.token.toNat * 2 ^ 74 +
        g.inc.toNat * 2 ^ 66 + 2 ^ 49 + g.core.toNat * 2 ^ 46)).signalled pc).trans ⟨?_, ?_, ?_, ?_, ?_⟩)
      · intro k; rfl
      · rfl
      · intro j; exact ⟨_, _, _, _, _, rfl⟩
      · intro k; rw [State.cluster_modCluster]; split <;> simp_all
      · rfl
    · rename_i h1
      have h0 : g.remote = 0 := by tauto
      have := s.signal_spec p c pc u g.token.toNat g.inc.toNat t (t + 1) (by tauto) he
      simpa [h0, eq_comm] using this

theorem addedTo_cons (k : Nat) (g : Signal) (l : List Signal) :
    addedTo k (g :: l) = (if g.remote = 0 ∧ g.token.toNat = k then g.inc.toNat else 0) + addedTo k l := by
  unfold addedTo
  by_cases h : g.remote = 0 ∧ g.token.toNat = k
  · simp [h]
  · rw [if_neg h, List.filter_cons_of_neg (by simpa using h)]; simp

theorem addedTo_append (k : Nat) (l m : List Signal) : addedTo k (l ++ m) = addedTo k l + addedTo k m := by
  unfold addedTo; simp

/-- Header signals made one after another. -/
theorem State.signals_spec (p c pc u t : Nat) (l : List Signal) : ∀ s : State,
    (∀ k, ((s.core pc).sq.token k).count + addedTo k l ≤ 65535) → (s.core pc).tokErrs = [] →
    Signalled s (s.forEach l fun s g => s.headerSignal p c pc u g t) pc fun k => addedTo k l := by
  induction l with
  | nil => intro s _ _; exact (Bookkept.refl s).signalled pc
  | cons g l ih =>
    intro s h he
    have h1 := s.headerSignal_spec p c pc u g t (by
      have := h g.token.toNat
      rw [addedTo_cons] at this
      have r01 : g.remote = 0 ∨ g.remote = 1 := by
        have : ∀ x : BitVec 1, x = 0 ∨ x = 1 := by decide
        exact this _
      rcases r01 with r | r
      · left; simp [r] at this; omega
      · exact .inr r) he
    have h2 := h1.trans (ih _ (fun k => by
      have := h k
      rw [addedTo_cons] at this
      rw [h1.tokens]; omega) (by obtain ⟨_, _, _, _, _, e⟩ := h1.core pc; rw [e]; exact he))
    simp only [addedTo_cons]
    exact h2

/-- A release signal raises its token's count at once, though it is made, and judged, later. -/
theorem State.releaseSignal_spec (s : State) (a : Act) (g : Signal) (t : Nat)
    (h : ((s.core a.pc).sq.token g.token.toNat).count + g.inc.toNat ≤ 65535 ∨ g.remote = 1) (he : (s.core a.pc).tokErrs = []) :
    Signalled s (s.releaseSignal a g t) a.pc fun j => if g.remote = 0 ∧ g.token.toNat = j then g.inc.toNat else 0 := by
  unfold State.releaseSignal
  split
  · exact s.headerSignal_spec a.p a.c a.pc a.u g t h he
  · rename_i hc
    have h0 : g.remote = 0 := by
      have : ∀ x : BitVec 1, x = 0 ∨ x = 1 := by decide
      rcases this g.remote with r | r
      · exact r
      · exact absurd (.inl r) hc
    refine ⟨fun j => ?_, ?_, fun j => ?_, fun _ => rfl, rfl⟩
    · rw [State.core_modCore_same]
      show ((Seqr.setToken _ _ _).token j).count = _
      rw [Seqr.token_setToken]
      simp only [h0, true_and]
      by_cases hj : j = g.token.toNat
      · subst hj; simp
      · rw [if_neg hj, if_neg (Ne.symm hj)]; rfl
    · rw [State.core_modCore_same]; rfl
    · rw [State.core_modCore]; split
      · subst_vars; exact ⟨_, _, _, _, _, rfl⟩
      · exact ⟨_, _, _, _, _, rfl⟩

/-- Release signals made one after another. -/
theorem State.releases_spec (a : Act) (t : Nat) (l : List Signal) : ∀ s : State,
    (∀ k, ((s.core a.pc).sq.token k).count + addedTo k l ≤ 65535) → (s.core a.pc).tokErrs = [] →
    Signalled s (s.forEach l fun s g => s.releaseSignal a g t) a.pc fun k => addedTo k l := by
  induction l with
  | nil => intro s _ _; exact (Bookkept.refl s).signalled a.pc
  | cons g l ih =>
    intro s h he
    have hg : ((s.core a.pc).sq.token g.token.toNat).count + g.inc.toNat ≤ 65535 ∨ g.remote = 1 := by
      have := h g.token.toNat
      rw [addedTo_cons] at this
      have r01 : g.remote = 0 ∨ g.remote = 1 := by
        have : ∀ x : BitVec 1, x = 0 ∨ x = 1 := by decide
        exact this _
      rcases r01 with r | r
      · left; simp [r] at this; omega
      · exact .inr r
    have h1 := s.releaseSignal_spec a g t hg he
    have h2 := h1.trans (ih _ (fun k => by
      have := h k
      rw [addedTo_cons] at this
      rw [h1.tokens]; omega) (by obtain ⟨_, _, _, _, _, e⟩ := h1.core a.pc; rw [e]; exact he))
    simp only [addedTo_cons]
    exact h2

/-- Nothing is judged when no signal of the core is due. -/
theorem State.judgeLate_none (s : State) (p pc t : Nat) (h : ∀ g ∈ (s.core pc).sq.late, t ≤ g.made) :
    s.judgeLate p pc t = s := by
  unfold State.judgeLate
  rw [List.filter_eq_nil_iff.2 fun g hg => by simpa using h g hg]
  rfl

/-! ### Issue -/

/-- The core after an issue, by the parts that `Issued` speaks of. -/
theorem Core.issued_unit (k : Core) (u t : Nat) (i : Engine) (tm : Timing) :
    (k.issued u t i tm).sq.unit u = (k.sq.unit u).after i t tm.occ := by
  have key : ∀ q : Seqr, (q.unit u = k.sq.unit u) →
      (q.setUnit u { (match i with
        | .loop _ n b => (q.unit u).enter n.toNat b.toNat
        | .yield _ e g => { q.unit u with halt := .atYield (e == 1) g.toNat, issued := (q.unit u).issued + 1 }
        | .stepEnd _ => { q.unit u with halt := .atEnd, issued := (q.unit u).issued + 1 }
        | _ => (q.unit u).advance) with nextIssue := t + tm.occ }).unit u = (k.sq.unit u).after i t tm.occ := by
    intro q h; rw [Seqr.unit_setUnit, if_pos rfl, h]; rfl
  unfold Core.issued
  dsimp only
  split <;> split <;> exact key _ rfl

theorem Core.issued_token (k : Core) (u t : Nat) (i : Engine) (tm : Timing) (j : Nat) :
    ((k.issued u t i tm).sq.token j).count = (k.sq.token j).count -
      (if i.header.waitToken.toNat = j then i.header.waitCount.toNat else 0) := by
  have key : ((if i.header.waitCount = 0 then k.sq else k.sq.setToken i.header.waitToken.toNat
      { k.sq.token i.header.waitToken.toNat with
        count := (k.sq.token i.header.waitToken.toNat).count - i.header.waitCount.toNat }).token j).count =
      (k.sq.token j).count - (if i.header.waitToken.toNat = j then i.header.waitCount.toNat else 0) := by
    split
    · rename_i h; simp [h]
    · rw [Seqr.token_setToken]
      by_cases hj : j = i.header.waitToken.toNat
      · subst hj; simp
      · rw [if_neg hj, if_neg (Ne.symm hj)]; rfl
  unfold Core.issued
  dsimp only
  rw [← key]
  rcases tm with ⟨_, _, _, _ | ⟨_, _⟩, _⟩ <;> rfl

theorem Core.issued_flights (k : Core) (u t : Nat) (i : Engine) (tm : Timing) :
    (k.issued u t i tm).sq.flights = k.sq.flights := by
  unfold Core.issued
  dsimp only
  rcases tm with ⟨_, _, _, _ | ⟨_, _⟩, _⟩ <;> simp only [Seqr.setUnit] <;> split <;> rfl

theorem Core.issued_prog (k : Core) (u t : Nat) (i : Engine) (tm : Timing) :
    (k.issued u t i tm).sq.prog = k.sq.prog := by
  unfold Core.issued
  dsimp only
  rcases tm with ⟨_, _, _, _ | ⟨_, _⟩, _⟩ <;> simp only [Seqr.setUnit] <;> split <;> rfl

/-- The core outside its sequencing state. -/
theorem Core.issued_rest (k : Core) (u t : Nat) (i : Engine) (tm : Timing) : ∃ q x b n m,
    k.issued u t i tm = { k with sq := q, ac := x, frozen := b, bpPass := n, single := m } := ⟨_, _, _, _, _, rfl⟩

theorem Signalled.modFlights {s t : State} {pc : Nat} {n : Nat → Nat} (h : Signalled s t pc n) :
    (t.core pc).sq.flights = (s.core pc).sq.flights ∧ (t.core pc).sq.prog = (s.core pc).sq.prog ∧
    ∀ u, (t.core pc).sq.unit u = (s.core pc).sq.unit u := by
  rw [h.sq]; exact ⟨rfl, rfl, fun _ => rfl⟩

/-- Noting a use touches the collective engines only, and rests on nothing else. -/
theorem State.noteUse_rest (s : State) (pc k : Nat) : s.noteUse pc k = { s with coll := (s.noteUse pc k).coll } := by
  unfold State.noteUse; split <;> rfl

theorem State.noteUse_coll {s t : State} (h : s.coll = t.coll) (pc k : Nat) :
    (s.noteUse pc k).coll = (t.noteUse pc k).coll := by
  unfold State.noteUse; rw [h]; split <;> simp [h]

/-- What an issue leaves before the instruction's own effect. -/
theorem State.launched_spec (s : State) (a : Act) (i : Engine) (m : Meaning) (tok : Nat)
    (hsing : (s.core a.pc).single = 0) (hov : NoOverflow s a.pc i) (he : (s.core a.pc).tokErrs = []) :
    ∃ t, Issued s t i a m.timing ∧ s.issueCommit a i m tok = m.effect t := by
  unfold State.issueCommit
  dsimp only
  have hd : decide ((s.core a.pc).single = a.u + 1) = false := by simp [hsing]
  rw [hd]
  simp only [Bool.false_eq_true, if_false]
  refine ⟨_, ?_, rfl⟩
  generalize hw1 : State.traceCore s a.pc a.t 0x01 a.u _ = s1
  have b1 : Bookkept s s1 := hw1 ▸ Bookkept.traceCore ..
  generalize hw2 : State.issueCounts s1 a.pc a.u _ _ _ _ = s2
  have b2 : Bookkept s s2 := b1.trans (hw2 ▸ Bookkept.issueCounts ..)
  have hsq : (s2.core a.pc).sq = (s.core a.pc).sq := by obtain ⟨f, b, n, e⟩ := b2.core a.pc; rw [e]
  generalize hw3 : State.modCore s2 a.pc _ = s3
  obtain ⟨s3n, hn⟩ : ∃ x, x = if i.header.waitCount = 0 then s3 else s3.noteUse a.pc i.header.waitToken.toNat := ⟨_, rfl⟩
  have hn3 : s3n = { s3 with coll := s3n.coll } := by
    rw [hn]; split
    · rfl
    · exact State.noteUse_rest ..
  have hcoll : s3n.coll = (if i.header.waitCount = 0 then s else s.noteUse a.pc i.header.waitToken.toNat).coll := by
    have h3 : s3.coll = s.coll := by
      have h2 : s2.coll = s.coll := by have := congrArg State.coll b2.rest; exact this
      rw [← hw3]; exact h2
    rw [hn]; split
    · exact h3
    · exact State.noteUse_coll h3 ..
  have c3 : s3n.core a.pc = (s2.core a.pc).issued a.u a.t i m.timing := by
    rw [hn3]; show s3.core a.pc = _; rw [← hw3, State.core_modCore_same]
  have b4 : ∃ s4, Bookkept s3n s4 ∧ (if i.header.waitCount = 0 then s3
      else (s3.noteUse a.pc i.header.waitToken.toNat).tokenBp a.c a.pc i.header.waitToken.toNat ((s.core a.pc).sq.token i.header.waitToken.toNat).count
        (((s.core a.pc).sq.token i.header.waitToken.toNat).count - i.header.waitCount.toNat) false) = s4 := by
    rw [hn]; split
    · exact ⟨_, .refl _, rfl⟩
    · exact ⟨_, Bookkept.tokenBp .., rfl⟩
  obtain ⟨s4, b4, e4⟩ := b4
  rw [e4]
  have hsq4 : (s4.core a.pc).sq = ((s2.core a.pc).issued a.u a.t i m.timing).sq := by
    obtain ⟨f, b, n, e⟩ := b4.core a.pc; rw [e, c3]
  have htok : ∀ k, ((s4.core a.pc).sq.token k).count = ((s.core a.pc).sq.token k).count -
      (if i.header.waitToken.toNat = k then i.header.waitCount.toNat else 0) := fun k => by
    rw [hsq4, Core.issued_token, hsq]
  have he4 : (s4.core a.pc).tokErrs = [] := by
    obtain ⟨f, b, n, e⟩ := b4.core a.pc
    obtain ⟨f', b', n', e'⟩ := b2.core a.pc
    rw [e, c3]; show (s2.core a.pc).tokErrs = []; rw [e']; exact he
  -- the state after launch, by its signals
  have main : ∃ s5, Signalled s4 s5 a.pc (fun k => addedTo k (issueSigs i)) ∧
      ((isControl i = true ∨ isBarrier i = true) ∧ s4.launch a i m.timing = s5 ∨
       (isControl i = false ∧ isBarrier i = false) ∧ s4.launch a i m.timing = s5.modCore a.pc fun k =>
        { k with sq := { k.sq with flights := k.sq.flights ++ [⟨a.u, i.opcode, a.idx, m.timing.lat.map (a.t + ·),
          i.header.sigs 1, m.timing.granules, 0, 0, a.t, m.timing.granules⟩] } }) := by
    have hle : ∀ k l, addedTo k l ≤ addedTo k (issueSigs i) → ((s4.core a.pc).sq.token k).count + addedTo k l ≤ 65535 := by
      intro k l hl
      have := hov k
      rw [htok]; omega
    unfold State.launch
    cases hb : isBarrier i
    · have h1 := State.releases_spec a (a.t + m.timing.rel) (i.header.sigs 0) s4 (fun k =>
        hle k _ (by simp [issueSigs, hb, addedTo_append])) he4
      cases hc : isControl i
      · refine ⟨_, ?_, .inr ⟨⟨rfl, rfl⟩, rfl⟩⟩
        simpa [issueSigs, hb, hc] using h1
      · have h2 := State.signals_spec a.p a.c a.pc a.u (a.t + m.timing.occ) (i.header.sigs 1) _ (fun k => by
          have := hle k (i.header.sigs 0 ++ i.header.sigs 1) (by simp [issueSigs, hb, hc])
          rw [addedTo_append] at this
          rw [h1.tokens k]; omega) (by obtain ⟨_, _, _, _, _, e⟩ := h1.core a.pc; rw [e]; exact he4)
        refine ⟨_, ?_, .inl ⟨.inl rfl, rfl⟩⟩
        simpa [issueSigs, hb, hc, addedTo_append] using h1.trans h2
    · refine ⟨s4, ?_, .inl ⟨.inr rfl, rfl⟩⟩
      simpa [issueSigs, hb, addedTo] using (Bookkept.refl s4).signalled a.pc
  obtain ⟨s5, h5, hl⟩ := main
  have hbuf2 : s2.clusters = s.clusters := by have := congrArg State.clusters b2.rest; exact this
  have hbuf3 : s3n.clusters = s.clusters := by rw [hn3, ← hw3]; exact hbuf2
  have hbuf4 : s4.clusters = s.clusters := by have := congrArg State.clusters b4.rest; rw [this]; exact hbuf3
  have hcore4 : ∀ j, ∃ q f b m' x bp sg, s4.core j =
      { s.core j with sq := q, film := f, frozen := b, frozenAt := m', ac := x, bpPass := bp, single := sg } := by
    intro j
    obtain ⟨f2, bb2, n2, e2⟩ := b2.core j
    obtain ⟨f4, bb4, n4, e4'⟩ := b4.core j
    by_cases hj : j = a.pc
    · subst hj
      obtain ⟨q, x, b, n, m', e3⟩ := Core.issued_rest (s2.core a.pc) a.u a.t i m.timing
      exact ⟨_, _, _, _, _, _, _, by rw [e4', c3, e3, e2]⟩
    · have : s3n.core j = s2.core j := by rw [hn3]; show s3.core j = _; rw [← hw3, State.core_modCore, if_neg hj]
      exact ⟨_, _, _, _, _, _, _, by rw [e4', this, e2]⟩
  have hrest4 : s4 = { s with dict := s4.dict, localCounts := s4.localCounts, cores := s4.cores, clusters := s4.clusters
                              hbm := s4.hbm, coll := s4.coll } := by
    have h3 : s3 = { s2 with cores := s3.cores } := by rw [← hw3]; rfl
    rw [b4.rest, hn3, h3, b2.rest]
  have hcore5 : ∀ j, ∃ q f b m' x bp sg, s5.core j =
      { s.core j with sq := q, film := f, frozen := b, frozenAt := m', ac := x, bpPass := bp, single := sg } := by
    intro j
    obtain ⟨q, f, b, m', x, bp, sg, e⟩ := hcore4 j
    obtain ⟨q', f', b', m'', x', e'⟩ := h5.core j
    exact ⟨_, _, _, _, _, _, _, by rw [e', e]⟩
  have hrest5 : s5 = { s with dict := s5.dict, localCounts := s5.localCounts, cores := s5.cores, clusters := s5.clusters
                              hbm := s5.hbm, coll := s5.coll } := by rw [h5.rest, hrest4]
  have hcoll5 : s5.coll = (if i.header.waitCount = 0 then s else s.noteUse a.pc i.header.waitToken.toNat).coll :=
    by
      have e5 := congrArg State.coll h5.rest
      have e4 := congrArg State.coll b4.rest
      exact Eq.trans e5 (Eq.trans e4 hcoll)
  have hbuf5 : ∀ k, (s5.cluster k).buf = (s.cluster k).buf := fun k => by
    rw [h5.buf]; unfold State.cluster; rw [hbuf4]
  have hunit5 : (s5.core a.pc).sq.unit a.u = ((s.core a.pc).sq.unit a.u).after i a.t m.timing.occ := by
    rw [(h5.modFlights).2.2, hsq4, Core.issued_unit, hsq]
  have hprog5 : (s5.core a.pc).sq.prog = (s.core a.pc).sq.prog := by
    rw [(h5.modFlights).2.1, hsq4, Core.issued_prog, hsq]
  have hfl5 : (s5.core a.pc).sq.flights = (s.core a.pc).sq.flights := by
    rw [(h5.modFlights).1, hsq4, Core.issued_flights, hsq]
  have htok5 : ∀ k, ((s5.core a.pc).sq.token k).count = ((s.core a.pc).sq.token k).count -
      (if i.header.waitToken.toNat = k then i.header.waitCount.toNat else 0) + addedTo k (issueSigs i) := fun k => by
    rw [h5.tokens, htok]
  have hdram5 : s5.dram = s.dram := by have := congrArg State.dram hrest5; exact this
  rcases hl with ⟨hcb, e⟩ | ⟨⟨hc, hb⟩, e⟩
  · rw [e]
    obtain ⟨q, f, b, m', x, bp, sg, ec⟩ := hcore5 a.pc
    exact ⟨hunit5, htok5, fun h1 h2 => by rcases hcb with h | h <;> simp only [h1, h2, Bool.false_eq_true] at h, hprog5, by rw [ec], by rw [ec]; exact ⟨rfl, rfl⟩,
      fun pc => by obtain ⟨_, _, _, _, _, _, _, ec⟩ := hcore5 pc; rw [ec],
      fun pc => by obtain ⟨_, _, _, _, _, _, _, ec⟩ := hcore5 pc; rw [ec], hbuf5, hdram5, hcoll5, hrest5⟩
  · rw [e]
    have hcore : ∀ j, ∃ q f b m' x bp sg, (s5.modCore a.pc fun k =>
        { k with sq := { k.sq with flights := k.sq.flights ++ [⟨a.u, i.opcode, a.idx, m.timing.lat.map (a.t + ·),
          i.header.sigs 1, m.timing.granules, 0, 0, a.t, m.timing.granules⟩] } }).core j =
        { s.core j with sq := q, film := f, frozen := b, frozenAt := m', ac := x, bpPass := bp, single := sg } := by
      intro j
      obtain ⟨q, f, b, m', x, bp, sg, ec⟩ := hcore5 j
      rw [State.core_modCore]
      split
      · rename_i hj; subst hj; exact ⟨_, _, _, _, _, _, _, by rw [ec]⟩
      · exact ⟨_, _, _, _, _, _, _, ec⟩
    obtain ⟨q, f, b, m', x, bp, sg, ec⟩ := hcore a.pc
    refine ⟨?_, fun k => ?_, fun _ _ => ?_, ?_, by rw [ec], by rw [ec]; exact ⟨rfl, rfl⟩,
      fun pc => by obtain ⟨_, _, _, _, _, _, _, ec⟩ := hcore pc; rw [ec],
      fun pc => by obtain ⟨_, _, _, _, _, _, _, ec⟩ := hcore pc; rw [ec], hbuf5, hdram5, hcoll5, ?_⟩
    · rw [State.core_modCore_same]; exact hunit5
    · rw [State.core_modCore_same]; exact htok5 k
    · rw [State.core_modCore_same]; dsimp only; rw [hfl5]
    · rw [State.core_modCore_same]; exact hprog5
    · have key : ∀ x : State, x = { s with dict := x.dict, localCounts := x.localCounts, cores := x.cores
                                           clusters := x.clusters, hbm := x.hbm, coll := x.coll } →
          ∀ cs, { x with cores := cs } = { s with dict := x.dict, localCounts := x.localCounts, cores := cs
                                                  clusters := x.clusters, hbm := x.hbm, coll := x.coll } := by
        intro x h cs
        conv_lhs => rw [h]
      exact key s5 hrest5 _

/-- THE ISSUE: an instruction that meets `Issues`, whose shape holds and which may issue and open, leaves its own effect
on what `Issued` describes. -/
theorem State.issue_spec {s : State} {c u : Nat} {i : Engine} {a : Act} {tok : Nat} (m : State → Act → Meaning)
    (h : Issues s c u i a tok) (hov : NoOverflow s a.pc i) (hs : (m s a).shape = none) (ha : (m s a).allowed = true)
    (ho : (m s a).opens = true) :
    ∃ t, Issued s t i a (m s a).timing ∧ s.issue c u i m = (m s a).effect t := by
  obtain ⟨r, hr, hp⟩ := h.runs
  obtain ⟨hf, hsg⟩ := h.free
  obtain ⟨hc, hu, hidx, hlo⟩ := h.place
  have hat : s.atHead c u i = some (r, a.pc, (s.core a.pc).sq.unit u) := by
    unfold State.atHead
    simp only [h.carried, hr, hf, hsg, h.running, h.head]
    simp
  have hbath : s.bathHolds r u ((s.core a.pc).sq.unit u).issued i = false := by
    unfold State.bathHolds; rw [hp, h.noBath]
  have hbp : (rangeFrom 1 8).filter (fun n => s.addrBpAt c n u ((s.core a.pc).sq.unit u).pos r.bracket) = [] := by
    rw [List.filter_eq_nil_iff]
    intro n hn
    have hn' : 1 ≤ n ∧ n ≤ 8 := by
      simp only [rangeFrom, List.mem_map, List.mem_range] at hn
      obtain ⟨k, hk, rfl⟩ := hn; omega
    simp [State.addrBpAt, h.noBreak n hn'.1 hn'.2]
  have haddr : s.addrBp c a.pc u ((s.core a.pc).sq.unit u).pos r.bracket = (s.setCore a.pc (s.core a.pc), none) := by
    unfold State.addrBp; simp only [hbp]; rfl
  have hact : (⟨r.part, c, a.pc, u, a.t, ((s.core a.pc).sq.unit u).pos, ((s.core a.pc).sq.unit u).loops⟩ : Act) = a := by
    rw [hp, ← hc, ← hidx, ← hlo, ← hu]
  have hX : ∃ s', (s' = s ∨ s' = s.setCore a.pc (s.core a.pc)) ∧ s.issue c u i m = s'.issueCommit a i (m s a) tok := by
    have hset : s.settleLate c u i = s := by
      unfold State.settleLate
      simp only [hat, h.ready]
      exact State.judgeLate_none s _ _ _ h.settled
    have hsame : ((s.setCore a.pc (s.core a.pc)).core a.pc) = s.core a.pc := by rw [State.core_setCore]; simp
    have r1 := s.issueReads_sound a i h.sound.1 h.sound.2
    have r2 := (s.setCore a.pc (s.core a.pc)).issueReads_sound a i (by rw [hsame]; exact h.sound.1) (by rw [hsame]; exact h.sound.2)
    unfold State.issue
    rw [hset]
    simp only [hat, hbath, h.ready, haddr, h.first, hact, hs, ha, ho]
    by_cases hb : (s.core a.pc).bpPass.testBit u = true
    · exact ⟨s, .inl rfl, by simp [hb, r1]⟩
    · exact ⟨_, .inr rfl, by simp [hb, r2]⟩
  obtain ⟨s', hs', e⟩ := hX
  have hcore : ∀ j, s'.core j = s.core j := by
    rcases hs' with rfl | rfl
    · exact fun _ => rfl
    · intro j; rw [State.core_setCore]; split <;> simp_all
  obtain ⟨t, ht, et⟩ := s'.launched_spec a i (m s a) tok (by rw [hcore]; exact hsg)
    (fun k => by rw [hcore]; exact hov k) (by rw [hcore]; exact h.sound.2)
  have huse : ∀ k, (s'.noteUse a.pc k).coll = (s.noteUse a.pc k).coll := fun k =>
    State.noteUse_coll (by rcases hs' with rfl | rfl <;> rfl) ..
  refine ⟨t, ⟨?_, ?_, ?_, ?_, ?_, ?_, ?_, ?_, ?_, ?_, ?_, ?_⟩, e.trans et⟩
  · rw [ht.unit, hcore]
  · intro k; rw [ht.tokens, hcore]
  · intro h1 h2; rw [ht.flights h1 h2, hcore]
  · rw [ht.prog, hcore]
  · rw [ht.run, hcore]
  · rw [ht.banks.1, ht.banks.2, hcore]; exact ⟨rfl, rfl⟩
  · intro pc; rw [ht.opnd, hcore]
  · intro pc; rw [ht.acc, hcore]
  · intro k; rw [ht.buf]; rcases hs' with rfl | rfl <;> rfl
  · rw [ht.dram]; rcases hs' with rfl | rfl <;> rfl
  · rw [ht.coll]; split
    · rcases hs' with rfl | rfl <;> rfl
    · exact huse _
  · rw [ht.others]; rcases hs' with rfl | rfl <;> rfl

end Sys2Proof.Machine
end

