-- ==== Sys2Proof/Laws/Ram.lean ====
section
/-! SUPPORT. Memories without a word in error: a read gives the bytes as stored and finds nothing, a write stores its bytes
and leaves every other byte, and rows written one after another stand as `HoldsRows` says. -/

namespace Sys2Proof.Machine

/-- No word of the memory is in error. -/
def Ram.Sound (r : Ram) : Prop := ∀ w, r.mask w = 0

theorem Ram.Sound.checkWord {r : Ram} (h : r.Sound) (w : Nat) : r.checkWord w = (r.readRaw (8 * w) 8, .clean) := by
  unfold Ram.checkWord; simp [h w]

@[simp] theorem Ram.length_readRaw (r : Ram) (a n : Nat) : (r.readRaw a n).length = n := by
  simp [Ram.readRaw, rangeFrom]

theorem Ram.getElem_readRaw (r : Ram) (a n i : Nat) (h : i < (r.readRaw a n).length) :
    (r.readRaw a n)[i] = r.read1 (a + i) := by
  simp [Ram.readRaw, rangeFrom]

theorem Ram.readRaw_eq_iff {r : Ram} {a : Nat} {d : List Byte} :
    r.readRaw a d.length = d ↔ ∀ i (h : i < d.length), r.read1 (a + i) = d[i] := by
  constructor
  · intro h i hi
    have := List.getElem_of_eq h (i := i) (by simpa using hi)
    rw [← this, Ram.getElem_readRaw]
  · intro h
    refine List.ext_getElem (by simp) fun i h1 h2 => ?_
    rw [Ram.getElem_readRaw]; exact h i h2

theorem mem_wordsOf {a n w : Nat} : w ∈ wordsOf a n ↔ 0 < n ∧ 8 * w < a + n ∧ a < 8 * w + 8 := by
  unfold wordsOf
  split
  · subst_vars; simp
  · simp only [rangeFrom, List.mem_map, List.mem_range]
    constructor
    · rintro ⟨k, hk, rfl⟩; omega
    · intro h; exact ⟨w - a / 8, by omega, by omega⟩

/-! ### Reads -/

theorem Ram.Sound.fetch_ue {r : Ram} (h : r.Sound) (a n : Nat) : (r.fetch a n).ue = [] := by
  simp [Ram.fetch, Ram.checks, h.checkWord]

theorem Ram.Sound.fetch_ce {r : Ram} (h : r.Sound) (a n : Nat) : (r.fetch a n).ce = [] := by
  simp [Ram.fetch, Ram.checks, h.checkWord]

theorem readRaw_words (r : Ram) (k : Nat) : ∀ m, ((rangeFrom k m).flatMap fun w => r.readRaw (8 * w) 8) =
    r.readRaw (8 * k) (8 * m) := by
  intro m
  induction m with
  | zero => simp [rangeFrom, Ram.readRaw]
  | succ m ih =>
    have h1 : rangeFrom k (m + 1) = rangeFrom k m ++ [k + m] := by simp [rangeFrom, List.range_succ]
    rw [h1, List.flatMap_append, ih]
    simp only [List.flatMap_cons, List.flatMap_nil, List.append_nil]
    refine List.ext_getElem (by simp; omega) fun i h2 h3 => ?_
    rw [List.getElem_append]
    split
    · simp [Ram.getElem_readRaw]
    · rename_i h4
      simp only [Ram.length_readRaw] at h4 ⊢
      rw [Ram.getElem_readRaw, Ram.getElem_readRaw]
      congr 1; omega

/-- A checked read of a sound memory gives its bytes. -/
theorem Ram.Sound.fetch_bytes {r : Ram} (h : r.Sound) (a n : Nat) : (r.fetch a n).bytes = r.readRaw a n := by
  simp only [Ram.fetch, Ram.checks, h.checkWord, List.flatMap_map]
  unfold wordsOf
  split
  · subst_vars; simp [Ram.readRaw, rangeFrom]
  · rw [readRaw_words]
    refine List.ext_getElem (by simp; omega) fun i h2 h3 => ?_
    rw [List.getElem_take, List.getElem_drop, Ram.getElem_readRaw, Ram.getElem_readRaw]
    congr 1; omega

theorem State.consumed_clean (s : State) (p pc u sp : Nat) {f : Fetched} (hc : f.ce = []) (hu : f.ue = []) :
    s.consumed p pc u sp f = s := by
  simp [State.consumed, hc, hu, State.corrected, State.forEach]

/-- Checking reads that found nothing changes nothing. -/
theorem State.checked_clean (s : State) (a : Act) (l : List (Nat × Fetched))
    (h : ∀ x ∈ l, x.2.ce = [] ∧ x.2.ue = []) : s.checked a l = (s, true) := by
  unfold State.checked
  have h1 : ∀ l : List (Nat × Fetched), (∀ x ∈ l, x.2.ce = [] ∧ x.2.ue = []) → ∀ s : State,
      s.forEach l (fun s r => s.consumed a.p a.pc a.u r.1 r.2) = s := by
    intro l
    induction l with
    | nil => intro _ s; rfl
    | cons x l ih =>
      intro h s
      have hx := h x (List.mem_cons_self ..)
      show State.forEach (s.consumed ..) l _ = s
      rw [State.consumed_clean s _ _ _ _ hx.1 hx.2]
      exact ih (fun y hy => h y (List.mem_cons_of_mem _ hy)) s
  rw [h1 l h s]
  congr 1
  rw [List.all_eq_true]
  intro x hx; simp [(h x hx).2]

/-! ### Writes -/

theorem Ram.sound_setMask {r : Ram} (h : r.Sound) (w : Nat) : (r.setMask w 0).Sound := fun x => by
  rw [Ram.mask_setMask]; split
  · rfl
  · exact h x

/-- One word of a write. -/
theorem Ram.write_word {r : Ram} (h : r.Sound) (a : Nat) (d : List Byte) (w : Nat) :
    let r' := if a ≤ 8 * w ∧ 8 * w + 8 ≤ a + d.length then
        (r.writeRaw (8 * w) ((d.drop (8 * w - a)).take 8)).setMask w 0
      else r.mergeWord w (fun i => if a ≤ 8 * w + i then d[8 * w + i - a]? else none) false
    r'.Sound ∧ ∀ x, r'.read1 x = if x / 8 = w ∧ a ≤ x ∧ x < a + d.length then d.getD (x - a) 0 else r.read1 x := by
  dsimp only
  split
  · rename_i hc
    refine ⟨fun x => ?_, fun x => ?_⟩
    · rw [Ram.mask_setMask]; split
      · rfl
      · rw [Ram.mask_writeRaw]; exact h x
    · rw [Ram.read1_setMask, Ram.read1_writeRaw]
      have hl : ((d.drop (8 * w - a)).take 8).length = 8 := by simp; omega
      rw [hl]
      by_cases hx : 8 * w ≤ x ∧ x < 8 * w + 8
      · rw [if_pos hx, if_pos (by omega)]
        rw [List.getD_eq_getElem?_getD, List.getElem?_take, if_pos (by omega), List.getElem?_drop,
          List.getD_eq_getElem?_getD]
        congr 2; omega
      · rw [if_neg hx, if_neg (by omega)]
  · unfold Ram.mergeWord
    rw [h.checkWord]
    simp only [decide_false, Bool.or_self, Bool.false_eq_true, if_false, reduceCtorEq]
    refine ⟨fun x => ?_, fun x => ?_⟩
    · rw [Ram.mask_setMask]; split
      · rfl
      · rw [Ram.mask_writeRaw]; exact h x
    · rw [Ram.read1_setMask, Ram.read1_writeRaw]
      simp only [List.length_map, List.length_range]
      by_cases hx : 8 * w ≤ x ∧ x < 8 * w + 8
      · rw [if_pos hx, List.getD_eq_getElem?_getD, List.getElem?_map, List.getElem?_range (by omega)]
        simp only [Option.map_some, Option.getD_some]
        have h1 : 8 * w + (x - 8 * w) = x := by omega
        rw [h1]
        have h2 : (r.readRaw (8 * w) 8).getD (x - 8 * w) 0 = r.read1 x := by
          rw [List.getD_eq_getElem?_getD, List.getElem?_eq_getElem (by simp; omega), Option.getD_some,
            Ram.getElem_readRaw, h1]
        rw [h2]
        by_cases h3 : a ≤ x
        · rw [if_pos h3]
          by_cases h4 : x < a + d.length
          · rw [if_pos (by omega), List.getD_eq_getElem?_getD, List.getElem?_eq_getElem (by omega)]; rfl
          · rw [if_neg (by omega), List.getElem?_eq_none (by omega)]; rfl
        · rw [if_neg h3, if_neg (by omega)]; rfl
      · rw [if_neg hx, if_neg (by omega)]

/-- A write to a sound memory: its bytes are stored, every other byte is as before, and the memory stays sound (R653). -/
theorem Ram.write_sound {r : Ram} (h : r.Sound) (a : Nat) (d : List Byte) :
    (r.write a d).Sound ∧
      ∀ x, (r.write a d).read1 x = if a ≤ x ∧ x < a + d.length then d.getD (x - a) 0 else r.read1 x := by
  have key : ∀ (l : List Nat) (r : Ram), r.Sound → 
      let r' := l.foldl (fun r w =>
        if a ≤ 8 * w ∧ 8 * w + 8 ≤ a + d.length then
          (r.writeRaw (8 * w) ((d.drop (8 * w - a)).take 8)).setMask w 0
        else r.mergeWord w (fun i => if a ≤ 8 * w + i then d[8 * w + i - a]? else none) false) r
      r'.Sound ∧ ∀ x, r'.read1 x = if x / 8 ∈ l ∧ a ≤ x ∧ x < a + d.length then d.getD (x - a) 0 else r.read1 x := by
    intro l
    induction l with
    | nil => intro r h; exact ⟨h, fun x => by simp⟩
    | cons w l ih =>
      intro r h
      obtain ⟨h1, h2⟩ := Ram.write_word h a d w
      obtain ⟨h3, h4⟩ := ih _ h1
      refine ⟨h3, fun x => ?_⟩
      have h5 := h4 x
      rw [h2 x] at h5
      rw [List.foldl_cons, h5]
      by_cases hx : a ≤ x ∧ x < a + d.length
      · by_cases hm : x / 8 ∈ l
        · rw [if_pos ⟨hm, hx⟩, if_pos ⟨List.mem_cons_of_mem _ hm, hx⟩]
        · rw [if_neg (fun h => hm h.1)]
          by_cases hw : x / 8 = w
          · rw [if_pos ⟨hw, hx⟩, if_pos ⟨hw ▸ List.mem_cons_self .., hx⟩]
          · rw [if_neg (fun h => hw h.1), if_neg]
            rintro ⟨h6, -⟩
            rcases List.mem_cons.1 h6 with h7 | h7
            · exact hw h7
            · exact hm h7
      · rw [if_neg (fun h => hx h.2), if_neg (fun h => hx h.2), if_neg (fun h => hx h.2)]
  obtain ⟨h1, h2⟩ := key (wordsOf a d.length) r h
  refine ⟨h1, fun x => (h2 x).trans ?_⟩
  by_cases hx : a ≤ x ∧ x < a + d.length
  · rw [if_pos hx, if_pos ⟨mem_wordsOf.2 (by omega), hx⟩]
  · rw [if_neg hx, if_neg (fun h => hx h.2)]

/-- Rows written one after another, none touching another's place. -/
theorem Ram.write_rows (base pitch : Nat) (row : Nat → List Byte) (hp : ∀ i, (row i).length ≤ pitch) (n : Nat) :
    ∀ {r : Ram}, r.Sound → let r' := (List.range n).foldl (fun r i => r.write (base + i * pitch) (row i)) r
      r'.Sound ∧ HoldsRows r r' base pitch n row := by
  induction n with
  | zero => intro r h; exact ⟨h, fun i hi => absurd hi (by omega), fun x _ => rfl⟩
  | succ n ih =>
    intro r h
    obtain ⟨h1, h2, h3⟩ := ih h
    rw [List.range_succ, List.foldl_append]
    obtain ⟨h4, h5⟩ := Ram.write_sound h1 (base + n * pitch) (row n)
    refine ⟨h4, fun i hi => ?_, fun x hx => ?_⟩
    · rw [Ram.readRaw_eq_iff]
      intro k hk
      show Ram.read1 (Ram.write _ _ _) _ = _
      rw [h5]
      by_cases hin : i = n
      · subst hin
        rw [if_pos (by omega), List.getD_eq_getElem?_getD]
        have : base + i * pitch + k - (base + i * pitch) = k := by omega
        rw [this, List.getElem?_eq_getElem hk]; rfl
      · have hlt : i < n := by omega
        have hle : (i + 1) * pitch ≤ n * pitch := Nat.mul_le_mul_right _ hlt
        have hrow := hp i
        have : (i + 1) * pitch = i * pitch + pitch := by ring
        rw [if_neg (by omega)]
        exact (Ram.readRaw_eq_iff.1 (h2 i hlt)) k hk
    · show Ram.read1 (Ram.write _ _ _) _ = _
      rw [h5, if_neg]
      · exact h3 x fun i hi => hx i (by omega)
      · have := hx n (by omega); omega

end Sys2Proof.Machine
end

