-- ==== Sys2Proof/Machine/SfnBounds.lean ====
section
/-! DEFINITION. What the manual promises of the tables it does not reprint: the order of R258 and the bounds of R260 and R261
on the default coefficient set, and those of Table 7-5 on the PHV-1604 tables (R262, R264). The default set, the value at the
closed end of a negative region and the PHV-1604 results are free values of Config, so every step of the model holds whatever
they are; a claim about real hardware that needs their accuracy takes `TablePromises` as its premise (log entry 198). -/

namespace Sys2Proof.Machine

/-- The value of an encoding as a rational; an infinity stands at the first power of two beyond FP32. -/
def FVal.rat : FVal → ℚ
  | .nan => 0
  | .inf n => (if n then -1 else 1) * 2 ^ 128
  | .fin n m e => (if n then -1 else 1) * m * (2 : ℚ) ^ e

/-- `y` is the exact value of function `func` of Table 7-1 at `x`; `second` selects the cosine of SINCOS. -/
def isExact (func : Nat) (second : Bool) (x y : ℝ) : Prop :=
  let phi := fun (z : ℝ) => 2 / Real.sqrt Real.pi * ∫ t in (0 : ℝ)..z, Real.exp (-t ^ 2)
  match func with
  | 0x01 => y = (2 : ℝ) ^ x
  | 0x02 => y = Real.exp x
  | 0x03 => 0 < x ∧ y = Real.logb 2 x
  | 0x04 => 0 < x ∧ y = Real.log x
  | 0x05 => x ≠ 0 ∧ y = x⁻¹
  | 0x06 => 0 < x ∧ y = (Real.sqrt x)⁻¹
  | 0x07 => 0 ≤ x ∧ y = Real.sqrt x
  | 0x08 => y = Real.tanh x
  | 0x09 => y = (1 + Real.exp (-x))⁻¹
  | 0x0A => y = phi x
  | 0x0B => y = x * ((1 + phi (x / Real.sqrt 2)) / 2)
  | 0x0C => y = 0.5 * x * (1 + Real.tanh (Real.sqrt (2 / Real.pi) * (x + 0.044715 * x ^ 3)))
  | 0x0D => y = x * (1 + Real.exp (-x))⁻¹
  | 0x0E => y = if second then Real.cos x else Real.sin x
  | 0x0F => y = Real.log (1 + Real.exp x)
  | _ => False

/-- A bound of Tables 7-4 and 7-5: in ulp of the exact value, or absolute, 2 to a power. -/
inductive ErrBound where
  | ulps (n : Nat)
  | absolute (e : Int)
deriving DecidableEq, Repr

/-- `r` lies within `k` spacings of the format of `y`, whose spacing is 2^(max(e, emin) - man) where e is the binade of `y`
(R260). -/
def nearUlps (k : ℚ) (emin : Int) (man : Nat) (r : ℚ) (y : ℝ) : Prop :=
  ∃ e : Int, (|y| < (2 : ℝ) ^ (e + 1)) ∧ ((2 : ℝ) ^ e ≤ |y| ∨ e ≤ emin) ∧ |(r : ℝ) - y| ≤ k * (2 : ℝ) ^ (max e emin - man)

/-- An FP32 encoding is the infinity that an exact value beyond the format's range rounds to (R71). -/
def overflowed (enc : Nat) (y : ℝ) : Prop := ∃ n : Bool, f32 enc = .inf n ∧ (2 : ℝ) ^ 128 - 2 ^ 103 ≤ (if n then -y else y)

/-- An FP32 encoding lies within a bound of `y`, or is the infinity that `y` overflows to. -/
def ErrBound.holds (b : ErrBound) (enc : Nat) (y : ℝ) : Prop :=
  overflowed enc y ∨ match b with
  | .ulps n => nearUlps n (-126) 23 (f32 enc).rat y
  | .absolute e => |((f32 enc).rat : ℝ) - y| ≤ (2 : ℝ) ^ e

/-- The bound of Table 7-4 for a finite input, none where it states none. -/
def nativeBound (func : Nat) (x : ℚ) : Option ErrBound :=
  match func with
  | 0x01 => if -151 ≤ x ∧ x < 128 then some (.ulps 2) else none
  | 0x02 => if -104 ≤ x ∧ x < 88.73 then some (.ulps 2) else none
  | 0x03 => if x ≤ 0 then none else some (if 0.5 ≤ x ∧ x < 2 then .absolute (-23) else .ulps 2)
  | 0x04 => if x ≤ 0 then none else some (if 0.5 ≤ x ∧ x < 2 then .absolute (-24) else .ulps 2)
  | 0x05 => if x = 0 then none else some (.ulps 1)
  | 0x06 | 0x07 => if x ≤ 0 then none else some (.ulps 1)
  | 0x08 | 0x0A => some (.ulps 2)
  | 0x09 => some (.ulps (if -32 ≤ x then 2 else 3))
  | 0x0B | 0x0C => some (if -4 ≤ x then .ulps 4 else if -8 ≤ x then .absolute (-28) else .absolute (-47))
  | 0x0D | 0x0F => some (.ulps 3)
  | 0x0E => if |x| < 2 ^ 24 then some (if cQuarterPi.rat < |x| then .absolute (-23) else .ulps 2) else none
  | _ => none

/-- The bound of Table 7-5 for a finite input, none where it states none. -/
def phvBound (func : Nat) (x : ℚ) : Option ErrBound :=
  match func with
  | 0x01 => if -151 ≤ x ∧ x < 128 then some (.ulps 4) else none
  | 0x02 => if -104 ≤ x ∧ x < 88.73 then some (.ulps 4) else none
  | 0x03 | 0x04 => if x ≤ 0 then none else some (if 0.5 ≤ x ∧ x < 2 then .absolute (-21) else .ulps 4)
  | 0x05 => if x = 0 then none else some (.ulps 2)
  | 0x06 | 0x07 => if x ≤ 0 then none else some (.ulps 2)
  | 0x08 | 0x09 | 0x0A => some (.ulps 6)
  | 0x0B | 0x0D => some (if -4 ≤ x then .ulps 8 else .absolute (-24))
  | 0x0E => if |x| < 2 ^ 16 then some (.absolute (-21)) else none
  | _ => none

/-- A finite FP32 encoding. -/
def finiteEnc (x : Nat) : Prop := x < 2 ^ 32 ∧ x >>> 23 % 256 ≠ 255

/-- The result selected, of the two of SINCOS. -/
def resultOf (second : Bool) (y : Nat × Nat) : Nat := if second then y.2 else y.1

/-- R260: with the default set and an FP32 destination every result lies within the bound of Table 7-4. -/
def defaultAccurate : Prop :=
  ∀ (func x : Nat) (second : Bool) (b : ErrBound) (y : ℝ), finiteEnc x → (second = true → func = 0x0E) →
    nativeBound func (f32 x).rat = some b → isExact func second (f32 x).rat y →
    b.holds (resultOf second (sfnNative Bank.dflt func x)) y

/-- R261: where Table 7-4 gives 4 ulp or less and the result is normal in a BF16 or FP16 destination, the result lies within
0.501 ulp of that format. -/
def narrowAccurate : Prop :=
  ∀ (func x n : Nat) (second : Bool) (y : ℝ) (d : FFmt), finiteEnc x → (second = true → func = 0x0E) → n ≤ 4 →
    nativeBound func (f32 x).rat = some (.ulps n) → isExact func second (f32 x).rat y → d = .bf16 ∨ d = .fp16 →
    let r := d.encode false (f32 (resultOf second (sfnNative Bank.dflt func x)))
    0 < r >>> d.manBits % 2 ^ d.expBits → r >>> d.manBits % 2 ^ d.expBits < 2 ^ d.expBits - 1 →
    nearUlps 0.501 (1 - d.bias) d.manBits (d.decode r).rat y

/-- A monotone range of Table 7-3: the function, the range between two FP32 encodings, true when it rises there, and the sign
bit an input must have where the range stops at one of the two zeros. -/
structure Monotone where
  func : Nat
  second : Bool
  lo : Nat
  hi : Nat
  up : Bool
  sign : Option Nat
deriving DecidableEq, Repr

/-- Table 7-3. The ends π/4 are the largest FP32 value below it. -/
def monotoneRanges : List Monotone :=
  ([0x01, 0x02, 0x08, 0x09, 0x0A, 0x0F].map fun f => ⟨f, false, 0xFF800000, 0x7F800000, true, none⟩) ++
  [⟨0x03, false, 0x00000000, 0x7F800000, true, none⟩, ⟨0x04, false, 0x00000000, 0x7F800000, true, none⟩,
   ⟨0x07, false, 0x00000000, 0x7F800000, true, none⟩,
   ⟨0x05, false, 0x00000000, 0x7F800000, false, some 0⟩, ⟨0x05, false, 0xFF800000, 0x80000000, false, some 1⟩,
   ⟨0x06, false, 0x00000000, 0x7F800000, false, some 0⟩,
   ⟨0x0B, false, 0xFF800000, 0xBF500000, false, none⟩, ⟨0x0C, false, 0xFF800000, 0xBF500000, false, none⟩,
   ⟨0x0B, false, 0xBF400000, 0x7F800000, true, none⟩, ⟨0x0C, false, 0xBF400000, 0x7F800000, true, none⟩,
   ⟨0x0D, false, 0xC2000000, 0xBFB00000, false, none⟩, ⟨0x0D, false, 0xBFA00000, 0x7F800000, true, none⟩,
   ⟨0x0E, false, 0xBF490FDA, 0x3F490FDA, true, none⟩,
   ⟨0x0E, true, 0xBF490FDA, 0x00000000, true, none⟩, ⟨0x0E, true, 0x00000000, 0x3F490FDA, false, none⟩]

/-- An FP32 encoding lies in a monotone range. -/
def Monotone.covers (m : Monotone) (x : Nat) : Bool :=
  decide (x < 2 ^ 32) && !(f32 x).isNan && !(f32 x).lt (f32 m.lo) && !(f32 m.hi).lt (f32 x) &&
    (match m.sign with | none => true | some b => x >>> 31 == b)

/-- R258: with the default set every function is monotone over each range of Table 7-3. -/
def defaultMonotone : Prop :=
  ∀ m ∈ monotoneRanges, ∀ x y : Nat, m.covers x → m.covers y → (f32 x).lt (f32 y) →
    let a := f32 (resultOf m.second (sfnNative Bank.dflt m.func x))
    let b := f32 (resultOf m.second (sfnNative Bank.dflt m.func y))
    if m.up then b.lt a = false else a.lt b = false

/-- R264: under PHV-1604 compatibility every result lies within the bound of Table 7-5. -/
def phvAccurate : Prop :=
  ∀ (func x : Nat) (second : Bool) (b : ErrBound) (y : ℝ), finiteEnc x → (second = true → func = 0x0E) →
    phvBound func (f32 x).rat = some b → isExact func second (f32 x).rat y →
    b.holds (resultOf second (sfnEval true Bank.dflt func x)) y

/-- The promises of 07 on the tables that the manual does not reprint. -/
def TablePromises : Prop := defaultMonotone ∧ defaultAccurate ∧ narrowAccurate ∧ phvAccurate

end Sys2Proof.Machine
end

