-- ==== Sys2Proof/Tests/Slice0.lean ====
section
/-! SUPPORT. Tests: for every statement a state and operands that meet its hypotheses (`wit_`), the checks of WellFormed on ill-formed
commands, words written out from the encoding tables, worked examples of the spec (`test_`). -/

open Sys2Proof Sys2Proof.Machine

/-! ### Witnesses: states that meet the hypotheses of the statements -/

namespace Tests

set_option Elab.async false

/-- A header without wait and signals. -/
def h : Header := ⟨0, 0, ⟨0, 0, 0, 0, 0⟩, ⟨0, 0, 0, 0, 0⟩⟩

/-- Logical core 0 of cluster 0 with `i` at the head of unit `u`, carried by physical core 0, in a step of partition 0. -/
def coreAt (descs : List (BitVec 256)) (u : Nat) (i : Engine) : Core :=
  { Core.idle with
    run := some ⟨0, 1, 0, 0, 0, false⟩
    sq := ⟨⟨0, [], descs, (List.range 5).map fun k => if k = u then [encodeEngine i] else [], []⟩, [(u, ⟨0, [], 0, .running, 0⟩)], [], [], [], []⟩ }

/-- A state whose core 0 is `k`, in cluster 0 mapped without a spare. -/
def withCore (s : State) (k : Core) : State := (s.setNum 0x9100 1 0x76543210).setCore 0 k

/-- The state in which unit `u` of core 0 issues `i`. -/
def at' (u : Nat) (i : Engine) (descs : List (BitVec 256) := []) : State := withCore State.reset (coreAt descs u i)

/-- The issue that unit `u` then makes. -/
def act0 (u : Nat) : Act := ⟨0, 0, 0, u, 0, 0, []⟩

/-- `Issues` by evaluation. -/
def issuesOk (s : State) (c u : Nat) (i : Engine) (a : Act) (tok : Nat) : Bool :=
  decide (s.physOf c = some a.pc) && decide ((s.core a.pc).run.map CoreRun.part = some a.p) && !(s.core a.pc).frozen &&
    decide ((s.core a.pc).single = 0) && decide (((s.core a.pc).sq.unit u).halt = .running) && decide ((s.core a.pc).sq.head u = some i) &&
    decide (a.c = c ∧ a.u = u ∧ a.idx = ((s.core a.pc).sq.unit u).pos ∧ a.loops = ((s.core a.pc).sq.unit u).loops) &&
    decide ((s.core a.pc).sq.issueAt u i = some (a.t, tok)) && !(s.core a.pc).sq.outbid u a.t i.header && decide ((s.core a.pc).sq.late = []) &&
    decide ((s.core a.pc).sq.prog.errs = [] ∧ (s.core a.pc).tokErrs = []) && decide ((s.part a.p).stop = none) &&
    (List.range 9).all fun n => !(s.num (bpObj c) n).testBit 63

theorem issues_of {s : State} {c u : Nat} {i : Engine} {a : Act} {tok : Nat} (w : issuesOk s c u i a tok = true) :
    Issues s c u i a tok := by
  simp only [issuesOk, Bool.and_eq_true, decide_eq_true_eq, Bool.not_eq_true', List.all_eq_true, List.mem_range] at w
  obtain ⟨⟨⟨⟨⟨⟨⟨⟨⟨⟨⟨⟨h1, h2⟩, h3⟩, h4⟩, h5⟩, h6⟩, h7⟩, h8⟩, h9⟩, h0⟩, h12⟩, h10⟩, h11⟩ := w
  obtain ⟨r, hr, hp⟩ := Option.map_eq_some_iff.mp h2
  exact ⟨h1, ⟨r, hr, hp⟩, ⟨h3, h4⟩, h5, h6, h7, h8, h9, (fun g q => absurd (h0 ▸ q) (by simp)), h12, h10, fun n _ h => h11 n (by omega)⟩

/-- Core `pc` has no token and the instruction no signal. -/
theorem quiet {s : State} {pc : Nat} {i : Engine} (w : (s.core pc).sq.tokens = [] ∧ issueSigs i = []) : NoOverflow s pc i := by
  intro k
  simp [Seqr.token, w.1, w.2, tabGet, Token.zero, addedTo]

theorem clean_of {s : State} {pc : Nat} (w : (s.core pc).opnd.errs = [] ∧ (s.core pc).acc.errs = [] ∧ (s.cluster (clusterOfPhys pc)).buf.errs = []) :
    s.Clean pc := by
  intro sp x
  unfold State.localRam
  split <;> simp [Ram.mask, w.1, w.2.1, w.2.2, tabGet]

/-! #### Engines -/

/-- A tile of one row of two elements in the operand buffer. -/
def tile (fmt : BitVec 4) (addr : BitVec 17) : BitVec 256 :=
  encodeDesc { decodeDesc 0 with fmt := fmt, rows := 1, rowElems := 2, localAddr := addr }

/-- 1, 2: BF16 operands; 3: FP32; 4: a row function without stages; 5: BF16 of one element by one row; 6: a tile of cluster memory. -/
def descs : List (BitVec 256) :=
  [0, tile 2 0, tile 2 1, tile 1 2, encodeRowDesc (decodeRowDesc 0), encodeDesc { decodeDesc 0 with fmt := 2, rows := 1, rowElems := 1 },
   encodeDesc { decodeDesc 0 with fmt := 4, rows := 1, rowElems := 256, region := 1 }]

/-- Unit `u` of core 0 issues `i` on sound memories, and no shape condition fails. -/
def Runs (u : Nat) (i : Engine) : Prop :=
  let s := at' u i descs
  Issues s 0 u i (act0 u) 0 ∧ NoOverflow s 0 i ∧ s.shapeAt (act0 u) i = none ∧ s.Clean 0

theorem runs_of {u : Nat} {i : Engine} (w : issuesOk (at' u i descs) 0 u i (act0 u) 0 = true ∧ issueSigs i = [] ∧
    (at' u i descs).shapeAt (act0 u) i = none) (q : ((at' u i descs).core 0).sq.tokens = [] ∧ ((at' u i descs).core 0).opnd.errs = [] ∧
    ((at' u i descs).core 0).acc.errs = [] ∧ ((at' u i descs).cluster (clusterOfPhys 0)).buf.errs = []) : Runs u i :=
  ⟨issues_of w.1, quiet ⟨q.1, w.2.1⟩, w.2.2, clean_of q.2⟩

theorem wit_ControlInstructionsIssue :
    (Issues (at' 1 (.twait h)) 0 1 (.twait h) (act0 1) 0 ∧ NoOverflow (at' 1 (.twait h)) 0 (.twait h)) ∧
    (Issues (at' 2 (.tsig h)) 0 2 (.tsig h) (act0 2) 0 ∧ NoOverflow (at' 2 (.tsig h)) 0 (.tsig h)) ∧
    (Issues (at' 4 (.loop h 1 1)) 0 4 (.loop h 1 1) (act0 4) 0 ∧ NoOverflow (at' 4 (.loop h 1 1)) 0 (.loop h 1 1)) ∧
    (Issues (at' 0 (.brb h 15)) 0 0 (.brb h 15) (act0 0) 0 ∧ NoOverflow (at' 0 (.brb h 15)) 0 (.brb h 15)) ∧
    (Issues (at' 3 (.yield h 1 9)) 0 3 (.yield h 1 9) (act0 3) 0 ∧ NoOverflow (at' 3 (.yield h 1 9)) 0 (.yield h 1 9)) ∧
    (Issues (at' 0 (.stepEnd h)) 0 0 (.stepEnd h) (act0 0) 0 ∧ NoOverflow (at' 0 (.stepEnd h)) 0 (.stepEnd h)) :=
  ⟨⟨issues_of (by decide +kernel), quiet (by decide +kernel)⟩, ⟨issues_of (by decide +kernel), quiet (by decide +kernel)⟩,
   ⟨issues_of (by decide +kernel), quiet (by decide +kernel)⟩, ⟨issues_of (by decide +kernel), quiet (by decide +kernel)⟩,
   ⟨issues_of (by decide +kernel), quiet (by decide +kernel)⟩, issues_of (by decide +kernel), quiet (by decide +kernel)⟩

theorem wit_MmaWritesItsProduct : Runs 1 (.mma h ⟨1, 2, 0, 0, 0, 0⟩) := runs_of (by decide +kernel) (by decide +kernel)

theorem wit_MmabWritesItsProducts : Runs 1 (.mmab h ⟨⟨1, 2, 0, 0, 0, 0⟩, 2, 1⟩) := runs_of (by decide +kernel) (by decide +kernel)

theorem wit_RowInstructionsComplete : Runs 1 (.mmf h ⟨1, 2, 5, 4, 0, 1, 0, 0, 0⟩) ∧ Runs 2 (.vrow h ⟨3, 3, 4⟩) :=
  ⟨runs_of (by decide +kernel) (by decide +kernel), runs_of (by decide +kernel) (by decide +kernel)⟩

theorem wit_MmfLeavesScores : Runs 1 (.mmf h ⟨1, 2, 5, 4, 0, 1, 0, 0, 0⟩) ∧
    ((at' 1 (.mmf h ⟨1, 2, 5, 4, 0, 1, 0, 0, 0⟩) descs).core 0).bankActive.errs = [] ∧
    (((at' 1 (.mmf h ⟨1, 2, 5, 4, 0, 1, 0, 0, 0⟩) descs).core 0).sq.prog.rowDesc 4).status = 0 :=
  ⟨runs_of (by decide +kernel) (by decide +kernel), by decide +kernel⟩

theorem wit_VopWritesItsResults : Runs 2 (.vop h ⟨1, 3, 3, 0, 3⟩) := runs_of (by decide +kernel) (by decide +kernel)

theorem wit_VectorConversionsAndFunctions :
    Runs 2 (.vcvt h ⟨3, 1, 0⟩) ∧ Runs 2 (.sfn h ⟨1, 3, 3, 0, 0, 0⟩) ∧ Runs 2 (.sfm h ⟨0, 3, 3, 1⟩) ∧
    (at' 2 (.sfn h ⟨1, 3, 3, 0, 0, 0⟩) descs).swapReady 0 ⟨1, 3, 3, 0, 0, 0⟩ = true ∧
    ((at' 2 (.sfn h ⟨1, 3, 3, 0, 0, 0⟩) descs).core 0).bankActive.errs = [] ∧
    ((at' 2 (.sfm h ⟨0, 3, 3, 1⟩) descs).core 0).bankActive.errs = [] ∧ ((at' 2 (.sfm h ⟨0, 3, 3, 1⟩) descs).core 0).microErrs = [] ∧ fmtIsMx (decodeDesc (descs.getD 1 0)).fmt.toNat = false ∧
    fmtIsMx (decodeDesc (descs.getD 3 0)).fmt.toNat = false :=
  ⟨runs_of (by decide +kernel) (by decide +kernel), runs_of (by decide +kernel) (by decide +kernel),
   runs_of (by decide +kernel) (by decide +kernel), by decide +kernel⟩

theorem wit_WideVectorFormsComplete : Runs 2 (.sfn h ⟨0x0E, 3, 3, 3, 0, 0⟩) ∧ Runs 2 (.vcvt h ⟨3, 1, 1⟩) :=
  ⟨runs_of (by decide +kernel) (by decide +kernel), runs_of (by decide +kernel) (by decide +kernel)⟩

/-- A request of client 0 for slot 0. -/
def req0 : Request :=
  { client := 0, seq := 1, epoch := 0, slot := 0, flags := 0, deadline := 0, size := [1], tag := 0, args := [], taken := 0, malformed := false }

/-- A step of that request, running. -/
def step0 : Step :=
  { req := req0, stage := .running, slot := 0, bracket := 0, onFallback := false, backfill := false, acceptTime := 0, bound := 100
    planned := 100000, cls := 0, classes := [], clock := 1250000, startTime := 0, started := true, queueWait := 0, collWait := 0
    excused := 0, parkedNs := 0, parkedAt := 0, segment := 0, segEnd := 5000, arrived := [], atEnd := false, breach := false
    dodgePass := none, replayed := false, rollback := false, preempted := false, preemptReq := false, fail := none
    replayReq := false, fenced := false, pins := [], exports := [], savedCores := [], savedClusters := [], insts := [], oldInsts := [], waitBase := 0, nmuOpen := []
    runs := 0, peerWait := 0, thermNs := 0, busyNs := 0, arrivedAt := 0, leaving := [], rollReq := false, determ := false, compat := false, speculative := false
    mapGen := 0, mapRetired := [] }

/-- An image of one bracket on cores 0 and 1, with a cluster region and a command region of stack 5. -/
def img0 : Image :=
  { Image.empty with
    brackets := [{ bracket := 0, accBanks := 8, passes := 2, flags := 0, limits := [4, 4, 4, 4], segments := 3, contractFirst := 0, coreMask := 3 }]
    contracts := [⟨1000, 0, 0, 0, 0⟩, ⟨1000, 0, 1, 0, 0⟩, ⟨1000, 0, 2, 1, 0⟩]
    regions := [⟨1, 7, 0xFF, 0, 0, 0, 16, 2, 0, 0⟩, ⟨2, 2, 5, 0, 0, 0, 16, 0, 0, 0⟩]
    colls := [⟨0, 7, 9, 1, 1, [0, 1], 4096, 1024⟩] }

/-- Partition 0 owns cluster 0, has the image in slot 0, and runs `x`. -/
def withStep (s : State) (x : Step := step0) : State :=
  (({ s with slots := [(0, ⟨some img0, [], none⟩)] } : State).setNum 0x2100 1 1).setPart 0 { Part.idle with queue := [x] }

/-- Region 1 of the image. -/
def reg1 : RegionE := ⟨1, 7, 0xFF, 0, 0, 0, 16, 2, 0, 0⟩

theorem wit_ShapeFaultStopsTheStep :
    let s := withStep (at' 2 (.vop h ⟨1, 3, 3, 0, 5⟩) descs)
    let r := withStep (at' 1 (.mma h ⟨1, 5, 0, 0, 0, 0⟩) descs)
    (Issues s 0 2 (.vop h ⟨1, 3, 3, 0, 5⟩) (act0 2) 0 ∧ s.shapeAt (act0 2) (.vop h ⟨1, 3, 3, 0, 5⟩) = some 0x0502 ∧
      s.running 0 = some step0 ∧ step0.fail = none ∧ ((s.core 0).run.map CoreRun.logical) = some 0 ∧ s.faultsAt (act0 2) ≠ []) ∧
    Issues r 0 1 (.mma h ⟨1, 5, 0, 0, 0, 0⟩) (act0 1) 0 ∧ r.shapeAt (act0 1) (.mma h ⟨1, 5, 0, 0, 0, 0⟩) = some 0x0502 :=
  ⟨⟨issues_of (by decide +kernel), by decide +kernel⟩, issues_of (by decide +kernel), by decide +kernel⟩

theorem wit_LocalTransfersCopy :
    let s := fun u i => withStep (at' u i descs)
    reg1.kind = 7 ∧ (clusterPlace (act0 3) (decodeDesc (descs.getD 6 0)) reg1).1 = 0 ∧ clusterOfPhys 0 = 0 ∧
    (Issues (s 3 (.ld h 6)) 0 3 (.ld h 6) (act0 3) 0 ∧ NoOverflow (s 3 (.ld h 6)) 0 (.ld h 6) ∧ (s 3 (.ld h 6)).Clean 0 ∧
      (s 3 (.ld h 6)).running 0 = some step0 ∧ (s 3 (.ld h 6)).regionFor (act0 3) ((s 3 (.ld h 6)).descAt (act0 3) 6) = some reg1) ∧
    (Issues (s 4 (.st h ⟨6, 0, 0⟩)) 0 4 (.st h ⟨6, 0, 0⟩) (act0 4) 0 ∧ NoOverflow (s 4 (.st h ⟨6, 0, 0⟩)) 0 (.st h ⟨6, 0, 0⟩)) ∧
    Issues (s 3 (.halo h ⟨1, 6⟩)) 0 3 (.halo h ⟨1, 6⟩) (act0 3) 0 ∧ Issues (s 4 (.halo h ⟨1, 6⟩)) 0 4 (.halo h ⟨1, 6⟩) (act0 4) 0 :=
  ⟨by decide +kernel, by decide +kernel, by decide +kernel,
   ⟨issues_of (by decide +kernel), quiet (by decide +kernel), clean_of (by decide +kernel), by decide +kernel, by decide +kernel⟩,
   ⟨issues_of (by decide +kernel), quiet (by decide +kernel)⟩, issues_of (by decide +kernel), issues_of (by decide +kernel)⟩

theorem wit_TransfersComplete :
    let s := withStep (at' 3 (.ldp h ⟨6, 6, 0, 1⟩) descs)
    Issues s 0 3 (.ldp h ⟨6, 6, 0, 1⟩) (act0 3) 0 ∧ NoOverflow s 0 (.ldp h ⟨6, 6, 0, 1⟩) :=
  ⟨issues_of (by decide +kernel), quiet (by decide +kernel)⟩

theorem wit_CommandStoresSend :
    let s := withStep (at' 4 (.st h ⟨6, 2, 0⟩) descs)
    let r := (withStep (at' 4 (.st h ⟨6, 1, 0⟩) descs)).setNum 0x6110 1 1
    let e : CollE := ⟨0, 7, 9, 1, 1, [0, 1], 4096, 1024⟩
    (Issues s 0 4 (.st h ⟨6, 2, 0⟩) (act0 4) 0 ∧ NoOverflow s 0 (.st h ⟨6, 2, 0⟩) ∧ s.regionFor (act0 4) (s.descAt (act0 4) 6) = some reg1) ∧
    Issues r 0 4 (.st h ⟨6, 1, 0⟩) (act0 4) 0 ∧ NoOverflow r 0 (.st h ⟨6, 1, 0⟩) ∧ r.collEntry (act0 4) 0 = some e ∧ r.stepInst step0 e = none ∧
      r.canOpen (act0 4) 0 = true ∧ r.inst 7 (r.nextSeq 0 7) = none :=
  ⟨⟨issues_of (by decide +kernel), quiet (by decide +kernel), by decide +kernel⟩, issues_of (by decide +kernel), quiet (by decide +kernel),
   by decide +kernel, by decide +kernel, by decide +kernel, by decide +kernel⟩

/-! #### Completions and the step controller -/

/-- A flight of unit `u`, complete at `ac` or timed by a window. -/
def flight (u : Nat) (ac : Option Nat) (inst : Nat := 0) : Flight := ⟨u, 0x30, 0, ac, [⟨5, 1, 1, 0, 0⟩], 1, inst, 0, 0, 0⟩

/-- Core 0 in a step with a flight. -/
def flying (f : Flight) : State :=
  withStep (withCore State.reset { coreAt [] 0 (.twait h) with sq := { (coreAt [] 0 (.twait h)).sq with flights := [f] } })

theorem wit_CompletionsSignal :
    let f := flight 2 (some 40)
    let g := flight 3 none 458753
    (∃ k, (flying f).runOf 0 = some (0, 0, k) ∧
      leastBy (fun (f : Flight) => f.complete.getD 0) (k.sq.flights.filter fun f => f.unit == 2 && f.complete.isSome) = some f ∧ k.sq.late = [] ∧ k.tokErrs = []) ∧
    (∃ k, (flying g).runOf 0 = some (0, 0, k) ∧ k.sq.flights.find? (fun f => f.unit == 3 && (flying g).arrivedAll f) = some g ∧ k.sq.late = [] ∧ k.tokErrs = []) ∧
    ∀ j, (((flying f).core 0).sq.token j).count + addedTo j f.sigs ≤ 65535 :=
  ⟨⟨_, rfl, by decide +kernel⟩, ⟨_, rfl, by decide +kernel⟩, fun j => by
    have w : ((flying (flight 2 (some 40))).core 0).sq.tokens = [] := by decide +kernel
    unfold Seqr.token
    rw [w]
    simp only [tabGet, Token.zero, addedTo, flight, List.filter]
    split <;> simp⟩

/-- Core 0 in a step, with a signal on its way in its cluster and a landing counter due. -/
def signalled : State :=
  (withCore State.reset (coreAt [] 0 (.twait h))).setCluster 0 { Cluster.idle with remote := [⟨0, 5, 2, 9, 1, 0⟩], land := [(15, ⟨0, 1, true, 0, 1, 0, 6, 1⟩)] }

theorem wit_ArrivingSignalsRaiseTokens :
    (∃ x, (signalled.cluster 0).remote = [⟨0, 5, 2, 9, 1, 0⟩] ∧ signalled.runOf 0 = some (0, 0, x) ∧ (x.sq.token 5).count + 2 ≤ 65535 ∧ x.tokErrs = []) ∧
    (tabGet Landing.unbound (signalled.cluster 0).land 15).due ≠ 0 ∧
    ∃ x, signalled.runOf (tabGet Landing.unbound (signalled.cluster 0).land 15).core = some (0, 0, x) ∧
      (x.sq.token (tabGet Landing.unbound (signalled.cluster 0).land 15).token).count + 1 ≤ 65535 ∧ x.tokErrs = [] :=
  ⟨⟨_, by decide +kernel, rfl, by decide +kernel⟩, by decide +kernel, _, rfl, by decide +kernel⟩

/-- Core 0 with its five units stopped as `a` says. -/
def stopped (a : Halt) : Core :=
  { coreAt [] 0 (.twait h) with sq := ⟨⟨0, [], [], [[], [], [], [], []], []⟩, (List.range 5).map fun u => (u, ⟨0, [], 0, a, 1⟩), [], [], [], []⟩ }

/-- A conductor holds office. -/
def office (s : State) : State := { s with conductor := { s.conductor with inOffice := true } }

theorem wit_BarrierGathersAndReleases :
    let s := withStep (withCore (office State.reset) (stopped .atEnd))
    let y : Step := { step0 with arrived := [1] }
    let r := withStep (withCore (office State.reset) (stopped (.atYield false 0))) y
    let z : Step := { step0 with leaving := [0, 1] }
    let q := withStep (withCore State.reset (stopped (.atYield false 0))) z
    (s.physOf 0 = some 0 ∧ (s.core 0).run.isSome = true ∧ s.running 0 = some step0 ∧ step0.fail = none ∧ step0.replayReq = false ∧ step0.rollReq = false ∧
      step0.preemptReq = false ∧ (s.core 0).sq.late = [] ∧ tabGet 0 step0.nmuOpen 0 = 0 ∧ s.conductor.inOffice = true ∧ (s.core 0).stoppedAt = some true ∧
      (s.stepCores step0).all (step0.arrived ++ [0]).contains = false) ∧
    (r.running 0 = some y ∧ (r.core 0).stoppedAt = some false ∧ (r.stepCores y).all (y.arrived ++ [0]).contains = true ∧
      (r.imageOf 0).passEnded 0 y.segment = none) ∧
    q.running 0 = some z ∧ ((List.range 5).filterMap (q.core 0).sq.head) = [] ∧ (q.core 0).sq.tokens = [] ∧ (q.core 0).tokErrs = [] := by
  decide +kernel

/-- Partition 0 enabled, none of its steps running, with `xs` in its queue and `bs` as backfill. -/
def idlePart (xs bs : List Step) : State :=
  ((office (withStep (withCore State.reset Core.idle))).setNum 0x2100 3 1).setPart 0 { Part.idle with queue := xs, backfill := bs }

theorem wit_StepsStart :
    let x : Step := { step0 with stage := .queued }
    let y : Step := { x with backfill := true, started := false }
    let z : Step := { x with backfill := true }
    let s := idlePart [x] []
    let r := (idlePart [] [y]).setNum 0x6300 2 1000000
    let q := ((idlePart [] [z]).setNum 0x6300 2 1000000).boundary 0
    (s.mayStart 0 = true ∧ s.replayWaits 0 = false ∧ ((s.boundary 0).part 0).queue = [x]) ∧
    (idlePart [{ x with stage := .replay }] []).replayWaits 0 = true ∧ r.replayWaits 0 = false ∧
    (z.started = true ∧ q.running 0 = none ∧ (q.part 0).queue = [] ∧ (q.part 0).backfill = [z] ∧ z.bound - q.now ≤ q.eff 0 0x6300 2) ∧
    y.started = false ∧ r.mayStart 0 = true ∧ ((r.boundary 0).part 0).queue.any (fun x => x.req.client == (r.boundary 0).eff 0 0x6300 1) = false ∧
      (r.boundary 0).running 0 = none ∧
      ((r.boundary 0).part 0).backfill.find? (fun x => decide (x.stage = .queued) &&
        decide (((r.boundary 0).imageOf x.slot).stepLength (r.boundary 0).admClock ((r.boundary 0).classNow x) x.bracket 0 ≤
          (r.boundary 0).eff 0 0x6300 2) &&
        decide (((r.boundary 0).imageOf x.slot).stepLength (r.boundary 0).admClock ((r.boundary 0).classNow x) x.bracket 0 +
          (((r.boundary 0).part 0).queue.foldl (fun m x => max m x.bound) 0 - (r.boundary 0).now) ≤ 200000000)) = some y := by
  decide +kernel

theorem wit_StepsResumeAndReplay :
    let x : Step := { step0 with stage := .parked, savedCores := [⟨0, 0, Core.idle⟩] }
    let s := idlePart [x] []
    let y : Step := { step0 with stage := .replay }
    let r := idlePart [y] []
    let b := (r.settle 0).boundary 0
    (s.mayStart 0 = true ∧ s.replayWaits 0 = false ∧ ((s.boundary 0).part 0).queue = [x] ∧ x.savedCores.find? (fun k => (s.boundary 0).coreFenced k.phys) = none) ∧
    (r.settle 0).mayStart 0 = true ∧ b.running 0 = none ∧ (b.part 0).steps.find? (fun x => decide (x.stage = .replay)) = some y ∧
      (b.chooseBracket 0 (b.imageOf y.home) y.req.size).isSome = true ∧
      (b.replayFits 0 y ((b.imageOf y.home).stepLength b.admClock (b.admClass (b.imageOf y.home)) 0 0)).isSome = true := by
  decide +kernel

/-- Client 0 of partition 0 with a record waiting, its ring empty, the host port up. -/
def recording : State :=
  (((({ State.reset with clients := [(0, ⟨0, [([1], true)], true⟩)] } : State).setNum 0x2000 1 1).setNum 0x6000 1 1).setNum 0xC000 9 16).setNum 0xC000 8 4096

theorem wit_CompletionRecordWritten :
    let b := recording.settle (recording.num (clientObj 0) 2)
    let w := (b.client 0).written
    (b.client 0).waiting = [([1], true)] ∧ b.p0Up = true ∧ b.num 0x2000 1 = 1 ∧
      (w + 2 ^ 32 - b.num (clientObj 0) 0x0A % 2 ^ 32) % 2 ^ 32 < b.num (clientObj 0) 9 := by
  decide +kernel

theorem wit_HangIsReported :
    let i : Engine := .twait ⟨3, 2, ⟨0, 0, 0, 0, 0⟩, ⟨0, 0, 0, 0, 0⟩⟩
    let s := at' 2 i
    s.conductor.inOffice = false ∧ (office s).conductor.inOffice = true ∧ (s.part 0).hangAt = none ∧ ((s.core 0).sq.unit 2).halt = .running ∧
      (s.core 0).run.isSome = true ∧ s.physOf 0 = some 0 ∧ ((s.core 0).sq.head 2) = some i ∧ ((s.core 0).sq.token 3).readyAt 2 0 = none ∧
      (s.part 0).lastHang = none ∧ s.num 0x8130 8 ≠ 2 := by
  decide +kernel

/-! #### Links, the mesh, beside-memory units -/

/-- Port 0 of die 0 in service, as `l` says. -/
def linked (l : LinkSt) : State := ({ State.reset with links := [] } : State).setLink 0 0 { l with state := 1 }

/-- A flit of 16 pairs of words, `f` at pair 0 and `g` at pair 1. -/
def flit (f g : BitVec 128) : List CodeWord :=
  [eccEncode (f.extractLsb' 0 64), eccEncode (f.extractLsb' 64 64), eccEncode (g.extractLsb' 0 64), eccEncode (g.extractLsb' 64 64)] ++
    List.replicate 28 0

/-- A header of a read (0x01), a write (0x02), or an answer, from die 1 to die `d`. -/
def tx (op d : Nat) : TxHeader := { decodeTx 0 with opcode := BitVec.ofNat 6 op, srcDie := 1, dstDie := BitVec.ofNat 6 d, granule := 3 }

/-- A control flit with sequence number 0 that announces a write. -/
def ctl : List CodeWord := flit (encodeLink { decodeLink 0 with slotValid := 1 }) (encodeTx (tx 2 0))

theorem wit_EdgePortsTrainAndReplay :
    0 < portCount 0 ∧ (State.reset.link 0 0).state = 0 ∧
      ((linked { LinkSt.idle with waiting := true }).link 0 0).state = 1 ∧
      ((linked { LinkSt.idle with waiting := true, replays := [(1, 3)] }).link 0 0).waiting = true := by decide +kernel

/-- The port after it has taken that control flit: its data flit, to be joined to its header, comes next. -/
def mid : LinkSt := { LinkSt.idle with lastSeq := 0, group := [some (tx 2 0)], place := 1, taken := 1 }

theorem wit_FlitsAreTaken :
    let l := (linked { LinkSt.idle with place := 0 }).link 0 0
    let m := (linked mid).link 0 0
    let r := checkFlit (wireWords (toWire ctl))
    let z := toWire (List.replicate 32 poisonMask)
    let k := decodeLink (pairAt r.1 0)
    (l.state = 1 ∧ l.waiting = false ∧ (toWire ctl).length = 9 ∧ l.place = 0 ∧ r.2 = [] ∧ r.1 = ctl ∧
      k.flitSeq.toNat = (l.lastSeq + 1) % 4096 ∧ badLink k = false ∧ k.slotValid ≠ 0) ∧
    (m.state = 1 ∧ m.waiting = false ∧ m.place ≠ 0 ∧ m.place ≤ m.group.length ∧ m.group.getD 0 none ≠ none ∧
      ({ m with group := [none] } : LinkSt).group.getD 0 none = none) ∧
    (z.length = 9 ∧ (checkFlit (wireWords z)).2 ≠ [] ∧ (checkFlit (wireWords z)).2.all (tabGet [] l.bad l.place).contains = false) := by decide +kernel

/-- A packet waiting at output 16 of die 0x28. -/
def waiting : Packet := ⟨0x28, 16, tx 1 2, [], false, 0, 0⟩

theorem wit_StalePacketsGoFirst :
    let s : State := { State.reset with packets := [waiting] }
    let r := s.setLink 0x28 16 { LinkSt.idle with credits := [(0, 0)] }
    (s.packets.filter fun q => q.die == 0x28)[1]? = none ∧
    ((s.packets.filter fun q => q.die == 0x28)[0]? = some waiting ∧
      s.packets.filter (fun q => q.die == 0x28 && q.port == waiting.port) = [waiting] ∧ (s.link 0x28 waiting.port).room waiting = true) ∧
    ∀ q ∈ r.packets, (r.link 0x28 q.port).room q = false := by decide +kernel

/-- A header whose granule lies in no stack. -/
def nowhere (op : Nat) : TxHeader := { tx op 0x10 with granule := 0xFFFFFFFFFFFF }

theorem wit_GranulesAreServed :
    let s := State.reset
    s.reach 1 0 = true ∧ s.reach 1 0x10 = true ∧ (tx 1 0).opcode = 1 ∧ (tx 2 0).opcode = 2 ∧ (s.place (tx 1 0x10).address).isSome = true ∧
      (s.logicalPlace (tx 2 0x10).address).isSome = true ∧ (s.cluster 0).landErrs = [] ∧ s.place (nowhere 1).address = none ∧ s.logicalPlace (nowhere 2).address = none := by
  decide +kernel

theorem wit_UnreachableDiesAreAnswered : (State.reset.setNum 0x9210 1 3).reach 1 0 = false := by decide +kernel

theorem wit_AnswersAreTaken :
    let f := { flight 3 none with unacked := 2 }
    let g := { flight 4 none with acks := 1, unacked := 1 }
    (flying f).tagCore 0 0 0 = some 0 ∧
    findIdx (fun (f : Flight) => f.unit == 3 && f.complete.isNone && f.unacked != 0) ((flying f).core 0).sq.flights = some (0, f) ∧
    findIdx (fun (f : Flight) => f.unit == 4 && f.complete.isNone && f.acks != 0) ((flying g).core 0).sq.flights = some (0, g) ∧
    findIdx (fun (f : Flight) => f.unit == 4 && f.complete.isNone && f.unacked != 0) ((flying g).core 0).sq.flights = some (0, g) ∧
    findIdx (fun (f : Flight) => f.unit == 4 && f.complete.isNone && f.acks != 0) ((flying f).core 0).sq.flights = none ∧
    findIdx (fun (f : Flight) => f.unit == 4 && f.complete.isNone && f.unacked != 0) ((flying f).core 0).sq.flights = none ∧
    findIdx (fun (f : Flight) => f.unit == 3 && f.complete.isNone && f.unacked != 0) ((flying g).core 0).sq.flights = none ∧
    16 ≤ (tx 0x10 16).dstDie.toNat ∧ (tx 0x10 16).opcode = 0x10 ∧ (tx 0x11 0).opcode = 0x11 ∧
    (tx 0x21 0).opcode = 0x21 ∧ eccCheck (eccEncode 5) = .clean ∧ eccCheck poisonMask = .uncorrectable := by decide +kernel

/-- A command granule: an EWISE over one granule at address 0, its record at granule 0 of cluster 0. -/
def ewise : List Byte := patch (patch (patch (List.replicate 256 0) 0 [3, 1]) 0x48 [1]) 0x4C [2]

/-- Partition 0 with a region of kind 1 at address 0 and a share of every stack's units. -/
def beside : State :=
  ((({ State.reset with slots := [(0, ⟨some { Image.empty with regions := [⟨3, 1, 0, 0, 0, 0, 4096, 0, 0, 0⟩] }, [(3, 0)], none⟩)] } : State).setNum
    0x2100 1 1).setNum 0x5200 9 1).setNum 0x4000 3 0

/-- The command of that granule. -/
def cmd : NmuCmd := { beside.newCmd 0 0 { tx 0x20 0x10 with granule := 2 } with granules := [ewise], held := true }

theorem wit_NmuCommandsRun :
    let ws := (chunksOf 8 32 ewise).map fun b => eccEncode (BitVec.ofNat 64 (leNat b))
    let t : TxHeader := { tx 0x20 (mDie 0) with granule := 2 }
    let s := beside.setCmds 0 0 [cmd]
    (t.opcode = 0x20 ∧ t.granule.toNat / 2 = 1 ∧ mDie 0 ≤ t.dstDie.toNat ∧ t.dstDie.toNat < xDie 0 ∧ beside.reach 1 (mDie 0) = true ∧ (ws.all fun w => decide (eccCheck w = .clean)) = true ∧
      beside.cmdsOf 0 0 = [] ∧ wordBytes (checkFlit ws).1 = ewise ∧ beside.heldStatus 0 0 { cmd with held := false } = 0) ∧
    s.front 0 0 = some (0, cmd) ∧ cmd.held = true ∧ cmd.running = false ∧ cmd.status = 0 ∧ cmd.kind = 3 := by decide +kernel

theorem wit_NmuCommandEnds :
    let c := { cmd with running := true }
    let s := beside.setCmds 0 0 [c]
    s.front 0 0 = some (0, c) ∧ c.coll = none ∧ s.returnOk 0 c = true ∧ s.reach (mDie 0) c.retDie = true ∧ s.coll.insts = [] ∧ (s.part 0).stop = none ∧
      s.running 0 = none ∧ (s.cluster 0).buf.errs = [] ∧ (s.cluster 0).landErrs = [] := by decide +kernel

/-! #### Collective engines -/

/-- An all-reduce of FP32 over modules 0 to 3, four chunks of 256 bytes. -/
def coll4 (op : Nat := 0) : CollE := ⟨0, 7, 9, op, 1, [0, 1, 2, 3], 1024, 256⟩

/-- Its instance 0 on module 0, with chunk `c` as `k`. -/
def inst4 (c : Nat) (k : ChunkSt) (op : Nat := 0) : Inst :=
  { part := 0, group := 7, seq := 0, epoch := 0, key := 9, entry := coll4 op, started := true, slot := 2, base := 0, written := []
    chunks := if k = .new then [] else [(c, k)], abort := none, speculative := false, used := false, signals := [], first := none, readyAt := none }

/-- Module 0 with instance `i`. -/
def member (i : Inst) : State := ({ State.reset with coll := { State.reset.coll with insts := [i] } } : State).setNum 0x6100 1 0

/-- The completion of an ST of mode 1 that opened the instance. -/
theorem wit_CompletionsSignal_instance :
    let g := flight 3 none 458753
    let k : ChunkSt := { ChunkSt.new with phase := .provisional }
    let i := { inst4 0 k with speculative := true, chunks := [(0, k), (1, k), (2, k), (3, k)] }
    let s : State := { flying g with coll := { State.reset.coll with insts := [i] } }
    (∃ k, s.runOf 0 = some (0, 0, k) ∧ k.sq.flights.find? (fun f => f.unit == 3 && s.arrivedAll f) = some g ∧ k.sq.late = []) ∧ g.inst ≠ 0 ∧
      s.inst ((g.inst - 1) / 65536) ((g.inst - 1) % 65536) = some i ∧ i.done = false :=
  ⟨⟨_, rfl, by decide +kernel⟩, by decide +kernel⟩

/-- A message of kind `k` about chunk `c` from the node of `n` leaves from `a`, sent by module 1. -/
def msg (k c a n : Nat) (op : Nat := 0) : CollMsg :=
  { collOfBytes [] with
    kind := BitVec.ofNat 8 k, group := 7, rankCount := 4, orderKey := 9, srcModule := 1, chunk := BitVec.ofNat 32 c
    nodeFirst := BitVec.ofNat 16 a, nodeSpan := BitVec.ofNat 16 n, operation := BitVec.ofNat 8 op, dataFmt := 1, chunkBytes := 256, length := 1024 }

/-- What `Arrives` asks, by evaluation, in a module without steps. -/
def arrivesOk (s : State) (i : Inst) (m : CollMsg) (d : List CodeWord) : Bool :=
  !badMsg m && decide (m.dstModule.toNat = s.moduleId) && decide (s.inst m.group.toNat m.seq.toNat = some i) && decide (s.coll.insts = [i]) &&
    i.abort.isNone && !i.done && decide (i.slot ≠ 0) && decide (disagreement i m = 0) &&
    decide (m.chunk.toNat < i.entry.chunks.length) && decide (8 * d.length = payloadLen m) && d.all (fun w => decide (eccCheck w ≠ .uncorrectable)) &&
    !(i.chunk m.chunk.toNat).seen.contains ⟨m.kind.toNat, m.nodeFirst.toNat, m.nodeSpan.toNat, m.round.toNat⟩ &&
    decide (m.round.toNat = (i.chunk m.chunk.toNat).round) && decide ((s.part i.part).stop = none) && decide (s.running i.part = none) &&
    i.readyAt.isNone

theorem arrives_of {s : State} {i : Inst} {m : CollMsg} {d : List CodeWord} (w : arrivesOk s i m d = true) : Arrives s i m d := by
  simp only [arrivesOk, Bool.and_eq_true, Bool.not_eq_true', decide_eq_true_eq, Option.isNone_iff_eq_none] at w
  obtain ⟨⟨⟨⟨⟨⟨⟨⟨⟨⟨⟨⟨⟨⟨⟨h1, h2⟩, h3⟩, h4⟩, h5⟩, h6⟩, h7⟩, h8⟩, h9⟩, h10⟩, h11⟩, h12⟩, h13⟩, h14⟩, h15⟩, h16⟩ := w
  exact ⟨h1, h2, h3, fun j hj _ _ => by simpa [h4] using hj, h5, h6, h7, h8, h9, h10,
    fun w hw => by simpa using List.all_eq_true.mp h11 w hw, h12, h13, ⟨h14, fun x h => by rw [h15] at h; cases h⟩, h16⟩

/-- A node of two leaves from 0 whose left value has come. -/
def node2 : NodeSt := ⟨0, 2, 0, some (List.replicate 256 0), none, none, none, false, false, false, false, 0⟩

theorem wit_CollectiveMessagesTakeEffect :
    let d : List CodeWord := List.replicate 32 0
    let i := inst4 2 { ChunkSt.new with nodes := [node2] }
    let j := inst4 1 .new
    let p := inst4 1 { ChunkSt.new with phase := .provisional }
    let g := inst4 0 .new 2
    (Arrives (member j) j (msg 0x31 2 1 1) d ∧ (member j).atParent j (msg 0x31 2 1 1) = true ∧ j.landingFull = false ∧
      treeParent 4 1 1 = some (0, 2) ∧ (j.chunk 2).nodes = []) ∧
    (Arrives (member i) i (msg 0x31 2 1 1) d ∧ (i.chunk 2).nodes.find? (fun x => x.first == 0 && x.span == 2 && x.round == 0) = some node2 ∧ i.completes (msg 0x31 2 1 1) = true ∧
      treeParent 4 0 2 = some (0, 4) ∧ i.entry.computer 2 0 4 % 2 ^ 32 ≠ (member i).moduleId) ∧
    (Arrives (member j) j (msg 0x32 1 0 1) d ∧ i.entry.oneModule 0 1 = true ∧ (j.chunk 1).phase = .opened ∧
      (member j).localNode j.entry = some (0, 1) ∧ treeParent 4 0 1 = some (0, 2) ∧ j.entry.computer 1 0 2 % 2 ^ 32 ≠ (member j).moduleId) ∧
    Arrives (member g) g (msg 0x32 0 1 1 2) d ∧
    (Arrives (member i) i (msg 0x33 2 1 1) [] ∧ (i.chunk 2).phase = .opened) ∧
    (Arrives (member p) p (msg 0x34 1 0 1) [] ∧ (p.chunk 1).phase = .provisional) ∧
    (Arrives (member p) p (msg 0x35 1 0 1) [] ∧ p.entry.computer 1 0 4 ≠ 0 ∧ p.entry.computer 1 0 1 = 0 ∧ (p.chunk 1).ready = false ∧ p.used = false ∧
      0 + 1 ≤ (if ((member p).peers p.entry).isEmpty then 1 else (member p).num 0x6100 5)) :=
  ⟨⟨arrives_of (by decide +kernel), by decide +kernel⟩, ⟨arrives_of (by decide +kernel), by decide +kernel⟩,
   ⟨arrives_of (by decide +kernel), by decide +kernel⟩, arrives_of (by decide +kernel), ⟨arrives_of (by decide +kernel), by decide +kernel⟩,
   ⟨arrives_of (by decide +kernel), by decide +kernel⟩, arrives_of (by decide +kernel), by decide +kernel⟩

/-- Module 0 with fabric port 1 up for collective traffic and a route to every module, and messages out and set aside. -/
def wired (xs : List Sent) (bs : List Backoff) : State :=
  (((({ State.reset with coll := { State.reset.coll with insts := [inst4 1 .new], sent := xs, backoff := bs } } : State).setNum 0x6100 1 0).setNum 0x6100 2 2).setNum
    0x6001 1 1).setBlob 0x6200 1 [0, 0x80, 5, 0x80, 0, 0x80]

/-- A CDATA of this module to module 1, out by port 1. -/
def outgoing (resends : Nat) : Sent := ⟨{ msg 0x31 1 0 1 with srcModule := 0, dstModule := 1 }, [], 1, 0, resends, 0, []⟩

theorem wit_MessagesAreAcknowledged :
    let x := outgoing 0
    let s := wired [x] []
    let b : Backoff := ⟨x.msg, [], 1⟩
    let m := { msg 0x37 1 0 1 with chunk := 1 }
    (badMsg m = false ∧ m.dstModule.toNat = s.moduleId ∧ s.inst 7 0 = some (inst4 1 .new) ∧ disagreement (inst4 1 .new) m = 0 ∧
      disagreement (inst4 1 .new) { m with kind := 0x36 } = 0 ∧ s.coll.sent.find? (fun x => !x.ids.isEmpty && answers m x.msg) = some x ∧
      x.msg.kind ≠ 0x32 ∧ s.coll.cacks = [] ∧ ∀ y ∈ s.coll.sent, y.port ≠ 0xFF) ∧
    ((wired [] [b]).coll.backoff[0]? = some b ∧ (wired [] [b]).portFor b.msg = some 1 ∧ (wired [] [b]).freeId 1 [] = some 0 ∧
      (((wired [] [b]).inst b.msg.group.toNat b.msg.seq.toNat).map (wired [] [b]).collHeld).getD false = false) ∧
    (x.resends < 3 ∧ x.ids ≠ [] ∧ s.portAfter x.msg x.port = some 1 ∧ (s.setSent (dropAt s.coll.sent 0)).freeId 1 x.ids = some 1) ∧
    (let w := { x with port := 0xFF }
     let full := (List.range 16).map fun k => { x with msgId := k }
     w.ids = [] ∧ (wired (full ++ [w]) []).coll.sent[16]? = some w ∧ (wired full []).freeId 1 [] = none) ∧
    (let y := outgoing 3
     (wired [y] []).coll.sent[0]? = some y ∧ 3 ≤ y.resends ∧ y.ids ≠ [] ∧ (wired [y] []).inst 7 0 = some (inst4 1 .new) ∧ (inst4 1 .new).done = false ∧
      (wired [y] []).stepsOf 0 (instKey 7 0) = []) := by decide +kernel

theorem wit_QueriesAndAborts :
    let i := inst4 1 .new
    let s := wired [] []
    s.lowest 0 = some i ∧ s.inst 7 0 = some i ∧ s.coll.insts = [i] ∧ i.done = false ∧ s.stepsOf 0 (instKey 7 0) = [] ∧ s.peers i.entry ≠ [] ∧
      badMsg (msg 0x38 0 0 0) = false ∧ (msg 0x38 0 0 0).dstModule.toNat = s.moduleId ∧
      ({ msg 0x39 0 0 0 with keyOfQuery := 3 } : CollMsg).keyOfQuery.toNat ≠ i.key ∧
      disagreement i (msg 0x38 0 0 0) = 0 ∧ disagreement i { msg 0x39 0 0 0 with keyOfQuery := 3 } = 0 ∧ disagreement i (msg 0x3A 0 0 0) = 0 ∧
      s.coll.heard.contains ⟨0x38, 1, 7, 0⟩ = false ∧
      ({ s.coll with heard := [⟨0x38, 1, 7, 0⟩, ⟨0x3A, 1, 7, 0⟩] } : CollUnit).heard.contains ⟨0x3A, 1, 7, 0⟩ = true := by decide +kernel

/-- A right addition of 3 and 5, and one whose exponents differ. -/
def added : AdderCheck := ⟨false, 3, 5, 8, true, 1, 0, 0, 16, 7, 7⟩
def skewed : AdderCheck := { added with exp1 := 8 }

theorem wit_ReadinessAndVerdicts :
    let x : NodeSt := { node2 with right := some [], value := some [] }
    let i := inst4 2 { ChunkSt.new with nodes := [x] }
    let s := member i
    let y := { inst4 0 .new with entry := { coll4 with chunkBytes := 1024 } }
    let j := { y with written := y.written ++ (rangeFrom 0 1).filter fun k => !y.written.contains k }
    s.inst 7 0 = some i ∧ s.coll.insts = [i] ∧ badMsg (msg 0x30 0 0 0) = false ∧ (s.part 0).stop = none ∧ s.running 0 = none ∧ i.readyAt = none ∧ i.started = true ∧
      (y.entry.chunks.length = 1 ∧ (y.chunk 0).ready = false ∧ (member y).chunkReady j 0 = false) ∧ x ∈ (i.chunk 2).nodes ∧ x.value ≠ none ∧ x.verdict = none ∧
      x.first = 0 ∧ x.span = 2 ∧ x.round = (i.chunk 2).round ∧ (i.chunk 2).phase = .opened ∧ i.entry.computer 2 0 4 % 2 ^ 32 ≠ s.moduleId ∧
      i.first = none ∧ ((inst4 0 .new).first = none ∧ disagreement i (msg 0x30 0 0 0) = 0) ∧
      (adderChecks [(false, 3, 5)] [8] [(true, 1, 0)] [(0, 16)] [(7, 7)] = [added] ∧ [added].all AdderCheck.clean = true) ∧
      (adderChecks [(false, 3, 5), (false, 3, 5)] [8, 8] [(true, 1, 0), (true, 1, 0)] [(0, 16), (0, 16)] [(7, 7), (7, 8)] =
        [added, skewed] ∧ [added, skewed].all AdderCheck.clean = false) ∧
      ((beside.setCmds 0 0 [{ cmd with running := true, granules := [patch ewise 0 [2]] }]).front 0 0).map
        (fun c => (c.1, c.2.running, c.2.kind, c.2.status)) = some (0, true, 2, 0) ∧
      ((if added.differ then added.raw + added.b = added.a else added.raw = added.a + added.b) ∧ added.up = true ∧
        added.rounded = added.raw * 2 ^ added.shift + added.inc) := by decide +kernel

/-- A module that is released, running and served, every path open to writes. -/
def up (s : State := State.reset) : State :=
  (({ s with
      power := { s.power with phase := .running, supplyOk := true, perst := false, pwrgd := true }
      security := { s.security with active1 := some 0, active2 := some 0 }
      conductor := { s.conductor with inOffice := true } } : State).setNum 0x1010 2 1).setNum 0x2040 1 15

theorem wit_MessagesBetweenModules :
    let s := wired [] []
    let x := outgoing 0
    let r := (wired [x] []).setNum 0x6002 1 1 |>.setNum 0x6100 2 6 |>.setBlob 0x6201 1 [0, 0x80, 5, 0x80]
    s.num (0x6000 + 1) 1 = 1 ∧ s.num 0x6000 5 = 0 ∧ s.coll.assembly = [] ∧ (collOfBytes (collBytes (msg 0x37 1 0 1))).kind = 0x37 ∧
      (((codeOf (collBytes (msg 0x37 1 0 1))).take 8).all fun w => decide (eccCheck w = .clean)) = true ∧
      (r.num 0x6001 1 = 1 ∧ r.coll.sent = [x] ∧ x.port = 1 ∧ (r.setNum 0x6001 1 3).portAfter x.msg 1 = some 2) ∧
      (up.serves = true ∧ up.writeCode .mmio 0x6110 3 1 = 0) := by decide +kernel

/-! #### Debug -/

/-- Partition 0 of cluster 0 enabled, traced under the debug overlay, with the export window 2 for its drains. -/
def traced (k : Core := Core.idle) : State :=
  up ((((((((((withStep (withCore State.reset k)).setNum 0x2100 3 1).setNum 0x8000 1 1).setNum 0x8100 1 1).setNum 0x8100 2 0x3FF).setNum 0x8100 3 1).setNum
    0x8100 9 1).setNum 0x8100 6 2).setNum 0x5702 1 1).setNum 0x5702 3 65536 |>.setNum 0x5702 4 64)

/-- A core whose filmstrip is an armed ring of `n` records. -/
def filmed (n : Nat) : Core := { Core.idle with film := ⟨List.replicate n ⟨filmWord 1 1 0 0 0, false⟩, 1, 0, 0, 0⟩ }

theorem wit_TracesAndSheets :
    let s := traced (filmed 1)
    let r := traced (filmed 15)
    let m : TxHeader := { tx 0x3E 0 with granule := 0x123400000000 }
    (s.filmPart 0 = some 0 ∧ s.eff 0 0x8100 1 = 1 ∧ (s.film 0).phase = 1 ∧ (s.film 0).recs.length < filmSize 0) ∧
    (s.writeCode .mmio 0x8100 7 1 = 0 ∧ s.writeCode .mmio 0x8100 8 1 = 0 ∧ s.num 0x8100 9 = 1 ∧ (s.eff 0 0x8100 3).testBit 0 = true) ∧
    (m.opcode = 0x3E ∧ (s.eff 0 0x8100 2).testBit 6 = true) ∧ s.writeCode .mmio 0x8140 1 0xFFFF = 0 ∧ s.writeCode .mmio 0x8120 3 1 = 0 ∧
    s.serves = true ∧ (r.num 0x8100 6 < 64 ∧ r.num 0x5702 1 ≠ 0 ∧ 256 ≤ r.num 0x5702 3 ∧ 256 ≤ r.ringFree 2 ∧
      (r.filmsOf 0).find? (fun f => decide (15 ≤ ((r.film f).recs.filter fun x => !x.drained).length)) = some 0) := by decide +kernel

/-- A bath in step mode for step 1. -/
def bath (reached stopped : List Nat) : StopBath := ⟨0, 1, 0, 0, 0, 0, reached, stopped⟩

/-- Partition 0 running with bath `b`, its core 0 as `k`. -/
def bathed (b : StopBath) (k : Core) : State :=
  let s := ((traced k).setNum 0x8130 0xA 1).setNum 0x8130 8 2
  s.modPart 0 fun q => { q with stop := some b }

theorem wit_StopBathHoldsAndReleases :
    let s := (traced).setNum 0x8130 2 5
    let b := bath [] []
    let m : TxHeader := { tx 0x3C 0 with granule := 0x100000000 }
    let r := bathed b Core.idle
    let q := bathed (bath [0] []) (stopped .bath)
    let f := bathed (bath [0] []) { stopped .bath with sq := { (stopped .bath).sq with flights := [flight 2 (some 9)] } }
    let z := bathed (bath [0] []) { stopped .bath with frozen := true }
    (s.serves = true ∧ s.writeCode .mmio 0x8130 7 1 = 0 ∧ s.debugOn 0 = true ∧ s.stopAhead 0 ⟨s.num 0x8130 1, s.num 0x8130 2, s.num 0x8130 3,
      s.num 0x8130 4, s.num 0x8130 5, s.num 0x8130 6, [], []⟩ = true ∧ (up.debugOn 0 = false ∧ up.writeCode .mmio 0x8130 7 1 = 0)) ∧
    (m.partition = 0 ∧ (r.part 0).stop = some b ∧ m.granule.toNat / 2 ^ 32 = r.num 0x8130 0xA ∧ (r.partDies 0).contains 0 = true) ∧
    (q.bathStep 0 (bath [0] []) = some step0 ∧ (q.stepCores step0).filter (fun c => c / 32 == 0) ≠ [] ∧
      ((q.stepCores step0).filter fun c => c / 32 == 0).all (q.coreCut step0) = true ∧ q.coll.insts = [] ∧ (q.stepDies step0).all [0].contains = true ∧
      q.conductor.inOffice = true ∧ q.num 0x8130 8 = 2) ∧
    (q.writeCode .mmio 0x8130 9 1 = 0 ∧ f.writeCode .mmio 0x8130 9 2 = 0 ∧ f.bathStep 0 (bath [0] []) = some step0 ∧
      (f.core 0).sq.flights ≠ [] ∧ (f.core 0).run.isSome = true) ∧
    (z.physOf 0 = some 0 ∧ (z.core 0).frozen = true ∧ z.writeCode .mmio (bpObj 0) 0xF 1 = 0 ∧ z.writeCode .mmio (bpObj 0) 0xF 2 = 0) := by
  decide +kernel

/-! #### Stacks, tiers, exports, the host port -/

/-- Stack 0 as `m`. -/
def stacked (m : Stack) : State := up (State.reset.setStack 0 m)

theorem wit_StackUpkeep :
    let s := stacked { Stack.idle with trainFails := [(5, 2)], training := some 5 }
    let r := (stacked { Stack.idle with emergency := true }).setNum 0x5310 1 0x42BE0000
    let q := (stacked { Stack.idle with thermal := 2 }).setNum 0x5310 1 0x42BE0000
    let p := (stacked { Stack.idle with thermal := 3 }).setNum 0x5310 1 0x42000000
    let m : Stack := { Stack.idle with waiting2 := true, retired := [3, 4], moved := 992 }
    let n := stacked m
    let v := (((stacked m).setNum 0x2100 3 1).setNum 0x5330 1 1).setNum 0x300F 6 1
    let z := stacked { Stack.idle with retired := [3], migrating := true, moved := 991 }
    let y := stacked { Stack.idle with retired := [3], migrating := true, training := some 3 }
    ((stacked Stack.idle).stack 0).training = none ∧
    ((s.stack 0).training = some 5 ∧ tabGet 0 (s.stack 0).trainFails 5 = 2 ∧ s.effDev 0x5500 2 = 1 ∧ (s.stack 0).retired = []) ∧
    ((r.stack 0).emergency = true ∧ (f32 0x42C60000).lt (fInt 100) = true ∧ atLeast (f32 0x42D20000) (f32 (q.num 0x5300 2)) = true) ∧
    (atLeast (f32 0x42BE0000) s.throttleAt = true ∧ atLeast (s.tempOf 0) s.throttleAt = false) ∧
    ((q.stack 0).emergency = false ∧ (q.stack 0).thermal < 3 ∧ atLeast (q.tempOf 0) q.throttleAt = true) ∧
    ((p.stack 0).emergency = false ∧ 0 < (p.stack 0).thermal ∧ (p.tempOf 0).lt p.coolBelow = true) ∧
    ((n.stack 0).waiting2 = true ∧ (n.stack 0).migrating = false ∧ n.enabledParts = [] ∧ (n.stack 0).older.any n.acceptedSteps.contains = false ∧ n.underTest 80 = false) ∧
    (v.enabledParts = [0] ∧ v.num 0x5330 1 = 1 ∧ (v.num 0x300F 6).testBit 0 = true ∧ (v.stack 0).older.any v.acceptedSteps.contains = false ∧ v.underTest 80 = false) ∧
    ({ n with power := { n.power with testing := [80] } } : State).underTest 80 = true ∧
    ((z.stack 0).migrating = true ∧ (z.stack 0).moved < 992 ∧ z.underTest 80 = false ∧ (z.stack 0).trains (rangeFrom (991 * 4096) 4096) = false) ∧
    (y.stack 0).trains (rangeFrom 0 4096) = true := by decide +kernel

/-- Window 1 of partition 0 with a fill of page 9 of generation 0, and one cache page of each of windows 1 and 2. -/
def filling (f : Fill) : State :=
  ((up { State.reset with fills := [f], tier := [⟨1, 5, 0, 0, 0, 0, 0⟩, ⟨2, 5, 0, 1, 0, 0, 0⟩] }).setNum 0x5601 1 1).setNum 0x5910 1 1

/-- An image whose core 0 loads a row of tier window 1, page 9. -/
def tierImg : Image :=
  { img0 with regions := [⟨1, 5, 0xFF, 0, 1, 0, 4096, 36864, 0, 0⟩], programs := [⟨0, (coreAt descs 3 (.ld h 6)).sq.prog⟩] }

theorem wit_FillsComplete :
    let f : Fill := ⟨1, 9, 0, 0, 0, false, none, 4096, none, 1⟩
    let g : Fill := ⟨1, 9, 0, 1, 0, true, none, 4096, none, 1⟩
    let c : Fill := ⟨1, 9, 0, 0, 0, false, some 8192, 512, none, 1⟩
    let s := filling f
    let r := filling g
    let z := filling c
    let d : State := { (filling f).setNum 0x5910 1 0 with tier := [⟨1, 5, 0, 0, 0, 1, 0⟩] }
    let b := ({ filling g with slots := [(0, ⟨some tierImg, [], none⟩)] } : State).setNum 0x2100 1 1 |>.setPart 0 { Part.idle with held := [req0] }
    (s.fills.find? (fun f => f.window == 1 && f.page == 9 && f.data.isNone) = some f ∧ f.target = none ∧ (s.part 0).held = [] ∧
      f.generation = s.num 0x5601 4 ∧ ((s.count 0x8010 4 4096).takeFrame f.part).isSome = true ∧ s.num 0x5601 1 = 1 ∧ f.resent = false) ∧
    (d.fills.find? (fun f => f.window == 1 && f.page == 9 && f.data.isNone) = some f ∧ f.generation = d.num 0x5601 4 ∧ (d.part 0).held = [] ∧
      ((d.count 0x8010 4 4096).takeFrame f.part) = none) ∧
    (z.fills.find? (fun f => f.window == 1 && f.page == 9 && f.data.isNone) = some c ∧ ((List.range 64).all fun k => !z.copying k) = true) ∧
    (r.fills.find? (fun f => f.window == 1 && f.page == 9 && f.data.isNone) = some g ∧ g.generation ≠ r.num 0x5601 4 ∧ g.resent = true ∧ (r.part 0).held = []) ∧
    ((b.part 0).held = [req0] ∧ b.reaches req0 (1 * 2 ^ 52 + 9) = true ∧ b.fills = [g] ∧ b.num 0x5601 1 = 1) ∧
    ((State.reset.setPart 0 { Part.idle with held := [req0] }).part 0).held = [req0] ∧ s.serves = true ∧ s.writeCode .mmio 0x5601 4 65535 = 0 ∧ f.data = none := by
  decide +kernel

/-- Export window 1 to host memory with ring bytes `e`. -/
def exporting (e : Export) : State := ((((State.reset.setExport 1 e).setNum 0x5701 1 2).setNum 0x5701 2 0x100000).setNum 0x5701 4 1).setNum 0x6000 1 1

theorem wit_ExportsDrain :
    let s := exporting { Export.idle with staged := [⟨0, 4090, 0, 6⟩] }
    let r := (exporting { Export.idle with sealBlock := some (List.replicate 4096 1), sealAt := 5, acked := 5, sent := 5 }).setNum 0x5701 8 1
    (s.num 0x5701 1 = 2 ∧ (s.exportW 1).staged = [⟨0, 4090, 0, 6⟩] ∧ 0 < 6 ∧ 4090 % 4096 + 6 ≤ 4096) ∧
    (r.exportW 1).sealBlock = some (List.replicate 4096 1) ∧ (List.replicate 4096 (1 : Byte)).length = 4096 ∧
    (r.exportW 1).sealAt ≤ (r.exportW 1).acked ∧ r.num 0x5701 8 = 1 ∧ r.num 0x5701 1 = 2 :=
  ⟨by decide +kernel, rfl, List.length_replicate, by decide +kernel⟩

/-- Client 0 watching its table, in host memory at 0x4000 or (`pool`) in its argument pool, with P0 up. -/
def watched (v : Watch) (pool : Nat := 0) : State :=
  (((({ up with clients := [(0, ⟨0, [], true⟩)], host := { HostPort.idle with flit256 := true, watch := if v = .idle then [] else [(0, v)]
                                                                              dec0 := ⟨true, false, 0x10000, 0x40000000⟩
                                                                              dec1 := ⟨true, false, 0, 0x40000000⟩ } } : State).setNum 0xC000 3
    pool).setNum 0xC000 4 0x4000).setNum 0x6000 1 1).setNum 0x2000 2 2

/-- The same with a pool of 1 GiB for partition 0, which the table stands in, and the lent range of 1 GiB. -/
def pooled (v : Watch) : State :=
  let s := ((((watched v 1).setNum 0x2100 2 1).setNum 0x5200 6 1).setNum 0x5200 3 4).setNum 0x5900 1 1
  s.setNum 0xC000 4 (s.poolBase 0)

/-- A step request entry of step_seq `n`. -/
def entry (n : Nat) : List Byte := leBytes 4 n ++ List.replicate 124 0

theorem wit_WatchedEntriesAreRead :
    let s := watched .idle
    let r := watched ⟨1, false, false, none⟩
    let q := pooled ⟨0, false, true, none⟩
    (s.p0Open = true ∧ s.watchersOf false 0x4000 64 = [0] ∧ (s.watch 0).reads = 0 ∧ (r.watch 0).reads ≠ 0) ∧
    (q.poolWatchers 0x10000 = [0] ∧ (q.watch 0).snooped = true ∧ (q.watch 0).reads = 0) ∧
    ((s.client 0).watching = true ∧ s.num 0x2000 2 = 2 ∧ s.watchesPool 0 = false ∧ leAt (entry (s.num 0xC000 7)) 0 4 = s.num 0xC000 7 ∧
      leAt (entry 0xFFFFFFFF) 0 4 ≠ s.num 0xC000 7 ∧ (entry 0).length = 128 ∧ (s.watch 0).again = false) := by decide +kernel

/-- A word of device memory in error, and the decoder of the lent range over it. -/
def faulty : State := { (pooled .idle).setNum 0x5900 3 0 with dram := Ram.empty.setMask 0 3 }

theorem wit_HostPortServes :
    let s := (pooled .idle).setNum 0x2000 1 1
    (s.hostPieces 0 0x10040 2 = some [(s.poolBase 0 + 0x40, 0x40, 2)] ∧ s.watchersOf true (s.poolBase 0 + 0x40) 2 = []) ∧
    (s.hostPieces 1 0x100 16 = some [(s.num 0x5900 3 + 0x100, 0x100, 16)] ∧ (s.loadBytes (xDie 0) (s.num 0x5900 3 + 0x100) 16).2.ue = []) ∧
    (faulty.hostPieces 1 0 16 = some [(0, 0, 16)] ∧ (faulty.loadBytes (xDie 0) 0 16).2.ue = [0]) ∧
    (s.decoder 1 = some ⟨true, false, 0, 0x40000000⟩ ∧ s.num 0x2000 1 = 1 ∧ s.num 0x2000 2 ≠ 4 ∧ s.host.flit256 = true ∧
      (0x40000000 : BitVec 64).toNat = s.decoderSize 1) ∧
    s.stalled = false ∧ (s.power.phase = .running ∧ s.power.perst = false ∧ p0Mode 64 16 true = true) := by decide +kernel

/-! #### Codec -/

/-- A job of operation `op` on a picture of 16 by 2 samples, pitch 256, whose coded unit or ring share is of `n` bytes. -/
def jobE (op : Nat) (n : Nat := 64) : Job :=
  jobOf (leBytes 4 0 ++ leBytes 1 op ++ List.replicate 11 0 ++ (leBytes 8 0 ++ leBytes 8 0x1000 ++ leBytes 8 0 ++ leBytes 4 256 ++ leBytes 2 16 ++ leBytes 2 2 ++
    List.replicate 16 0) ++ leBytes 8 0x2000 ++ leBytes 4 n ++ List.replicate 52 0) 5 none

/-- Channel `c` running `j`, its pipe in `mode`, in an enabled module with export window 0 of 1 MiB. -/
def coding (c : Nat) (j : Job) (mode : Nat := 0) : State :=
  ((((up { State.reset with channels := [(c, { Channel.idle with jobs := [j] })] }).setNum 0x2000 1 1).setNum 0x2000 2 2).setNum
    (0x7010 + chanDie c) 1 mode).setNum 0x5700 4 1

theorem wit_CodecJobsRun :
    let s := (coding 8 (jobE 2)).setNum (chanObj 9) 1 1
    let l := s.loadBytes (sDie (chanDie 9)) (s.entryAddr (4096 + 9)) 128
    let e := coding 0 (jobE 1)
    let w := coding 0 (jobE 1 0x200000)
    let f := coding 0 { jobE 1 with waiting := true }
    let a := coding 0 (jobE 3) 2
    let u := s.codecLoad (s.num (chanObj 8) 2) (chanDie 8) (jobE 2).addr (jobE 2).len
    let z := (e.modJob 0 fun k => { k with waiting := false, done := true }).loadPicture 0 0 (layoutPlanes (jobE 1).pic.layout) (jobE 1).pic
    (s.num (chanObj 9) 1 = 1 ∧ s.num 0x2000 2 = 2 ∧ (s.channel 9).records = [] ∧ l.2.ue = [] ∧ leAt l.2.bytes 0 4 = s.num (chanObj 9) 6) ∧
    (w.job 0 = some (jobE 1 0x200000) ∧ (jobE 1 0x200000).op = 1 ∧ w.mayEncode 0 = true ∧ w.ringFree (w.num (chanObj 0) 0x15) < (jobE 1 0x200000).len) ∧
    (e.job 0 = some (jobE 1) ∧ e.mayEncode 0 = true ∧ (jobE 1).done = false ∧ (jobE 1).len ≤ e.ringFree (e.num (chanObj 0) 0x15) ∧
      z.2.2 = [] ∧ (e.channel 0).recons = [] ∧ (z.1.searchRefs 0 false []).2.2 = [] ∧ (z.1.searchRefs 0 true []).2.2 = [] ∧ (f.job 0).map Job.waiting = some true ∧
      f.mayEncode 0 = true) ∧
    (s.job 8 = some (jobE 2) ∧ (jobE 2).op = 2 ∧ (jobE 2).done = false ∧ u.2.ue = [] ∧
      (u.1.readRefs 8 (u.1.unitHeaders 8 u.2.bytes)).2.2 = [] ∧ (s.setNum 0x7000 4 1).num 0x7000 4 ≠ 0) ∧
    (a.job 0 = some (jobE 3) ∧ (jobE 3).op = 3 ∧ (jobE 3).done = false ∧ a.pipeNextOf 0 = 0 ∧ a.pipeMode 0 = 2 ∧
      ((a.modJob 0 fun k => { k with done := true }).loadPicture 0 0 1 (jobE 3).pic).2.2 = []) := by decide +kernel

/-- A set-up encode channel 1 and its partition, enabled. -/
def settable : State :=
  let s := (((coding 0 (jobE 1)).setNum 0x2100 3 1).setNum 0x5200 6 1).setNum 0x5200 3 4
  let s := ((((s.setNum 0x7101 3 (s.poolBase 0)).setNum 0x7101 4 16).setNum 0x7101 8 16).setNum 0x7101 7 0x10000).setNum 0x7101 0x0E 10
  ((s.setNum 0x5700 1 1).setNum 0x7101 0x16 (s.num 0x5200 8)).setNum 0x7101 0x17 0x1000000

theorem wit_ChannelsAndPipes :
    let j := { jobE 1 with done := true }
    let s := coding 0 j
    let r := ({ State.reset with channels := [(0, { Channel.idle with records := [(List.replicate 64 0, true)] })] } : State)
    let r := ((r.setNum 0x6000 1 1).setNum 0x7100 8 16).setNum 0x2000 1 1
    let n := (coding 2 (jobE 3)).setNum 0x7100 1 0
    let d := fun b w => coding 8 { jobE 2 with done := true, picture := some (7, b, w) }
    ((s.job 0).any Job.done = true ∧ s.job 0 = some j ∧ j.picture = none ∧ ((s.finished 0).channel 0).jobs = [j]) ∧
    (((d false false).job 8).any (fun k => k.picture == some (7, false, false)) = true ∧
      ((d true true).job 8).any (fun k => k.picture == some (7, true, true)) = true) ∧ ((r.channel 0).records = [(List.replicate 64 0, true)] ∧ r.p0Up = true ∧ r.recordRoom 0 = true ∧ r.num 0x2000 1 = 1) ∧
    (n.num 0x2000 1 = 1 ∧ n.num (0x7010 + 0) 4 = 0 ∧ n.writeCode .mmio 0x7010 2 1 = 0 ∧ n.pipeMode 0 ≠ 3 ∧ n.inPipe 0 = false ∧ n.inPipe 1 = false) ∧
    (s.inPipe 0 = true ∧ (n.setNum 0x7010 1 2).writeCode .mmio 0x7010 3 1 = 0) ∧
    (settable.chanCheck 1 = none ∧ settable.writeCode .mmio (chanObj 1) 1 1 = 0 ∧ settable.num (chanObj 1) 1 ≠ 1 ∧ settable.serves = true ∧
      n.chanCheck 1 ≠ none ∧ n.writeCode .mmio (chanObj 1) 1 1 = 0 ∧ settable.writeCode .mmio (chanObj 1) 1 0 = 0) := by decide +kernel

/-! #### The dictionary -/

/-- A configuration that may be enabled: partition 0 with cluster 0, 4 GiB of spread memory and 1 GiB of pool, no fabric port. -/
def conf (s : State := State.reset) : State :=
  ((((((((up s).setNum 0x2100 1 1).setNum 0x2100 2 1).setNum 0x5200 3 4).setNum 0x5200 1 1000).setNum 0x5200 6 1).setNum 0x5800 1 64).setNum 0x8E10 1
    0x42480000).setNum 0x6100 2 0

/-- A `xw_ctrl` value that begins access `op` of `n` bytes to an object. -/
def ctrl (o sub op n : Nat) : BitVec 64 := BitVec.ofNat 64 (o * 2 ^ 48 + sub * 2 ^ 40 + op * 2 ^ 32 + n * 2 ^ 16 + 1)

theorem wit_DictionaryReads :
    let s := (up.setNum 0x6000 1 1).setNum 0x8E00 2 16
    let c := s.setNum 0x8E00 1 0x0000100000000100
    let off : State := { s with conductor := { s.conductor with inOffice := false } }
    State.reset.manages = false ∧ (off.manages = true ∧ off.conductor.inOffice = false ∧ off.xwBusy = false ∧ ({ off with heldOps := [.read .mmio 0x2010 1 0] } : State).xwBusy = true) ∧ s.serves = true ∧ s.readCode 0x6110 3 = 0x0103 ∧
    (s.readCode 0x2010 1 = 0 ∧ isBlob 0x2010 1 = false) ∧
    (let k := ctrl 0x2010 1 1 0
     s.p0Up = true ∧ s.xwBusy = false ∧ k.toNat.testBit 0 = true ∧ bits k.toNat 39 32 = 1 ∧ bits k.toNat 15 4 = 0 ∧ bits k.toNat 63 48 = 0x2010 ∧ bits k.toNat 47 40 = 1) ∧
    (routeOk 1 131071 1 = true ∧ routeOk 7 0 512 = true ∧ s.readCode 0x6200 1 = 0) ∧
    (s.readCode 0x8E00 3 = 0 ∧ (s.setNum 0x8E00 2 0x1000000).loupeCode ≠ 0 ∧ c.loupeCode = 0 ∧ c.loupeTarget.space = 1 ∧ c.loupeTarget.isCore = true ∧
      c.loupeTarget.offset = 0x100 ∧ (s.core 0).opnd = Ram.empty) ∧ s.readCode 0xB300 0xA = 0 := by decide +kernel

/-- Object 0x5600:2 and 0x5600:5. -/
def rowW : ObjRow := ⟨0x5600, 0x563F, 2, 2, .addr, .rwd, 0, .no⟩
def rowT : ObjRow := ⟨0x5600, 0x563F, 5, 5, .blob, .rwd, 0, .no⟩

theorem wit_DictionaryWrites :
    let s := up.setNum 0x6000 1 1
    let off : State := { s with conductor := { s.conductor with inOffice := false } }
    let k := ctrl 0x5600 2 2 8
    (objRow 0x5600 2 = some rowW ∧ isBlob 0x5600 2 = false ∧ objBytes 0x5600 2 rowW.ty = 8 ∧ s.writeEnable 0x5600 2 0x1000 = none ∧
      (leBytes 8 0x1000).length = 8 ∧ leNat (leBytes 8 0x1000) = 0x1000 ∧
      s.serves = true ∧ s.writeCode .mmio 0x5600 2 0x1000 = 0 ∧ isEnable 0x5600 2 = false ∧ (s.setNum 0x2000 1 1).writeCode .mmio 0x5600 2 0x1000 = 0x0103) ∧
    (s.p0Up = true ∧ s.xwBusy = false ∧ bits k.toNat 63 48 = 0x5600 ∧ bits k.toNat 47 40 = 2 ∧ bits k.toNat 39 32 = 2 ∧ bits k.toNat 31 16 = 8 ∧ bits k.toNat 15 4 = 0 ∧
      k.toNat.testBit 0 = true) ∧
    (objRow 0x5600 5 = some rowT ∧ isBlob 0x5600 5 = true ∧ s.accessCode .mmio 0x5600 5 = 0 ∧ blobOk 0x5600 5 .blob (leBytes 4 1) = true ∧
      allZero (leBytes 4 1) = false) ∧
    (off.manages = true ∧ off.conductor.inOffice = false ∧ off.xwBusy = false) ∧ s.writeCode .mmio 0x1002 1 0x20100100 = 0 ∧
    (routeOk 7 131071 1 = true ∧ (∀ e ∈ chunksOf 2 512 [5, 0x80], bits (leNat e) 14 12 = 0) ∧ s.accessCode .mctp (0x61FF + 7) 1 = 0) := by decide +kernel

theorem chunks_zero (m k : Nat) (l : List Byte) :
    chunksOf 2 (m + k) (List.replicate (2 * m) 0 ++ l) = List.replicate m [0, 0] ++ chunksOf 2 k l := by
  induction m with
  | zero => simp
  | succ m ih =>
    rw [show m + 1 + k = (m + k) + 1 by omega, show 2 * (m + 1) = 2 * m + 1 + 1 by omega, List.replicate_succ, List.replicate_succ,
      List.replicate_succ]
    simp only [List.cons_append, chunksOf, List.take_succ_cons, List.take_zero, List.drop_succ_cons, List.drop_zero, ih]

theorem wit_DictionaryWrites_table : let s := up
    blobOk (0x61FF + 7) 1 .blob (patch (s.readBlob .mctp (0x61FF + 7) 1) (2 * 131071) [5, 0x80]) = true := by
  intro s
  have h : s.readBlob .mctp (0x61FF + 7) 1 = List.replicate 262144 0 := by
    have e : s.blob 0x6206 1 = [] := by decide +kernel
    simp [State.readBlob, e, -List.reduceReplicate]
  have t : patch (List.replicate 262144 0) (2 * 131071) ([5, 0x80] : List Byte) = List.replicate (2 * 131071) 0 ++ [5, 0x80] := by
    simp [patch, -List.reduceReplicate]
  have c : chunksOf 2 131072 (List.replicate (2 * 131071) (0 : Byte) ++ [5, 0x80]) = List.replicate 131071 [0, 0] ++ [[5, 0x80]] :=
    chunks_zero 131071 1 _
  rw [h, t]
  simp only [blobOk, c]
  simp only [List.length_append, List.length_replicate, List.all_append, List.all_replicate]
  decide

theorem wit_DeviceIsEnabledAndDisabled :
    let s := conf
    let e := ((s.setNum 0x2000 1 1).setNum 0x2000 2 2).setNum 0x2100 3 1
    let r := ((conf (withStep State.reset)).setNum 0x2000 1 1).setNum 0x2100 3 1
    (s.serves = true ∧ s.writeCode .mmio 0x2000 1 1 = 0 ∧ s.num 0x2000 1 = 0 ∧ s.num 0x2000 2 ≠ 1 ∧ s.num 0x2000 2 ≠ 4 ∧ s.portsWanted = 0 ∧
      (∀ k < 24, (s.stack k).retired.length < 2) ∧ (s.enableStatus 1).enableCheck = none ∧ s.wantedParts = [0] ∧
      ((s.setNum 0x5200 3 0).enableStatus 1).enableCheck = some (0x0203, 0x5200, 3)) ∧
    (e.writeCode .mmio 0x2000 1 0 = 0 ∧ e.num 0x2000 2 = 2 ∧ e.host.dec0.committed = false ∧ e.host.dec1.committed = false ∧ e.enabledParts = [0]) ∧
    ((e.setNum 0x2000 2 4).drained = true ∧ r.drained = false) ∧
    (r.writeCode .mmio 0x2010 1 1 = 0 ∧ r.enabledParts = [0] ∧ r.num 0x2000 1 = 1 ∧ r.running 0 ≠ none) := by decide +kernel

/-- The bytes of the smallest image: one bracket of one pass and one segment on core 0, whose streams only end, its digest written in. -/
def tiny : List Byte :=
  let sec := fun (ty len off : Nat) => leBytes 2 ty ++ leBytes 2 0 ++ leBytes 4 len ++ leBytes 8 off
  let head := leBytes 4 0x4C454942 ++ leBytes 2 1 ++ leBytes 2 0 ++ leBytes 8 0x300 ++ leBytes 4 77 ++ leBytes 4 0 ++ leBytes 4 0 ++
    leBytes 2 5 ++ leBytes 1 1 ++ leBytes 1 0
  let rest := List.replicate 64 0 ++ (sec 1 128 0x100 ++ sec 2 16 0x180 ++ sec 3 0 0x1C0 ++ sec 6 32 0x1C0 ++ sec 7 224 0x200) ++ List.replicate 48 0 ++
    (leBytes 4 0x00010100 ++ List.replicate 16 0 ++ leBytes 4 1 ++ List.replicate 40 0 ++ leBytes 1 1 ++ List.replicate 63 0) ++
    (leBytes 4 1000 ++ leBytes 4 0 ++ leBytes 2 0 ++ leBytes 1 0 ++ leBytes 1 1 ++ List.replicate 4 0) ++ List.replicate 48 0 ++
    (List.replicate 10 0 ++ leBytes 2 2 ++ leBytes 2 1 ++ leBytes 2 1 ++ leBytes 2 1 ++ leBytes 2 1 ++ List.replicate 12 0) ++ List.replicate 32 0 ++
    List.replicate 128 0 ++ (leBytes 16 (5 * 2 ^ 120) ++ (List.range 5).flatMap fun _ => leBytes 16 (7 * 2 ^ 120)) ++ List.replicate 32 0
  head ++ sha256 (head ++ List.replicate 32 0 ++ rest) ++ rest

/-- Slot 0 loading that image for partition 0. -/
def loading : State :=
  let s := ((conf.setNum 0x4000 2 0x300).setNum 0x4000 4 1).setNum 0x4000 5 1
  { s.setSlot 0 ⟨none, [], some ⟨s.dict⟩⟩ with loads := [0] }

/-- Overlay slot 0 set up as a power envelope of 1. -/
def overlaid : State := (((up.setNum 0x3000 1 1).setNum 0x3000 2 0xFFFF).setBlob 0x3000 3 (leBytes 2 0x2010 ++ leBytes 1 1 ++ List.replicate 5 0 ++ leBytes 8 1))

theorem wit_SlotsClientsAndOverlays :
    let s := conf
    let l := loading
    let m := s.setNum 0x4000 4 1
    let q : State := { loading with loads := [0, 1] }
    let c := (((s.setNum 0x2000 2 2).setNum 0x2100 3 1).setNum 0xC000 5 16).setNum 0xC000 9 16
    let o := overlaid
    (s.serves = true ∧ s.writeCode .mmio (slotObj 0) 4 1 = 0 ∧ s.num (slotObj 0) 4 ≠ 1 ∧ s.num (slotObj 0) 5 ≠ 1 ∧ s.loads = []) ∧
    (q.writeCode .mmio (slotObj 1) 4 1 = 0 ∧ q.num (slotObj 1) 4 ≠ 1 ∧ q.num (slotObj 1) 5 ≠ 1 ∧ q.loads ≠ []) ∧
    (q.writeCode .mmio (slotObj 0) 4 0 = 0 ∧ q.num (slotObj 0) 5 = 1) ∧
    (l.writeCode .mmio (slotObj 0) 4 0 = 0 ∧ l.num (slotObj 0) 5 = 1 ∧ m.num (slotObj 0) 4 = 1 ∧ m.slotInUse 0 = false ∧
      (m.setPart 0 { Part.idle with queue := [step0] }).slotInUse 0 = true) ∧
    ((l.slot 0).image = none ∧ l.fills = [] ∧ l.loads.head? = some 0 ∧ ((parseImage tiny).regions.all fun g => decide (g.init ≠ 1)) = true ∧ tiny.length = 0x300 ∧
      (l.setNum (slotObj 0) 8 tiny.length).validate tiny (parseImage tiny) ((l.slot 0).held.getD ⟨l.dict⟩) 0 = none ∧
      (l.setNum (slotObj 0) 8 0).validate [] (parseImage []) ((l.slot 0).held.getD ⟨l.dict⟩) 0 = some (0x0401, 0)) ∧
    (c.writeCode .mmio (clientObj 0) 1 1 = 0 ∧ c.num (clientObj 0) 1 ≠ 1 ∧ c.clientCheck 0 = none ∧ (c.setNum 0xC000 5 3).clientCheck 0 = some (0x0426, 0xC000, 5) ∧
      c.writeCode .mmio (clientObj 0) 1 0 = 0) ∧
    (o.serves = true ∧ o.writeCode .mmio 0x3010 1 1 = 0 ∧ o.num 0x2000 2 = 0 ∧ o.overlayCheck 1 = none ∧ o.overlayCheck 0x10000 = some (0x0107, 0x3010, 1) ∧
      o.num 0x2000 1 = 0 ∧ ∀ p < 16, o.num (0x2100 + p) 3 = 0) := by decide +kernel

/-! #### Test strips, resets, fences -/

/-- The module in bring-up with regions `l` under test in the fixed set of round `r`, or a requested strip. -/
def strips (l : List Nat) (r : Option Nat) (q : Option (Nat × Bool) := none) : State :=
  let s := up
  { s with power := { s.power with phase := if r.isSome then .bringUp else .running, round := r, testing := l, requested := q } }

theorem wit_TestStripsRun :
    let s := (strips [] none).setNum 0x1010 1 3
    let e := (s.setNum 0x2000 1 1).setNum 0x2100 3 1 |>.setNum 0x2100 1 1
    (let r := strips [] (some 0)
     r.power.phase = .bringUp ∧ r.power.round = some 0 ∧ r.power.testing = []) ∧
    ((strips [5, 9] (some 4)).power.testing.contains 5 = true ∧ (strips [5, 9] (some 3)).power.round ≠ some 4) ∧
    ((strips [5] (some 4)).power.testing = [5] ∧ (strips [5] (some 4)).power.round = some 4) ∧
    ((strips [] none (some (5, true))).power.testing.contains 5 = false ∧ (strips [] none (some (5, true))).power.requested = some (5, true) ∧
      regionCluster 5 = some 4 ∧ regionCluster 0 = some 0) ∧
    (s.serves = true ∧ s.writeCode .mmio 0xB010 1 0 = 0 ∧ s.clusterUsed 0 = false ∧ s.num 0x2000 1 = 0 ∧ s.power.requested = none) ∧
    (e.writeCode .mmio 0xB010 1 0 = 0 ∧ e.clusterUsed 0 = true ∧ e.writeCode .mmio 0xB010 1 4 = 0 ∧ regionCluster 4 = none ∧ e.num 0x2000 1 = 1) ∧
    (s.writeCode .mmio 0xB200 2 5 = 0 ∧ (s.setNum 0xB0F0 5 1).writeCode .mmio 0xB0F0 5 0 = 0) := by decide +kernel

theorem wit_ResetsAndSupplies :
    let s := up
    let z : State := { s with power := { s.power with phase := .asleep, perst := true } }
    let o := State.reset
    (s.serves = true ∧ s.writeCode .mmio 0xB0F0 1 1 = 0 ∧ s.writeCode .mmio 0xB0F0 2 1 = 0 ∧ s.writeCode .mmio 0xB0F0 3 1 = 0 ∧ s.num 0x2000 1 = 0 ∧
      s.num 0x2000 2 = 0) ∧
    ((s.setNum 0x2000 2 3).writeCode .mmio 0xB0F0 1 1 = 0 ∧ (s.setNum 0x2000 2 3).num 0x2000 2 ≠ 0 ∧ (s.setNum 0x2000 1 1).writeCode .mmio 0xB0F0 2 1 = 0) ∧
    (o.power.phase = .off ∧ auxIn 0x41400000 = true ∧ supplyIn 0x42400000 = true ∧ auxIn 0 = false ∧ supplyIn 0 = false) ∧
    (s.power.perst = false ∧ s.awake = true ∧ (z.setNum 0xB300 8 0x80).awake = false ∧ { o with power := { o.power with perst := false } }.awake = false) ∧
    (z.power.perst = true ∧ z.power.phase = .asleep ∧ (z.num 0xB300 9).testBit 7 = false ∧ ((z.setNum 0xB300 8 0x80).num 0xB300 8).testBit 7 = true ∧
      ((z.setNum 0xB300 8 0).num 0xB300 8).testBit 7 = false) ∧
    (s.power.phase ≠ .off ∧ s.power.phase ≠ .asleep ∧ ((s.setNum 0xB300 9 0xFF).num 0xB300 9).testBit 4 = true ∧ (s.setNum 0xB300 1 0x42000000).num 0xB300 1 ≠ 0) := by
  decide +kernel

theorem wit_PortResetsAndFences :
    let s := (up.setNum 0x6000 1 1).setNum 0x6001 1 1
    s.p0Resets = true ∧ (s.num 0x6001 1 ≠ 0 ∧ s.coll.sent = []) ∧ (s.serves = true ∧ s.writeCode .mmio 0x9140 1 575 = 0 ∧ s.coreFenced 575 = false) ∧
      (s.writeCode .mmio 0x9140 2 575 = 0 ∧ s.clusterUsed (clusterOfPhys 575) = false ∧ s.power.requested = none) := by decide +kernel

/-! #### Security -/

/-- A blank module, whose security objects need no session. -/
def blank : State := up.setNum 0x1010 1 0

theorem wit_FirmwareAndLifeCycle :
    blank.serves = true ∧ blank.accessCode .mctp 0xA010 1 = 0 ∧ blank.writeCode .mmio 0xA000 4 1 = 0 ∧ blank.writeCode .mmio 0xA100 1 1 = 0 ∧
      blank.transitionCode 1 = 0 ∧ blank.writeCode .mmio 0xA100 1 3 = 0 ∧ blank.transitionCode 3 = 0x0803 := by decide +kernel

/-- A verified module with a certificate chain of 4 bytes, port 0 in service, and sessions `l`. -/
def spdm (l : List Session := []) : State :=
  let s := (up.setBlob 0xA020 1 [1, 2, 3, 4]).setNum 0x6000 1 1
  { s with security := { s.security with sessions := l } }

/-- Session `id` of port 0. -/
def sess (id : Nat) (e : Bool) : Session := ⟨id, 0, e, [7]⟩

theorem wit_SpdmAnswers :
    let s := spdm
    let r := spdm [sess 1 true, sess 2 false, sess 3 true, sess 4 true]
    (s.carrierUp 0 = true ∧ s.carrierUp 8 = true ∧ s.verified = true ∧ { s with security := { s.security with active2 := none } }.verified = false ∧
      { s with security := { s.security with active2 := none } }.carrierUp 0 = true) ∧
    ({ s with security := { s.security with active2 := none } }.awake = true ∧ streamOf ⟨0, .cachemem⟩ = true ∧ s.security.identity.isSome = true) ∧
    (0 < (s.blob 0xA020 1).length ∧ s.lifecycle ≠ 0 ∧ s.lifecycle ≠ 4 ∧ (s.measurement 4).isSome = true ∧ s.session 5 = none ∧
      (s.security.sessions.filter fun x => x.carrier == 0).length < 4) ∧
    (r.session 5 = none ∧ 4 ≤ (r.security.sessions.filter fun x => x.carrier == 0).length ∧ r.session 1 = some (sess 1 true) ∧ (sess 1 true).carrier = 0 ∧
      r.session 2 = some (sess 2 false) ∧ r.carrierUp 0 = true ∧ r.verified = true ∧ (List.replicate 32 (0 : Byte)).length = 32) := by decide +kernel

/-! #### Time, conductor, halves -/

theorem wit_TimeAndCounters :
    let s := (up.setNum 0x6000 1 1).setNum 0x6400 1 1
    let a : State := { s with time := { s.time with asked := true } }
    (s.serves = true ∧ s.writeCode .mmio 0x6400 5 5000 = 0) ∧ (s.ptmPort = some 0 ∧ s.num (0x6000 + 0) 1 = 1 ∧ a.ptmPort = some 0 ∧ a.time.asked = true) ∧
      ((a.setNum 0x6400 1 9).ptmPort = some 0 ∧ (a.setNum 0x6400 1 9).time.asked = true) ∧ (s.setNum 0x6400 1 9).num 0x6400 1 = 9 ∧ (s.num 0x6400 1 ≠ 0 ∧ s.time.holdover = false) ∧
      (s.pending = [] ∧ s.power.phase = .running ∧ (s.setNum 0x2100 3 1).num 0x2100 3 ≠ 0) ∧
      tabWf 0 { s with localCounts := [(5, 3), (9, 1)] }.localCounts = true := by decide +kernel

/-- The office held by S-die 0 in term 1, all three registers its own. -/
def office3 (acks : List Nat) (claim : Option (Nat × Nat) := none) : State :=
  let s := (up.setNum 0x9200 2 1).setNum 0x9200 3 0xF
  { s with conductor := ⟨[⟨0, 1, false, 9⟩, ⟨0, 1, true, 0⟩, ⟨0, 1, false, 9⟩], true, acks, claim⟩ }

theorem wit_ConductorIsElected :
    let s := office3 [2]
    let c : State := { (office3 [0, 1] (some (2, 7))).setNum 0x9200 4 3 with heldOps := [.read .mmio 0x2000 1 0] }
    (s.conductor.regs.length = 3 ∧ (s.conductor.reg 0).free = false ∧ (s.conductor.reg 0).owner = 0 ∧ (s.conductor.reg 0).term = 1) ∧
    ((s.conductor.reg 1).free = true ∧ serialAhead 16 2 (s.conductor.reg 1).term = true ∧ serialAhead 16 1 (s.conductor.reg 1).term = false) ∧
    (s.conductor.inOffice = true ∧ s.conductor.acks.contains 0 = false ∧ s.conductor.acks.length < 2 ∧ 2 ≤ c.conductor.acks.length) ∧
    ((s.num 0x9200 3).testBit 1 = true ∧ s.elects 1 = true ∧ s.conductorDie = 0 ∧ s.elects 0 = true ∧ c.elects 2 = true ∧
      (c.setNum 0x9210 (sDie 2 + 1) 2).elects 2 = false) ∧
    (c.conductor.regs.length = 3 ∧ c.conductor.claim = some (2, 7) ∧ 2 ≤ popCount 3 5 ∧ popCount 3 4 < 2 ∧ c.split = true ∧ c.heldOps = [.read .mmio 0x2000 1 0]) := by decide +kernel

theorem wit_HalvesPart :
    let s := (office3 []).setNum 0x9200 4 3
    s.dieState 3 ≠ 3 ∧ (s.setNum 0x9210 4 3).dieState 3 = 3 ∧ s.conductor.inOffice = true ∧ s.split = true ∧
      westDie 15 ≠ westDie (sDie s.conductorDie) ∧ s.dieState 15 ≠ 2 := by decide +kernel

/-! #### The machine as a whole -/

theorem wit_ResetsNeedADisabledDevice :
    let s := (up.setNum 0x2000 1 1).setNum 0x6000 1 1
    let k := ctrl 0xB0F0 3 2 1
    s.serves = true ∧ s.num 0x2000 1 ≠ 0 ∧ s.p0Up = true ∧ s.xwBusy = false ∧ bits k.toNat 63 48 = 0xB0F0 ∧ bits k.toNat 47 40 = 3 ∧ bits k.toNat 39 32 = 2 ∧
      bits k.toNat 31 16 = 1 ∧ bits k.toNat 15 4 = 0 ∧ k.toNat.testBit 0 = true := by decide +kernel

theorem wit_AddressMapIsOneToOne :
    let s := State.reset.setNum 0x5000 1 62
    62 * 2 ^ 30 - 1 < min 62 (s.num 0x5000 1) * 2 ^ 30 ∧ (s.logicalPlace 0x020000000000).isSome = true ∧ (State.reset.logicalPlace 0x1234).isSome = true := by
  decide +kernel

theorem wit_StepRunsTheFrontCommand :
    let g := (up.setNum 0x2100 3 1).setPart 0 { Part.idle with hangAt := some 5 }
    ({ State.reset with pending := [.coolantSample 0 0] } : State).pending = [.coolantSample 0 0] ∧ State.reset.pending = [] ∧ State.reset.power.phase = .off ∧
      up.pending = [] ∧ up.power.phase ≠ .off ∧ up.time.slew = 0 ∧
      (up.parts = [] ∧ Part.idle.hangAt = none) ∧ (g.power.phase = .running ∧ g.enabledParts = [0] ∧ g.conductor.inOffice = true ∧
        (g.part 0).hangAt = some 5 ∧ g.num 0x8130 8 ≠ 2) := by decide +kernel

theorem wit_StepKeepsMemoryCanonical :
    faulty.dram.wf = true ∧ ∃ t, step { faulty with pending := [.hostMemWrite 1 0x100 [7, 8]] } = .next t := ⟨by decide +kernel, _, rfl⟩

/-! ### The checks refuse ill-formed commands -/

/-- A header that waits for token 5 and signals token 2 at completion. -/
def hOk : Header := ⟨5, 3, ⟨2, 1, 1, 0, 0⟩, ⟨0, 0, 0, 0, 0⟩⟩

/-- A transaction header of zeros. -/
def tx0 : TxHeader := ⟨0, 0, 0, 0, 0, 0, 0, 0, 0, 0, 0⟩

theorem test_illFormed_refused :
    (Instr.tsig 0 0 hOk).illFormed = none ∧
    (Instr.tsig 0 0 { hOk with waitCount := 0 }).illFormed = some .waitToken ∧
    (Instr.tsig 0 0 { hOk with sig1 := ⟨1, 0, 0, 0, 0⟩ }).illFormed = some .signalFields ∧
    (Instr.tsig 0 0 { hOk with sig1 := ⟨1, 1, 0, 0, 2⟩ }).illFormed = some .signalCore ∧
    (Instr.stepEnd 0 0 hOk).illFormed = some .stepEndSignal ∧
    (Instr.twait 0 0 { hOk with waitToken := 63 }).illFormed = some .token63 ∧
    (Instr.twait 0 0 { hOk with sig0 := ⟨63, 1, 0, 0, 0⟩ }).illFormed = some .token63 ∧
    (Instr.controlFlit 0 0 []).illFormed = some .flitLength ∧
    (Instr.wrg tx0 [0]).illFormed = some .granuleLength ∧
    (Instr.tierFillComplete 0 0 []).illFormed = some .pageLength ∧
    (Instr.stepRequestTake 0 (List.replicate 129 0)).illFormed = some .entryLength ∧
    (Instr.challenge 0 []).illFormed = some .nonceLength ∧
    (Instr.ideKeyProgram 0 ⟨0, .link⟩ []).illFormed = some .keyLength ∧
    (Instr.residueVerdict (.merge 0 0) [(false, 1, 1)] [] [] [] []).illFormed = some .tapLength := by decide +kernel

/-! ### Words written out bit by bit -/

/-- Table 4-1: opcode, wait, first signal, second signal. The header of `hOk` after an opcode. -/
def headBits : BitVec 52 := 0b000101_00000011_000010_00000001_1_0_000_000000_00000000_0_0_000#52

theorem test_decode_control :
    decodeEngine (0b00000011#8 ++ headBits ++ 0b0000000000000111_000000000010#28 ++ 0#40 : BitVec 128) = some (.loop hOk 7 2) ∧
    decodeEngine (0b00000101#8 ++ headBits ++ 0b1010#4 ++ 0#64 : BitVec 128) = some (.brb hOk 10) ∧
    decodeEngine (0b00000110#8 ++ headBits ++ 0b1_0000000000000011#17 ++ 0#51 : BitVec 128) = some (.yield hOk 1 3) ∧
    decodeEngine (0b00000100#8 ++ headBits ++ 0#68 : BitVec 128) = none ∧ decodeEngine (0b00000001#8 ++ headBits ++ 1#68 : BitVec 128) = none := by decide +kernel

theorem test_decode_matrix :
    decodeEngine (0b00010000#8 ++ headBits ++ 0b000000000001_000000000010_000000000011_0100_10_01#44 ++ 0#24 : BitVec 128) =
      some (.mma hOk ⟨1, 2, 3, 4, 2, 1⟩) ∧
    decodeEngine (0b00010001#8 ++ headBits ++ 0b000000000001_000000000010_000000000011_0100_10_01_0000000000000101_00000110#68 : BitVec 128) =
      some (.mmab hOk ⟨⟨1, 2, 3, 4, 2, 1⟩, 5, 6⟩) ∧
    decodeEngine (0b00010010#8 ++ headBits ++ 0b000000000001_000000000010_000000000011_000000000100_0101_0110_01_10_1#61 ++ 0#7 : BitVec 128) =
      some (.mmf hOk ⟨1, 2, 3, 4, 5, 6, 1, 2, 1⟩) := by decide +kernel

theorem test_decode_vector :
    decodeEngine (0b00100000#8 ++ headBits ++ 0b00000011_000000000001_000000000010_000000000011_000000000100#56 ++ 0#12 : BitVec 128) =
      some (.vop hOk ⟨3, 1, 2, 3, 4⟩) ∧
    decodeEngine (0b00100001#8 ++ headBits ++ 0b000000000001_000000000010_1#25 ++ 0#43 : BitVec 128) = some (.vcvt hOk ⟨1, 2, 1⟩) ∧
    decodeEngine (0b00100011#8 ++ headBits ++ 0b00000101_000000000001_000000000010_000000000011_1_00000111#53 ++ 0#15 : BitVec 128) =
      some (.sfn hOk ⟨5, 1, 2, 3, 1, 7⟩) := by decide +kernel

theorem test_decode_transfer :
    decodeEngine (0b00110000#8 ++ headBits ++ 0b000000001001#12 ++ 0#56 : BitVec 128) = some (.ld hOk 9) ∧
    decodeEngine (0b00110001#8 ++ headBits ++ 0b000000000001_000000000010_0000000000000011_0000000000000100#56 ++ 0#12 : BitVec 128) =
      some (.ldp hOk ⟨1, 2, 3, 4⟩) ∧
    decodeEngine (0b01000000#8 ++ headBits ++ 0b000000001001_01_0000000000000101#30 ++ 0#38 : BitVec 128) = some (.st hOk ⟨9, 1, 5⟩) := by decide +kernel

/-- Table 4-9 field by field, and a row function of Table 4-10 with its softmax and scale flags and scale 1.0. -/
theorem test_decode_descriptors :
    decodeDesc (0x2#4 ++ 0b01#2 ++ 0b10#2 ++ 3#8 ++ 4#48 ++ 5#16 ++ 6#16 ++ 7#32 ++ 0b01#2 ++ 8#17 ++ 9#13 ++ 10#8 ++ 11#24 ++ 12#17 ++ 13#17 ++ 14#9 ++
      15#17 ++ 0#4 : BitVec 256) = ⟨2, 1, 2, 3, 4, 5, 6, 7, 1, 8, 9, 10, 11, 12, 13, 14, 15, 0⟩ ∧
    decodeRowDesc (0b1111#4 ++ 0b0_1_0_1#4 ++ 0x3F800000#32 ++ 1#4 ++ 2#12 ++ 3#12 ++ 4#4 ++ 5#12 ++ 0#172 : BitVec 256) =
      ⟨0, 1, 0, 1, 0x3F800000, 1, 2, 3, 4, 5, 0⟩ := by decide +kernel

/-- An RDG of Table 1-5 and a control flit header of Table 1-4. -/
theorem test_decode_link :
    decodeTx (0b000001#6 ++ 2#6 ++ 3#2 ++ 4#6 ++ 1#2 ++ 2#2 ++ 5#12 ++ 6#8 ++ 7#4 ++ 8#48 ++ 0xFFFFFFFF#32 : BitVec 128) =
      ⟨1, 2, 3, 4, 1, 2, 5, 6, 7, 8, 0xFFFFFFFF⟩ ∧
    decodeLink (1#12 ++ 2#12 ++ 3#4 ++ 4#15 ++ 5#3 ++ 6#6 ++ 7#3 ++ 8#6 ++ 1#3 ++ 0#64 : BitVec 128) = ⟨1, 2, 3, 4, 5, 6, 7, 8, 1, 0⟩ := by decide +kernel

/-- R18: bit 8u + j of word w in UI u on lane 8((w + u) mod 32) + j, for word 30 bit 21 (u = 2, j = 5) and word 31 bit 64 (u = 8, j = 0). -/
theorem test_flit_lanes :
    let ui := (List.replicate 9 (0 : BitVec 256)).set 2 (1#256 <<< 5)
    let vi := (List.replicate 9 (0 : BitVec 256)).set 8 (1#256 <<< 56)
    (wireWords ui).getD 30 0 = 1#72 <<< 21 ∧ (wireWords vi).getD 31 0 = 1#72 <<< 64 ∧ toWire ((List.replicate 32 0).set 30 (1#72 <<< 21)) = ui ∧
      toWire ((List.replicate 32 0).set 31 (1#72 <<< 64)) = vi := by decide +kernel

/-! ### The spec's worked examples -/

/-- 02, after R100: the data word 1 has check bits 0x45. -/
theorem test_ecc_example : eccEncode 1 = (0x45#8 ++ 1#64 : BitVec 72) := by decide +kernel

/-- 09, worked address: 0x0000_0012_3456_7800 lies in stack 6, pseudo-channel 46, row 198,841. -/
theorem test_worked_address : State.reset.logicalPlace 0x1234567800 = some ⟨6, 46, 198841⟩ := by decide +kernel

/-- 02, the split K-group: three products of E4M3 in one group give 0x3680_0000; with K tiles of 32 the result is +0. -/
theorem test_split_k_group :
    let v := fun n => elemVal 4 n
    let at_ := fun (l : List (Nat × Nat)) k => v ((l.find? fun p => p.1 == k).elim 0 (·.2))
    let a := (List.range 64).map (at_ [(3, 0x78), (17, 0x01), (40, 0xF8)])
    let b := (List.range 64).map (at_ [(3, 0x78), (17, 0x01), (40, 0x78)])
    cellFloat false [] [] a b 0 = 0x36800000 ∧
    cellFloat false [] [] (a.drop 32) (b.drop 32) (cellFloat false [] [] (a.take 32) (b.take 32) 0) = 0 := by decide +kernel

end Tests
end

section
/-! SUPPORT. The 72/64 code (02_numerics.md R99 to R102). The syndrome is linear, so a codeword with an error inverted into it has
the syndrome of the error; a classification then depends on the error alone. The columns are distinct and of odd weight: one error
gives its own column, two give a nonzero syndrome of even weight, which is no column. -/

namespace Sys2Proof.Machine

/-! ### The syndrome is linear -/

theorem syndromeFrom_xor (v w : Nat) (l : List Nat) (b : Nat) :
    syndromeFrom (v ^^^ w) b l = syndromeFrom v b l ^^^ syndromeFrom w b l := by
  induction l generalizing b with
  | nil => exact (Nat.xor_self 0).symm
  | cons h t ih =>
    have bit : (if (v ^^^ w).testBit b then h else 0) = (if v.testBit b then h else 0) ^^^ (if w.testBit b then h else 0) := by
      cases hv : v.testBit b <;> cases hw : w.testBit b <;> simp [hv, hw]
    simp only [syndromeFrom, ih, bit]
    ac_rfl

theorem syndrome_xor (v w : CodeWord) : syndrome (v ^^^ w) = syndrome v ^^^ syndrome w := by
  simp only [syndrome, BitVec.toNat_xor, syndromeFrom_xor]

/-! ### Only the columns under the bits of a word count -/

theorem syndromeFrom_of_lt {w b : Nat} (h : w < 2 ^ b) (l : List Nat) : syndromeFrom w b l = 0 := by
  induction l generalizing b with
  | nil => rfl
  | cons c t ih =>
    have next : w < 2 ^ (b + 1) := h.trans (Nat.pow_lt_pow_succ (by decide))
    simp [syndromeFrom, Nat.testBit_lt_two_pow h, ih next]

theorem syndromeFrom_take {w b n : Nat} (h : w < 2 ^ (b + n)) (l : List Nat) : syndromeFrom w b (l.take n) = syndromeFrom w b l := by
  induction l generalizing b n with
  | nil => simp
  | cons c t ih =>
    cases n with
    | zero => exact (syndromeFrom_of_lt h _).symm
    | succ n => simp [syndromeFrom, ih (b := b + 1) (n := n) (by rwa [Nat.add_assoc, Nat.add_comm 1])]

theorem syndromeFrom_shiftLeft_add (m b c : Nat) (l : List Nat) : syndromeFrom (m <<< b) (b + c) l = syndromeFrom m c l := by
  induction l generalizing c with
  | nil => rfl
  | cons h t ih => simp [syndromeFrom, Nat.add_assoc, ih]

theorem syndromeFrom_shiftLeft (m b k : Nat) (l : List Nat) : syndromeFrom (m <<< (b + k)) b l = syndromeFrom m 0 (l.drop k) := by
  induction l generalizing b k with
  | nil => simp [syndromeFrom]
  | cons h t ih =>
    cases k with
    | zero => exact syndromeFrom_shiftLeft_add m b 0 _
    | succ k =>
      have low : (m <<< (b + (k + 1))).testBit b = false := by simp
      have tail := ih (b + 1) k
      rw [Nat.add_assoc, Nat.add_comm 1] at tail
      simp [syndromeFrom, low, tail]

theorem syndromeFrom_lt {n : Nat} (w b : Nat) {l : List Nat} (h : ∀ c ∈ l, c < 2 ^ n) : syndromeFrom w b l < 2 ^ n := by
  induction l generalizing b with
  | nil => exact Nat.two_pow_pos n
  | cons c t ih =>
    rw [List.forall_mem_cons] at h
    refine Nat.xor_lt_two_pow ?_ (ih _ h.2)
    split
    · exact h.1
    · exact Nat.two_pow_pos n

/-- A run of `n` bits of value `m` at bit `k` meets the `n` columns from `h(k)` on. -/
theorem syndrome_run {m n k : Nat} (hm : m < 2 ^ n) (hk : k + n ≤ 72) :
    syndrome (BitVec.ofNat 72 (m * 2 ^ k)) = syndromeFrom m 0 ((eccColumns.drop k).take n) := by
  have fits : m * 2 ^ k < 2 ^ 72 := calc
    m * 2 ^ k < 2 ^ n * 2 ^ k := Nat.mul_lt_mul_of_pos_right hm (Nat.two_pow_pos k)
    _ = 2 ^ (k + n) := by rw [Nat.add_comm, Nat.pow_add]
    _ ≤ 2 ^ 72 := Nat.pow_le_pow_right (by decide) hk
  have shift := syndromeFrom_shiftLeft m 0 k eccColumns
  rw [Nat.zero_add, Nat.shiftLeft_eq] at shift
  rw [syndrome, BitVec.toNat_ofNat, Nat.mod_eq_of_lt fits, shift, syndromeFrom_take (by simpa using hm)]

theorem eccColumns_length : eccColumns.length = 72 := rfl

theorem eccColumn_eq {b : Nat} (hb : b < 72) : eccColumn b = eccColumns[b]'(eccColumns_length ▸ hb) :=
  List.getD_eq_getElem _ _ (eccColumns_length ▸ hb)

/-- One inverted bit gives its column. -/
theorem syndrome_two_pow {b : Nat} (hb : b < 72) : syndrome (BitVec.ofNat 72 (2 ^ b)) = eccColumn b := by
  have run := syndrome_run (m := 1) (n := 1) (k := b) (by decide) hb
  rw [Nat.one_mul, List.take_one_drop_eq_of_lt_length (eccColumns_length ▸ hb)] at run
  rw [run, eccColumn_eq hb]
  exact Nat.xor_zero _

/-! ### The codeword of a data word -/

/-- The check bits of a data word with syndrome `s`, as `eccEncode` places them. -/
def checkBits (s : Nat) : Nat := (List.range 8).foldl (fun a j => if s.testBit j then a ||| 2 ^ checkBitOf j else a) 0

theorem foldl_setBits (s d : Nat) (f : Nat → Nat) (l : List Nat) (a : Nat) :
    l.foldl (fun a j => if s.testBit j then a ||| 2 ^ f j else a) (d ||| a) =
      d ||| l.foldl (fun a j => if s.testBit j then a ||| 2 ^ f j else a) a := by
  induction l generalizing a with
  | nil => rfl
  | cons j t ih =>
    simp only [List.foldl_cons]
    split
    · rw [Nat.or_assoc, ih]
    · exact ih a

theorem or_eq_add_of_lt_of_dvd {x y k : Nat} (hx : x < 2 ^ k) (hy : 2 ^ k ∣ y) : x ||| y = x + y := by
  obtain ⟨q, rfl⟩ := hy
  rw [Nat.add_comm, Nat.two_pow_add_eq_or_of_lt hx, Nat.or_comm]

theorem add_eq_xor_of_lt_of_dvd {x y k : Nat} (hx : x < 2 ^ k) (hy : 2 ^ k ∣ y) : x + y = x ^^^ y := by
  rw [← or_eq_add_of_lt_of_dvd hx hy]
  obtain ⟨q, rfl⟩ := hy
  refine Nat.eq_of_testBit_eq fun i => ?_
  by_cases hi : i < k
  · simp [Nat.testBit_two_pow_mul, Nat.not_le.2 hi]
  · simp [Nat.testBit_lt_two_pow (hx.trans_le (Nat.pow_le_pow_right (by decide) (Nat.not_lt.1 hi)))]

/-- Table 2-4, nibbles 16 and 17: the check bits lie above the data bits and their columns are the single bits. -/
theorem checkBits_spec : ∀ s < 256, 2 ^ 64 ∣ checkBits s ∧ checkBits s < 2 ^ 72 ∧ syndromeFrom (checkBits s) 0 eccColumns = s := by
  decide +kernel

/-- The syndrome of a data word, which its check bits make zero. -/
def dataSyndrome (d : BitVec 64) : Nat := syndromeFrom d.toNat 0 (eccColumns.take 64)

theorem dataSyndrome_lt (d : BitVec 64) : dataSyndrome d < 256 := syndromeFrom_lt (n := 8) _ _ (by decide)

theorem toNat_eccEncode (d : BitVec 64) : (eccEncode d).toNat = d.toNat + checkBits (dataSyndrome d) := by
  obtain ⟨hdvd, hlt, -⟩ := checkBits_spec _ (dataSyndrome_lt d)
  have fold := foldl_setBits (dataSyndrome d) d.toNat checkBitOf (List.range 8) 0
  rw [Nat.or_zero] at fold
  rw [eccEncode, BitVec.toNat_ofNat, ← dataSyndrome, fold, ← checkBits, ← or_eq_add_of_lt_of_dvd d.isLt hdvd]
  exact Nat.mod_eq_of_lt (Nat.or_lt_two_pow (d.isLt.trans (by decide)) hlt)

theorem syndrome_eccEncode (d : BitVec 64) : syndrome (eccEncode d) = 0 := by
  obtain ⟨hdvd, -, hsyn⟩ := checkBits_spec _ (dataSyndrome_lt d)
  rw [syndrome, toNat_eccEncode, add_eq_xor_of_lt_of_dvd d.isLt hdvd, syndromeFrom_xor, hsyn, dataSyndrome,
    syndromeFrom_take (by simpa using d.isLt), Nat.xor_self]

theorem codeData_eccEncode (d : BitVec 64) : codeData (eccEncode d) = d := by
  obtain ⟨⟨q, hq⟩, -, -⟩ := checkBits_spec _ (dataSyndrome_lt d)
  apply BitVec.eq_of_toNat_eq
  rw [codeData, BitVec.extractLsb'_toNat, Nat.shiftRight_zero, toNat_eccEncode, hq, Nat.add_mul_mod_self_left, Nat.mod_eq_of_lt d.isLt]

/-- What a checker says of a codeword with an error depends on the error alone. -/
theorem eccCheck_eccEncode_xor (d : BitVec 64) (e : CodeWord) : eccCheck (eccEncode d ^^^ e) = classify (syndrome e) := by
  rw [eccCheck, syndrome_xor, syndrome_eccEncode, Nat.zero_xor]

theorem eccCheck_eccEncode (d : BitVec 64) : eccCheck (eccEncode d) = .clean := by
  rw [eccCheck, syndrome_eccEncode]; rfl

/-- A correctable word is corrected by inverting the bit found. -/
theorem eccCorrect_of_correctable {w : CodeWord} {b : Nat} (h : eccCheck w = .correctable b) :
    eccCorrect w = w ^^^ BitVec.ofNat 72 (2 ^ b) := by
  rw [eccCorrect, h]

/-! ### The classification of a syndrome -/

theorem findIdx_beq_getElem {l : List Nat} (hl : l.Nodup) {i : Nat} (hi : i < l.length) :
    findIdx (· == l[i]) l = some (i, l[i]) := by
  induction l generalizing i with
  | nil => exact absurd hi (by simp)
  | cons a t ih =>
    obtain ⟨ha, ht⟩ := List.nodup_cons.1 hl
    cases i with
    | zero => simp [findIdx]
    | succ i =>
      have hi : i < t.length := by simpa using hi
      have hne : a ≠ t[i] := fun h => ha (h ▸ List.getElem_mem hi)
      simp [findIdx, hne, ih ht hi]

theorem findIdx_beq_of_notMem {l : List Nat} {s : Nat} (h : s ∉ l) : findIdx (· == s) l = none := by
  induction l with
  | nil => rfl
  | cons a t ih =>
    obtain ⟨ha, ht⟩ := not_or.1 (List.mem_cons.not.1 h)
    simp [findIdx, Ne.symm ha, ih ht]

theorem classify_of_notMem {s : Nat} (h0 : s ≠ 0) (h : s ∉ eccColumns) : classify s = .uncorrectable := by
  simp [classify, h0, findIdx_beq_of_notMem h]

theorem eccColumns_nodup : eccColumns.Nodup := by decide +kernel

/-- The parity of the weight of a syndrome: the exclusive-or of a 1 for each of its bits. -/
def weightParity (s : Nat) : Nat := syndromeFrom s 0 (List.replicate 8 1)

theorem weightParity_xor (s t : Nat) : weightParity (s ^^^ t) = weightParity s ^^^ weightParity t := syndromeFrom_xor ..

theorem weightParity_of_mem {c : Nat} : c ∈ eccColumns → weightParity c = 1 := by
  have all : ∀ c ∈ eccColumns, weightParity c = 1 := by decide +kernel
  exact all c

theorem eccColumn_mem {b : Nat} (hb : b < 72) : eccColumn b ∈ eccColumns := eccColumn_eq hb ▸ List.getElem_mem hb

theorem eccColumn_ne_zero {b : Nat} (hb : b < 72) : eccColumn b ≠ 0 := by
  intro h
  have odd := weightParity_of_mem (eccColumn_mem hb)
  rw [h] at odd
  exact absurd odd (by decide)

theorem classify_eccColumn {b : Nat} (hb : b < 72) : classify (eccColumn b) = .correctable b := by
  have found := findIdx_beq_getElem eccColumns_nodup (i := b) (eccColumns_length ▸ hb)
  rw [← eccColumn_eq hb] at found
  simp [classify, eccColumn_ne_zero hb, found]

/-- Two different columns give a syndrome that is nonzero, as the columns are distinct, and no column, as its weight is even. -/
theorem classify_eccColumn_xor {a b : Nat} (hab : a < b) (hb : b < 72) :
    classify (eccColumn a ^^^ eccColumn b) = .uncorrectable := by
  have ha : a < 72 := hab.trans hb
  refine classify_of_notMem (fun h0 => ?_) fun hmem => ?_
  · rw [Nat.xor_eq_zero_iff, eccColumn_eq ha, eccColumn_eq hb, eccColumns_nodup.getElem_inj_iff] at h0
    omega
  · have odd := weightParity_of_mem hmem
    rw [weightParity_xor, weightParity_of_mem (eccColumn_mem ha), weightParity_of_mem (eccColumn_mem hb)] at odd
    exact absurd odd (by decide)

/-- The exclusive-or of those of the four columns of nibble `n` that `m` selects. -/
def nibbleSyndrome (n m : Nat) : Nat := syndromeFrom m 0 ((eccColumns.drop (4 * n)).take 4)

/-- Table 2-4 nibble by nibble: two or more of a nibble's four columns give a nonzero syndrome that is no column. -/
theorem classify_nibbleSyndrome : ∀ n < 18, ∀ m < 16, (∀ i < 4, m ≠ 2 ^ i) → m ≠ 0 →
    classify (nibbleSyndrome n m) = .uncorrectable := by
  decide +kernel

/-! ### Single, double and nibble errors -/

theorem eccCheck_single (d : BitVec 64) {b : Nat} (hb : b < 72) :
    eccCheck (eccEncode d ^^^ BitVec.ofNat 72 (2 ^ b)) = .correctable b := by
  rw [eccCheck_eccEncode_xor, syndrome_two_pow hb, classify_eccColumn hb]

theorem eccCorrect_single (d : BitVec 64) {b : Nat} (hb : b < 72) :
    eccCorrect (eccEncode d ^^^ BitVec.ofNat 72 (2 ^ b)) = eccEncode d := by
  rw [eccCorrect_of_correctable (eccCheck_single d hb), BitVec.xor_assoc, BitVec.xor_self, BitVec.xor_zero]

theorem eccCheck_double (d : BitVec 64) {a b : Nat} (hab : a < b) (hb : b < 72) :
    eccCheck (eccEncode d ^^^ BitVec.ofNat 72 (2 ^ a + 2 ^ b)) = .uncorrectable := by
  have two : 2 ^ a + 2 ^ b = 2 ^ a ^^^ 2 ^ b := add_eq_xor_of_lt_of_dvd (Nat.pow_lt_pow_right (by decide) hab) (Nat.dvd_refl _)
  rw [eccCheck_eccEncode_xor, two, BitVec.ofNat_xor, syndrome_xor, syndrome_two_pow (hab.trans hb), syndrome_two_pow hb,
    classify_eccColumn_xor hab hb]

theorem eccCheck_nibble (d : BitVec 64) {n m : Nat} (hn : n < 18) (hm : m < 16) (hsingle : ∀ i < 4, m ≠ 2 ^ i) (h0 : m ≠ 0) :
    eccCheck (eccEncode d ^^^ BitVec.ofNat 72 (m * 2 ^ (4 * n))) = .uncorrectable := by
  rw [eccCheck_eccEncode_xor, syndrome_run (n := 4) hm (by omega), ← nibbleSyndrome, classify_nibbleSyndrome n hn m hm hsingle h0]

/-- Settles O56: by linearity an error's classification is that of its own syndrome (`eccCheck_eccEncode_xor`), and the columns of
Table 2-4 are distinct, of odd weight and free of collisions within a nibble. -/
theorem theCodeCorrectsAndDetects : Obligations.TheCodeCorrectsAndDetects := by
  unfold Obligations.TheCodeCorrectsAndDetects
  intro d
  exact ⟨eccCheck_eccEncode d, codeData_eccEncode d, fun b hb => ⟨eccCheck_single d hb, eccCorrect_single d hb⟩,
    fun a b hab hb => eccCheck_double d hab hb, fun n m hn hm hsingle h0 => eccCheck_nibble d hn hm hsingle h0⟩

end Sys2Proof.Machine
end

section
/-! SUPPORT. The address map (09_memory_system.md R289, R291, R293, R294). A granule of memory is one of the spread view or one of a
stack's placed view; the row of its place says which, and each view's map is read backwards from the place. -/

namespace Sys2Proof.Machine

/-! ### The spread view's map -/

theorem foldXor_lt (w n l : Nat) : foldXor w n l < 2 ^ w := by
  induction n generalizing l with
  | zero => exact Nat.two_pow_pos w
  | succ n ih => exact Nat.xor_lt_two_pow (Nat.mod_lt _ (Nat.two_pow_pos w)) (ih _)

/-- The field of a stack's number that R293 folds from a granule's row. -/
theorem spreadPlace_stack_field_lt (g : Nat) : (g / 3 % 8 ^^^ foldXor 3 8 (g / 3 / 512)) < 8 :=
  Nat.xor_lt_two_pow (n := 3) (Nat.mod_lt _ (by decide)) (foldXor_lt 3 8 _)

theorem spreadPlace_stack_lt (g : Nat) : (spreadPlace g).stack < 24 := by
  have field := spreadPlace_stack_field_lt g
  simp only [spreadPlace]
  omega

theorem spreadPlace_pc_lt (g : Nat) : (spreadPlace g).pc < 64 :=
  Nat.xor_lt_two_pow (n := 6) (Nat.mod_lt _ (by decide)) (foldXor_lt 6 4 _)

theorem spreadPlace_row (g : Nat) : (spreadPlace g).row = g / 3 / 512 := rfl

/-- The spread view's map read backwards gives the granule: the row fixes the two folds, and an exclusive-or with them is undone by
another. -/
theorem spreadGranule_spreadPlace (g : Nat) :
    spreadGranule (spreadPlace g).stack (spreadPlace g).pc (spreadPlace g).row = g := by
  have field := spreadPlace_stack_field_lt g
  have stackMod : (spreadPlace g).stack % 8 = g / 3 % 8 ^^^ foldXor 3 8 (g / 3 / 512) := by
    simp only [spreadPlace]
    omega
  have stackDiv : (spreadPlace g).stack / 8 = g % 3 := by
    simp only [spreadPlace]
    omega
  have chan : (spreadPlace g).pc ^^^ foldXor 6 4 (g / 3 / 512) = g / 3 / 8 % 64 := Nat.xor_xor_cancel_right ..
  rw [spreadGranule, spreadPlace_row, stackMod, stackDiv, chan, Nat.xor_xor_cancel_right]
  omega

/-! ### The two views -/

theorem State.placedBand_le (s : State) : s.placedBand ≤ 62 := Nat.min_le_left ..

/-- R294: the place of byte `o` of the placed view of stack `k`. -/
def State.placedPlace (s : State) (k o : Nat) : Place := ⟨k, o / 256 % 64, s.spreadRows + o / 256 / 64⟩

theorem State.logicalPlace_spread {s : State} {a : Nat} (h : a < s.spreadBytes) :
    s.logicalPlace a = some (spreadPlace (a / 256)) := if_pos h

/-- The spread view ends below the placed views. -/
theorem State.spreadBytes_le_placedBase (s : State) (k : Nat) : s.spreadBytes ≤ placedBase k := by
  simp only [State.spreadBytes, placedBase]
  omega

/-- A placed view ends below the next one's base, so base and offset tell the stack. -/
theorem State.logicalPlace_placed {s : State} {k o : Nat} (hk : k < 24) (ho : o < s.placedBand * 2 ^ 30) :
    s.logicalPlace (placedBase k + o) = some (s.placedPlace k o) := by
  have above := s.spreadBytes_le_placedBase k
  have band := s.placedBand_le
  have offset : placedBase k + o - placedBase 0 = 0x001000000000 * k + o := by
    simp only [placedBase]
    omega
  have stack : (0x001000000000 * k + o) / 0x001000000000 = k := by omega
  have byte : (0x001000000000 * k + o) % 0x001000000000 = o := by omega
  have base : placedBase 0 ≤ placedBase k + o := by
    simp only [placedBase]
    omega
  rw [State.logicalPlace, if_neg (by omega), if_pos base]
  simp only [offset, stack, byte]
  exact if_pos ⟨hk, ho⟩

/-- Table 9-3: an address with a place lies in the spread view or in the placed view of one of the 24 stacks. -/
theorem State.logicalPlace_cases {s : State} {a : Nat} {p : Place} (h : s.logicalPlace a = some p) :
    (a < s.spreadBytes ∧ p = spreadPlace (a / 256)) ∨
    ∃ k o, k < 24 ∧ o < s.placedBand * 2 ^ 30 ∧ a = placedBase k + o ∧ p = s.placedPlace k o := by
  by_cases spread : a < s.spreadBytes
  · rw [State.logicalPlace_spread spread] at h
    exact .inl ⟨spread, (Option.some.inj h).symm⟩
  · rw [State.logicalPlace, if_neg spread] at h
    simp only [Option.ite_none_right_eq_some] at h
    obtain ⟨base, ⟨hk, ho⟩, hp⟩ := h
    refine .inr ⟨_, _, hk, ho, ?_, (Option.some.inj hp).symm⟩
    simp only [placedBase] at base ⊢
    omega

/-! ### Bands, and the address of a place -/

/-- Table 9-2: the spread view is placed in the spread bands. -/
theorem State.spreadPlace_row_lt {s : State} {a : Nat} (h : a < s.spreadBytes) : (spreadPlace (a / 256)).row < s.spreadRows := by
  rw [spreadPlace_row]
  simp only [State.spreadBytes] at h
  simp only [State.spreadRows]
  omega

/-- Table 9-2: the placed views are placed in the placed bands. -/
theorem State.placedPlace_row_lt {s : State} {k o : Nat} (h : o < s.placedBand * 2 ^ 30) : (s.placedPlace k o).row < bandRows := by
  have band := s.placedBand_le
  simp only [State.placedPlace, State.spreadRows, bandRows]
  omega

theorem State.spreadRows_le_bandRows (s : State) : s.spreadRows ≤ bandRows := by
  simp only [State.spreadRows, bandRows]
  omega

theorem State.logicalPlace_inBands {s : State} {a : Nat} {p : Place} (h : s.logicalPlace a = some p) :
    p.stack < 24 ∧ p.pc < 64 ∧ p.row < bandRows := by
  obtain ⟨spread, rfl⟩ | ⟨k, o, hk, ho, rfl, rfl⟩ := State.logicalPlace_cases h
  · exact ⟨spreadPlace_stack_lt _, spreadPlace_pc_lt _, (State.spreadPlace_row_lt spread).trans_le s.spreadRows_le_bandRows⟩
  · exact ⟨hk, Nat.mod_lt _ (by decide), State.placedPlace_row_lt ho⟩

/-- The first address of the granule at a place: the row's band says by which view the place is reached (Table 9-2). -/
def State.logicalAddress (s : State) (p : Place) : Nat :=
  if p.row < s.spreadRows then 256 * spreadGranule p.stack p.pc p.row
  else placedBase p.stack + 256 * ((p.row - s.spreadRows) * 64 + p.pc)

/-- The address map read backwards. -/
theorem State.logicalAddress_of_logicalPlace {s : State} {a : Nat} {p : Place} (h : s.logicalPlace a = some p) :
    s.logicalAddress p = 256 * (a / 256) := by
  obtain ⟨spread, rfl⟩ | ⟨k, o, -, -, rfl, rfl⟩ := State.logicalPlace_cases h
  · rw [State.logicalAddress, if_pos (State.spreadPlace_row_lt spread), spreadGranule_spreadPlace]
  · have above : ¬ (s.placedPlace k o).row < s.spreadRows := Nat.not_lt.2 (Nat.le_add_right ..)
    rw [State.logicalAddress, if_neg above]
    simp only [State.placedPlace, placedBase]
    omega

theorem State.granule_eq_of_logicalPlace {s : State} {a b : Nat} {p : Place} (ha : s.logicalPlace a = some p)
    (hb : s.logicalPlace b = some p) : a / 256 = b / 256 := by
  have same : 256 * (a / 256) = 256 * (b / 256) :=
    (State.logicalAddress_of_logicalPlace ha).symm.trans (State.logicalAddress_of_logicalPlace hb)
  omega

/-- Settles O55: the placed view's map is `State.logicalPlace_placed`, and no two granules share a place as the map can be read
backwards (`State.logicalAddress_of_logicalPlace`). -/
theorem addressMapIsOneToOne : Obligations.AddressMapIsOneToOne := by
  unfold Obligations.AddressMapIsOneToOne
  intro s
  exact ⟨fun k o hk ho => State.logicalPlace_placed hk ho, fun a p h => State.logicalPlace_inBands h,
    fun a b p ha hb => State.granule_eq_of_logicalPlace ha hb⟩

end Sys2Proof.Machine
end

section
/-! SUPPORT. Writes of 1 to the reset objects (16_xemond_dictionary.md R480, R505, R515; 17_bringup_reset_selftest.md R559). A write
that is refused only tells its path; each command that carries one ends in `State.writeReset`, which asks the condition of R559 once
the gates are passed. -/

namespace Sys2Proof.Machine

/-! ### A refusal that only tells its path -/

/-- From `s` to `t` the path has been told `code`, and nothing else has changed but the host port's window registers. -/
def OnlyTold (s t : State) (path : Path) (code : Nat) : Prop :=
  t = { s with host := t.host, out := t.out } ∧ Told s t path code

theorem onlyTold_xwNote_reply (s : State) (path : Path) (o sub op len piece code c : Nat) (d : List Byte) :
    OnlyTold s ((s.xwNote path o sub op len piece code d).reply path c []) path c := by
  cases path <;> exact ⟨rfl, rfl⟩

/-- The window registers may have been written before the write is judged. -/
theorem onlyTold_of_withHost {s t : State} {h : HostPort} {path : Path} {code : Nat}
    (told : OnlyTold { s with host := h } t path code) : OnlyTold s t path code := told

/-! ### The window registers decide no gate -/

theorem State.withHost_serves (s : State) (h : HostPort) : ({ s with host := h } : State).serves = s.serves := rfl

theorem State.withHost_writeCode (s : State) (h : HostPort) (path : Path) (o sub v : Nat) :
    ({ s with host := h } : State).writeCode path o sub v = s.writeCode path o sub v := rfl

theorem State.withHost_resetCheck (s : State) (h : HostPort) : ({ s with host := h } : State).resetCheck = s.resetCheck := rfl

/-! ### The condition of R559 -/

theorem State.resetCheck_of_not_disabled {s : State} (h : s.num 0x2000 1 ≠ 0 ∨ s.num 0x2000 2 ≠ 0) : s.resetCheck = 0x0103 :=
  if_neg fun idle => h.elim (· idle.1) (· idle.2)

/-- What a refused reset tells: the code of the gate that refused it, or that of its own check. -/
theorem State.writeReset_onlyTold {s : State} {check : State → Nat} (hs : s.serves = true) (hc : check s ≠ 0) (path : Path)
    (o sub v : Nat) (op : State → State) :
    OnlyTold s (s.writeReset path o sub v check op) path
      (if s.writeCode path o sub v = 0 then check s else s.writeCode path o sub v) := by
  simp only [State.writeReset, hs, Bool.not_true, Bool.false_eq_true, if_false]
  split
  next gates =>
    rw [if_neg hc, if_pos gates]
    exact onlyTold_xwNote_reply ..
  next gates =>
    rw [if_neg gates]
    exact onlyTold_xwNote_reply ..

/-- The code that a write of 1 to reset object `k` is told while the device is not disabled. -/
def State.resetRefusal (s : State) (path : Path) (k : Nat) : Nat :=
  if s.writeCode path 0xB0F0 k 1 = 0 then 0x0103 else s.writeCode path 0xB0F0 k 1

theorem State.writeReset_refused {s : State} (hs : s.serves = true) (hc : s.resetCheck = 0x0103) (path : Path) (k : Nat)
    (op : State → State) :
    OnlyTold s (s.writeReset path 0xB0F0 k 1 State.resetCheck op) path (s.resetRefusal path k) := by
  have refuses : s.resetCheck ≠ 0 := by rw [hc]; decide
  have told := State.writeReset_onlyTold hs refuses path 0xB0F0 k 1 op
  rwa [hc] at told

theorem State.withHost_resetRefusal (s : State) (h : HostPort) (path : Path) (k : Nat) :
    ({ s with host := h } : State).resetRefusal path k = s.resetRefusal path k := by
  rw [State.resetRefusal, State.withHost_writeCode, State.resetRefusal]

/-! ### The reset objects reached by number -/

/-- Table 17-8: the three reset objects are BOOL and written only. -/
theorem objRow_reset {k : Nat} (hk : k = 1 ∨ k = 2 ∨ k = 3) : objRow 0xB0F0 k = some ⟨0xB0F0, 0xB0F0, k, k, .bool, .wo, 0, .no⟩ := by
  obtain rfl | rfl | rfl := hk <;> decide +kernel

theorem isBlob_reset {k : Nat} (hk : k = 1 ∨ k = 2 ∨ k = 3) : isBlob 0xB0F0 k = false := by
  have k0 : k ≠ 0 := by omega
  rw [isBlob, if_neg k0, objRow_reset hk]
  rfl

theorem State.writeNumber_reset_refused {s : State} (hs : s.serves = true) (hc : s.resetCheck = 0x0103) (path : Path) {k : Nat}
    (hk : k = 1 ∨ k = 2 ∨ k = 3) : OnlyTold s (s.writeNumber path 0xB0F0 k 1) path (s.resetRefusal path k) := by
  have isReset : 1 ≤ k ∧ k ≤ 3 := by omega
  rw [State.writeNumber, if_neg (by omega), if_pos ⟨rfl, isReset.1, isReset.2, by decide⟩]
  exact State.writeReset_refused hs hc path k _

/-- One byte of piece 0 is the whole value of a reset object. -/
theorem State.writeAt_reset {s : State} (hs : s.serves = true) (path : Path) {k : Nat} (hk : k = 1 ∨ k = 2 ∨ k = 3) :
    s.writeAt path 0xB0F0 k 0 [1] = s.writeNumber path 0xB0F0 k 1 := by
  have value : leNat [(1 : Byte)] = 1 := rfl
  rw [State.writeAt, isBlob_reset hk, objRow_reset hk, value]
  simp only [hs, Bool.not_true, Bool.false_eq_true, if_false]
  split
  next r _ row =>
    obtain rfl := Option.some.inj row
    rw [if_neg (by decide), if_neg (by simp [objBytes])]
  next => rfl

theorem State.writeAt_reset_refused {s : State} (hs : s.serves = true) (hc : s.resetCheck = 0x0103) (path : Path) {k : Nat}
    (hk : k = 1 ∨ k = 2 ∨ k = 3) : OnlyTold s (s.writeAt path 0xB0F0 k 0 [1]) path (s.resetRefusal path k) := by
  rw [State.writeAt_reset hs path hk]
  exact State.writeNumber_reset_refused hs hc path hk

/-- The write is judged alike whatever the window registers hold, so an access through the window that began by writing them is
refused like any other. -/
theorem State.writeAt_reset_refused_withHost {s : State} (hs : s.serves = true) (hc : s.resetCheck = 0x0103) (h : HostPort)
    (path : Path) {k : Nat} (hk : k = 1 ∨ k = 2 ∨ k = 3) :
    OnlyTold s (({ s with host := h } : State).writeAt path 0xB0F0 k 0 [1]) path (s.resetRefusal path k) := by
  have told := State.writeAt_reset_refused ((s.withHost_serves h).trans hs) ((s.withHost_resetCheck h).trans hc) path hk
  rw [State.withHost_resetRefusal] at told
  exact onlyTold_of_withHost told

/-! ### The window of P0 -/

theorem slice_length (l : List Byte) (o n : Nat) : (slice l o n).length = n := by
  simp only [slice, List.length_append, List.length_replicate, List.length_take]
  omega

/-- What has been written at the start of a buffer is read there. -/
theorem slice_patch_zero {l d : List Byte} (h : d.length ≤ l.length) : slice (patch l 0 d) 0 d.length = d := by
  simp [slice, patch, List.take_of_length_le h]

/-- Table 15-4: XW_CTRL written with go and op 2 starts a write of the bytes in XW_DATA. -/
theorem State.window_write {s : State} {ctrl : Nat} (up : s.p0Up = true) (idle : s.xwBusy = false) (go : ctrl.testBit 0 = true)
    (op : bits ctrl 39 32 = 2) (len : bits ctrl 31 16 ≤ 4096) :
    s.window ctrl = ({ s with host := { s.host with xwCtrl := ctrl / 16 * 16 + if s.serves then 0 else 1 } } : State).writeAt .mmio
      (bits ctrl 63 48) (bits ctrl 47 40) (bits ctrl 15 4) (slice s.host.xwData 0 (bits ctrl 31 16)) := by
  simp [State.window, up, idle, go, op, len]

theorem State.window_reset_refused {s : State} {ctrl k : Nat} (hs : s.serves = true) (hc : s.resetCheck = 0x0103)
    (hk : k = 1 ∨ k = 2 ∨ k = 3) (up : s.p0Up = true) (idle : s.xwBusy = false) (obj : bits ctrl 63 48 = 0xB0F0)
    (sub : bits ctrl 47 40 = k) (op : bits ctrl 39 32 = 2) (len : bits ctrl 31 16 = 1) (piece : bits ctrl 15 4 = 0)
    (go : ctrl.testBit 0 = true) (data : slice s.host.xwData 0 1 = [1]) :
    OnlyTold s (s.window ctrl) .mmio (s.resetRefusal .mmio k) := by
  have short : bits ctrl 31 16 ≤ 4096 := by omega
  rw [State.window_write up idle go op short, obj, sub, len, piece, data]
  exact State.writeAt_reset_refused_withHost hs hc _ .mmio hk

/-! ### The commands that carry the write -/

theorem exec_dictionaryWrite (path : Path) (obj : BitVec 16) (sub : ByteField) (piece : BitVec 16) (data : List Byte) (s : State)
    (hp : piece.toNat < 4096) (hd : data.length ≤ pieceBytes) (hr : sub.reserved = 0) :
    exec (.dictionaryWrite path obj sub piece data) s = .next (s.writeAt path obj.toNat sub.value.toNat piece.toNat data) := by
  have wellFormed : ¬ (4096 ≤ piece.toNat ∨ pieceBytes < data.length ∨ sub.reserved ≠ 0) := by simp [hp, hd, hr]
  exact congrArg Host.Outcome.next (if_neg wellFormed)

theorem exec_registerWrite_number (path : Path) (obj : BitVec 16) (sub : BitVec 8) (data : List Byte) (s : State)
    (h : isBlob obj.toNat sub.toNat = false) :
    exec (.registerWrite path obj sub data) s = .next (s.writeAt path obj.toNat sub.toNat 0 data) :=
  congrArg Host.Outcome.next (if_neg (by simp [h]))

/-- The state in which WINDOW_WRITE has put its data into XW_DATA. -/
def State.withWindowData (s : State) (data : List Byte) : State :=
  { s with host := { s.host with xwData := patch (slice s.host.xwData 0 4096) 0 data } }

theorem exec_windowWrite {s : State} (up : s.p0Up = true) (idle : s.xwBusy = false) (ctrl : BitVec 64) (data : List Byte) :
    exec (.windowWrite ctrl data) s = .next ((s.withWindowData data).window ctrl.toNat) :=
  congrArg Host.Outcome.next (if_neg (by simp [up, idle]))

theorem State.withWindowData_read {data : List Byte} (h : data.length ≤ 4096) (s : State) :
    slice (s.withWindowData data).host.xwData 0 data.length = data :=
  slice_patch_zero (by rwa [slice_length])

/-- Settles O54: the three commands are `State.writeReset` itself, and a write by number reaches it through `State.writeAt`, whether a
command carries it or the window does; the check of R559 then answers 0x0103 (`State.writeReset_refused`). -/
theorem resetsNeedADisabledDevice : Obligations.ResetsNeedADisabledDevice := by
  unfold Obligations.ResetsNeedADisabledDevice
  intro s path sub hs enabled
  have hc := State.resetCheck_of_not_disabled enabled
  refine ⟨⟨_, rfl, State.writeReset_refused hs hc path 1 _⟩, ⟨_, rfl, State.writeReset_refused hs hc path 2 _⟩,
    ⟨_, rfl, State.writeReset_refused hs hc path 3 _⟩, fun hsub => ?_⟩
  have hk : sub.toNat = 1 ∨ sub.toNat = 2 ∨ sub.toNat = 3 := by bv_omega
  refine ⟨⟨_, exec_dictionaryWrite path 0xB0F0 ⟨sub, 0⟩ 0 [1] s (by decide) (by decide) rfl, State.writeAt_reset_refused hs hc path hk⟩,
    ⟨_, exec_registerWrite_number path 0xB0F0 sub [1] s (isBlob_reset hk), State.writeAt_reset_refused hs hc path hk⟩, ?_⟩
  intro ctrl up idle obj hsub op len piece go
  have told : OnlyTold (s.withWindowData [1]) _ .mmio (s.resetRefusal .mmio sub.toNat) :=
    State.window_reset_refused hs hc hk up idle obj hsub op len piece go (State.withWindowData_read (by decide) s)
  exact ⟨_, exec_windowWrite up idle ctrl [1], onlyTold_of_withHost told⟩

end Sys2Proof.Machine
end

section
/-! SUPPORT. Decoding what an encoder has written (04_instruction_and_image_reference.md, Tables 4-1 to 4-10;
01_package_and_hierarchy.md, Tables 1-4, 1-5). A word is its fields appended, so a field is read back by passing over the parts
below it and the parts above it. -/

namespace Sys2Proof

/-- A field that lies in the upper of two parts. -/
theorem field_upper {v w lo n : Nat} {x : BitVec v} {y : BitVec w} (h : w ≤ lo) :
    (BitVec.append x y).extractLsb' lo n = x.extractLsb' (lo - w) n := BitVec.extractLsb'_append_eq_of_le h

/-- A field that lies in the lower of two parts. -/
theorem field_lower {v w lo n : Nat} {x : BitVec v} {y : BitVec w} (h : lo + n ≤ w) :
    (BitVec.append x y).extractLsb' lo n = y.extractLsb' lo n := BitVec.extractLsb'_append_eq_of_add_le h

/-! ### Descriptors and headers of links and transactions -/

theorem decodeDesc_encodeDesc (d : Desc) : decodeDesc (encodeDesc d) = d := by
  simp [decodeDesc, encodeDesc, HAppend.hAppend, field_upper, field_lower, -BitVec.append_eq]

theorem decodeRowDesc_encodeRowDesc (d : RowDesc) : decodeRowDesc (encodeRowDesc d) = d := by
  simp [decodeRowDesc, encodeRowDesc, HAppend.hAppend, field_upper, field_lower, -BitVec.append_eq]

theorem decodeTx_encodeTx (h : TxHeader) : decodeTx (encodeTx h) = h := by
  simp [decodeTx, encodeTx, HAppend.hAppend, field_upper, field_lower, -BitVec.append_eq]

theorem decodeLink_encodeLink (h : LinkHeader) : decodeLink (encodeLink h) = h := by
  simp [decodeLink, encodeLink, HAppend.hAppend, field_upper, field_lower, -BitVec.append_eq]

/-! ### Instruction words -/

/-- An instruction word by its two halves (Table 4-1): the upper 60 bits and the payload. -/
def instrWord (head : BitVec 60) (payload : BitVec 68) : BitVec 128 := head ++ payload

theorem fld_instrWord_head {lo n : Nat} (h : 68 ≤ lo) (head : BitVec 60) (payload : BitVec 68) :
    fld (instrWord head payload) lo n = head.extractLsb' (lo - 68) n := field_upper h

theorem fld_instrWord_payload {lo n : Nat} (h : lo + n ≤ 68) (head : BitVec 60) (payload : BitVec 68) :
    fld (instrWord head payload) lo n = payload.extractLsb' lo n := field_lower h

theorem fld_opcode (op : BitVec 8) (h : Header) (payload : BitVec 68) : fld (instrWord (encodeHead op h) payload) 120 8 = op := by
  rw [fld_instrWord_head (by decide)]
  simp [encodeHead, HAppend.hAppend, field_upper, -BitVec.append_eq]

theorem decodeHeader_encodeHead (op : BitVec 8) (h : Header) (payload : BitVec 68) :
    decodeHeader (instrWord (encodeHead op h) payload) = h := by
  simp [decodeHeader, decodeSig0, decodeSig1, fld_instrWord_head, encodeHead, encodeSig, HAppend.hAppend, field_upper, field_lower,
    -BitVec.append_eq]

theorem decodeEngine_encodeEngine (i : Engine) : decodeEngine (encodeEngine i) = some i := by
  have word : encodeEngine i = instrWord (encodeHead (BitVec.ofNat 8 i.opcode) i.header) (encodePayload i) := rfl
  rw [decodeEngine, word, fld_opcode, decodeHeader_encodeHead]
  cases i <;>
    simp [Engine.opcode, Engine.header, encodePayload, encodeMma, decodeMma, decodeMmf, fld_instrWord_payload, HAppend.hAppend,
      field_upper, field_lower, -BitVec.append_eq]

/-- Settles O57: each of the five encodings is undone by its decoder, field by field; an instruction word by its opcode, its header
and its payload. -/
theorem decodingUndoesEncoding : Obligations.DecodingUndoesEncoding := by
  unfold Obligations.DecodingUndoesEncoding
  exact ⟨decodeEngine_encodeEngine, decodeDesc_encodeDesc, decodeRowDesc_encodeRowDesc, decodeTx_encodeTx, decodeLink_encodeLink⟩

end Sys2Proof
end

section
/-! SUPPORT. What the named operations leave of the stacks' memory: all but those that store to it leave it as it is, one lemma each, in the
order of the model. -/

namespace Sys2Proof.Machine

@[simp] theorem State.dram_ite (c : Prop) [Decidable c] (s t : State) :
    (if c then s else t).dram = if c then s.dram else t.dram := apply_ite ..

@[simp] theorem State.dram_fst_ite {α : Type} (c : Prop) [Decidable c] (s t : State × α) :
    (if c then s else t).1.dram = if c then s.1.dram else t.1.dram := apply_ite (fun s : State × α => s.1.dram) ..

/-- A fold keeps what each of its steps keeps. -/
theorem foldl_keeps {α β : Type} (P : β → Prop) {f : β → α → β} (hf : ∀ b, P b → ∀ x, P (f b x)) (l : List α) {b : β} (h : P b) :
    P (l.foldl f b) := by
  induction l generalizing b with
  | nil => exact h
  | cons x l ih => exact ih (hf b h x)

@[simp] theorem State.forEach_dram {α : Type} (s : State) (l : List α) (f : State → α → State)
    (hf : ∀ s x, (f s x).dram = s.dram) : (s.forEach l f).dram = s.dram := by
  induction l generalizing s with
  | nil => rfl
  | cons x l ih => exact (ih (f s x)).trans (hf s x)

@[simp] theorem foldl_dram {α : Type} (s : State) (l : List α) (f : State → α → State) (hf : ∀ s x, (f s x).dram = s.dram) :
    (l.foldl f s).dram = s.dram := State.forEach_dram s l f hf

@[simp] theorem foldl_fst_dram {α β : Type} (s : State × β) (l : List α) (f : State × β → α → State × β)
    (hf : ∀ s x, (f s x).1.dram = s.1.dram) : (l.foldl f s).1.dram = s.1.dram := by
  induction l generalizing s with
  | nil => rfl
  | cons x l ih => exact (ih (f s x)).trans (hf s x)

@[simp] theorem State.setFilm_dram (s : State) (f : Nat) (v : Film) : (s.setFilm f v).dram = s.dram := by
  simp [State.setFilm]

@[simp] theorem State.traceSettle_dram (s : State) (p : Nat) : (s.traceSettle p).dram = s.dram := by
  simp [State.traceSettle]

@[simp] theorem State.filmPut_dram (s : State) (p f : Nat) (w : BitVec 128) : (s.filmPut p f w).dram = s.dram := by
  unfold State.filmPut
  dsimp only
  (repeat' split) <;> simp

@[simp] theorem State.traceAt_dram (s : State) (f ts kind unit wher payload : Nat) :
    (s.traceAt f ts kind unit wher payload).dram = s.dram := by
  unfold State.traceAt
  (repeat' split) <;> simp

@[simp] theorem State.trace_dram (s : State) (f ts kind unit payload : Nat) : (s.trace f ts kind unit payload).dram = s.dram := by
  simp [State.trace]

@[simp] theorem State.traceCore_dram (s : State) (pc t kind unit payload : Nat) :
    (s.traceCore pc t kind unit payload).dram = s.dram := by
  simp [State.traceCore]

@[simp] theorem State.filmTrigger_dram (s : State) (p f cause : Nat) : (s.filmTrigger p f cause).dram = s.dram := by
  simp [State.filmTrigger]

@[simp] theorem State.trigger_dram (s : State) (p cause : Nat) : (s.trigger p cause).dram = s.dram := by
  simp [State.trigger]

@[simp] theorem State.eventRing_dram (s : State) (kind : Nat) (rcd : List Byte) : (s.eventRing kind rcd).dram = s.dram := by
  unfold State.eventRing
  dsimp only
  (repeat' split) <;> simp

@[simp] theorem State.raise_dram (s : State) (e : Event) : (s.raise e).dram = s.dram := by
  unfold State.raise
  dsimp only
  (repeat' split) <;> simp -implicitDefEqProofs

@[simp] theorem State.setLink_dram (s : State) (d p : Nat) (l : LinkSt) : (s.setLink d p l).dram = s.dram := by
  simp [State.setLink]

@[simp] theorem State.dropClaim_dram (s : State) (d : Nat) : (s.dropClaim d).dram = s.dram := by
  simp [State.dropClaim]

@[simp] theorem State.sendPacket_dram (s : State) (t : TxHeader) (ws : List CodeWord) : (s.sendPacket t ws).dram = s.dram := by
  unfold State.sendPacket
  dsimp only
  (repeat' split) <;> simp

@[simp] theorem State.retire_dram (s : State) (k pc : Nat) : (s.retire k pc).dram = s.dram := by
  simp [State.retire]

@[simp] theorem State.seen_dram (s : State) (p : Place) (ce ue : Nat) : (s.seen p ce ue).dram = s.dram := by
  simp [State.seen]

/-- Reading device memory counts what the controllers saw and does nothing else to the state. -/
theorem State.readDevice_keeps (P : State × Ram → Prop) (seen : ∀ acc p ce ue img, P acc → P (acc.1.seen p ce ue, img))
    {s : State} (a n : Nat) (h : P (s, .empty)) : P (s.readDevice a n) := by
  rw [State.readDevice]
  refine foldl_keeps P (fun acc hacc pc => ?_) _ h
  split
  · exact hacc
  next p _ =>
    extract_lets base img
    split
    exact seen _ _ _ _ _ hacc

@[simp] theorem State.readDevice_dram (s : State) (a n : Nat) : (s.readDevice a n).1.dram = s.dram :=
  State.readDevice_keeps (fun acc => acc.1.dram = s.dram) (fun acc p ce ue _ same => (acc.1.seen_dram p ce ue).trans same) a n rfl

/-- Reading over the mesh reads the stacks it reaches and does nothing else to the state. -/
theorem State.meshRead_keeps (P : State × Ram → Prop) (read : ∀ acc a n img, P acc → P ((acc.1.readDevice a n).1, img))
    (other : ∀ acc img, P acc → P (acc.1, img)) {s : State} (die a n : Nat) (h : P (s, .empty)) : P (s.meshRead die a n) := by
  rw [State.meshRead]
  refine foldl_keeps P (fun acc hacc pc => ?_) _ h
  split
  · exact hacc
  · split
    · split
      next t img eq =>
        have hr := read acc pc.1 pc.2 (Ram.copy img acc.2 0 (pc.1 - a) pc.2) hacc
        rwa [eq] at hr
    · exact other _ _ hacc

@[simp] theorem State.meshRead_dram (s : State) (die a n : Nat) : (s.meshRead die a n).1.dram = s.dram :=
  State.meshRead_keeps (fun acc => acc.1.dram = s.dram) (fun acc a n _ same => (acc.1.readDevice_dram a n).trans same)
    (fun _ _ same => same) die a n rfl

@[simp] theorem State.loadBytes_dram (s : State) (die a n : Nat) : (s.loadBytes die a n).1.dram = s.dram := by
  simp [State.loadBytes]

@[simp] theorem State.setWatch_dram (s : State) (w : Nat) (v : Watch) : (s.setWatch w v).dram = s.dram := by
  simp [State.setWatch]

@[simp] theorem State.readEntry_dram (s : State) (w : Nat) : (s.readEntry w).dram = s.dram := by
  simp [State.readEntry]

@[simp] theorem State.learn_dram (s : State) (w : Nat) : (s.learn w).dram = s.dram := by
  simp [State.learn]

@[simp] theorem State.entryRead_dram (s : State) (w : Nat) (e : List Byte) : (s.entryRead w e).dram = s.dram := by
  simp [State.entryRead]

@[simp] theorem State.tellChannels_dram (s : State) (a n : Nat) : (s.tellChannels a n).dram = s.dram := by
  simp [State.tellChannels]

@[simp] theorem State.account_dram (s : State) (pc u : Nat) : (s.account pc u).dram = s.dram := by
  unfold State.account
  dsimp only
  (repeat' split) <;> simp

@[simp] theorem State.accountCore_dram (s : State) (pc : Nat) : (s.accountCore pc).dram = s.dram := by
  simp [State.accountCore]

@[simp] theorem State.modRunning_dram (s : State) (p : Nat) (g : Step → Step) : (s.modRunning p g).dram = s.dram := by
  simp [State.modRunning]

@[simp] theorem State.stopStep_dram (s : State) (p : Nat) : (s.stopStep p).dram = s.dram := by
  unfold State.stopStep
  (repeat' split) <;> simp

@[simp] theorem State.failStep_dram (s : State) (p : Nat) (f : Failure) : (s.failStep p f).dram = s.dram := by
  simp [State.failStep]

@[simp] theorem State.flagWaiting_dram (s : State) (n : Nat) : (s.flagWaiting n).dram = s.dram := by
  simp [State.flagWaiting]

@[simp] theorem State.markBreach_dram (s : State) (p : Nat) : (s.markBreach p).dram = s.dram := by
  simp [State.markBreach]

@[simp] theorem State.raiseBreach_dram (s : State) (p : Nat) (e : Event) : (s.raiseBreach p e).dram = s.dram := by
  simp [State.raiseBreach]

@[simp] theorem State.raiseStep_dram (s : State) (p : Nat) (e : Event) : (s.raiseStep p e).dram = s.dram := by
  simp [State.raiseStep]

@[simp] theorem State.scheduleFault_dram (s : State) (p pc u idx : Nat) : (s.scheduleFault p pc u idx).dram = s.dram := by
  simp [State.scheduleFault]

@[simp] theorem State.shapeFaults_dram (s : State) (p : Nat) (all : List ShapeFault) (f : ShapeFault) :
    (s.shapeFaults p all f).dram = s.dram := by
  simp [State.shapeFaults]

@[simp] theorem State.fenceNote_dram (s : State) (pc bank cause : Nat) : (s.fenceNote pc bank cause).dram = s.dram := by
  simp [State.fenceNote]

@[simp] theorem State.stopOrReplay_dram (s : State) (p : Nat) (can : Bool) (f : Failure) :
    (s.stopOrReplay p can f).dram = s.dram := by
  unfold State.stopOrReplay
  (repeat' split) <;> simp

@[simp] theorem State.fenceStep_dram (s : State) (p unit : Nat) : (s.fenceStep p unit).dram = s.dram := by
  simp [State.fenceStep]

@[simp] theorem State.fenceCore_dram (s : State) (pc cause : Nat) : (s.fenceCore pc cause).dram = s.dram := by
  unfold State.fenceCore
  dsimp only
  (repeat' split) <;> simp

@[simp] theorem State.fenceCluster_dram (s : State) (k cause : Nat) : (s.fenceCluster k cause).dram = s.dram := by
  unfold State.fenceCluster
  dsimp only
  (repeat' split) <;> simp -implicitDefEqProofs

@[simp] theorem State.takeBankFence_dram (s : State) (pc : Nat) : (s.takeBankFence pc).dram = s.dram := by
  unfold State.takeBankFence
  dsimp only
  (repeat' split) <;> simp

@[simp] theorem State.fenceBank_dram (s : State) (pc bank : Nat) : (s.fenceBank pc bank).dram = s.dram := by
  unfold State.fenceBank
  dsimp only
  (repeat' split) <;> simp

@[simp] theorem State.setLocalRam_dram (s : State) (pc space : Nat) (r : Ram) : (s.setLocalRam pc space r).dram = s.dram := by
  unfold State.setLocalRam
  (repeat' split) <;> simp

@[simp] theorem State.setArrived_dram (s : State) (pc space : Nat) (a : Arrived) : (s.setArrived pc space a).dram = s.dram := by
  unfold State.setArrived
  (repeat' split) <;> simp

@[simp] theorem State.noteArrivals_dram (s : State) (pc space a n : Nat) : (s.noteArrivals pc space a n).dram = s.dram := by
  simp [State.noteArrivals]

@[simp] theorem State.corrected_dram (s : State) (pc space n : Nat) : (s.corrected pc space n).dram = s.dram := by
  simp [State.corrected]

@[simp] theorem State.merging_dram (s : State) (pc space a n : Nat) : (s.merging pc space a n).dram = s.dram := by
  simp [State.merging]

@[simp] theorem State.copyLocal_dram (s : State) (pc space : Nat) (img : Ram) (b a n : Nat) :
    (s.copyLocal pc space img b a n).dram = s.dram := by
  simp [State.copyLocal]

@[simp] theorem State.uncorrectable_dram (s : State) (p pc u space w : Nat) : (s.uncorrectable p pc u space w).dram = s.dram := by
  unfold State.uncorrectable
  dsimp only
  (repeat' split) <;> simp -implicitDefEqProofs

@[simp] theorem State.dataFault_dram (s : State) (p pc u a : Nat) : (s.dataFault p pc u a).dram = s.dram := by
  simp [State.dataFault]

@[simp] theorem State.storeRead_dram (s : State) (p pc u : Nat) (t : Tab CodeWord) (ws : List Nat) :
    (s.storeRead p pc u t ws).1.dram = s.dram := by
  simp [State.storeRead]

@[simp] theorem State.consumed_dram (s : State) (p pc u space : Nat) (f : Fetched) : (s.consumed p pc u space f).dram = s.dram := by
  simp [State.consumed]

@[simp] theorem State.writeLocal_dram (s : State) (pc space a : Nat) (d : List Byte) :
    (s.writeLocal pc space a d).dram = s.dram := by
  simp [State.writeLocal]

@[simp] theorem State.writeTile_dram (s : State) (pc : Nat) (d : Desc) (loops : List Frame) (sat : Bool) (vals : List (List FVal)) :
    (s.writeTile pc d loops sat vals).dram = s.dram := by
  unfold State.writeTile
  dsimp only
  (repeat' split) <;> simp

@[simp] theorem State.setAccRow_dram (s : State) (pc bank row : Nat) (vs : List Nat) :
    (s.setAccRow pc bank row vs).dram = s.dram := by
  simp [State.setAccRow]

@[simp] theorem State.readRegion_dram (s : State) (die p : Nat) (x : Step) (g : RegionE) (o n : Nat) (img : Ram) (b : Nat) :
    (s.readRegion die p x g o n img b).1.dram = s.dram := by
  rw [State.readRegion, foldl_fst_dram]
  intro acc pc
  dsimp only
  split
  · exact State.meshRead_dram ..
  · rfl
  · split
    · rfl
    · exact State.meshRead_dram ..

@[simp] theorem State.freeze_dram (s : State) (c pc n u idx : Nat) : (s.freeze c pc n u idx).dram = s.dram := by
  unfold State.freeze
  dsimp only
  (repeat' split) <;> simp

@[simp] theorem State.tokenBp_dram (s : State) (c pc k old new : Nat) (sig : Bool) :
    (s.tokenBp c pc k old new sig).dram = s.dram := by
  unfold State.tokenBp
  (repeat' split) <;> simp

@[simp] theorem State.addrBp_dram (s : State) (c pc u idx b : Nat) : (s.addrBp c pc u idx b).1.dram = s.dram := by
  simp [State.addrBp]

@[simp] theorem State.tokenRead_dram (s : State) (p pc u k : Nat) : (s.tokenRead p pc u k).1.dram = s.dram := by
  simp [State.tokenRead]

@[simp] theorem State.signal_dram (s : State) (p c pc u k inc t vis : Nat) : (s.signal p c pc u k inc t vis).dram = s.dram := by
  unfold State.signal
  dsimp only
  (repeat' split) <;> simp

@[simp] theorem State.headerSignal_dram (s : State) (p c pc u : Nat) (g : Signal) (t : Nat) :
    (s.headerSignal p c pc u g t).dram = s.dram := by
  simp [State.headerSignal]

@[simp] theorem State.issueCounts_dram (s : State) (pc u occ next tok t : Nat) :
    (s.issueCounts pc u occ next tok t).dram = s.dram := by
  simp [State.issueCounts]

@[simp] theorem State.releaseSignal_dram (s : State) (a : Act) (g : Signal) (t : Nat) : (s.releaseSignal a g t).dram = s.dram := by
  simp [State.releaseSignal]

@[simp] theorem State.makeLate_dram (s : State) (p pc : Nat) (g : LateSig) : (s.makeLate p pc g).dram = s.dram := by
  unfold State.makeLate
  dsimp only
  (repeat' split) <;> simp

@[simp] theorem State.judgeLate_dram (s : State) (p pc t : Nat) : (s.judgeLate p pc t).dram = s.dram := by
  simp [State.judgeLate]

@[simp] theorem State.launch_dram (s : State) (a : Act) (i : Engine) (tm : Timing) : (s.launch a i tm).dram = s.dram := by
  simp [State.launch]

@[simp] theorem State.noteUse_dram (s : State) (pc k : Nat) : (s.noteUse pc k).dram = s.dram := by
  simp [State.noteUse]

@[simp] theorem State.issueCommit_dram (s : State) (a : Act) (i : Engine) (m : Meaning) (tok : Nat) (hm : ∀ s,
    (m.effect s).dram = s.dram) : (s.issueCommit a i m tok).dram = s.dram := by
  simp [State.issueCommit, hm]

@[simp] theorem State.haltUnit_dram (s : State) (pc u : Nat) (h : Halt) : (s.haltUnit pc u h).dram = s.dram := by
  simp [State.haltUnit]

@[simp] theorem State.bathUnit_dram (s : State) (pc u : Nat) : (s.bathUnit pc u).dram = s.dram := by
  simp [State.bathUnit]

@[simp] theorem State.waitToOpen_dram (s : State) (pc u tok t : Nat) : (s.waitToOpen pc u tok t).dram = s.dram := by
  simp [State.waitToOpen]

@[simp] theorem State.settleLate_dram (s : State) (c u : Nat) (i : Engine) : (s.settleLate c u i).dram = s.dram := by
  unfold State.settleLate
  (repeat' split) <;> simp

@[simp] theorem State.hitAt_dram (s : State) (pc u t : Nat) : (s.hitAt pc u t).dram = s.dram := by
  simp [State.hitAt]

@[simp] theorem State.issueReads_dram (s : State) (a : Act) (i : Engine) : (s.issueReads a i).1.dram = s.dram := by
  simp [State.issueReads]

@[simp] theorem State.issue_dram (s : State) (c u : Nat) (i : Engine) (m : State → Act → Meaning) (hm : ∀ s a t,
    ((m s a).effect t).dram = t.dram) : (s.issue c u i m).dram = s.dram := by
  unfold State.issue
  dsimp only
  (repeat' split) <;> simp [hm]

@[simp] theorem State.checked_dram (s : State) (a : Act) (l : List (Nat × Fetched)) : (s.checked a l).1.dram = s.dram := by
  simp [State.checked]

@[simp] theorem State.writeAccRows_dram (s : State) (pc bank row : Nat) (rows : List (List Nat)) :
    (s.writeAccRows pc bank row rows).dram = s.dram := by
  simp [State.writeAccRows]

@[simp] theorem State.matProblem_dram (s : State) (a : Act) (p : MmaFields) (j row init : Nat) :
    (s.matProblem a p j row init).1.dram = s.dram := by
  simp [State.matProblem]

@[simp] theorem State.matProblems_dram (s : State) (a : Act) (p : MmaFields) (b stride : Nat) :
    (s.matProblems a p b stride).dram = s.dram := by
  simp [State.matProblems]

@[simp] theorem State.bankReads_dram (s : State) (a : Act) (b : Bank) (hits : List Nat) :
    (s.bankReads a b hits).1.dram = s.dram := by
  simp [State.bankReads]

@[simp] theorem State.writeStat_dram (s : State) (pc bank : Nat) (rows : List RowPhase) (noRescale : Bool) :
    (s.writeStat pc bank rows noRescale).dram = s.dram := by
  simp [State.writeStat]

@[simp] theorem State.writeStatus_dram (s : State) (a : Act) (r : RowDesc) (set : List Bool) :
    (s.writeStatus a r set).dram = s.dram := by
  simp [State.writeStatus]

@[simp] theorem State.mmfEffect_dram (s : State) (a : Act) (f : MmfFields) : (s.mmfEffect a f).dram = s.dram := by
  simp [State.mmfEffect]

@[simp] theorem State.modInst_dram (s : State) (group seq : Nat) (f : Inst → Inst) : (s.modInst group seq f).dram = s.dram := by
  simp [State.modInst]

@[simp] theorem State.forgetOld_dram (s : State) (p group seq : Nat) : (s.forgetOld p group seq).dram = s.dram := by
  simp [State.forgetOld]

@[simp] theorem State.noteClass_dram (s : State) (k : Nat) : (s.noteClass k).dram = s.dram := by
  simp [State.noteClass]

@[simp] theorem State.settleEnvelope_dram (s : State) : (s.settleEnvelope).dram = s.dram := by
  simp [State.settleEnvelope]

@[simp] theorem State.markCoolant_dram (s : State) : (s.markCoolant).dram = s.dram := by
  simp [State.markCoolant]

@[simp] theorem State.coolantFollows_dram (s before : State) : (s.coolantFollows before).dram = s.dram := by
  simp [State.coolantFollows]

@[simp] theorem State.record_dram (s : State) (q : Request) (r : Record) : (s.record q r).dram = s.dram := by
  simp [State.record]

@[simp] theorem State.refuseRequest_dram (s : State) (q : Request) (cause reason : Nat) :
    (s.refuseRequest q cause reason).dram = s.dram := by
  simp [State.refuseRequest]

@[simp] theorem State.pinPages_dram (s : State) (frames : List Nat) (up : Bool) : (s.pinPages frames up).dram = s.dram := by
  simp [State.pinPages]

@[simp] theorem State.dropStale_dram (s : State) : (s.dropStale).dram = s.dram := by
  simp [State.dropStale]

@[simp] theorem State.breach7_dram (s : State) (p cause unit detail : Nat) : (s.breach7 p cause unit detail).dram = s.dram := by
  simp [State.breach7]

@[simp] theorem State.prefetch_dram (s : State) (p : Nat) : (s.prefetch p).dram = s.dram := by
  unfold State.prefetch
  split
  · refine (State.modPart_dram ..).trans (State.forEach_dram _ _ _ fun s c => ?_)
    split <;> rfl
  · rfl

@[simp] theorem State.stallTells_dram (s : State) (p : Nat) : (s.stallTells p).dram = s.dram := by
  simp [State.stallTells]

@[simp] theorem State.acceptRequest_dram (s : State) (p : Nat) (q : Request) (k : Nat) (e : BracketE) (len : Nat) (fit : Fit) :
    (s.acceptRequest p q k e len fit).dram = s.dram := by
  simp [State.acceptRequest]

@[simp] theorem State.farFetch_dram (s : State) (w page n : Nat) : (s.farFetch w page n).dram = s.dram := by
  simp [State.farFetch]

@[simp] theorem State.fetchPage_dram (s : State) (w page : Nat) : (s.fetchPage w page).dram = s.dram := by
  simp [State.fetchPage]

@[simp] theorem State.startFill_dram (s : State) (p key : Nat) : (s.startFill p key).dram = s.dram := by
  simp [State.startFill]

@[simp] theorem State.admitNow_dram (s : State) (q : Request) : (s.admitNow q).dram = s.dram := by
  unfold State.admitNow
  dsimp only
  (repeat' split) <;> simp

@[simp] theorem State.enterRequest_dram (s : State) (q : Request) : (s.enterRequest q).dram = s.dram := by
  simp [State.enterRequest]

@[simp] theorem State.readmit_dram (s : State) (p : Nat) : (s.readmit p).dram = s.dram := by
  simp [State.readmit]

@[simp] theorem State.fillGone_dram (s : State) (f : Fill) : (s.fillGone f).dram = s.dram := by
  simp [State.fillGone]

@[simp] theorem State.writeGeneration_dram (s : State) (w v : Nat) : (s.writeGeneration w v).dram = s.dram := by
  simp [State.writeGeneration]

@[simp] theorem State.recheck_dram (s : State) (p : Nat) (ok : State → Image → Nat → Bool) : (s.recheck p ok).dram = s.dram := by
  simp [State.recheck]

@[simp] theorem State.recheckMap_dram (s : State) (p : Nat) : (s.recheckMap p).dram = s.dram := by
  simp [State.recheckMap]

@[simp] theorem State.recheckMemory_dram (s : State) (p : Nat) : (s.recheckMemory p).dram = s.dram := by
  simp [State.recheckMemory]

@[simp] theorem State.deviceSlot_dram (s : State) (slot kind : Nat) (es : List (Nat × Nat)) (applied : Nat) :
    (s.deviceSlot slot kind es applied).dram = s.dram := by
  simp [State.deviceSlot]

@[simp] theorem State.clearSlot_dram (s : State) (slot : Nat) : (s.clearSlot slot).dram = s.dram := by
  simp [State.clearSlot]

@[simp] theorem State.remapCluster_dram (s : State) (k : Nat) : (s.remapCluster k).dram = s.dram := by
  simp -implicitDefEqProofs [State.remapCluster]

@[simp] theorem State.settleSlot14_dram (s : State) : (s.settleSlot14).dram = s.dram := by
  simp [State.settleSlot14]

@[simp] theorem State.settleSlot15_dram (s : State) (p : Nat) : (s.settleSlot15 p).dram = s.dram := by
  simp -implicitDefEqProofs [State.settleSlot15]

@[simp] theorem State.reforce_dram (s : State) (p : Nat) : (s.reforce p).dram = s.dram := by
  simp [State.reforce]

@[simp] theorem State.settleOverlays_dram (s : State) : (s.settleOverlays).dram = s.dram := by
  simp [State.settleOverlays]

@[simp] theorem State.takeOverlays_dram (s : State) (p : Nat) : (s.takeOverlays p).dram = s.dram := by
  simp -implicitDefEqProofs [State.takeOverlays]

@[simp] theorem State.boundary_dram (s : State) (p : Nat) : (s.boundary p).dram = s.dram := by
  simp -implicitDefEqProofs [State.boundary]

@[simp] theorem State.boundaryIfIdle_dram (s : State) (p : Nat) : (s.boundaryIfIdle p).dram = s.dram := by
  simp [State.boundaryIfIdle]

@[simp] theorem State.bindLandings_dram (s : State) (i : Image) (b : Nat) : (s.bindLandings i b).dram = s.dram := by
  simp -implicitDefEqProofs [State.bindLandings]

@[simp] theorem State.loadCores_dram (s : State) (p : Nat) (x : Step) (swap : Bool) : (s.loadCores p x swap).dram = s.dram := by
  unfold State.loadCores
  refine (State.forEach_dram _ _ _ fun s c => ?_).trans ((State.bindLandings_dram ..).trans (State.forEach_dram _ _ _ fun _ _ => rfl))
  split
  · rfl
  · exact (State.traceCore_dram ..).trans rfl

@[simp] theorem State.unloadCores_dram (s : State) (p : Nat) : (s.unloadCores p).dram = s.dram := by
  simp -implicitDefEqProofs [State.unloadCores]

@[simp] theorem State.unbind_dram (s : State) (x : Step) : (s.unbind x).dram = s.dram := by
  simp -implicitDefEqProofs [State.unbind]

@[simp] theorem State.modStep_dram (s : State) (p : Nat) (x : Step) (g : Step → Step) : (s.modStep p x g).dram = s.dram := by
  simp [State.modStep]

@[simp] theorem State.moveIdle_dram (s : State) (p : Nat) (x : Step) : (s.moveIdle p x).dram = s.dram := by
  simp [State.moveIdle]

@[simp] theorem State.begin__dram (s : State) (p : Nat) (x : Step) : (s.begin_ p x).dram = s.dram := by
  simp [State.begin_]

@[simp] theorem State.dodge_dram (s : State) (p : Nat) (x : Step) (k : Nat) (t : Nat × Nat × Nat × Nat × Nat) :
    (s.dodge p x k t).1.dram = s.dram := by
  unfold State.dodge
  dsimp only
  (repeat' split) <;> simp -implicitDefEqProofs

@[simp] theorem State.park_dram (s : State) (p : Nat) (x : Step) : (s.park p x).dram = s.dram := by
  simp [State.park]

@[simp] theorem State.yieldDone_dram (s : State) (p : Nat) (x : Step) : (s.yieldDone p x).dram = s.dram := by
  unfold State.yieldDone
  dsimp only
  (repeat' split) <;> simp

@[simp] theorem State.backToQueue_dram (s : State) (p : Nat) (x : Step) (replay : Bool) :
    (s.backToQueue p x replay).dram = s.dram := by
  simp [State.backToQueue]

@[simp] theorem State.leaveYield_dram (s : State) (p c pc t : Nat) : (s.leaveYield p c pc t).dram = s.dram := by
  simp [State.leaveYield]

@[simp] theorem State.restore_dram (s : State) (p : Nat) (x : Step) : (s.restore p x).dram = s.dram := by
  simp only [State.restore, State.prefetch_dram, State.bump_dram]
  rw [State.forEach_dram, State.forEach_dram]
  · simp -implicitDefEqProofs
  · intro s k
    rfl
  · intro s k
    split <;> rfl

@[simp] theorem State.land_dram (s : State) (p c pc : Nat) (f : Flight) (t : Nat) : (s.land p c pc f t).dram = s.dram := by
  simp [State.land]

@[simp] theorem State.noteSignals_dram (s : State) (c pc : Nat) (f : Flight) : (s.noteSignals c pc f).dram = s.dram := by
  simp [State.noteSignals]

@[simp] theorem State.hold_dram (s : State) (a : HeldAccess) : (s.hold a).dram = s.dram := by
  simp [State.hold]

@[simp] theorem State.blame_dram (s : State) (code o sub : Nat) : (s.blame code o sub).dram = s.dram := by
  simp [State.blame]

@[simp] theorem State.writeVia_dram (s : State) (path : Path) (o sub v : Nat) (op : State → State × Nat) (hop : ∀ s,
    (op s).1.dram = s.dram) : (s.writeVia path o sub v op).dram = s.dram := by
  unfold State.writeVia
  dsimp only
  (repeat' split) <;> simp [hop]

@[simp] theorem State.writeDo_dram (s : State) (path : Path) (o sub v : Nat) (op : State → State) (hop : ∀ s,
    (op s).dram = s.dram) : (s.writeDo path o sub v op).dram = s.dram := by
  simp [State.writeDo, hop]

@[simp] theorem State.nextLoad_dram (s : State) (before : List Nat) : (s.nextLoad before).dram = s.dram := by
  unfold State.nextLoad
  (repeat' split) <;> simp

@[simp] theorem State.settleSlot_dram (s : State) (k : Nat) : (s.settleSlot k).dram = s.dram := by
  simp [State.settleSlot]

@[simp] theorem State.emptySlot_dram (s : State) (k : Nat) : (s.emptySlot k).dram = s.dram := by
  simp [State.emptySlot]

@[simp] theorem State.refuseImage_dram (s : State) (k code offset : Nat) : (s.refuseImage k code offset).dram = s.dram := by
  simp [State.refuseImage]

@[simp] theorem State.loadSlot_dram (s : State) (k : Nat) : (s.loadSlot k).1.dram = s.dram := by
  simp [State.loadSlot]

@[simp] theorem State.unloadSlot_dram (s : State) (k : Nat) : (s.unloadSlot k).1.dram = s.dram := by
  simp [State.unloadSlot]

@[simp] theorem State.setExport_dram (s : State) (w : Nat) (e : Export) : (s.setExport w e).dram = s.dram := by
  simp [State.setExport]

@[simp] theorem State.negFail_dram (s : State) (w code : Nat) : (s.negFail w code).dram = s.dram := by
  simp [State.negFail]

@[simp] theorem State.negSeal_dram (s : State) (w o : Nat) (d : List Byte) : (s.negSeal w o d).dram = s.dram := by
  unfold State.negSeal
  extract_lets e blk n
  split
  · exact State.negFail_dram ..
  · split
    · exact State.negFail_dram ..
    · rfl

@[simp] theorem State.memFetch_dram (s : State) (a : Act) (x : Step) (d : Desc) (g : RegionE) :
    (s.memFetch a x d g).1.dram = s.dram := by
  simp [State.memFetch]

@[simp] theorem State.landCheck_dram (s : State) (k n : Nat) : (s.landCheck k n).dram = s.dram := by
  unfold State.landCheck
  dsimp only
  (repeat' split) <;> simp -implicitDefEqProofs

@[simp] theorem State.landGranules_dram (s : State) (k a n : Nat) : (s.landGranules k a n).dram = s.dram := by
  simp [State.landGranules]

@[simp] theorem State.putCluster_dram (s : State) (mesh : Bool) (k : Nat) (img : Ram) (b a n : Nat) :
    (s.putCluster mesh k img b a n).dram = s.dram := by
  simp [State.putCluster]

@[simp] theorem State.meshBytes_dram (s : State) (p sub n : Nat) : (s.meshBytes p sub n).dram = s.dram := by
  simp [State.meshBytes]

@[simp] theorem State.loadEffect_dram (s : State) (a : Act) (d : Desc) : (s.loadEffect a d).dram = s.dram := by
  unfold State.loadEffect
  dsimp only
  (repeat' split) <;> simp

@[simp] theorem State.spendRing_dram (s : State) (p w n : Nat) : (s.spendRing p w n).dram = s.dram := by
  simp [State.spendRing]

@[simp] theorem State.haloOut_dram (s : State) (a : Act) (f : HaloFields) : (s.haloOut a f).dram = s.dram := by
  unfold State.haloOut
  dsimp only
  (repeat' split) <;> simp

@[simp] theorem State.haloIn_dram (s : State) (a : Act) (f : HaloFields) : (s.haloIn a f).dram = s.dram := by
  unfold State.haloIn
  dsimp only
  (repeat' split) <;> simp

@[simp] theorem State.walkToken_dram (s : State) (die : Nat) (img : Ram) (n kv pos slot r : Nat) :
    (s.walkToken die img n kv pos slot r).1.dram = s.dram := by
  unfold State.walkToken
  split
  next t g first =>
    split
    next u q second => rw [← State.meshRead_dram s, first, ← State.meshRead_dram t, second]

@[simp] theorem State.walkEntry_dram (s : State) (a : Act) (x : Step) (g : RegionE) (n off : Nat) (w : Walk) :
    (s.walkEntry a x g n off w).1.dram = s.dram := by
  unfold State.walkEntry
  dsimp only
  (repeat' split) <;> simp

@[simp] theorem State.ldpEffect_dram (s : State) (a : Act) (f : LdpFields) : (s.ldpEffect a f).dram = s.dram := by
  unfold State.ldpEffect
  dsimp only
  (repeat' split) <;> simp

@[simp] theorem State.openInst_dram (s : State) (a : Act) (x : Step) (e : CollE) (g : RegionE) :
    (s.openInst a x e g).1.dram = s.dram := by
  unfold State.openInst
  dsimp only
  (repeat' split) <;> simp

@[simp] theorem State.modFlight_dram (s : State) (pc : Nat) (f : Flight → Flight) : (s.modFlight pc f).dram = s.dram := by
  simp [State.modFlight]

@[simp] theorem State.commandSend_dram (s : State) (a : Act) (d : Desc) : (s.commandSend a d).dram = s.dram := by
  unfold State.commandSend
  dsimp only
  (repeat' split) <;> simp

@[simp] theorem State.nmuRecord_dram (s : State) (p k : Nat) (c : NmuCmd) (m l : List Nat) (data : List Byte) :
    (s.nmuRecord p k c m l data).dram = s.dram := by
  simp [State.nmuRecord]

@[simp] theorem State.nmuClosed_dram (s : State) (p : Nat) (c : NmuCmd) : (s.nmuClosed p c).dram = s.dram := by
  simp [State.nmuClosed]

@[simp] theorem State.raiseCmd_dram (s : State) (p : Nat) (c : NmuCmd) (e : Event) : (s.raiseCmd p c e).dram = s.dram := by
  simp [State.raiseCmd]

@[simp] theorem State.cmdFault_dram (s : State) (p k : Nat) (c : NmuCmd) : (s.cmdFault p k c).dram = s.dram := by
  simp [State.cmdFault]

@[simp] theorem State.cmdFailStep_dram (s : State) (p k : Nat) (c : NmuCmd) : (s.cmdFailStep p k c).dram = s.dram := by
  simp [State.cmdFailStep]

@[simp] theorem State.setCmds_dram (s : State) (k p : Nat) (l : List NmuCmd) : (s.setCmds k p l).dram = s.dram := by
  simp [State.setCmds]

@[simp] theorem State.cmdAtOnce_dram (s : State) (k p : Nat) (c : NmuCmd) : (s.cmdAtOnce k p c).dram = s.dram := by
  simp [State.cmdAtOnce]

@[simp] theorem State.nmuArrive_dram (s : State) (k : Nat) (t : TxHeader) (g : List Byte) (bad mine : Bool) :
    (s.nmuArrive k t g bad mine).dram = s.dram := by
  unfold State.nmuArrive
  dsimp only
  (repeat' split) <;> simp

@[simp] theorem State.routerReply_dram (s : State) (t : TxHeader) (ws : List CodeWord) : (s.routerReply t ws).dram = s.dram := by
  unfold State.routerReply
  (repeat' split) <;> simp

@[simp] theorem State.nmuRead_dram (s : State) (p k pc : Nat) (c : NmuCmd) (a : Nat) : (s.nmuRead p k pc c a).1.dram = s.dram := by
  simp [State.nmuRead]

@[simp] theorem State.decodeToken_dram (s : State) (p k : Nat) (c : NmuCmd) (i a : Nat) (w : Work) :
    (s.decodeToken p k c i a w).1.dram = s.dram := by
  unfold State.decodeToken
  split
  · rfl
  · split
    · rfl
    · split
      next t b ok read =>
        have same : t.dram = s.dram := by rw [← State.nmuRead_dram s, read]
        extract_lets v
        split <;> exact same

@[simp] theorem State.decodeEntry_dram (s : State) (p k : Nat) (c : NmuCmd) (i : Nat) (w : Work) :
    (s.decodeEntry p k c i w).1.dram = s.dram := by
  unfold State.decodeEntry
  dsimp only
  (repeat' split) <;> simp

@[simp] theorem State.decodeWork_dram (s : State) (p k : Nat) (c : NmuCmd) : (s.decodeWork p k c).1.dram = s.dram := by
  simp [State.decodeWork]

/-- One granule of STATS is read, and nothing else is done to the state. -/
theorem State.statsStep_keeps (P : State × Work → Prop) (work : ∀ s w w', P (s, w) → P (s, w'))
    (read : ∀ s p k pc c a w, P (s, w) → P ((s.nmuRead p k pc c a).1, w)) {s : State} (p k : Nat) (c : NmuCmd) (r j : Nat)
    (w : Work) (h : P (s, w)) : P (s.statsStep p k c r j w) := by
  unfold State.statsStep
  split
  · exact h
  · extract_lets a
    split
    · exact h
    next pc rot _ =>
      have hr := read s p k pc c a w h
      split
      next t b ok eq =>
        rw [eq] at hr
        split <;> exact work _ _ _ hr

@[simp] theorem State.statsStep_dram (s : State) (p k : Nat) (c : NmuCmd) (r j : Nat) (w : Work) :
    (s.statsStep p k c r j w).1.dram = s.dram :=
  State.statsStep_keeps (fun x => x.1.dram = s.dram) (fun _ _ _ same => same)
    (fun s _ _ _ _ _ _ same => (s.nmuRead_dram ..).trans same) p k c r j w rfl

@[simp] theorem State.statsWork_dram (s : State) (p k : Nat) (c : NmuCmd) : (s.statsWork p k c).1.dram = s.dram := by
  simp [State.statsWork]

@[simp] theorem State.eachGranule_dram (s : State) (n : Nat) (f : State → Nat → Work → State × Work) (hf : ∀ s n w,
    (f s n w).1.dram = s.dram) : (s.eachGranule n f).1.dram = s.dram := by
  simp [State.eachGranule, hf]

@[simp] theorem State.traceCmd_dram (s : State) (p k kind tag x : Nat) : (s.traceCmd p k kind tag x).dram = s.dram := by
  simp [State.traceCmd]

@[simp] theorem State.startCmd_dram (s : State) (k p kind : Nat) (work : State → NmuCmd → State × Work) (hwork : ∀ s c,
    (work s c).1.dram = s.dram) : (s.startCmd k p kind work).dram = s.dram := by
  unfold State.startCmd
  dsimp only
  (repeat' split) <;> simp [hwork]

@[simp] theorem State.emitColl_dram (s : State) (m : CollMsg) (payload : List CodeWord) (port id : Nat) :
    (s.emitColl m payload port id).dram = s.dram := by
  simp [State.emitColl]

@[simp] theorem State.setSent_dram (s : State) (l : List Sent) : (s.setSent l).dram = s.dram := by
  simp [State.setSent]

@[simp] theorem State.launchSent_dram (s : State) (x : Sent) (port : Option Nat) : (s.launchSent x port).dram = s.dram := by
  unfold State.launchSent
  dsimp only
  (repeat' split) <;> simp

@[simp] theorem State.sendColl_dram (s : State) (m : CollMsg) (payload : List CodeWord) : (s.sendColl m payload).dram = s.dram := by
  simp [State.sendColl]

@[simp] theorem State.putCack_dram (s : State) (k : CollMsg) : (s.putCack k).dram = s.dram := by
  unfold State.putCack
  dsimp only
  (repeat' split) <;> simp

@[simp] theorem State.flushSent_dram (s : State) (m : Nat) : (s.flushSent m).dram = s.dram := by
  simp [State.flushSent]

@[simp] theorem State.sendCack_dram (s : State) (m : CollMsg) : (s.sendCack m).dram = s.dram := by
  simp [State.sendCack]

@[simp] theorem State.dropMsg_dram (s : State) (m : CollMsg) : (s.dropMsg m).dram = s.dram := by
  simp [State.dropMsg]

@[simp] theorem State.capture_dram (s : State) (cause p stopId : Nat) : (s.capture cause p stopId).dram = s.dram := by
  simp [State.capture]

@[simp] theorem State.settleHang_dram (s : State) (p : Nat) : (s.settleHang p).dram = s.dram := by
  unfold State.settleHang
  (repeat' split) <;> simp

@[simp] theorem State.settleCut_dram (s : State) (p : Nat) : (s.settleCut p).dram = s.dram := by
  unfold State.settleCut
  dsimp only
  (repeat' split) <;> simp

@[simp] theorem State.modChunk_dram (s : State) (g q c : Nat) (f : ChunkSt → ChunkSt) : (s.modChunk g q c f).dram = s.dram := by
  simp [State.modChunk]

@[simp] theorem State.settleData_dram (s : State) (g q c : Nat) : (s.settleData g q c).dram = s.dram := by
  unfold State.settleData
  dsimp only
  (repeat' split) <;> simp

@[simp] theorem State.noteUsable_dram (s : State) (g q : Nat) : (s.noteUsable g q).dram = s.dram := by
  unfold State.noteUsable
  dsimp only
  (repeat' split) <;> simp

@[simp] theorem State.parkWork_dram (s : State) (w : HeldWork) : (s.parkWork w).dram = s.dram := by
  simp [State.parkWork]

@[simp] theorem State.instOfMsg_dram (s : State) (m : CollMsg) (slot p : Nat) (e : CollE) :
    (s.instOfMsg m slot p e).dram = s.dram := by
  simp [State.instOfMsg]

@[simp] theorem State.refuseMsg_dram (s : State) (m : CollMsg) (why : Nat) : (s.refuseMsg m why).dram = s.dram := by
  simp [State.refuseMsg]

@[simp] theorem State.instFor_dram (s : State) (m : CollMsg) (data : Bool) : (s.instFor m data).1.dram = s.dram := by
  unfold State.instFor
  dsimp only
  (repeat' split) <;> simp

@[simp] theorem State.onBusy_dram (s : State) (m : CollMsg) : (s.onBusy m).dram = s.dram := by
  unfold State.onBusy
  dsimp only
  (repeat' split) <;> simp

@[simp] theorem State.onQuery_dram (s : State) (m : CollMsg) : (s.onQuery m).dram = s.dram := by
  simp [State.onQuery]

@[simp] theorem State.residueEvent_dram (s : State) (p unit place c pc : Nat) :
    (s.residueEvent p unit place c pc).dram = s.dram := by
  simp [State.residueEvent]

@[simp] theorem State.residueFault_dram (s : State) (k p unit pc : Nat) : (s.residueFault k p unit pc).dram = s.dram := by
  unfold State.residueFault
  dsimp only
  (repeat' split) <;> simp

@[simp] theorem State.checkHead_dram (s : State) (port : Nat) (ws : List CodeWord) : (s.checkHead port ws).1.dram = s.dram := by
  simp [State.checkHead]

@[simp] theorem State.p0Drop_dram (s : State) (state : Nat) : (s.p0Drop state).dram = s.dram := by
  simp [State.p0Drop]

@[simp] theorem State.collReset_dram (s : State) (p : Nat) : (s.collReset p).dram = s.dram := by
  simp [State.collReset]

@[simp] theorem State.filmWrap_dram (s : State) (f : Nat) : (s.filmWrap f).dram = s.dram := by
  unfold State.filmWrap
  (repeat' split) <;> simp

@[simp] theorem State.filmZero_dram (s : State) (f : Nat) : (s.filmZero f).dram = s.dram := by
  simp [State.filmZero]

@[simp] theorem State.armTrace_dram (s : State) (p : Nat) : (s.armTrace p).dram = s.dram := by
  simp [State.armTrace]

@[simp] theorem State.control_dram (s : State) (op die p hi lo mask : Nat) : (s.control op die p hi lo mask).dram = s.dram := by
  simp [State.control]

@[simp] theorem State.marker_dram (s : State) (die : Nat) (ps : List Nat) (value bath : Nat) :
    (s.marker die ps value bath).dram = s.dram := by
  simp [State.marker]

@[simp] theorem State.sendMark_dram (s : State) (v : Nat) : (s.sendMark v).dram = s.dram := by
  simp [State.sendMark]

@[simp] theorem State.armStop_dram (s : State) (p : Nat) : (s.armStop p).1.dram = s.dram := by
  simp [State.armStop]

@[simp] theorem State.thaw_dram (s : State) (c single : Nat) : (s.thaw c single).dram = s.dram := by
  unfold State.thaw
  (repeat' split) <;> simp

@[simp] theorem State.takeSlot15_dram (s : State) : (s.takeSlot15).dram = s.dram := by
  simp [State.takeSlot15]

@[simp] theorem State.scrubFault_dram (s : State) (unit a : Nat) : (s.scrubFault unit a).dram = s.dram := by
  simp [State.scrubFault]

@[simp] theorem State.setThermal_dram (s : State) (k c : Nat) : (s.setThermal k c).dram = s.dram := by
  simp [State.setThermal]

@[simp] theorem State.enterEmergency_dram (s : State) (k : Nat) : (s.enterEmergency k).dram = s.dram := by
  simp -implicitDefEqProofs [State.enterEmergency]

@[simp] theorem State.leaveEmergency_dram (s : State) (k : Nat) : (s.leaveEmergency k).dram = s.dram := by
  simp -implicitDefEqProofs [State.leaveEmergency]

@[simp] theorem State.fillFailed_dram (s : State) (f : Fill) : (s.fillFailed f).dram = s.dram := by
  unfold State.fillFailed
  dsimp only
  (repeat' split) <;> simp

@[simp] theorem State.sendFar_dram (s : State) (w : Nat) (img : Ram) (fuel b o n : Nat) :
    (s.sendFar w img fuel b o n).dram = s.dram := by
  induction fuel generalizing s b o n with
  | zero => rfl
  | succ fuel ih =>
    unfold State.sendFar
    split
    · rfl
    · dsimp only
      rw [ih]
      split <;> rfl

@[simp] theorem State.readRing_dram (s : State) (w o pos n : Nat) : (s.readRing w o pos n).1.dram = s.dram := by
  simp [State.readRing]

@[simp] theorem State.drain_dram (s : State) (w fuel n : Nat) : (s.drain w fuel n).dram = s.dram := by
  induction fuel generalizing s n with
  | zero => rfl
  | succ fuel ih =>
    unfold State.drain
    dsimp only
    split
    · rfl
    · split
      · rfl
      · rw [ih]
        simp -implicitDefEqProofs

@[simp] theorem State.setDecoder_dram (s : State) (n : Nat) (d : Decoder) : (s.setDecoder n d).dram = s.dram := by
  simp [State.setDecoder]

@[simp] theorem State.hostLoad_dram (s : State) (e : Nat × Nat × Nat) : (s.hostLoad e).1.dram = s.dram := by
  simp [State.hostLoad]

@[simp] theorem State.requestFault_dram (s : State) (n a : Nat) : (s.requestFault n a).dram = s.dram := by
  simp [State.requestFault]

@[simp] theorem State.takeRequest_dram (s : State) (n : Nat) (e : List Byte) : (s.takeRequest n e).dram = s.dram := by
  unfold State.takeRequest
  dsimp only
  (repeat' split) <;> simp

@[simp] theorem State.clientEntry_dram (s : State) (n : Nat) (given : List Byte) : (s.clientEntry n given).1.dram = s.dram := by
  simp [State.clientEntry]

@[simp] theorem State.enableClient_dram (s : State) (n : Nat) : (s.enableClient n).1.dram = s.dram := by
  unfold State.enableClient
  dsimp only
  (repeat' split) <;> simp

@[simp] theorem State.disableClient_dram (s : State) (n : Nat) : (s.disableClient n).dram = s.dram := by
  simp [State.disableClient]

@[simp] theorem State.p0Train_dram (s : State) (rate width : Nat) (flit256 : Bool) :
    (s.p0Train rate width flit256).dram = s.dram := by
  simp [State.p0Train]

@[simp] theorem State.codecMoved_dram (s : State) (p n : Nat) : (s.codecMoved p n).dram = s.dram := by
  simp [State.codecMoved]

@[simp] theorem State.codecLoad_dram (s : State) (p d a n : Nat) : (s.codecLoad p d a n).1.dram = s.dram := by
  simp [State.codecLoad]

@[simp] theorem State.loadPlane_dram (s : State) (p d k : Nat) (t : PicDesc) : (s.loadPlane p d k t).1.dram = s.dram := by
  simp [State.loadPlane]

@[simp] theorem State.setChannel_dram (s : State) (c : Nat) (v : Channel) : (s.setChannel c v).dram = s.dram := by
  simp [State.setChannel]

@[simp] theorem State.modChannel_dram (s : State) (c : Nat) (f : Channel → Channel) : (s.modChannel c f).dram = s.dram := by
  simp [State.modChannel]

@[simp] theorem State.free_dram (s : State) (tag : Nat) : (s.free tag).1.dram = s.dram := by
  simp [State.free]

@[simp] theorem State.enterPipe_dram (s : State) (d mode : Nat) : (s.enterPipe d mode).dram = s.dram := by
  simp [State.enterPipe]

@[simp] theorem State.settlePipe_dram (s : State) (d : Nat) : (s.settlePipe d).dram = s.dram := by
  simp [State.settlePipe]

@[simp] theorem State.wantPipe_dram (s : State) (d mode : Nat) : (s.wantPipe d mode).dram = s.dram := by
  simp [State.wantPipe]

@[simp] theorem State.holdPipe_dram (s : State) (d : Nat) : (s.holdPipe d).dram = s.dram := by
  simp [State.holdPipe]

@[simp] theorem State.leaveTest_dram (s : State) (d : Nat) : (s.leaveTest d).dram = s.dram := by
  simp [State.leaveTest]

@[simp] theorem State.calibrate_dram (s : State) (d : Nat) : (s.calibrate d).dram = s.dram := by
  simp [State.calibrate]

@[simp] theorem State.resumePipe_dram (s : State) (d : Nat) : (s.resumePipe d).dram = s.dram := by
  simp [State.resumePipe]

@[simp] theorem State.modJob_dram (s : State) (c : Nat) (f : Job → Job) : (s.modJob c f).dram = s.dram := by
  simp [State.modJob]

@[simp] theorem State.jobFaults_dram (s : State) (c : Nat) (l : List Nat) : (s.jobFaults c l).dram = s.dram := by
  simp [State.jobFaults]

@[simp] theorem State.loadPicture_dram (s : State) (p d n : Nat) (t : PicDesc) : (s.loadPicture p d n t).1.dram = s.dram := by
  simp [State.loadPicture]

@[simp] theorem State.readRecon_dram (s : State) (c : Nat) (phv : Bool) (r : Recon) : (s.readRecon c phv r).1.dram = s.dram := by
  simp [State.readRecon]

@[simp] theorem State.searchRefs_dram (s : State) (c : Nat) (phv : Bool) (rs : List Recon) :
    (s.searchRefs c phv rs).1.dram = s.dram := by
  simp [State.searchRefs]

@[simp] theorem State.hidePicture_dram (s : State) (c : Nat) (t : PicDesc) (damaged : Bool) :
    (s.hidePicture c t damaged).1.dram = s.dram := by
  unfold State.hidePicture
  dsimp only
  (repeat' split) <;> simp

@[simp] theorem State.readRefs_dram (s : State) (c dec : Nat) : (s.readRefs c dec).1.dram = s.dram := by
  simp [State.readRefs]

@[simp] theorem State.decodeJob_dram (s : State) (c : Nat) (j : Job) (error : Bool) : (s.decodeJob c j error).dram = s.dram := by
  simp [State.decodeJob]

@[simp] theorem State.releaseRefs_dram (s : State) (c dec : Nat) (j : Job) : (s.releaseRefs c dec j).dram = s.dram := by
  simp -implicitDefEqProofs [State.releaseRefs]

@[simp] theorem State.enableChan_dram (s : State) (c : Nat) : (s.enableChan c).1.dram = s.dram := by
  unfold State.enableChan
  dsimp only
  (repeat' split) <;> simp

@[simp] theorem State.disableChan_dram (s : State) (c : Nat) : (s.disableChan c).dram = s.dram := by
  simp [State.disableChan]

@[simp] theorem State.holdOld_dram (s : State) (o sub p : Nat) : (s.holdOld o sub p).dram = s.dram := by
  simp [State.holdOld]

@[simp] theorem State.storeRws_dram (s : State) (o sub v : Nat) : (s.storeRws o sub v).dram = s.dram := by
  simp [State.storeRws]

@[simp] theorem State.takeNow_dram (s : State) (c : Nat × Bool) (p : Nat) : (s.takeNow c p).dram = s.dram := by
  simp [State.takeNow]

@[simp] theorem State.writeOverlays_dram (s : State) (v : Nat) : (s.writeOverlays v).1.dram = s.dram := by
  unfold State.writeOverlays
  dsimp only
  (repeat' split) <;> simp -implicitDefEqProofs

@[simp] theorem State.enableStatus_dram (s : State) (v : Nat) : (s.enableStatus v).dram = s.dram := by
  simp [State.enableStatus]

@[simp] theorem State.trainPort_dram (s : State) (n : Nat) (ok : Bool) : (s.trainPort n ok).dram = s.dram := by
  simp [State.trainPort]

@[simp] theorem State.idlePort_dram (s : State) (n : Nat) : (s.idlePort n).dram = s.dram := by
  simp [State.idlePort]

@[simp] theorem State.enableSlot15_dram (s : State) : (s.enableSlot15).dram = s.dram := by
  simp -implicitDefEqProofs [State.enableSlot15]

@[simp] theorem State.renewSlots_dram (s : State) : (s.renewSlots).dram = s.dram := by
  simp [State.renewSlots]

@[simp] theorem State.dropSlot15_dram (s : State) : (s.dropSlot15).dram = s.dram := by
  simp -implicitDefEqProofs [State.dropSlot15]

@[simp] theorem State.derive_dram (s : State) : (s.derive).dram = s.dram := by
  simp -implicitDefEqProofs [State.derive]

@[simp] theorem State.enableNow_dram (s : State) : (s.enableNow).dram = s.dram := by
  simp -implicitDefEqProofs [State.enableNow]

@[simp] theorem State.enableDevice_dram (s : State) (trained : Nat) : (s.enableDevice trained).1.dram = s.dram := by
  unfold State.enableDevice
  dsimp only
  (repeat' split) <;> simp -implicitDefEqProofs

@[simp] theorem State.disableDevice_dram (s : State) : (s.disableDevice).1.dram = s.dram := by
  simp -implicitDefEqProofs [State.disableDevice]

@[simp] theorem State.disableNow_dram (s : State) : (s.disableNow).dram = s.dram := by
  simp -implicitDefEqProofs [State.disableNow]

@[simp] theorem State.newNonce_dram (s : State) : (s.newNonce).dram = s.dram := by
  simp [State.newNonce]

@[simp] theorem State.faultPin_dram (s : State) (v : Bool) : (s.faultPin v).dram = s.dram := by
  simp [State.faultPin]

@[simp] theorem State.pwrgdPin_dram (s : State) (v : Bool) : (s.pwrgdPin v).dram = s.dram := by
  simp [State.pwrgdPin]

@[simp] theorem State.phaseTo_dram (s : State) (p : Phase) : (s.phaseTo p).dram = s.dram := by
  simp [State.phaseTo]

@[simp] theorem State.bringUp_dram (s : State) : (s.bringUp).dram = s.dram := by
  unfold State.bringUp
  dsimp only
  (repeat' split) <;> simp

@[simp] theorem State.resetNote_dram (s : State) (cause at_ : Nat) : (s.resetNote cause at_).dram = s.dram := by
  simp [State.resetNote]

@[simp] theorem State.upOrWait_dram (s : State) : (s.upOrWait).dram = s.dram := by
  simp [State.upOrWait]

@[simp] theorem State.latch_dram (s : State) : (s.latch).dram = s.dram := by
  simp [State.latch]

@[simp] theorem State.writeReset_dram (s : State) (path : Path) (o sub v : Nat) (check : State → Nat) (op : State → State)
    (hop : ∀ s, (op s).dram = s.dram) : (s.writeReset path o sub v check op).dram = s.dram := by
  unfold State.writeReset
  dsimp only
  (repeat' split) <;> simp [hop]

@[simp] theorem State.readWake_dram (s : State) (path : Path) : (s.readWake path).dram = s.dram := by
  unfold State.readWake
  dsimp only
  (repeat' split) <;> simp

@[simp] theorem State.testLinks_dram (s : State) (d : Nat) : (s.testLinks d).dram = s.dram := by
  simp [State.testLinks]

@[simp] theorem State.testRegion_dram (s : State) (r : Nat) : (s.testRegion r).dram = s.dram := by
  unfold State.testRegion
  dsimp only
  (repeat' split) <;> simp -implicitDefEqProofs

@[simp] theorem State.stripResult_dram (s : State) (r result : Nat) : (s.stripResult r result).dram = s.dram := by
  simp [State.stripResult]

@[simp] theorem State.release_dram (s : State) : (s.release).dram = s.dram := by
  simp [State.release]

@[simp] theorem State.roundDone_dram (s : State) (r : Nat) : (s.roundDone r).dram = s.dram := by
  simp [State.roundDone]

@[simp] theorem State.stopStackStrip_dram (s : State) (k : Nat) : (s.stopStackStrip k).dram = s.dram := by
  simp [State.stopStackStrip]

@[simp] theorem State.liftFences_dram (s : State) (k : Nat) : (s.liftFences k).dram = s.dram := by
  simp -implicitDefEqProofs [State.liftFences]

@[simp] theorem State.requestedEnd_dram (s : State) (r : Nat) (fences : Bool) (result : Nat) :
    (s.requestedEnd r fences result).dram = s.dram := by
  unfold State.requestedEnd
  dsimp only
  (repeat' split) <;> simp

@[simp] theorem State.judge_dram (s : State) (r signature : Nat) (aborted : Bool) :
    (s.judge r signature aborted).1.dram = s.dram := by
  simp [State.judge]

@[simp] theorem State.startStrip_dram (s : State) (r : Nat) (fences : Bool) : (s.startStrip r fences).dram = s.dram := by
  simp -implicitDefEqProofs [State.startStrip]

@[simp] theorem State.requestStrip_dram (s : State) (r : Nat) (fences : Bool) : (s.requestStrip r fences).1.dram = s.dram := by
  simp [State.requestStrip]

@[simp] theorem State.runEngine_dram (s : State) : (s.runEngine).1.dram = s.dram := by
  simp [State.runEngine]

@[simp] theorem State.fenceSettle_dram (s : State) (k : Nat) : (s.fenceSettle k).dram = s.dram := by
  unfold State.fenceSettle
  (repeat' split) <;> simp

@[simp] theorem State.fenceAndSettle_dram (s : State) (pc cause : Nat) : (s.fenceAndSettle pc cause).dram = s.dram := by
  simp [State.fenceAndSettle]

@[simp] theorem State.setSessions_dram (s : State) (l : List Session) : (s.setSessions l).dram = s.dram := by
  simp [State.setSessions]

@[simp] theorem State.dropKeys_dram (s : State) (port : Nat) : (s.dropKeys port).dram = s.dram := by
  simp [State.dropKeys]

@[simp] theorem State.quietAborts_dram (s : State) : (s.quietAborts).dram = s.dram := by
  simp [State.quietAborts]

@[simp] theorem State.windowReset_dram (s : State) : (s.windowReset).dram = s.dram := by
  simp [State.windowReset]

@[simp] theorem State.dropPieces_dram (s : State) : (s.dropPieces).dram = s.dram := by
  simp [State.dropPieces]

@[simp] theorem State.abortStrip_dram (s : State) : (s.abortStrip).dram = s.dram := by
  unfold State.abortStrip
  (repeat' split) <;> simp

@[simp] theorem State.enablesOff_dram (s : State) : (s.enablesOff).dram = s.dram := by
  simp [State.enablesOff]

@[simp] theorem State.takeImage_dram (s : State) (b : List Byte) : (s.takeImage b).1.dram = s.dram := by
  simp [State.takeImage]

@[simp] theorem State.writeBytes_dram (s : State) (path : Path) (o sub : Nat) (d : List Byte) (op : State → State × Nat)
    (hop : ∀ s, (op s).1.dram = s.dram) : (s.writeBytes path o sub d op).dram = s.dram := by
  unfold State.writeBytes
  dsimp only
  (repeat' split) <;> simp [hop]

@[simp] theorem State.pldmUpdate_dram (s : State) (data : List Byte) : (s.pldmUpdate data).dram = s.dram := by
  simp [State.pldmUpdate]

@[simp] theorem State.commitVersion_dram (s : State) : (s.commitVersion).dram = s.dram := by
  simp [State.commitVersion]

@[simp] theorem State.makeIdentity_dram (s : State) : (s.makeIdentity).dram = s.dram := by
  simp [State.makeIdentity]

@[simp] theorem State.transition_dram (s : State) (target : Nat) : (s.transition target).dram = s.dram := by
  simp [State.transition]

@[simp] theorem State.spdmError_dram (s : State) (c : Nat) (name : String) : (s.spdmError c name).dram = s.dram := by
  simp [State.spdmError]

@[simp] theorem State.inSpdm_dram (s : State) (op : State → State) (hop : ∀ s, (op s).dram = s.dram) :
    (s.inSpdm op).dram = s.dram := by
  simp [State.inSpdm, hop]

@[simp] theorem State.spdm_dram (s : State) (c : Nat) (op : State → State) (hop : ∀ s, (op s).dram = s.dram) :
    (s.spdm c op).dram = s.dram := by
  simp [State.spdm, hop]

@[simp] theorem State.signed_dram (s : State) (c : Nat) (name : String) (nonce body : List Byte) :
    (s.signed c name nonce body).dram = s.dram := by
  unfold State.signed
  dsimp only
  (repeat' split) <;> simp

@[simp] theorem State.programKeys_dram (s : State) (t : IdeTarget) (id : Nat) (key : List Byte) :
    (s.programKeys t id key).dram = s.dram := by
  simp [State.programKeys]

@[simp] theorem State.stepTime_dram (s : State) (v : Nat) : (s.stepTime v).dram = s.dram := by
  simp [State.stepTime]

@[simp] theorem State.discipline_dram (s : State) (err : ℤ) : (s.discipline err).dram = s.dram := by
  simp [State.discipline]

@[simp] theorem State.advance_dram (s : State) : (s.advance).dram = s.dram := by
  simp [State.advance]

@[simp] theorem State.countClass_dram (s : State) (k : Nat) : (s.countClass k).dram = s.dram := by
  simp [State.countClass]

@[simp] theorem State.countIdle_dram (s : State) (p : Nat) : (s.countIdle p).dram = s.dram := by
  unfold State.countIdle
  dsimp only
  (repeat' split) <;> simp

@[simp] theorem State.idle_dram (s : State) : (s.idle).dram = s.dram := by
  simp [State.idle]

@[simp] theorem State.modConductor_dram (s : State) (f : Conductor → Conductor) : (s.modConductor f).dram = s.dram := by
  simp [State.modConductor]

@[simp] theorem State.leaveOffice_dram (s : State) : (s.leaveOffice).dram = s.dram := by
  simp [State.leaveOffice]

@[simp] theorem State.goInert_dram (s : State) (d : Nat) : (s.goInert d).dram = s.dram := by
  simp -implicitDefEqProofs [State.goInert]

@[simp] theorem State.loupeRead_dram (s : State) : (s.loupeRead).1.dram = s.dram := by
  simp [State.loupeRead]

@[simp] theorem State.modPath_dram (s : State) (p : Path) (f : PathSt → PathSt) : (s.modPath p f).dram = s.dram := by
  simp [State.modPath]

@[simp] theorem State.laterPiece_dram (s : State) (p : Path) (k piece : Nat) (now : Option (List Byte)) :
    (s.laterPiece p k piece now).1.dram = s.dram := by
  simp [State.laterPiece]

@[simp] theorem State.noteSeen_dram (s : State) (p : Path) (k : Nat) (e : List Byte) : (s.noteSeen p k e).dram = s.dram := by
  simp [State.noteSeen]

@[simp] theorem State.readLoupe_dram (s : State) (p : Path) (piece : Nat) : (s.readLoupe p piece).1.dram = s.dram := by
  unfold State.readLoupe
  dsimp only
  (repeat' split) <;> simp

@[simp] theorem State.readAt_dram (s : State) (p : Path) (o sub piece : Nat) : (s.readAt p o sub piece).1.dram = s.dram := by
  unfold State.readAt
  dsimp only
  (repeat' split) <;> simp

@[simp] theorem State.readVia_dram (s : State) (p : Path) (o sub piece : Nat) : (s.readVia p o sub piece).dram = s.dram := by
  simp [State.readVia]

@[simp] theorem State.storeNum_dram (s : State) (p : Path) (o sub v : Nat) : (s.storeNum p o sub v).dram = s.dram := by
  unfold State.storeNum
  dsimp only
  (repeat' split) <;> simp

@[simp] theorem State.storeBlob_dram (s : State) (o sub : Nat) (b : List Byte) : (s.storeBlob o sub b).1.dram = s.dram := by
  unfold State.storeBlob
  dsimp only
  (repeat' split) <;> simp

@[simp] theorem State.refuseWrite_dram (s : State) (p : Path) (o sub piece code : Nat) (d : List Byte) :
    (s.refuseWrite p o sub piece code d).dram = s.dram := by
  simp [State.refuseWrite]

@[simp] theorem State.writePiece_dram (s : State) (p : Path) (o sub piece : Nat) (d : List Byte) :
    (s.writePiece p o sub piece d).dram = s.dram := by
  unfold State.writePiece
  dsimp only
  (repeat' split) <;> simp

@[simp] theorem State.badRequest_dram (s : State) (p : Path) : (s.badRequest p).dram = s.dram := by
  simp [State.badRequest]

@[simp] theorem State.refuseLength_dram (s : State) (p : Path) : (s.refuseLength p).dram = s.dram := by
  simp [State.refuseLength]

@[simp] theorem State.routeWrite_dram (s : State) (path : Path) (port : ByteField) (first : Nat) (entries : List Byte) :
    (s.routeWrite path port first entries).dram = s.dram := by
  unfold State.routeWrite
  dsimp only
  (repeat' split) <;> simp

@[simp] theorem State.routeRead_dram (s : State) (path : Path) (port : ByteField) (first count : Nat) :
    (s.routeRead path port first count).dram = s.dram := by
  unfold State.routeRead
  dsimp only
  (repeat' split) <;> simp

@[simp] theorem State.sendFrom_dram (s : State) (d out : Nat) : (s.sendFrom d out).dram = s.dram := by
  unfold State.sendFrom
  dsimp only
  (repeat' split) <;> simp

@[simp] theorem State.router_dram (s : State) (b : Nat) : (s.router b).dram = s.dram := by
  simp [State.router]

@[simp] theorem State.takeFlit_dram (s : State) (d n : Nat) (ws : List CodeWord) : (s.takeFlit d n ws).1.dram = s.dram := by
  simp [State.takeFlit]

@[simp] theorem State.routerAt_dram (s : State) (d : Nat) : (s.routerAt d).dram = s.dram := by
  simp [State.routerAt]

@[simp] theorem State.failClaim_dram (s : State) (d t grants : Nat) : (s.failClaim d t grants).dram = s.dram := by
  simp [State.failClaim]

@[simp] theorem State.putResults_dram (s : State) (a : Act) (d : Desc) (sat : Bool) (vs : List FVal) :
    (s.putResults a d sat vs).dram = s.dram := by
  simp [State.putResults]

@[simp] theorem State.vopEffect_dram (s : State) (a : Act) (f : VopFields) : (s.vopEffect a f).dram = s.dram := by
  simp [State.vopEffect]

@[simp] theorem State.vcvtEffect_dram (s : State) (a : Act) (f : VcvtFields) : (s.vcvtEffect a f).dram = s.dram := by
  simp [State.vcvtEffect]

@[simp] theorem State.vrowEffect_dram (s : State) (a : Act) (f : VrowFields) : (s.vrowEffect a f).dram = s.dram := by
  simp [State.vrowEffect]

@[simp] theorem State.swapBanks_dram (s : State) (pc : Nat) : (s.swapBanks pc).dram = s.dram := by
  simp [State.swapBanks]

@[simp] theorem State.sfnEffect_dram (s : State) (a : Act) (f : SfnFields) : (s.sfnEffect a f).dram = s.dram := by
  simp [State.sfnEffect]

@[simp] theorem State.sfmEffect_dram (s : State) (a : Act) (f : SfmFields) : (s.sfmEffect a f).dram = s.dram := by
  simp [State.sfmEffect]

end Sys2Proof.Machine
end

section
/-! SUPPORT. The canonical form of the stacks' memory: the operations that store to it keep the form, and so does every command. -/

namespace Sys2Proof.Machine

@[simp] theorem Ram.wf_ite (c : Prop) [Decidable c] (a b : Ram) : (if c then a else b).wf = if c then a.wf else b.wf := apply_ite ..

@[simp] theorem State.forEach_wf {α : Type} (s : State) (l : List α) (f : State → α → State)
    (hf : ∀ s x, s.dram.wf = true → (f s x).dram.wf = true) (hs : s.dram.wf = true) : (s.forEach l f).dram.wf = true :=
  foldl_keeps (fun s : State => s.dram.wf = true) (fun s hs x => hf s x hs) l hs

@[simp] theorem foldl_fst_wf {α β : Type} (s : State × β) (l : List α) (f : State × β → α → State × β)
    (hf : ∀ s x, s.1.dram.wf = true → (f s x).1.dram.wf = true) (hs : s.1.dram.wf = true) : (l.foldl f s).1.dram.wf = true :=
  foldl_keeps (fun s => s.1.dram.wf = true) (fun s hs x => hf s x hs) l hs

theorem State.takeFrame_dram {s t : State} {p f : Nat} (h : s.takeFrame p = some (t, f)) : t.dram = s.dram := by
  unfold State.takeFrame at h
  split at h
  extract_lets -lift mine at h
  split at h
  · obtain ⟨_, _, eq⟩ := Option.map_eq_some_iff.1 h
    cases eq
    rfl
  · obtain ⟨_, _, eq⟩ := Option.map_eq_some_iff.1 h
    cases eq
    rfl

/-- A store to the stacks counts what the merges meet, and copies. -/
theorem State.writeDevice_keeps (P : State → Prop) (seen : ∀ s p ce ue, P s → P (s.seen p ce ue))
    (copy : ∀ (s : State) img a b n, P s → P { s with dram := Ram.copy img s.dram a b n }) {s : State} (img : Ram) (b a n : Nat) (h : P s) :
    P (s.writeDevice img b a n) := by
  rw [State.writeDevice]
  refine foldl_keeps P (fun s hs pc => ?_) _ h
  split
  · exact hs
  · refine foldl_keeps P (fun s hs cr => ?_) _ hs
    extract_lets -lift base
    split
    exact copy _ _ _ _ _ (seen _ _ _ _ hs)

/-- A store to a die of the mesh stores to the stacks of the package. -/
theorem State.meshWrite_keeps (P : State → Prop) (hw : ∀ s img b a n, P s → P (s.writeDevice img b a n)) {s : State} (die : Nat)
    (img : Ram) (b a n : Nat) (hs : P s) : P (s.meshWrite die img b a n) := by
  have body := Eq.refl @State.meshWrite
  conv_rhs at body => delta State.meshWrite
  rw [body]
  beta_reduce
  refine foldl_keeps P (fun s hs pc => ?_) _ hs
  split
  · exact hs
  · split
    · exact hw _ _ _ _ _ hs
    · exact hs

/-- One granule of EWISE is read and written back, and nothing else is done to the state. -/
theorem State.ewiseStep_keeps (P : State × Work → Prop) (work : ∀ s w w', P (s, w) → P (s, w'))
    (read : ∀ s p k pc c a w, P (s, w) → P ((s.nmuRead p k pc c a).1, w)) (store : ∀ s die a d w, P (s, w) → P (s.storeBytes die a d, w))
    {s : State} (p k : Nat) (c : NmuCmd) (i : Nat) (w : Work) (h : P (s, w)) : P (s.ewiseStep p k c i w) := by
  have body := Eq.refl @State.ewiseStep
  conv_rhs at body => delta State.ewiseStep
  rw [body]
  beta_reduce
  simp only []
  split
  · exact h
  next pc rot _ =>
    have hr := read s p k pc c (c.addr + 256 * i) w h
    split
    · exact work _ _ _ hr
    · exact work _ _ _ (store _ _ _ _ _ hr)

/-- One granule of REDUCE is read from every source and its sum stored, and nothing else is done to the state. -/
theorem State.reduceStep_keeps (P : State × Work → Prop) (work : ∀ s w w', P (s, w) → P (s, w'))
    (read : ∀ s p k pc c a w, P (s, w) → P ((s.nmuRead p k pc c a).1, w)) (store : ∀ s die a d w, P (s, w) → P (s.storeBytes die a d, w))
    {s : State} (p k : Nat) (c : NmuCmd) (i : Nat) (w : Work) (h : P (s, w)) : P (s.reduceStep p k c i w) := by
  have body := Eq.refl @State.reduceStep
  conv_rhs at body => delta State.reduceStep
  rw [body]
  beta_reduce
  split
  next pc rot _ =>
    extract_lets -lift v
    split
    next t bs ok eq =>
      have hr : P (t, w) := by
        have hf := foldl_keeps (fun x : State × List (List Byte) × Bool => P (x.1, w)) (f := fun (t : State × List (List Byte) × Bool) a =>
          let (s, b, ok) := t.1.nmuRead p k pc c (a + 256 * i)
          (s, t.2.1 ++ [b], t.2.2 && ok)) (fun x hx a => ?_) c.sources (b := (s, [], true)) h
        · rwa [eq] at hf
        · have hr := read x.1 p k pc c (a + 256 * i) w hx
          split
          next eq => rwa [eq] at hr
      split
      · exact work _ _ _ hr
      · exact work _ _ _ (store _ _ _ _ _ hr)

@[simp] theorem State.writeReset_wf {s : State} (hs : s.dram.wf = true) (path : Path) (o sub v : Nat) (check : State → Nat) {op : State → State}
    (hop : ∀ s, s.dram.wf = true → (op s).dram.wf = true) : (s.writeReset path o sub v check op).dram.wf = true := by
  unfold State.writeReset
  split
  · simpa using hs
  · split
    · extract_lets -lift c t
      have ht : t.dram.wf = true := by simpa [t] using hs
      split
      · exact hop _ ht
      · exact ht
    · simpa using hs

@[simp] theorem State.writeVia_wf {s : State} (hs : s.dram.wf = true) (path : Path) (o sub v : Nat) {op : State → State × Nat}
    (hop : ∀ s, s.dram.wf = true → (op s).1.dram.wf = true) : (s.writeVia path o sub v op).dram.wf = true := by
  unfold State.writeVia
  split
  · simpa using hs
  · split
    · have hr := hop s hs
      split
      next t c eq =>
        rw [eq] at hr
        simpa using hr
    · split <;> simpa using hs

@[simp] theorem State.writeDo_wf {s : State} (hs : s.dram.wf = true) (path : Path) (o sub v : Nat) {op : State → State}
    (hop : ∀ s, s.dram.wf = true → (op s).dram.wf = true) : (s.writeDo path o sub v op).dram.wf = true :=
  State.writeVia_wf hs path o sub v fun s hs => hop s hs

@[simp] theorem State.writeBytes_wf {s : State} (hs : s.dram.wf = true) (path : Path) (o sub : Nat) (d : List Byte) {op : State → State × Nat}
    (hop : ∀ s, s.dram.wf = true → (op s).1.dram.wf = true) : (s.writeBytes path o sub d op).dram.wf = true := by
  unfold State.writeBytes
  split
  · simpa using hs
  · split
    next t c eq =>
      have ht : t.dram.wf = true := by
        split at eq
        · have hr := hop s hs
          rwa [eq] at hr
        · cases eq
          exact hs
      simpa using ht

@[simp] theorem State.writeDevice_wf (s : State) (img : Ram) (b a n : Nat) (hs : s.dram.wf = true) :
    (s.writeDevice img b a n).dram.wf = true :=
  State.writeDevice_keeps (fun s => s.dram.wf = true) (fun s p ce ue hs => by rwa [State.seen_dram])
    (fun s img a b n hs => Ram.wf_copy _ _ _ _ hs) img b a n hs

@[simp] theorem State.meshWrite_wf (s : State) (die : Nat) (img : Ram) (b a n : Nat) (hs : s.dram.wf = true) :
    (s.meshWrite die img b a n).dram.wf = true :=
  State.meshWrite_keeps (fun s => s.dram.wf = true) (fun s img b a n hs => State.writeDevice_wf s img b a n hs) die img b a n hs

@[simp] theorem State.storeBytes_wf (s : State) (die a : Nat) (d : List Byte) (hs : s.dram.wf = true) :
    (s.storeBytes die a d).dram.wf = true := by
  simp +contextual -implicitDefEqProofs [State.storeBytes, hs]

@[simp] theorem State.storeWords_wf (s : State) (die a : Nat) (ws : List CodeWord) (hs : s.dram.wf = true) :
    (s.storeWords die a ws).dram.wf = true := by
  simp +contextual -implicitDefEqProofs [State.storeWords, hs]

@[simp] theorem State.writeRegion_wf (s : State) (die p : Nat) (x : Step) (g : RegionE) (o n : Nat) (img : Ram) (b : Nat)
    (hs : s.dram.wf = true) : (s.writeRegion die p x g o n img b).dram.wf = true := by
  unfold State.writeRegion
  dsimp only
  (repeat' split) <;> simp +contextual -implicitDefEqProofs [hs]

@[simp] theorem State.placeFill_wf (s : State) (f : Fill) (data : List CodeWord) (hs : s.dram.wf = true) :
    (s.placeFill f data).dram.wf = true := by
  unfold State.placeFill
  split
  · simp [hs]
  · split
    · exact hs
    next t frame eq =>
      have ht : t.dram.wf = true := by rwa [State.takeFrame_dram eq]
      simp [ht]

@[simp] theorem State.placeFills_wf (s : State) (p : Nat) (hs : s.dram.wf = true) : (s.placeFills p).dram.wf = true := by
  refine State.forEach_wf _ _ _ (fun s f hs => ?_) hs
  split
  · split
    · exact State.placeFill_wf _ _ _ hs
    · exact hs
  · exact hs

@[simp] theorem State.unpin_wf (s : State) (p : Nat) (x : Step) (hs : s.dram.wf = true) : (s.unpin p x).dram.wf = true := by
  simp +contextual -implicitDefEqProofs [State.unpin, hs]

@[simp] theorem State.leave_wf (s : State) (p : Nat) (x : Step) (r : Record) (hs : s.dram.wf = true) :
    (s.leave p x r).dram.wf = true := by
  simp +contextual -implicitDefEqProofs [State.leave, hs]

@[simp] theorem State.leaveFailed_wf (s : State) (p : Nat) (x : Step) (f : Failure) (hs : s.dram.wf = true) :
    (s.leaveFailed p x f).dram.wf = true := by
  simp +contextual -implicitDefEqProofs [State.leaveFailed, hs]

@[simp] theorem State.finish_wf (s : State) (p : Nat) (x : Step) (hs : s.dram.wf = true) : (s.finish p x).dram.wf = true := by
  unfold State.finish
  dsimp only
  (repeat' split) <;> simp +contextual -implicitDefEqProofs [hs]

@[simp] theorem State.settle_wf (s : State) (p : Nat) (hs : s.dram.wf = true) : (s.settle p).dram.wf = true := by
  unfold State.settle
  dsimp only
  (repeat' split) <;> simp +contextual -implicitDefEqProofs [hs]

@[simp] theorem State.zeroFill_wf (s : State) (a n : Nat) (hs : s.dram.wf = true) : (s.zeroFill a n).dram.wf = true := by
  simp +contextual -implicitDefEqProofs [State.zeroFill, hs]

@[simp] theorem State.initRegion_wf (s : State) (p : Nat) (g : RegionE) (base : Nat) (hs : s.dram.wf = true) :
    (s.initRegion p g base).dram.wf = true := by
  simp +contextual -implicitDefEqProofs [State.initRegion, hs]

@[simp] theorem State.activate_wf (s : State) (k : Nat) (b : List Byte) (i : Image) (hs : s.dram.wf = true) :
    (s.activate k b i).dram.wf = true := by
  unfold State.activate
  rw [State.settleSlot_dram]
  refine State.forEach_wf _ _ _ (fun s e hs => ?_) (by simpa using hs)
  split
  · exact State.initRegion_wf _ _ _ _ hs
  · exact hs

@[simp] theorem State.ringAppend_wf (s : State) (die p w o : Nat) (img : Ram) (b n : Nat) (hs : s.dram.wf = true) :
    (s.ringAppend die p w o img b n).dram.wf = true := by
  simp +contextual -implicitDefEqProofs [State.ringAppend, hs]

@[simp] theorem State.negBody_wf (s : State) (die p w o : Nat) (img : Ram) (b n : Nat) (hs : s.dram.wf = true) :
    (s.negBody die p w o img b n).dram.wf = true := by
  unfold State.negBody
  dsimp only
  (repeat' split) <;> simp +contextual -implicitDefEqProofs [hs]

@[simp] theorem State.stage_wf (s : State) (die p w o : Nat) (img : Ram) (b n : Nat) (hs : s.dram.wf = true) :
    (s.stage die p w o img b n).dram.wf = true := by
  simp +contextual -implicitDefEqProofs [State.stage, hs]

@[simp] theorem State.storeEffect_wf (s : State) (a : Act) (d : Desc) (hs : s.dram.wf = true) :
    (s.storeEffect a d).dram.wf = true := by
  unfold State.storeEffect
  dsimp only
  (repeat' split) <;> simp +contextual -implicitDefEqProofs [hs]

@[simp] theorem State.collStart_wf (s : State) (a : Act) (d : Desc) (coll : Nat) (hs : s.dram.wf = true) :
    (s.collStart a d coll).dram.wf = true := by
  unfold State.collStart
  dsimp only
  (repeat' split) <;> simp +contextual -implicitDefEqProofs [hs]

@[simp] theorem State.ewiseStep_wf (s : State) (p k : Nat) (c : NmuCmd) (i : Nat) (w : Work) (hs : s.dram.wf = true) :
    (s.ewiseStep p k c i w).1.dram.wf = true :=
  State.ewiseStep_keeps (fun x => x.1.dram.wf = true) (fun s w w' hs => hs)
    (fun s p k pc c a w hs => by rwa [State.nmuRead_dram]) (fun s die a d w hs => State.storeBytes_wf _ _ _ _ hs) p k c i w hs

@[simp] theorem State.reduceStep_wf (s : State) (p k : Nat) (c : NmuCmd) (i : Nat) (w : Work) (hs : s.dram.wf = true) :
    (s.reduceStep p k c i w).1.dram.wf = true :=
  State.reduceStep_keeps (fun x => x.1.dram.wf = true) (fun s w w' hs => hs)
    (fun s p k pc c a w hs => by rwa [State.nmuRead_dram]) (fun s die a d w hs => State.storeBytes_wf _ _ _ _ hs) p k c i w hs

@[simp] theorem State.failStarters_wf (s : State) (p key code : Nat) (hs : s.dram.wf = true) :
    (s.failStarters p key code).dram.wf = true := by
  simp +contextual -implicitDefEqProofs [State.failStarters, hs]

@[simp] theorem State.abortInst_wf (s : State) (g q code : Nat) (tell : Bool) (hs : s.dram.wf = true) :
    (s.abortInst g q code tell).dram.wf = true := by
  unfold State.abortInst
  dsimp only
  (repeat' split) <;> simp +contextual -implicitDefEqProofs [hs]

@[simp] theorem State.collDataFault_wf (s : State) (i : Inst) (c a : Nat) (hs : s.dram.wf = true) :
    (s.collDataFault i c a).dram.wf = true := by
  simp +contextual -implicitDefEqProofs [State.collDataFault, hs]

@[simp] theorem State.readWords_wf (s : State) (i : Inst) (c a n : Nat) (hs : s.dram.wf = true) :
    (s.readWords i c a n).1.dram.wf = true := by
  unfold State.readWords
  dsimp only
  (repeat' split) <;> simp +contextual -implicitDefEqProofs [hs]

@[simp] theorem State.readChunk_wf (s : State) (i : Inst) (r c : Nat) (hs : s.dram.wf = true) :
    (s.readChunk i r c).1.dram.wf = true := by
  simp +contextual -implicitDefEqProofs [State.readChunk, hs]

@[simp] theorem State.landSum_wf (s : State) (i : Inst) (c : Nat) (d : List CodeWord) (hs : s.dram.wf = true) :
    (s.landSum i c d).dram.wf = true := by
  simp +contextual -implicitDefEqProofs [State.landSum, hs]

@[simp] theorem State.landData_wf (s : State) (i : Inst) (c j : Nat) (d : List CodeWord) (hs : s.dram.wf = true) :
    (s.landData i c j d).dram.wf = true := by
  simp +contextual -implicitDefEqProofs [State.landData, hs]

@[simp] theorem Post.send_wf (t : Post) (m : CollMsg) (payload : List CodeWord) (hs : t.1.dram.wf = true) :
    (Post.send t m payload).1.dram.wf = true := by
  simp +contextual -implicitDefEqProofs [Post.send, hs]

@[simp] theorem Post.map_wf (t : Post) (f : State → State) (hs : t.1.dram.wf = true) (hf : ∀ s, s.dram.wf = true →
    (f s).dram.wf = true) : (Post.map t f).1.dram.wf = true := by
  simp +contextual -implicitDefEqProofs [Post.map, hs, hf]

@[simp] theorem Post.about_wf (t : Post) (kind : Nat) (i : Inst) (dst c first span round : Nat) (payload : List CodeWord)
    (hs : t.1.dram.wf = true) : (Post.about t kind i dst c first span round payload).1.dram.wf = true := by
  simp +contextual -implicitDefEqProofs [Post.about, hs]

@[simp] theorem Post.up_wf (t : Post) (kind rootKind : Nat) (i : Inst) (c first span round : Nat) (payload : List CodeWord)
    (hs : t.1.dram.wf = true) : (Post.up t kind rootKind i c first span round payload).1.dram.wf = true := by
  unfold Post.up
  (repeat' split) <;> simp +contextual -implicitDefEqProofs [hs]

@[simp] theorem Post.down_wf (t : Post) (kind : Nat) (i : Inst) (c first span round : Nat) (payload : List CodeWord)
    (hs : t.1.dram.wf = true) : (Post.down t kind i c first span round payload).1.dram.wf = true := by
  simp +contextual -implicitDefEqProofs [Post.down, hs]

@[simp] theorem State.issueReduce_wf (s : State) (i : Inst) (c round first h : Nat) (hs : s.dram.wf = true) :
    (s.issueReduce i c round first h).dram.wf = true := by
  simp +contextual -implicitDefEqProofs [State.issueReduce, hs]

@[simp] theorem Post.start_wf (t : Post) (g q c : Nat) (hs : t.1.dram.wf = true) : (Post.start t g q c).1.dram.wf = true := by
  unfold Post.start
  split
  · exact hs
  next i _ =>
    extract_lets -lift s e k open_
    split
    · exact hs
    · split
      · split
        · exact hs
        next p h _ =>
          split
          · exact Post.map_wf _ _ hs fun s hs => State.issueReduce_wf _ _ _ _ _ _ hs
          · have hr := State.readChunk_wf s i p c hs
            split
            next u d eq =>
              rw [eq] at hr
              split
              · exact hr
              · exact Post.up_wf _ _ _ _ _ _ _ _ _ (by simpa using hr)
      next u _ _ =>
        have hu : u.1.dram.wf = true := by
          refine foldl_fst_wf t _ _ (fun t r ht => ?_) hs
          have hr := State.readChunk_wf t.1 i r c ht
          split
          next v d eq =>
            rw [eq] at hr
            split
            · exact hr
            · exact foldl_fst_wf (_, t.2) _ _ (fun t m ht => Post.about_wf _ _ _ _ _ _ _ _ _ ht) (by simpa using hr)
        exact Post.map_wf _ _ hu fun s hs => by simpa using hs

@[simp] theorem Post.onData_wf (t : Post) (i : Inst) (m : CollMsg) (ws : List CodeWord) (hs : t.1.dram.wf = true) :
    (Post.onData t i m ws).1.dram.wf = true := by
  unfold Post.onData
  dsimp only
  (repeat' split) <;> simp +contextual -implicitDefEqProofs [hs]

@[simp] theorem Post.clean_wf (t : Post) (g q c : Nat) (hs : t.1.dram.wf = true) : (Post.clean t g q c).1.dram.wf = true := by
  unfold Post.clean
  split
  · exact hs
  next i _ =>
    extract_lets -lift k
    split
    · exact hs
    next due leaf u _ =>
      exact foldl_fst_wf _ _ _ (fun t n ht => Post.up_wf _ _ _ _ _ _ _ _ _ ht) (Post.map_wf _ _ hs fun s hs => by simpa using hs)

@[simp] theorem Post.onResult_wf (t : Post) (i : Inst) (m : CollMsg) (d : List CodeWord) (hs : t.1.dram.wf = true) :
    (Post.onResult t i m d).1.dram.wf = true := by
  unfold Post.onResult
  extract_lets -lift c r k
  split
  · exact Post.map_wf _ _ hs fun s hs => by simp [hs]
  · split
    · exact hs
    next u _ _ _ =>
      have hu : u.1.dram.wf = true := by
        simp only [u]
        split
        · exact Post.map_wf _ _ hs fun s hs => by simp [hs]
        · exact hs
      exact Post.clean_wf _ _ _ _ (Post.map_wf _ _ (Post.down_wf _ _ _ _ _ _ _ _ hu) fun s hs => by simpa using hs)

@[simp] theorem Post.onClean_wf (t : Post) (i : Inst) (m : CollMsg) (hs : t.1.dram.wf = true) :
    (Post.onClean t i m).1.dram.wf = true := by
  unfold Post.onClean
  dsimp only
  (repeat' split) <;> simp +contextual -implicitDefEqProofs [hs]

@[simp] theorem Post.onFix_wf (t : Post) (i : Inst) (m : CollMsg) (hs : t.1.dram.wf = true) :
    (Post.onFix t i m).1.dram.wf = true := by
  simp +contextual -implicitDefEqProofs [Post.onFix, hs]

@[simp] theorem State.rollBack_wf (s : State) (i : Inst) (hs : s.dram.wf = true) : (s.rollBack i).dram.wf = true := by
  unfold State.rollBack
  dsimp only
  (repeat' split) <;> simp +contextual -implicitDefEqProofs [hs]

@[simp] theorem Post.recallHere_wf (t : Post) (i : Inst) (c r : Nat) (hs : t.1.dram.wf = true) :
    (Post.recallHere t i c r).1.dram.wf = true := by
  unfold Post.recallHere
  extract_lets -lift k
  split
  · exact hs
  · split
    · exact Post.map_wf _ _ hs fun s hs => State.abortInst_wf _ _ _ _ _ hs
    next u _ _ =>
      exact Post.start_wf _ _ _ _ (Post.map_wf _ _ hs fun s hs => State.rollBack_wf _ _ (by simpa using hs))

@[simp] theorem Post.onRecall_wf (t : Post) (i : Inst) (m : CollMsg) (hs : t.1.dram.wf = true) :
    (Post.onRecall t i m).1.dram.wf = true := by
  unfold Post.onRecall
  extract_lets -lift c r n k
  split
  next u _ =>
    exact Post.recallHere_wf _ _ _ _ (Post.down_wf _ _ _ _ _ _ _ _ (Post.map_wf _ _ hs fun s hs => by simpa using hs))
  · split
    · exact Post.recallHere_wf _ _ _ _ (Post.down_wf _ _ _ _ _ _ _ _ hs)
    · exact hs

@[simp] theorem Post.failedVerdict_wf (t : Post) (i : Inst) (c first span round : Nat) (hs : t.1.dram.wf = true) :
    (Post.failedVerdict t i c first span round).1.dram.wf = true := by
  simp +contextual -implicitDefEqProofs [Post.failedVerdict, hs]

@[simp] theorem Post.handle_wf (t : Post) (m : CollMsg) (d : List CodeWord) (hs : t.1.dram.wf = true) :
    (Post.handle t m d).1.dram.wf = true := by
  unfold Post.handle
  (repeat' split) <;> simp +contextual -implicitDefEqProofs [hs]

@[simp] theorem Post.drain_wf (fuel : Nat) (t : Post) (hs : t.1.dram.wf = true) : (Post.drain fuel t).dram.wf = true := by
  induction fuel generalizing t with
  | zero => exact hs
  | succ fuel ih =>
    unfold Post.drain
    split
    · exact hs
    · exact ih _ (Post.handle_wf _ _ _ hs)

@[simp] theorem Post.run_wf (t : Post) (g q : Nat) (hs : t.1.dram.wf = true) : (t.run g q).dram.wf = true := by
  unfold Post.run
  extract_lets -lift s
  have hd : s.dram.wf = true := by simp [s, hs]
  split
  · simp [hd]
  · exact hd

@[simp] theorem State.startReady_wf (s : State) (g q : Nat) (hs : s.dram.wf = true) : (s.startReady g q).dram.wf = true := by
  unfold State.startReady
  split
  · exact hs
  next i _ =>
    extract_lets -lift new t all u
    have ht : t.dram.wf = true := by simp [t, hs]
    have hu : u.dram.wf = true := by simp [u, ht]
    exact Post.run_wf _ _ _ (foldl_fst_wf (u, []) _ _ (fun t c h => Post.start_wf _ _ _ _ h) hu)

@[simp] theorem State.localDone_wf (s : State) (g q c round status : Nat) (hs : s.dram.wf = true) :
    (s.localDone g q c round status).dram.wf = true := by
  unfold State.localDone
  split
  · exact hs
  next i _ =>
    extract_lets -lift k
    split
    · exact hs
    next p h _ =>
      split
      · exact hs
      · split
        · exact hs
        · split
          · exact State.abortInst_wf _ _ _ _ _ hs
          · split
            · exact hs
            · split
              · exact Post.run_wf _ _ _ (Post.failedVerdict_wf _ _ _ _ _ _ hs)
              · split
                · exact hs
                · split
                  next off len _ =>
                    have hr := State.readWords_wf s i c (s.resultBase i + off) len hs
                    split
                    next t eq => rwa [eq] at hr
                    next t ws eq =>
                      rw [eq] at hr
                      extract_lets -lift u
                      exact Post.run_wf _ _ _ (Post.up_wf _ _ _ _ _ _ _ _ _ (by simpa [u] using hr))

@[simp] theorem State.retryReduces_wf (s : State) (p : Nat) (hs : s.dram.wf = true) : (s.retryReduces p).dram.wf = true :=
  State.forEach_wf _ _ _ (fun s k hs => Post.run_wf _ _ _ (foldl_fst_wf (s, []) _ _ (fun t c h => Post.start_wf _ _ _ _ h) hs)) hs

@[simp] theorem State.checkPayload_wf (s : State) (i : Inst) (m : CollMsg) (ws : List CodeWord) (hs : s.dram.wf = true) :
    (s.checkPayload i m ws).1.dram.wf = true := by
  simp +contextual -implicitDefEqProofs [State.checkPayload, hs]

@[simp] theorem State.deliver_wf (s : State) (i : Inst) (m : CollMsg) (ws : List CodeWord) (hs : s.dram.wf = true) :
    (s.deliver i m ws).1.dram.wf = true := by
  unfold State.deliver
  extract_lets -lift c k mark
  split
  · simpa using hs
  · split
    · simpa using hs
    · split
      · simpa using hs
      · have hp := State.checkPayload_wf s i m ws hs
        split
        next t eq => rwa [eq] at hp
        next t eq =>
          rw [eq] at hp
          extract_lets -lift u
          exact Post.run_wf _ _ _ (Post.handle_wf _ _ _ (by simpa [u] using hp))

@[simp] theorem State.takeMsg_wf (s : State) (m : CollMsg) (ws : List CodeWord) (hs : s.dram.wf = true) :
    (s.takeMsg m ws).1.dram.wf = true := by
  unfold State.takeMsg
  dsimp only
  (repeat' split) <;> simp +contextual -implicitDefEqProofs [hs]

@[simp] theorem State.onCack_wf (s : State) (m : CollMsg) (hs : s.dram.wf = true) : (s.onCack m).dram.wf = true := by
  unfold State.onCack
  dsimp only
  (repeat' split) <;> simp +contextual -implicitDefEqProofs [hs]

@[simp] theorem State.onReply_wf (s : State) (m : CollMsg) (hs : s.dram.wf = true) : (s.onReply m).dram.wf = true := by
  unfold State.onReply
  split
  · exact hs
  next i _ =>
    split
    · exact hs
    · split
      · exact State.abortInst_wf _ _ _ _ _ hs
      · extract_lets -lift jg jq about
        split
        · exact hs
        · split
          · exact hs
          next t j eq =>
            have ht : t.dram.wf = true := by rw [← State.instFor_dram s about false, eq] at hs; exact hs
            split
            · exact hs
            · exact State.abortInst_wf _ _ _ _ _ (State.abortInst_wf _ _ _ _ _ ht)

@[simp] theorem State.onAbort_wf (s : State) (m : CollMsg) (hs : s.dram.wf = true) : (s.onAbort m).dram.wf = true := by
  unfold State.onAbort
  dsimp only
  (repeat' split) <;> simp +contextual -implicitDefEqProofs [hs]

@[simp] theorem State.agreed_wf (s : State) (m : CollMsg) (f : State → CollMsg → State) (hs : s.dram.wf = true)
    (hf : ∀ s m, s.dram.wf = true → (f s m).dram.wf = true) : (s.agreed m f).dram.wf = true := by
  unfold State.agreed
  (repeat' split) <;> simp +contextual -implicitDefEqProofs [hs, hf]

@[simp] theorem State.once_wf (s : State) (m : CollMsg) (f : State → CollMsg → State) (hs : s.dram.wf = true)
    (hf : ∀ s m, s.dram.wf = true → (f s m).dram.wf = true) : (s.once m f).dram.wf = true := by
  simp +contextual -implicitDefEqProofs [State.once, hs, hf]

@[simp] theorem State.receiveMsg_wf (s : State) (m : CollMsg) (ws : List CodeWord) (hs : s.dram.wf = true) :
    (s.receiveMsg m ws).dram.wf = true := by
  unfold State.receiveMsg
  dsimp only
  (repeat' split) <;> simp +contextual -implicitDefEqProofs [hs]

@[simp] theorem State.ofKind_wf (s : State) (kind : Nat) (m : CollMsg) (ws : List CodeWord) (hs : s.dram.wf = true) :
    (s.ofKind kind m ws).dram.wf = true := by
  simp +contextual -implicitDefEqProofs [State.ofKind, hs]

@[simp] theorem State.resend_wf (s : State) (idx : Nat) (hs : s.dram.wf = true) : (s.resend idx).dram.wf = true := by
  unfold State.resend
  dsimp only
  (repeat' split) <;> simp +contextual -implicitDefEqProofs [hs]

@[simp] theorem State.nodeVerdict_wf (s : State) (g q c first span : Nat) (clean : Bool) (hs : s.dram.wf = true) :
    (s.nodeVerdict g q c first span clean).dram.wf = true := by
  unfold State.nodeVerdict
  dsimp only
  (repeat' split) <;> simp +contextual -implicitDefEqProofs [hs]

@[simp] theorem State.fabricLeaves_wf (s : State) (n : Nat) (hs : s.dram.wf = true) : (s.fabricLeaves n).dram.wf = true := by
  unfold State.fabricLeaves
  split
  · exact hs
  · refine State.forEach_wf _ _ _ (fun s x hs => ?_) (by simpa using hs)
    split
    · exact State.resend_wf _ _ hs
    · exact hs

@[simp] theorem State.doWork_wf (s : State) (w : HeldWork) (hs : s.dram.wf = true) : (s.doWork w).dram.wf = true := by
  cases w <;> simp [State.doWork, hs]

@[simp] theorem State.releaseStop_wf (s : State) (p : Nat) (hs : s.dram.wf = true) : (s.releaseStop p).dram.wf = true := by
  unfold State.releaseStop
  extract_lets -lift s1 wake s2 ofP mine _ s3 s4 work _ s5
  have h1 : s1.dram.wf = true := by simpa [s1] using hs
  have h2 : s2.dram.wf = true := by simpa [s2] using h1
  have h3 : s3.dram.wf = true := by simpa only [s3] using h2
  have h4 : s4.dram.wf = true := by
    simp only [s4]
    refine State.forEach_wf _ _ _ (fun s e hs => ?_) h3
    split
    · exact State.deliver_wf _ _ _ _ hs
    · exact hs
  have h5 : s5.dram.wf = true := by
    simp only [s5]
    refine State.forEach_wf _ _ _ (fun s w hs => State.doWork_wf _ _ hs) ?_
    dsimp only
    exact h4
  exact State.forEach_wf _ _ _ (fun s k hs => State.startReady_wf _ _ _ hs) h5

@[simp] theorem State.failStop_wf (s : State) (p : Nat) (hs : s.dram.wf = true) : (s.failStop p).dram.wf = true := by
  simp +contextual -implicitDefEqProofs [State.failStop, hs]

@[simp] theorem State.migrateRow_wf (s : State) (k c l : Nat) (hs : s.dram.wf = true) : (s.migrateRow k c l).dram.wf = true := by
  unfold State.migrateRow
  split
  split
  · exact hs
  · extract_lets -lift a
    split
    exact Ram.wf_copy _ _ _ _ (by rwa [State.seen_dram])

@[simp] theorem State.hostStore_wf (s : State) (ps : List (Nat × Nat × Nat)) (d : List Byte) (hs : s.dram.wf = true) :
    (s.hostStore ps d).dram.wf = true := by
  simp +contextual -implicitDefEqProofs [State.hostStore, hs]

@[simp] theorem State.codecStore_wf (s : State) (p d a : Nat) (b : List Byte) (hi : Nat) (hs : s.dram.wf = true) :
    (s.codecStore p d a b hi).1.dram.wf = true := by
  simp +contextual -implicitDefEqProofs [State.codecStore, hs]

@[simp] theorem State.storePlane_wf (s : State) (p d k : Nat) (t : PicDesc) (row : Nat → List (Nat × List Byte))
    (hs : s.dram.wf = true) : (s.storePlane p d k t row).1.dram.wf = true := by
  refine foldl_keeps (fun x : State × Nat => x.1.dram.wf = true) (fun x hx i => ?_) _ hs
  refine foldl_keeps (fun x : State × Nat => x.1.dram.wf = true) (fun x hx e => ?_) _ hx
  exact State.codecStore_wf _ _ _ _ _ _ hx

@[simp] theorem State.keepRecon_wf (s : State) (c w h : Nat) (ra : Bool) (enc : Nat) (hs : s.dram.wf = true) :
    (s.keepRecon c w h ra enc).dram.wf = true := by
  unfold State.keepRecon
  extract_lets -lift o size n b a
  rw [State.modChannel_dram, State.codecMoved_dram]
  exact State.meshWrite_wf _ _ _ _ _ _ hs

@[simp] theorem State.encodeJob_wf (s : State) (c : Nat) (j : Job) (error : Bool) (hs : s.dram.wf = true) :
    (s.encodeJob c j error).dram.wf = true := by
  unfold State.encodeJob
  extract_lets -lift o p w t
  have ht : t.dram.wf = true := by simp [t, hs]
  split
  · simpa using hs
  · split
    · simpa using ht
    next pic _ =>
      split
      next u rows bad load =>
        have hu : u.dram.wf = true := by rw [← State.loadPicture_dram t, load] at ht; exact ht
        split
        · simpa using hu
        · split
          next ow oh _ =>
            extract_lets -lift src mode1 v plan ty refs
            split
            next r windows bad search =>
              have hr : r.dram.wf = true := by rw [← State.searchRefs_dram u, search] at hu; exact hu
              split
              · simpa using hr
              · extract_lets -lift enc head n b
                split
                next x _ _ _ _ _ =>
                have hx : x.dram.wf = true := by rw [State.codecMoved_dram]; exact State.stage_wf _ _ _ _ _ _ _ _ hr
                rw [State.modJob_dram]
                exact State.keepRecon_wf _ _ _ _ _ _ (by rwa [State.modChannel_dram])

@[simp] theorem State.storePicture_wf (s : State) (c dec : Nat) (t : PicDesc) (u : Nat) (lost : Nat → Bool)
    (hs : s.dram.wf = true) : (s.storePicture c dec t u lost).1.dram.wf = true := by
  simp +contextual -implicitDefEqProofs [State.storePicture, hs]

@[simp] theorem State.finishPicture_wf (s : State) (c : Nat) (j : Job) (reached : Option Nat) (hs : s.dram.wf = true) :
    (s.finishPicture c j reached).dram.wf = true := by
  unfold State.finishPicture
  dsimp only
  (repeat' split) <;> simp +contextual -implicitDefEqProofs [hs]

@[simp] theorem State.finished_wf (s : State) (c : Nat) (hs : s.dram.wf = true) : (s.finished c).dram.wf = true := by
  unfold State.finished
  (repeat' split) <;> simp +contextual -implicitDefEqProofs [hs]

@[simp] theorem State.cleared_wf (s : State) (c : ResetClass) (hs : s.dram.wf = true) : (s.cleared c).dram.wf = true := by
  simp +contextual -implicitDefEqProofs [State.cleared, hs]

@[simp] theorem State.warmReset_wf (s : State) (cause : Nat) (hs : s.dram.wf = true) : (s.warmReset cause).dram.wf = true := by
  simp +contextual -implicitDefEqProofs [State.warmReset, hs]

@[simp] theorem State.coldReset_wf (s : State) (cause : Nat) (hs : s.dram.wf = true) : (s.coldReset cause).dram.wf = true := by
  simp +contextual -implicitDefEqProofs [State.coldReset, hs]

@[simp] theorem State.toSleep_wf (s : State) (hs : s.dram.wf = true) : (s.toSleep).dram.wf = true := by
  simp +contextual -implicitDefEqProofs [State.toSleep, hs]

@[simp] theorem State.wake_wf (s : State) (hs : s.dram.wf = true) : (s.wake).dram.wf = true := by
  simp +contextual -implicitDefEqProofs [State.wake, hs]

@[simp] theorem State.comparator_wf (s : State) (k : Nat) (hs : s.dram.wf = true) : (s.comparator k).dram.wf = true := by
  simp +contextual -implicitDefEqProofs [State.comparator, hs]

@[simp] theorem State.dropStep_wf (s : State) (p : Nat) (x : Step) (hs : s.dram.wf = true) : (s.dropStep p x).dram.wf = true := by
  simp +contextual -implicitDefEqProofs [State.dropStep, hs]

@[simp] theorem State.stopWork_wf (s : State) (hs : s.dram.wf = true) : (s.stopWork).dram.wf = true := by
  unfold State.stopWork
  refine State.forEach_wf _ _ _ (fun s k hs => by simpa using hs) (State.forEach_wf _ _ _ (fun s p hs => ?_) (by simpa using hs))
  exact State.forEach_wf _ _ _ (fun s x hs => State.dropStep_wf _ _ _ hs) (by simpa using hs)

@[simp] theorem State.writeLifecycle_wf (s : State) (path : Path) (v : Nat) (hs : s.dram.wf = true) :
    (s.writeLifecycle path v).dram.wf = true := by
  unfold State.writeLifecycle
  dsimp only
  (repeat' split) <;> simp +contextual -implicitDefEqProofs [hs]

theorem State.writeEnable_dram {s : State} {o sub v : Nat} {r : State × Nat} (h : s.writeEnable o sub v = some r) :
    r.1.dram = s.dram := by
  unfold State.writeEnable at h
  (repeat' split at h) <;> cases h <;> simp

theorem State.writeCommand_wf {s : State} {o sub v : Nat} {r : State × Nat} (h : s.writeCommand o sub v = some r)
    (hs : s.dram.wf = true) : r.1.dram.wf = true := by
  unfold State.writeCommand at h
  extract_lets -lift one at h
  have hone : ∀ t : State, t.dram.wf = true → (one t).1.dram.wf = true := by
    intro t ht
    simp only [one]
    split
    · exact hs
    · exact ht
  split at h
  · cases h
  · split at h
    · cases h
    · cases h
      (repeat' split) <;> simp [hs, hone]

@[simp] theorem State.applyNum_wf (s : State) (p : Path) (o sub v : Nat) (hs : s.dram.wf = true) :
    (s.applyNum p o sub v).1.dram.wf = true := by
  unfold State.applyNum
  split
  next r eq => rwa [State.writeEnable_dram eq]
  · split
    next r eq => exact State.writeCommand_wf eq hs
    · simpa using hs

@[simp] theorem State.writeNumber_wf (s : State) (p : Path) (o sub v : Nat) (hs : s.dram.wf = true) :
    (s.writeNumber p o sub v).dram.wf = true := by
  unfold State.writeNumber
  split
  · exact State.writeLifecycle_wf _ _ _ hs
  · split
    · refine State.writeReset_wf hs _ _ _ _ _ fun t ht => ?_
      split
      · exact State.warmReset_wf _ _ ht
      · split
        · exact State.coldReset_wf _ _ ht
        · exact State.toSleep_wf _ ht
    · exact State.writeVia_wf hs _ _ _ _ fun t ht => State.applyNum_wf _ _ _ _ _ ht

@[simp] theorem State.writeAt_wf (s : State) (p : Path) (o sub piece : Nat) (d : List Byte) (hs : s.dram.wf = true) :
    (s.writeAt p o sub piece d).dram.wf = true := by
  unfold State.writeAt
  (repeat' split) <;> simp +contextual -implicitDefEqProofs [hs]

@[simp] theorem State.writeValue_wf (s : State) (path : Path) (o k : Nat) (data : List Byte) (hs : s.dram.wf = true) :
    (s.writeValue path o k data).dram.wf = true := by
  simp +contextual -implicitDefEqProofs [State.writeValue, hs]

@[simp] theorem State.window_wf (s : State) (ctrl : Nat) (hs : s.dram.wf = true) : (s.window ctrl).dram.wf = true := by
  simp +contextual -implicitDefEqProofs [State.window, hs]

@[simp] theorem State.loseDie_wf (s : State) (d : Nat) (hs : s.dram.wf = true) : (s.loseDie d).dram.wf = true := by
  unfold State.loseDie
  split
  · exact hs
  · extract_lets -lift s1 cond s2 s3 s4
    have h2 : s2.dram.wf = true := by simp only [s2, s1]; split <;> simpa using hs
    have h3 : s3.dram.wf = true := by
      simp only [s3]
      split
      · refine State.forEach_wf _ _ _ (fun t n ht => ?_) h2
        split
        · simpa using ht
        · exact State.fabricLeaves_wf _ _ ht
      · exact h2
    split <;> simpa [s4] using h3

@[simp] theorem State.loseMessage_wf (s : State) (t : TxHeader) (ws : List CodeWord) (hs : s.dram.wf = true) :
    (s.loseMessage t ws).dram.wf = true := by
  simp +contextual -implicitDefEqProofs [State.loseMessage, hs]

@[simp] theorem State.arrive_wf (s : State) (b port : Nat) (t : TxHeader) (ws : List CodeWord) (hs : s.dram.wf = true) :
    (s.arrive b port t ws).dram.wf = true := by
  unfold State.arrive
  dsimp only
  (repeat' split) <;> simp +contextual -implicitDefEqProofs [hs]

@[simp] theorem State.rehome_wf (s : State) (hs : s.dram.wf = true) : (s.rehome).dram.wf = true := by
  simp +contextual -implicitDefEqProofs [State.rehome, hs]

@[simp] theorem State.sendAgain_wf (s : State) (d : Nat) (lost : List HeldPacket) (hs : s.dram.wf = true) :
    (s.sendAgain d lost).dram.wf = true := by
  refine State.forEach_wf _ _ _ (fun s x hs => ?_) hs
  split
  · exact State.arrive_wf _ _ _ _ _ hs
  · split
    · simpa using hs
    · exact hs

@[simp] theorem State.received_wf (s : State) (d port : Nat) (t : TxHeader) (ws : List CodeWord) (hs : s.dram.wf = true) :
    (s.received d port t ws).dram.wf = true := by
  simp +contextual -implicitDefEqProofs [State.received, hs]

@[simp] theorem State.afterLeave_wf (s : State) (d port : Nat) (hs : s.dram.wf = true) : (s.afterLeave d port).dram.wf = true := by
  simp +contextual -implicitDefEqProofs [State.afterLeave, hs]

@[simp] theorem State.portLeaves_wf (s : State) (d port : Nat) (hs : s.dram.wf = true) : (s.portLeaves d port).dram.wf = true := by
  unfold State.portLeaves
  split
  · exact hs
  · extract_lets -lift far mine theirs _ s1 _ s2 e ps s3
    have h2 : s2.dram.wf = true := by simpa [s2, s1] using hs
    have h3 : s3.dram.wf = true := by simp only [s3]; split <;> simpa using h2
    exact State.rehome_wf _ (State.sendAgain_wf _ _ _ (State.sendAgain_wf _ _ _ (State.afterLeave_wf _ _ _ h3)))

@[simp] theorem State.takeControl_wf (s : State) (d n : Nat) (h : LinkHeader) (ts : List TxHeader) (hs : s.dram.wf = true) :
    (s.takeControl d n h ts).dram.wf = true := by
  simp +contextual -implicitDefEqProofs [State.takeControl, hs]

@[simp] theorem State.runAccess_wf (s : State) (x : HeldAccess) (hs : s.dram.wf = true) : (s.runAccess x).dram.wf = true := by
  cases x <;> simp [State.runAccess, hs]

@[simp] theorem State.serveHeld_wf (s : State) (hs : s.dram.wf = true) : (s.serveHeld).dram.wf = true := by
  simp +contextual -implicitDefEqProofs [State.serveHeld, hs]

@[simp] theorem State.takeOffice_wf (s : State) (d t : Nat) (hs : s.dram.wf = true) : (s.takeOffice d t).dram.wf = true := by
  simp +contextual -implicitDefEqProofs [State.takeOffice, hs]

end Sys2Proof.Machine
end

section
/-! SUPPORT. Every command keeps the canonical form of the stacks' memory. -/

namespace Sys2Proof.Machine

/-- The next state, where there is one, has its memory in canonical form. -/
def Canonical (o : Host.Outcome State Fault Refusal) : Prop := ∀ t, o = .next t → t.dram.wf = true

@[simp] theorem canonical_next (t : State) : Canonical (.next t) ↔ t.dram.wf = true := by
  constructor
  · exact fun h => h t rfl
  · rintro h _ ⟨⟩
    exact h

@[simp] theorem Meaning.control_effect (occ : Nat) (s : State) : (Meaning.control occ).effect s = s := rfl

@[simp] theorem State.arith_effect (s : State) (a : Act) (i : Engine) (ok : Bool) (f : State → State) : (s.arith a i ok f).effect = f := rfl

theorem State.issueCommit_wf {s : State} (hs : s.dram.wf = true) (a : Act) (i : Engine) (m : Meaning) (tok : Nat)
    (hm : ∀ s : State, s.dram.wf = true → (m.effect s).dram.wf = true) : (s.issueCommit a i m tok).dram.wf = true := by
  simp +contextual [State.issueCommit, hm, hs]

/-- An instruction that issues changes the stacks' memory by its effect alone. -/
theorem State.issue_wf {s : State} (hs : s.dram.wf = true) (c u : Nat) (i : Engine) (m : State → Act → Meaning)
    (hm : ∀ s a t, t.dram.wf = true → ((m s a).effect t).dram.wf = true) : (s.issue c u i m).dram.wf = true := by
  unfold State.issue
  dsimp only
  (repeat' split) <;> try simp [hs]
  all_goals exact State.issueCommit_wf (by simp [hs]) _ _ _ _ (hm _ _)

theorem State.startCmd_wf {s : State} (hs : s.dram.wf = true) (k p kind : Nat) (work : State → NmuCmd → State × Work)
    (hw : ∀ s c, s.dram.wf = true → (work s c).1.dram.wf = true) : (s.startCmd k p kind work).dram.wf = true := by
  unfold State.startCmd
  split
  · exact hs
  next n c _ =>
    split
    · exact hs
    · have hr := hw (s.traceCmd p k 0x10 c.tag c.kind) c (by simpa using hs)
      simpa using hr

theorem State.startGranules_wf (step : State → Nat → Nat → NmuCmd → Nat → Work → State × Work)
    (hstep : ∀ s p k c i w, s.dram.wf = true → (step s p k c i w).1.dram.wf = true) {s : State} (hs : s.dram.wf = true) (p k kind : Nat) :
    (s.startCmd k p kind fun s c => s.eachGranule c.n fun s i w => step s p k c i w).dram.wf = true :=
  State.startCmd_wf hs _ _ _ _ fun s _ hs => foldl_fst_wf (s, _) _ _ (fun _ _ ht => hstep _ _ _ _ _ _ ht) hs

theorem State.migrateRows_wf {s : State} (hs : s.dram.wf = true) (k : Nat) (cs rows : List Nat) :
    (s.forEach cs fun s c => s.forEach rows fun s l => s.migrateRow k c l).dram.wf = true :=
  State.forEach_wf _ _ _ (fun _ _ hs => State.forEach_wf _ _ _ (fun _ _ hs => State.migrateRow_wf _ _ _ _ hs) hs) hs

theorem Ram.wf_scrub {r : Ram} (hr : r.wf = true) (l : List Nat) : (l.foldl Ram.scrubWord r).wf = true :=
  Ram.wf_foldl _ (fun _ _ hr => Ram.wf_storeCode _ _ hr) _ hr

theorem execMma_canonical (c : CoreId) (h : Header) (f : MmaFields) (s : State) (hs : s.dram.wf = true) :
    Canonical (execMma c h f s) := by
  simp [execMma, hs]

theorem execMmab_canonical (c : CoreId) (h : Header) (f : MmabFields) (s : State) (hs : s.dram.wf = true) :
    Canonical (execMmab c h f s) := by
  simp [execMmab, hs]

theorem execMmf_canonical (c : CoreId) (h : Header) (f : MmfFields) (s : State) (hs : s.dram.wf = true) :
    Canonical (execMmf c h f s) := by
  simp [execMmf, hs]

theorem execStepStart_canonical (p : BitVec 4) (s : State) (hs : s.dram.wf = true) : Canonical (execStepStart p s) := by
  unfold execStepStart
  dsimp only
  (repeat' split) <;> simp +contextual -implicitDefEqProofs [hs]

theorem execBackfillStart_canonical (p : BitVec 4) (s : State) (hs : s.dram.wf = true) : Canonical (execBackfillStart p s) := by
  unfold execBackfillStart
  dsimp only
  (repeat' split) <;> simp +contextual -implicitDefEqProofs [hs]

theorem execBarrierArrival_canonical (c : CoreId) (s : State) (hs : s.dram.wf = true) : Canonical (execBarrierArrival c s) := by
  unfold execBarrierArrival
  dsimp only
  (repeat' split) <;> simp +contextual -implicitDefEqProofs [hs]

theorem execYieldRelease_canonical (c : CoreId) (ac : Nat) (s : State) (hs : s.dram.wf = true) :
    Canonical (execYieldRelease c ac s) := by
  unfold execYieldRelease
  dsimp only
  (repeat' split) <;> simp +contextual -implicitDefEqProofs [hs]

theorem execStepResume_canonical (p : BitVec 4) (s : State) (hs : s.dram.wf = true) : Canonical (execStepResume p s) := by
  unfold execStepResume
  dsimp only
  (repeat' split) <;> simp +contextual -implicitDefEqProofs [hs]

theorem execStepReplay_canonical (p : BitVec 4) (s : State) (hs : s.dram.wf = true) : Canonical (execStepReplay p s) := by
  unfold execStepReplay
  dsimp only
  (repeat' split) <;> simp +contextual -implicitDefEqProofs [hs]

theorem execCompletionRecord_canonical (n : BitVec 12) (s : State) (hs : s.dram.wf = true) :
    Canonical (execCompletionRecord n s) := by
  unfold execCompletionRecord
  dsimp only
  (repeat' split) <;> simp +contextual -implicitDefEqProofs [hs]

theorem execInstructionComplete_canonical (c : CoreId) (u : UnitId) (s : State) (hs : s.dram.wf = true) :
    Canonical (execInstructionComplete c u s) := by
  unfold execInstructionComplete
  (repeat' split) <;> simp +contextual -implicitDefEqProofs [hs]

theorem execTransferComplete_canonical (c : CoreId) (u : UnitId) (ac : Nat) (s : State) (hs : s.dram.wf = true) :
    Canonical (execTransferComplete c u ac s) := by
  unfold execTransferComplete
  (repeat' split) <;> simp +contextual -implicitDefEqProofs [hs]

theorem execRemoteTokenSignal_canonical (k : ClusterId) (s : State) (hs : s.dram.wf = true) :
    Canonical (execRemoteTokenSignal k s) := by
  unfold execRemoteTokenSignal
  dsimp only
  (repeat' split) <;> simp +contextual -implicitDefEqProofs [hs]

theorem execLandingSignal_canonical (k : ClusterId) (counter : BitVec 4) (ac : Nat) (s : State) (hs : s.dram.wf = true) :
    Canonical (execLandingSignal k counter ac s) := by
  unfold execLandingSignal
  dsimp only
  (repeat' split) <;> simp +contextual -implicitDefEqProofs [hs]

theorem execImageLoadComplete_canonical (slot : BitVec 6) (bytes : List Byte) (s : State) (hs : s.dram.wf = true) :
    Canonical (execImageLoadComplete slot bytes s) := by
  unfold execImageLoadComplete
  dsimp only
  (repeat' split) <;> simp +contextual -implicitDefEqProofs [hs]

theorem execSlotEnable_canonical (path : Path) (slot : BitVec 6) (s : State) (hs : s.dram.wf = true) :
    Canonical (execSlotEnable path slot s) := by
  simp +contextual -implicitDefEqProofs [execSlotEnable, hs]

theorem execSlotDisable_canonical (path : Path) (slot : BitVec 6) (s : State) (hs : s.dram.wf = true) :
    Canonical (execSlotDisable path slot s) := by
  simp +contextual -implicitDefEqProofs [execSlotDisable, hs]

theorem execLd_canonical (c : CoreId) (h : Header) (desc : BitVec 12) (s : State) (hs : s.dram.wf = true) :
    Canonical (execLd c h desc s) := by
  simp +contextual -implicitDefEqProofs [execLd, hs]

theorem execSt_canonical (c : CoreId) (h : Header) (desc : BitVec 12) (s : State) (hs : s.dram.wf = true) :
    Canonical (execSt c h desc s) := by
  rw [execSt, canonical_next]
  exact State.issue_wf hs _ _ _ _ fun s a t ht => State.storeEffect_wf _ _ _ ht

theorem execHalo_canonical (c : CoreId) (outbound : Bool) (h : Header) (f : HaloFields) (s : State) (hs : s.dram.wf = true) :
    Canonical (execHalo c outbound h f s) := by
  simp +contextual -implicitDefEqProofs [execHalo, hs]

theorem execLdp_canonical (c : CoreId) (h : Header) (f : LdpFields) (s : State) (hs : s.dram.wf = true) :
    Canonical (execLdp c h f s) := by
  simp +contextual -implicitDefEqProofs [execLdp, hs]

theorem execStCollectiveStart_canonical (c : CoreId) (h : Header) (desc : BitVec 12) (coll : BitVec 16) (s : State)
    (hs : s.dram.wf = true) : Canonical (execStCollectiveStart c h desc coll s) := by
  rw [execStCollectiveStart, canonical_next]
  exact State.issue_wf hs _ _ _ _ fun s a t ht => State.collStart_wf _ _ _ _ ht

theorem execStNmuCommand_canonical (c : CoreId) (h : Header) (desc : BitVec 12) (s : State) (hs : s.dram.wf = true) :
    Canonical (execStNmuCommand c h desc s) := by
  simp +contextual -implicitDefEqProofs [execStNmuCommand, hs]

theorem execRdg_canonical (t : TxHeader) (s : State) (hs : s.dram.wf = true) : Canonical (execRdg t s) := by
  simp +contextual -implicitDefEqProofs [execRdg, hs]

theorem execWrg_canonical (t : TxHeader) (words : List CodeWord) (s : State) (hs : s.dram.wf = true) :
    Canonical (execWrg t words s) := by
  simp +contextual -implicitDefEqProofs [execWrg, hs]

theorem execRdgRsp_canonical (t : TxHeader) (words : List CodeWord) (s : State) (hs : s.dram.wf = true) :
    Canonical (execRdgRsp t words s) := by
  unfold execRdgRsp
  dsimp only
  (repeat' split) <;> simp +contextual -implicitDefEqProofs [hs]

theorem execWrgAck_canonical (t : TxHeader) (s : State) (hs : s.dram.wf = true) : Canonical (execWrgAck t s) := by
  unfold execWrgAck
  dsimp only
  (repeat' split) <;> simp +contextual -implicitDefEqProofs [hs]

theorem execNcmd_canonical (t : TxHeader) (words : List CodeWord) (s : State) (hs : s.dram.wf = true) :
    Canonical (execNcmd t words s) := by
  simp +contextual -implicitDefEqProofs [execNcmd, hs]

theorem execNcmdAck_canonical (t : TxHeader) (s : State) (hs : s.dram.wf = true) : Canonical (execNcmdAck t s) := by
  unfold execNcmdAck
  dsimp only
  (repeat' split) <;> simp +contextual -implicitDefEqProofs [hs]

theorem execDecode_canonical (stack : Fin 24) (p : BitVec 4) (s : State) (hs : s.dram.wf = true) :
    Canonical (execDecode stack p s) := by
  simp +contextual -implicitDefEqProofs [execDecode, hs]

theorem execStats_canonical (stack : Fin 24) (p : BitVec 4) (s : State) (hs : s.dram.wf = true) :
    Canonical (execStats stack p s) := by
  simp +contextual -implicitDefEqProofs [execStats, hs]

theorem execEwise_canonical (stack : Fin 24) (p : BitVec 4) (s : State) (hs : s.dram.wf = true) :
    Canonical (execEwise stack p s) := by
  rw [execEwise, canonical_next]
  exact State.startGranules_wf State.ewiseStep State.ewiseStep_wf hs _ _ _

theorem execReduce_canonical (stack : Fin 24) (p : BitVec 4) (s : State) (hs : s.dram.wf = true) :
    Canonical (execReduce stack p s) := by
  rw [execReduce, canonical_next]
  exact State.startGranules_wf State.reduceStep State.reduceStep_wf hs _ _ _

theorem execCstart_canonical (p : BitVec 4) (m : CollMsg) (first count : Nat) (s : State) (hs : s.dram.wf = true) :
    Canonical (execCstart p m first count s) := by
  unfold execCstart
  dsimp only
  (repeat' split) <;> simp +contextual -implicitDefEqProofs [hs]

theorem execCdata_canonical (m : CollMsg) (payload : List CodeWord) (s : State) (hs : s.dram.wf = true) :
    Canonical (execCdata m payload s) := by
  simp +contextual -implicitDefEqProofs [execCdata, hs]

theorem execCresult_canonical (m : CollMsg) (payload : List CodeWord) (s : State) (hs : s.dram.wf = true) :
    Canonical (execCresult m payload s) := by
  simp +contextual -implicitDefEqProofs [execCresult, hs]

theorem execCclean_canonical (m : CollMsg) (s : State) (hs : s.dram.wf = true) : Canonical (execCclean m s) := by
  simp +contextual -implicitDefEqProofs [execCclean, hs]

theorem execCfix_canonical (m : CollMsg) (s : State) (hs : s.dram.wf = true) : Canonical (execCfix m s) := by
  simp +contextual -implicitDefEqProofs [execCfix, hs]

theorem execCrecall_canonical (m : CollMsg) (s : State) (hs : s.dram.wf = true) : Canonical (execCrecall m s) := by
  simp +contextual -implicitDefEqProofs [execCrecall, hs]

theorem execCbusy_canonical (m : CollMsg) (s : State) (hs : s.dram.wf = true) : Canonical (execCbusy m s) := by
  simp +contextual -implicitDefEqProofs [execCbusy, hs]

theorem execCbusyRetry_canonical (idx : Nat) (s : State) (hs : s.dram.wf = true) : Canonical (execCbusyRetry idx s) := by
  unfold execCbusyRetry
  dsimp only
  (repeat' split) <;> simp +contextual -implicitDefEqProofs [hs]

theorem execCack_canonical (m : CollMsg) (s : State) (hs : s.dram.wf = true) : Canonical (execCack m s) := by
  simp +contextual -implicitDefEqProofs [execCack, hs]

theorem execCackTimeout_canonical (idx : Nat) (s : State) (hs : s.dram.wf = true) : Canonical (execCackTimeout idx s) := by
  simp +contextual -implicitDefEqProofs [execCackTimeout, hs]

theorem execUioCompletionTimeout_canonical (idx : Nat) (s : State) (hs : s.dram.wf = true) :
    Canonical (execUioCompletionTimeout idx s) := by
  simp +contextual -implicitDefEqProofs [execUioCompletionTimeout, hs]

theorem execPeerTimeout_canonical (group seq : BitVec 16) (s : State) (hs : s.dram.wf = true) :
    Canonical (execPeerTimeout group seq s) := by
  unfold execPeerTimeout
  (repeat' split) <;> simp +contextual -implicitDefEqProofs [hs]

theorem execInversionTimeout_canonical (p : BitVec 4) (s : State) (hs : s.dram.wf = true) :
    Canonical (execInversionTimeout p s) := by
  unfold execInversionTimeout
  (repeat' split) <;> simp +contextual -implicitDefEqProofs [hs]

theorem execCquery_canonical (m : CollMsg) (s : State) (hs : s.dram.wf = true) : Canonical (execCquery m s) := by
  simp +contextual -implicitDefEqProofs [execCquery, hs]

theorem execCreply_canonical (m : CollMsg) (s : State) (hs : s.dram.wf = true) : Canonical (execCreply m s) := by
  simp +contextual -implicitDefEqProofs [execCreply, hs]

theorem execCabort_canonical (m : CollMsg) (s : State) (hs : s.dram.wf = true) : Canonical (execCabort m s) := by
  simp +contextual -implicitDefEqProofs [execCabort, hs]

theorem execResidueVerdict_canonical (adder : Adder) (operands : List (Bool × Nat × Nat)) (raws : List Nat) (shifts : List
    (Bool × Nat × Nat)) (rounds exps : List (Nat × Nat)) (s : State) (hs : s.dram.wf = true) : Canonical (execResidueVerdict adder operands raws shifts rounds exps s) := by
  unfold execResidueVerdict
  dsimp only
  (repeat' split) <;> simp +contextual -implicitDefEqProofs [hs]

theorem execUioWriteReceive_canonical (port : BitVec 3) (addr : BitVec 64) (data : List CodeWord) (s : State)
    (hs : s.dram.wf = true) : Canonical (execUioWriteReceive port addr data s) := by
  rw [execUioWriteReceive, canonical_next]
  extract_lets -lift base o n
  split
  · exact hs
  next u _ =>
    have hc : ∀ ws, (u.checkHead n ws).1.dram.wf = true := by simp [u, hs]
    have h := hc (if o % 2 ^ 23 = 0 then data.take 8 else [])
    split
    next t eq => rwa [eq] at h
    next t eq =>
      rw [eq] at h
      split
      · exact h
      · exact State.receiveMsg_wf _ _ _ h

theorem execMessageAssemblyTimeout_canonical (module : BitVec 17) (msgId : BitVec 4) (s : State) (hs : s.dram.wf = true) :
    Canonical (execMessageAssemblyTimeout module msgId s) := by
  simp +contextual -implicitDefEqProofs [execMessageAssemblyTimeout, hs]

theorem execFabricPortLeavesService_canonical (port : BitVec 3) (s : State) (hs : s.dram.wf = true) :
    Canonical (execFabricPortLeavesService port s) := by
  simp +contextual -implicitDefEqProofs [execFabricPortLeavesService, hs]

theorem execCollReset_canonical (path : Path) (p : BitVec 4) (s : State) (hs : s.dram.wf = true) :
    Canonical (execCollReset path p s) := by
  simp +contextual -implicitDefEqProofs [execCollReset, hs]

theorem execNmuCommandEnd_canonical (stack : Fin 24) (p : BitVec 4) (s : State) (hs : s.dram.wf = true) :
    Canonical (execNmuCommandEnd stack p s) := by
  rw [execNmuCommandEnd, canonical_next]
  extract_lets -lift k p'
  split
  · exact hs
  next n c _ =>
    split
    · exact hs
    · extract_lets -lift s1 s2 s3 s4 _ _ s5
      have h2 : s2.dram.wf = true := by simpa [s2, s1] using hs
      have h3 : s3.dram.wf = true := by
        simp only [s3]
        (repeat' split) <;> simpa using h2
      have h4 : s4.dram.wf = true := by
        simp only [s4]
        split <;> simpa using h3
      have h5 : s5.dram.wf = true := by
        simp only [s5]
        (repeat' split) <;> simp [h4]
      simp [h5]

theorem execHangTimeout_canonical (c : CoreId) (u : UnitId) (s : State) (hs : s.dram.wf = true) :
    Canonical (execHangTimeout c u s) := by
  unfold execHangTimeout
  dsimp only
  (repeat' split) <;> simp +contextual -implicitDefEqProofs [hs]

theorem execFilmstripWrap_canonical (strip : Nat) (s : State) (hs : s.dram.wf = true) : Canonical (execFilmstripWrap strip s) := by
  simp +contextual -implicitDefEqProofs [execFilmstripWrap, hs]

theorem execTraceArm_canonical (path : Path) (p : BitVec 4) (s : State) (hs : s.dram.wf = true) :
    Canonical (execTraceArm path p s) := by
  simp +contextual -implicitDefEqProofs [execTraceArm, hs]

theorem execTraceTrigger_canonical (path : Path) (p : BitVec 4) (s : State) (hs : s.dram.wf = true) :
    Canonical (execTraceTrigger path p s) := by
  simp +contextual -implicitDefEqProofs [execTraceTrigger, hs]

theorem execTraceDrain_canonical (p : BitVec 4) (s : State) (hs : s.dram.wf = true) : Canonical (execTraceDrain p s) := by
  unfold execTraceDrain
  dsimp only
  (repeat' split) <;> simp +contextual -implicitDefEqProofs [hs]

theorem execMark_canonical (die : BitVec 6) (t : TxHeader) (s : State) (hs : s.dram.wf = true) : Canonical (execMark die t s) := by
  simp +contextual -implicitDefEqProofs [execMark, hs]

theorem execMarkWrite_canonical (path : Path) (value : BitVec 16) (s : State) (hs : s.dram.wf = true) :
    Canonical (execMarkWrite path value s) := by
  simp +contextual -implicitDefEqProofs [execMarkWrite, hs]

theorem execSheetCapture_canonical (path : Path) (s : State) (hs : s.dram.wf = true) : Canonical (execSheetCapture path s) := by
  simp +contextual -implicitDefEqProofs [execSheetCapture, hs]

theorem execStopArm_canonical (path : Path) (p : BitVec 4) (s : State) (hs : s.dram.wf = true) :
    Canonical (execStopArm path p s) := by
  simp +contextual -implicitDefEqProofs [execStopArm, hs]

theorem execStop_canonical (die : BitVec 6) (t : TxHeader) (s : State) (hs : s.dram.wf = true) : Canonical (execStop die t s) := by
  unfold execStop
  dsimp only
  (repeat' split) <;> simp +contextual -implicitDefEqProofs [hs]

theorem execStopped_canonical (t : TxHeader) (s : State) (hs : s.dram.wf = true) : Canonical (execStopped t s) := by
  unfold execStopped
  dsimp only
  (repeat' split) <;> simp +contextual -implicitDefEqProofs [hs]

theorem execStopReleaseResume_canonical (path : Path) (p : BitVec 4) (s : State) (hs : s.dram.wf = true) :
    Canonical (execStopReleaseResume path p s) := by
  simp +contextual -implicitDefEqProofs [execStopReleaseResume, hs]

theorem execStopReleaseFail_canonical (path : Path) (p : BitVec 4) (s : State) (hs : s.dram.wf = true) :
    Canonical (execStopReleaseFail path p s) := by
  simp +contextual -implicitDefEqProofs [execStopReleaseFail, hs]

theorem execBpResume_canonical (path : Path) (c : CoreId) (s : State) (hs : s.dram.wf = true) :
    Canonical (execBpResume path c s) := by
  simp +contextual -implicitDefEqProofs [execBpResume, hs]

theorem execBpSingleStep_canonical (path : Path) (c : CoreId) (s : State) (hs : s.dram.wf = true) :
    Canonical (execBpSingleStep path c s) := by
  simp +contextual -implicitDefEqProofs [execBpSingleStep, hs]

theorem execTrainingWindowStart_canonical (stack : Fin 24) (pc : BitVec 6) (s : State) (hs : s.dram.wf = true) :
    Canonical (execTrainingWindowStart stack pc s) := by
  simp +contextual -implicitDefEqProofs [execTrainingWindowStart, hs]

theorem execTrainingWindowEnd_canonical (stack : Fin 24) (pc : BitVec 6) (converged : Bool) (s : State) (hs : s.dram.wf = true) :
    Canonical (execTrainingWindowEnd stack pc converged s) := by
  simp +contextual -implicitDefEqProofs [execTrainingWindowEnd, hs]

theorem execPatrolScrub_canonical (stack : Fin 24) (pc : BitVec 6) (s : State) (hs : s.dram.wf = true) :
    Canonical (execPatrolScrub stack pc s) := by
  rw [execPatrolScrub, canonical_next]
  dsimp only
  split
  · exact hs
  · simp +contextual -implicitDefEqProofs [hs, Ram.wf_scrub]

theorem execThermalClassRise_canonical (stack : Fin 24) (s : State) (hs : s.dram.wf = true) :
    Canonical (execThermalClassRise stack s) := by
  simp +contextual -implicitDefEqProofs [execThermalClassRise, hs]

theorem execThermalClassFall_canonical (stack : Fin 24) (s : State) (hs : s.dram.wf = true) :
    Canonical (execThermalClassFall stack s) := by
  simp +contextual -implicitDefEqProofs [execThermalClassFall, hs]

theorem execMigrationStart_canonical (stack : Fin 24) (s : State) (hs : s.dram.wf = true) :
    Canonical (execMigrationStart stack s) := by
  simp +contextual -implicitDefEqProofs [execMigrationStart, hs]

theorem execMigrationBlockCopy_canonical (stack : Fin 24) (s : State) (hs : s.dram.wf = true) :
    Canonical (execMigrationBlockCopy stack s) := by
  rw [execMigrationBlockCopy, canonical_next]
  dsimp only
  (repeat' split) <;> simp [hs, State.migrateRows_wf]

theorem execTierFillComplete_canonical (window : BitVec 6) (page : BitVec 52) (data : List CodeWord) (s : State)
    (hs : s.dram.wf = true) : Canonical (execTierFillComplete window page data s) := by
  unfold execTierFillComplete
  dsimp only
  (repeat' split) <;> simp +contextual -implicitDefEqProofs [hs]

theorem execFillTimeout_canonical (p : BitVec 4) (s : State) (hs : s.dram.wf = true) : Canonical (execFillTimeout p s) := by
  unfold execFillTimeout
  dsimp only
  (repeat' split) <;> simp +contextual -implicitDefEqProofs [hs]

theorem execFillReadTimeout_canonical (window : BitVec 6) (page : BitVec 52) (s : State) (hs : s.dram.wf = true) :
    Canonical (execFillReadTimeout window page s) := by
  unfold execFillReadTimeout
  dsimp only
  (repeat' split) <;> simp +contextual -implicitDefEqProofs [hs]

theorem execTierGenerationWrite_canonical (path : Path) (window : BitVec 6) (value : BitVec 16) (s : State)
    (hs : s.dram.wf = true) : Canonical (execTierGenerationWrite path window value s) := by
  simp +contextual -implicitDefEqProofs [execTierGenerationWrite, hs]

theorem execExportDrain_canonical (window : BitVec 6) (bytes : Nat) (s : State) (hs : s.dram.wf = true) :
    Canonical (execExportDrain window bytes s) := by
  simp +contextual -implicitDefEqProofs [execExportDrain, hs]

theorem execExportDrainAck_canonical (window : BitVec 6) (bytes : Nat) (s : State) (hs : s.dram.wf = true) :
    Canonical (execExportDrainAck window bytes s) := by
  simp +contextual -implicitDefEqProofs [execExportDrainAck, hs]

theorem execNegativeSeal_canonical (window : BitVec 6) (s : State) (hs : s.dram.wf = true) :
    Canonical (execNegativeSeal window s) := by
  unfold execNegativeSeal
  dsimp only
  (repeat' split) <;> simp +contextual -implicitDefEqProofs [hs]

theorem execWatchSnoop_canonical (addr : BitVec 64) (s : State) (hs : s.dram.wf = true) : Canonical (execWatchSnoop addr s) := by
  simp +contextual -implicitDefEqProofs [execWatchSnoop, hs]

theorem execHdmCommit_canonical (dec : BitVec 4) (base size : BitVec 64) (ways : BitVec 4) (s : State) (hs : s.dram.wf = true) :
    Canonical (execHdmCommit dec base size ways s) := by
  unfold execHdmCommit
  dsimp only
  (repeat' split) <;> simp +contextual -implicitDefEqProofs [hs]

theorem execHdmDecommit_canonical (dec : BitVec 4) (s : State) (hs : s.dram.wf = true) : Canonical (execHdmDecommit dec s) := by
  unfold execHdmDecommit
  dsimp only
  (repeat' split) <;> simp +contextual -implicitDefEqProofs [hs]

theorem execHostMemWrite_canonical (dec : BitVec 4) (addr : BitVec 64) (data : List Byte) (s : State) (hs : s.dram.wf = true) :
    Canonical (execHostMemWrite dec addr data s) := by
  unfold execHostMemWrite
  (repeat' split) <;> simp +contextual -implicitDefEqProofs [hs]

theorem execHostMemRead_canonical (dec : BitVec 4) (addr : BitVec 64) (len : Nat) (s : State) (hs : s.dram.wf = true) :
    Canonical (execHostMemRead dec addr len s) := by
  unfold execHostMemRead
  dsimp only
  (repeat' split) <;> simp +contextual -implicitDefEqProofs [hs]

theorem execWatchWriteback_canonical (addr : BitVec 64) (data : List Byte) (s : State) (hs : s.dram.wf = true) :
    Canonical (execWatchWriteback addr data s) := by
  unfold execWatchWriteback
  (repeat' split) <;> simp +contextual -implicitDefEqProofs [hs]

theorem execBiPullTimer_canonical (addr : BitVec 64) (s : State) (hs : s.dram.wf = true) : Canonical (execBiPullTimer addr s) := by
  simp +contextual -implicitDefEqProofs [execBiPullTimer, hs]

theorem execBisnpResponse_canonical (addr : BitVec 64) (data : List Byte) (s : State) (hs : s.dram.wf = true) :
    Canonical (execBisnpResponse addr data s) := by
  unfold execBisnpResponse
  dsimp only
  (repeat' split) <;> simp +contextual -implicitDefEqProofs [hs]

theorem execStepRequestTake_canonical (n : BitVec 12) (entry : List Byte) (s : State) (hs : s.dram.wf = true) :
    Canonical (execStepRequestTake n entry s) := by
  unfold execStepRequestTake
  dsimp only
  (repeat' split) <;> simp +contextual -implicitDefEqProofs [hs]

theorem execClientEnable_canonical (path : Path) (n : BitVec 12) (s : State) (hs : s.dram.wf = true) :
    Canonical (execClientEnable path n s) := by
  simp +contextual -implicitDefEqProofs [execClientEnable, hs]

theorem execClientDisable_canonical (path : Path) (n : BitVec 12) (s : State) (hs : s.dram.wf = true) :
    Canonical (execClientDisable path n s) := by
  simp +contextual -implicitDefEqProofs [execClientDisable, hs]

theorem execHostStallBegin_canonical (s : State) (hs : s.dram.wf = true) : Canonical (execHostStallBegin s) := by
  simp +contextual -implicitDefEqProofs [execHostStallBegin, hs]

theorem execHostStallEnd_canonical (s : State) (hs : s.dram.wf = true) : Canonical (execHostStallEnd s) := by
  simp +contextual -implicitDefEqProofs [execHostStallEnd, hs]

theorem execP0LinkUp_canonical (rate width : BitVec 8) (flit256 : Bool) (s : State) (hs : s.dram.wf = true) :
    Canonical (execP0LinkUp rate width flit256 s) := by
  simp +contextual -implicitDefEqProofs [execP0LinkUp, hs]

theorem execP0LinkDown_canonical (s : State) (hs : s.dram.wf = true) : Canonical (execP0LinkDown s) := by
  simp +contextual -implicitDefEqProofs [execP0LinkDown, hs]

theorem execPidAssign_canonical (port : BitVec 3) (pid : BitVec 12) (s : State) (hs : s.dram.wf = true) :
    Canonical (execPidAssign port pid s) := by
  simp +contextual -implicitDefEqProofs [execPidAssign, hs]

theorem execCalibrationEnd_canonical (sdie : BitVec 2) (ok : Bool) (s : State) (hs : s.dram.wf = true) :
    Canonical (execCalibrationEnd sdie ok s) := by
  simp +contextual -implicitDefEqProofs [execCalibrationEnd, hs]

theorem execPipeRecover_canonical (path : Path) (sdie : BitVec 2) (s : State) (hs : s.dram.wf = true) :
    Canonical (execPipeRecover path sdie s) := by
  simp +contextual -implicitDefEqProofs [execPipeRecover, hs]

theorem execPipeResume_canonical (path : Path) (sdie : BitVec 2) (s : State) (hs : s.dram.wf = true) :
    Canonical (execPipeResume path sdie s) := by
  simp +contextual -implicitDefEqProofs [execPipeResume, hs]

theorem execCodecJobTake_canonical (ch : BitVec 5) (_entry : List Byte) (s : State) (hs : s.dram.wf = true) :
    Canonical (execCodecJobTake ch _entry s) := by
  unfold execCodecJobTake
  dsimp only
  (repeat' split) <;> simp +contextual -implicitDefEqProofs [hs]

theorem execEncode_canonical (ch : BitVec 5) (error : Bool) (s : State) (hs : s.dram.wf = true) :
    Canonical (execEncode ch error s) := by
  unfold execEncode
  dsimp only
  (repeat' split) <;> simp +contextual -implicitDefEqProofs [hs]

theorem execEncodeRingSpace_canonical (ch : BitVec 5) (s : State) (hs : s.dram.wf = true) :
    Canonical (execEncodeRingSpace ch s) := by
  unfold execEncodeRingSpace
  dsimp only
  (repeat' split) <;> simp +contextual -implicitDefEqProofs [hs]

theorem execAnalyse_canonical (ch : BitVec 5) (s : State) (hs : s.dram.wf = true) : Canonical (execAnalyse ch s) := by
  unfold execAnalyse
  dsimp only
  (repeat' split) <;> simp +contextual -implicitDefEqProofs [hs]

theorem execCodecDecode_canonical (ch : BitVec 5) (error : Bool) (s : State) (hs : s.dram.wf = true) :
    Canonical (execCodecDecode ch error s) := by
  unfold execCodecDecode
  dsimp only
  (repeat' split) <;> simp +contextual -implicitDefEqProofs [hs]

theorem execDecodeCap_canonical (ch : BitVec 5) (s : State) (hs : s.dram.wf = true) : Canonical (execDecodeCap ch s) := by
  unfold execDecodeCap
  dsimp only
  (repeat' split) <;> simp +contextual -implicitDefEqProofs [hs]

theorem execCodecJobEnd_canonical (ch : BitVec 5) (s : State) (hs : s.dram.wf = true) : Canonical (execCodecJobEnd ch s) := by
  unfold execCodecJobEnd
  dsimp only
  (repeat' split) <;> simp +contextual -implicitDefEqProofs [hs]

theorem execCodecRecord_canonical (ch : BitVec 5) (s : State) (hs : s.dram.wf = true) : Canonical (execCodecRecord ch s) := by
  unfold execCodecRecord
  dsimp only
  (repeat' split) <;> simp +contextual -implicitDefEqProofs [hs]

theorem execChanEnable_canonical (path : Path) (ch : BitVec 5) (s : State) (hs : s.dram.wf = true) :
    Canonical (execChanEnable path ch s) := by
  simp +contextual -implicitDefEqProofs [execChanEnable, hs]

theorem execChanDisable_canonical (path : Path) (ch : BitVec 5) (s : State) (hs : s.dram.wf = true) :
    Canonical (execChanDisable path ch s) := by
  simp +contextual -implicitDefEqProofs [execChanDisable, hs]

theorem execPowerEnvelope_canonical (path : Path) (value : BitVec 8) (s : State) (hs : s.dram.wf = true) :
    Canonical (execPowerEnvelope path value s) := by
  simp +contextual -implicitDefEqProofs [execPowerEnvelope, hs]

theorem execOverlayApply_canonical (path : Path) (value : BitVec 32) (s : State) (hs : s.dram.wf = true) :
    Canonical (execOverlayApply path value s) := by
  simp +contextual -implicitDefEqProofs [execOverlayApply, hs]

theorem execOverlayRemove_canonical (path : Path) (value : BitVec 32) (s : State) (hs : s.dram.wf = true) :
    Canonical (execOverlayRemove path value s) := by
  simp +contextual -implicitDefEqProofs [execOverlayRemove, hs]

theorem execDeviceEnable_canonical (path : Path) (trained : BitVec 8) (s : State) (hs : s.dram.wf = true) :
    Canonical (execDeviceEnable path trained s) := by
  simp +contextual -implicitDefEqProofs [execDeviceEnable, hs]

theorem execDeviceDisable_canonical (path : Path) (s : State) (hs : s.dram.wf = true) : Canonical (execDeviceDisable path s) := by
  simp +contextual -implicitDefEqProofs [execDeviceDisable, hs]

theorem execDisableComplete_canonical (s : State) (hs : s.dram.wf = true) : Canonical (execDisableComplete s) := by
  simp +contextual -implicitDefEqProofs [execDisableComplete, hs]

theorem execWarmReset_canonical (path : Path) (s : State) (hs : s.dram.wf = true) : Canonical (execWarmReset path s) := by
  simp +contextual -implicitDefEqProofs [execWarmReset, hs]

theorem execColdReset_canonical (path : Path) (s : State) (hs : s.dram.wf = true) : Canonical (execColdReset path s) := by
  simp +contextual -implicitDefEqProofs [execColdReset, hs]

theorem execSleep_canonical (path : Path) (s : State) (hs : s.dram.wf = true) : Canonical (execSleep path s) := by
  simp +contextual -implicitDefEqProofs [execSleep, hs]

theorem execPerstAssert_canonical (s : State) (hs : s.dram.wf = true) : Canonical (execPerstAssert s) := by
  simp +contextual -implicitDefEqProofs [execPerstAssert, hs]

theorem execPowerUp_canonical (supply aux : BitVec 32) (env : BitVec 2) (mid : BitVec 4) (s : State) (hs : s.dram.wf = true) :
    Canonical (execPowerUp supply aux env mid s) := by
  unfold execPowerUp
  dsimp only
  (repeat' split) <;> simp +contextual -implicitDefEqProofs [hs]

theorem execAuxRailLoss_canonical (s : State) (hs : s.dram.wf = true) : Canonical (execAuxRailLoss s) := by
  simp +contextual -implicitDefEqProofs [execAuxRailLoss, hs]

theorem execInputLoss_canonical (s : State) (hs : s.dram.wf = true) : Canonical (execInputLoss s) := by
  simp +contextual -implicitDefEqProofs [execInputLoss, hs]

theorem execComparatorTrip_canonical (k : BitVec 3) (s : State) (hs : s.dram.wf = true) : Canonical (execComparatorTrip k s) := by
  simp +contextual -implicitDefEqProofs [execComparatorTrip, hs]

theorem execPerstDeassert_canonical (s : State) (hs : s.dram.wf = true) : Canonical (execPerstDeassert s) := by
  simp +contextual -implicitDefEqProofs [execPerstDeassert, hs]

theorem execWakeCauseRead_canonical (path : Path) (s : State) (hs : s.dram.wf = true) : Canonical (execWakeCauseRead path s) := by
  simp +contextual -implicitDefEqProofs [execWakeCauseRead, hs]

theorem execRetainRegions_canonical (path : Path) (value : BitVec 8) (s : State) (hs : s.dram.wf = true) :
    Canonical (execRetainRegions path value s) := by
  simp +contextual -implicitDefEqProofs [execRetainRegions, hs]

theorem execStripRound_canonical (s : State) (hs : s.dram.wf = true) : Canonical (execStripRound s) := by
  unfold execStripRound
  dsimp only
  (repeat' split) <;> simp +contextual -implicitDefEqProofs [hs]

theorem execStackTempSample_canonical (stack : Fin 24) (temp : BitVec 32) (s : State) (hs : s.dram.wf = true) :
    Canonical (execStackTempSample stack temp s) := by
  simp +contextual -implicitDefEqProofs [execStackTempSample, hs]

theorem execStripEnd_canonical (region : BitVec 7) (signature : BitVec 64) (aborted : Bool) (s : State) (hs : s.dram.wf = true) :
    Canonical (execStripEnd region signature aborted s) := by
  unfold execStripEnd
  dsimp only
  (repeat' split) <;> simp +contextual -implicitDefEqProofs [hs]

theorem execStripRequest_canonical (path : Path) (region : BitVec 16) (s : State) (hs : s.dram.wf = true) :
    Canonical (execStripRequest path region s) := by
  simp +contextual -implicitDefEqProofs [execStripRequest, hs]

theorem execEngineRun_canonical (path : Path) (region : BitVec 16) (s : State) (hs : s.dram.wf = true) :
    Canonical (execEngineRun path region s) := by
  simp +contextual -implicitDefEqProofs [execEngineRun, hs]

theorem execFenceRequest_canonical (path : Path) (pc : BitVec 16) (s : State) (hs : s.dram.wf = true) :
    Canonical (execFenceRequest path pc s) := by
  simp +contextual -implicitDefEqProofs [execFenceRequest, hs]

theorem execFenceClear_canonical (path : Path) (pc : BitVec 16) (s : State) (hs : s.dram.wf = true) :
    Canonical (execFenceClear path pc s) := by
  simp +contextual -implicitDefEqProofs [execFenceClear, hs]

theorem execLockstepMismatch_canonical (pc : BitVec 10) (s : State) (hs : s.dram.wf = true) :
    Canonical (execLockstepMismatch pc s) := by
  simp +contextual -implicitDefEqProofs [execLockstepMismatch, hs]

theorem execCxlHotReset_canonical (s : State) (hs : s.dram.wf = true) : Canonical (execCxlHotReset s) := by
  simp +contextual -implicitDefEqProofs [execCxlHotReset, hs]

theorem execFlr_canonical (s : State) (hs : s.dram.wf = true) : Canonical (execFlr s) := by
  simp +contextual -implicitDefEqProofs [execFlr, hs]

theorem execFabricHotReset_canonical (port : BitVec 3) (trained : Bool) (s : State) (hs : s.dram.wf = true) :
    Canonical (execFabricHotReset port trained s) := by
  simp +contextual -implicitDefEqProofs [execFabricHotReset, hs]

theorem execFwImage_canonical (path : Path) (data : List Byte) (s : State) (hs : s.dram.wf = true) :
    Canonical (execFwImage path data s) := by
  simp +contextual -implicitDefEqProofs [execFwImage, hs]

theorem execPldmFirmwareUpdate_canonical (data : List Byte) (s : State) (hs : s.dram.wf = true) :
    Canonical (execPldmFirmwareUpdate data s) := by
  simp +contextual -implicitDefEqProofs [execPldmFirmwareUpdate, hs]

theorem execCommitVersion_canonical (path : Path) (s : State) (hs : s.dram.wf = true) : Canonical (execCommitVersion path s) := by
  simp +contextual -implicitDefEqProofs [execCommitVersion, hs]

theorem execLcTransition_canonical (path : Path) (value : BitVec 8) (s : State) (hs : s.dram.wf = true) :
    Canonical (execLcTransition path value s) := by
  simp +contextual -implicitDefEqProofs [execLcTransition, hs]

theorem execGetVersion_canonical (carrier : BitVec 4) (versions : List (BitVec 8)) (s : State) (hs : s.dram.wf = true) :
    Canonical (execGetVersion carrier versions s) := by
  simp +contextual -implicitDefEqProofs [execGetVersion, hs]

theorem execGetCapabilities_canonical (carrier : BitVec 4) (s : State) (hs : s.dram.wf = true) :
    Canonical (execGetCapabilities carrier s) := by
  simp +contextual -implicitDefEqProofs [execGetCapabilities, hs]

theorem execGetCertificate_canonical (carrier slot : BitVec 4) (offset length : BitVec 16) (s : State) (hs : s.dram.wf = true) :
    Canonical (execGetCertificate carrier slot offset length s) := by
  simp +contextual -implicitDefEqProofs [execGetCertificate, hs]

theorem execChallenge_canonical (carrier : BitVec 4) (nonce : List Byte) (s : State) (hs : s.dram.wf = true) :
    Canonical (execChallenge carrier nonce s) := by
  simp +contextual -implicitDefEqProofs [execChallenge, hs]

theorem execGetMeasurements_canonical (carrier : BitVec 4) (block : BitVec 8) (nonce : List Byte) (s : State)
    (hs : s.dram.wf = true) : Canonical (execGetMeasurements carrier block nonce s) := by
  rw [execGetMeasurements, canonical_next]
  extract_lets -lift c k
  rw [State.spdm_dram]
  · exact hs
  · intro s
    dsimp only
    (repeat' split) <;> simp

theorem execKeyExchange_canonical (carrier : BitVec 4) (session : BitVec 16) (exchange : List Byte) (s : State)
    (hs : s.dram.wf = true) : Canonical (execKeyExchange carrier session exchange s) := by
  rw [execKeyExchange, canonical_next]
  extract_lets -lift c id
  rw [State.spdm_dram]
  · exact hs
  · intro s
    dsimp only
    (repeat' split) <;> simp

theorem execFinish_canonical (session : BitVec 16) (chain signature : List Byte) (s : State) (hs : s.dram.wf = true) :
    Canonical (execFinish session chain signature s) := by
  rw [execFinish, canonical_next, State.inSpdm_dram]
  · exact hs
  · intro s
    split
    · rfl
    · rw [State.spdm_dram]
      intro s
      dsimp only
      (repeat' split) <;> simp

theorem execHeartbeat_canonical (session : BitVec 16) (s : State) (hs : s.dram.wf = true) :
    Canonical (execHeartbeat session s) := by
  rw [execHeartbeat, canonical_next, State.inSpdm_dram]
  · exact hs
  · intro s
    split
    · rfl
    · rw [State.spdm_dram]
      intro s
      split <;> simp

theorem execSessionTimeout_canonical (session : BitVec 16) (s : State) (hs : s.dram.wf = true) :
    Canonical (execSessionTimeout session s) := by
  simp +contextual -implicitDefEqProofs [execSessionTimeout, hs]

theorem execIdeKeyProgram_canonical (session : BitVec 16) (target : IdeTarget) (key : List Byte) (s : State)
    (hs : s.dram.wf = true) : Canonical (execIdeKeyProgram session target key s) := by
  unfold execIdeKeyProgram
  dsimp only
  (repeat' split) <;> simp +contextual -implicitDefEqProofs [hs]

theorem execSetTime_canonical (path : Path) (value : BitVec 64) (s : State) (hs : s.dram.wf = true) :
    Canonical (execSetTime path value s) := by
  simp +contextual -implicitDefEqProofs [execSetTime, hs]

theorem execPtmRequest_canonical (s : State) (hs : s.dram.wf = true) : Canonical (execPtmRequest s) := by
  unfold execPtmRequest
  dsimp only
  (repeat' split) <;> simp +contextual -implicitDefEqProofs [hs]

theorem execPtmResponse_canonical (t1 t2 t3 t4 : BitVec 64) (s : State) (hs : s.dram.wf = true) :
    Canonical (execPtmResponse t1 t2 t3 t4 s) := by
  simp +contextual -implicitDefEqProofs [execPtmResponse, hs]

theorem execTimerefPps_canonical (s : State) (hs : s.dram.wf = true) : Canonical (execTimerefPps s) := by
  simp +contextual -implicitDefEqProofs [execTimerefPps, hs]

theorem execHoldoverTimeout_canonical (s : State) (hs : s.dram.wf = true) : Canonical (execHoldoverTimeout s) := by
  simp +contextual -implicitDefEqProofs [execHoldoverTimeout, hs]

theorem execRingCrossingLost_canonical (north : Bool) (s : State) (hs : s.dram.wf = true) :
    Canonical (execRingCrossingLost north s) := by
  simp +contextual -implicitDefEqProofs [execRingCrossingLost, hs]

theorem execRingCrossingRecovered_canonical (north : Bool) (s : State) (hs : s.dram.wf = true) :
    Canonical (execRingCrossingRecovered north s) := by
  simp +contextual -implicitDefEqProofs [execRingCrossingRecovered, hs]

theorem execLeaseRenewal_canonical (s : State) (hs : s.dram.wf = true) : Canonical (execLeaseRenewal s) := by
  simp +contextual -implicitDefEqProofs [execLeaseRenewal, hs]

theorem execTokenRenewal_canonical (reg : Fin 3) (sdie : BitVec 2) (term : BitVec 16) (s : State) (hs : s.dram.wf = true) :
    Canonical (execTokenRenewal reg sdie term s) := by
  simp +contextual -implicitDefEqProofs [execTokenRenewal, hs]

theorem execTokenClaim_canonical (reg : Fin 3) (sdie : BitVec 2) (term : BitVec 16) (s : State) (hs : s.dram.wf = true) :
    Canonical (execTokenClaim reg sdie term s) := by
  simp +contextual -implicitDefEqProofs [execTokenClaim, hs]

theorem execTokenExpiry_canonical (reg : Fin 3) (s : State) (hs : s.dram.wf = true) : Canonical (execTokenExpiry reg s) := by
  simp +contextual -implicitDefEqProofs [execTokenExpiry, hs]

theorem execGrantRelease_canonical (reg : Fin 3) (sdie : BitVec 2) (term : BitVec 16) (s : State) (hs : s.dram.wf = true) :
    Canonical (execGrantRelease reg sdie term s) := by
  simp +contextual -implicitDefEqProofs [execGrantRelease, hs]

theorem execRenewalAck_canonical (reg : Fin 3) (s : State) (hs : s.dram.wf = true) : Canonical (execRenewalAck reg s) := by
  simp +contextual -implicitDefEqProofs [execRenewalAck, hs]

theorem execConductorStepDown_canonical (s : State) (hs : s.dram.wf = true) : Canonical (execConductorStepDown s) := by
  simp +contextual -implicitDefEqProofs [execConductorStepDown, hs]

theorem execClaimTimeout_canonical (sdie : BitVec 2) (s : State) (hs : s.dram.wf = true) : Canonical (execClaimTimeout sdie s) := by
  simp +contextual -implicitDefEqProofs [execClaimTimeout, hs]

theorem execFence_canonical (die : BitVec 6) (s : State) (hs : s.dram.wf = true) : Canonical (execFence die s) := by
  simp +contextual -implicitDefEqProofs [execFence, hs]

theorem execInertTimeout_canonical (die : BitVec 6) (s : State) (hs : s.dram.wf = true) : Canonical (execInertTimeout die s) := by
  simp +contextual -implicitDefEqProofs [execInertTimeout, hs]

theorem execSegmentLost_canonical (s : State) (hs : s.dram.wf = true) : Canonical (execSegmentLost s) := by
  simp +contextual -implicitDefEqProofs [execSegmentLost, hs]

theorem execTwait_canonical (c : CoreId) (u : UnitId) (h : Header) (s : State) (hs : s.dram.wf = true) :
    Canonical (execTwait c u h s) := by
  rw [execTwait, canonical_next]
  exact State.issue_wf hs _ _ _ _ fun _ _ _ ht => ht

theorem execTsig_canonical (c : CoreId) (u : UnitId) (h : Header) (s : State) (hs : s.dram.wf = true) :
    Canonical (execTsig c u h s) := by
  rw [execTsig, canonical_next]
  exact State.issue_wf hs _ _ _ _ fun _ _ _ ht => ht

theorem execLoop_canonical (c : CoreId) (u : UnitId) (h : Header) (count : BitVec 16) (body : BitVec 12) (s : State)
    (hs : s.dram.wf = true) : Canonical (execLoop c u h count body s) := by
  rw [execLoop, canonical_next]
  exact State.issue_wf hs _ _ _ _ fun _ _ _ ht => ht

theorem execBrb_canonical (c : CoreId) (h : Header) (bracket : BitVec 4) (s : State) (hs : s.dram.wf = true) :
    Canonical (execBrb c h bracket s) := by
  rw [execBrb, canonical_next]
  exact State.issue_wf hs _ _ _ _ fun _ _ _ ht => ht

theorem execYield_canonical (c : CoreId) (u : UnitId) (h : Header) (passEnd : BitVec 1) (segment : BitVec 16) (s : State)
    (hs : s.dram.wf = true) : Canonical (execYield c u h passEnd segment s) := by
  rw [execYield, canonical_next]
  exact State.issue_wf hs _ _ _ _ fun _ _ _ ht => ht

theorem execStepEnd_canonical (c : CoreId) (u : UnitId) (h : Header) (s : State) (hs : s.dram.wf = true) :
    Canonical (execStepEnd c u h s) := by
  rw [execStepEnd, canonical_next]
  exact State.issue_wf hs _ _ _ _ fun _ _ _ ht => ht

theorem execCounterFold_canonical (s : State) (hs : s.dram.wf = true) : Canonical (execCounterFold s) := by
  simp +contextual -implicitDefEqProofs [execCounterFold, hs]

theorem execCoolantSample_canonical (inlet flow : BitVec 32) (s : State) (hs : s.dram.wf = true) :
    Canonical (execCoolantSample inlet flow s) := by
  simp +contextual -implicitDefEqProofs [execCoolantSample, hs]

theorem execLoupeRead_canonical (path : Path) (piece : BitVec 16) (s : State) (hs : s.dram.wf = true) :
    Canonical (execLoupeRead path piece s) := by
  simp +contextual -implicitDefEqProofs [execLoupeRead, hs]

theorem execDictionaryRead_canonical (path : Path) (obj : BitVec 16) (sub : ByteField) (piece : WordField) (s : State)
    (hs : s.dram.wf = true) : Canonical (execDictionaryRead path obj sub piece s) := by
  simp +contextual -implicitDefEqProofs [execDictionaryRead, hs]

theorem execDictionaryWrite_canonical (path : Path) (obj : BitVec 16) (sub : ByteField) (piece : BitVec 16) (data : List Byte)
    (s : State) (hs : s.dram.wf = true) : Canonical (execDictionaryWrite path obj sub piece data s) := by
  simp +contextual -implicitDefEqProofs [execDictionaryWrite, hs]

theorem execRegisterWrite_canonical (path : Path) (obj : BitVec 16) (sub : BitVec 8) (data : List Byte) (s : State)
    (hs : s.dram.wf = true) : Canonical (execRegisterWrite path obj sub data s) := by
  simp +contextual -implicitDefEqProofs [execRegisterWrite, hs]

theorem execDescribeTarget_canonical (path : Path) (value : BitVec 32) (s : State) (hs : s.dram.wf = true) :
    Canonical (execDescribeTarget path value s) := by
  simp +contextual -implicitDefEqProofs [execDescribeTarget, hs]

theorem execRouteWrite_canonical (path : Path) (port : ByteField) (first : BitVec 32) (entries : List Byte) (s : State)
    (hs : s.dram.wf = true) : Canonical (execRouteWrite path port first entries s) := by
  simp +contextual -implicitDefEqProofs [execRouteWrite, hs]

theorem execRouteRead_canonical (path : Path) (port : ByteField) (first count : BitVec 32) (s : State) (hs : s.dram.wf = true) :
    Canonical (execRouteRead path port first count s) := by
  simp +contextual -implicitDefEqProofs [execRouteRead, hs]

theorem execWindowRead_canonical (ctrl : BitVec 64) (s : State) (hs : s.dram.wf = true) : Canonical (execWindowRead ctrl s) := by
  simp +contextual -implicitDefEqProofs [execWindowRead, hs]

theorem execWindowWrite_canonical (ctrl : BitVec 64) (data : List Byte) (s : State) (hs : s.dram.wf = true) :
    Canonical (execWindowWrite ctrl data s) := by
  simp +contextual -implicitDefEqProofs [execWindowWrite, hs]

theorem execEdgePortTraining_canonical (die : BitVec 6) (port : BitVec 5) (trained : Bool) (s : State) (hs : s.dram.wf = true) :
    Canonical (execEdgePortTraining die port trained s) := by
  simp +contextual -implicitDefEqProofs [execEdgePortTraining, hs]

theorem execControlFlit_canonical (die : BitVec 6) (port : BitVec 5) (ui : List (BitVec 256)) (s : State) (hs : s.dram.wf = true) :
    Canonical (execControlFlit die port ui s) := by
  rw [execControlFlit, canonical_next]
  extract_lets -lift d n l
  split
  · exact hs
  · have h := State.takeFlit_dram s d n (wireWords ui)
    split
    next t eq =>
      rw [eq] at h
      rwa [h]
    next t ws eq =>
      rw [eq] at h
      have ht : t.dram.wf = true := by rwa [h]
      extract_lets -lift hd ts
      (repeat' split) <;> simp [ht]

theorem execDataFlit_canonical (die : BitVec 6) (port : BitVec 5) (ui : List (BitVec 256)) (s : State) (hs : s.dram.wf = true) :
    Canonical (execDataFlit die port ui s) := by
  rw [execDataFlit, canonical_next]
  extract_lets -lift d n l
  split
  · exact hs
  · have h := State.takeFlit_dram s d n (wireWords ui)
    split
    next t eq =>
      rw [eq] at h
      rwa [h]
    next t ws eq =>
      rw [eq] at h
      have ht : t.dram.wf = true := by rwa [h]
      (repeat' split) <;> simp [ht]

theorem execLinkReplayRequest_canonical (die : BitVec 6) (port : BitVec 5) (s : State) (hs : s.dram.wf = true) :
    Canonical (execLinkReplayRequest die port s) := by
  simp +contextual -implicitDefEqProofs [execLinkReplayRequest, hs]

theorem execPacketStale_canonical (die : BitVec 6) (idx : Nat) (s : State) (hs : s.dram.wf = true) :
    Canonical (execPacketStale die idx s) := by
  unfold execPacketStale
  dsimp only
  (repeat' split) <;> simp +contextual -implicitDefEqProofs [hs]

theorem execClaimGrant_canonical (sdie : BitVec 2) (grants : BitVec 3) (s : State) (hs : s.dram.wf = true) :
    Canonical (execClaimGrant sdie grants s) := by
  unfold execClaimGrant
  (repeat' split) <;> simp +contextual -implicitDefEqProofs [hs]

theorem execVop_canonical (c : CoreId) (h : Header) (f : VopFields) (s : State) (hs : s.dram.wf = true) :
    Canonical (execVop c h f s) := by
  simp [execVop, hs]

theorem execVcvt_canonical (c : CoreId) (h : Header) (f : VcvtFields) (s : State) (hs : s.dram.wf = true) :
    Canonical (execVcvt c h f s) := by
  simp [execVcvt, hs]

theorem execVrow_canonical (c : CoreId) (h : Header) (f : VrowFields) (s : State) (hs : s.dram.wf = true) :
    Canonical (execVrow c h f s) := by
  simp [execVrow, hs]

theorem execSfn_canonical (c : CoreId) (h : Header) (f : SfnFields) (s : State) (hs : s.dram.wf = true) :
    Canonical (execSfn c h f s) := by
  simp [execSfn, hs]

theorem execSfm_canonical (c : CoreId) (h : Header) (f : SfmFields) (s : State) (hs : s.dram.wf = true) :
    Canonical (execSfm c h f s) := by
  simp [execSfm, hs]

theorem exec_canonical (i : Instr) {s : State} (hs : s.dram.wf = true) : Canonical (exec i s) := by
  cases i with
  | twait _ _ _ => exact execTwait_canonical _ _ _ _ hs
  | tsig _ _ _ => exact execTsig_canonical _ _ _ _ hs
  | loop _ _ _ _ _ => exact execLoop_canonical _ _ _ _ _ _ hs
  | brb _ _ _ => exact execBrb_canonical _ _ _ _ hs
  | yield _ _ _ _ _ => exact execYield_canonical _ _ _ _ _ _ hs
  | stepEnd _ _ _ => exact execStepEnd_canonical _ _ _ _ hs
  | mma _ _ _ => exact execMma_canonical _ _ _ _ hs
  | mmab _ _ _ => exact execMmab_canonical _ _ _ _ hs
  | mmf _ _ _ => exact execMmf_canonical _ _ _ _ hs
  | vop _ _ _ => exact execVop_canonical _ _ _ _ hs
  | vcvt _ _ _ => exact execVcvt_canonical _ _ _ _ hs
  | vrow _ _ _ => exact execVrow_canonical _ _ _ _ hs
  | sfn _ _ _ => exact execSfn_canonical _ _ _ _ hs
  | sfm _ _ _ => exact execSfm_canonical _ _ _ _ hs
  | ld _ _ _ => exact execLd_canonical _ _ _ _ hs
  | ldp _ _ _ => exact execLdp_canonical _ _ _ _ hs
  | halo _ _ _ _ => exact execHalo_canonical _ _ _ _ _ hs
  | st _ _ _ => exact execSt_canonical _ _ _ _ hs
  | stCollectiveStart _ _ _ _ => exact execStCollectiveStart_canonical _ _ _ _ _ hs
  | stNmuCommand _ _ _ => exact execStNmuCommand_canonical _ _ _ _ hs
  | instructionComplete _ _ => exact execInstructionComplete_canonical _ _ _ hs
  | transferComplete _ _ _ => exact execTransferComplete_canonical _ _ _ _ hs
  | remoteTokenSignal _ => exact execRemoteTokenSignal_canonical _ _ hs
  | landingSignal _ _ _ => exact execLandingSignal_canonical _ _ _ _ hs
  | barrierArrival _ => exact execBarrierArrival_canonical _ _ hs
  | yieldRelease _ _ => exact execYieldRelease_canonical _ _ _ hs
  | stepStart _ => exact execStepStart_canonical _ _ hs
  | backfillStart _ => exact execBackfillStart_canonical _ _ hs
  | stepResume _ => exact execStepResume_canonical _ _ hs
  | stepReplay _ => exact execStepReplay_canonical _ _ hs
  | completionRecord _ => exact execCompletionRecord_canonical _ _ hs
  | hangTimeout _ _ => exact execHangTimeout_canonical _ _ _ hs
  | edgePortTraining _ _ _ => exact execEdgePortTraining_canonical _ _ _ _ hs
  | controlFlit _ _ _ => exact execControlFlit_canonical _ _ _ _ hs
  | dataFlit _ _ _ => exact execDataFlit_canonical _ _ _ _ hs
  | linkReplayRequest _ _ => exact execLinkReplayRequest_canonical _ _ _ hs
  | packetStale _ _ => exact execPacketStale_canonical _ _ _ hs
  | rdg _ => exact execRdg_canonical _ _ hs
  | wrg _ _ => exact execWrg_canonical _ _ _ hs
  | rdgRsp _ _ => exact execRdgRsp_canonical _ _ _ hs
  | wrgAck _ => exact execWrgAck_canonical _ _ hs
  | ncmd _ _ => exact execNcmd_canonical _ _ _ hs
  | ncmdAck _ => exact execNcmdAck_canonical _ _ hs
  | decode _ _ => exact execDecode_canonical _ _ _ hs
  | stats _ _ => exact execStats_canonical _ _ _ hs
  | ewise _ _ => exact execEwise_canonical _ _ _ hs
  | reduce _ _ => exact execReduce_canonical _ _ _ hs
  | nmuCommandEnd _ _ => exact execNmuCommandEnd_canonical _ _ _ hs
  | cstart _ _ _ _ => exact execCstart_canonical _ _ _ _ _ hs
  | cdata _ _ => exact execCdata_canonical _ _ _ hs
  | cresult _ _ => exact execCresult_canonical _ _ _ hs
  | cclean _ => exact execCclean_canonical _ _ hs
  | cfix _ => exact execCfix_canonical _ _ hs
  | crecall _ => exact execCrecall_canonical _ _ hs
  | cbusy _ => exact execCbusy_canonical _ _ hs
  | cbusyRetry _ => exact execCbusyRetry_canonical _ _ hs
  | cack _ => exact execCack_canonical _ _ hs
  | cackTimeout _ => exact execCackTimeout_canonical _ _ hs
  | peerTimeout _ _ => exact execPeerTimeout_canonical _ _ _ hs
  | inversionTimeout _ => exact execInversionTimeout_canonical _ _ hs
  | cquery _ => exact execCquery_canonical _ _ hs
  | creply _ => exact execCreply_canonical _ _ hs
  | cabort _ => exact execCabort_canonical _ _ hs
  | residueVerdict _ _ _ _ _ _ => exact execResidueVerdict_canonical _ _ _ _ _ _ _ hs
  | uioWriteReceive _ _ _ => exact execUioWriteReceive_canonical _ _ _ _ hs
  | messageAssemblyTimeout _ _ => exact execMessageAssemblyTimeout_canonical _ _ _ hs
  | uioCompletionTimeout _ => exact execUioCompletionTimeout_canonical _ _ hs
  | stop _ _ => exact execStop_canonical _ _ _ hs
  | stopped _ => exact execStopped_canonical _ _ hs
  | mark _ _ => exact execMark_canonical _ _ _ hs
  | trainingWindowStart _ _ => exact execTrainingWindowStart_canonical _ _ _ hs
  | trainingWindowEnd _ _ _ => exact execTrainingWindowEnd_canonical _ _ _ _ hs
  | patrolScrub _ _ => exact execPatrolScrub_canonical _ _ _ hs
  | stackTempSample _ _ => exact execStackTempSample_canonical _ _ _ hs
  | thermalClassRise _ => exact execThermalClassRise_canonical _ _ hs
  | thermalClassFall _ => exact execThermalClassFall_canonical _ _ hs
  | migrationStart _ => exact execMigrationStart_canonical _ _ hs
  | migrationBlockCopy _ => exact execMigrationBlockCopy_canonical _ _ hs
  | tierFillComplete _ _ _ => exact execTierFillComplete_canonical _ _ _ _ hs
  | fillTimeout _ => exact execFillTimeout_canonical _ _ hs
  | fillReadTimeout _ _ => exact execFillReadTimeout_canonical _ _ _ hs
  | tierGenerationWrite _ _ _ => exact execTierGenerationWrite_canonical _ _ _ _ hs
  | exportDrain _ _ => exact execExportDrain_canonical _ _ _ hs
  | exportDrainAck _ _ => exact execExportDrainAck_canonical _ _ _ hs
  | negativeSeal _ => exact execNegativeSeal_canonical _ _ hs
  | watchSnoop _ => exact execWatchSnoop_canonical _ _ hs
  | watchWriteback _ _ => exact execWatchWriteback_canonical _ _ _ hs
  | biPullTimer _ => exact execBiPullTimer_canonical _ _ hs
  | bisnpResponse _ _ => exact execBisnpResponse_canonical _ _ _ hs
  | stepRequestTake _ _ => exact execStepRequestTake_canonical _ _ _ hs
  | hostStallBegin => exact execHostStallBegin_canonical _ hs
  | hostStallEnd => exact execHostStallEnd_canonical _ hs
  | hostMemRead _ _ _ => exact execHostMemRead_canonical _ _ _ _ hs
  | hostMemWrite _ _ _ => exact execHostMemWrite_canonical _ _ _ _ hs
  | hdmCommit _ _ _ _ => exact execHdmCommit_canonical _ _ _ _ _ hs
  | codecJobTake ch entry => exact execCodecJobTake_canonical ch entry _ hs
  | encode _ _ => exact execEncode_canonical _ _ _ hs
  | encodeRingSpace _ => exact execEncodeRingSpace_canonical _ _ hs
  | codecDecode _ _ => exact execCodecDecode_canonical _ _ _ hs
  | analyse _ => exact execAnalyse_canonical _ _ hs
  | decodeCap _ => exact execDecodeCap_canonical _ _ hs
  | codecJobEnd _ => exact execCodecJobEnd_canonical _ _ hs
  | codecRecord _ => exact execCodecRecord_canonical _ _ hs
  | calibrationEnd _ _ => exact execCalibrationEnd_canonical _ _ _ hs
  | pipeRecover _ _ => exact execPipeRecover_canonical _ _ _ hs
  | pipeResume _ _ => exact execPipeResume_canonical _ _ _ hs
  | chanEnable _ _ => exact execChanEnable_canonical _ _ _ hs
  | chanDisable _ _ => exact execChanDisable_canonical _ _ _ hs
  | windowRead _ => exact execWindowRead_canonical _ _ hs
  | windowWrite _ _ => exact execWindowWrite_canonical _ _ _ hs
  | dictionaryRead _ _ _ _ => exact execDictionaryRead_canonical _ _ _ _ _ hs
  | dictionaryWrite _ _ _ _ _ => exact execDictionaryWrite_canonical _ _ _ _ _ _ hs
  | routeWrite _ _ _ _ => exact execRouteWrite_canonical _ _ _ _ _ hs
  | routeRead _ _ _ _ => exact execRouteRead_canonical _ _ _ _ _ hs
  | registerWrite _ _ _ _ => exact execRegisterWrite_canonical _ _ _ _ _ hs
  | describeTarget _ _ => exact execDescribeTarget_canonical _ _ _ hs
  | deviceEnable _ _ => exact execDeviceEnable_canonical _ _ _ hs
  | deviceDisable _ => exact execDeviceDisable_canonical _ _ hs
  | disableComplete => exact execDisableComplete_canonical _ hs
  | powerEnvelope _ _ => exact execPowerEnvelope_canonical _ _ _ hs
  | slotEnable _ _ => exact execSlotEnable_canonical _ _ _ hs
  | slotDisable _ _ => exact execSlotDisable_canonical _ _ _ hs
  | imageLoadComplete _ _ => exact execImageLoadComplete_canonical _ _ _ hs
  | clientEnable _ _ => exact execClientEnable_canonical _ _ _ hs
  | clientDisable _ _ => exact execClientDisable_canonical _ _ _ hs
  | overlayApply _ _ => exact execOverlayApply_canonical _ _ _ hs
  | overlayRemove _ _ => exact execOverlayRemove_canonical _ _ _ hs
  | collReset _ _ => exact execCollReset_canonical _ _ _ hs
  | traceArm _ _ => exact execTraceArm_canonical _ _ _ hs
  | traceTrigger _ _ => exact execTraceTrigger_canonical _ _ _ hs
  | markWrite _ _ => exact execMarkWrite_canonical _ _ _ hs
  | sheetCapture _ => exact execSheetCapture_canonical _ _ hs
  | stopArm _ _ => exact execStopArm_canonical _ _ _ hs
  | stopReleaseResume _ _ => exact execStopReleaseResume_canonical _ _ _ hs
  | stopReleaseFail _ _ => exact execStopReleaseFail_canonical _ _ _ hs
  | bpResume _ _ => exact execBpResume_canonical _ _ _ hs
  | bpSingleStep _ _ => exact execBpSingleStep_canonical _ _ _ hs
  | loupeRead _ _ => exact execLoupeRead_canonical _ _ _ hs
  | wakeCauseRead _ => exact execWakeCauseRead_canonical _ _ hs
  | stripRequest _ _ => exact execStripRequest_canonical _ _ _ hs
  | engineRun _ _ => exact execEngineRun_canonical _ _ _ hs
  | stripRound => exact execStripRound_canonical _ hs
  | stripEnd _ _ _ => exact execStripEnd_canonical _ _ _ _ hs
  | warmReset _ => exact execWarmReset_canonical _ _ hs
  | coldReset _ => exact execColdReset_canonical _ _ hs
  | sleep _ => exact execSleep_canonical _ _ hs
  | powerUp _ _ _ _ => exact execPowerUp_canonical _ _ _ _ _ hs
  | perstAssert => exact execPerstAssert_canonical _ hs
  | perstDeassert => exact execPerstDeassert_canonical _ hs
  | auxRailLoss => exact execAuxRailLoss_canonical _ hs
  | inputLoss => exact execInputLoss_canonical _ hs
  | cxlHotReset => exact execCxlHotReset_canonical _ hs
  | flr => exact execFlr_canonical _ hs
  | fabricHotReset _ _ => exact execFabricHotReset_canonical _ _ _ hs
  | comparatorTrip _ => exact execComparatorTrip_canonical _ _ hs
  | fenceRequest _ _ => exact execFenceRequest_canonical _ _ _ hs
  | fenceClear _ _ => exact execFenceClear_canonical _ _ _ hs
  | lockstepMismatch _ => exact execLockstepMismatch_canonical _ _ hs
  | commitVersion _ => exact execCommitVersion_canonical _ _ hs
  | fwImage _ _ => exact execFwImage_canonical _ _ _ hs
  | pldmFirmwareUpdate _ => exact execPldmFirmwareUpdate_canonical _ _ hs
  | lcTransition _ _ => exact execLcTransition_canonical _ _ _ hs
  | setTime _ _ => exact execSetTime_canonical _ _ _ hs
  | retainRegions _ _ => exact execRetainRegions_canonical _ _ _ hs
  | getVersion _ _ => exact execGetVersion_canonical _ _ _ hs
  | getCapabilities _ => exact execGetCapabilities_canonical _ _ hs
  | getCertificate _ _ _ _ => exact execGetCertificate_canonical _ _ _ _ _ hs
  | challenge _ _ => exact execChallenge_canonical _ _ _ hs
  | getMeasurements _ _ _ => exact execGetMeasurements_canonical _ _ _ _ hs
  | keyExchange _ _ _ => exact execKeyExchange_canonical _ _ _ _ hs
  | finish _ _ _ => exact execFinish_canonical _ _ _ _ hs
  | heartbeat _ => exact execHeartbeat_canonical _ _ hs
  | sessionTimeout _ => exact execSessionTimeout_canonical _ _ hs
  | ideKeyProgram _ _ _ => exact execIdeKeyProgram_canonical _ _ _ _ hs
  | ptmRequest => exact execPtmRequest_canonical _ hs
  | ptmResponse _ _ _ _ => exact execPtmResponse_canonical _ _ _ _ _ hs
  | timerefPps => exact execTimerefPps_canonical _ hs
  | holdoverTimeout => exact execHoldoverTimeout_canonical _ hs
  | leaseRenewal => exact execLeaseRenewal_canonical _ hs
  | tokenRenewal _ _ _ => exact execTokenRenewal_canonical _ _ _ _ hs
  | tokenClaim _ _ _ => exact execTokenClaim_canonical _ _ _ _ hs
  | tokenExpiry _ => exact execTokenExpiry_canonical _ _ hs
  | renewalAck _ => exact execRenewalAck_canonical _ _ hs
  | conductorStepDown => exact execConductorStepDown_canonical _ hs
  | claimTimeout _ => exact execClaimTimeout_canonical _ _ hs
  | claimGrant _ _ => exact execClaimGrant_canonical _ _ _ hs
  | fence _ => exact execFence_canonical _ _ hs
  | inertTimeout _ => exact execInertTimeout_canonical _ _ hs
  | segmentLost => exact execSegmentLost_canonical _ hs
  | counterFold => exact execCounterFold_canonical _ hs
  | filmstripWrap _ => exact execFilmstripWrap_canonical _ _ hs
  | traceDrain _ => exact execTraceDrain_canonical _ _ hs
  | coolantSample _ _ => exact execCoolantSample_canonical _ _ _ hs
  | p0LinkUp _ _ _ => exact execP0LinkUp_canonical _ _ _ _ hs
  | p0LinkDown => exact execP0LinkDown_canonical _ hs
  | fabricPortLeavesService _ => exact execFabricPortLeavesService_canonical _ _ hs
  | ringCrossingLost _ => exact execRingCrossingLost_canonical _ _ hs
  | ringCrossingRecovered _ => exact execRingCrossingRecovered_canonical _ _ hs
  | grantRelease _ _ _ => exact execGrantRelease_canonical _ _ _ _ hs
  | hdmDecommit _ => exact execHdmDecommit_canonical _ _ hs
  | pidAssign _ _ => exact execPidAssign_canonical _ _ _ hs

theorem State.idle_wf {s : State} (hs : s.dram.wf = true) : s.idle.dram.wf = true := by
  unfold State.idle
  dsimp only
  (repeat' split) <;> simp [hs]

theorem step_canonical {s : State} (hs : s.dram.wf = true) : Canonical (step s) := by
  unfold step
  split
  next c rest _ => exact exec_canonical c hs
  · exact (canonical_next _).2 (State.idle_wf hs)

/-- Settles O60: four operations store to the stacks' memory, each keeps its canonical form, and every command reaches the memory through
them alone. -/
theorem stepKeepsMemoryCanonical : Obligations.StepKeepsMemoryCanonical := fun _ t hs ht => step_canonical hs t ht

end Sys2Proof.Machine
end

section
/-! SUPPORT. What the instructions that issue leave: each is the issue's own state with the instruction's effect on it. -/

namespace Sys2Proof.Machine

/-- An instruction whose effect is nothing leaves what its issue leaves. -/
theorem State.issue_control {s : State} {c u : Nat} {i : Engine} {a : Act} {tok : Nat} (occ : Nat) (h : Issues s c u i a tok)
    (hov : NoOverflow s a.pc i) :
    Issued s (s.issue c u i fun _ _ => Meaning.control occ) i a ⟨occ, occ, some occ, none, 0⟩ := by
  obtain ⟨t, ht, eq⟩ := State.issue_spec (fun _ _ => Meaning.control occ) h hov rfl rfl rfl
  rw [eq]
  exact ht

/-- An engine instruction whose shape holds leaves its effect on what its issue leaves. -/
theorem State.issue_arith {s : State} {c u : Nat} {i : Engine} {a : Act} {tok : Nat} (ok : State → Act → Bool)
    (f : Act → State → State) (h : Issues s c u i a tok) (hov : NoOverflow s a.pc i) (hs : s.shapeAt a i = none) (hok : ok s a = true) :
    ∃ t, Issued s t i a ((s.core a.pc).sq.prog.timing (s.compat a.pc) i) ∧
      s.issue c u i (fun s a => s.arith a i (ok s a) (f a)) = f a t :=
  State.issue_spec (fun s a => s.arith a i (ok s a) (f a)) h hov hs hok rfl

/-- A transfer issues at once. -/
theorem State.issue_transfer {s : State} {c u : Nat} {i : Engine} {a : Act} {tok : Nat} (tm : State → Act → Timing)
    (f : State → Act → State → State) (h : Issues s c u i a tok) (hov : NoOverflow s a.pc i) :
    ∃ t, Issued s t i a (tm s a) ∧ s.issue c u i (fun s a => ⟨none, [], true, true, tm s a, f s a⟩) = f s a t :=
  State.issue_spec (fun s a => ⟨none, [], true, true, tm s a, f s a⟩) h hov rfl rfl rfl

/-- Settles O1: a control instruction has no effect beyond its issue. -/
theorem controlInstructionsIssue : Obligations.ControlInstructionsIssue := by
  unfold Obligations.ControlInstructionsIssue
  intro s c u h a tok
  refine ⟨?_, ?_, ?_, ?_, ?_, ?_⟩
  · exact fun hi ho => ⟨_, rfl, State.issue_control 1 hi ho⟩
  · exact fun hi ho => ⟨_, rfl, State.issue_control 1 hi ho⟩
  · exact fun _ _ hi ho => ⟨_, rfl, State.issue_control 1 hi ho⟩
  · exact fun _ hi ho => ⟨_, rfl, State.issue_control 3 hi ho⟩
  · exact fun _ _ hi ho => ⟨_, rfl, State.issue_control 0 hi ho⟩
  · exact fun hi ho => ⟨_, rfl, State.issue_control 0 hi ho⟩

/-- Settles O4: the two row instructions are engine instructions, their effects `mmfEffect` and `vrowEffect`. -/
theorem rowInstructionsComplete : Obligations.RowInstructionsComplete := by
  unfold Obligations.RowInstructionsComplete
  intro s c h a tok
  constructor
  · intro f hi ho hs
    obtain ⟨t, ht, eq⟩ := State.issue_arith (fun _ _ => true) (fun a s => s.mmfEffect a f) hi ho hs rfl
    exact ⟨t, congrArg Host.Outcome.next eq, ht⟩
  · intro f hi ho hs
    obtain ⟨t, ht, eq⟩ := State.issue_arith (fun _ _ => true) (fun a s => s.vrowEffect a f) hi ho hs rfl
    exact ⟨t, congrArg Host.Outcome.next eq, ht⟩

/-- Settles O8: the vector instructions are engine instructions, their effects `vcvtEffect`, `sfnEffect` and `sfmEffect`. -/
theorem wideVectorFormsComplete : Obligations.WideVectorFormsComplete := by
  unfold Obligations.WideVectorFormsComplete
  intro s c h a tok
  refine ⟨?_, ?_, ?_⟩
  · intro f hi ho hs
    obtain ⟨t, ht, eq⟩ := State.issue_arith (fun _ _ => true) (fun a s => s.vcvtEffect a f) hi ho hs rfl
    exact ⟨t, congrArg Host.Outcome.next eq, ht⟩
  · intro f hi ho hs swap
    obtain ⟨t, ht, eq⟩ := State.issue_arith (fun s a => s.swapReady a.pc f) (fun a s => s.sfnEffect a f) hi ho hs swap
    exact ⟨t, congrArg Host.Outcome.next eq, ht⟩
  · intro f hi ho hs
    obtain ⟨t, ht, eq⟩ := State.issue_arith (fun _ _ => true) (fun a s => s.sfmEffect a f) hi ho hs rfl
    exact ⟨t, congrArg Host.Outcome.next eq, ht⟩

/-- An LDP of `n` rows occupies its unit for the rows and for one granule of their codes each 32. -/
def ldpTiming (n : Nat) : Timing := ⟨n + n / 32, n + n / 32, none, none, n + n / 32⟩

/-- Settles O11: a transfer issues at once, whatever its region, and its effect is the model's transfer. -/
theorem transfersComplete : Obligations.TransfersComplete := by
  unfold Obligations.TransfersComplete
  intro s c h a tok
  refine ⟨?_, ?_, ?_⟩
  · intro desc hi ho
    obtain ⟨t, ht, eq⟩ := State.issue_transfer (fun s a => transferTiming (s.isLocal a (s.descAt a desc)) (s.descAt a desc).granules)
      (fun s a t => t.loadEffect a (s.descAt a desc)) hi ho
    exact ⟨t, congrArg Host.Outcome.next eq, ht⟩
  · intro desc hi ho
    obtain ⟨t, ht, eq⟩ := State.issue_transfer (fun s a => transferTiming (s.isLocal a (s.descAt a desc)) (s.descAt a desc).granules)
      (fun s a t => t.storeEffect a (s.descAt a desc)) hi ho
    exact ⟨t, congrArg Host.Outcome.next eq, ht⟩
  · intro f hi ho n
    obtain ⟨t, ht, eq⟩ := State.issue_transfer (fun s a => ldpTiming (s.descAt a f.descData).rows.toNat) (fun _ a t => t.ldpEffect a f) hi ho
    exact ⟨t, congrArg Host.Outcome.next eq, ht⟩

end Sys2Proof.Machine
end

section
/-! SUPPORT. Stores of an engine to the memories of its core: where every word is sound a store writes its bytes, and nothing but the
memory stored to changes. -/

namespace Sys2Proof.Machine

theorem State.localRam_two (s : State) (pc : Nat) {sp : Nat} (h0 : sp ≠ 0) (h1 : sp ≠ 1) : s.localRam pc sp = (s.core pc).acc := by
  unfold State.localRam
  split
  · exact absurd rfl h0
  · exact absurd rfl h1
  · rfl

/-- The numbers of the operand buffer, of the cluster buffer and, for every other, of the accumulator. -/
theorem space_cases (sp : Nat) : sp = 0 ∨ sp = 1 ∨ (sp ≠ 0 ∧ sp ≠ 1) := by omega

/-- State `t` differs from `s` in the contents of space `sp` of core `pc` alone. -/
structure Stores (s t : State) (pc sp : Nat) : Prop where
  rest : t = { s with cores := t.cores, clusters := t.clusters }
  clusters : sp ≠ 1 → t.clusters = s.clusters
  core : ∀ k, t.core k = { s.core k with opnd := (t.core k).opnd, acc := (t.core k).acc }
  cluster : ∀ k, t.cluster k = { s.cluster k with buf := (t.cluster k).buf }
  opnd : ∀ k, (k ≠ pc ∨ sp ≠ 0) → (t.core k).opnd = (s.core k).opnd
  acc : ∀ k, (k ≠ pc ∨ sp < 2) → (t.core k).acc = (s.core k).acc
  buf : ∀ k, (k ≠ clusterOfPhys pc ∨ sp ≠ 1) → (t.cluster k).buf = (s.cluster k).buf

theorem Stores.refl (s : State) (pc sp : Nat) : Stores s s pc sp :=
  ⟨rfl, fun _ => rfl, fun _ => rfl, fun _ => rfl, fun _ _ => rfl, fun _ _ => rfl, fun _ _ => rfl⟩

theorem Stores.trans {s t u : State} {pc sp : Nat} (h : Stores s t pc sp) (g : Stores t u pc sp) : Stores s u pc sp where
  rest := by
    have hg := g.rest
    rw [h.rest] at hg
    exact hg
  clusters n := (g.clusters n).trans (h.clusters n)
  core k := by
    have hg := g.core k
    rw [h.core k] at hg
    exact hg
  cluster k := by
    have hg := g.cluster k
    rw [h.cluster k] at hg
    exact hg
  opnd k n := (g.opnd k n).trans (h.opnd k n)
  acc k n := (g.acc k n).trans (h.acc k n)
  buf k n := (g.buf k n).trans (h.buf k n)

theorem Stores.dram {s t : State} {pc sp : Nat} (h : Stores s t pc sp) : t.dram = s.dram := by rw [h.rest]

theorem Stores.otherMemory {s t : State} {pc sp : Nat} (h : Stores s t pc sp) : OtherMemory s t pc sp :=
  ⟨h.opnd, h.acc, h.buf, h.dram⟩

/-- The other spaces of the core are as before. -/
theorem Stores.localRam {s t : State} {pc sp x : Nat} (h : Stores s t pc sp) (hx : min x 2 ≠ min sp 2) : t.localRam pc x = s.localRam pc x := by
  rcases space_cases x with rfl | rfl | ⟨h0, h1⟩
  · exact h.opnd pc (.inr (by omega))
  · exact h.buf _ (.inr (by omega))
  · rw [State.localRam_two _ _ h0 h1, State.localRam_two _ _ h0 h1]
    exact h.acc pc (.inr (by omega))

theorem Stores.sq {s t : State} {pc sp : Nat} (h : Stores s t pc sp) (k : Nat) : (t.core k).sq = (s.core k).sq := by rw [h.core]

theorem State.modCore_opnd (s : State) (pc : Nat) (r : Ram) (k : Nat) : (s.modCore pc fun c => { c with opnd := r }).core k =
    { s.core k with opnd := if k = pc then r else (s.core k).opnd } := by
  rw [State.core_modCore]
  split
  next h => rw [h]
  · rfl

theorem State.modCore_acc (s : State) (pc : Nat) (r : Ram) (k : Nat) : (s.modCore pc fun c => { c with acc := r }).core k =
    { s.core k with acc := if k = pc then r else (s.core k).acc } := by
  rw [State.core_modCore]
  split
  next h => rw [h]
  · rfl

theorem State.modCluster_buf (s : State) (n : Nat) (r : Ram) (k : Nat) : (s.modCluster n fun c => { c with buf := r }).cluster k =
    { s.cluster k with buf := if k = n then r else (s.cluster k).buf } := by
  rw [State.cluster_modCluster]
  split
  next h => rw [h]
  · rfl

/-- Setting the contents of a space changes that space alone. -/
theorem State.setLocalRam_stores (s : State) (pc sp : Nat) (r : Ram) : Stores s (s.setLocalRam pc sp r) pc sp := by
  unfold State.setLocalRam
  split
  · exact ⟨rfl, fun _ => rfl, fun k => by rw [State.modCore_opnd], fun _ => rfl,
      fun k n => by rw [State.modCore_opnd, if_neg (by omega)], fun k _ => by rw [State.modCore_opnd], fun _ _ => rfl⟩
  · exact ⟨rfl, fun n => absurd rfl n, fun _ => rfl, fun k => by rw [State.modCluster_buf], fun _ _ => rfl, fun _ _ => rfl,
      fun k n => by rw [State.modCluster_buf, if_neg (by omega)]⟩
  next h0 h1 =>
    have h2 : ¬ sp < 2 := fun h => by
      obtain rfl | rfl : sp = 0 ∨ sp = 1 := by omega
      exacts [h0 rfl, h1 rfl]
    exact ⟨rfl, fun _ => rfl, fun k => by rw [State.modCore_acc], fun _ => rfl, fun k _ => by rw [State.modCore_acc],
      fun k n => by rw [State.modCore_acc, if_neg (by omega)], fun _ _ => rfl⟩

theorem State.localRam_setLocalRam (s : State) (pc sp : Nat) (r : Ram) : (s.setLocalRam pc sp r).localRam pc sp = r := by
  rcases space_cases sp with rfl | rfl | ⟨h0, h1⟩
  · simp [State.setLocalRam, State.localRam]
  · simp [State.setLocalRam, State.localRam]
  · simp [State.setLocalRam, State.localRam_two _ _ h0 h1]

theorem Ram.Sound.mergeErrs {r : Ram} (h : r.Sound) (a n : Nat) : r.mergeErrs a n = (0, 0) := by
  simp [Ram.mergeErrs, h.checkWord]

theorem State.merging_sound {s : State} {pc sp : Nat} (h : (s.localRam pc sp).Sound) (a n : Nat) : s.merging pc sp a n = s := by
  simp [State.merging, h.mergeErrs, State.corrected, State.count]

theorem State.writeLocal_sound {s : State} {pc sp : Nat} (h : (s.localRam pc sp).Sound) (a : Nat) (d : List Byte) :
    s.writeLocal pc sp a d = s.setLocalRam pc sp ((s.localRam pc sp).write a d) := by
  rw [State.writeLocal, State.merging_sound h]

/-- Stores one after another to a sound space. -/
theorem State.writeLocal_foldl {α : Type} (pc sp : Nat) (at_ : α → Nat) (d : α → List Byte) (l : List α) : ∀ {s : State}, (s.localRam pc sp).Sound →
    let t := l.foldl (fun s x => s.writeLocal pc sp (at_ x) (d x)) s
    Stores s t pc sp ∧ t.localRam pc sp = l.foldl (fun r x => r.write (at_ x) (d x)) (s.localRam pc sp) := by
  induction l with
  | nil => exact fun _ => ⟨Stores.refl .., rfl⟩
  | cons x l ih =>
    intro s h
    have hr : (s.writeLocal pc sp (at_ x) (d x)).localRam pc sp = (s.localRam pc sp).write (at_ x) (d x) := by
      rw [State.writeLocal_sound h, State.localRam_setLocalRam]
    have hs : Stores s (s.writeLocal pc sp (at_ x) (d x)) pc sp := by
      rw [State.writeLocal_sound h]
      exact State.setLocalRam_stores ..
    obtain ⟨h1, h2⟩ := ih (s := s.writeLocal pc sp (at_ x) (d x)) (by rw [hr]; exact (Ram.write_sound h _ _).1)
    exact ⟨hs.trans h1, h2.trans (by rw [hr]; rfl)⟩

end Sys2Proof.Machine
end

section
/-! SUPPORT. What the engines read and the rows they write: tiles read from sound memories are clean, and rows written to the accumulator
stand as `HoldsRows` says. -/

namespace Sys2Proof.Machine

@[simp] theorem length_leBytes (k n : Nat) : (leBytes k n).length = k := by
  induction k generalizing n with
  | zero => rfl
  | succ k ih => simp [leBytes, ih]

theorem length_packBits (w : Nat) (es : List Nat) : (packBits w es).length = (es.length * w + 7) / 8 := length_leBytes ..

theorem length_packBits_32 (es : List Nat) : (packBits 32 es).length = 4 * es.length := by
  rw [length_packBits]
  omega

theorem zipIdx_eq_map_range {α : Type} (l : List α) (d : α) : l.zipIdx = (List.range l.length).map fun i => (l.getD i d, i) := by
  refine List.ext_getElem (by simp) fun i h1 h2 => ?_
  simp only [List.length_map, List.length_range] at h2
  simp [List.getElem?_eq_getElem h2]

/-! ### Reads -/

/-- A list of checked reads that found no error. -/
def CleanReads (l : List (Nat × Fetched)) : Prop := ∀ x ∈ l, x.2.ce = [] ∧ x.2.ue = []

theorem CleanReads.nil : CleanReads [] := by simp [CleanReads]

theorem CleanReads.append {l m : List (Nat × Fetched)} (hl : CleanReads l) (hm : CleanReads m) : CleanReads (l ++ m) :=
  fun x hx => (List.mem_append.1 hx).elim (hl x) (hm x)

theorem CleanReads.ite {l m : List (Nat × Fetched)} (c : Prop) [Decidable c] (hl : CleanReads l) (hm : CleanReads m) :
    CleanReads (if c then l else m) := by
  split
  · exact hl
  · exact hm

theorem CleanReads.newReads {l : List (Nat × Fetched)} (h : CleanReads l) (sp : Nat) (old : List Nat) : CleanReads (newReads sp old l) := by
  unfold Machine.newReads
  split
  · exact h
  · intro x hx
    obtain ⟨y, hy, rfl⟩ := List.mem_map.1 hx
    obtain ⟨hc, hu⟩ := h y hy
    split
    · simp [hc, hu]
    · exact ⟨hc, hu⟩

theorem Ram.Sound.fetch_clean {r : Ram} (h : r.Sound) (a n : Nat) : (r.fetch a n).ce = [] ∧ (r.fetch a n).ue = [] :=
  ⟨h.fetch_ce a n, h.fetch_ue a n⟩

theorem State.Clean.sound {s : State} {pc : Nat} (h : s.Clean pc) (sp : Nat) : (s.localRam pc sp).Sound := h sp

theorem State.Clean.opnd {s : State} {pc : Nat} (h : s.Clean pc) : (s.core pc).opnd.Sound := h 0

theorem State.Clean.acc {s : State} {pc : Nat} (h : s.Clean pc) : (s.core pc).acc.Sound := h 2

/-- A tile read from sound memories has found no error. -/
theorem State.Clean.readTile {s : State} {pc : Nat} (h : s.Clean pc) (d : Desc) (loops : List Frame) (j : Nat) :
    CleanReads (s.readTile pc d loops j).reads := by
  intro x hx
  simp only [State.readTile, List.mem_cons, List.not_mem_nil, or_false] at hx
  obtain rfl | rfl | rfl := hx
  · exact (h.sound _).fetch_clean ..
  · dsimp only
    split
    · exact ⟨rfl, rfl⟩
    · exact h.opnd.fetch_clean ..
  · dsimp only
    split
    · exact h.opnd.fetch_clean ..
    · exact ⟨rfl, rfl⟩

theorem State.Clean.accReads {s : State} {pc : Nat} (h : s.Clean pc) (bank row m n : Nat) : CleanReads (s.accReads pc bank row m n) := by
  intro x hx
  obtain ⟨r, _, rfl⟩ := List.mem_map.1 hx
  exact h.acc.fetch_clean ..

theorem State.checked_cleanReads (s : State) (a : Act) {l : List (Nat × Fetched)} (h : CleanReads l) : s.checked a l = (s, true) :=
  s.checked_clean a l h

/-- A tile is what its core's memories hold. -/
theorem State.readTile_congr {s t : State} {pc : Nat} (h : ∀ sp, t.localRam pc sp = s.localRam pc sp) (d : Desc) (loops : List Frame)
    (j : Nat) : t.readTile pc d loops j = s.readTile pc d loops j := by
  have h0 : (t.core pc).opnd = (s.core pc).opnd := h 0
  simp only [State.readTile, h, h0]

theorem Issued.localRam {s t : State} {i : Engine} {a : Act} {tm : Timing} (h : Issued s t i a tm) (pc sp : Nat) :
    t.localRam pc sp = s.localRam pc sp := by
  rcases space_cases sp with rfl | rfl | ⟨h0, h1⟩
  · exact h.opnd pc
  · exact h.buf _
  · rw [State.localRam_two _ _ h0 h1, State.localRam_two _ _ h0 h1]
    exact h.acc pc

theorem Issued.readTile {s t : State} {i : Engine} {a : Act} {tm : Timing} (h : Issued s t i a tm) (pc : Nat) (d : Desc) (loops : List Frame)
    (j : Nat) : t.readTile pc d loops j = s.readTile pc d loops j := State.readTile_congr (h.localRam pc) d loops j

theorem Issued.clean {s t : State} {i : Engine} {a : Act} {tm : Timing} (h : Issued s t i a tm) {pc : Nat} (hc : s.Clean pc) : t.Clean pc := by
  intro sp w
  rw [h.localRam]
  exact hc sp w

theorem Issued.sameMemory {s t : State} {i : Engine} {a : Act} {tm : Timing} (h : Issued s t i a tm) : SameMemory s t :=
  ⟨fun k => ⟨h.opnd k, h.acc k⟩, h.buf, h.dram⟩

/-- What follows on memories that are as before changes them as it says. -/
theorem SameMemory.otherMemory {s t u : State} {pc sp : Nat} (h : SameMemory s t) (g : OtherMemory t u pc sp) : OtherMemory s u pc sp := by
  obtain ⟨hc, hb, hd⟩ := h
  obtain ⟨go, ga, gb, gd⟩ := g
  exact ⟨fun k n => (go k n).trans (hc k).1, fun k n => (ga k n).trans (hc k).2, fun k n => (gb k n).trans (hb k), gd.trans hd⟩

/-! ### Rows of the accumulator -/

theorem accAddr_add (bank row i : Nat) : accAddr bank (row + i) 0 = accAddr bank row 0 + i * 512 := by
  unfold accAddr
  ring

/-- Rows of at most 128 values written to the accumulator. -/
theorem State.writeAccRows_spec {s : State} {pc : Nat} (h : (s.core pc).acc.Sound) (bank row : Nat) {rows : List (List Nat)}
    (hl : ∀ r ∈ rows, r.length ≤ 128) :
    Stores s (s.writeAccRows pc bank row rows) pc 2 ∧ ((s.writeAccRows pc bank row rows).core pc).acc.Sound ∧
      HoldsRows (s.core pc).acc ((s.writeAccRows pc bank row rows).core pc).acc (accAddr bank row 0) 512 rows.length
        fun i => packBits 32 (rows.getD i []) := by
  obtain ⟨hs, hr⟩ := State.writeLocal_foldl pc 2 (fun x : List Nat × Nat => accAddr bank (row + x.2) 0) (fun x => packBits 32 x.1)
    rows.zipIdx (s := s) h
  have hp : ∀ i, (packBits 32 (rows.getD i [])).length ≤ 512 := by
    intro i
    rw [length_packBits_32]
    rcases lt_or_ge i rows.length with hi | hi
    · have := hl _ (List.getElem_mem hi)
      rw [List.getD_eq_getElem _ _ hi]
      omega
    · rw [List.getD_eq_default _ _ hi]
      simp
  have hw := Ram.write_rows (accAddr bank row 0) 512 (fun i => packBits 32 (rows.getD i [])) hp rows.length h
  have eq : ((s.writeAccRows pc bank row rows).core pc).acc = (List.range rows.length).foldl
      (fun r i => r.write (accAddr bank row 0 + i * 512) (packBits 32 (rows.getD i []))) (s.core pc).acc := by
    refine Eq.trans hr ?_
    rw [zipIdx_eq_map_range rows [], List.foldl_map]
    simp only [accAddr_add]
    rfl
  rw [eq]
  exact ⟨hs, hw⟩

theorem length_product (a b : Tile) (init : Nat → Nat → Nat) : (product a b init).length = a.rows.length := by simp [product]

theorem length_of_mem_product {a b : Tile} {init : Nat → Nat → Nat} {r : List Nat} (h : r ∈ product a b init) : r.length = b.rows.length := by
  obtain ⟨i, _, rfl⟩ := List.mem_map.1 h
  simp

theorem State.readTile_rows_length (s : State) (pc : Nat) (d : Desc) (loops : List Frame) (j : Nat) :
    (s.readTile pc d loops j).rows.length = d.rows.toNat := by simp [State.readTile]

end Sys2Proof.Machine
end

section
/-! SUPPORT. The matrix engine on sound memories: a problem writes its product to its rows of the accumulator. -/

namespace Sys2Proof.Machine

theorem firstFail_none {l : List (Bool × Nat)} (h : firstFail l = none) : ∀ x ∈ l, x.1 = false := by
  intro x hx
  have := List.find?_eq_none.1 (Option.map_eq_none_iff.1 h) x hx
  simpa using this

/-- What a problem starts from (R198): the accumulator's row, the row of C, or zero. -/
def State.matStart (s : State) (a : Act) (p : MmaFields) (j row init r c : Nat) : Nat :=
  match init with
  | 1 => (s.accRow a.pc p.accBank.toNat (row + r) (s.readTile a.pc ((s.core a.pc).sq.prog.desc p.descB.toNat) a.loops j).rows.length).getD c 0
  | 2 => ((s.readTile a.pc ((s.core a.pc).sq.prog.desc p.descC.toNat) a.loops j).rows.getD r []).getD c 0
  | _ => 0

/-- The product of problem `j` with what it starts from. -/
def State.matProduct (s : State) (a : Act) (p : MmaFields) (j row init : Nat) : List (List Nat) :=
  product (s.readTile a.pc ((s.core a.pc).sq.prog.desc p.descA.toNat) a.loops j)
    (s.readTile a.pc ((s.core a.pc).sq.prog.desc p.descB.toNat) a.loops j) (s.matStart a p j row init)

theorem State.matProblem_clean {s : State} {a : Act} (h : s.Clean a.pc) (p : MmaFields) (j row init : Nat) :
    s.matProblem a p j row init = (s.writeAccRows a.pc p.accBank.toNat row (s.matProduct a p j row init), true) := by
  have hr := fun d => h.readTile d a.loops j
  have reads := ((((hr ((s.core a.pc).sq.prog.desc p.descA.toNat)).newReads
      ((s.core a.pc).sq.prog.desc p.descA.toNat).localSpace.toNat (s.fetchedA a p j)).append
    (hr ((s.core a.pc).sq.prog.desc p.descB.toNat))).append
    (CleanReads.ite (init = 2) (hr ((s.core a.pc).sq.prog.desc p.descC.toNat)) .nil)).append
    (CleanReads.ite (init = 1) (h.accReads p.accBank.toNat row
      (s.readTile a.pc ((s.core a.pc).sq.prog.desc p.descA.toNat) a.loops j).rows.length
      (s.readTile a.pc ((s.core a.pc).sq.prog.desc p.descB.toNat) a.loops j).rows.length) .nil)
  rw [State.matProblem]
  simp only [State.checked_cleanReads s a reads]
  rfl

/-- The rows of the two operands that a matrix instruction of sound shape has (Table 5-4, order 1). -/
theorem shapeMat_rows {q : Program} {banks : Nat} {wide mmab : Bool} {p : MmaFields} {b stride : Nat}
    (h : shapeMat q banks wide mmab p b stride = none) :
    (q.desc p.descA.toNat).rows.toNat ≤ 128 ∧ (q.desc p.descB.toNat).rows.toNat ≤ 128 := by
  have := firstFail_none h _ (List.mem_cons_self ..)
  simp only [outside, Bool.or_eq_false_iff, decide_eq_false_iff_not] at this
  omega

end Sys2Proof.Machine
end

section
/-! SUPPORT. MMA: one problem, its rows those of the bank. -/

namespace Sys2Proof.Machine

theorem State.matProblems_one {s : State} {a : Act} (h : s.Clean a.pc) (p : MmaFields) (stride : Nat) :
    s.matProblems a p 1 stride =
      s.writeAccRows a.pc p.accBank.toNat 0 (s.matProduct a p 0 0 (resolveInit p.init.toNat a.loops)) := by
  simp [State.matProblems, State.matProblem_clean h]

/-- After its issue an instruction sees the operands it saw before. -/
theorem Issued.matProduct {s t : State} {i : Engine} {a : Act} {tm : Timing} (h : Issued s t i a tm) (p : MmaFields) (j row init : Nat) :
    t.matProduct a p j row init = s.matProduct a p j row init := by
  have hacc : (t.core a.pc).acc = (s.core a.pc).acc := h.acc a.pc
  have hs : t.matStart a p j row init = s.matStart a p j row init := by
    funext r c
    simp only [State.matStart, h.prog, h.readTile, State.accRow, hacc]
  simp only [State.matProduct, h.prog, h.readTile, hs]

/-- Settles O2: on sound memories the one problem of an MMA writes the rows of its product and nothing else. -/
theorem mmaWritesItsProduct : Obligations.MmaWritesItsProduct := by
  unfold Obligations.MmaWritesItsProduct
  intro s c h f a tok hi ho hs hc q ta tb tc bank start
  obtain ⟨t0, ht, eq⟩ := State.issue_arith (fun _ _ => true) (fun a s => s.matProblems a f 1 0) hi ho hs rfl
  have hc0 := ht.clean hc
  rw [State.matProblems_one hc0, ht.matProduct] at eq
  have hrows : ∀ r ∈ s.matProduct a f 0 0 (resolveInit f.init.toNat a.loops), r.length ≤ 128 := by
    intro r hr
    rw [length_of_mem_product hr, State.readTile_rows_length]
    exact (shapeMat_rows hs).2
  obtain ⟨hst, -, hh⟩ := State.writeAccRows_spec hc0.acc f.accBank.toNat 0 hrows
  rw [ht.acc, State.matProduct, length_product] at hh
  have hstart : s.matStart a f 0 0 (resolveInit f.init.toNat a.loops) = start := by
    funext r k
    simp only [State.matStart, Nat.zero_add]
    rfl
  rw [hstart] at hh
  rw [State.matProduct, hstart] at eq hst
  refine ⟨t0, _, congrArg Host.Outcome.next eq, ht, ?_, ?_, hh, ht.sameMemory.otherMemory hst.otherMemory⟩
  · have := hst.rest
    rwa [hst.clusters (by decide)] at this
  · have := hst.core a.pc
    rwa [hst.opnd a.pc (.inr (by decide))] at this

end Sys2Proof.Machine
end

section
/-! SUPPORT. MMAB: problems done in turn, each in rows of its own. -/

namespace Sys2Proof.Machine

theorem Stores.clean {s t : State} {pc : Nat} (h : Stores s t pc 2) (hc : s.Clean pc) (ha : (t.core pc).acc.Sound) : t.Clean pc := by
  intro sp
  rcases space_cases sp with rfl | rfl | ⟨h0, h1⟩
  · rw [h.localRam (by decide)]
    exact hc 0
  · rw [h.localRam (by decide)]
    exact hc 1
  · rw [State.localRam_two _ _ h0 h1]
    exact ha

/-- A tile of the operand buffer is what the operand buffer holds. -/
theorem State.readTile_opnd {s t : State} {pc : Nat} (h : (t.core pc).opnd = (s.core pc).opnd) {d : Desc} (hd : d.localSpace = 0)
    (loops : List Frame) (j : Nat) : t.readTile pc d loops j = s.readTile pc d loops j := by
  have hr : t.localRam pc d.localSpace.toNat = s.localRam pc d.localSpace.toNat := by
    rw [hd]
    exact h
  simp only [State.readTile, h, hr]

/-- The operands of a matrix instruction of sound shape lie in the operand buffer (Table 5-4, orders 5 and 7). -/
theorem shapeMat_spaces {q : Program} {banks : Nat} {wide mmab : Bool} {p : MmaFields} {b stride : Nat}
    (h : shapeMat q banks wide mmab p b stride = none) :
    (q.desc p.descA.toNat).localSpace = 0 ∧ (q.desc p.descB.toNat).localSpace = 0 ∧
      (p.init = 2 → (q.desc p.descC.toNat).localSpace = 0) := by
  have spaces := firstFail_none h _ (List.mem_of_getElem? (i := 6) rfl)
  have badC := firstFail_none h _ (List.mem_of_getElem? (i := 4) rfl)
  simp only [Bool.or_eq_false_iff, bne_eq_false_iff_eq] at spaces
  refine ⟨spaces.1, spaces.2, fun hi => ?_⟩
  simp only [hi, BEq.rfl, Bool.true_and, Bool.or_eq_false_iff, bne_eq_false_iff_eq] at badC
  obtain ⟨-, -, hc⟩ := badC
  exact hc

/-- The problems of an MMAB that have rows of their own lie a stride of at least M rows apart (Table 5-4, order 4). -/
theorem shapeMat_stride {q : Program} {banks : Nat} {wide : Bool} {p : MmaFields} {b stride : Nat}
    (h : shapeMat q banks wide true p b stride = none) (hs : 0 < stride) : (q.desc p.descA.toNat).rows.toNat ≤ stride := by
  have := firstFail_none h _ (List.mem_of_getElem? (i := 3) rfl)
  simp only [hs, decide_true, Bool.true_and, Bool.or_eq_false_iff, decide_eq_false_iff_not] at this
  omega

/-- The product of a problem depends on the operand buffer and, where it goes on from the bank, on its rows there. -/
theorem State.matProduct_congr {s t : State} {a : Act} {p : MmaFields} {init : Nat} (hq : (t.core a.pc).sq.prog = (s.core a.pc).sq.prog)
    (ho : (t.core a.pc).opnd = (s.core a.pc).opnd) (hA : ((s.core a.pc).sq.prog.desc p.descA.toNat).localSpace = 0)
    (hB : ((s.core a.pc).sq.prog.desc p.descB.toNat).localSpace = 0)
    (hC : init = 2 → ((s.core a.pc).sq.prog.desc p.descC.toNat).localSpace = 0) (j row : Nat)
    (hr : ∀ r, r < ((s.core a.pc).sq.prog.desc p.descA.toNat).rows.toNat →
      t.accRow a.pc p.accBank.toNat (row + r) ((s.core a.pc).sq.prog.desc p.descB.toNat).rows.toNat =
        s.accRow a.pc p.accBank.toNat (row + r) ((s.core a.pc).sq.prog.desc p.descB.toNat).rows.toNat) :
    t.matProduct a p j row init = s.matProduct a p j row init := by
  rw [State.matProduct, State.matProduct, hq, State.readTile_opnd ho hA, State.readTile_opnd ho hB]
  refine List.map_congr_left fun r hrow => List.map_congr_left fun k _ => ?_
  have hr' : r < ((s.core a.pc).sq.prog.desc p.descA.toNat).rows.toNat := by
    rwa [List.mem_range, State.readTile_rows_length] at hrow
  have hs : t.matStart a p j row init r k = s.matStart a p j row init r k := by
    unfold State.matStart
    rw [hq, State.readTile_opnd ho hB]
    split
    · rw [State.readTile_rows_length, hr r hr']
    next h2 => rw [State.readTile_opnd ho (hC rfl)]
    · rfl
  rw [hs]

/-- A row of the accumulator in a sound memory is what its bytes say. -/
theorem State.accRow_congr {s t : State} {pc bank row n : Nat} (hs : (s.core pc).acc.Sound) (ht : (t.core pc).acc.Sound)
    (h : ∀ x, accAddr bank row 0 ≤ x → x < accAddr bank row 0 + 4 * n → (t.core pc).acc.read1 x = (s.core pc).acc.read1 x) :
    t.accRow pc bank row n = s.accRow pc bank row n := by
  rw [State.accRow, State.accRow, ht.fetch_bytes, hs.fetch_bytes]
  congr 1
  refine List.ext_getElem (by simp) fun i h1 h2 => ?_
  simp only [Ram.length_readRaw] at h1
  rw [Ram.getElem_readRaw, Ram.getElem_readRaw]
  exact h _ (by omega) (by omega)

/-- The place of a row among the rows of its problem. -/
theorem accAddr_row (bank stride j r : Nat) : accAddr bank (j * stride + r) 0 = accAddr bank 0 0 + (j * stride + r) * 512 := by
  simpa using accAddr_add bank 0 (j * stride + r)

/-- What the problems before the `k`th have left: their rows, and everything else as it was. -/
structure ProblemsDone (s t : State) (a : Act) (p : MmaFields) (stride init m n k : Nat) : Prop where
  stores : Stores s t a.pc 2
  sound : (t.core a.pc).acc.Sound
  rows : ∀ j r, j < k → r < m → (t.core a.pc).acc.readRaw (accAddr p.accBank.toNat (j * stride + r) 0) (4 * n) =
    packBits 32 ((s.matProduct a p j (j * stride) init).getD r [])
  others : ∀ x, (∀ j r, j < k → r < m → x < accAddr p.accBank.toNat (j * stride + r) 0 ∨
    accAddr p.accBank.toNat (j * stride + r) 0 + 4 * n ≤ x) → (t.core a.pc).acc.read1 x = (s.core a.pc).acc.read1 x

theorem ProblemsDone.zero {s : State} {a : Act} (hc : s.Clean a.pc) (p : MmaFields) (stride init m n : Nat) :
    ProblemsDone s s a p stride init m n 0 :=
  ⟨Stores.refl .., hc.acc, fun _ _ h => absurd h (Nat.not_lt_zero _), fun _ _ => rfl⟩

/-- A row of a problem lies before every row of a later one. -/
theorem row_lt_row {stride m j k r : Nat} (hm : stride = 0 ∨ m ≤ stride) (h0 : stride = 0 → k = 0) (hj : j < k) (hr : r < m) :
    j * stride + r < k * stride := by
  have hle : m ≤ stride := by
    rcases hm with h | h
    · exact absurd (h0 h) (by omega)
    · exact h
  have : (j + 1) * stride ≤ k * stride := Nat.mul_le_mul_right _ hj
  rw [Nat.add_mul] at this
  omega

theorem resolveInit_eq_two {init : BitVec 2} {loops : List Frame} (h : resolveInit init.toNat loops = 2) : init = 2 := by
  unfold resolveInit at h
  split at h
  · split at h <;> cases h
  · exact BitVec.eq_of_toNat_eq h

section
variable {s t : State} {a : Act} {p : MmaFields} {banks b stride k m n : Nat} {wide : Bool}

/-- The next problem finds the operands as they were and writes rows of its own. -/
theorem ProblemsDone.step (hc : s.Clean a.pc) (hsh : shapeMat (s.core a.pc).sq.prog banks wide true p b stride = none)
    (hm : m = ((s.core a.pc).sq.prog.desc p.descA.toNat).rows.toNat) (hn : n = ((s.core a.pc).sq.prog.desc p.descB.toNat).rows.toNat)
    (hk : stride = 0 → k = 0) (h : ProblemsDone s t a p stride (resolveInit p.init.toNat a.loops) m n k) :
    ∃ u, t.matProblem a p k (k * stride) (resolveInit p.init.toNat a.loops) = (u, true) ∧
      ProblemsDone s u a p stride (resolveInit p.init.toNat a.loops) m n (k + 1) := by
  obtain ⟨hst, hsound, hrows, hothers⟩ := h
  obtain ⟨hA, hB, hC⟩ := shapeMat_spaces hsh
  have hn128 : n ≤ 128 := hn ▸ (shapeMat_rows hsh).2
  have hms : stride = 0 ∨ m ≤ stride := by
    rcases Nat.eq_zero_or_pos stride with h | h
    · exact .inl h
    · exact .inr (hm ▸ shapeMat_stride hsh h)
  have apart : ∀ j r, j < k → r < m → j * stride + r < k * stride := fun j r hj hr => row_lt_row hms hk hj hr
  have own : ∀ r x, r < m → accAddr p.accBank.toNat (k * stride + r) 0 ≤ x → x < accAddr p.accBank.toNat (k * stride + r) 0 + 4 * n →
      (t.core a.pc).acc.read1 x = (s.core a.pc).acc.read1 x := by
    intro r x _ hx _
    refine hothers x fun j r' hj hr' => .inr ?_
    have := apart j r' hj hr'
    rw [accAddr_row] at hx ⊢
    omega
  have hprod : t.matProduct a p k (k * stride) (resolveInit p.init.toNat a.loops) =
      s.matProduct a p k (k * stride) (resolveInit p.init.toNat a.loops) := by
    refine State.matProduct_congr (by rw [hst.sq]) (hst.opnd a.pc (.inr (by decide))) hA hB (fun h2 => hC (resolveInit_eq_two h2)) _ _ ?_
    intro r hr
    exact State.accRow_congr hc.acc hsound fun x h1 h2 => own r x (hm ▸ hr) h1 (hn ▸ h2)
  have hlen : (s.matProduct a p k (k * stride) (resolveInit p.init.toNat a.loops)).length = m := by
    rw [State.matProduct, length_product, State.readTile_rows_length, hm]
  have hwidth : ∀ r ∈ s.matProduct a p k (k * stride) (resolveInit p.init.toNat a.loops), r.length = n := fun r hr => by
    rw [length_of_mem_product hr, State.readTile_rows_length, hn]
  obtain ⟨hst', hsound', hkept⟩ := State.writeAccRows_spec hsound p.accBank.toNat (k * stride) fun r hr => (hwidth r hr).trans_le hn128
  rw [hlen] at hkept
  obtain ⟨hnew, hold⟩ := hkept
  simp only [← accAddr_add] at hnew hold
  have width : ∀ r, r < m → (packBits 32 ((s.matProduct a p k (k * stride) (resolveInit p.init.toNat a.loops)).getD r [])).length = 4 * n := by
    intro r hr
    rw [length_packBits_32, List.getD_eq_getElem _ _ (by omega), hwidth _ (List.getElem_mem _)]
  refine ⟨_, by rw [State.matProblem_clean (hst.clean hc hsound), hprod], hst.trans hst', hsound', ?_, ?_⟩
  · intro j r hj hr
    rcases Nat.lt_succ_iff_lt_or_eq.1 hj with hj | rfl
    · rw [← hrows j r hj hr]
      refine List.ext_getElem (by simp) fun x h1 h2 => ?_
      rw [Ram.length_readRaw] at h1
      rw [Ram.getElem_readRaw, Ram.getElem_readRaw]
      refine hold _ fun i _ => .inl ?_
      have := apart j r hj hr
      rw [accAddr_row, accAddr_row _ _ k]
      omega
    · rw [← width r hr]
      exact hnew r hr
  · intro x hx
    rw [hold x fun i hi => (by rw [width i hi]; exact hx k i (Nat.lt_succ_self k) hi)]
    exact hothers x fun j r hj hr => hx j r (Nat.lt_succ_of_lt hj) hr

/-- The problems that have rows of their own, done in turn. -/
theorem State.matProblems_done (hc : s.Clean a.pc) (hsh : shapeMat (s.core a.pc).sq.prog banks wide true p b stride = none)
    (hm : m = ((s.core a.pc).sq.prog.desc p.descA.toNat).rows.toNat) (hn : n = ((s.core a.pc).sq.prog.desc p.descB.toNat).rows.toNat)
    (hb : 0 < stride ∨ b = 1) :
    ProblemsDone s (s.matProblems a p b stride) a p stride (resolveInit p.init.toNat a.loops) m n b := by
  have key : ∀ k, k ≤ b → ∃ u, (List.range k).foldl (fun (x : State × Bool) j =>
      if x.2 then x.1.matProblem a p j (j * stride) (if stride = 0 ∧ 0 < j then 1 else resolveInit p.init.toNat a.loops) else x) (s, true) =
        (u, true) ∧ ProblemsDone s u a p stride (resolveInit p.init.toNat a.loops) m n k := by
    intro k
    induction k with
    | zero => exact fun _ => ⟨s, rfl, .zero hc ..⟩
    | succ k ih =>
      intro hk
      obtain ⟨u, eq, hu⟩ := ih (by omega)
      have h0 : stride = 0 → k = 0 := by omega
      obtain ⟨v, ev, hv⟩ := hu.step hc hsh hm hn h0
      refine ⟨v, ?_, hv⟩
      rw [List.range_succ, List.foldl_append, eq, List.foldl_cons, List.foldl_nil, if_pos rfl, if_neg (by omega), ev]
  obtain ⟨u, eq, hu⟩ := key b le_rfl
  rw [State.matProblems, eq]
  exact hu
end

/-- Settles O3: the problems of an MMAB write, in turn, the rows of their products, each rows of its own. -/
theorem mmabWritesItsProducts : Obligations.MmabWritesItsProducts := by
  unfold Obligations.MmabWritesItsProducts
  intro s c h f a tok hi ho hs q tile bank stride n start
  obtain ⟨t0, ht, eq⟩ := State.issue_arith (fun _ _ => true) (fun a s => s.matProblems a f.mat f.batch.toNat f.accStride.toNat) hi ho hs rfl
  refine ⟨t0, _, congrArg Host.Outcome.next eq, ht, rfl, fun hc hb => ?_⟩
  have hsh : shapeMat (t0.core a.pc).sq.prog (s.allocBanks a) (wideCore a.c a.pc) true f.mat f.batch.toNat stride = none := by
    rw [ht.prog]
    exact hs
  obtain ⟨hst, -, hrows, hothers⟩ := State.matProblems_done (ht.clean hc) hsh rfl rfl (hb.imp_right fun h => by rw [h]; rfl)
  rw [ht.prog] at hrows hothers
  have hA : (tile f.mat.descA 0).rows.length = (q.desc f.mat.descA.toNat).rows.toNat := State.readTile_rows_length ..
  have hn : n = (q.desc f.mat.descB.toNat).rows.toNat := State.readTile_rows_length ..
  rw [hA, hn]
  refine ⟨fun j r hj hr => ?_, fun x hx => ?_, ht.sameMemory.otherMemory hst.otherMemory⟩
  · have hstart : s.matStart a f.mat j (j * stride) (resolveInit f.mat.init.toNat a.loops) = start j := by
      funext r k
      simp only [State.matStart, State.readTile_rows_length, start, hn]
      rfl
    rw [hrows j r hj hr, ht.matProduct, State.matProduct, hstart]
  · rw [← ht.acc]
    exact hothers x hx

end Sys2Proof.Machine
end

section
/-! SUPPORT. The vector engine on sound memories: results of an element format other than MX stand in the rows of their destination. -/

namespace Sys2Proof.Machine

theorem HoldsRows.congr {r r' : Ram} {base pitch n : Nat} {row row' : Nat → List Byte} (h : HoldsRows r r' base pitch n row)
    (e : ∀ i, i < n → row i = row' i) : HoldsRows r r' base pitch n row' :=
  ⟨fun i hi => e i hi ▸ h.1 i hi, fun x hx => h.2 x fun i hi => e i hi ▸ hx i hi⟩

theorem elemOf_ne_mx {fmt : Nat} (h : fmtIsMx fmt = false) (f : FFmt) : elemOf fmt ≠ .mx f := by
  unfold elemOf
  split <;> simp_all [fmtIsMx]

theorem fmtBits_of_not_mx {fmt : Nat} (h : fmtIsMx fmt = false) : fmtBits fmt = 8 ∨ fmtBits fmt = 16 ∨ fmtBits fmt = 32 := by
  unfold fmtBits
  split <;> simp_all [fmtIsMx]

/-- A row of a format other than MX fills whole bytes. -/
theorem length_packBits_row {fmt : Nat} (h : fmtIsMx fmt = false) (es : List Nat) :
    (packBits (fmtBits fmt) es).length = es.length * fmtBits fmt / 8 := by
  rw [length_packBits]
  rcases fmtBits_of_not_mx h with h | h | h <;> rw [h] <;> omega

theorem length_fitRows_row (d : Desc) (vs : List FVal) (r : Nat) :
    ((fitRows d vs).getD r []).length = if r < d.rows.toNat then d.rowElems.toNat else 0 := by
  rw [fitRows]
  by_cases h : r < d.rows.toNat
  · rw [if_pos h, List.getD_eq_getElem _ _ (by simpa using h), List.getElem_map, List.length_map, List.length_range]
  · rw [if_neg h, List.getD_eq_default _ _ (by simpa using h)]
    rfl

theorem State.writeTile_of_not_mx {d : Desc} (h : fmtIsMx d.fmt.toNat = false) (s : State) (pc : Nat) (loops : List Frame) (sat : Bool)
    (vals : List (List FVal)) : s.writeTile pc d loops sat vals = (List.range d.rows.toNat).foldl (fun s r =>
      s.writeLocal pc d.localSpace.toNat ((d.loc loops 0).local0 + r * d.rowBytes)
        (packBits (fmtBits d.fmt.toNat) ((vals.getD r []).map (elemEnc d.fmt.toNat sat)))) s := by
  unfold State.writeTile
  dsimp only
  congr 1
  funext s r
  split
  next f hf => exact absurd hf (elemOf_ne_mx h f)
  · rfl

/-- Results written to a destination in a sound memory. -/
theorem State.putResults_spec {s : State} {a : Act} (hc : s.Clean a.pc) {d : Desc} (h : fmtIsMx d.fmt.toNat = false) (sat : Bool)
    (vs : List FVal) : Stores s (s.putResults a d sat vs) a.pc d.localSpace.toNat ∧
      HoldsRows (s.localRam a.pc d.localSpace.toNat) ((s.putResults a d sat vs).localRam a.pc d.localSpace.toNat) (d.loc a.loops 0).local0
        d.rowBytes d.rows.toNat fun r => packBits (fmtBits d.fmt.toNat) (((fitRows d vs).getD r []).map (elemEnc d.fmt.toNat sat)) := by
  have hp : ∀ r, (packBits (fmtBits d.fmt.toNat) (((fitRows d vs).getD r []).map (elemEnc d.fmt.toNat sat))).length ≤ d.rowBytes := by
    intro r
    rw [length_packBits_row h, List.length_map, length_fitRows_row, Desc.rowBytes]
    split
    · exact le_rfl
    · simp
  obtain ⟨hs, hr⟩ := State.writeLocal_foldl a.pc d.localSpace.toNat (fun r => (d.loc a.loops 0).local0 + r * d.rowBytes)
    (fun r => packBits (fmtBits d.fmt.toNat) (((fitRows d vs).getD r []).map (elemEnc d.fmt.toNat sat))) (List.range d.rows.toNat)
    (hc d.localSpace.toNat)
  rw [State.putResults, State.writeTile_of_not_mx h, hr]
  exact ⟨hs, (Ram.write_rows _ _ _ hp _ (hc d.localSpace.toNat)).2⟩

/-- A value that a result list holds stands at its place. -/
theorem getD_fitRows {d : Desc} {vs : List FVal} {f : Nat → FVal} {r : Nat} (hr : r < d.rows.toNat)
    (hv : ∀ k, k < d.rowElems.toNat → vs[r * d.rowElems.toNat + k]? = some (f (r * d.rowElems.toNat + k))) :
    (fitRows d vs).getD r [] = (List.range d.rowElems.toNat).map fun k => f (r * d.rowElems.toNat + k) := by
  unfold fitRows
  rw [List.getD_eq_getElem _ _ (by simpa using hr), List.getElem_map]
  refine List.map_congr_left fun k hk => ?_
  rw [List.getElem_range, List.getD_eq_getElem?_getD, hv k (List.mem_range.1 hk)]
  rfl

end Sys2Proof.Machine
end

section
/-! SUPPORT. VOP, VCVT, SFN and SFM: each reads its sources clean, computes its results and puts them in its destination. -/

namespace Sys2Proof.Machine

theorem State.storeRead_ok (s : State) (p pc u : Nat) (ws : List Nat) {t : Tab CodeWord} (h : t = []) : s.storeRead p pc u t ws = (s, true) := by
  rw [h, State.storeRead_sound]

theorem State.bankReads_sound (s : State) (a : Act) {b : Bank} (h : b.errs = []) (hits : List Nat) : s.bankReads a b hits = (s, true) :=
  s.storeRead_ok _ _ _ _ h

theorem State.Clean.scaleReads {s : State} {a : Act} (h : s.Clean a.pc) (d : Desc) : CleanReads (s.scaleReads a d) := by
  unfold State.scaleReads
  split
  · intro x hx
    obtain rfl := List.mem_singleton.1 hx
    exact h.opnd.fetch_clean ..
  · exact .nil

/-- The results of a VOP. -/
def State.vopResults (s : State) (a : Act) (f : VopFields) : List FVal :=
  let q := (s.core a.pc).sq.prog
  let dst := q.desc f.dst.toNat
  let src := fun (i : BitVec 12) k => if k ≤ vopArity f.op.toNat then (s.readTile a.pc (q.desc i.toNat) a.loops 0).flat32 else []
  let ta := s.readTile a.pc (q.desc f.srcA.toNat) a.loops 0
  if isRowOp f.op.toNat then (List.range dst.rows.toNat).map fun k =>
    let r := if ta.rows.length = 1 then 0 else k
    rowReduce f.op.toNat ((List.range (ta.rows.getD r []).length).map (ta.f32At r))
  else (List.range dst.elems).map fun k =>
    vopElem f.op.toNat (pick (src f.srcA 1) (src f.srcA 1).length dst.elems k) (pick (src f.srcB 2) (src f.srcB 2).length dst.elems k)
      (pick (src f.srcC 3) (src f.srcC 3).length dst.elems k)

theorem one_le_vopArity (op : Nat) : 1 ≤ vopArity op := by
  unfold vopArity
  split <;> decide

theorem State.vopEffect_clean {s : State} {a : Act} (hc : s.Clean a.pc) (f : VopFields) :
    s.vopEffect a f = s.putResults a ((s.core a.pc).sq.prog.desc f.dst.toNat)
      (vecSat ((s.core a.pc).sq.prog.desc f.dst.toNat).fmt.toNat) (s.vopResults a f) := by
  have ra := fun (i : BitVec 12) => hc.readTile ((s.core a.pc).sq.prog.desc i.toNat) a.loops 0
  unfold State.vopEffect
  extract_lets -lift q op dst rd none n ta tb tc
  have hr : CleanReads (ta.reads ++ tb.reads ++ tc.reads) := by
    refine ((ra f.srcA).append ?_).append ?_
    · simp only [tb]
      split
      · exact ra f.srcB
      · exact .nil
    · simp only [tc]
      split
      · exact ra f.srcC
      · exact .nil
  rw [State.checked_cleanReads s a hr]
  simp only [Bool.not_true, Bool.false_eq_true, if_false]
  rename_i la lb lc res
  have hb : tb.flat32 = if 2 ≤ n then (s.readTile a.pc (q.desc f.srcB.toNat) a.loops 0).flat32 else [] := by
    simp only [tb]
    split <;> rfl
  have hcc : tc.flat32 = if 3 ≤ n then (s.readTile a.pc (q.desc f.srcC.toNat) a.loops 0).flat32 else [] := by
    simp only [tc]
    split <;> rfl
  simp only [res, la, lb, lc, hb, hcc, State.vopResults, if_pos (one_le_vopArity _)]
  rfl

theorem Issued.vopResults {s t : State} {i : Engine} {a : Act} {tm : Timing} (h : Issued s t i a tm) (f : VopFields) :
    t.vopResults a f = s.vopResults a f := by
  simp only [State.vopResults, h.prog, h.readTile]

theorem mem_vecDescs {q : Program} {l : List (BitVec 12)} {i : BitVec 12} (hi : i ∈ l) (h0 : i ≠ 0) : q.desc i.toNat ∈ vecDescs q l :=
  List.mem_map_of_mem (List.mem_filter.2 ⟨hi, by simpa [named] using h0⟩)

/-- The destination of a VOP has no MX format (Table 5-4, order 6). -/
theorem shapeVop_dst {q : Program} {banks : Nat} {loops : List Frame} {p : VopFields} (h : shapeVop q banks loops p = none) (hd : p.dst ≠ 0) :
    fmtIsMx (q.desc p.dst.toNat).fmt.toNat = false := by
  have := firstFail_none h _ (List.mem_of_getElem? (i := 3) rfl)
  have := List.any_eq_false.1 this _ (mem_vecDescs (i := p.dst) (by simp) hd)
  simp only [notVecFmt, Bool.not_eq_true, Bool.or_eq_false_iff] at this
  exact this.1

/-- A row operation has one result to a row (Table 5-4, order 9). -/
theorem shapeVop_rowOp {q : Program} {banks : Nat} {loops : List Frame} {p : VopFields} (h : shapeVop q banks loops p = none)
    (hr : isRowOp p.op.toNat = true) : (q.desc p.dst.toNat).rowElems.toNat = 1 := by
  have := firstFail_none h _ (List.mem_of_getElem? (i := 4) rfl)
  simp only [hr, Bool.true_and, bne_eq_false_iff_eq] at this
  rw [this]
  rfl

theorem place_lt {r k m w : Nat} (hr : r < m) (hk : k < w) : r * w + k < m * w := by
  have : (r + 1) * w ≤ m * w := Nat.mul_le_mul_right _ hr
  rw [Nat.add_mul] at this
  omega

/-- Settles O6: the results of a VOP, as many as its destination has elements, stand in its rows. -/
theorem vopWritesItsResults : Obligations.VopWritesItsResults := by
  unfold Obligations.VopWritesItsResults
  intro s c h f a tok hi ho hs hc hd q dst op src ta value
  obtain ⟨t0, ht, eq⟩ := State.issue_arith (fun _ _ => true) (fun a s => s.vopEffect a f) hi ho hs rfl
  rw [State.vopEffect_clean (ht.clean hc), ht.prog, ht.vopResults] at eq
  obtain ⟨hst, hh⟩ := State.putResults_spec (ht.clean hc) (shapeVop_dst hs hd) (vecSat dst.fmt.toNat) (s.vopResults a f)
  rw [ht.localRam] at hh
  refine ⟨t0, _, congrArg Host.Outcome.next eq, ht, hst.rest, hst.sq _, hh.congr fun r hr => ?_, ht.sameMemory.otherMemory hst.otherMemory⟩
  have results : ∀ k, k < dst.rowElems.toNat →
      (s.vopResults a f)[r * dst.rowElems.toNat + k]? = some (value (r * dst.rowElems.toNat + k)) := by
    intro k hk
    have hlt := place_lt hr hk
    unfold State.vopResults
    by_cases hrow : isRowOp f.op.toNat = true
    · have hrows : r * dst.rowElems.toNat + k < dst.rows.toNat := lt_of_lt_of_eq hlt (by rw [shapeVop_rowOp hs hrow, Nat.mul_one])
      dsimp only
      rw [if_pos hrow, List.getElem?_map, List.getElem?_range hrows]
      simp only [value, if_pos hrow, op]
      rfl
    · dsimp only
      rw [if_neg hrow, List.getElem?_map, Desc.elems, List.getElem?_range hlt]
      simp only [value, if_neg hrow, op]
      rfl
  rw [getD_fitRows hr results, List.map_map]
  rfl

end Sys2Proof.Machine
end

section
/-! SUPPORT. What an issue leaves of a core besides its memories: everything but its sequencing state, its filmstrip and its
breakpoint state. -/

namespace Sys2Proof.Machine

/-- Every core is as before but for its sequencing state, its filmstrip and its breakpoint state. -/
def CoresKept (s t : State) : Prop := ∀ j, ∃ q f b m x bp sg, t.core j =
  { s.core j with sq := q, film := f, frozen := b, frozenAt := m, ac := x, bpPass := bp, single := sg }

theorem CoresKept.trans {s t u : State} (h : CoresKept s t) (g : CoresKept t u) : CoresKept s u := fun j => by
  obtain ⟨_, _, _, _, _, _, _, e⟩ := h j
  obtain ⟨_, _, _, _, _, _, _, e'⟩ := g j
  exact ⟨_, _, _, _, _, _, _, by rw [e', e]⟩

theorem Bookkept.coresKept {s t : State} (h : Bookkept s t) : CoresKept s t := fun j => by
  obtain ⟨_, _, _, e⟩ := h.core j
  exact ⟨_, _, _, _, _, _, _, e⟩

theorem Signalled.coresKept {s t : State} {pc : Nat} {n : Nat → Nat} (h : Signalled s t pc n) : CoresKept s t := fun j => by
  obtain ⟨_, _, _, _, _, e⟩ := h.core j
  exact ⟨_, _, _, _, _, _, _, e⟩

theorem State.modCore_coresKept (s : State) (k : Nat) {f : Core → Core}
    (hf : ∀ c, ∃ q x b m y bp sg, f c = { c with sq := q, film := x, frozen := b, frozenAt := m, ac := y, bpPass := bp, single := sg }) :
    CoresKept s (s.modCore k f) := fun j => by
  rw [State.core_modCore]
  split
  next h => exact h ▸ hf _
  · exact ⟨_, _, _, _, _, _, _, rfl⟩

theorem State.launch_coresKept {s : State} {a : Act} {i : Engine} {tm : Timing}
    (hov : ∀ k, ((s.core a.pc).sq.token k).count + addedTo k (issueSigs i) ≤ 65535) (he : (s.core a.pc).tokErrs = []) :
    CoresKept s (s.launch a i tm) := by
  unfold State.launch
  split
  · exact (Bookkept.refl s).coresKept
  next hb =>
    have hsigs : issueSigs i = i.header.sigs 0 ++ if isControl i then i.header.sigs 1 else [] := if_neg hb
    simp only [hsigs, addedTo_append] at hov
    have h1 := State.releases_spec a (a.t + tm.rel) (i.header.sigs 0) s (fun k => by have := hov k; omega) he
    extract_lets _ u
    split
    next hc =>
      have he1 : (u.core a.pc).tokErrs = [] := by
        obtain ⟨_, _, _, _, _, e⟩ := h1.core a.pc
        rw [e]
        exact he
      refine h1.coresKept.trans (State.signals_spec a.p a.c a.pc a.u (a.t + tm.occ) (i.header.sigs 1) u (fun k => ?_) he1).coresKept
      have := hov k
      rw [if_pos hc] at this
      rw [h1.tokens]
      omega
    · exact h1.coresKept.trans (State.modCore_coresKept _ _ fun c => ⟨_, _, _, _, _, _, _, rfl⟩)

theorem State.noteUse_core (s : State) (pc k j : Nat) : (s.noteUse pc k).core j = s.core j := by
  rw [State.noteUse_rest]
  rfl

/-- The commit of an issue, its effect left out. -/
def State.committed (s : State) (a : Act) (i : Engine) (m : Meaning) (tok : Nat) : State := s.issueCommit a i { m with effect := id } tok

theorem State.issueCommit_eq (s : State) (a : Act) (i : Engine) (m : Meaning) (tok : Nat) :
    s.issueCommit a i m tok = m.effect (s.committed a i m tok) := rfl

theorem State.committed_coresKept {s : State} {a : Act} {i : Engine} (m : Meaning) (tok : Nat) (hsing : (s.core a.pc).single = 0)
    (hov : NoOverflow s a.pc i) (he : (s.core a.pc).tokErrs = []) : CoresKept s (s.committed a i m tok) := by
  have hd : decide ((s.core a.pc).single = a.u + 1) = false := by simp [hsing]
  unfold State.committed State.issueCommit
  dsimp only
  rw [hd]
  simp only [Bool.false_eq_true, if_false, id_eq]
  have b1 := Bookkept.traceCore s a.pc a.t 0x01 a.u (i.opcode * 2 ^ 72 + a.idx % 8192 * 2 ^ 59 + innerIndex a.loops * 2 ^ 43 +
    i.header.waitToken.toNat * 2 ^ 37 + ((s.core a.pc).sq.token i.header.waitToken.toNat).count * 2 ^ 21)
  have b2 := b1.trans (Bookkept.issueCounts _ a.pc a.u m.timing.occ ((s.core a.pc).sq.unit a.u).nextIssue tok a.t)
  generalize State.issueCounts _ a.pc a.u m.timing.occ _ tok a.t = s2 at b2 ⊢
  have k3 : CoresKept s (s2.modCore a.pc fun k => k.issued a.u a.t i m.timing) :=
    b2.coresKept.trans (State.modCore_coresKept _ _ fun c => ⟨_, _, _, _, _, _, _, rfl⟩)
  have hsq2 : (s2.core a.pc).sq = (s.core a.pc).sq := by
    obtain ⟨_, _, _, e⟩ := b2.core a.pc
    rw [e]
  have c3 : ((s2.modCore a.pc fun k => k.issued a.u a.t i m.timing).core a.pc).sq = ((s2.core a.pc).issued a.u a.t i m.timing).sq := by
    rw [State.core_modCore_same]
  generalize s2.modCore a.pc (fun k => k.issued a.u a.t i m.timing) = s3 at k3 c3 ⊢
  have h4 : ∃ s4, CoresKept s s4 ∧ (s4.core a.pc).sq = ((s2.core a.pc).issued a.u a.t i m.timing).sq ∧
      (if i.header.waitCount = 0 then s3
        else (s3.noteUse a.pc i.header.waitToken.toNat).tokenBp a.c a.pc i.header.waitToken.toNat
          ((s.core a.pc).sq.token i.header.waitToken.toNat).count
          (((s.core a.pc).sq.token i.header.waitToken.toNat).count - i.header.waitCount.toNat) false) = s4 := by
    split
    · exact ⟨s3, k3, c3, rfl⟩
    · have b4 := Bookkept.tokenBp (s3.noteUse a.pc i.header.waitToken.toNat) a.c a.pc i.header.waitToken.toNat
        ((s.core a.pc).sq.token i.header.waitToken.toNat).count
        (((s.core a.pc).sq.token i.header.waitToken.toNat).count - i.header.waitCount.toNat) false
      have hn : CoresKept s3 (s3.noteUse a.pc i.header.waitToken.toNat) := fun j => by
        rw [State.noteUse_core]
        exact ⟨_, _, _, _, _, _, _, rfl⟩
      refine ⟨_, (k3.trans hn).trans b4.coresKept, ?_, rfl⟩
      obtain ⟨_, _, _, e⟩ := b4.core a.pc
      rw [e, State.noteUse_core]
      exact c3
  obtain ⟨s4, k4, hsq4, e4⟩ := h4
  rw [e4]
  refine k4.trans (State.launch_coresKept (fun k => ?_) ?_)
  · have := hov k
    rw [hsq4, Core.issued_token, hsq2]
    omega
  · obtain ⟨_, _, _, _, _, _, _, e⟩ := k4 a.pc
    rw [e]
    exact he

section
variable {s : State} {c u : Nat} {i : Engine} {a : Act} {tok : Nat}

theorem Issues.atHead (h : Issues s c u i a tok) : ∃ r, r.part = a.p ∧ s.atHead c u i = some (r, a.pc, (s.core a.pc).sq.unit u) := by
  obtain ⟨r, hr, hp⟩ := h.runs
  obtain ⟨hf, hsg⟩ := h.free
  exact ⟨r, hp, by simp [State.atHead, h.carried, hr, hf, hsg, h.running, h.head]⟩

theorem Issues.settleLate (h : Issues s c u i a tok) : s.settleLate c u i = s := by
  obtain ⟨r, -, hat⟩ := h.atHead
  unfold State.settleLate
  simp only [hat, h.ready]
  exact State.judgeLate_none s _ _ _ h.settled

theorem Issues.addrBp (h : Issues s c u i a tok) (idx b : Nat) : s.addrBp c a.pc u idx b = (s.setCore a.pc (s.core a.pc), none) := by
  have hbp : (rangeFrom 1 8).filter (fun n => s.addrBpAt c n u idx b) = [] := by
    rw [List.filter_eq_nil_iff]
    intro n hn
    obtain ⟨k, hk, rfl⟩ := List.mem_map.1 hn
    rw [List.mem_range] at hk
    simp [State.addrBpAt, h.noBreak (1 + k) (by omega) (by omega)]
  simp only [State.addrBp, hbp]
  rfl

/-- An instruction that issues is committed, on the state itself or on one that differs in no core. -/
theorem Issues.commits (h : Issues s c u i a tok) : ∃ s' : State, (∀ j, s'.core j = s.core j) ∧
    ∀ m : State → Act → Meaning, (m s a).shape = none → (m s a).allowed = true → (m s a).opens = true →
      s.issue c u i m = s'.issueCommit a i (m s a) tok := by
  obtain ⟨r, hp, hat⟩ := h.atHead
  obtain ⟨hc, hu, hidx, hlo⟩ := h.place
  have hact : (⟨r.part, c, a.pc, u, a.t, ((s.core a.pc).sq.unit u).pos, ((s.core a.pc).sq.unit u).loops⟩ : Act) = a := by
    rw [hp, ← hc, ← hidx, ← hlo, ← hu]
  have hbath : s.bathHolds r u ((s.core a.pc).sq.unit u).issued i = false := by
    unfold State.bathHolds
    rw [hp, h.noBath]
  have same : ∀ j, (s.setCore a.pc (s.core a.pc)).core j = s.core j := fun j => by
    rw [State.core_setCore]
    split
    next hj => rw [hj]
    · rfl
  have reads := fun (s' : State) (e : ∀ j, s'.core j = s.core j) =>
    s'.issueReads_sound a i (by rw [e]; exact h.sound.1) (by rw [e]; exact h.sound.2)
  by_cases hb : (s.core a.pc).bpPass.testBit u = true
  · refine ⟨s, fun _ => rfl, fun m hs ha ho => ?_⟩
    unfold State.issue
    rw [h.settleLate]
    simp [hat, hbath, h.ready, h.addrBp, h.first, hact, hs, ha, ho, hb, reads s fun _ => rfl]
  · refine ⟨_, same, fun m hs ha ho => ?_⟩
    unfold State.issue
    rw [h.settleLate]
    simp [hat, hbath, h.ready, h.addrBp, h.first, hact, hs, ha, ho, hb, reads _ same]

/-- THE ISSUE, with what it leaves of every core. -/
theorem State.issue_kept (m : State → Act → Meaning) (h : Issues s c u i a tok) (hov : NoOverflow s a.pc i) (hs : (m s a).shape = none)
    (ha : (m s a).allowed = true) (ho : (m s a).opens = true) :
    ∃ t, Issued s t i a (m s a).timing ∧ CoresKept s t ∧ s.issue c u i m = (m s a).effect t := by
  obtain ⟨s', hcore, commit⟩ := h.commits
  obtain ⟨t, ht, et⟩ := State.issue_spec (fun s a => { m s a with effect := id }) h hov hs ha ho
  have eq : s'.committed a i (m s a) tok = t := (commit (fun s a => { m s a with effect := id }) hs ha ho).symm.trans et
  refine ⟨t, ht, fun j => ?_, by rw [commit m hs ha ho, State.issueCommit_eq, eq]⟩
  rw [← hcore j, ← eq]
  exact State.committed_coresKept (m s a) tok (by rw [hcore]; exact h.free.2) (fun k => by rw [hcore]; exact hov k)
    (by rw [hcore]; exact h.sound.2) j
end

end Sys2Proof.Machine
end

section
/-! SUPPORT. VCVT, SFN and SFM on sound memories and banks without errors. -/

namespace Sys2Proof.Machine

theorem State.vcvtEffect_clean {s : State} {a : Act} (hc : s.Clean a.pc) (f : VcvtFields) :
    s.vcvtEffect a f = s.putResults a ((s.core a.pc).sq.prog.desc f.dst.toNat) (f.sat == 1)
      (s.readTile a.pc ((s.core a.pc).sq.prog.desc f.src.toNat) a.loops 0).flatVals := by
  have reads := (hc.readTile ((s.core a.pc).sq.prog.desc f.src.toNat) a.loops 0).append
    (hc.scaleReads ((s.core a.pc).sq.prog.desc f.dst.toNat))
  simp only [State.vcvtEffect, State.checked_cleanReads s a reads]
  rfl

theorem State.sfmEffect_clean {s : State} {a : Act} (hc : s.Clean a.pc) (hb : (s.core a.pc).bankActive.errs = [])
    (hm : (s.core a.pc).microErrs = []) (f : SfmFields) :
    s.sfmEffect a f = s.putResults a ((s.core a.pc).sq.prog.desc f.dst.toNat) (vecSat ((s.core a.pc).sq.prog.desc f.dst.toNat).fmt.toNat)
      ((s.readTile a.pc ((s.core a.pc).sq.prog.desc f.src.toNat) a.loops 0).flat32.map fun x =>
        f32 (sfmRun (s.core a.pc).bankActive (s.core a.pc).micro (s.core a.pc).groups f.program.toNat f.passes.toNat x f32zero)) := by
  have reads := hc.readTile ((s.core a.pc).sq.prog.desc f.src.toNat) a.loops 0
  simp only [State.sfmEffect, State.checked_cleanReads s a reads, State.bankReads_sound _ _ hb, State.storeRead_ok _ _ _ _ _ hm]
  rfl

/-- The state whose banks an SFN reads: with `swap` the two banks have changed places. -/
def State.swapped (s : State) (pc : Nat) (f : SfnFields) : State := if f.swap = 1 then s.swapBanks pc else s

theorem State.swapBanks_core (s : State) (pc k : Nat) : (s.swapBanks pc).core k = { s.core k with
    bankActive := if k = pc then (s.core k).bankShadow else (s.core k).bankActive
    bankShadow := if k = pc then (s.core k).bankActive else (s.core k).bankShadow } := by
  rw [State.swapBanks, State.core_modCore]
  split
  next h => rw [h]
  · rfl

theorem State.swapped_core (s : State) (pc : Nat) (f : SfnFields) : (s.swapped pc f).core pc = { s.core pc with
    bankActive := if f.swap = 1 then (s.core pc).bankShadow else (s.core pc).bankActive
    bankShadow := if f.swap = 1 then (s.core pc).bankActive else (s.core pc).bankShadow } := by
  unfold State.swapped
  split
  · rw [State.swapBanks_core, if_pos rfl, if_pos rfl]
  · rfl

theorem State.swapped_sameMemory (s : State) (pc : Nat) (f : SfnFields) : SameMemory s (s.swapped pc f) := by
  unfold State.swapped
  split
  · exact ⟨fun k => by rw [State.swapBanks_core]; exact ⟨rfl, rfl⟩, fun _ => rfl, rfl⟩
  · exact ⟨fun _ => ⟨rfl, rfl⟩, fun _ => rfl, rfl⟩

theorem SameMemory.localRam {s t : State} (h : SameMemory s t) (pc sp : Nat) : t.localRam pc sp = s.localRam pc sp := by
  obtain ⟨hc, hb, -⟩ := h
  rcases space_cases sp with rfl | rfl | ⟨h0, h1⟩
  · exact (hc pc).1
  · exact hb _
  · rw [State.localRam_two _ _ h0 h1, State.localRam_two _ _ h0 h1]
    exact (hc pc).2

theorem SameMemory.clean {s t : State} (h : SameMemory s t) {pc : Nat} (hc : s.Clean pc) : t.Clean pc := fun sp w => by
  rw [h.localRam]
  exact hc sp w

theorem SameMemory.trans {s t u : State} (h : SameMemory s t) (g : SameMemory t u) : SameMemory s u := by
  obtain ⟨hc, hb, hd⟩ := h
  obtain ⟨gc, gb, gd⟩ := g
  exact ⟨fun k => ⟨(gc k).1.trans (hc k).1, (gc k).2.trans (hc k).2⟩, fun k => (gb k).trans (hb k), gd.trans hd⟩

theorem State.sfnEffect_clean {s : State} {a : Act} (hc : s.Clean a.pc) {f : SfnFields} (hf : f.func ≠ 0x0E)
    (hb : (if f.swap = 1 then (s.core a.pc).bankShadow else (s.core a.pc).bankActive).errs = []) :
    s.sfnEffect a f = (s.swapped a.pc f).putResults a ((s.core a.pc).sq.prog.desc f.dst.toNat)
      (vecSat ((s.core a.pc).sq.prog.desc f.dst.toNat).fmt.toNat)
      ((s.readTile a.pc ((s.core a.pc).sq.prog.desc f.src.toNat) a.loops 0).flat32.map fun x => f32 (sfnEval (s.compat a.pc)
        (if f.swap = 1 then (s.core a.pc).bankShadow else (s.core a.pc).bankActive) f.func.toNat x).1) := by
  have hsame := s.swapped_sameMemory a.pc f
  have hcore := s.swapped_core a.pc f
  have reads := (hsame.clean hc).readTile ((s.core a.pc).sq.prog.desc f.src.toNat) a.loops 0
  have hq : ((s.swapped a.pc f).core a.pc).sq = (s.core a.pc).sq := by rw [hcore]
  have hact : ((s.swapped a.pc f).core a.pc).bankActive = if f.swap = 1 then (s.core a.pc).bankShadow else (s.core a.pc).bankActive := by
    rw [hcore]
  have hcompat : (s.swapped a.pc f).compat a.pc = s.compat a.pc := by rw [State.compat, State.compat, hcore]
  have body : s.sfnEffect a f = (s.swapped a.pc f).putResults a (((s.swapped a.pc f).core a.pc).sq.prog.desc f.dst.toNat)
      (vecSat (((s.swapped a.pc f).core a.pc).sq.prog.desc f.dst.toNat).fmt.toNat)
      (((s.swapped a.pc f).readTile a.pc (((s.swapped a.pc f).core a.pc).sq.prog.desc f.src.toNat) a.loops 0).flat32.map
        fun x => f32 (sfnEval ((s.swapped a.pc f).compat a.pc) ((s.swapped a.pc f).core a.pc).bankActive f.func.toNat x).1) := by
    have hfold : (if f.swap = 1 then s.swapBanks a.pc else s) = s.swapped a.pc f := rfl
    rw [← hact] at hb
    rw [← hq] at reads
    simp only [State.sfnEffect, hfold, State.checked_cleanReads _ a reads, State.bankReads_sound _ _ hb, if_neg hf, List.map_map]
    rfl
  rw [body, hq, hact, hcompat, State.readTile_congr (hsame.localRam a.pc)]

/-- Settles O7: the results of the three instructions, which each compute from what their source and banks hold, stand in the rows of
their destination. -/
theorem vectorConversionsAndFunctions : Obligations.VectorConversionsAndFunctions := by
  unfold Obligations.VectorConversionsAndFunctions
  intro s c h a tok q k holds
  refine ⟨?_, ?_, ?_⟩
  · intro f hi ho hs hc hmx
    obtain ⟨t0, ht, eq⟩ := State.issue_arith (fun _ _ => true) (fun a s => s.vcvtEffect a f) hi ho hs rfl
    rw [State.vcvtEffect_clean (ht.clean hc), ht.prog, ht.readTile] at eq
    obtain ⟨hst, hh⟩ := State.putResults_spec (ht.clean hc) hmx (f.sat == 1) (s.readTile a.pc (q.desc f.src.toNat) a.loops 0).flatVals
    rw [ht.localRam] at hh
    exact ⟨_, congrArg Host.Outcome.next eq, hh, ht.sameMemory.otherMemory hst.otherMemory⟩
  · intro f hi ho hs swap hc hf hb hmx
    obtain ⟨t0, ht, eq⟩ := State.issue_arith (fun s a => s.swapReady a.pc f) (fun a s => s.sfnEffect a f) hi ho hs swap
    have hb0 : (if f.swap = 1 then (t0.core a.pc).bankShadow else (t0.core a.pc).bankActive) =
        if f.swap = 1 then k.bankShadow else k.bankActive := by rw [ht.banks.1, ht.banks.2]
    have hcompat : t0.compat a.pc = s.compat a.pc := by rw [State.compat, State.compat, ht.run]
    have hmem := ht.sameMemory.trans (t0.swapped_sameMemory a.pc f)
    have hcore := t0.swapped_core a.pc f
    rw [State.sfnEffect_clean (ht.clean hc) hf (by rw [hb0]; exact hb), ht.prog, ht.readTile, hb0, hcompat] at eq
    obtain ⟨hst, hh⟩ := State.putResults_spec (hmem.clean hc) hmx (vecSat (q.desc f.dst.toNat).fmt.toNat)
      ((s.readTile a.pc (q.desc f.src.toNat) a.loops 0).flat32.map fun x =>
        f32 (sfnEval (s.compat a.pc) (if f.swap = 1 then k.bankShadow else k.bankActive) f.func.toNat x).1)
    rw [hmem.localRam] at hh
    refine ⟨_, congrArg Host.Outcome.next eq, ?_, ?_, hh, hmem.otherMemory hst.otherMemory⟩
    · rw [hst.core, hcore]
      exact hb0
    · rw [hst.core, hcore, ht.banks.1, ht.banks.2]
  · intro f hi ho hs hc hb hm hmx
    obtain ⟨t0, ht, kept, eq⟩ := State.issue_kept (fun s a => s.arith a (.sfm h f) true fun s => s.sfmEffect a f) hi ho hs rfl rfl
    obtain ⟨_, _, _, _, _, _, _, hcore⟩ := kept a.pc
    have hb0 : (t0.core a.pc).bankActive = k.bankActive := ht.banks.1
    have hm0 : (t0.core a.pc).microErrs = k.microErrs := by rw [hcore]
    have hmicro : (t0.core a.pc).micro = k.micro := by rw [hcore]
    have hgroups : (t0.core a.pc).groups = k.groups := by rw [hcore]
    rw [State.arith_effect, State.sfmEffect_clean (ht.clean hc) (by rw [hb0]; exact hb) (by rw [hm0]; exact hm), ht.prog, ht.readTile,
      hb0, hmicro, hgroups] at eq
    obtain ⟨hst, hh⟩ := State.putResults_spec (ht.clean hc) hmx (vecSat (q.desc f.dst.toNat).fmt.toNat)
      ((s.readTile a.pc (q.desc f.src.toNat) a.loops 0).flat32.map fun x =>
        f32 (sfmRun k.bankActive k.micro k.groups f.program.toNat f.passes.toNat x f32zero))
    rw [ht.localRam] at hh
    exact ⟨_, congrArg Host.Outcome.next eq, hh, ht.sameMemory.otherMemory hst.otherMemory⟩

end Sys2Proof.Machine
end

section
/-! SUPPORT. MMF on sound memories: its scores are in bank P, and what it writes after them lies in other banks. -/

namespace Sys2Proof.Machine

/-- State `t` differs from `s` inside one bank of the accumulator alone. -/
structure InBank (s t : State) (pc bank : Nat) : Prop where
  stores : Stores s t pc 2
  sound : (t.core pc).acc.Sound
  outside : ∀ x, x < bank * 65536 ∨ (bank + 1) * 65536 ≤ x → (t.core pc).acc.read1 x = (s.core pc).acc.read1 x

theorem InBank.refl {s : State} {pc : Nat} (h : (s.core pc).acc.Sound) (bank : Nat) : InBank s s pc bank :=
  ⟨Stores.refl .., h, fun _ _ => rfl⟩

theorem InBank.trans {s t u : State} {pc bank : Nat} (h : InBank s t pc bank) (g : InBank t u pc bank) : InBank s u pc bank :=
  ⟨h.stores.trans g.stores, g.sound, fun x hx => (g.outside x hx).trans (h.outside x hx)⟩

theorem accAddr_eq (bank row col : Nat) : accAddr bank row col = bank * 65536 + row * 512 + col * 4 := by
  unfold accAddr
  ring

theorem State.writeLocal_inBank {s : State} {pc bank at_ : Nat} {d : List Byte} (h : (s.core pc).acc.Sound) (lo : bank * 65536 ≤ at_)
    (hi : at_ + d.length ≤ (bank + 1) * 65536) : InBank s (s.writeLocal pc 2 at_ d) pc bank := by
  rw [State.writeLocal_sound (pc := pc) (sp := 2) h]
  have hr : ((s.setLocalRam pc 2 ((s.localRam pc 2).write at_ d)).core pc).acc = (s.core pc).acc.write at_ d :=
    s.localRam_setLocalRam pc 2 _
  obtain ⟨sound, read⟩ := Ram.write_sound h at_ d
  refine ⟨State.setLocalRam_stores .., by rwa [hr], fun x hx => ?_⟩
  rw [hr, read, if_neg]
  omega

theorem State.writeAccRows_inBank {s : State} {pc : Nat} (h : (s.core pc).acc.Sound) (bank : Nat) {rows : List (List Nat)}
    (hn : rows.length ≤ 128) (hl : ∀ r ∈ rows, r.length ≤ 128) : InBank s (s.writeAccRows pc bank 0 rows) pc bank := by
  obtain ⟨hs, sound, -, other⟩ := State.writeAccRows_spec h bank 0 hl
  refine ⟨hs, sound, fun x hx => other x fun i hi => ?_⟩
  have width : (packBits 32 (rows.getD i [])).length ≤ 512 := by
    have := hl _ (List.getElem_mem hi)
    rw [length_packBits_32, List.getD_eq_getElem _ _ hi]
    omega
  have place := accAddr_eq bank 0 0
  rcases hx with hx | hx
  · exact .inl (by omega)
  · exact .inr ((Nat.add_le_add_left width _).trans (by omega))

theorem State.writeStat_inBank {s : State} {pc : Nat} (h : (s.core pc).acc.Sound) (bank : Nat) {rows : List RowPhase} (hn : rows.length ≤ 128)
    (fresh : Bool) : InBank s (s.writeStat pc bank rows fresh) pc bank := by
  have key : ∀ l : List (RowPhase × Nat), (∀ x ∈ l, x.2 < 128) → ∀ s : State, (s.core pc).acc.Sound → InBank s (s.forEach l fun s x =>
      let at0 := accAddr bank x.2 0
      let al := if fresh then f32one else x.1.alpha.getD f32one
      (s.writeLocal pc 2 at0 (leBytes 4 x.1.m ++ leBytes 4 x.1.l)).writeLocal pc 2 (at0 + 12) (leBytes 4 al)) pc bank := by
    intro l
    induction l with
    | nil => exact fun _ s h => .refl h bank
    | cons x l ih =>
      intro hl s h
      have hx := hl x (List.mem_cons_self ..)
      have h1 := State.writeLocal_inBank (bank := bank) (at_ := accAddr bank x.2 0) (d := leBytes 4 x.1.m ++ leBytes 4 x.1.l) h
        (by rw [accAddr_eq]; omega) (by simp [accAddr_eq]; omega)
      have h2 := State.writeLocal_inBank (bank := bank) (at_ := accAddr bank x.2 0 + 12)
        (d := leBytes 4 (if fresh then f32one else x.1.alpha.getD f32one)) h1.sound
        (by rw [accAddr_eq]; omega) (by simp [accAddr_eq]; omega)
      exact (h1.trans h2).trans (ih (fun y hy => hl y (List.mem_cons_of_mem _ hy)) _ h2.sound)
  refine key rows.zipIdx (fun x hx => ?_) s h
  have := List.snd_lt_of_mem_zipIdx hx
  omega

theorem State.Clean.maskReads {s : State} {a : Act} (h : s.Clean a.pc) (r : RowDesc) :
    CleanReads (s.maskReads a r).1 ∧ CleanReads (s.maskReads a r).2 := by
  have rd : ∀ d : Desc, CleanReads ((List.range d.rows.toNat).map fun k => (d.localSpace.toNat,
      (s.localRam a.pc d.localSpace.toNat).fetch ((d.loc a.loops 0).local0 + k * d.rowBytes) d.rowBytes)) := by
    intro d x hx
    obtain ⟨k, _, rfl⟩ := List.mem_map.1 hx
    exact (h.sound _).fetch_clean ..
  unfold State.maskReads
  split
  · exact ⟨rd _, rd _⟩
  · exact ⟨.nil, .nil⟩

/-- The scores that the row function gives a product. -/
def scoreRows (r : RowDesc) (masks : List (Nat × Fetched) × List (Nat × Fetched)) (p : List (List Nat)) : List (List Nat) :=
  p.zipIdx.map fun x => (rowScores r (maskOf r masks.1 masks.2 x.2) x.1).map (·.1)

theorem softmaxRow_scores (b : Bank) (r : RowDesc) (masked : Nat → Bool) (m l : Nat) (xs : List Nat) :
    (softmaxRow b r masked m l xs).scores = (rowScores r masked xs).map (·.1) := rfl

theorem plainRow_scores (r : RowDesc) (masked : Nat → Bool) (m l : Nat) (xs : List Nat) :
    (plainRow r masked m l xs).scores = (rowScores r masked xs).map (·.1) := rfl

/-- What an MMF writes: the scores, the product of its weights with D added to some accumulator, the row statistics, the status. -/
theorem State.mmfEffect_clean {s : State} {a : Act} (hc : s.Clean a.pc) (hb : (s.core a.pc).bankActive.errs = []) (f : MmfFields) :
    let q := (s.core a.pc).sq.prog
    let r := q.rowDesc f.descRow.toNat
    let tile := fun (i : BitVec 12) => s.readTile a.pc (q.desc i.toNat) a.loops 0
    ∃ (rows : List RowPhase) (o : Nat → Nat → Nat) (sat fresh : Bool) (fmt : Nat),
      rows.map (·.scores) = scoreRows r (s.maskReads a r) (product (tile f.descA) (tile f.descB) fun _ _ => 0) ∧
      s.mmfEffect a f =
        let s2 := s.writeAccRows a.pc f.bankP.toNat 0 (rows.map (·.scores))
        let s3 := s2.writeAccRows a.pc f.bankOut.toNat 0 (product (weightTile fmt sat rows) (tile f.descD) o)
        let s4 := if r.softmax == 1 then s3.writeStat a.pc r.statBank.toNat rows fresh else s3
        s4.writeStatus a r (rows.map (·.allMasked)) := by
  intro q r tile
  have rt := fun (i : BitVec 12) => hc.readTile (q.desc i.toNat) a.loops 0
  obtain ⟨hqs, hks⟩ := hc.maskReads r
  unfold State.mmfEffect
  extract_lets -lift k q' r' ta tb td m n2 fresh soft
  split
  next sb ob accs _ qs ks masks =>
    rw [show s.maskReads a r = (qs, ks) from masks] at hqs hks ⊢
    have haccs : CleanReads accs := CleanReads.ite _ .nil ((hc.accReads _ _ _ _).append (CleanReads.ite _ (hc.accReads _ _ _ _) .nil))
    have reads : CleanReads (ta.reads ++ tb.reads ++ td.reads ++ qs ++ ks ++ accs) :=
      (((((rt f.descA).append (rt f.descB)).append (rt f.descD)).append hqs).append hks).append haccs
    rw [State.checked_cleanReads s a reads]
    simp only [Bool.not_true, Bool.false_eq_true, if_false, State.bankReads_sound s a (b := k.bankActive) hb]
    refine ⟨_, _, _, _, _, ?_, rfl⟩
    rw [scoreRows, List.map_map]
    refine List.map_congr_left fun x _ => ?_
    simp only [Function.comp]
    split
    · rfl
    · rfl

/-- What a row of another bank holds is as before. -/
theorem InBank.readRaw {s t : State} {pc bank b i n : Nat} (h : InBank s t pc bank) (hb : b ≠ bank) (hi : i < 128) (hn : n ≤ 512) :
    (t.core pc).acc.readRaw (accAddr b i 0) n = (s.core pc).acc.readRaw (accAddr b i 0) n := by
  refine List.ext_getElem (by simp) fun x h1 h2 => ?_
  rw [Ram.length_readRaw] at h1
  rw [Ram.getElem_readRaw, Ram.getElem_readRaw]
  refine h.outside _ ?_
  rw [accAddr_eq]
  rcases Nat.lt_or_gt_of_ne hb with hb | hb
  · omega
  · omega

theorem shapeMmf_rows {q : Program} {banks : Nat} {loops : List Frame} {p : MmfFields} (h : shapeMmf q banks loops p = none) :
    (q.desc p.descA.toNat).rows.toNat ≤ 128 ∧ (q.desc p.descB.toNat).rows.toNat ≤ 128 ∧ (q.desc p.descD.toNat).rows.toNat ≤ 128 := by
  have := firstFail_none h _ (List.mem_cons_self ..)
  simp only [outside, Bool.or_eq_false_iff, decide_eq_false_iff_not] at this
  omega

/-- The banks of an MMF are three different ones (Table 5-4, order 4). -/
theorem shapeMmf_banks {q : Program} {banks : Nat} {loops : List Frame} {p : MmfFields} (h : shapeMmf q banks loops p = none) :
    p.bankP.toNat ≠ p.bankOut.toNat ∧
      ((q.rowDesc p.descRow.toNat).softmax == 1 → p.bankP.toNat ≠ (q.rowDesc p.descRow.toNat).statBank.toNat) := by
  have := firstFail_none h _ (List.mem_of_getElem? (i := 3) rfl)
  simp only [Bool.or_eq_false_iff, beq_eq_false_iff_ne, Bool.and_eq_false_iff] at this
  obtain ⟨hne, hst⟩ := this
  refine ⟨fun e => hne (BitVec.eq_of_toNat_eq e), fun hs e => ?_⟩
  rcases hst with hst | ⟨hst, -⟩
  · exact hst (by simpa using hs)
  · exact hst e.symm

theorem State.writeStatus_zero {s : State} {r : RowDesc} (h : r.status = 0) (a : Act) (l : List Bool) : s.writeStatus a r l = s := by
  rw [State.writeStatus, h, if_neg (by decide)]

theorem Issued.maskReads {s t : State} {i : Engine} {a : Act} {tm : Timing} (h : Issued s t i a tm) (r : RowDesc) :
    t.maskReads a r = s.maskReads a r := by
  simp only [State.maskReads, h.prog, h.localRam]

theorem length_scoreRows (r : RowDesc) (masks : List (Nat × Fetched) × List (Nat × Fetched)) (p : List (List Nat)) :
    (scoreRows r masks p).length = p.length := by simp [scoreRows]

theorem getD_scoreRows (r : RowDesc) (masks : List (Nat × Fetched) × List (Nat × Fetched)) {p : List (List Nat)} {i : Nat} (hi : i < p.length) :
    (scoreRows r masks p).getD i [] = (rowScores r (maskOf r masks.1 masks.2 i) (p.getD i [])).map (·.1) := by
  rw [List.getD_eq_getElem _ _ (by rwa [length_scoreRows]), List.getD_eq_getElem _ _ hi]
  simp [scoreRows]

theorem length_of_mem_scoreRows {r : RowDesc} {masks : List (Nat × Fetched) × List (Nat × Fetched)} {p : List (List Nat)} {n : Nat}
    (h : ∀ x ∈ p, x.length = n) {x : List Nat} (hx : x ∈ scoreRows r masks p) : x.length = n := by
  obtain ⟨y, hy, rfl⟩ := List.mem_map.1 hx
  rw [List.length_map, rowScores, List.length_map, List.length_zipIdx]
  exact h _ (List.fst_mem_of_mem_zipIdx hy)

/-- Settles O5: the scores are written first, and every later write of an MMF without a row status lies in another bank. -/
theorem mmfLeavesScores : Obligations.MmfLeavesScores := by
  unfold Obligations.MmfLeavesScores
  intro s c h f a tok hi ho hs hc hb q r ta tb
  split
  next qs ks masks =>
  intro hstatus
  obtain ⟨t0, ht, eq⟩ := State.issue_arith (fun _ _ => true) (fun a s => s.mmfEffect a f) hi ho hs rfl
  have hc0 := ht.clean hc
  obtain ⟨rows, o, sat, fresh, fmt, scores, body⟩ := State.mmfEffect_clean hc0 (by rw [ht.banks.1]; exact hb) f
  simp only [ht.prog, ht.readTile, ht.maskReads] at scores body
  obtain ⟨hA, hB, hD⟩ := shapeMmf_rows hs
  obtain ⟨hPO, hPS⟩ := shapeMmf_banks hs
  have hprod : ∀ x ∈ product ta tb (fun _ _ => 0), x.length = tb.rows.length := fun x hx => length_of_mem_product hx
  have hm : ta.rows.length ≤ 128 := (s.readTile_rows_length ..).trans_le hA
  have hn : tb.rows.length ≤ 128 := (s.readTile_rows_length ..).trans_le hB
  have hlen : rows.length = ta.rows.length := by
    have := congrArg List.length scores
    rwa [List.length_map, length_scoreRows, length_product] at this
  obtain ⟨-, sound2, kept, -⟩ := State.writeAccRows_spec hc0.acc f.bankP.toNat 0 (rows := rows.map (·.scores)) fun x hx => by
    rw [scores] at hx
    exact (length_of_mem_scoreRows hprod hx).trans_le hn
  have in3 := State.writeAccRows_inBank sound2 f.bankOut.toNat
    (rows := product (weightTile fmt sat rows) (s.readTile a.pc (q.desc f.descD.toNat) a.loops 0) o)
    (by rw [length_product]; simpa [weightTile, hlen] using hm)
    (fun x hx => by rw [length_of_mem_product hx, State.readTile_rows_length]; exact hD)
  refine ⟨_, congrArg Host.Outcome.next (eq.trans body), fun i hi => ?_⟩
  have row : (packBits 32 ((rows.map (·.scores)).getD i [])).length = 4 * tb.rows.length := by
    rw [length_packBits_32, scores, List.getD_eq_getElem _ _ (by rwa [length_scoreRows, length_product]),
      length_of_mem_scoreRows hprod (List.getElem_mem _)]
  have first := kept i (by rw [List.length_map, hlen]; exact hi)
  rw [← accAddr_add, Nat.zero_add] at first
  rw [row] at first
  have value : (rows.map (·.scores)).getD i [] =
      (rowScores r (maskOf r qs ks i) ((product ta tb fun _ _ => 0).getD i [])).map (·.1) := by
    have hmask : s.maskReads a ((s.core a.pc).sq.prog.rowDesc f.descRow.toNat) = (qs, ks) := masks
    rw [scores, getD_scoreRows _ _ (by rwa [length_product]), hmask]
  refine Eq.trans ?_ (first.trans (congrArg (packBits 32) value))
  rw [State.writeStatus_zero hstatus]
  split
  next hsoft =>
    exact ((State.writeStat_inBank in3.sound _ (hlen.trans_le hm) fresh).readRaw (hPS hsoft) (by omega) (by omega)).trans
      (in3.readRaw hPO (by omega) (by omega))
  · exact in3.readRaw hPO (by omega) (by omega)

end Sys2Proof.Machine
end

section
/-! SUPPORT. Events: what raising one leaves of the state, and what it counts. -/

namespace Sys2Proof.Machine

/-- `t` follows `s` by what is recorded alone: events, counters, filmstrips, trace objects, a core's freeze. -/
structure Logged (s t : State) : Prop where
  core : ∀ j, ∃ f b n, t.core j = { s.core j with film := f, frozen := b, frozenAt := n }
  rest : t = { s with out := t.out, dict := t.dict, blobs := t.blobs, localCounts := t.localCounts, eventSeq := t.eventSeq
                      eventGap := t.eventGap, cores := t.cores, hbm := t.hbm }

theorem Logged.refl (s : State) : Logged s s := ⟨fun _ => ⟨_, _, _, rfl⟩, rfl⟩

theorem Logged.trans {s t u : State} (h : Logged s t) (g : Logged t u) : Logged s u := by
  refine ⟨fun j => ?_, ?_⟩
  · obtain ⟨_, _, _, e⟩ := h.core j
    obtain ⟨_, _, _, e'⟩ := g.core j
    exact ⟨_, _, _, by rw [e', e]⟩
  · have hg := g.rest
    rw [h.rest] at hg
    exact hg

theorem Bookkept.logged {s t : State} (h : Bookkept s t) : Logged s t where
  core := h.core
  rest := by
    have out := congrArg State.out h.rest
    have blobs := congrArg State.blobs h.rest
    have seq := congrArg State.eventSeq h.rest
    have gap := congrArg State.eventGap h.rest
    dsimp only at out blobs seq gap
    rw [out, blobs, seq, gap]
    exact h.rest

theorem Logged.forEach {α : Type} {f : State → α → State} (hf : ∀ s x, Logged s (f s x)) (l : List α) (s : State) : Logged s (s.forEach l f) := by
  induction l generalizing s with
  | nil => exact .refl s
  | cons x l ih => exact (hf s x).trans (ih (f s x))

theorem Logged.parts {s t : State} (h : Logged s t) : t.parts = s.parts := by rw [h.rest]

theorem Logged.clusters {s t : State} (h : Logged s t) : t.clusters = s.clusters := by rw [h.rest]

theorem Logged.sq {s t : State} (h : Logged s t) (j : Nat) : (t.core j).sq = (s.core j).sq := by
  obtain ⟨_, _, _, e⟩ := h.core j
  rw [e]

theorem Logged.sameMemory {s t : State} (h : Logged s t) : SameMemory s t := by
  refine ⟨fun k => ?_, fun k => ?_, ?_⟩
  · obtain ⟨_, _, _, e⟩ := h.core k
    rw [e]
    exact ⟨rfl, rfl⟩
  · rw [State.cluster, h.clusters, State.cluster]
  · rw [h.rest]

theorem Logged.setNum (s : State) (o sub v : Nat) : Logged s (s.setNum o sub v) := (Bookkept.setNum s o sub v).logged

theorem Logged.emit (s : State) (x : Output) : Logged s (s.emit x) := ⟨fun _ => ⟨_, _, _, rfl⟩, rfl⟩

theorem Logged.setBlob (s : State) (o sub : Nat) (b : List Byte) : Logged s (s.setBlob o sub b) := ⟨fun _ => ⟨_, _, _, rfl⟩, rfl⟩

theorem Logged.eventSeq (s : State) (n : Nat) : Logged s { s with eventSeq := n } := ⟨fun _ => ⟨_, _, _, rfl⟩, rfl⟩

theorem Logged.eventRing (s : State) (kind : Nat) (rcd : List Byte) : Logged s (s.eventRing kind rcd) := by
  unfold State.eventRing
  dsimp only
  split
  · exact .refl s
  · split
    · exact ⟨fun _ => ⟨_, _, _, rfl⟩, rfl⟩
    · split <;> exact ⟨fun _ => ⟨_, _, _, rfl⟩, rfl⟩

theorem Logged.raise (s : State) (e : Event) : Logged s (s.raise e) := by
  unfold State.raise
  extract_lets rcd kept b s1 s2
  have hb : Logged s b := (Logged.setBlob ..).trans (.setNum ..)
  have h1 : Logged s s1 := hb.trans (.eventSeq ..)
  have h2 : Logged s s2 := h1.trans (.eventRing ..)
  split
  · exact h2
  · exact h2.trans (.forEach (fun t c => (Bookkept.trigger t _ c).logged) _ _)

theorem Logged.raiseStep (s : State) (p : Nat) (e : Event) : Logged s (s.raiseStep p e) := .raise ..

/-! ### What an event counts -/

theorem State.forEach_num {α : Type} {o sub : Nat} {f : State → α → State} (hf : ∀ s x, (f s x).num o sub = s.num o sub) (l : List α) (s : State) :
    (s.forEach l f).num o sub = s.num o sub := by
  induction l generalizing s with
  | nil => rfl
  | cons x l ih => exact (ih (f s x)).trans (hf s x)

/-- A trace's own objects have the subindices 9 and 10 (0x8100 + p). -/
theorem objKey_trace {o sub p k : Nat} (hs : sub < 256) (hk : k < 256) (h : sub ≠ k) : objKey o sub ≠ objKey (0x8100 + p) k := by
  unfold objKey
  omega

theorem State.filmTrigger_num {o sub : Nat} (hs : sub < 256) (h : sub ≠ 0x0A) (s : State) (p f cause : Nat) :
    (s.filmTrigger p f cause).num o sub = s.num o sub := by
  unfold State.filmTrigger
  dsimp only
  split
  · rfl
  · rw [State.num_bump, if_neg (objKey_trace hs (by decide) h)]
    unfold State.setFilm
    split <;> rfl

theorem State.trigger_num {o sub : Nat} (hs : sub < 256) (h9 : sub ≠ 9) (hA : sub ≠ 0x0A) (s : State) (p cause : Nat) :
    (s.trigger p cause).num o sub = s.num o sub := by
  unfold State.trigger
  split
  · rw [State.num_setNum_ne _ _ (objKey_trace hs (by decide) h9)]
    exact State.forEach_num (fun s f => s.filmTrigger_num hs hA p f cause) _ _
  · rfl

theorem State.eventRing_num {o sub : Nat} (h : ∀ k < 256, objKey o sub ≠ objKey 0x9000 k) (s : State) (kind : Nat) (rcd : List Byte) :
    (s.eventRing kind rcd).num o sub = s.num o sub := by
  have step : ∀ (t : State) k v, k < 256 → (t.setNum 0x9000 k v).num o sub = t.num o sub := fun t k v hk => State.num_setNum_ne t v (h k hk)
  unfold State.eventRing
  dsimp only
  split
  · rfl
  · split
    · exact step _ _ _ (by decide)
    · split <;> exact step _ _ _ (by decide)

theorem State.countEvent_num (s : State) (x : List Byte) (k o sub : Nat) : ((s.setBlob 0x9001 1 x).bump 0x9002 k 1).num o sub =
    if objKey o sub = objKey 0x9002 k then (s.num 0x9002 k + 1) % 2 ^ 64 else s.num o sub := State.num_bump ..

theorem State.eventSeq_num (s : State) (n o sub : Nat) : ({ s with eventSeq := n } : State).num o sub = s.num o sub := rfl

/-- Raising an event changes no number but the counter of its kind, the objects of the event ring and those of a trace. -/
theorem State.raise_num {o sub : Nat} (hs : sub < 256) (h9 : sub ≠ 9) (hA : sub ≠ 0x0A) (ho : o ≠ 0x9000) (s : State) {e : Event}
    (hk : e.kind < 256) : (s.raise e).num o sub =
      if o = 0x9002 ∧ sub = e.kind then (s.num 0x9002 e.kind + 1) % 2 ^ 64 else s.num o sub := by
  have hring : ∀ k < 256, objKey o sub ≠ objKey 0x9000 k := fun k hk' => by
    unfold objKey
    omega
  have hkey : objKey o sub = objKey 0x9002 e.kind ↔ o = 0x9002 ∧ sub = e.kind := by
    unfold objKey
    omega
  unfold State.raise
  extract_lets rcd kept b s1 s2
  have hb : b.num o sub = if o = 0x9002 ∧ sub = e.kind then (s.num 0x9002 e.kind + 1) % 2 ^ 64 else s.num o sub := by
    rw [← if_congr hkey rfl rfl]
    exact State.countEvent_num ..
  have h1 : s1.num o sub = b.num o sub := State.eventSeq_num ..
  have h2 : s2.num o sub = if o = 0x9002 ∧ sub = e.kind then (s.num 0x9002 e.kind + 1) % 2 ^ 64 else s.num o sub := by
    simp only [s2]
    rw [State.eventRing_num hring, h1, hb]
  split
  · exact h2
  · exact (State.forEach_num (fun t c => t.trigger_num hs h9 hA _ c) _ _).trans h2

/-- Each event is counted under its kind (R613). -/
theorem State.raise_counted (s : State) {e : Event} (hk : e.kind < 256) (h9 : e.kind ≠ 9) (hA : e.kind ≠ 0x0A) :
    (s.raise e).num 0x9002 e.kind = (s.num 0x9002 e.kind + 1) % 2 ^ 64 := by
  rw [State.raise_num hk h9 hA (by decide) s hk, if_pos ⟨rfl, rfl⟩]

end Sys2Proof.Machine
end

section
/-! SUPPORT. Stopping the units of a core and failing a step: what the sequencing state alone changes. -/

namespace Sys2Proof.Machine

/-- `t` follows `s` by changes to the sequencing state of cores and to counters alone. -/
structure Resequenced (s t : State) : Prop where
  core : ∀ j, ∃ q, t.core j = { s.core j with sq := q }
  rest : t = { s with localCounts := t.localCounts, cores := t.cores }

theorem Resequenced.refl (s : State) : Resequenced s s := ⟨fun _ => ⟨_, rfl⟩, rfl⟩

theorem Resequenced.trans {s t u : State} (h : Resequenced s t) (g : Resequenced t u) : Resequenced s u := by
  refine ⟨fun j => ?_, ?_⟩
  · obtain ⟨_, e⟩ := h.core j
    obtain ⟨_, e'⟩ := g.core j
    exact ⟨_, by rw [e', e]⟩
  · have hg := g.rest
    rw [h.rest] at hg
    exact hg

theorem Resequenced.forEach {α : Type} {f : State → α → State} (hf : ∀ s x, Resequenced s (f s x)) (l : List α) (s : State) :
    Resequenced s (s.forEach l f) := by
  induction l generalizing s with
  | nil => exact .refl s
  | cons x l ih => exact (hf s x).trans (ih (f s x))

theorem Resequenced.count (s : State) (o sub n : Nat) : Resequenced s (s.count o sub n) := by
  unfold State.count
  split
  · exact .refl s
  · exact ⟨fun _ => ⟨_, rfl⟩, rfl⟩

theorem Resequenced.modCore (s : State) (pc : Nat) {f : Core → Core} (hf : ∀ c, ∃ q, f c = { c with sq := q }) :
    Resequenced s (s.modCore pc f) := by
  refine ⟨fun j => ?_, rfl⟩
  rw [State.core_modCore]
  split
  next h => exact h ▸ hf _
  · exact ⟨_, rfl⟩

theorem Resequenced.account (s : State) (pc u : Nat) : Resequenced s (s.account pc u) := by
  unfold State.account
  dsimp only
  refine Resequenced.trans ?_ (.modCore _ pc fun _ => ⟨_, rfl⟩)
  split
  · exact .refl s
  · exact .count ..
  · exact (Resequenced.count ..).trans (.count ..)
  · exact (Resequenced.count ..).trans (.count ..)
  · split
    · exact .refl s
    · exact ((Resequenced.count ..).trans (.count ..)).trans (.count ..)

theorem Resequenced.accountCore (s : State) (pc : Nat) : Resequenced s (s.accountCore pc) := .forEach (fun s u => .account s pc u) _ _

theorem Resequenced.stopStep (s : State) (p : Nat) : Resequenced s (s.stopStep p) := by
  unfold State.stopStep
  split
  · exact .refl s
  · exact .forEach (fun t c => (Resequenced.accountCore t c).trans (.modCore _ c fun _ => ⟨_, rfl⟩)) _ _

theorem Resequenced.haltUnit (s : State) (pc u : Nat) (h : Halt) : Resequenced s (s.haltUnit pc u h) := .modCore _ pc fun _ => ⟨_, rfl⟩

theorem Resequenced.sameMemory {s t : State} (h : Resequenced s t) : SameMemory s t := by
  refine ⟨fun k => ?_, fun k => ?_, ?_⟩
  · obtain ⟨_, e⟩ := h.core k
    rw [e]
    exact ⟨rfl, rfl⟩
  · rw [h.rest]
    rfl
  · rw [h.rest]

theorem Resequenced.parts {s t : State} (h : Resequenced s t) : t.parts = s.parts := by rw [h.rest]

theorem Resequenced.num {s t : State} (h : Resequenced s t) (o sub : Nat) : t.num o sub = s.num o sub := by
  rw [h.rest]
  rfl

/-! ### The running step -/

theorem State.running_congr {s t : State} (h : t.parts = s.parts) (p : Nat) : t.running p = s.running p := by
  rw [State.running, State.part, h]
  rfl

/-- The running step of a partition, after a change to its running steps that leaves their stage. -/
theorem State.running_modRunning {s : State} {p : Nat} {y : Step} {g : Step → Step} (h : s.running p = some y)
    (hg : ∀ x, (g x).stage = x.stage) : (s.modRunning p g).running p = some (g y) := by
  have find : ∀ l : List Step, (l.map fun x => if decide (x.stage = .running) then g x else x).find? (fun x => decide (x.stage = .running)) =
      (l.find? fun x => decide (x.stage = .running)).map g := by
    intro l
    induction l with
    | nil => rfl
    | cons x l ih =>
      by_cases hx : x.stage = .running
      · simp [hx, hg]
      · simp only [List.map_cons, hx, decide_false, Bool.false_eq_true, if_false, List.find?_cons, ih]
  have hs : ((s.part p).queue ++ (s.part p).backfill).find? (fun x => decide (x.stage = .running)) = some y := h
  rw [State.running, State.modRunning, State.part_modPart_same, Part.running, Part.steps, Part.mapSteps]
  dsimp only
  rw [← List.map_append, find, hs]
  rfl

/-- A step that has not failed fails for the cause told. -/
theorem State.failStep_running {s : State} {p : Nat} {y : Step} (h : s.running p = some y) (hy : y.fail = none) (f : Failure) :
    (s.failStep p f).running p = some { y with fail := some f, replayReq := false } := by
  have h1 : (s.stopStep p).running p = some y := (State.running_congr (Resequenced.stopStep s p).parts p).trans h
  rw [State.failStep, State.running_modRunning h1 fun x => ?_]
  · rw [hy]
    rfl
  · split <;> rfl

theorem State.modRunning_sameMemory (s : State) (p : Nat) (g : Step → Step) : SameMemory s (s.modRunning p g) :=
  ⟨fun _ => ⟨rfl, rfl⟩, fun _ => rfl, rfl⟩

theorem State.failStep_sameMemory (s : State) (p : Nat) (f : Failure) : SameMemory s (s.failStep p f) :=
  (Resequenced.stopStep s p).sameMemory.trans (State.modRunning_sameMemory ..)

theorem State.failStep_num (s : State) (p : Nat) (f : Failure) (o sub : Nat) : (s.failStep p f).num o sub = s.num o sub :=
  (Resequenced.stopStep s p).num o sub

end Sys2Proof.Machine
end

section
/-! SUPPORT. A failing shape condition: the instruction does not issue, the step fails, one event for each faulting unit. -/

namespace Sys2Proof.Machine

theorem key_of_tabGet_ne {α : Type} {d : α} {t : Tab α} {k : Nat} (h : tabGet d t k ≠ d) : k ∈ t.map (·.1) := by
  induction t with
  | nil => exact absurd rfl h
  | cons x t ih =>
    rw [tabGet] at h
    split at h
    next e => exact List.mem_cons.2 (.inl e.symm)
    · exact List.mem_cons_of_mem _ (ih h)

section
variable {s : State} {c u : Nat} {i : Engine} {a : Act} {tok : Nat}

/-- An instruction that would issue but fails a shape condition raises its faults and stops its unit. -/
theorem Issues.shapeFails (h : Issues s c u i a tok) (m : State → Act → Meaning) {code : Nat} (hs : (m s a).shape = some code) :
    s.issue c u i m = (s.shapeFaults a.p (m s a).faults ⟨a.pc, u, a.idx, code⟩).haltUnit a.pc u .stopped := by
  obtain ⟨r, hp, hat⟩ := h.atHead
  obtain ⟨hc, hu, hidx, hlo⟩ := h.place
  have hact : (⟨a.p, c, a.pc, u, a.t, ((s.core a.pc).sq.unit u).pos, ((s.core a.pc).sq.unit u).loops⟩ : Act) = a := by
    rw [← hc, ← hidx, ← hlo, ← hu]
  have hbath : s.bathHolds r u ((s.core a.pc).sq.unit u).issued i = false := by
    unfold State.bathHolds
    rw [hp, h.noBath]
  unfold State.issue
  rw [h.settleLate]
  by_cases hb : (s.core a.pc).bpPass.testBit u = true
  · simp [hat, hbath, h.ready, h.first, hact, hs, hb, hp, hidx]
  · simp [hat, hbath, h.ready, h.addrBp, h.first, hact, hs, hb, hp, hidx]

/-- The faulting instruction is among the faults of its ac. -/
theorem Issues.mem_faultsAt (h : Issues s c u i a tok) (hu : u = 1 ∨ u = 2) {code : Nat} (hs : s.shapeAt a i = some code) {r : CoreRun}
    (hr : (s.core a.pc).run = some r) (hl : r.logical = a.c) : ⟨a.pc, u, a.idx, code⟩ ∈ s.faultsAt a := by
  obtain ⟨r', hr', hp⟩ := h.runs
  obtain rfl : r = r' := Option.some.inj (hr.symm.trans hr')
  obtain ⟨hc, hau, hidx, hlo⟩ := h.place
  have listed : a.pc ∈ s.cores.map (·.1) := key_of_tabGet_ne fun e => by
    have none : (s.core a.pc).run = none := congrArg Core.run e
    rw [none] at hr
    cases hr
  refine List.mem_flatMap.2 ⟨a.pc, listed, List.mem_filterMap.2 ⟨u, by simpa using hu, ?_⟩⟩
  have hact : (⟨a.p, r.logical, a.pc, u, a.t, ((s.core a.pc).sq.unit u).pos, ((s.core a.pc).sq.unit u).loops⟩ : Act) = a := by
    rw [hl, ← hidx, ← hlo, ← hau]
  simp [hr, h.head, h.ready, hp, h.free.1, hact, hs, hidx]
end

/-- Events of kind 4 raised one after another. -/
theorem State.shapeEvents_num (p : Nat) (l : List ShapeFault) (s : State) :
    (s.forEach l fun s g => s.raiseStep p { Event.of 0x04 (coreUnit g.pc g.unit) g.index with reason := g.code }).num 0x9002 4 =
      if l = [] then s.num 0x9002 4 else (s.num 0x9002 4 + l.length) % 2 ^ 64 := by
  induction l generalizing s with
  | nil => rfl
  | cons g l ih =>
    have one : (s.raiseStep p { Event.of 0x04 (coreUnit g.pc g.unit) g.index with reason := g.code }).num 0x9002 4 =
        (s.num 0x9002 4 + 1) % 2 ^ 64 := State.raise_counted s (show 4 < 256 by decide) (show 4 ≠ 9 by decide) (show 4 ≠ 0x0A by decide)
    refine (ih _).trans ?_
    rw [if_neg (List.cons_ne_nil _ _), List.length_cons, one]
    split
    next h => rw [h, List.length_nil]
    · omega

theorem State.shapeFaults_running {s : State} {p : Nat} {y : Step} (h : s.running p = some y) (hy : y.fail = none) (all : List ShapeFault)
    (f : ShapeFault) : (s.shapeFaults p all f).running p =
      some { y with fail := some ⟨2, f.code, 0, some (coreUnit f.pc f.unit)⟩, replayReq := false } := by
  have logged := Logged.forEach (fun s (g : ShapeFault) =>
    Logged.raiseStep s p { Event.of 0x04 (coreUnit g.pc g.unit) g.index with reason := g.code }) all s
  exact State.failStep_running ((State.running_congr logged.parts p).trans h) hy _

theorem State.shapeFaults_sameMemory (s : State) (p : Nat) (all : List ShapeFault) (f : ShapeFault) :
    SameMemory s (s.shapeFaults p all f) :=
  (Logged.forEach (fun s (g : ShapeFault) =>
    Logged.raiseStep s p { Event.of 0x04 (coreUnit g.pc g.unit) g.index with reason := g.code }) all s).sameMemory.trans
    (State.failStep_sameMemory ..)

/-- What a matrix or vector instruction of failing shape leaves. -/
theorem State.issue_shapeFault {s : State} {c u : Nat} {i : Engine} (hu : u = 1 ∨ u = 2) (ok : State → Act → Bool) (f : Act → State → State)
    {a : Act} {tok code : Nat} {y : Step} (h : Issues s c u i a tok) (hs : s.shapeAt a i = some code) (hy : s.running a.p = some y)
    (hf : y.fail = none) :
    let t := s.issue c u i fun s a => s.arith a i (ok s a) (f a)
    ∃ z, t.running a.p = some z ∧ z.fail = some ⟨2, code, 0, some (coreUnit a.pc u)⟩ ∧ ((t.core a.pc).sq.unit u).halt = .stopped ∧
      SameMemory s t ∧ (∀ r, (s.core a.pc).run = some r → r.logical = a.c → ⟨a.pc, u, a.idx, code⟩ ∈ s.faultsAt a) ∧
      (s.faultsAt a ≠ [] → t.num 0x9002 4 = (s.num 0x9002 4 + (s.faultsAt a).length) % 2 ^ 64) := by
  have faults : (s.arith a i (ok s a) (f a)).faults = s.faultsAt a := by
    rw [State.arith, hs]
    rfl
  dsimp only
  rw [h.shapeFails (fun s a => s.arith a i (ok s a) (f a)) hs, faults]
  have halt := Resequenced.haltUnit (s.shapeFaults a.p (s.faultsAt a) ⟨a.pc, u, a.idx, code⟩) a.pc u .stopped
  refine ⟨_, (State.running_congr halt.parts a.p).trans (State.shapeFaults_running hy hf ..), rfl, ?_, ?_, ?_, ?_⟩
  · simp [State.haltUnit]
  · exact (State.shapeFaults_sameMemory ..).trans halt.sameMemory
  · exact fun r hr hl => h.mem_faultsAt hu hs hr hl
  · intro hne
    rw [halt.num, State.shapeFaults, State.failStep_num, State.shapeEvents_num, if_neg hne]

/-- Settles O9: each of the eight instructions issues through the same check. -/
theorem shapeFaultStopsTheStep : Obligations.ShapeFaultStopsTheStep := by
  unfold Obligations.ShapeFaultStopsTheStep
  intro s c h stops
  have matrix := fun (x : Instr) (i : Engine) (f : Act → State → State)
    (ex : exec x s = .next (s.issue c.toNat 1 i fun s a => s.arith a i true (f a))) => show stops x i 1 from
    fun a tok code y hi hs hy hf => ⟨_, (State.issue_shapeFault (.inl rfl) (fun _ _ => true) f hi hs hy hf).imp fun z hz => ⟨ex, hz⟩⟩
  have vector := fun (x : Instr) (i : Engine) (ok : State → Act → Bool) (f : Act → State → State)
    (ex : exec x s = .next (s.issue c.toNat 2 i fun s a => s.arith a i (ok s a) (f a))) => show stops x i 2 from
    fun a tok code y hi hs hy hf => ⟨_, (State.issue_shapeFault (.inr rfl) ok f hi hs hy hf).imp fun z hz => ⟨ex, hz⟩⟩
  exact ⟨fun f => matrix _ _ (fun a s => s.matProblems a f 1 0) rfl,
    fun f => matrix _ _ (fun a s => s.matProblems a f.mat f.batch.toNat f.accStride.toNat) rfl,
    fun f => matrix _ _ (fun a s => s.mmfEffect a f) rfl, fun f => vector _ _ (fun _ _ => true) (fun a s => s.vopEffect a f) rfl,
    fun f => vector _ _ (fun _ _ => true) (fun a s => s.vcvtEffect a f) rfl,
    fun f => vector _ _ (fun _ _ => true) (fun a s => s.vrowEffect a f) rfl,
    fun f => vector _ _ (fun s a => s.swapReady a.pc f) (fun a s => s.sfnEffect a f) rfl,
    fun f => vector _ _ (fun _ _ => true) (fun a s => s.sfmEffect a f) rfl⟩

end Sys2Proof.Machine
end

section
/-! SUPPORT. Bytes copied between sound memories: a copy is a write of the bytes read, so it lands them and changes no other
byte (R103, R653). -/

namespace Sys2Proof.Machine

theorem leNat_lt (l : List Byte) : leNat l < 256 ^ l.length := by
  induction l with
  | nil => simp [leNat]
  | cons b l ih =>
    have := b.isLt
    simp only [leNat, List.length_cons, Nat.pow_succ]
    omega

/-- The bytes of a number made of bytes are those bytes. -/
theorem leBytes_leNat (l : List Byte) : leBytes l.length (leNat l) = l := by
  induction l with
  | nil => rfl
  | cons b l ih =>
    have hb := b.isLt
    have h1 : (b.toNat + 256 * leNat l) / 256 = leNat l := by omega
    have h2 : BitVec.ofNat 8 (b.toNat + 256 * leNat l) = b := BitVec.eq_of_toNat_eq (by rw [BitVec.toNat_ofNat]; omega)
    simp only [leNat, List.length_cons, leBytes, h1, h2, ih]

/-- A whole word of a sound memory stored in another place: its bytes, without an error. -/
theorem Ram.Sound.storeCode_codeWord {src : Ram} (h : src.Sound) (r : Ram) (w v : Nat) :
    r.storeCode w (src.codeWord v) = (r.writeRaw (8 * w) (src.readRaw (8 * v) 8)).setMask w 0 := by
  have hl : (src.readRaw (8 * v) 8).length = 8 := Ram.length_readRaw ..
  have hlt := leNat_lt (src.readRaw (8 * v) 8)
  rw [hl] at hlt
  have hb := leBytes_leNat (src.readRaw (8 * v) 8)
  rw [hl] at hb
  rw [Ram.storeCode, Ram.codeWord, h v, show eccEncode _ ^^^ (0 : CodeWord) = _ from BitVec.xor_zero, codeData_eccEncode, BitVec.xor_self, BitVec.toNat_ofNat,
    Nat.mod_eq_of_lt (by omega), hb]
  rfl

theorem Ram.readRaw_drop_take (r : Ram) (a n i k : Nat) (h : i + k ≤ n) : ((r.readRaw a n).drop i).take k = r.readRaw (a + i) k := by
  refine List.ext_getElem (by simp; omega) fun j h1 h2 => ?_
  rw [List.getElem_take, List.getElem_drop, Ram.getElem_readRaw, Ram.getElem_readRaw, Nat.add_assoc]

theorem Ram.getElem?_readRaw (r : Ram) (a n i : Nat) : (r.readRaw a n)[i]? = if i < n then some (r.read1 (a + i)) else none := by
  split
  next h => rw [List.getElem?_eq_getElem (by simpa using h), Ram.getElem_readRaw]
  next h => exact List.getElem?_eq_none (by simpa using h)

theorem Ram.mergeWord_congr (r : Ram) (w : Nat) {f g : Nat → Option Byte} (p : Bool) (h : ∀ i, i < 8 → f i = g i) :
    r.mergeWord w f p = r.mergeWord w g p := by
  have key : ∀ old : List Byte, (List.range 8).map (fun i => (f i).getD (old.getD i 0)) =
      (List.range 8).map fun i => (g i).getD (old.getD i 0) :=
    fun old => List.map_congr_left fun i hi => by rw [h i (List.mem_range.1 hi)]
  unfold Ram.mergeWord
  simp only [key]

theorem Ram.copy_eq_write {src : Ram} (h : src.Sound) (dst : Ram) (a b n : Nat) :
    Ram.copy src dst a b n = dst.write b (src.readRaw a n) := by
  unfold Ram.copy Ram.write
  rw [Ram.length_readRaw]
  refine List.foldl_ext _ _ _ fun r w hw => ?_
  obtain ⟨-, hlo, hhi⟩ := mem_wordsOf.1 hw
  by_cases hwhole : b ≤ 8 * w ∧ 8 * w + 8 ≤ b + n
  · rw [if_pos hwhole, Ram.readRaw_drop_take _ _ _ _ _ (by omega)]
    by_cases hal : a % 8 = b % 8
    · rw [if_pos ⟨hwhole.1, hwhole.2, hal⟩, h.storeCode_codeWord, show 8 * ((8 * w - b + a) / 8) = a + (8 * w - b) by omega]
    · rw [if_neg fun g => hal g.2.2]
      dsimp only
      rw [h.fetch_bytes, h.fetch_ue, max_eq_right hwhole.1, min_eq_right hwhole.2,
        Nat.add_sub_cancel_left, if_pos rfl, if_pos rfl, Nat.add_comm a]
  · rw [if_neg hwhole, if_neg fun g => hwhole ⟨g.1, g.2.1⟩]
    dsimp only
    rw [if_neg (by omega), h.fetch_bytes, h.fetch_ue]
    refine Ram.mergeWord_congr _ _ _ fun i hi => ?_
    rw [Ram.getElem?_readRaw, Ram.getElem?_readRaw]
    by_cases hin : max b (8 * w) ≤ 8 * w + i ∧ 8 * w + i < min (b + n) (8 * w + 8)
    · rw [if_pos hin, if_pos (by omega), if_pos (by omega), if_pos (by omega)]
      congr 2
      omega
    · rw [if_neg hin]
      split
      · rw [if_neg (by omega)]
      · rfl

/-- The bytes of a sound memory copied into a sound one. -/
theorem Ram.copy_sound {src dst : Ram} (h : src.Sound) (hd : dst.Sound) (a b n : Nat) :
    (Ram.copy src dst a b n).Sound ∧ HoldsRows dst (Ram.copy src dst a b n) b 0 1 fun _ => src.readRaw a n := by
  have hw := Ram.write_sound hd b (src.readRaw a n)
  rw [← Ram.copy_eq_write h] at hw
  obtain ⟨hs, hr⟩ := hw
  refine ⟨hs, fun i hi => ?_, fun x hx => ?_⟩
  · rw [Ram.readRaw_eq_iff]
    intro k hk
    obtain rfl : i = 0 := by omega
    rw [Nat.zero_mul, Nat.add_zero, hr, if_pos ⟨Nat.le_add_right .., Nat.add_lt_add_left hk b⟩, Nat.add_sub_cancel_left, List.getD_eq_getElem?_getD,
      List.getElem?_eq_getElem hk]
    rfl
  · have := hx 0 Nat.one_pos
    simp only [Nat.zero_mul, Nat.add_zero] at this
    rw [hr, if_neg (by omega)]

theorem Ram.readRaw_copy {src dst : Ram} (h : src.Sound) (hd : dst.Sound) (a b n : Nat) :
    (Ram.copy src dst a b n).readRaw b n = src.readRaw a n := by
  have := (Ram.copy_sound h hd a b n).2.1 0 (by omega)
  rwa [Ram.length_readRaw, Nat.zero_mul, Nat.add_zero] at this

theorem SameMemory.refl (s : State) : SameMemory s s := ⟨fun _ => ⟨rfl, rfl⟩, fun _ => rfl, rfl⟩

theorem OtherMemory.trans {s t u : State} {pc sp : Nat} (h : OtherMemory s t pc sp) (g : SameMemory t u) : OtherMemory s u pc sp := by
  obtain ⟨hc, hb, hd⟩ := g
  obtain ⟨ho, ha, hf, hm⟩ := h
  exact ⟨fun k n => (hc k).1.trans (ho k n), fun k n => (hc k).2.trans (ha k n), fun k n => (hb k).trans (hf k n), hd.trans hm⟩

theorem State.modCore_sameMemory (s : State) (pc : Nat) {f : Core → Core} (h : ∀ k, (f k).opnd = k.opnd ∧ (f k).acc = k.acc) :
    SameMemory s (s.modCore pc f) := by
  refine ⟨fun k => ?_, fun _ => rfl, rfl⟩
  rw [State.core_modCore]
  split
  next e => exact e ▸ h _
  · exact ⟨rfl, rfl⟩

theorem State.modCluster_sameMemory (s : State) (n : Nat) {f : Cluster → Cluster} (h : ∀ k, (f k).buf = k.buf) :
    SameMemory s (s.modCluster n f) := by
  refine ⟨fun _ => ⟨rfl, rfl⟩, fun k => ?_, rfl⟩
  rw [State.cluster_modCluster]
  split
  next e => exact e ▸ h _
  · rfl

theorem State.setArrived_sameMemory (s : State) (pc space : Nat) (r : Arrived) : SameMemory s (s.setArrived pc space r) := by
  unfold State.setArrived
  split
  · exact State.modCore_sameMemory _ _ fun _ => ⟨rfl, rfl⟩
  · exact State.modCluster_sameMemory _ _ fun _ => rfl
  · exact State.modCore_sameMemory _ _ fun _ => ⟨rfl, rfl⟩

theorem State.noteArrivals_sameMemory (s : State) (pc space a n : Nat) : SameMemory s (s.noteArrivals pc space a n) := by
  unfold State.noteArrivals
  dsimp only
  split
  · exact SameMemory.refl s
  · exact State.setArrived_sameMemory ..

/-- Bytes copied from a sound memory into a sound one of the core: they are read there, and no other byte changes. -/
theorem State.copyLocal_sound {s : State} {pc sp : Nat} {img : Ram} (hi : img.Sound) (hs : (s.localRam pc sp).Sound) (b a n : Nat) :
    HoldsRows (s.localRam pc sp) ((s.copyLocal pc sp img b a n).localRam pc sp) a 0 1 (fun _ => img.readRaw b n) ∧
      OtherMemory s (s.copyLocal pc sp img b a n) pc sp := by
  unfold State.copyLocal
  rw [State.merging_sound hs]
  have hm := State.noteArrivals_sameMemory (s.setLocalRam pc sp (Ram.copy img (s.localRam pc sp) b a n)) pc sp a n
  dsimp only
  rw [hm.localRam, State.localRam_setLocalRam]
  exact ⟨(Ram.copy_sound hi hs b a n).2, (State.setLocalRam_stores ..).otherMemory.trans hm⟩

/-- Bytes put into the buffer of a cluster by one of its own cores. -/
theorem State.putCluster_sound {s : State} {n pc : Nat} {img : Ram} (hi : img.Sound) (hn : n = clusterOfPhys pc) (hs : (s.cluster n).buf.Sound)
    (b a k : Nat) : HoldsRows (s.cluster n).buf ((s.putCluster false n img b a k).cluster n).buf a 0 1 (fun _ => img.readRaw b k) ∧
      OtherMemory s (s.putCluster false n img b a k) pc 1 := by
  have hp : clusterOfPhys (9 * n) = n := by unfold clusterOfPhys; omega
  have hl : ∀ t : State, t.localRam (9 * n) 1 = (t.cluster n).buf := fun t => by rw [State.localRam, hp]
  have h := State.copyLocal_sound (s := s) (pc := 9 * n) (sp := 1) hi (by rw [hl]; exact hs) b a k
  rw [hl, hl] at h
  obtain ⟨hr, ho, ha, hb, hd⟩ := h
  rw [hp] at hb
  rw [State.putCluster, if_neg (by decide)]
  exact ⟨hr, fun j _ => ho j (.inr (by decide)), fun j _ => ha j (.inr (by decide)), fun j hj => hb j (hn ▸ hj), hd⟩

/-! ### The transfers of a core's own cluster -/

theorem Issued.regionFor {s t : State} {i : Engine} {a : Act} {tm : Timing} (h : Issued s t i a tm) (d : Desc) : t.regionFor a d = s.regionFor a d := by
  rw [h.others]
  rfl

theorem Issued.stepAt {s t : State} {i : Engine} {a : Act} {tm : Timing} (h : Issued s t i a tm) : t.stepAt a = s.running a.p := by
  rw [h.others]
  rfl

theorem Issued.descAt {s t : State} {i : Engine} {a : Act} {tm : Timing} (h : Issued s t i a tm) (j : BitVec 12) : t.descAt a j = s.descAt a j := by
  rw [State.descAt, h.prog]
  rfl

theorem State.sound_empty : Ram.empty.Sound := fun _ => rfl

section
variable {s : State} {a : Act} {d : Desc} {x : Step} {g : RegionE} (hx : s.stepAt a = some x) (hg : s.regionFor a d = some g) (hk : g.kind = 7)
  (hc : s.Clean a.pc) (hm : (clusterPlace a d g).1 = clusterOf a.c) (hp : clusterOf a.c = clusterOfPhys a.pc)
include hx hg hk hc hm hp

/-- A load from the core's own cluster. -/
theorem State.loadEffect_cluster : HoldsRows (s.localRam a.pc d.localSpace.toNat)
    ((s.loadEffect a d).localRam a.pc d.localSpace.toNat) (d.loc a.loops 0).local0 0 1
      (fun _ => (s.cluster (clusterOf a.c)).buf.readRaw (clusterPlace a d g).2 d.bytes) ∧
    OtherMemory s (s.loadEffect a d) a.pc d.localSpace.toNat := by
  have hsrc : (s.cluster (clusterOf a.c)).buf.Sound := by rw [hp]; exact hc 1
  have hf : s.memFetch a x d g = (s, Ram.copy (s.cluster (clusterOf a.c)).buf .empty (clusterPlace a d g).2 0 d.bytes) := by
    unfold State.memFetch
    dsimp only
    rw [if_pos hk, if_pos (.inl hm), hm]
  have he : s.loadEffect a d = s.copyLocal a.pc d.localSpace.toNat
      (Ram.copy (s.cluster (clusterOf a.c)).buf .empty (clusterPlace a d g).2 0 d.bytes) 0 (d.loc a.loops 0).local0 d.bytes := by
    unfold State.loadEffect
    rw [hx, hg]
    dsimp only
    rw [hf, if_pos hk]
  rw [he, ← Ram.readRaw_copy hsrc State.sound_empty (clusterPlace a d g).2 0 d.bytes]
  exact State.copyLocal_sound (Ram.copy_sound hsrc State.sound_empty ..).1 (hc _) ..

/-- A store to the core's own cluster. -/
theorem State.storeEffect_cluster : HoldsRows (s.cluster (clusterOf a.c)).buf
    ((s.storeEffect a d).cluster (clusterOf a.c)).buf (clusterPlace a d g).2 0 1
      (fun _ => (s.localRam a.pc d.localSpace.toNat).readRaw (d.loc a.loops 0).local0 d.bytes) ∧
    OtherMemory s (s.storeEffect a d) a.pc 1 := by
  have he : s.storeEffect a d = s.putCluster false (clusterOf a.c) (s.localRam a.pc d.localSpace.toNat) (d.loc a.loops 0).local0
      (clusterPlace a d g).2 d.bytes := by
    unfold State.storeEffect
    rw [hx, hg]
    dsimp only
    rw [if_pos hk, if_pos hm, hm]
  rw [he]
  exact State.putCluster_sound (hc _) hp (by rw [hp]; exact hc 1) ..
end

/-- A halo from the core's own cluster. -/
theorem State.haloIn_cluster {s : State} {a : Act} {f : HaloFields} {g : RegionE} (hg : s.regionFor a (s.descAt a f.descRemote) = some g)
    (hc : s.Clean a.pc) (hp : clusterOf a.c = clusterOfPhys a.pc) :
    HoldsRows (s.localRam a.pc (s.descAt a f.descLocal).localSpace.toNat)
      ((s.haloIn a f).localRam a.pc (s.descAt a f.descLocal).localSpace.toNat) ((s.descAt a f.descLocal).loc a.loops 0).local0 0 1
      (fun _ => (s.cluster (clusterOf a.c)).buf.readRaw (clusterPlace a (s.descAt a f.descRemote) g).2 (s.descAt a f.descLocal).bytes) ∧
    OtherMemory s (s.haloIn a f) a.pc (s.descAt a f.descLocal).localSpace.toNat := by
  have he : s.haloIn a f = s.copyLocal a.pc (s.descAt a f.descLocal).localSpace.toNat (s.cluster (clusterOf a.c)).buf
      (clusterPlace a (s.descAt a f.descRemote) g).2 ((s.descAt a f.descLocal).loc a.loops 0).local0 (s.descAt a f.descLocal).bytes := by
    unfold State.haloIn
    dsimp only
    rw [hg]
  rw [he]
  exact State.copyLocal_sound (by rw [hp]; exact hc 1) (hc _) ..

/-- Settles O10: the effect of a transfer of the own cluster is a copy between two sound memories. -/
theorem localTransfersCopy : Obligations.LocalTransfersCopy := by
  unfold Obligations.LocalTransfersCopy
  intro s c h a tok x g hx hc hk tile bytes
  refine ⟨?_, ?_, ?_, ?_⟩
  · intro desc hi ho hg hm hp
    obtain ⟨t, ht, eq⟩ := State.issue_transfer (fun s a => transferTiming (s.isLocal a (s.descAt a desc)) (s.descAt a desc).granules)
      (fun s a t => t.loadEffect a (s.descAt a desc)) hi ho
    have hac : a.c = c.toNat := hi.place.1
    rw [← hac] at hm hp ⊢
    obtain ⟨hr, hom⟩ := State.loadEffect_cluster (ht.stepAt.trans hx) ((ht.regionFor _).trans hg) hk (ht.clean hc) hm hp
    rw [ht.localRam, ht.buf] at hr
    exact ⟨_, congrArg Host.Outcome.next eq, hr, ht.sameMemory.otherMemory hom⟩
  · intro desc hi ho hg hm hp
    obtain ⟨t, ht, eq⟩ := State.issue_transfer (fun s a => transferTiming (s.isLocal a (s.descAt a desc)) (s.descAt a desc).granules)
      (fun s a t => t.storeEffect a (s.descAt a desc)) hi ho
    have hac : a.c = c.toNat := hi.place.1
    rw [← hac] at hm hp ⊢
    obtain ⟨hr, hom⟩ := State.storeEffect_cluster (ht.stepAt.trans hx) ((ht.regionFor _).trans hg) hk (ht.clean hc) hm hp
    rw [ht.localRam, ht.buf] at hr
    exact ⟨_, congrArg Host.Outcome.next eq, hr, ht.sameMemory.otherMemory hom⟩
  · intro f hi ho hg hp
    obtain ⟨t, ht, eq⟩ := State.issue_transfer (fun s a => transferTiming true (s.descAt a f.descLocal).granules)
      (fun _ a t => t.haloIn a f) hi ho
    have hac : a.c = c.toNat := hi.place.1
    rw [← hac] at hp ⊢
    obtain ⟨hr, hom⟩ := State.haloIn_cluster (f := f) (by rw [ht.descAt]; exact (ht.regionFor _).trans hg) (ht.clean hc) hp
    simp only [ht.localRam, ht.buf, ht.descAt] at hr hom
    exact ⟨_, congrArg Host.Outcome.next eq, hr, ht.sameMemory.otherMemory hom⟩
  · intro f hi ho hg
    obtain ⟨t, ht, eq⟩ := State.issue_transfer
      (fun s a => transferTiming (s.isLocal a (s.descAt a f.descRemote)) (s.descAt a f.descLocal).granules)
      (fun _ a t => t.haloOut a f) hi ho
    exact ⟨t, congrArg Host.Outcome.next eq, ht⟩

end Sys2Proof.Machine
end

section
/-! SUPPORT. A nanosecond in which no command comes: what it counts, and the contact sheets of hangs that waited. -/

namespace Sys2Proof.Machine

/-- The state of a partition apart from the time its steps have been busy. -/
def Part.clockless (q : Part) : Part := q.mapSteps (fun _ => true) fun x => { x with busyNs := 0 }

/-- `t` follows `s` by counts alone: local counts, the objects of Table 12-4 and the busy time of steps. -/
structure Counted (s t : State) : Prop where
  rest : t = { s with localCounts := t.localCounts, dict := t.dict, parts := t.parts }
  steps : ∀ p, (t.part p).clockless = (s.part p).clockless
  num : ∀ o sub, sub < 256 → o < 0x8400 ∨ 0x840F < o → t.num o sub = s.num o sub

theorem Counted.refl (s : State) : Counted s s := ⟨rfl, fun _ => rfl, fun _ _ _ _ => rfl⟩

theorem Counted.trans {s t u : State} (h : Counted s t) (g : Counted t u) : Counted s u where
  rest := by
    have hg := g.rest
    rw [h.rest] at hg
    exact hg
  steps p := (g.steps p).trans (h.steps p)
  num o sub hs ho := (g.num o sub hs ho).trans (h.num o sub hs ho)

theorem Counted.forEach {α : Type} {f : State → α → State} (l : List α) (hf : ∀ s x, x ∈ l → Counted s (f s x)) (s : State) :
    Counted s (s.forEach l f) := by
  induction l generalizing s with
  | nil => exact .refl s
  | cons x l ih => exact (hf s x (List.mem_cons_self ..)).trans (ih (fun s y hy => hf s y (List.mem_cons_of_mem _ hy)) (f s x))

theorem Counted.count (s : State) (o sub n : Nat) : Counted s (s.count o sub n) := by
  refine ⟨?_, fun p => by rw [State.count_part], fun o2 sub2 _ _ => State.count_num ..⟩
  unfold State.count
  split <;> rfl

theorem Counted.countClass (s : State) (k : Nat) : Counted s (s.countClass k) := by
  unfold State.countClass
  dsimp only
  split
  · exact .count ..
  · split
    · exact .count ..
    · exact .refl s

theorem Part.clockless_mapSteps (q : Part) (f : Step → Bool) : (q.mapSteps f fun y => { y with busyNs := y.busyNs + 1 }).clockless = q.clockless := by
  have key : ∀ l : List Step, (l.map fun x => if f x then { x with busyNs := x.busyNs + 1 } else x).map (fun x => { x with busyNs := 0 }) =
      l.map fun x => { x with busyNs := 0 } := fun l => by
    rw [List.map_map]
    refine List.map_congr_left fun x _ => ?_
    simp only [Function.comp_apply]
    split <;> rfl
  simp only [Part.clockless, Part.mapSteps, if_true, key]

theorem State.idleCounter_lt (s : State) (p : Nat) : s.idleCounter p < 10 := by
  unfold State.idleCounter
  dsimp only
  split
  · decide
  · split
    · decide
    · split
      · decide
      · split <;> split <;> decide

theorem Counted.countIdle (s : State) {p : Nat} (hp : p < 16) : Counted s (s.countIdle p) := by
  have hc := s.idleCounter_lt p
  have hb : Counted s (s.bump (0x8400 + p) (s.idleCounter p) 1) := by
    refine ⟨rfl, fun _ => rfl, fun o sub hs ho => ?_⟩
    rw [State.num_bump, if_neg]
    unfold objKey
    omega
  unfold State.countIdle
  dsimp only
  split
  next x _ =>
    refine hb.trans ⟨rfl, fun j => ?_, fun _ _ _ _ => rfl⟩
    rw [State.modStep, State.part_modPart]
    split
    next h => rw [h, Part.clockless_mapSteps]
    · rfl
  · exact hb

theorem Counted.hangAt {s t : State} (h : Counted s t) (p : Nat) : (t.part p).hangAt = (s.part p).hangAt := by
  show (t.part p).clockless.hangAt = (s.part p).clockless.hangAt
  rw [h.steps]

theorem State.mem_enabledParts_lt {s : State} {p : Nat} (h : p ∈ s.enabledParts) : p < 16 := by
  unfold State.enabledParts at h
  exact List.mem_range.1 (List.mem_of_mem_filter h)

theorem State.nodup_enabledParts (s : State) : s.enabledParts.Nodup := List.nodup_range.filter _

theorem Counted.enabledParts {s t : State} (h : Counted s t) : t.enabledParts = s.enabledParts := by
  unfold State.enabledParts
  refine List.filter_congr fun p hp => ?_
  have := List.mem_range.1 hp
  rw [h.num _ _ (by decide) (by omega)]

/-- The counts of a nanosecond of an awake module. -/
def State.nsCounts (s : State) : State := (s.forEach (List.range 24) State.countClass).forEach s.enabledParts State.countIdle

theorem Counted.nsCounts (s : State) : Counted s s.nsCounts :=
  (Counted.forEach _ (fun s k _ => .countClass s k) s).trans (.forEach _ (fun s _ hp => .countIdle s (State.mem_enabledParts_lt hp)) _)

theorem State.advance_spec (s : State) : s.advance = { s with now := s.advance.now, time := s.advance.time } ∧ s.now ≤ s.advance.now ∧
    s.advance.now ≤ s.now + 2 ∧ (s.time.slew = 0 → s.advance.now = s.now + 1) := by
  unfold State.advance
  dsimp only
  split
  · exact ⟨rfl, Nat.le_add_right s.now 1, Nat.add_le_add_left (by decide) s.now, fun _ => rfl⟩
  · split
    · exact ⟨rfl, Nat.le_add_right s.now 1, Nat.add_le_add_left (by decide) s.now, fun _ => rfl⟩
    · split
      · exact ⟨rfl, Nat.le_add_right s.now 2, Nat.le_refl _, fun h => absurd h (by assumption)⟩
      · exact ⟨rfl, Nat.le_refl _, Nat.le_add_right s.now 2, fun h => absurd h (by assumption)⟩

/-! ### Hangs that waited -/

theorem State.capture_rest (s : State) (cause p n : Nat) : ∃ b d, s.capture cause p n =
    { s.setNum 0x8120 4 ((s.num 0x8120 4 + 1) % 2 ^ 32) with blobs := b, freeCtr := d } := by
  unfold State.capture
  generalize s.sheet cause p n = b
  exact ⟨_, _, rfl⟩

theorem State.num_capture (s : State) (cause p n o sub : Nat) : (s.capture cause p n).num o sub =
    if objKey o sub = objKey 0x8120 4 then (s.num 0x8120 4 + 1) % 2 ^ 32 else s.num o sub := by
  obtain ⟨b, d, h⟩ := s.capture_rest cause p n
  rw [h]
  exact State.num_setNum ..

/-- A waiting hang of another partition leaves this one's, the time, the conductor and the stop baths as they are. -/
theorem State.settleHang_frame (s : State) (q : Nat) : (s.settleHang q).now = s.now ∧ (s.settleHang q).conductor = s.conductor ∧
    (∀ p, (s.settleHang q).num (0x8130 + p) 8 = s.num (0x8130 + p) 8) ∧ ∀ p, p ≠ q → (s.settleHang q).part p = s.part p := by
  unfold State.settleHang
  split
  · exact ⟨rfl, rfl, fun _ => rfl, fun _ _ => rfl⟩
  · split
    · exact ⟨rfl, rfl, fun _ => rfl, fun _ _ => rfl⟩
    · have hn : ∀ p, (s.capture 1 q 0).num (0x8130 + p) 8 = s.num (0x8130 + p) 8 := fun p => by
        rw [State.num_capture, if_neg]
        unfold objKey
        omega
      obtain ⟨b, d, h⟩ := s.capture_rest 1 q 0
      rw [h] at hn ⊢
      exact ⟨rfl, rfl, hn, fun p hp => by rw [State.part_modPart, if_neg hp]; rfl⟩

theorem State.settleHangs_frame (l : List Nat) : ∀ s : State, (s.forEach l State.settleHang).now = s.now ∧
    (s.forEach l State.settleHang).conductor = s.conductor ∧
    (∀ p, (s.forEach l State.settleHang).num (0x8130 + p) 8 = s.num (0x8130 + p) 8) ∧
    ∀ p, p ∉ l → (s.forEach l State.settleHang).part p = s.part p := by
  induction l with
  | nil => exact fun s => ⟨rfl, rfl, fun _ => rfl, fun _ _ => rfl⟩
  | cons q l ih =>
    intro s
    obtain ⟨h1, h2, h3, h4⟩ := s.settleHang_frame q
    obtain ⟨g1, g2, g3, g4⟩ := ih (s.settleHang q)
    exact ⟨g1.trans h1, g2.trans h2, fun p => (g3 p).trans (h3 p), fun p hp =>
      (g4 p fun h => hp (List.mem_cons_of_mem _ h)).trans (h4 p fun h => hp (h ▸ List.mem_cons_self ..))⟩

/-- A hang that waited is captured once a conductor is in office and no stop bath is stopping its partition. -/
theorem State.settleHang_captures {s : State} {p τ : Nat} (hc : s.conductor.inOffice = true) (hh : (s.part p).hangAt = some τ)
    (hn : s.num (0x8130 + p) 8 ≠ 2) : ((s.settleHang p).part p).hangAt = none ∧ ((s.settleHang p).part p).lastHang = some s.now := by
  unfold State.settleHang
  rw [hh]
  dsimp only
  rw [if_neg (by simp [hc, hn]), State.part_modPart_same]
  exact ⟨rfl, rfl⟩

theorem State.settleHangs_captures {l : List Nat} {p τ : Nat} (hp : p ∈ l) (hl : l.Nodup) : ∀ {s : State}, s.conductor.inOffice = true →
    (s.part p).hangAt = some τ → s.num (0x8130 + p) 8 ≠ 2 →
    ((s.forEach l State.settleHang).part p).hangAt = none ∧ ((s.forEach l State.settleHang).part p).lastHang = some s.now := by
  induction l with
  | nil => simp at hp
  | cons q l ih =>
    intro s hc hh hn
    obtain ⟨hq, hl'⟩ := List.nodup_cons.1 hl
    obtain ⟨h1, h2, h3, h4⟩ := s.settleHang_frame q
    show (((s.settleHang q).forEach l State.settleHang).part p).hangAt = none ∧
      (((s.settleHang q).forEach l State.settleHang).part p).lastHang = some s.now
    by_cases he : p = q
    · subst he
      rw [(State.settleHangs_frame l _).2.2.2 p hq]
      exact State.settleHang_captures hc hh hn
    · have := ih ((List.mem_cons.1 hp).resolve_left he) hl' (s := s.settleHang q) (by rw [h2]; exact hc) (by rw [h4 p he]; exact hh)
        (by rw [h3]; exact hn)
      rwa [h1] at this

theorem State.settleHangs_none (l : List Nat) : ∀ {s : State}, (∀ p, (s.part p).hangAt = none) → s.forEach l State.settleHang = s := by
  induction l with
  | nil => exact fun _ => rfl
  | cons q l ih =>
    intro s h
    have hq : s.settleHang q = s := by
      unfold State.settleHang
      rw [h q]
    show (s.settleHang q).forEach l State.settleHang = s
    rw [hq]
    exact ih h

/-- A nanosecond of a module that is on. -/
theorem State.idle_running {s : State} (h : s.power.phase = .running) : s.idle =
    ({ s with conductor := s.conductor.tick } : State).nsCounts.advance.forEach
      ({ s with conductor := s.conductor.tick } : State).nsCounts.advance.enabledParts State.settleHang := by
  unfold State.idle State.nsCounts
  rw [if_neg (by rw [h]; decide), if_pos h]

/-- Settles O59: a nanosecond is counts, the advance of the time and the captures due. -/
theorem stepRunsTheFrontCommand : Obligations.StepRunsTheFrontCommand := by
  unfold Obligations.StepRunsTheFrontCommand
  intro s clocks
  refine ⟨fun c rest h => by rw [step, h], fun hp => ?_⟩
  have hstep : step s = .next s.idle := by rw [step, hp]
  rw [hstep]
  refine ⟨fun h => by rw [State.idle, if_pos h], fun hon => ⟨_, rfl, ?_⟩⟩
  by_cases hrun : s.power.phase = .running
  · obtain ⟨hrest, hlo, hhi, hone⟩ := ({ s with conductor := s.conductor.tick } : State).nsCounts.advance_spec
    have hc := Counted.nsCounts ({ s with conductor := s.conductor.tick } : State)
    rw [State.idle_running hrun]
    generalize ({ s with conductor := s.conductor.tick } : State).nsCounts = u at hrest hlo hhi hone hc ⊢
    generalize u.advance = v at hrest hlo hhi hone ⊢
    have hnow : u.now = s.now := by rw [hc.rest]
    have hslew : u.time.slew = s.time.slew := by rw [hc.rest]
    have hpart : ∀ p, v.part p = u.part p := fun p => by rw [hrest]; rfl
    have hnum : ∀ o sub, v.num o sub = u.num o sub := fun o sub => by rw [hrest]; rfl
    obtain ⟨fnow, -, -, -⟩ := State.settleHangs_frame v.enabledParts v
    rw [fnow]
    refine ⟨hnow ▸ hlo, hnow ▸ hhi, fun h => hnow ▸ hone (hslew.trans h), fun hh => ?_, fun p τ _ hp ho ht hn => ?_⟩
    · rw [State.settleHangs_none _ fun p => by rw [hpart, hc.hangAt]; exact hh p]
      refine ⟨?_, fun p => ?_, fun o sub hs hb => ?_⟩
      · rw [hrest, hc.rest]
      · rw [hpart]
        exact hc.steps p
      · rw [hnum]
        exact hc.num o sub hs hb
    · have he : v.enabledParts = s.enabledParts := by
        have : v.enabledParts = u.enabledParts := by rw [hrest]; rfl
        exact this.trans hc.enabledParts
      have hv : v.conductor = s.conductor.tick := by rw [hrest, hc.rest]
      refine State.settleHangs_captures (he ▸ hp) v.nodup_enabledParts (τ := τ) (by rw [hv]; exact ho) ?_ ?_
      · rw [hpart, hc.hangAt]
        exact ht
      · rw [hnum, hc.num _ _ (by decide) (by have := State.mem_enabledParts_lt hp; omega)]
        exact hn
  · obtain ⟨hrest, hlo, hhi, hone⟩ := ({ s with conductor := s.conductor.tick } : State).advance_spec
    have he : s.idle = ({ s with conductor := s.conductor.tick } : State).advance := by
      rw [State.idle, if_neg hon]
      exact if_neg hrun
    rw [he]
    refine ⟨hlo, hhi, hone, fun _ => ⟨?_, fun p => ?_, fun o sub _ _ => ?_⟩, fun p τ h => absurd h hrun⟩
    · rw [hrest]
    · rw [hrest]
      rfl
    · rw [hrest]
      rfl

end Sys2Proof.Machine
end

section
/-! SUPPORT. The reset state. -/

namespace Sys2Proof.Machine

/-- Settles O58: every table of the reset state is empty, so each entry reads as an unlisted one does. -/
theorem resetState : Obligations.ResetState := by
  unfold Obligations.ResetState
  intro s
  have ram : ∀ a w, Ram.empty.read1 a = 0 ∧ (Ram.empty.checkWord w).2 = .clean :=
    fun _ w => ⟨rfl, by rw [State.sound_empty.checkWord]⟩
  refine ⟨rfl, rfl, rfl, rfl, rfl, fun _ _ => rfl, ?_, ?_, ?_, fun _ => rfl, fun w => (ram 0 w).2, fun pc sp a w => ?_, fun _ _ => rfl, rfl⟩
  · decide +kernel
  · decide +kernel
  · decide +kernel
  · rcases space_cases sp with rfl | rfl | ⟨h0, h1⟩
    · exact ram a w
    · exact ram a w
    · rw [State.localRam_two _ _ h0 h1]
      exact ram a w

end Sys2Proof.Machine
end

section
/-! SUPPORT. The counterexample to O12: the store's landing in another cluster finds a landing counter's word uncorrectable, and the fence
of that cluster resets the very core whose flight is to be marked, because the core map gives it a place beyond its own cluster. -/

namespace Sys2Proof.Machine

/-- A header without wait and signals. -/
def plainHeader : Header := ⟨0, 0, ⟨0, 0, 0, 0, 0⟩, ⟨0, 0, 0, 0, 0⟩⟩

/-- A request of client 0 for slot 0. -/
def plainRequest : Request :=
  { client := 0, seq := 1, epoch := 0, slot := 0, flags := 0, deadline := 0, size := [1], tag := 0, args := [], taken := 0, malformed := false }

/-- A step of that request, running. -/
def plainStep : Step :=
  { req := plainRequest, stage := .running, slot := 0, bracket := 0, onFallback := false, backfill := false, acceptTime := 0, bound := 0
    planned := 0, cls := 0, classes := [], clock := 0, startTime := 0, started := true, queueWait := 0, collWait := 0, excused := 0
    parkedNs := 0, parkedAt := 0, segment := 0, segEnd := 0, arrived := [], atEnd := false, breach := false, dodgePass := none
    replayed := false, rollback := false, preempted := false, preemptReq := false, fail := none, replayReq := false, fenced := false
    pins := [], exports := [], savedCores := [], savedClusters := [], insts := [], oldInsts := [], waitBase := 0, nmuOpen := [], runs := 0
    peerWait := 0, thermNs := 0, busyNs := 0, arrivedAt := 0, leaving := [], rollReq := false, determ := false, compat := false
    speculative := false, mapGen := 0, mapRetired := [] }

namespace StrayStore

/-- The store: a start of collective 0 with one row of 256 bytes. -/
def store : Engine := .st plainHeader ⟨0, 1, 0⟩

/-- The region it writes: cluster memory of cluster 1. -/
def region : RegionE := ⟨1, 7, 0, 1, 0, 0, 16, 2, 0, 0⟩

/-- Its collective. -/
def coll : CollE := ⟨0, 7, 9, 1, 1, [0, 1], 4096, 1024⟩

/-- Physical core 9, the first of cluster 1, which carries logical core 0 of cluster 0. -/
def core : Core :=
  { Core.idle with
    run := some ⟨0, 1, 0, 0, 0, false⟩
    sq := ⟨⟨0, [], [encodeDesc { decodeDesc 0 with fmt := 4, rows := 1, rowElems := 256, region := 1 }], [[], [], [], [], [encodeEngine store]], []⟩,
      [(4, ⟨0, [], 0, .running, 0⟩)], [], [], [], []⟩ }

/-- Cluster 1: its landing counter 0 counts what is written, and its word is uncorrectable. -/
def cluster : Cluster := { Cluster.idle with land := [(0, ⟨0, 0, true, 0, 1000, 0, 0, 1⟩)], landErrs := [(0, poisonMask)] }

/-- The module: number 0, one slot of the shared pool, the step's image in slot 0. -/
def state : State :=
  (((({ State.reset with
      cores := [(9, core)], clusters := [(1, cluster)], parts := [(0, { Part.idle with queue := [plainStep] })]
      slots := [(0, ⟨some { Image.empty with regions := [region], colls := [coll] }, [], none⟩)] } : State).setNum 0x9100 1 9).setNum
    0x2100 1 1).setNum 0x6110 1 1).setNum 0x6100 1 0

def act : Act := ⟨0, 0, 9, 4, 0, 0, []⟩

theorem issues : Issues state 0 4 store act 0 where
  carried := by decide +kernel
  runs := ⟨_, rfl, rfl⟩
  free := by decide +kernel
  running := by decide +kernel
  head := by decide +kernel
  place := by decide +kernel
  ready := by decide +kernel
  first := by decide +kernel
  settled := by decide +kernel
  sound := by decide +kernel
  noBath := by decide +kernel
  noBreak n _ h := (by decide +kernel : ∀ n ≤ 8, (state.num (bpObj 0) n).testBit 63 = false) n h

theorem noOverflow : NoOverflow state act.pc store := by
  intro k
  have ht : ((state.core act.pc).sq.token k).count = 0 := rfl
  have hs : addedTo k (issueSigs store) = 0 := rfl
  omega

/-- The core has been reset: its flight is gone. -/
theorem flights_gone : ∃ t, exec (.stCollectiveStart 0 plainHeader 0 0) state = .next t ∧ (t.core act.pc).sq.flights = [] :=
  ⟨_, rfl, by decide +kernel⟩

end StrayStore

/-- Refutes O12: the flight that is to carry its operation has gone with the reset of its core. -/
theorem not_commandStoresSend : ¬ Obligations.CommandStoresSend := by
  unfold Obligations.CommandStoresSend
  intro h
  obtain ⟨-, hst⟩ := h StrayStore.state 0 plainHeader StrayStore.act 0 0 plainStep StrayStore.region (by decide +kernel) (by decide +kernel)
  obtain ⟨t, i, pre, he, -, -, -, -, -, -, -, hf⟩ := hst 0 StrayStore.coll StrayStore.issues StrayStore.noOverflow (by decide +kernel)
    (by decide +kernel) (by decide +kernel) (by decide +kernel)
  obtain ⟨u, hu, hnil⟩ := StrayStore.flights_gone
  rw [he] at hu
  obtain rfl : t = u := by injection hu
  rw [hnil] at hf
  exact absurd hf (by decide)

end Sys2Proof.Machine
end

section
/-! SUPPORT. A flight that lands: its signals, its place, the operation that notes them. -/

namespace Sys2Proof.Machine

theorem Signalled.sameMemory {s t : State} {pc : Nat} {n : Nat → Nat} (h : Signalled s t pc n) : SameMemory s t := by
  refine ⟨fun k => ?_, h.buf, by rw [h.rest]⟩
  obtain ⟨_, _, _, _, _, e⟩ := h.core k
  rw [e]
  exact ⟨rfl, rfl⟩

theorem State.runOf_core {s : State} {c p pc : Nat} {k : Core} (h : s.runOf c = some (p, pc, k)) : s.core pc = k := by
  unfold State.runOf at h
  split at h
  · cases h
  · obtain ⟨r, -, e⟩ := Option.map_eq_some_iff.1 h
    injection e with _ e
    injection e with e1 e2
    rw [← e1]
    exact e2

/-- A flight that leaves when no signal made before that ac is still to be judged. -/
theorem State.land_spec {s : State} {p c pc : Nat} {f : Flight} {t : Nat} (hlate : ∀ g ∈ (s.core pc).sq.late, t ≤ g.made)
    (htok : ∀ j, ((s.core pc).sq.token j).count + addedTo j f.sigs ≤ 65535) (herr : (s.core pc).tokErrs = []) :
    Landed s (s.land p c pc f t) pc f ∧
      s.land p c pc f t = { s with dict := (s.land p c pc f t).dict, localCounts := (s.land p c pc f t).localCounts
                                   cores := (s.land p c pc f t).cores, clusters := (s.land p c pc f t).clusters
                                   hbm := (s.land p c pc f t).hbm } := by
  unfold State.land
  rw [State.judgeLate_none _ _ _ _ hlate]
  extract_lets s0 s1 s2
  have hb : Bookkept s1 s2 := Bookkept.traceCore ..
  have hcore : s1.core pc = { s.core pc with ac := max (s.core pc).ac t, sq := { (s.core pc).sq with flights := (s.core pc).sq.flights.erase f } } :=
    State.core_modCore_same ..
  obtain ⟨_, _, _, e2⟩ := hb.core pc
  rw [hcore] at e2
  have hg := State.signals_spec p c pc f.unit t f.sigs s2 (by rw [e2]; exact htok) (by rw [e2]; exact herr)
  have hsq := hg.sq
  have hk := hg.tokens
  rw [e2] at hsq hk
  have hm : SameMemory s s1 := State.modCore_sameMemory s pc fun _ => ⟨rfl, rfl⟩
  refine ⟨⟨by rw [hsq], hk, by rw [hsq], hm.trans (hb.logged.sameMemory.trans hg.sameMemory)⟩, ?_⟩
  have hr := hg.rest
  generalize (s2.forEach f.sigs fun s g => s.headerSignal p c pc f.unit g t) = v at hr ⊢
  rw [hb.rest] at hr
  exact hr

theorem State.noteSignals_rest (s : State) (c pc : Nat) (f : Flight) : s.noteSignals c pc f = { s with coll := (s.noteSignals c pc f).coll } := by
  unfold State.noteSignals
  split <;> rfl

/-- An operation is found again after a change that leaves its name. -/
theorem State.inst_modInst {s : State} {g q : Nat} {i : Inst} (h : s.inst g q = some i) {f : Inst → Inst}
    (hf : (f i).group = i.group ∧ (f i).seq = i.seq) : (s.modInst g q f).inst g q = some (f i) := by
  unfold State.inst State.modInst at *
  dsimp only
  generalize s.coll.insts = l at h
  induction l with
  | nil => cases h
  | cons x l ih =>
    by_cases hx : x.group = g ∧ x.seq = q
    · rw [List.find?_cons_of_pos (by simp [hx])] at h
      obtain rfl : x = i := by injection h
      rw [List.map_cons, if_pos hx, List.find?_cons_of_pos (by simp [hf, hx])]
    · have hn : (x.group == g && x.seq == q) = false := by simpa using hx
      rw [List.find?_cons_of_neg (by simp [hn])] at h
      rw [List.map_cons, if_neg hx, List.find?_cons_of_neg (by simp [hn])]
      exact ih h

/-- Settles O13: what completes lands; an ST of mode 1 notes its signals on its operation first. -/
theorem completionsSignal : Obligations.CompletionsSignal := by
  unfold Obligations.CompletionsSignal
  intro s c u p pc k f hrun htok herr
  have hk := State.runOf_core hrun
  refine ⟨fun hf hlate => ?_, fun ac hf hlate => ?_⟩
  · obtain ⟨hl, hr⟩ := State.land_spec (s := s) (p := p) (c := c.toNat) (pc := pc) (f := f) (t := f.complete.getD 0) (by rw [hk]; exact hlate)
      htok (by rw [hk]; exact herr)
    refine ⟨_, ?_, hl, hr⟩
    show execInstructionComplete c u s = _
    rw [execInstructionComplete, hrun]
    dsimp only
    rw [hf]
  · have hn := State.noteSignals_rest s c.toNat pc f
    have hcore : (s.noteSignals c.toNat pc f).core pc = s.core pc := by rw [hn]; rfl
    obtain ⟨hl, hr⟩ := State.land_spec (s := s.noteSignals c.toNat pc f) (p := p) (c := c.toNat) (pc := pc) (f := f)
      (t := max ac (f.issued + f.granules)) (by rw [hcore, hk]; exact hlate) (by rw [hcore]; exact htok) (by rw [hcore, hk]; exact herr)
    obtain ⟨h1, h2, h3, h4⟩ := hl
    rw [hcore] at h1 h2 h3
    have hmem : SameMemory s (s.noteSignals c.toNat pc f) := by rw [hn]; exact ⟨fun _ => ⟨rfl, rfl⟩, fun _ => rfl, rfl⟩
    refine ⟨_, ?_, ⟨h1, h2, h3, hmem.trans h4⟩, fun h0 => ?_, fun i h0 hi => ?_⟩
    · show execTransferComplete c u ac s = _
      rw [execTransferComplete, hrun]
      dsimp only
      rw [hf]
    · rw [hr]
      show (s.noteSignals c.toNat pc f).coll = _
      rw [State.noteSignals, if_pos h0]
    · rw [hr]
      show (s.noteSignals c.toNat pc f).inst _ _ = _
      rw [State.noteSignals, if_neg h0]
      exact State.inst_modInst hi (by split <;> exact ⟨rfl, rfl⟩)

end Sys2Proof.Machine
end

section
/-! SUPPORT. Signals that arrive in a cluster: from another core, and from a landing counter. -/

namespace Sys2Proof.Machine

/-- What a signal that does not overflow does to its token, apart from the records it leaves. -/
theorem State.signal_bookkept (s : State) (p c pc u k inc t vis : Nat) (h : ((s.core pc).sq.token k).count + inc ≤ 65535)
    (he : (s.core pc).tokErrs = []) : ∃ v : Token, v.count = ((s.core pc).sq.token k).count + inc ∧
      Bookkept (s.modCore pc fun x => { x with sq := x.sq.setToken k v, ac := max x.ac t }) (s.signal p c pc u k inc t vis) := by
  have hr : ((s.core pc).sq.token k).raised ((s.core pc).sq.held k t) inc vis =
      some ⟨((s.core pc).sq.token k).count + inc, ((s.core pc).sq.token k).pend ++ [(vis, inc)]⟩ := by
    unfold Token.raised
    rw [if_neg (by omega)]
  refine ⟨⟨((s.core pc).sq.token k).count + inc, ((s.core pc).sq.token k).pend ++ [(vis, inc)]⟩, rfl, ?_⟩
  unfold State.signal
  rw [State.tokenRead_sound s p pc u k he]
  simp only [hr, Bool.not_true, Bool.false_eq_true, if_false]
  exact (Bookkept.traceCore ..).trans (.tokenBp ..)

/-- A signal raises its token alone, and leaves the clusters and all memories as they are. -/
theorem State.signal_raises (s : State) (p c pc u k inc t vis : Nat) (h : ((s.core pc).sq.token k).count + inc ≤ 65535)
    (he : (s.core pc).tokErrs = []) :
    (((s.signal p c pc u k inc t vis).core pc).sq.token k).count = ((s.core pc).sq.token k).count + inc ∧
      (∀ j, j ≠ k → ((s.signal p c pc u k inc t vis).core pc).sq.token j = (s.core pc).sq.token j) ∧
      (s.signal p c pc u k inc t vis).clusters = s.clusters ∧ SameMemory s (s.signal p c pc u k inc t vis) := by
  obtain ⟨v, hv, hb⟩ := s.signal_bookkept p c pc u k inc t vis h he
  have hsq : ((s.signal p c pc u k inc t vis).core pc).sq = (s.core pc).sq.setToken k v := by
    rw [hb.logged.sq, State.core_modCore_same]
  rw [hsq]
  refine ⟨?_, fun j hj => ?_, hb.logged.clusters, SameMemory.trans (State.modCore_sameMemory s pc (by exact fun _ => ⟨rfl, rfl⟩)) hb.logged.sameMemory⟩
  · rw [Seqr.token_setToken, if_pos rfl, hv]
  · rw [Seqr.token_setToken, if_neg hj]

theorem State.cluster_congr {s t : State} (h : t.clusters = s.clusters) (k : Nat) : t.cluster k = s.cluster k := by
  rw [State.cluster, h]
  rfl

/-- Settles O14: the signal taken out of the cluster is made on the core that carries its logical core. -/
theorem arrivingSignalsRaiseTokens : Obligations.ArrivingSignalsRaiseTokens := by
  unfold Obligations.ArrivingSignalsRaiseTokens
  intro s k
  constructor
  · intro g rest p pc x hg hrun htok herr
    obtain rfl := State.runOf_core hrun
    obtain ⟨h1, h2, h3, h4⟩ := (s.modCluster k.toNat fun x => { x with remote := rest }).signal_raises p (8 * k.toNat + g.core) pc 0 g.token
      g.inc (g.visible - 1) g.visible htok herr
    refine ⟨_, ?_, ?_, h1, h2, SameMemory.trans (State.modCluster_sameMemory s k.toNat (by exact fun _ => rfl)) h4⟩
    · show execRemoteTokenSignal k s = _
      have hr : ((s.core pc).sq.token g.token).raised ((s.core pc).sq.held g.token (g.visible - 1)) g.inc g.visible =
          some ⟨((s.core pc).sq.token g.token).count + g.inc, ((s.core pc).sq.token g.token).pend ++ [(g.visible, g.inc)]⟩ := by
        unfold Token.raised
        rw [if_neg (by omega)]
      have hrun' : (s.modCluster k.toNat fun x => { x with remote := rest }).runOf (8 * k.toNat + g.core) = some (p, pc, s.core pc) := hrun
      rw [execRemoteTokenSignal, hg]
      dsimp only
      rw [hrun']
      dsimp only
      rw [hr]
    · rw [State.cluster_congr h3, State.cluster_modCluster_same]
  · intro counter ac p pc x l hdue hrun htok herr
    obtain rfl := State.runOf_core hrun
    obtain ⟨h1, -, h3, h4⟩ := (s.modCluster k.toNat fun x =>
        { x with land := tabMod Landing.unbound x.land counter.toNat fun (l : Landing) => { l with due := l.due - 1 } }).signal_raises p
      (8 * k.toNat + l.core) pc 0 l.token 1 (ac - 1) ac htok herr
    refine ⟨_, ?_, ?_, h1, SameMemory.trans (State.modCluster_sameMemory s k.toNat (by exact fun _ => rfl)) h4⟩
    · show execLandingSignal k counter ac s = _
      have hrun' : (s.modCluster k.toNat fun x =>
        { x with land := tabMod Landing.unbound x.land counter.toNat fun (l : Landing) => { l with due := l.due - 1 } }).runOf
          (8 * k.toNat + l.core) = some (p, pc, s.core pc) := hrun
      rw [execLandingSignal]
      dsimp only
      rw [if_neg hdue, hrun']
    · rw [State.cluster_congr h3, State.cluster_modCluster_same]
      exact tabGet_tabSet_same ..

end Sys2Proof.Machine
end

section
/-! SUPPORT. The barrier of a step: the running step after a change of it, and a core that leaves its yield point. -/

namespace Sys2Proof.Machine

theorem Step.is_self (x : Step) : x.is x = true := by simp [Step.is]

theorem find?_map_if {α : Type} {l : List α} {x : α} {c f : α → Bool} {g : α → α} (h : l.find? c = some x) (hx : f x = true)
    (hg : c (g x) = true) (hc : ∀ z, f z = true → c z = false → c (g z) = false ∨ g z = g x) :
    (l.map fun z => if f z then g z else z).find? c = some (g x) := by
  induction l with
  | nil => cases h
  | cons z l ih =>
    rw [List.map_cons]
    by_cases hz : c z = true
    · rw [List.find?_cons_of_pos hz] at h
      obtain rfl : z = x := by injection h
      rw [if_pos hx, List.find?_cons_of_pos hg]
    · rw [List.find?_cons_of_neg hz] at h
      by_cases hf : f z = true
      · rw [if_pos hf]
        rcases hc z hf (by simpa using hz) with hn | he
        · rw [List.find?_cons_of_neg (by simp [hn])]
          exact ih h
        · rw [he, List.find?_cons_of_pos hg]
      · rw [if_neg hf, List.find?_cons_of_neg hz]
        exact ih h

theorem State.running_stage {s : State} {p : Nat} {x : Step} (h : s.running p = some x) : x.stage = .running := by
  simpa using List.find?_some h

/-- The running step after a change of it that leaves stages. -/
theorem State.running_modStep {s : State} {p : Nat} {x : Step} (h : s.running p = some x) {g : Step → Step} (hg : ∀ z, (g z).stage = z.stage) :
    (s.modStep p x g).running p = some (g x) := by
  rw [State.running, State.modStep, State.part_modPart_same, Part.running, Part.steps, Part.mapSteps]
  dsimp only
  rw [← List.map_append]
  exact find?_map_if h (Step.is_self x) (by simpa [hg] using State.running_stage h) fun z _ hz => .inl (by simpa [hg] using hz)

/-- The running step after it is replaced. -/
theorem State.running_replace {s : State} {p : Nat} {x z y : Step} (h : s.running p = some x) (hz : x.is z = true) (hy : y.stage = .running) :
    (s.modStep p z fun _ => y).running p = some y := by
  rw [State.running, State.modStep, State.part_modPart_same, Part.running, Part.steps, Part.mapSteps]
  dsimp only
  rw [← List.map_append]
  exact find?_map_if (g := fun _ => y) h hz (by simpa using hy) fun _ _ _ => .inr rfl

theorem State.modStep_sameMemory (s : State) (p : Nat) (x : Step) (g : Step → Step) : SameMemory s (s.modStep p x g) :=
  ⟨fun _ => ⟨rfl, rfl⟩, fun _ => rfl, rfl⟩

/-- A unit that goes on past its YIELD in ac `t`. -/
def UnitSt.released (t : Nat) (v : UnitSt) : UnitSt :=
  { v.advance with halt := .running, nextIssue := max t v.nextIssue, issued := v.issued }

/-- The core with its units gone on. -/
def Core.released (t : Nat) (k : Core) : Core :=
  { k with ac := max k.ac t, sq := (List.range 5).foldl (fun q u => q.setUnit u ((q.unit u).released t)) k.sq }

theorem Seqr.foldl_setUnit (g : UnitSt → UnitSt) (q : Seqr) (n : Nat) :
    (∀ j, ((List.range n).foldl (fun q u => q.setUnit u (g (q.unit u))) q).token j = q.token j) ∧
    ∀ j, ((List.range n).foldl (fun q u => q.setUnit u (g (q.unit u))) q).unit j = if j < n then g (q.unit j) else q.unit j := by
  induction n with
  | zero => exact ⟨fun _ => rfl, fun _ => rfl⟩
  | succ n ih =>
    obtain ⟨ht, hu⟩ := ih
    rw [List.range_succ, List.foldl_append, List.foldl_cons, List.foldl_nil]
    refine ⟨fun j => (Seqr.token_setUnit ..).trans (ht j), fun j => ?_⟩
    rw [Seqr.unit_setUnit, hu, hu, if_neg (Nat.lt_irrefl n)]
    by_cases hj : j = n
    · rw [if_pos hj, if_pos (by omega), hj]
    · rw [if_neg hj]
      exact if_congr (by omega) rfl rfl

theorem Core.released_tokErrs (t : Nat) (k : Core) : (k.released t).tokErrs = k.tokErrs := by rw [Core.released]

theorem Core.released_token (t : Nat) (k : Core) (j : Nat) : (k.released t).sq.token j = k.sq.token j :=
  (Seqr.foldl_setUnit (UnitSt.released t) k.sq 5).1 j

theorem Core.released_unit (t : Nat) (k : Core) {u : Nat} (hu : u < 5) : (k.released t).sq.unit u = (k.sq.unit u).released t := by
  rw [← if_pos (α := UnitSt) (c := u < 5) hu (t := (k.sq.unit u).released t) (e := k.sq.unit u)]
  exact (Seqr.foldl_setUnit (UnitSt.released t) k.sq 5).2 u

/-- The signals of several headers made one after another. -/
theorem State.headSignals_spec (p c pc t : Nat) (l : List (Nat × Engine)) : ∀ s : State,
    (∀ k, ((s.core pc).sq.token k).count + addedTo k (l.flatMap fun h => h.2.header.sigs 0 ++ h.2.header.sigs 1) ≤ 65535) →
    (s.core pc).tokErrs = [] → ∃ n, Signalled s (s.forEach l fun s h => s.forEach (h.2.header.sigs 0 ++ h.2.header.sigs 1) fun s g =>
      s.headerSignal p c pc h.1 g t) pc n := by
  induction l with
  | nil => exact fun s _ _ => ⟨_, (Bookkept.refl s).signalled pc⟩
  | cons h l ih =>
    intro s htok herr
    simp only [List.flatMap_cons, addedTo_append] at htok
    have h1 := State.signals_spec p c pc h.1 t (h.2.header.sigs 0 ++ h.2.header.sigs 1) s
      (fun k => by have := htok k; rw [addedTo_append]; omega) herr
    obtain ⟨_, _, _, _, _, e⟩ := h1.core pc
    obtain ⟨n, h2⟩ := ih _ (fun k => by have := htok k; rw [h1.tokens, addedTo_append]; omega) (by rw [e]; exact herr)
    exact ⟨_, h1.trans h2⟩

/-- A core that leaves its yield point: its units run again, past the YIELD, in ac `t` or later. -/
theorem State.leaveYield_spec {s : State} {p c pc t : Nat} (herr : (s.core pc).tokErrs = [])
    (htok : ∀ k, ((s.core pc).sq.token k).count + addedTo k (((List.range 5).filterMap (s.core pc).sq.head).flatMap fun e =>
        e.header.sigs 0 ++ e.header.sigs 1) ≤ 65535) :
    (s.leaveYield p c pc t).parts = s.parts ∧ SameMemory s (s.leaveYield p c pc t) ∧
      ∀ u, u < 5 → ((s.leaveYield p c pc t).core pc).sq.unit u = ((s.core pc).sq.unit u).released t := by
  unfold State.leaveYield
  extract_lets q heads s1 s2 s3 ended
  have h1 : Resequenced s s1 := .forEach (fun s u => .count ..) _ _
  have hc1 : s1.core pc = s.core pc := 
    foldl_keeps (fun v : State => v.core pc = s.core pc) (fun _ h _ => (State.count_core ..).trans h) _ rfl
  have e2 : s2 = s1.modCore pc (Core.released t) := rfl
  have h2 : s2.core pc = (s.core pc).released t := by rw [e2, State.core_modCore_same, hc1]
  have hm : SameMemory s1 s2 := State.modCore_sameMemory s1 pc fun _ => ⟨rfl, rfl⟩
  clear_value s2
  obtain ⟨n, h3⟩ : ∃ n, Signalled s2 s3 pc n := by
    refine State.headSignals_spec p c pc t heads s2 ?_ ?_
    · intro k
      have he : (heads.flatMap fun h => h.2.header.sigs 0 ++ h.2.header.sigs 1) =
          ((List.range 5).filterMap (s.core pc).sq.head).flatMap fun e => e.header.sigs 0 ++ e.header.sigs 1 := by
        simp only [heads, q, List.filterMap_eq_flatMap_toList, List.flatMap_assoc]
        refine List.flatMap_congr fun u _ => ?_
        cases (s.core pc).sq.head u <;> rfl
      rw [h2, Core.released_token, he]
      exact htok k
    · rw [h2, Core.released_tokErrs]
      exact herr
  have h4 : Bookkept s3 (s3.traceCore pc t 0x04 0 (2 * 2 ^ 78 + ended * 2 ^ 62)) := .traceCore ..
  refine ⟨?_, h1.sameMemory.trans (hm.trans (h3.sameMemory.trans h4.logged.sameMemory)), fun u hu => ?_⟩
  · rw [h4.logged.parts, h3.rest, e2]
    exact h1.parts
  · have h5 : (s3.core pc).sq.unit u = (s2.core pc).sq.unit u := by
      rw [h3.sq]
      rfl
    rw [h4.logged.sq, h5, h2]
    exact Core.released_unit t _ hu

theorem State.stepCores_congr {s t : State} {x y : Step} (hs : t.slots = s.slots) (hx : y.slot = x.slot ∧ y.bracket = x.bracket) :
    t.stepCores y = s.stepCores x := by
  rw [State.stepCores, State.imageOf, State.slot, hs, hx.1, hx.2]
  rfl

/-- The barrier complete at a yield point that ends no pass, with no pre-emption: every core may leave, in the next segment. -/
theorem State.yieldDone_released {s : State} {p : Nat} {x : Step} (h : s.running p = some x)
    (hp : (s.imageOf x.slot).passEnded x.bracket x.segment = none) (hq : x.preemptReq = false) :
    ∃ y, (s.yieldDone p x).running p = some y ∧ y.arrived = [] ∧ y.leaving = s.stepCores x ∧ y.segment = x.segment + 1 := by
  obtain ⟨n, h1⟩ : ∃ n, s.segmentDone x = { x with thermNs := n } := ⟨_, rfl⟩
  unfold State.yieldDone
  rw [h1]
  dsimp only
  rw [hp]
  dsimp only [Option.bind_none]
  rw [if_neg (by simp [hq])]
  simp only [Bool.false_eq_true, if_false]
  exact ⟨_, State.running_replace h (z := { x with thermNs := n }) (Step.is_self x) (show x.stage = .running from State.running_stage h), rfl, State.stepCores_congr rfl ⟨rfl, rfl⟩, rfl⟩

section
variable {s : State} {c : CoreId} {pc : Nat} {r : CoreRun} {x : Step} (hpc : s.physOf c.toNat = some pc) (hr : (s.core pc).run = some r)
  (hx : s.running r.part = some x) (hf : x.fail = none) (hp : x.replayReq = false) (hb : x.rollReq = false)
include hpc hr hx hf hp hb

/-- A core's arrival, up to the decision whether it was the last one. -/
theorem State.barrierArrival_spec {e : Bool} (ho : s.conductor.inOffice = true) (hst : (s.core pc).stoppedAt = some e)
    (hna : x.arrived.contains c.toNat = false) (hnl : x.leaving.contains c.toNat = false) (hnm : tabGet 0 x.nmuOpen c.toNat = 0)
    (hlate : (s.core pc).sq.late = []) :
    ∃ t y, y = { x with arrived := x.arrived ++ [c.toNat], arrivedAt := s.now, atEnd := e } ∧ t.running r.part = some y ∧ t.slots = s.slots ∧
      execBarrierArrival c s = .next (if (s.stepCores x).all (x.arrived ++ [c.toNat]).contains = false then t
        else if e then t.settle r.part else t.yieldDone r.part y) := by
  have hj : s.judgeLate r.part pc (2 ^ 64) = s := State.judgeLate_none _ _ _ _ fun g hg => by
    rw [hlate] at hg
    exact absurd hg List.not_mem_nil
  have hb' : Bookkept s (s.traceCore pc (s.core pc).ac 0x04 0 ((if e then 1 else 0) * 2 ^ 78 + x.segment * 2 ^ 62)) := .traceCore ..
  generalize hu : s.traceCore pc (s.core pc).ac 0x04 0 ((if e then 1 else 0) * 2 ^ 78 + x.segment * 2 ^ 62) = u at hb'
  have hru : u.running r.part = some x := (State.running_congr hb'.logged.parts _).trans hx
  have hsl : u.slots = s.slots := by rw [hb'.rest]
  have hnow : u.now = s.now := by rw [hb'.rest]
  refine ⟨u.modStep r.part x fun _ => { x with arrived := x.arrived ++ [c.toNat], arrivedAt := s.now, atEnd := e }, _, rfl,
    State.running_replace hru (Step.is_self x) (show x.stage = .running from State.running_stage hx), hsl, ?_⟩
  have hsc : (u.modStep r.part x fun _ => { x with arrived := x.arrived ++ [c.toNat], arrivedAt := s.now, atEnd := e }).stepCores
      { x with arrived := x.arrived ++ [c.toNat], arrivedAt := s.now, atEnd := e } = s.stepCores x := State.stepCores_congr hsl ⟨rfl, rfl⟩
  rw [execBarrierArrival, if_neg (by rw [ho]; decide)]
  dsimp only
  rw [hpc]
  dsimp only
  rw [hr]
  dsimp only
  rw [hst, Option.isSome_some, if_pos rfl, hj, hx]
  dsimp only
  rw [if_neg (by rw [hf, hp, hb]; decide), hst]
  dsimp only
  rw [if_neg (by rw [hna, hnl, hnm]; decide), hu, hnow, hsc]
  cases (s.stepCores x).all (x.arrived ++ [c.toNat]).contains <;> rfl

end

/-- Settles O15: an arrival is noted on the running step, the last one opens the barrier, and a release starts the core's units. -/
theorem barrierGathersAndReleases : Obligations.BarrierGathersAndReleases := by
  unfold Obligations.BarrierGathersAndReleases
  intro s c pc r x hpc hr hx hf hp hb
  refine ⟨fun e ho hst hna hnl hnm hlate hall => ?_, fun ho hst hna hnl hnm hlate hq hall hpass => ?_, fun ac hl htok herr => ?_⟩
  · obtain ⟨t, y, rfl, hy, -, he⟩ := State.barrierArrival_spec hpc hr hx hf hp hb ho hst hna hnl hnm hlate
    rw [if_pos hall] at he
    exact ⟨t, _, he, hy, rfl, rfl, rfl, rfl⟩
  · obtain ⟨t, y, rfl, hy, hs, he⟩ := State.barrierArrival_spec hpc hr hx hf hp hb ho hst hna hnl hnm hlate
    rw [if_neg (by simp [hall]), if_neg (by decide)] at he
    obtain ⟨z, hz, h1, h2, h3⟩ := State.yieldDone_released hy (by rw [State.imageOf, State.slot, hs]; exact hpass) hq
    exact ⟨_, z, he, hz, h1, h2.trans (State.stepCores_congr hs ⟨rfl, rfl⟩), h3⟩
  · have h1 := State.running_modStep hx (g := fun y => { y with leaving := y.leaving.filter (· != c.toNat) }) fun _ => rfl
    obtain ⟨hparts, hmem, hunits⟩ := State.leaveYield_spec (s := s.modStep r.part x fun y => { y with leaving := y.leaving.filter (· != c.toNat) })
      (p := r.part) (c := c.toNat) (pc := pc)
      (t := (List.range 5).foldl (fun a u => max a ((s.core pc).sq.unit u).nextIssue) ac) herr htok
    have hac : ac ≤ (List.range 5).foldl (fun a u => max a ((s.core pc).sq.unit u).nextIssue) ac :=
      foldl_keeps (fun a => ac ≤ a) (fun a h u => h.trans (le_max_left ..)) _ le_rfl
    refine ⟨_, _, ?_, (State.running_congr hparts r.part).trans h1, rfl, fun u hu => ?_, (State.modStep_sameMemory ..).trans hmem⟩
    · show execYieldRelease c ac s = _
      rw [execYieldRelease]
      dsimp only
      rw [hpc]
      dsimp only
      rw [hr]
      dsimp only
      rw [hx]
      dsimp only
      rw [if_neg (by simp only [hl, hf, hp, hb]; decide)]
    · rw [hunits u hu]
      exact ⟨rfl, rfl, hac.trans (le_max_left ..)⟩

end Sys2Proof.Machine
end

section
/-! SUPPORT. A step that starts: it is the running step of its partition, as `begin_` leaves it. -/

namespace Sys2Proof.Machine

/-- A list none of whose elements meets a condition, after some of them are replaced by one that does. -/
theorem find?_map_replace {α : Type} {l : List α} {c f : α → Bool} {y z : α} (h : l.find? c = none) (hz : z ∈ l) (hf : f z = true)
    (hy : c y = true) : (l.map fun w => if f w then y else w).find? c = some y := by
  induction l with
  | nil => cases hz
  | cons w l ih =>
    rw [List.find?_cons] at h
    split at h
    · cases h
    next hw =>
      rw [List.map_cons]
      by_cases hfw : f w = true
      · rw [if_pos hfw, List.find?_cons_of_pos hy]
      · rw [if_neg hfw, List.find?_cons_of_neg (by simp [hw])]
        rcases List.mem_cons.1 hz with rfl | hz
        · exact absurd hf hfw
        · exact ih h hz

theorem State.forEach_parts {α : Type} {f : State → α → State} (hf : ∀ s x, (f s x).parts = s.parts) (l : List α) (s : State) :
    (s.forEach l f).parts = s.parts := by
  induction l generalizing s with
  | nil => rfl
  | cons x l ih => exact (ih (f s x)).trans (hf s x)

theorem State.part_congr {s t : State} (h : t.parts = s.parts) (p : Nat) : t.part p = s.part p := by
  rw [State.part, h]
  rfl

theorem State.bindLandings_parts (s : State) (i : Image) (b : Nat) : (s.bindLandings i b).parts = s.parts :=
  State.forEach_parts (by exact fun _ _ => rfl) _ _

theorem State.loadCores_parts (s : State) (p : Nat) (x : Step) (swap : Bool) : (s.loadCores p x swap).parts = s.parts := by
  unfold State.loadCores
  extract_lets i s1 s2
  have h1 : s1.parts = s.parts := State.forEach_parts (by exact fun _ _ => rfl) _ _
  refine (State.forEach_parts (fun t c => ?_) _ _).trans ((State.bindLandings_parts ..).trans h1)
  split
  · rfl
  · exact (Bookkept.traceCore ..).logged.parts

/-- Prefetching leaves the steps of a partition and what it has started. -/
theorem State.prefetch_part (s : State) (p : Nat) : ∃ v, (s.prefetch p).part p = { s.part p with prefetched := v } := by
  unfold State.prefetch
  split
  next y _ _ _ =>
    refine ⟨some y.req.seq, ?_⟩
    rw [State.part_modPart_same]
    refine congrArg (fun q : Part => { q with prefetched := some y.req.seq }) (State.part_congr (State.forEach_parts ?_ _ _) p)
    intro t c
    split <;> rfl
  · exact ⟨none, by rw [State.part_modPart_same]⟩

theorem State.prefetch_running (s : State) (p : Nat) : (s.prefetch p).running p = s.running p := by
  obtain ⟨v, h⟩ := s.prefetch_part p
  rw [State.running, h]
  rfl

/-- `y` is step `x` as it begins at time `now`. -/
structure Step.Begun (x y : Step) (now : Nat) : Prop where
  req : y.req = x.req
  stage : y.stage = .running
  startTime : y.startTime = now
  segment : y.segment = 0
  arrived : y.arrived = []
  cls : y.cls = x.cls
  bound : y.bound = if x.backfill && !x.started then now + x.bound else x.bound
  bracket : y.bracket = x.bracket
  replayed : y.replayed = x.replayed
  dodgePass : y.dodgePass = x.dodgePass
  exports : y.exports = x.exports

theorem State.begin_spec (s : State) (p : Nat) (x : Step) : ∃ y, x.Begun y s.now ∧
    (s.begin_ p x).running p = (s.modStep p x fun _ => y).running p ∧ (x.req.seq, x.req.epoch) ∈ ((s.begin_ p x).part p).started := by
  unfold State.begin_
  extract_lets fast wait i first key y s1 s2 s3
  refine ⟨y, ⟨rfl, rfl, rfl, rfl, rfl, rfl, rfl, rfl, rfl, rfl, rfl⟩, ?_⟩
  have h3 : s3.parts = s2.parts := by
    simp only [s3]
    split <;> rfl
  have h4 : (s3.loadCores p y fast).part p = s2.part p := State.part_congr ((State.loadCores_parts ..).trans h3) p
  have h2 : s2.part p = { s1.part p with
      started := (s2.part p).started, serveClass := (s2.part p).serveClass, prefetched := (s2.part p).prefetched } := by
    rw [State.part_modPart_same]
  have hk : (x.req.seq, x.req.epoch) ∈ (s2.part p).started := by
    rw [State.part_modPart_same]
    dsimp only
    split
    next h => exact List.contains_iff_mem.1 h
    · exact List.mem_cons_self ..
  constructor
  · rw [State.prefetch_running, State.running, h4, h2]
    rfl
  · obtain ⟨v, hv⟩ := (s3.loadCores p y fast).prefetch_part p
    rw [hv, h4]
    exact hk

/-- The head of the queue replaced by a running step. -/
theorem State.running_head {s : State} {p : Nat} {x y : Step} {rest : List Step} (h : (s.part p).queue = x :: rest) (hy : y.stage = .running) :
    (s.modStep p x fun _ => y).running p = some y := by
  rw [State.running, State.modStep, State.part_modPart_same, Part.running, Part.steps, Part.mapSteps]
  dsimp only
  rw [h, List.map_cons, if_pos (Step.is_self x), List.cons_append, List.find?_cons_of_pos (by simpa using hy)]

/-- A step of a partition that runs none, replaced by a running one. -/
theorem State.running_started {s : State} {p : Nat} {x y z : Step} (h : s.running p = none) (hz : z ∈ (s.part p).steps) (hx : z.is x = true)
    (hy : y.stage = .running) : (s.modStep p x fun _ => y).running p = some y := by
  rw [State.running, State.modStep, State.part_modPart_same, Part.running, Part.steps, Part.mapSteps]
  dsimp only
  rw [← List.map_append]
  exact find?_map_replace h hz hx (by simpa using hy)

end Sys2Proof.Machine
end

section
/-! SUPPORT. Steps that start, resume and replay at their partition's boundary. -/

namespace Sys2Proof.Machine

/-- The bound a backfill step begins with, measured from its start. -/
def State.backfillLen (b : State) (x : Step) : Nat :=
  if x.started then x.bound - b.now else (b.imageOf x.slot).stepLength b.admClock (b.classNow x) x.bracket 0

/-- What BACKFILL_START makes of a step before it begins. -/
def State.backfillSet (b : State) (x : Step) : Step :=
  if x.started then x else
    { x with bound := b.backfillLen x, planned := b.backfillLen x, cls := b.classNow x, classes := (List.range 24).map b.stackClass, clock := b.admClock }

theorem State.backfillSet_key (b : State) (x : Step) : (b.backfillSet x).req = x.req ∧ (b.backfillSet x).backfill = x.backfill ∧
    (b.backfillSet x).started = x.started := by
  unfold State.backfillSet
  split <;> exact ⟨rfl, rfl, rfl⟩

theorem State.steps_modStep (s : State) (p : Nat) (x : Step) (g : Step → Step) :
    ((s.modStep p x g).part p).steps = (s.part p).steps.map fun z => if z.is x then g z else z := by
  rw [State.modStep, State.part_modPart_same, Part.steps, Part.steps, List.map_append]
  rfl

/-- A step that waits, replaced by another that waits. -/
theorem State.modStep_waiting {b : State} {p : Nat} {x y : Step} (hb : b.running p = none) (hx : x ∈ (b.part p).steps) (hst : y.stage ≠ .running) :
    (b.modStep p x fun _ => y).running p = none ∧ y ∈ ((b.modStep p x fun _ => y).part p).steps := by
  rw [State.running, Part.running, State.steps_modStep, List.find?_eq_none]
  refine ⟨fun w hw => ?_, List.mem_map.2 ⟨x, hx, if_pos (Step.is_self x)⟩⟩
  obtain ⟨v, hv, rfl⟩ := List.mem_map.1 hw
  split
  · simpa using hst
  · exact List.find?_eq_none.1 hb v hv

/-- A step that waits in a partition that runs none begins. -/
theorem State.begin_waiting {b : State} {p : Nat} {y : Step} (hb : b.running p = none) (hy : y ∈ (b.part p).steps) :
    ∃ z, y.Begun z b.now ∧ (b.begin_ p y).running p = some z := by
  obtain ⟨z, hz, hrun, -⟩ := b.begin_spec p y
  exact ⟨z, hz, hrun.trans (State.running_started hb hy (Step.is_self y) hz.stage)⟩

/-- Settles O16: at the boundary the head of the queue begins, or the backfill step within the limits is set and begins. -/
theorem stepsStart : Obligations.StepsStart := by
  unfold Obligations.StepsStart
  intro s p x
  refine ⟨fun h => ?_, ?_⟩
  · constructor
    · show execStepStart p s = _
      rw [execStepStart]
      dsimp only
      rw [if_pos (by simp [h])]
    · show execBackfillStart p s = _
      rw [execBackfillStart]
      dsimp only
      rw [if_pos (by simp [h])]
  intro hm hw b len
  refine ⟨fun rest hq hst => ?_, ?_⟩
  · obtain ⟨y, hy, hrun, hstarted⟩ := b.begin_spec p.toNat x
    refine ⟨_, y, ?_, hrun.trans (State.running_head hq hy.stage), hy.req, hy.startTime, hy.segment, hy.arrived, hstarted⟩
    show execStepStart p s = _
    rw [execStepStart]
    dsimp only
    rw [if_neg (by simp [hm, hw]), hq]
    dsimp only
    rw [if_pos hst]
  · intro queue hany hrun hf
    have hset : b.backfillSet x = if x.started then x else
        { x with bound := len x, planned := len x, cls := b.classNow x, classes := (List.range 24).map b.stackClass, clock := b.admClock } := rfl
    obtain ⟨hreq, hbf, hsd⟩ := b.backfillSet_key x
    have hstage : x.stage = .queued := by
      have := List.find?_some hf
      simp only [Bool.and_eq_true, decide_eq_true_eq] at this
      exact this.1.1
    obtain ⟨hnone, hmem⟩ := State.modStep_waiting (y := b.backfillSet x) hrun (List.mem_append_right _ (List.mem_of_find?_eq_some hf))
      (by rw [hset]; split <;> simp [hstage])
    obtain ⟨y, hy, hrun'⟩ := State.begin_waiting hnone hmem
    refine ⟨_, y, ?_, hrun', hy.req.trans hreq, hy.startTime, fun h => ⟨?_, ?_⟩, fun h => ⟨?_, fun hb => ?_⟩⟩
    · show execBackfillStart p s = _
      rw [execBackfillStart]
      dsimp only
      rw [if_neg (by simp [hm, hw])]
      erw [if_neg (by rw [hany]; decide), hf]
      rfl
    · rw [hy.cls, hset, if_pos h]
    · rw [hy.bound, hsd, h, hset, if_pos h]
      simp
    · rw [hy.cls, hset, if_neg (by simp [h])]
    · have hs := hset.trans (if_neg (by simp [h]))
      rw [hy.bound, hbf, hsd, hb, h, hs]
      rfl

end Sys2Proof.Machine
end

section
/-! SUPPORT. Parked steps that resume and stopped ones that replay. -/

namespace Sys2Proof.Machine

/-- Restoring a parked step changes the steps of its partition by that step alone. -/
theorem State.restore_running (s : State) (p : Nat) (x : Step) : ∃ y, (s.restore p x).running p = (s.modStep p x fun _ => y).running p ∧
    y.stage = .running ∧ y.req = x.req ∧ y.parkedNs = x.parkedNs + (s.now - x.parkedAt) ∧ y.savedCores = [] ∧
    (x.backfill = false → y.bound = x.bound) := by
  unfold State.restore
  extract_lets gone i cls rest y s1 s2 s3 s4
  refine ⟨y, ?_, rfl, rfl, rfl, rfl, fun h => if_neg (by simp [h])⟩
  have h3 : s3.parts = s2.parts := State.forEach_parts (by exact fun _ _ => rfl) _ _
  have h4 : s4.parts = s3.parts := by
    refine State.forEach_parts ?_ _ _
    intro t k
    split <;> rfl
  have h5 : (s4.bump (clientObj x.req.client) 0x10 1).part p = s2.part p := State.part_congr (h4.trans h3) p
  have h2 : s2.part p = { s1.part p with serveClass := (s2.part p).serveClass } := by rw [State.part_modPart_same]
  rw [State.prefetch_running, State.running, h5, h2]
  rfl

/-- The steps of a queue with step `x` first and the others put off by `d`. -/
def Part.replayFirst (x : Step) (d : Nat) (q : Part) : Part :=
  { q with queue := q.queue.filter (Step.is x) ++ (q.queue.filter fun z => !z.is x).map fun z => if z.is x then z else { z with planned := z.planned + d } }

/-- Moving a step to the head starts none. -/
theorem State.replayFirst_waiting {b : State} {p : Nat} {x : Step} (d : Nat) (hb : b.running p = none) (hx : x ∈ (b.part p).steps) :
    (b.modPart p (Part.replayFirst x d)).running p = none ∧ x ∈ ((b.modPart p (Part.replayFirst x d)).part p).steps := by
  have hall : ∀ z ∈ (b.part p).steps, z.stage ≠ .running := fun z hz => by simpa using List.find?_eq_none.1 hb z hz
  rw [State.running, Part.running, State.part_modPart_same, List.find?_eq_none]
  simp only [Part.steps, Part.replayFirst, List.mem_append, List.mem_map, List.mem_filter, decide_eq_true_eq] at hall hx ⊢
  refine ⟨?_, ?_⟩
  · rintro z ((⟨hz, -⟩ | ⟨w, ⟨hw, -⟩, rfl⟩) | hz)
    · exact hall z (.inl hz)
    · split <;> exact hall w (.inl hw)
    · exact hall z (.inr hz)
  · exact hx.imp (fun h => .inl ⟨h, Step.is_self x⟩) id

/-- A step set for its replay. -/
def State.replayed (b : State) (x : Step) (bracket bound : Nat) : Step :=
  { x with
    stage := .queued, slot := x.home, bracket := bracket, bound := bound, planned := bound, replayed := true
    exports := (b.imageOf x.home).exportBytes bracket, dodgePass := none, preemptReq := x.backfill && x.preemptReq
    cls := b.admClass (b.imageOf x.home), classes := (List.range 24).map b.stackClass, clock := b.admClock, started := true
    savedCores := [], savedClusters := [] }

/-- Settles O17: a parked head is restored in its place, a stopped step moved to the head, set to its new bound, and begun. -/
theorem stepsResumeAndReplay : Obligations.StepsResumeAndReplay := by
  unfold Obligations.StepsResumeAndReplay
  intro s p x
  constructor
  · intro hm hw b rest hq hst hc
    obtain ⟨y, hrun, hy, h1, h2, h3, h4⟩ := b.restore_running p.toNat x
    refine ⟨_, y, ?_, hrun.trans (State.running_head hq hy), h1, h2, h3, h4⟩
    show execStepResume p s = _
    rw [execStepResume]
    dsimp only
    rw [if_neg (by simp [hm, hw]), hq]
    dsimp only
    rw [if_neg (by simp [hst]), hc]
  · intro hm b e bound d hrun hf he hfit
    obtain ⟨h1, h2⟩ := State.replayFirst_waiting (p := p.toNat) (x := x) d hrun (List.mem_of_find?_eq_some hf)
    obtain ⟨h3, h4⟩ := State.modStep_waiting (y := b.replayed x e.bracket bound) h1 h2 (show Stage.queued ≠ .running by decide)
    generalize hv : (((b.modPart p.toNat (Part.replayFirst x d)).modStep p.toNat x fun _ => b.replayed x e.bracket bound).raise
      { Event.of 0x14 b.conductorUnit 0 with part := some p.toNat, step := some x.req.seq }).bump (clientObj x.req.client) 0x12 1 = v
    have hparts : v.parts = ((b.modPart p.toNat (Part.replayFirst x d)).modStep p.toNat x fun _ => b.replayed x e.bracket bound).parts := by
      rw [← hv, State.bump_parts, (Logged.raise _ _).parts]
    obtain ⟨z, hz, hzr⟩ := State.begin_waiting ((State.running_congr hparts _).trans h3) (by rw [State.part_congr hparts]; exact h4)
    refine ⟨_, z, ?_, hzr, hz.req, hz.replayed, hz.bound.trans (if_neg ?_), hz.bracket, hz.dodgePass, hz.exports⟩
    · show execStepReplay p s = _
      rw [execStepReplay]
      dsimp only
      rw [if_neg (by simp [hm])]
      erw [hf]
      dsimp only
      erw [he]
      dsimp only
      erw [hfit]
      rw [← hv]
      rfl
    · show ¬(x.backfill && !true) = true
      simp

end Sys2Proof.Machine
end

section
/-! SUPPORT. Completion records, and hangs. -/

namespace Sys2Proof.Machine

/-- Settles O18: the oldest record leaves the list of those that wait when the ring has room. -/
theorem completionRecordWritten : Obligations.CompletionRecordWritten := by
  unfold Obligations.CompletionRecordWritten
  intro s n r msi rest
  dsimp only
  generalize hb : s.settle (s.num (clientObj n.toNat) 2) = b
  intro hw hup hen hroom
  have hr : b.ringRoom n.toNat ≠ 0 := Nat.sub_ne_zero_of_lt hroom
  have hexec : execCompletionRecord n s = .next (if msi then
      ((b.setClient n.toNat { b.client n.toNat with written := ((b.client n.toNat).written + 1) % 2 ^ 32, waiting := rest }).emit
        (.hostWrite (b.num (clientObj n.toNat) 8 + (b.client n.toNat).written % b.num (clientObj n.toNat) 9 * 64) r)).emit
          (.msix (b.num (clientObj n.toNat) 0x0B))
      else (b.setClient n.toNat { b.client n.toNat with written := ((b.client n.toNat).written + 1) % 2 ^ 32, waiting := rest }).emit
        (.hostWrite (b.num (clientObj n.toNat) 8 + (b.client n.toNat).written % b.num (clientObj n.toNat) 9 * 64) r)) := by
    rw [execCompletionRecord]
    dsimp only
    rw [hb, hw]
    dsimp only
    rw [if_neg (by simp [hup, hen, hr])]
    rfl
  refine ⟨_, hexec, ?_⟩
  cases msi
  · refine ⟨rfl, ?_, ?_, fun m hm => ?_, rfl⟩
    · exact congrArg Client.waiting (State.client_setClient_same ..)
    · exact congrArg Client.written (State.client_setClient_same ..)
    · exact (State.client_setClient ..).trans (if_neg hm)
  · refine ⟨List.append_assoc .., ?_, ?_, fun m hm => ?_, rfl⟩
    · exact congrArg Client.waiting (State.client_setClient_same ..)
    · exact congrArg Client.written (State.client_setClient_same ..)
    · exact (State.client_setClient ..).trans (if_neg hm)

end Sys2Proof.Machine
end

section
/-! SUPPORT. Hangs: the event, and the contact sheet captured at once or left to wait. -/

namespace Sys2Proof.Machine

theorem State.settleHang_sameMemory (s : State) (p : Nat) : SameMemory s (s.settleHang p) := by
  unfold State.settleHang
  split
  · exact .refl s
  · split
    · exact .refl s
    · obtain ⟨b, d, h⟩ := s.capture_rest 1 p 0
      rw [h]
      exact ⟨fun _ => ⟨rfl, rfl⟩, fun _ => rfl, rfl⟩

/-- A capture changes the count of contact sheets alone. -/
theorem State.settleHang_num {o sub : Nat} (h : objKey o sub ≠ objKey 0x8120 4) (s : State) (p : Nat) : (s.settleHang p).num o sub = s.num o sub := by
  unfold State.settleHang
  split
  · rfl
  · split
    · rfl
    · rw [State.modPart_num, State.num_capture, if_neg h]

theorem State.settleHang_captured {s : State} {p t : Nat} (hc : s.conductor.inOffice = true) (hh : (s.part p).hangAt = some t)
    (hn : s.num (0x8130 + p) 8 ≠ 2) :
    s.settleHang p = (s.capture 1 p 0).modPart p fun q => { q with lastHang := some s.now, hangAt := none } := by
  unfold State.settleHang
  rw [hh]
  dsimp only
  rw [if_neg (by simp [hc, hn])]

/-- A hang waits while no conductor is in office or a stop bath is stopping its partition. -/
theorem State.settleHang_waits {s : State} {p t : Nat} (hh : (s.part p).hangAt = some t)
    (h : s.conductor.inOffice = false ∨ s.num (0x8130 + p) 8 = 2) (ht : s.now < t + 100000000) : s.settleHang p = s := by
  unfold State.settleHang
  rw [hh]
  dsimp only
  rw [if_pos]
  rcases h with h | h <;> simp [h, ht]

/-- A hang of the partition has been captured in the last 100 ms. -/
def Part.hangRecent (q : Part) (now : Nat) : Bool :=
  match q.lastHang with
  | some t => decide (now < t + 100000000)
  | none => false

/-- What HANG_TIMEOUT does once the hang's event `s` is raised. -/
def State.hangFound (s : State) (p : Nat) : State :=
  if (s.part p).hangRecent s.now then s
  else (s.modPart p fun q => { q with hangAt := some (q.hangAt.getD s.now) }).settleHang p

theorem State.hangFound_sameMemory (s : State) (p : Nat) : SameMemory s (s.hangFound p) := by
  unfold State.hangFound
  split
  · exact .refl s
  · exact SameMemory.trans ⟨fun _ => ⟨rfl, rfl⟩, fun _ => rfl, rfl⟩ (State.settleHang_sameMemory ..)

theorem State.hangFound_num {o sub : Nat} (h : objKey o sub ≠ objKey 0x8120 4) (s : State) (p : Nat) : (s.hangFound p).num o sub = s.num o sub := by
  unfold State.hangFound
  split
  · rfl
  · exact State.settleHang_num h ..

/-- The first hang of a partition. -/
theorem State.hangFound_first {s : State} {p : Nat} (h : (s.part p).lastHang = none) :
    (s.conductor.inOffice = true → s.num (0x8130 + p) 8 ≠ 2 → ((s.hangFound p).part p).lastHang = some s.now ∧
      ((s.hangFound p).part p).hangAt = none ∧ (s.hangFound p).num 0x8120 4 = (s.num 0x8120 4 + 1) % 2 ^ 32) ∧
    ((s.part p).hangAt = none → s.conductor.inOffice = false ∨ s.num (0x8130 + p) 8 = 2 → ((s.hangFound p).part p).hangAt = some s.now ∧
      ((s.hangFound p).part p).lastHang = none ∧ (s.hangFound p).num 0x8120 4 = s.num 0x8120 4) := by
  have he : s.hangFound p = (s.modPart p fun q => { q with hangAt := some (q.hangAt.getD s.now) }).settleHang p := by
    rw [State.hangFound, if_neg]
    rw [Part.hangRecent, h]
    exact Bool.false_ne_true
  have hp : ((s.modPart p fun q => { q with hangAt := some (q.hangAt.getD s.now) }).part p) =
      { s.part p with hangAt := some ((s.part p).hangAt.getD s.now) } := State.part_modPart_same ..
  rw [he]
  generalize hu : (s.modPart p fun q => { q with hangAt := some (q.hangAt.getD s.now) }) = u at hp
  have hnum : ∀ o sub, u.num o sub = s.num o sub := fun _ _ => by rw [← hu]; rfl
  have hoff : u.conductor = s.conductor := by rw [← hu]; rfl
  have hnow : u.now = s.now := by rw [← hu]; rfl
  refine ⟨fun ho hb => ?_, fun hn hb => ?_⟩
  · obtain ⟨h1, h2⟩ := State.settleHang_captures (s := u) (p := p) (τ := (s.part p).hangAt.getD s.now) (by rw [hoff]; exact ho)
      (by rw [hp]) (by rw [hnum]; exact hb)
    refine ⟨by rw [h2, hnow], h1, ?_⟩
    rw [State.settleHang_captured (t := (s.part p).hangAt.getD s.now) (by rw [hoff]; exact ho) (by rw [hp]) (by rw [hnum]; exact hb),
      State.modPart_num, State.num_capture, if_pos rfl, hnum]
  · rw [State.settleHang_waits (t := s.now) (by rw [hp, hn]; rfl) (by rw [hoff, hnum]; exact hb) (by omega), hp, hn]
    exact ⟨rfl, h, hnum ..⟩

/-- Settles O19: the event is raised first, then the hang is taken up. -/
theorem hangIsReported : Obligations.HangIsReported := by
  unfold Obligations.HangIsReported
  intro s c u pc r i hpc hr hi hw hu hn
  have hexec : ∃ e : Event, e.kind = 6 ∧ execHangTimeout c u s = .next ((s.raise e).hangFound r.part) := by
    refine ⟨{ Event.of 0x06 (coreUnit pc u.val) (((s.running r.part).map (·.segment)).getD 0 + i.header.waitToken.toNat * 65536) with
      part := some r.part, step := s.runningSeq r.part }, rfl, ?_⟩
    rw [execHangTimeout, hpc]
    dsimp only
    rw [hr, hi]
    dsimp only
    rw [if_neg (by rw [bne_iff_ne.2 hw, hu, hn]; decide), State.raiseStep]
    generalize s.raise _ = v
    rfl
  obtain ⟨e, he, hexec⟩ := hexec
  have hnum : ∀ o sub, sub < 256 → sub ≠ 9 → sub ≠ 0x0A → o ≠ 0x9000 → o ≠ 0x9002 → (s.raise e).num o sub = s.num o sub := fun o sub h1 h2 h3 h4 h5 => by
    rw [State.raise_num h1 h2 h3 h4 s (by rw [he]; decide), if_neg fun h => h5 h.1]
  have hc : (s.raise e).num 0x9002 6 = (s.num 0x9002 6 + 1) % 2 ^ 64 := by
    have := s.raise_counted (e := e) (by rw [he]; decide) (by rw [he]; decide) (by rw [he]; decide)
    rwa [he] at this
  have hl := Logged.raise s e
  generalize s.raise e = v at hexec hnum hc hl
  have hpart : v.part r.part = s.part r.part := State.part_congr hl.parts _
  have hoff : v.conductor = s.conductor := by rw [hl.rest]
  have hnow : v.now = s.now := by rw [hl.rest]
  refine ⟨_, hexec, ?_, fun hlast hp => ?_, hl.sameMemory.trans (State.hangFound_sameMemory ..)⟩
  · rw [EventCounted, State.hangFound_num (by decide), hc]
  · obtain ⟨h1, h2⟩ := State.hangFound_first (s := v) (p := r.part) (by rw [hpart]; exact hlast)
    rw [hoff, hnum _ _ (by decide) (by decide) (by decide) (by omega) (by omega), hnum _ _ (by decide) (by decide) (by decide) (by decide) (by decide),
      hnow] at h1 h2
    rw [hpart] at h2
    exact ⟨h1, h2⟩

end Sys2Proof.Machine
end

section
/-! SUPPORT. What the machinery of steps, events, fences and collective messages leaves alone: the links, the paths, the registers of
power, security, time and the conductor, and what waits there. -/

namespace Sys2Proof.Machine

/-- The state apart from what the machinery of steps, events, fences and collective messages changes. -/
def State.outside (s : State) : State :=
  { State.reset with
    pending := s.pending, now := s.now, slots := s.slots, loads := s.loads, exports := s.exports, links := s.links, packets := s.packets
    stalled := s.stalled, paths := s.paths, heldOps := s.heldOps, power := s.power, security := s.security, time := s.time
    conductor := s.conductor, channels := s.channels, pipeBefore := s.pipeBefore, pipeNext := s.pipeNext }

@[simp] theorem State.forEach_outside {α : Type} (s : State) (l : List α) (f : State → α → State)
    (hf : ∀ s x, (f s x).outside = s.outside) : (s.forEach l f).outside = s.outside := by
  induction l generalizing s with
  | nil => rfl
  | cons x l ih => exact (ih (f s x)).trans (hf s x)

@[simp] theorem foldl_outside {α : Type} (s : State) (l : List α) (f : State → α → State) (hf : ∀ s x, (f s x).outside = s.outside) :
    (l.foldl f s).outside = s.outside := State.forEach_outside s l f hf

@[simp] theorem foldl_fst_outside {α β : Type} (s : State × β) (l : List α) (f : State × β → α → State × β)
    (hf : ∀ s x, (f s x).1.outside = s.1.outside) : (l.foldl f s).1.outside = s.1.outside := by
  induction l generalizing s with
  | nil => rfl
  | cons x l ih => exact (ih (f s x)).trans (hf s x)

theorem State.links_of_outside {s t : State} (h : t.outside = s.outside) : t.links = s.links := by
  have := congrArg State.links h
  exact this

theorem State.eventSeq_outside (s : State) (n : Nat) : ({ s with eventSeq := n } : State).outside = s.outside := rfl

theorem State.takeFrame_outside {s t : State} {p f : Nat} (h : s.takeFrame p = some (t, f)) : t.outside = s.outside := by
  unfold State.takeFrame at h
  split at h
  extract_lets -lift mine at h
  split at h
  · obtain ⟨_, _, eq⟩ := Option.map_eq_some_iff.1 h
    cases eq
    rfl
  · obtain ⟨_, _, eq⟩ := Option.map_eq_some_iff.1 h
    cases eq
    rfl

@[simp] theorem State.setNum_outside (s : State) (o sub v : Nat) : (s.setNum o sub v).outside = s.outside := by
  rfl

@[simp] theorem State.setBlob_outside (s : State) (o sub : Nat) (b : List Byte) : (s.setBlob o sub b).outside = s.outside := by
  rfl

@[simp] theorem State.bump_outside (s : State) (o sub n : Nat) : (s.bump o sub n).outside = s.outside := by
  simp [State.bump]

@[simp] theorem State.count_outside (s : State) (o sub n : Nat) : (s.count o sub n).outside = s.outside := by
  unfold State.count
  (repeat' split) <;> rfl

@[simp] theorem State.emit_outside (s : State) (o : Output) : (s.emit o).outside = s.outside := by
  rfl

@[simp] theorem State.emits_outside (s : State) (os : List Output) : (s.emits os).outside = s.outside := by
  rfl

@[simp] theorem State.drawn_outside (s : State) : (s.drawn).outside = s.outside := by
  rfl

@[simp] theorem State.setCore_outside (s : State) (p : Nat) (c : Core) : (s.setCore p c).outside = s.outside := by
  rfl

@[simp] theorem State.modCore_outside (s : State) (p : Nat) (f : Core → Core) : (s.modCore p f).outside = s.outside := by
  simp [State.modCore]

@[simp] theorem State.setCluster_outside (s : State) (k : Nat) (c : Cluster) : (s.setCluster k c).outside = s.outside := by
  rfl

@[simp] theorem State.modCluster_outside (s : State) (k : Nat) (f : Cluster → Cluster) : (s.modCluster k f).outside = s.outside := by
  simp [State.modCluster]

@[simp] theorem State.setStack_outside (s : State) (k : Nat) (c : Stack) : (s.setStack k c).outside = s.outside := by
  rfl

@[simp] theorem State.modStack_outside (s : State) (k : Nat) (f : Stack → Stack) : (s.modStack k f).outside = s.outside := by
  simp [State.modStack]

@[simp] theorem State.setPart_outside (s : State) (p : Nat) (c : Part) : (s.setPart p c).outside = s.outside := by
  rfl

@[simp] theorem State.modPart_outside (s : State) (p : Nat) (f : Part → Part) : (s.modPart p f).outside = s.outside := by
  simp [State.modPart]

@[simp] theorem State.setClient_outside (s : State) (n : Nat) (c : Client) : (s.setClient n c).outside = s.outside := by
  rfl

@[simp] theorem State.modClient_outside (s : State) (n : Nat) (f : Client → Client) : (s.modClient n f).outside = s.outside := by
  simp [State.modClient]

@[simp] theorem State.setFilm_outside (s : State) (f : Nat) (v : Film) : (s.setFilm f v).outside = s.outside := by
  unfold State.setFilm
  (repeat' split) <;> simp

@[simp] theorem State.filmTrigger_outside (s : State) (p f cause : Nat) : (s.filmTrigger p f cause).outside = s.outside := by
  unfold State.filmTrigger
  dsimp only
  (repeat' split) <;> simp

@[simp] theorem State.trigger_outside (s : State) (p cause : Nat) : (s.trigger p cause).outside = s.outside := by
  unfold State.trigger
  (repeat' split) <;> simp

@[simp] theorem State.eventRing_outside (s : State) (kind : Nat) (rcd : List Byte) : (s.eventRing kind rcd).outside = s.outside := by
  unfold State.eventRing
  dsimp only
  (repeat' split) <;> rfl

@[simp] theorem State.raise_outside (s : State) (e : Event) : (s.raise e).outside = s.outside := by
  unfold State.raise
  extract_lets rcd kept b s1 s2
  have hb : b.outside = s.outside := by
    simp only [b]
    rw [State.bump_outside, State.setBlob_outside]
  have h1 : s1.outside = s.outside := (State.eventSeq_outside ..).trans hb
  have h : s2.outside = s.outside := (State.eventRing_outside ..).trans h1
  split
  · exact h
  · exact (State.forEach_outside _ _ _ fun t c => State.trigger_outside ..).trans h

@[simp] theorem State.retire_outside (s : State) (k pc : Nat) : (s.retire k pc).outside = s.outside := by
  unfold State.retire
  dsimp only
  (repeat' split) <;> simp

@[simp] theorem State.seen_outside (s : State) (p : Place) (ce ue : Nat) : (s.seen p ce ue).outside = s.outside := by
  unfold State.seen
  dsimp only
  (repeat' split) <;> simp

@[simp] theorem State.writeDevice_outside (s : State) (img : Ram) (b a n : Nat) : (s.writeDevice img b a n).outside = s.outside := by
  unfold State.writeDevice
  refine foldl_outside _ _ _ fun t pc => ?_
  split
  · rfl
  · exact foldl_outside _ _ _ fun u cr => State.seen_outside ..

@[simp] theorem State.meshWrite_outside (s : State) (die : Nat) (img : Ram) (b a n : Nat) :
    (s.meshWrite die img b a n).outside = s.outside := by
  unfold State.meshWrite
  refine foldl_outside _ _ _ fun t pc => ?_
  split
  · rfl
  · split
    · exact State.writeDevice_outside ..
    · rfl

@[simp] theorem State.storeWords_outside (s : State) (die a : Nat) (ws : List CodeWord) :
    (s.storeWords die a ws).outside = s.outside := by
  simp [State.storeWords]

@[simp] theorem State.account_outside (s : State) (pc u : Nat) : (s.account pc u).outside = s.outside := by
  unfold State.account
  dsimp only
  (repeat' split) <;> simp

@[simp] theorem State.accountCore_outside (s : State) (pc : Nat) : (s.accountCore pc).outside = s.outside := by
  simp [State.accountCore]

@[simp] theorem State.modRunning_outside (s : State) (p : Nat) (g : Step → Step) : (s.modRunning p g).outside = s.outside := by
  simp [State.modRunning]

@[simp] theorem State.stopStep_outside (s : State) (p : Nat) : (s.stopStep p).outside = s.outside := by
  unfold State.stopStep
  (repeat' split) <;> simp

@[simp] theorem State.failStep_outside (s : State) (p : Nat) (f : Failure) : (s.failStep p f).outside = s.outside := by
  simp [State.failStep]

@[simp] theorem State.flagWaiting_outside (s : State) (n : Nat) : (s.flagWaiting n).outside = s.outside := by
  simp [State.flagWaiting]

@[simp] theorem State.markBreach_outside (s : State) (p : Nat) : (s.markBreach p).outside = s.outside := by
  simp [State.markBreach]

@[simp] theorem State.raiseBreach_outside (s : State) (p : Nat) (e : Event) : (s.raiseBreach p e).outside = s.outside := by
  unfold State.raiseBreach
  (repeat' split) <;> simp

@[simp] theorem State.raiseStep_outside (s : State) (p : Nat) (e : Event) : (s.raiseStep p e).outside = s.outside := by
  simp [State.raiseStep]

@[simp] theorem State.fenceNote_outside (s : State) (pc bank cause : Nat) : (s.fenceNote pc bank cause).outside = s.outside := by
  simp [State.fenceNote]

@[simp] theorem State.stopOrReplay_outside (s : State) (p : Nat) (can : Bool) (f : Failure) :
    (s.stopOrReplay p can f).outside = s.outside := by
  unfold State.stopOrReplay
  (repeat' split) <;> simp

@[simp] theorem State.fenceStep_outside (s : State) (p unit : Nat) : (s.fenceStep p unit).outside = s.outside := by
  simp [State.fenceStep]

@[simp] theorem State.fenceCore_outside (s : State) (pc cause : Nat) : (s.fenceCore pc cause).outside = s.outside := by
  unfold State.fenceCore
  dsimp only
  (repeat' split) <;> simp

@[simp] theorem State.fenceCluster_outside (s : State) (k cause : Nat) : (s.fenceCluster k cause).outside = s.outside := by
  unfold State.fenceCluster
  dsimp only
  (repeat' split) <;> simp

@[simp] theorem State.takeBankFence_outside (s : State) (pc : Nat) : (s.takeBankFence pc).outside = s.outside := by
  unfold State.takeBankFence
  dsimp only
  (repeat' split) <;> simp

@[simp] theorem State.setLocalRam_outside (s : State) (pc space : Nat) (r : Ram) : (s.setLocalRam pc space r).outside = s.outside := by
  unfold State.setLocalRam
  (repeat' split) <;> simp

@[simp] theorem State.setArrived_outside (s : State) (pc space : Nat) (a : Arrived) :
    (s.setArrived pc space a).outside = s.outside := by
  unfold State.setArrived
  (repeat' split) <;> simp

@[simp] theorem State.noteArrivals_outside (s : State) (pc space a n : Nat) : (s.noteArrivals pc space a n).outside = s.outside := by
  unfold State.noteArrivals
  dsimp only
  (repeat' split) <;> simp

@[simp] theorem State.corrected_outside (s : State) (pc space n : Nat) : (s.corrected pc space n).outside = s.outside := by
  unfold State.corrected
  dsimp only
  (repeat' split) <;> simp

@[simp] theorem State.merging_outside (s : State) (pc space a n : Nat) : (s.merging pc space a n).outside = s.outside := by
  simp [State.merging]

@[simp] theorem State.copyLocal_outside (s : State) (pc space : Nat) (img : Ram) (b a n : Nat) :
    (s.copyLocal pc space img b a n).outside = s.outside := by
  simp [State.copyLocal]

@[simp] theorem State.modInst_outside (s : State) (group seq : Nat) (f : Inst → Inst) :
    (s.modInst group seq f).outside = s.outside := by
  rfl

@[simp] theorem State.noteClass_outside (s : State) (k : Nat) : (s.noteClass k).outside = s.outside := by
  unfold State.noteClass
  dsimp only
  (repeat' split) <;> simp

@[simp] theorem State.settleEnvelope_outside (s : State) : (s.settleEnvelope).outside = s.outside := by
  unfold State.settleEnvelope
  dsimp only
  (repeat' split) <;> simp

@[simp] theorem State.markCoolant_outside (s : State) : (s.markCoolant).outside = s.outside := by
  simp [State.markCoolant]

@[simp] theorem State.coolantFollows_outside (s before : State) : (s.coolantFollows before).outside = s.outside := by
  unfold State.coolantFollows
  (repeat' split) <;> simp

@[simp] theorem State.record_outside (s : State) (q : Request) (r : Record) : (s.record q r).outside = s.outside := by
  simp [State.record]

@[simp] theorem State.refuseRequest_outside (s : State) (q : Request) (cause reason : Nat) :
    (s.refuseRequest q cause reason).outside = s.outside := by
  unfold State.refuseRequest
  dsimp only
  (repeat' split) <;> simp

@[simp] theorem State.pinPages_outside (s : State) (frames : List Nat) (up : Bool) : (s.pinPages frames up).outside = s.outside := by
  rfl

@[simp] theorem State.dropStale_outside (s : State) : (s.dropStale).outside = s.outside := by
  rfl

@[simp] theorem State.breach7_outside (s : State) (p cause unit detail : Nat) :
    (s.breach7 p cause unit detail).outside = s.outside := by
  simp [State.breach7]

@[simp] theorem State.prefetch_outside (s : State) (p : Nat) : (s.prefetch p).outside = s.outside := by
  unfold State.prefetch
  split
  · refine (State.modPart_outside ..).trans (State.forEach_outside _ _ _ fun s c => ?_)
    split <;> rfl
  · rfl

@[simp] theorem State.stallTells_outside (s : State) (p : Nat) : (s.stallTells p).outside = s.outside := by
  unfold State.stallTells
  split
  · rfl
  · split
    · split
      · rfl
      · exact State.markBreach_outside ..
    · exact State.breach7_outside ..

@[simp] theorem State.acceptRequest_outside (s : State) (p : Nat) (q : Request) (k : Nat) (e : BracketE) (len : Nat) (fit : Fit) :
    (s.acceptRequest p q k e len fit).outside = s.outside := by
  unfold State.acceptRequest
  dsimp only
  (repeat' split) <;> simp

@[simp] theorem State.farFetch_outside (s : State) (w page n : Nat) : (s.farFetch w page n).outside = s.outside := by
  simp [State.farFetch]

@[simp] theorem State.fetchPage_outside (s : State) (w page : Nat) : (s.fetchPage w page).outside = s.outside := by
  unfold State.fetchPage
  dsimp only
  (repeat' split) <;> simp

@[simp] theorem State.startFill_outside (s : State) (p key : Nat) : (s.startFill p key).outside = s.outside := by
  unfold State.startFill
  dsimp only
  split
  · rfl
  · exact State.fetchPage_outside ..

@[simp] theorem State.admitNow_outside (s : State) (q : Request) : (s.admitNow q).outside = s.outside := by
  unfold State.admitNow
  dsimp only
  (repeat' split) <;> simp

@[simp] theorem State.enterRequest_outside (s : State) (q : Request) : (s.enterRequest q).outside = s.outside := by
  unfold State.enterRequest
  dsimp only
  (repeat' split) <;> simp

@[simp] theorem State.readmit_outside (s : State) (p : Nat) : (s.readmit p).outside = s.outside := by
  simp [State.readmit]

@[simp] theorem State.fillGone_outside (s : State) (f : Fill) : (s.fillGone f).outside = s.outside := by
  exact State.readmit_outside ..

@[simp] theorem State.placeFill_outside (s : State) (f : Fill) (data : List CodeWord) : (s.placeFill f data).outside = s.outside := by
  unfold State.placeFill
  split
  · exact State.fillGone_outside ..
  · split
    · rfl
    next t frame h =>
      rw [State.fillGone_outside, State.storeWords_outside]
      exact (show _ = t.outside from rfl).trans (State.takeFrame_outside h)

@[simp] theorem State.placeFills_outside (s : State) (p : Nat) : (s.placeFills p).outside = s.outside := by
  unfold State.placeFills
  refine State.forEach_outside _ _ _ fun t f => ?_
  split
  · split
    · exact State.placeFill_outside ..
    · rfl
  · rfl

@[simp] theorem State.unpin_outside (s : State) (p : Nat) (x : Step) : (s.unpin p x).outside = s.outside := by
  simp [State.unpin]

@[simp] theorem State.recheck_outside (s : State) (p : Nat) (ok : State → Image → Nat → Bool) :
    (s.recheck p ok).outside = s.outside := by
  unfold State.recheck
  refine State.forEach_outside _ _ _ fun t k => ?_
  split <;> rfl

@[simp] theorem State.recheckMap_outside (s : State) (p : Nat) : (s.recheckMap p).outside = s.outside := by
  simp [State.recheckMap]

@[simp] theorem State.recheckMemory_outside (s : State) (p : Nat) : (s.recheckMemory p).outside = s.outside := by
  simp [State.recheckMemory]

@[simp] theorem State.deviceSlot_outside (s : State) (slot kind : Nat) (es : List (Nat × Nat)) (applied : Nat) :
    (s.deviceSlot slot kind es applied).outside = s.outside := by
  simp [State.deviceSlot]

@[simp] theorem State.clearSlot_outside (s : State) (slot : Nat) : (s.clearSlot slot).outside = s.outside := by
  simp [State.clearSlot]

@[simp] theorem State.remapCluster_outside (s : State) (k : Nat) : (s.remapCluster k).outside = s.outside := by
  unfold State.remapCluster
  dsimp only
  (repeat' split) <;> simp

@[simp] theorem State.settleSlot14_outside (s : State) : (s.settleSlot14).outside = s.outside := by
  unfold State.settleSlot14
  dsimp only
  (repeat' split) <;> simp

@[simp] theorem State.settleSlot15_outside (s : State) (p : Nat) : (s.settleSlot15 p).outside = s.outside := by
  unfold State.settleSlot15
  dsimp only
  (repeat' split) <;> simp

@[simp] theorem State.reforce_outside (s : State) (p : Nat) : (s.reforce p).outside = s.outside := by
  simp [State.reforce]

@[simp] theorem State.settleOverlays_outside (s : State) : (s.settleOverlays).outside = s.outside := by
  unfold State.settleOverlays
  refine State.forEach_outside _ _ _ fun t c => ?_
  dsimp only
  split <;> rfl

@[simp] theorem State.takeOverlays_outside (s : State) (p : Nat) : (s.takeOverlays p).outside = s.outside := by
  unfold State.takeOverlays
  dsimp only
  (repeat' split) <;> simp

@[simp] theorem State.boundary_outside (s : State) (p : Nat) : (s.boundary p).outside = s.outside := by
  unfold State.boundary
  dsimp only
  (repeat' split) <;> simp

@[simp] theorem State.unloadCores_outside (s : State) (p : Nat) : (s.unloadCores p).outside = s.outside := by
  simp [State.unloadCores]

@[simp] theorem State.unbind_outside (s : State) (x : Step) : (s.unbind x).outside = s.outside := by
  simp [State.unbind]

@[simp] theorem State.modStep_outside (s : State) (p : Nat) (x : Step) (g : Step → Step) : (s.modStep p x g).outside = s.outside := by
  simp [State.modStep]

@[simp] theorem State.leave_outside (s : State) (p : Nat) (x : Step) (r : Record) : (s.leave p x r).outside = s.outside := by
  unfold State.leave
  dsimp only
  (repeat' split) <;> simp

@[simp] theorem State.leaveFailed_outside (s : State) (p : Nat) (x : Step) (f : Failure) :
    (s.leaveFailed p x f).outside = s.outside := by
  simp [State.leaveFailed]

@[simp] theorem State.moveIdle_outside (s : State) (p : Nat) (x : Step) : (s.moveIdle p x).outside = s.outside := by
  unfold State.moveIdle
  dsimp only
  (repeat' split) <;> simp

@[simp] theorem State.finish_outside (s : State) (p : Nat) (x : Step) : (s.finish p x).outside = s.outside := by
  unfold State.finish
  dsimp only
  (repeat' split) <;> simp

@[simp] theorem State.backToQueue_outside (s : State) (p : Nat) (x : Step) (replay : Bool) :
    (s.backToQueue p x replay).outside = s.outside := by
  unfold State.backToQueue
  extract_lets again s1 s2
  have h : s2.outside = s.outside := by
    simp only [s2]
    split <;> rfl
  rw [State.boundary_outside, State.unbind_outside, State.unloadCores_outside, h]

@[simp] theorem State.settle_outside (s : State) (p : Nat) : (s.settle p).outside = s.outside := by
  unfold State.settle
  dsimp only
  (repeat' split) <;> simp

@[simp] theorem State.landCheck_outside (s : State) (k n : Nat) : (s.landCheck k n).outside = s.outside := by
  unfold State.landCheck
  dsimp only
  (repeat' split) <;> simp

@[simp] theorem State.landGranules_outside (s : State) (k a n : Nat) : (s.landGranules k a n).outside = s.outside := by
  unfold State.landGranules
  dsimp only
  (repeat' split) <;> simp

@[simp] theorem State.putCluster_outside (s : State) (mesh : Bool) (k : Nat) (img : Ram) (b a n : Nat) :
    (s.putCluster mesh k img b a n).outside = s.outside := by
  unfold State.putCluster
  dsimp only
  (repeat' split) <;> simp

@[simp] theorem State.nmuRecord_outside (s : State) (p k : Nat) (c : NmuCmd) (m l : List Nat) (data : List Byte) :
    (s.nmuRecord p k c m l data).outside = s.outside := by
  unfold State.nmuRecord
  dsimp only
  (repeat' split) <;> simp

@[simp] theorem State.nmuClosed_outside (s : State) (p : Nat) (c : NmuCmd) : (s.nmuClosed p c).outside = s.outside := by
  simp [State.nmuClosed]

@[simp] theorem State.raiseCmd_outside (s : State) (p : Nat) (c : NmuCmd) (e : Event) : (s.raiseCmd p c e).outside = s.outside := by
  unfold State.raiseCmd
  dsimp only
  (repeat' split) <;> simp

@[simp] theorem State.cmdFault_outside (s : State) (p k : Nat) (c : NmuCmd) : (s.cmdFault p k c).outside = s.outside := by
  simp [State.cmdFault]

@[simp] theorem State.cmdFailStep_outside (s : State) (p k : Nat) (c : NmuCmd) : (s.cmdFailStep p k c).outside = s.outside := by
  unfold State.cmdFailStep
  dsimp only
  (repeat' split) <;> simp

@[simp] theorem State.setCmds_outside (s : State) (k p : Nat) (l : List NmuCmd) : (s.setCmds k p l).outside = s.outside := by
  simp [State.setCmds]

@[simp] theorem State.cmdAtOnce_outside (s : State) (k p : Nat) (c : NmuCmd) : (s.cmdAtOnce k p c).outside = s.outside := by
  simp [State.cmdAtOnce]

@[simp] theorem State.nmuArrive_outside (s : State) (k : Nat) (t : TxHeader) (g : List Byte) (bad mine : Bool) :
    (s.nmuArrive k t g bad mine).outside = s.outside := by
  unfold State.nmuArrive
  dsimp only
  (repeat' split) <;> simp

@[simp] theorem State.routerReply_outside (s : State) (t : TxHeader) (ws : List CodeWord) :
    (s.routerReply t ws).outside = s.outside := by
  unfold State.routerReply
  (repeat' split) <;> simp

@[simp] theorem State.emitColl_outside (s : State) (m : CollMsg) (payload : List CodeWord) (port id : Nat) :
    (s.emitColl m payload port id).outside = s.outside := by
  simp [State.emitColl]

@[simp] theorem State.setSent_outside (s : State) (l : List Sent) : (s.setSent l).outside = s.outside := by
  rfl

@[simp] theorem State.launchSent_outside (s : State) (x : Sent) (port : Option Nat) : (s.launchSent x port).outside = s.outside := by
  unfold State.launchSent
  dsimp only
  (repeat' split) <;> simp

@[simp] theorem State.sendColl_outside (s : State) (m : CollMsg) (payload : List CodeWord) :
    (s.sendColl m payload).outside = s.outside := by
  simp [State.sendColl]

@[simp] theorem State.putCack_outside (s : State) (k : CollMsg) : (s.putCack k).outside = s.outside := by
  unfold State.putCack
  dsimp only
  (repeat' split) <;> rfl

@[simp] theorem State.flushSent_outside (s : State) (m : Nat) : (s.flushSent m).outside = s.outside := by
  unfold State.flushSent
  refine (State.forEach_outside _ _ _ ?_).trans (State.forEach_outside _ _ _ ?_)
  · exact fun t x => State.launchSent_outside ..
  · exact fun t k => State.putCack_outside ..

@[simp] theorem State.failStarters_outside (s : State) (p key code : Nat) : (s.failStarters p key code).outside = s.outside := by
  unfold State.failStarters
  refine State.forEach_outside _ _ _ fun t x => ?_
  dsimp only
  split
  · exact (State.settle_outside ..).trans (State.failStep_outside ..)
  · exact State.leaveFailed_outside ..

@[simp] theorem State.abortInst_outside (s : State) (g q code : Nat) (tell : Bool) :
    (s.abortInst g q code tell).outside = s.outside := by
  unfold State.abortInst
  dsimp only
  (repeat' split) <;> simp

@[simp] theorem State.resend_outside (s : State) (idx : Nat) : (s.resend idx).outside = s.outside := by
  unfold State.resend
  dsimp only
  (repeat' split) <;> simp

@[simp] theorem State.fabricLeaves_outside (s : State) (n : Nat) : (s.fabricLeaves n).outside = s.outside := by
  unfold State.fabricLeaves
  split
  · rfl
  · refine State.forEach_outside _ _ _ fun t x => ?_
    split
    · exact State.resend_outside ..
    · rfl

@[simp] theorem State.p0Drop_outside (s : State) (state : Nat) : (s.p0Drop state).outside = s.outside := by
  simp [State.p0Drop]

end Sys2Proof.Machine
end

section
/-! SUPPORT. Edge ports: what packets that are sent change of a port's state, and a port that leaves service. -/

namespace Sys2Proof.Machine

/-- The ports of `t` have sent more than those of `s`, and nothing else of them has changed. -/
def Sends (s t : State) : Prop :=
  ∀ d n, ∃ q h c k, t.link d n = { s.link d n with sendSeq := q, held := h, credits := c, sinceLc := k }

theorem Sends.refl (s : State) : Sends s s := fun _ _ => ⟨_, _, _, _, rfl⟩

theorem Sends.of_links {s t : State} (h : t.links = s.links) : Sends s t := fun d n => ⟨_, _, _, _, by rw [State.link, h]; rfl⟩

theorem Sends.of_outside {s t : State} (h : t.outside = s.outside) : Sends s t := .of_links (State.links_of_outside h)

theorem Sends.trans {s t u : State} (h : Sends s t) (g : Sends t u) : Sends s u := fun d n => by
  obtain ⟨_, _, _, _, e⟩ := h d n
  obtain ⟨_, _, _, _, e'⟩ := g d n
  exact ⟨_, _, _, _, by rw [e', e]⟩

theorem Sends.forEach {α : Type} {f : State → α → State} (hf : ∀ s x, Sends s (f s x)) (l : List α) (s : State) : Sends s (s.forEach l f) := by
  induction l generalizing s with
  | nil => exact .refl s
  | cons x l ih => exact (hf s x).trans (ih (f s x))

theorem State.setLink_links (s : State) (d n : Nat) (l : LinkSt) :
    (s.setLink d n l).links = tabSet LinkSt.idle s.links (d * 32 + n) l := by rw [State.setLink]

theorem State.link_setLink (s : State) (d n d' n' : Nat) (l : LinkSt) :
    (s.setLink d n l).link d' n' = if d' * 32 + n' = d * 32 + n then l else s.link d' n' := tabGet_tabSet ..

theorem State.link_setLink_same (s : State) (d n : Nat) (l : LinkSt) : (s.setLink d n l).link d n = l := tabGet_tabSet_same ..

/-- A port of which only what it has sent changes. -/
theorem Sends.setLink (s : State) (d n : Nat) {l : LinkSt} (hl : ∃ q h c k, l = { s.link d n with sendSeq := q, held := h, credits := c, sinceLc := k }) :
    Sends s (s.setLink d n l) := fun d' n' => by
  rw [State.link_setLink]
  split
  next h =>
    have he : s.link d' n' = s.link d n := by rw [State.link, State.link, h]
    rw [he]
    exact hl
  · exact ⟨_, _, _, _, rfl⟩

theorem State.arrive_links (s : State) (b port : Nat) (t : TxHeader) (ws : List CodeWord) : (s.arrive b port t ws).links = s.links := by
  have loss : ∀ u : State, (u.loseMessage t ws).links = u.links := fun u => by
    unfold State.loseMessage
    dsimp only
    split
    · exact State.links_of_outside (State.abortInst_outside ..)
    · rfl
  unfold State.arrive
  dsimp only
  split
  · exact State.links_of_outside (State.routerReply_outside ..)
  · split
    · split
      · rfl
      · split
        · exact State.links_of_outside (State.routerReply_outside ..)
        · exact loss _
    · rfl

theorem Sends.sendAgain (s : State) (d : Nat) (l : List HeldPacket) : Sends s (s.sendAgain d l) := by
  refine Sends.forEach (fun t x => ?_) l s
  split
  · exact .of_links (State.arrive_links ..)
  · split
    · exact (Sends.setLink t d _ ⟨_, _, _, _, rfl⟩).trans (.of_links rfl)
    · exact .refl t

theorem Sends.rehome (s : State) : Sends s s.rehome := by
  unfold State.rehome
  dsimp only
  exact Sends.trans (.of_links rfl) (.forEach (fun t p => .of_links (State.arrive_links ..)) _ _)

theorem State.forEach_links {α : Type} {f : State → α → State} (hf : ∀ s x, (f s x).links = s.links) (l : List α) (s : State) :
    (s.forEach l f).links = s.links := by
  induction l generalizing s with
  | nil => rfl
  | cons x l ih => exact (ih (f s x)).trans (hf s x)

theorem State.loseDie_links (s : State) (d : Nat) : (s.loseDie d).links = s.links := by
  unfold State.loseDie
  split
  · rfl
  · extract_lets s1 cond s2 s3 s4
    have h2 : s2.links = s.links := by
      simp only [s2]
      split
      · rfl
      · exact State.links_of_outside (State.raise_outside ..)
    have h3 : s3.links = s2.links := by
      simp only [s3]
      split
      · refine State.forEach_links (fun t n => ?_) _ _
        split
        · exact State.links_of_outside (State.p0Drop_outside ..)
        · exact State.links_of_outside (State.fabricLeaves_outside ..)
      · rfl
    have h4 : s4.links = s3.links := by
      simp only [s4, State.dropClaim]
      split <;> rfl
    have h : s4.links = s.links := h4.trans (h3.trans h2)
    split <;> exact h

theorem State.afterLeave_links (s : State) (d port : Nat) : (s.afterLeave d port).links = s.links := by
  unfold State.afterLeave
  refine State.forEach_links (fun t e => ?_) _ _
  split
  · split
    · exact State.links_of_outside (State.raise_outside ..)
    · rfl
  · split
    · rfl
    · split
      · exact State.links_of_outside (State.forEach_outside _ _ _ fun u k => State.fenceCluster_outside ..)
      · exact State.loseDie_links ..

/-- A port that leaves service is out of service from then on. -/
theorem State.portLeaves_state (s : State) (d n : Nat) : ((s.portLeaves d n).link d n).state = 2 := by
  unfold State.portLeaves
  split
  next h => exact h
  · extract_lets far mine theirs off s1 other s2 e ps s3
    have h1 : (s1.link d n).state = 2 := by rw [State.link_setLink_same]
    have h2 : (s2.link d n).state = 2 := by
      rw [State.link_setLink]
      split
      next hk =>
        have he : other = s1.link d n := by
          simp only [other]
          rw [State.link, State.link, hk]
        show other.state = 2
        rw [he]
        exact h1
      · exact h1
    have h3 : s3.outside = s2.outside := by
      simp only [s3]
      split
      · exact State.raise_outside ..
      · exact State.forEach_outside _ _ _ fun t p => State.raiseBreach_outside ..
    have hs : Sends s2 (((s3.afterLeave d n).sendAgain d mine).sendAgain far.1 theirs).rehome :=
      (Sends.of_links ((State.afterLeave_links ..).trans (State.links_of_outside h3))).trans
        ((Sends.sendAgain _ d mine).trans ((Sends.sendAgain _ far.1 theirs).trans (Sends.rehome _)))
    obtain ⟨_, _, _, _, e⟩ := hs d n
    rw [e]
    exact h2

/-- Settles O20: a port that fails leaves service; a replay is asked for by the port's own message, the fourth time it leaves service. -/
theorem edgePortsTrainAndReplay : Obligations.EdgePortsTrainAndReplay := by
  unfold Obligations.EdgePortsTrainAndReplay
  intro s die port d n
  refine ⟨fun hn h0 => ?_, fun h1 hw => ?_⟩
  · have hc : ¬(portCount d ≤ n ∨ (s.link d n).state ≠ 0) := by omega
    have hexec : ∀ b, exec (.edgePortTraining die port b) s =
        .next (if b then s.setLink d n { LinkSt.idle with state := 1 } else s.portLeaves d n) := fun b => by
      show execEdgePortTraining die port b s = _
      rw [execEdgePortTraining]
      exact congrArg Host.Outcome.next (if_neg hc)
    refine ⟨⟨_, hexec true, ?_, rfl, fun j hj => ?_⟩, ⟨_, hexec false, ?_⟩⟩
    · rw [if_pos rfl, State.link_setLink_same]
    · rw [if_pos rfl]
      rw [State.setLink_links]
      exact tabGet_tabSet_ne LinkSt.idle s.links _ hj
    · rw [if_neg Bool.false_ne_true]
      exact State.portLeaves_state ..
  · have hc : ¬((s.link d n).state ≠ 1 ∨ (!(s.link d n).waiting) = true) := by simp [h1, hw]
    have hexec : exec (.linkReplayRequest die port) s = .next (if 3 ≤ tabGet 0 (s.link d n).replays (s.link d n).place then s.portLeaves d n
        else ((s.count 0x8042 (d + 1) 1).setLink d n { s.link d n with
          waiting := false, replays := tabSet 0 (s.link d n).replays (s.link d n).place (tabGet 0 (s.link d n).replays (s.link d n).place + 1)
          place := if (s.link d n).taken = 0 then 1 else 0 }).emit (.link "replay" d n (s.link d n).lastSeq)) := by
      show execLinkReplayRequest die port s = _
      rw [execLinkReplayRequest]
      exact congrArg Host.Outcome.next (if_neg hc)
    refine ⟨_, hexec, ?_⟩
    dsimp only
    by_cases ha : tabGet 0 (s.link d n).replays (s.link d n).place < 3
    · rw [if_pos ha, if_neg (by omega)]
      refine ⟨State.link_setLink_same .., ?_⟩
      rw [State.emit, State.setLink]
      dsimp only
      rw [State.count_out]
    · rw [if_neg ha, if_pos (by omega)]
      exact State.portLeaves_state ..

end Sys2Proof.Machine
end

section
/-! SUPPORT. The bits of a flit's words on the lanes, and what taking a flit changes of its port. -/

namespace Sys2Proof.Machine

theorem leNat_testBit (l : List Byte) (u b : Nat) (hb : b < 8) : (leNat l).testBit (8 * u + b) = (l.getD u 0).getLsbD b := by
  induction l generalizing u with
  | nil => simp [leNat]
  | cons x l ih =>
    have hx : x.toNat < 2 ^ 8 := x.isLt
    have e : leNat (x :: l) = 2 ^ 8 * leNat l + x.toNat := by
      rw [leNat]
      omega
    rw [e, Nat.testBit_two_pow_mul_add _ hx]
    cases u with
    | zero =>
      rw [if_pos (by omega), Nat.mul_zero, Nat.zero_add]
      rfl
    | succ u =>
      rw [if_neg (by omega), show 8 * (u + 1) + b - 8 = 8 * u + b by omega, ih]
      rfl

/-- A list made by index has the indexed value in its place. -/
theorem getD_map_range {α : Type} (f : Nat → α) (n u : Nat) (d : α) (h : u < n) : ((List.range n).map f).getD u d = f u := by
  simp [List.getD, List.getElem?_map, List.getElem?_range h]

theorem wireWord_getLsbD (ui : List (BitVec 256)) (w u b : Nat) (hu : u < 9) (hb : b < 8) :
    (wireWord ui w).getLsbD (8 * u + b) = (ui.getD u 0).getLsbD (8 * ((w + u) % 32) + b) := by
  rw [wireWord, BitVec.getLsbD_ofNat, leNat_testBit _ _ _ hb, getD_map_range _ _ _ _ hu, uiByte, BitVec.getLsbD_extractLsb']
  simp [hb, show 8 * u + b < 72 by omega]

theorem toWire_getLsbD (ws : List CodeWord) (u l b : Nat) (hu : u < 9) (hl : l < 32) (hb : b < 8) :
    ((toWire ws).getD u 0).getLsbD (8 * l + b) = (ws.getD ((l + 32 - u) % 32) 0).getLsbD (8 * u + b) := by
  rw [toWire, getD_map_range _ _ _ _ hu, BitVec.getLsbD_ofNat, leNat_testBit _ _ _ hb, getD_map_range _ _ _ _ hl,
    BitVec.getLsbD_extractLsb']
  simp [hb, show 8 * l + b < 256 by omega]

/-- No word of a flit is lost on the lanes. -/
theorem wireWords_toWire (ws : List CodeWord) (h : ws.length = 32) : wireWords (toWire ws) = ws := by
  have hw : ∀ w, w < 32 → wireWord (toWire ws) w = ws.getD w 0 := fun w hw => BitVec.eq_of_getLsbD_eq fun i hi => by
    have e := wireWord_getLsbD (toWire ws) w (i / 8) (i % 8) (by omega) (by omega)
    rw [toWire_getLsbD ws _ _ _ (by omega) (by omega) (by omega), show 8 * (i / 8) + i % 8 = i by omega,
      show ((w + i / 8) % 32 + 32 - i / 8) % 32 = w by omega] at e
    exact e
  refine List.ext_getElem (by simp [wireWords, h]) fun n h1 h2 => ?_
  have hn : n < 32 := by omega
  simp [wireWords, hw n hn, List.getD, h2]

theorem Sends.sendFrom (s : State) (d out : Nat) : Sends s (s.sendFrom d out) := by
  unfold State.sendFrom
  extract_lets l here
  split
  · exact .refl s
  · exact (Sends.of_links rfl).trans ((Sends.setLink _ d out ⟨_, _, _, _, rfl⟩).trans (.of_links rfl))

theorem Sends.routerAt (s : State) (d : Nat) : Sends s (s.routerAt d) := by
  unfold State.routerAt
  split
  · exact .forEach (fun t n => by exact .sendFrom t _ n) _ _
  · exact .refl s

theorem State.received_links (s : State) (d port : Nat) (h : TxHeader) (ws : List CodeWord) : (s.received d port h ws).links = s.links := by
  unfold State.received
  split
  · exact State.arrive_links ..
  · rfl

/-- What has been sent stays sent. -/
def SaysMore (s t : State) : Prop := ∀ o ∈ s.out, o ∈ t.out

theorem SaysMore.refl (s : State) : SaysMore s s := fun _ h => h

theorem SaysMore.forEach {α : Type} {f : State → α → State} (hf : ∀ s x, SaysMore s (f s x)) (l : List α) (s : State) :
    SaysMore s (s.forEach l f) := by
  induction l generalizing s with
  | nil => exact .refl s
  | cons x l ih => exact fun o h => ih (f s x) o (hf s x o h)

theorem SaysMore.sendFrom (s : State) (d out : Nat) : SaysMore s (s.sendFrom d out) := by
  unfold State.sendFrom
  extract_lets l here
  split
  · exact .refl s
  · exact fun o h => List.mem_append_left _ h

theorem SaysMore.routerAt (s : State) (d : Nat) : SaysMore s (s.routerAt d) := by
  unfold State.routerAt
  split
  · exact .forEach (fun t n => by exact .sendFrom t _ n) _ _
  · exact .refl s

/-- What a control flit that is taken leaves of its port: its number, what it announces, and its place. -/
theorem State.link_takeControl (s : State) (d n : Nat) (h : LinkHeader) (ts : List TxHeader) :
    ∃ l, Sends (s.setLink d n l) (s.takeControl d n h ts) ∧
      l.lastSeq = h.flitSeq.toNat ∧ l.group = announcedBy h ts ∧ l.place = 1 ∧ l.taken = 1 := by
  unfold State.takeControl
  extract_lets l0 add l s1 drop s2 s3
  refine ⟨l, ?_, rfl, rfl, rfl, rfl⟩
  have hdrop : ∀ u, Sends u (drop u) := fun u => .of_links (State.links_of_outside (State.raise_outside ..))
  split
  · exact hdrop _
  · have h2 : Sends s1 s2 := .forEach (fun u _ => hdrop u) _ s1
    have h3 : Sends s2 s3 := by
      simp only [s3]
      split
      · exact .of_links rfl
      · exact .refl _
    exact h2.trans (h3.trans (.forEach (fun u x => .of_links (State.received_links ..)) _ _))

theorem State.count_zero (s : State) (o sub : Nat) : s.count o sub 0 = s := by
  rw [State.count, if_pos rfl]

/-- A flit whose words all pass the check is taken as it came. -/
theorem State.takeFlit_sound {s : State} {d n : Nat} {ws : List CodeWord} (h : (checkFlit ws).2 = []) :
    s.takeFlit d n ws = (s, some (checkFlit ws).1) := by
  unfold State.takeFlit
  dsimp only
  rw [h, List.all_nil, if_pos rfl, List.length_nil, State.count_zero]

theorem State.takeFlit_unsound {s : State} {d n : Nat} {ws : List CodeWord}
    (h : (checkFlit ws).2.all (tabGet [] (s.link d n).bad (s.link d n).place).contains = false) :
    s.takeFlit d n ws = (s.setLink d n { s.link d n with
      bad := tabSet [] (s.link d n).bad (s.link d n).place (checkFlit ws).2, waiting := true }, none) := by
  unfold State.takeFlit
  dsimp only
  rw [if_neg (by rw [h]; decide)]

/-- The control flit at its place with every word right moves the link on, and is acknowledged. -/
theorem State.exec_controlFlit {s : State} {die : BitVec 6} {port : BitVec 5} {ui : List (BitVec 256)}
    (h1 : (s.link die.toNat port.toNat).state = 1) (hw : (s.link die.toNat port.toNat).waiting = false) (hu : ui.length = 9)
    (hp : (s.link die.toNat port.toNat).place = 0 ∨ (s.link die.toNat port.toNat).place = (s.link die.toNat port.toNat).group.length + 1)
    (hbad : (checkFlit (wireWords ui)).2 = []) (h : LinkHeader) (hh : h = decodeLink (pairAt (checkFlit (wireWords ui)).1 0))
    (hseq : h.flitSeq.toNat = ((s.link die.toNat port.toNat).lastSeq + 1) % 4096)
    (hq : ¬(h.linkState = 3 ∧ h.slotValid = 0)) :
    exec (.controlFlit die port ui) s = .next (((s.takeControl die.toNat port.toNat h
      (((List.range 15).filter fun k => h.slotValid.getLsbD k).map fun k => decodeTx (pairAt (checkFlit (wireWords ui)).1 (k + 1)))).emit
        (.link "ack" die.toNat port.toNat h.flitSeq.toNat)).routerAt die.toNat) := by
  subst hh
  show execControlFlit die port ui s = _
  rw [execControlFlit]
  dsimp only
  rw [if_neg (by simp [h1, hw, hu]; omega), State.takeFlit_sound hbad]
  dsimp only
  rw [if_neg (by
    rintro ⟨e, -⟩
    rw [e] at hseq
    omega), if_neg (not_not.2 hseq), if_neg (by
    rintro ⟨-, h3, h0⟩
    exact hq ⟨BitVec.eq_of_toNat_eq h3, h0⟩)]

/-- Settles O21, by the port's state after the flit, which nothing that is sent on afterwards changes but in what it has sent. -/
theorem flitsAreTaken : Obligations.FlitsAreTaken := by
  unfold Obligations.FlitsAreTaken
  refine ⟨fun ui w u b _ hu hb => wireWord_getLsbD ui w u b hu hb, wireWords_toWire, fun s die port ui => ?_⟩
  extract_lets d n l ws bad h ts
  intro h1 hw hu
  refine ⟨fun hp hbad => ?_, fun h0 hl hbad => ?_, fun hp _ hnew => ?_⟩
  · intro hseq hlink hq
    obtain ⟨l', hs, hn, hg, hpl, ht⟩ := State.link_takeControl s d n h ts
    have hs' := hs.trans (.trans (.of_links rfl) (Sends.routerAt ((s.takeControl d n h ts).emit (.link "ack" d n h.flitSeq.toNat)) d))
    obtain ⟨_, _, _, _, e⟩ := hs' d n
    rw [State.link_setLink_same] at e
    refine ⟨_, State.exec_controlFlit h1 hw hu hp hbad h rfl hseq hq, ?_, ?_, ?_, ?_, ?_⟩
    · exact (congrArg LinkSt.lastSeq e).trans hn
    · exact (congrArg LinkSt.group e).trans hg
    · exact (congrArg LinkSt.place e).trans hpl
    · exact (congrArg LinkSt.taken e).trans ht
    · exact SaysMore.routerAt _ d _ (List.mem_append_right _ (List.mem_singleton.2 rfl))
  · let s1 := s.setLink d n { l with place := l.place + 1, taken := max l.taken (l.place + 1) }
    have hc : ¬(l.state ≠ 1 ∨ l.waiting = true ∨ ui.length ≠ 9 ∨ l.place = 0 ∨ l.group.length < l.place) := by
      simp [h1, hw, hu]
      omega
    have hexec : exec (.dataFlit die port ui) s = .next (if l.place < l.taken then s1 else match l.group.getD (l.place - 1) none with
        | none => s1
        | some t => (s1.received d n t ws).routerAt d) := by
      show execDataFlit die port ui s = _
      rw [execDataFlit]
      dsimp only
      rw [if_neg hc, State.takeFlit_sound hbad] <;> rfl
    have he : (s1.link d n) = { l with place := l.place + 1, taken := max l.taken (l.place + 1) } := State.link_setLink_same ..
    refine ⟨_, hexec, ?_⟩
    split
    · rw [he]
      exact ⟨rfl, rfl, rfl, fun _ => rfl⟩
    · split
      · rw [he]
        exact ⟨rfl, rfl, rfl, fun _ => rfl⟩
      next x hx =>
        obtain ⟨_, _, _, _, e⟩ := (Sends.of_links (State.received_links s1 d n x ws)).trans (Sends.routerAt _ d) d n
        rw [e, he]
        exact ⟨rfl, rfl, rfl, fun h => absurd (hx.symm.trans h) (by simp)⟩
  · have hc : ¬(l.state ≠ 1 ∨ l.waiting = true ∨ ui.length ≠ 9 ∨ l.place ≠ 0 ∧ l.place ≠ l.group.length + 1) := by
      simp [h1, hw, hu]
      omega
    show execControlFlit die port ui s = _
    rw [execControlFlit]
    dsimp only
    rw [if_neg hc, State.takeFlit_unsound hnew]

end Sys2Proof.Machine
end

section
/-! SUPPORT. The packets of an output. -/

namespace Sys2Proof.Machine

/-- Packet `q` after the mark on packet `p`. -/
def Packet.markedBy (p q : Packet) : Packet := if q = p then { q with stale := true } else q

theorem Packet.markedBy_die (p q : Packet) : (p.markedBy q).die = q.die := by
  rw [markedBy]
  split <;> rfl

theorem Packet.markedBy_port (p q : Packet) : (p.markedBy q).port = q.port := by
  rw [markedBy]
  split <;> rfl

theorem LinkSt.room_markedBy (l : LinkSt) (p q : Packet) : l.room (p.markedBy q) = l.room q := by
  rw [Packet.markedBy]
  split <;> rfl

/-- The only packet that waits is the one that contends. -/
theorem winner_contenders_single (k : Nat) (p : Packet) : winner (contenders k [p]) = some p := by
  unfold contenders
  by_cases h : p.header.msgClass = 2#2 <;> simp [h, winner]

/-- An output at which the only packet that waits has credits and room sends it. -/
theorem State.sendFrom_single {s : State} {d out : Nat} {p : Packet}
    (h : (s.packets.filter fun q => q.die == d && q.port == out && (s.link d out).room q) = [p]) :
    (s.sendFrom d out).out = s.out ++ [.packet p.header p.words] ∧ (s.sendFrom d out).packets = s.packets.erase p ∧
      ((s.sendFrom d out).link d out).credit p.vc = (s.link d out).credit p.vc - p.flits := by
  unfold State.sendFrom
  dsimp only
  rw [h, winner_contenders_single]
  refine ⟨rfl, rfl, ?_⟩
  dsimp only
  rw [State.emit, State.link]
  dsimp only
  rw [State.setLink_links, tabGet_tabSet_same, LinkSt.credit]
  exact tabGet_tabSet_same ..

theorem State.sendFrom_none {s : State} {d out : Nat}
    (h : (s.packets.filter fun q => q.die == d && q.port == out && (s.link d out).room q) = []) : s.sendFrom d out = s := by
  unfold State.sendFrom
  dsimp only
  rw [h]
  rfl

/-- Of a list in which `p` alone meets `f`, the marked one is taken out as `p` is. -/
theorem erase_map_markedBy {p : Packet} {l : List Packet} (h : ∀ q ∈ l, q = { p with stale := true } → q = p) :
    (l.map p.markedBy).erase { p with stale := true } = (l.erase p).map p.markedBy := by
  induction l with
  | nil => rfl
  | cons q l ih =>
    by_cases hq : q = p
    · subst hq
      rw [List.map_cons, Packet.markedBy, if_pos rfl, List.erase_cons_head, List.erase_cons_head]
    · have hne : q ≠ { p with stale := true } := fun e => hq (h q List.mem_cons_self e)
      rw [List.map_cons, Packet.markedBy, if_neg hq, List.erase_cons_tail (by simpa using hne), List.erase_cons_tail (by simpa using hq),
        List.map_cons, Packet.markedBy, if_neg hq, ih fun r hr => h r (List.mem_cons_of_mem _ hr)]

/-- Settles O22, by the packets of the output after the mark. -/
theorem stalePacketsGoFirst : Obligations.StalePacketsGoFirst := by
  unfold Obligations.StalePacketsGoFirst
  intro s die idx
  refine ⟨fun h => ?_, fun p h => ?_⟩
  · show execPacketStale die idx s = _
    rw [execPacketStale]
    dsimp only
    rw [h]
  · extract_lets l marked
    have hmem : p ∈ s.packets ∧ p.die = die.toNat := by
      have := List.mem_of_getElem? h
      simpa using this
    have hexec : exec (.packetStale die idx) s = .next (marked.sendFrom die.toNat p.port) := by
      show execPacketStale die idx s = _
      rw [execPacketStale]
      dsimp only
      rw [h]
    have hpk : marked.packets = s.packets.map p.markedBy := rfl
    have hlink : marked.link die.toNat p.port = l := rfl
    have hfil : ∀ g : Packet → Bool, (∀ q, g (p.markedBy q) = g q) →
        (marked.packets.filter fun q => q.die == die.toNat && q.port == p.port && g q) =
          ((s.packets.filter fun q => q.die == die.toNat && q.port == p.port).filter g).map p.markedBy := fun g hg => by
      rw [hpk, List.filter_map, List.filter_filter]
      congr 1
      refine List.filter_congr fun q _ => ?_
      simp [Packet.markedBy_die, Packet.markedBy_port, hg, Bool.and_comm]
    have hroom := hfil (marked.link die.toNat p.port).room (LinkSt.room_markedBy _ p)
    refine ⟨hexec, fun hone hr => ?_, fun hnone => ?_⟩
    · rw [hone, hlink, List.filter_singleton, hr] at hroom
      have hm : p.markedBy p = { p with stale := true } := if_pos rfl
      rw [cond_true, List.map_singleton, hm] at hroom
      obtain ⟨ho, hp, hc⟩ := State.sendFrom_single (hlink ▸ hroom)
      have halone : ∀ q ∈ s.packets, q = { p with stale := true } → q = p := fun q hq e => by
        have : q ∈ s.packets.filter fun q => q.die == die.toNat && q.port == p.port :=
          List.mem_filter.2 ⟨hq, by
            rw [e]
            simp [hmem.2]⟩
        rw [hone] at this
        exact List.mem_singleton.1 this
      have honce : p ∉ s.packets.erase p := by
        have hcount := List.count_filter (p := fun q => q.die == die.toNat && q.port == p.port) (a := p) (l := s.packets) (by simp [hmem.2])
        rw [hone, List.count_singleton_self] at hcount
        rw [← List.count_eq_zero, List.count_erase_self, ← hcount]
      have hrest : (s.packets.erase p).map p.markedBy = s.packets.erase p :=
        (List.map_congr_left fun q hq => if_neg fun e => honce (by rwa [e] at hq)).trans (List.map_id _)
      refine ⟨_, hexec, ho, ?_, hc⟩
      rw [hp, hpk, erase_map_markedBy halone, hrest]
    · rw [hexec]
      congr 1
      apply State.sendFrom_none
      rw [hroom, hlink, List.map_eq_nil_iff, List.filter_eq_nil_iff]
      intro q hq
      obtain ⟨hq, hd⟩ := List.mem_filter.1 hq
      simp only [Bool.and_eq_true, beq_iff_eq] at hd
      have := hnone q hq hd.1 hd.2
      rw [hd.2] at this
      simp [l, this]

end Sys2Proof.Machine
end

section
/-! SUPPORT. What events, faults and fences leave alone: the clusters, the stacks, the tier cache, the collectives, the host's memory and
what waits there. -/

namespace Sys2Proof.Machine

/-- The state apart from what events, faults and fences change: cores, partitions, clients, objects, counts and what is sent. -/
def State.calm (s : State) : State :=
  { s with out := [], dict := [], blobs := [], localCounts := [], eventSeq := 0, eventGap := false, cores := [], hbm := [], parts := [], clients := [] }

@[simp] theorem State.forEach_calm {α : Type} (s : State) (l : List α) (f : State → α → State)
    (hf : ∀ s x, (f s x).calm = s.calm) : (s.forEach l f).calm = s.calm := by
  induction l generalizing s with
  | nil => rfl
  | cons x l ih => exact (ih (f s x)).trans (hf s x)

@[simp] theorem foldl_calm {α : Type} (s : State) (l : List α) (f : State → α → State) (hf : ∀ s x, (f s x).calm = s.calm) :
    (l.foldl f s).calm = s.calm := State.forEach_calm s l f hf

theorem State.eventSeq_calm (s : State) (n : Nat) : ({ s with eventSeq := n } : State).calm = s.calm := rfl

/-- What a calm change leaves, field by field. -/
theorem State.of_calm {s t : State} (h : t.calm = s.calm) :
    t.clusters = s.clusters ∧ t.dram = s.dram ∧ t.outside = s.outside := by
  have h1 := congrArg State.clusters h
  have h2 := congrArg State.dram h
  have h3 := congrArg State.outside h
  exact ⟨h1, h2, h3⟩

@[simp] theorem State.setNum_calm (s : State) (o sub v : Nat) : (s.setNum o sub v).calm = s.calm := by
  rfl

@[simp] theorem State.setBlob_calm (s : State) (o sub : Nat) (b : List Byte) : (s.setBlob o sub b).calm = s.calm := by
  rfl

@[simp] theorem State.bump_calm (s : State) (o sub n : Nat) : (s.bump o sub n).calm = s.calm := by
  simp [State.bump]

@[simp] theorem State.count_calm (s : State) (o sub n : Nat) : (s.count o sub n).calm = s.calm := by
  unfold State.count
  (repeat' split) <;> rfl

@[simp] theorem State.emit_calm (s : State) (o : Output) : (s.emit o).calm = s.calm := by
  rfl

@[simp] theorem State.setCore_calm (s : State) (p : Nat) (c : Core) : (s.setCore p c).calm = s.calm := by
  rfl

@[simp] theorem State.modCore_calm (s : State) (p : Nat) (f : Core → Core) : (s.modCore p f).calm = s.calm := by
  simp [State.modCore]

@[simp] theorem State.setStack_calm (s : State) (k : Nat) (c : Stack) : (s.setStack k c).calm = s.calm := by
  rfl

@[simp] theorem State.modStack_calm (s : State) (k : Nat) (f : Stack → Stack) : (s.modStack k f).calm = s.calm := by
  simp [State.modStack]

@[simp] theorem State.setPart_calm (s : State) (p : Nat) (c : Part) : (s.setPart p c).calm = s.calm := by
  rfl

@[simp] theorem State.modPart_calm (s : State) (p : Nat) (f : Part → Part) : (s.modPart p f).calm = s.calm := by
  simp [State.modPart]

@[simp] theorem State.setClient_calm (s : State) (n : Nat) (c : Client) : (s.setClient n c).calm = s.calm := by
  rfl

@[simp] theorem State.modClient_calm (s : State) (n : Nat) (f : Client → Client) : (s.modClient n f).calm = s.calm := by
  simp [State.modClient]

@[simp] theorem State.setFilm_calm (s : State) (f : Nat) (v : Film) : (s.setFilm f v).calm = s.calm := by
  unfold State.setFilm
  (repeat' split) <;> simp

@[simp] theorem State.filmTrigger_calm (s : State) (p f cause : Nat) : (s.filmTrigger p f cause).calm = s.calm := by
  unfold State.filmTrigger
  dsimp only
  (repeat' split) <;> simp

@[simp] theorem State.trigger_calm (s : State) (p cause : Nat) : (s.trigger p cause).calm = s.calm := by
  unfold State.trigger
  (repeat' split) <;> simp

@[simp] theorem State.eventRing_calm (s : State) (kind : Nat) (rcd : List Byte) : (s.eventRing kind rcd).calm = s.calm := by
  unfold State.eventRing
  dsimp only
  (repeat' split) <;> rfl

@[simp] theorem State.raise_calm (s : State) (e : Event) : (s.raise e).calm = s.calm := by
  unfold State.raise
  extract_lets rcd kept b s1 s2
  have hb : b.calm = s.calm := by
    simp only [b]
    rw [State.bump_calm, State.setBlob_calm]
  have h1 : s1.calm = s.calm := (State.eventSeq_calm ..).trans hb
  have h : s2.calm = s.calm := (State.eventRing_calm ..).trans h1
  split
  · exact h
  · exact (State.forEach_calm _ _ _ fun t c => State.trigger_calm ..).trans h

@[simp] theorem State.retire_calm (s : State) (k pc : Nat) : (s.retire k pc).calm = s.calm := by
  unfold State.retire
  dsimp only
  (repeat' split) <;> simp

@[simp] theorem State.seen_calm (s : State) (p : Place) (ce ue : Nat) : (s.seen p ce ue).calm = s.calm := by
  unfold State.seen
  dsimp only
  (repeat' split) <;> simp

@[simp] theorem State.account_calm (s : State) (pc u : Nat) : (s.account pc u).calm = s.calm := by
  unfold State.account
  dsimp only
  (repeat' split) <;> simp

@[simp] theorem State.accountCore_calm (s : State) (pc : Nat) : (s.accountCore pc).calm = s.calm := by
  simp [State.accountCore]

@[simp] theorem State.modRunning_calm (s : State) (p : Nat) (g : Step → Step) : (s.modRunning p g).calm = s.calm := by
  simp [State.modRunning]

@[simp] theorem State.stopStep_calm (s : State) (p : Nat) : (s.stopStep p).calm = s.calm := by
  unfold State.stopStep
  (repeat' split) <;> simp

@[simp] theorem State.failStep_calm (s : State) (p : Nat) (f : Failure) : (s.failStep p f).calm = s.calm := by
  simp [State.failStep]

@[simp] theorem State.flagWaiting_calm (s : State) (n : Nat) : (s.flagWaiting n).calm = s.calm := by
  simp [State.flagWaiting]

@[simp] theorem State.markBreach_calm (s : State) (p : Nat) : (s.markBreach p).calm = s.calm := by
  simp [State.markBreach]

@[simp] theorem State.raiseBreach_calm (s : State) (p : Nat) (e : Event) : (s.raiseBreach p e).calm = s.calm := by
  unfold State.raiseBreach
  (repeat' split) <;> simp

@[simp] theorem State.fenceNote_calm (s : State) (pc bank cause : Nat) : (s.fenceNote pc bank cause).calm = s.calm := by
  simp [State.fenceNote]

@[simp] theorem State.stopOrReplay_calm (s : State) (p : Nat) (can : Bool) (f : Failure) : (s.stopOrReplay p can f).calm = s.calm := by
  unfold State.stopOrReplay
  (repeat' split) <;> simp

@[simp] theorem State.fenceStep_calm (s : State) (p unit : Nat) : (s.fenceStep p unit).calm = s.calm := by
  simp [State.fenceStep]

@[simp] theorem State.fenceCore_calm (s : State) (pc cause : Nat) : (s.fenceCore pc cause).calm = s.calm := by
  unfold State.fenceCore
  dsimp only
  (repeat' split) <;> simp

@[simp] theorem State.fenceCluster_calm (s : State) (k cause : Nat) : (s.fenceCluster k cause).calm = s.calm := by
  unfold State.fenceCluster
  dsimp only
  (repeat' split) <;> simp

@[simp] theorem State.dataFault_calm (s : State) (p pc u a : Nat) : (s.dataFault p pc u a).calm = s.calm := by
  simp [State.dataFault]

@[simp] theorem State.landCheck_calm (s : State) (k n : Nat) : (s.landCheck k n).calm = s.calm := by
  unfold State.landCheck
  dsimp only
  (repeat' split) <;> simp

end Sys2Proof.Machine
end

section
/-! SUPPORT. Whole words moved between memories as the 72 bits they are stored as (R103). -/

namespace Sys2Proof.Machine

theorem leBytes_length (n x : Nat) : (leBytes n x).length = n := by
  induction n generalizing x with
  | zero => rfl
  | succ n ih => rw [leBytes, List.length_cons, ih]

theorem leNat_leBytes (n x : Nat) : leNat (leBytes n x) = x % 256 ^ n := by
  induction n generalizing x with
  | zero => simp [leBytes, leNat, Nat.mod_one]
  | succ n ih =>
    rw [leBytes, leNat, ih, BitVec.toNat_ofNat]
    exact (Nat.mod_mul (x := x) (a := 256)).symm.trans (congrArg (x % ·) (Nat.pow_succ' (m := 256)).symm)

theorem Ram.read1_storeCode (r : Ram) (w x : Nat) (c : CodeWord) (h : x < 8 * w ∨ 8 * w + 8 ≤ x) : (r.storeCode w c).read1 x = r.read1 x := by
  rw [Ram.storeCode, Ram.read1_setMask, Ram.read1_writeRaw, leBytes_length, if_neg (by omega)]

theorem Ram.readRaw_writeRaw_same (r : Ram) (a : Nat) (d : List Byte) : (r.writeRaw a d).readRaw a d.length = d := by
  rw [Ram.readRaw_eq_iff]
  intro k hk
  rw [Ram.read1_writeRaw, if_pos ⟨Nat.le_add_right .., Nat.add_lt_add_left hk a⟩, Nat.add_sub_cancel_left, List.getD_eq_getElem?_getD, List.getElem?_eq_getElem hk]
  rfl

/-- A word stored as 72 bits is read as those bits, and no other word changes. -/
theorem Ram.codeWord_storeCode (r : Ram) (w x : Nat) (c : CodeWord) : (r.storeCode w c).codeWord x = if x = w then c else r.codeWord x := by
  split
  next h =>
    subst h
    have hr : ((r.writeRaw (8 * x) (leBytes 8 (codeData c).toNat)).setMask x (c ^^^ eccEncode (codeData c))).readRaw (8 * x) 8 =
        leBytes 8 (codeData c).toNat := by
      have := Ram.readRaw_writeRaw_same r (8 * x) (leBytes 8 (codeData c).toNat)
      rw [leBytes_length] at this
      exact this
    rw [Ram.storeCode, Ram.codeWord, hr, leNat_leBytes, Ram.mask_setMask, if_pos rfl, Nat.mod_eq_of_lt (by exact (codeData c).isLt),
      BitVec.ofNat_toNat, BitVec.setWidth_eq, BitVec.xor_comm c, ← BitVec.xor_assoc, BitVec.xor_self, BitVec.zero_xor]
  next h =>
    have hr : (r.storeCode w c).readRaw (8 * x) 8 = r.readRaw (8 * x) 8 :=
      List.map_congr_left fun y hy => by
        obtain ⟨i, hi, rfl⟩ := List.mem_map.1 hy
        have := List.mem_range.1 hi
        exact Ram.read1_storeCode r w _ c (by omega)
    rw [Ram.codeWord, Ram.codeWord, hr, Ram.storeCode, Ram.mask_setMask, if_neg h, Ram.mask_writeRaw]

/-- Words stored one after another. -/
def Ram.stores (r : Ram) (l : List (Nat × CodeWord)) : Ram := l.foldl (fun r e => r.storeCode e.1 e.2) r

theorem Ram.stores_append (r : Ram) (l m : List (Nat × CodeWord)) : r.stores (l ++ m) = (r.stores l).stores m := List.foldl_append ..

theorem Ram.codeWord_stores_other {r : Ram} {l : List (Nat × CodeWord)} {x : Nat} (h : ∀ e ∈ l, e.1 ≠ x) : (r.stores l).codeWord x = r.codeWord x := by
  induction l generalizing r with
  | nil => rfl
  | cons e l ih =>
    rw [Ram.stores, List.foldl_cons]
    refine (ih fun e he => h e (List.mem_cons_of_mem _ he)).trans ?_
    rw [Ram.codeWord_storeCode, if_neg (h e List.mem_cons_self).symm]

theorem Ram.codeWord_stores {r : Ram} {l : List (Nat × CodeWord)} {x : Nat} {c : CodeWord} (hc : ∀ e ∈ l, e.1 = x → e.2 = c)
    (hx : ∃ e ∈ l, e.1 = x) : (r.stores l).codeWord x = c := by
  induction l generalizing r with
  | nil => simp at hx
  | cons e l ih =>
    rw [Ram.stores, List.foldl_cons]
    by_cases hl : ∃ e ∈ l, e.1 = x
    · exact ih (fun e he => hc e (List.mem_cons_of_mem _ he)) hl
    · refine (Ram.codeWord_stores_other fun e he hex => hl ⟨e, he, hex⟩).trans ?_
      have he : e.1 = x := by
        obtain ⟨e', he', hx'⟩ := hx
        rcases List.mem_cons.1 he' with rfl | h
        · exact hx'
        · exact absurd ⟨e', h, hx'⟩ hl
      rw [Ram.codeWord_storeCode, if_pos he.symm, hc e List.mem_cons_self he]

theorem Ram.read1_stores {r : Ram} {l : List (Nat × CodeWord)} {x : Nat} (h : ∀ e ∈ l, x < 8 * e.1 ∨ 8 * e.1 + 8 ≤ x) :
    (r.stores l).read1 x = r.read1 x := by
  induction l generalizing r with
  | nil => rfl
  | cons e l ih =>
    rw [Ram.stores, List.foldl_cons]
    exact (ih fun e he => h e (List.mem_cons_of_mem _ he)).trans (Ram.read1_storeCode _ _ _ _ (h e List.mem_cons_self))

theorem wordsOf_whole (b n : Nat) : wordsOf (8 * b) (8 * n) = rangeFrom b n := by
  unfold wordsOf
  split
  next h =>
    obtain rfl : n = 0 := by omega
    rfl
  next h => rw [show 8 * b / 8 = b by omega, show (8 * b + 8 * n - 1) / 8 + 1 - b = n by omega]

/-- A copy of whole words to whole words copies each as it is stored. -/
theorem Ram.copy_words (src dst : Ram) (a b n : Nat) :
    Ram.copy src dst (8 * a) (8 * b) (8 * n) = dst.stores ((List.range n).map fun i => (b + i, src.codeWord (a + i))) := by
  rw [Ram.copy, wordsOf_whole, Ram.stores, rangeFrom, List.foldl_map, List.foldl_map]
  refine List.foldl_ext _ _ _ fun r i hi => ?_
  have := List.mem_range.1 hi
  rw [if_pos (by omega), show (8 * (b + i) - 8 * b + 8 * a) / 8 = a + i by omega]

theorem Ram.copy_word (src dst : Ram) (a b : Nat) : Ram.copy src dst (8 * a) (8 * b) 8 = dst.storeCode b (src.codeWord a) :=
  Ram.copy_words src dst a b 1

/-- The words of an image that a copy of 32 whole words fills are the words copied. -/
theorem wordsOfImage_copy (src : Ram) (a : Nat) : wordsOfImage (Ram.copy src .empty (8 * a) 0 256) = (List.range 32).map fun w => src.codeWord (a + w) := by
  refine List.map_congr_left fun w hw => ?_
  rw [show (256 : Nat) = 8 * 32 by rfl, show (0 : Nat) = 8 * 0 by rfl, Ram.copy_words]
  refine Ram.codeWord_stores (fun e he hx => ?_) ⟨_, List.mem_map_of_mem hw, Nat.zero_add w⟩
  obtain ⟨i, -, rfl⟩ := List.mem_map.1 he
  rw [show i = w by simpa using hx]

theorem Ram.codeWord_empty (w : Nat) : Ram.empty.codeWord w = eccEncode 0 := by
  rw [Ram.codeWord, Ram.mask_empty]
  have : Ram.empty.readRaw (8 * w) 8 = List.replicate 8 0 := by simp [Ram.readRaw, rangeFrom, List.range, List.range.loop, List.replicate]
  rw [this]
  exact BitVec.xor_zero

theorem wordsOfImage_empty : wordsOfImage .empty = List.replicate 32 (eccEncode 0) := by
  exact (List.map_congr_left fun w _ => Ram.codeWord_empty w).trans (List.map_const' ..)

/-- The image of a message's words holds them as they are, and a missing one as zero. -/
theorem codeWord_imageOfWords (ws : List CodeWord) (w : Nat) : (imageOfWords ws).codeWord w = ws.getD w (eccEncode 0) := by
  have e : imageOfWords ws = Ram.empty.stores (ws.zipIdx.map fun p => (p.2, p.1)) := by rw [imageOfWords, Ram.stores, List.foldl_map]
  rw [e]
  by_cases h : w < ws.length
  · rw [List.getD_eq_getElem?_getD, List.getElem?_eq_getElem h]
    refine Ram.codeWord_stores (fun e he hx => ?_) ⟨(w, ws[w]), List.mem_map.2 ⟨(ws[w], w), ?_, rfl⟩, rfl⟩
    · obtain ⟨p, hp, rfl⟩ := List.mem_map.1 he
      have := List.mem_zipIdx' hp
      obtain ⟨h1, h2⟩ := this
      simp only at hx
      subst hx
      exact h2
    · rw [List.mem_zipIdx_iff_getElem?]
      exact List.getElem?_eq_getElem h
  · rw [Ram.codeWord_stores_other fun e he hx => ?_, Ram.codeWord_empty, List.getD_eq_getElem?_getD, List.getElem?_eq_none (by omega)]
    · rfl
    · obtain ⟨p, hp, rfl⟩ := List.mem_map.1 he
      have := List.mem_zipIdx' hp
      obtain ⟨h1, -⟩ := this
      simp only at hx
      omega

/-- A whole word has no part to merge. -/
theorem Ram.mergeErrs_word (r : Ram) (w : Nat) : r.mergeErrs (8 * w) 8 = (0, 0) := by
  have : partWords (8 * w) 8 = [] := by
    have hw := wordsOf_whole w 1
    rw [Nat.mul_one] at hw
    rw [partWords, hw]
    simp [rangeFrom]
  rw [Ram.mergeErrs, this]
  rfl

end Sys2Proof.Machine
end

section
/-! SUPPORT. Whole words at granules of the device's memory and of a cluster's buffer. -/

namespace Sys2Proof.Machine

/-- A piece of one granule is not cut. -/
theorem granulesOf_one {a n : Nat} (h : a % 256 + n ≤ 256) (h0 : 0 < n) : granulesOf a n = [(a, n)] := by
  obtain ⟨m, rfl⟩ : ∃ m, n = m + 1 := ⟨n - 1, by omega⟩
  have hm : min (m + 1) (256 - a % 256) = m + 1 := by omega
  rw [granulesOf, pieces.eq_3 _ _ _ (by simp)]
  show (a, min (m + 1) (256 - a % 256)) :: pieces (a + min (m + 1) (256 - a % 256)) ((m + 1) / 256 + 1) (m + 1 - min (m + 1) (256 - a % 256)) = _
  rw [hm, Nat.sub_self]
  cases (m + 1) / 256 <;> rfl

/-- Addresses of one granule have one place. -/
theorem State.logicalPlace_congr (s : State) {a b : Nat} (h : a / 256 = b / 256) : s.logicalPlace a = s.logicalPlace b := by
  have hs : a < s.spreadBytes ↔ b < s.spreadBytes := by
    simp only [State.spreadBytes]
    omega
  have hp : placedBase 0 ≤ a ↔ placedBase 0 ≤ b := by
    simp only [placedBase]
    omega
  have hk : (a - placedBase 0) / 0x001000000000 = (b - placedBase 0) / 0x001000000000 := by
    simp only [placedBase]
    omega
  have ho : (a - placedBase 0) % 0x001000000000 / 256 = (b - placedBase 0) % 0x001000000000 / 256 := by
    simp only [placedBase]
    omega
  have hb : (a - placedBase 0) % 0x001000000000 < s.placedBand * 2 ^ 30 ↔ (b - placedBase 0) % 0x001000000000 < s.placedBand * 2 ^ 30 := by
    omega
  unfold State.logicalPlace
  simp only [hs, hp, hk, ho, hb, h]

theorem TxHeader.address_mod (h : TxHeader) : h.address % 256 = 0 := by
  rw [TxHeader.address]
  omega

theorem physAddr_mod (k c r : Nat) : physAddr k c r % 8 = 0 := by
  rw [physAddr]
  omega


theorem State.readDevice_granule {s : State} {a : Nat} {p : Place} (ha : a % 256 = 0) (h : s.place a = some p) :
    s.readDevice a 256 = (s.seen p (s.dramErrs (physAddr p.stack p.pc p.row) 256).1 (s.dramErrs (physAddr p.stack p.pc p.row) 256).2,
      Ram.copy s.dram .empty (physAddr p.stack p.pc p.row) 0 256) := by
  have hg : granulesOf a 256 = [(a, 256)] := granulesOf_one (by omega) (by omega)
  rw [State.readDevice, hg, List.foldl_cons, List.foldl_nil]
  split
  next h' => 
    have h' : s.place a = none := h'
    rw [h] at h'
    cases h'
  next q h' => 
    have h' : s.place a = some q := h'
    rw [h] at h'
    cases h'
    extract_lets base img
    have hb : base = physAddr p.stack p.pc p.row := (congrArg (physAddr p.stack p.pc p.row + ·) ha).trans (Nat.add_zero _)
    have hi : img = Ram.copy s.dram .empty base 0 256 := congrArg (Ram.copy s.dram .empty base · 256) (Nat.sub_self a)
    rw [← hb, hi]

theorem State.readDevice_nowhere {s : State} {a : Nat} (ha : a % 256 = 0) (h : s.place a = none) : s.readDevice a 256 = (s, .empty) := by
  have hg : granulesOf a 256 = [(a, 256)] := granulesOf_one (by omega) (by omega)
  rw [State.readDevice, hg, List.foldl_cons, List.foldl_nil]
  split
  · rfl
  next q h' =>
    have h' : s.place a = some q := h'
    rw [h] at h'
    cases h'

theorem State.seen_zero (s : State) (p : Place) : s.seen p 0 0 = s := by
  rw [State.seen, if_pos ⟨rfl, rfl⟩]

/-- Where a granule of the stacks is written, as byte addresses. -/
def State.writeBases (s : State) (l : Place) : List Nat :=
  ((s.stack l.stack).writePlaces l.pc l.row).map fun c => physAddr l.stack c.1 c.2

/-- A run of changes that each store one word in the stacks. -/
theorem State.foldl_stores {α : Type} {f : State → α → State} {g : α → Nat × CodeWord} (l : List α)
    (hf : ∀ s x, f s x = { s with dram := s.dram.storeCode (g x).1 (g x).2 }) (s : State) :
    l.foldl f s = { s with dram := s.dram.stores (l.map g) } := by
  induction l generalizing s with
  | nil => rfl
  | cons x l ih => rw [List.foldl_cons, ih, hf, List.map_cons, Ram.stores, Ram.stores, List.foldl_cons]

/-- A whole word written to a granule of the stacks is stored at every place of the granule. -/
theorem State.writeDevice_word {s : State} {a w v : Nat} {l : Place} (ha : a % 256 = 0) (hw : w < 32) (h : s.logicalPlace a = some l) (img : Ram) :
    s.writeDevice img (8 * v) (a + 8 * w) 8 =
      { s with dram := s.dram.stores ((s.writeBases l).map fun b => (b / 8 + w, img.codeWord v)) } := by
  have hg : granulesOf (a + 8 * w) 8 = [(a + 8 * w, 8)] := granulesOf_one (by omega) (by omega)
  rw [State.writeDevice, hg, List.foldl_cons, List.foldl_nil]
  split
  next h' =>
    have h' : s.logicalPlace (a + 8 * w) = none := h'
    rw [s.logicalPlace_congr (b := a) (by omega), h] at h'
    cases h'
  next q h' =>
    have h' : s.logicalPlace (a + 8 * w) = some q := h'
    rw [s.logicalPlace_congr (b := a) (by omega), h] at h'
    cases h'
    rw [State.writeBases, List.map_map]
    refine State.foldl_stores _ (fun u c => ?_) s
    extract_lets base
    have hb : base = 8 * (physAddr l.stack c.1 c.2 / 8 + w) := by
      have h8 := physAddr_mod l.stack c.1 c.2
      show physAddr l.stack c.1 c.2 + (a + 8 * w) % 256 = _
      omega
    clear_value base
    subst hb
    split
    next ce ue he =>
      have he : (0, 0) = (ce, ue) := (Ram.mergeErrs_word ..).symm.trans he
      cases he
      rw [State.seen_zero]
      show { u with dram := Ram.copy img u.dram (8 * v + (a + 8 * w - (a + 8 * w))) _ 8 } = _
      rw [Nat.sub_self, Nat.add_zero, Ram.copy_word]
      rfl

theorem State.writeDevice_nowhere {s : State} {a w v : Nat} (ha : a % 256 = 0) (hw : w < 32) (h : s.logicalPlace a = none) (img : Ram) :
    s.writeDevice img (8 * v) (a + 8 * w) 8 = s := by
  have hg : granulesOf (a + 8 * w) 8 = [(a + 8 * w, 8)] := granulesOf_one (by omega) (by omega)
  rw [State.writeDevice, hg, List.foldl_cons, List.foldl_nil]
  split
  · rfl
  next q h' =>
    have h' : s.logicalPlace (a + 8 * w) = some q := h'
    rw [s.logicalPlace_congr (b := a) (by omega), h] at h'
    cases h'

/-- Words written to a granule of the stacks. -/
theorem State.writeDevice_words {s : State} {a : Nat} {l : Place} (ha : a % 256 = 0) (h : s.logicalPlace a = some l) (img : Ram)
    (ws : List Nat) (hws : ∀ w ∈ ws, w < 32) :
    s.forEach ws (fun s w => s.writeDevice img (8 * w) (a + 8 * w) 8) =
      { s with dram := s.dram.stores (ws.flatMap fun w => (s.writeBases l).map fun b => (b / 8 + w, img.codeWord w)) } := by
  induction ws generalizing s with
  | nil => rfl
  | cons w ws ih =>
    have hw := State.writeDevice_word (v := w) ha (hws w List.mem_cons_self) h img
    generalize hr : s.dram.stores ((s.writeBases l).map fun b => (b / 8 + w, img.codeWord w)) = r at hw
    have hn := ih (s := { s with dram := r }) h fun w hw => hws w (List.mem_cons_of_mem _ hw)
    rw [List.flatMap_cons, Ram.stores_append, hr]
    rw [← hw] at hn
    exact hn.trans (by rw [hw]; rfl)

theorem State.writeDevice_words_nowhere {s : State} {a : Nat} (ha : a % 256 = 0) (h : s.logicalPlace a = none) (img : Ram)
    (ws : List Nat) (hws : ∀ w ∈ ws, w < 32) : s.forEach ws (fun s w => s.writeDevice img (8 * w) (a + 8 * w) 8) = s := by
  induction ws with
  | nil => rfl
  | cons w ws ih =>
    have hn := ih fun w hw => hws w (List.mem_cons_of_mem _ hw)
    rw [← State.writeDevice_nowhere (v := w) ha (hws w List.mem_cons_self) h img] at hn
    exact hn.trans (State.writeDevice_nowhere ha (hws w List.mem_cons_self) h img)

/-! ### A cluster's buffer -/

/-- Words have been stored in the buffer of cluster `k`: nothing is sent, the stacks are as they were, and the landing records stand. -/
structure BufStored (k : Nat) (l : List (Nat × CodeWord)) (s t : State) : Prop where
  buf : (t.cluster k).buf = (s.cluster k).buf.stores l
  errs : (t.cluster k).landErrs = (s.cluster k).landErrs
  out : t.out = s.out
  dram : t.dram = s.dram

theorem BufStored.trans {k : Nat} {l m : List (Nat × CodeWord)} {s t u : State} (h : BufStored k l s t) (g : BufStored k m t u) :
    BufStored k (l ++ m) s u :=
  ⟨by rw [g.buf, h.buf, Ram.stores_append], g.errs.trans h.errs, g.out.trans h.out, g.dram.trans h.dram⟩

/-- A whole word put in the buffer of a cluster. -/
theorem State.putCluster_word (s : State) (k v w : Nat) (img : Ram) :
    BufStored k [(w, img.codeWord v)] s (s.putCluster false k img (8 * v) (8 * w) 8) := by
  have hp : clusterOfPhys (9 * k) = k := by unfold clusterOfPhys; omega
  have hl : ∀ t : State, t.localRam (9 * k) 1 = (t.cluster k).buf := fun t => by rw [State.localRam, hp]
  have hm : s.merging (9 * k) 1 (8 * w) 8 = s := by
    rw [State.merging, Ram.mergeErrs_word]
    dsimp only
    rw [State.corrected, if_pos rfl, State.count_zero]
  rw [State.putCluster, if_neg Bool.false_ne_true, State.copyLocal, hm, hl, Ram.copy_word]
  have hset : BufStored k [(w, img.codeWord v)] s (s.setLocalRam (9 * k) 1 ((s.cluster k).buf.storeCode w (img.codeWord v))) := by
    rw [State.setLocalRam, hp]
    exact ⟨by rw [State.cluster_modCluster, if_pos rfl]; rfl, by rw [State.cluster_modCluster, if_pos rfl], rfl, rfl⟩
  have hnote : ∀ t : State, BufStored k [] t (t.noteArrivals (9 * k) 1 (8 * w) 8) := fun t => by
    unfold State.noteArrivals
    dsimp only
    split
    · exact ⟨rfl, rfl, rfl, rfl⟩
    · rw [State.setArrived, hp]
      exact ⟨by rw [State.cluster_modCluster, if_pos rfl]; rfl, by rw [State.cluster_modCluster, if_pos rfl], rfl, rfl⟩
  exact hset.trans (hnote _)

theorem State.putCluster_words (k A : Nat) (img : Ram) (ws : List Nat) (s : State) :
    BufStored k (ws.map fun w => (A + w, img.codeWord w)) s
      (s.forEach ws fun s w => s.putCluster false k img (8 * w) (8 * A + 8 * w) 8) := by
  induction ws generalizing s with
  | nil => exact ⟨rfl, rfl, rfl, rfl⟩
  | cons w ws ih =>
    have h := s.putCluster_word k w (A + w) img
    rw [Nat.mul_add] at h
    exact h.trans (ih _)

/-- A granule that lands changes no buffer and nothing of the stacks, and sends something only where a landing counter is in error. -/
theorem State.landGranules_rest (s : State) (k a n : Nat) : ((s.landGranules k a n).cluster k).buf = (s.cluster k).buf ∧
    (s.landGranules k a n).dram = s.dram ∧ ((s.cluster k).landErrs = [] → (s.landGranules k a n).out = s.out) := by
  unfold State.landGranules
  extract_lets gs hits s1
  have h1 : s1.calm = s.calm := by
    simp only [s1]
    split
    · rfl
    · exact State.forEach_calm _ _ _ fun t e => State.landCheck_calm ..
  obtain ⟨hc, hd, -⟩ := State.of_calm h1
  refine ⟨?_, hd, fun he => ?_⟩
  · rw [State.cluster_modCluster, if_pos rfl, State.cluster, hc]
    rfl
  · have : s1 = s := if_pos (by rw [he]; rfl)
    rw [this]
    rfl

theorem State.sendPacket_rest (s : State) (h : TxHeader) (ws : List CodeWord) : (s.sendPacket h ws).out = s.out ++ [.packet h ws] ∧
    (s.sendPacket h ws).clusters = s.clusters ∧ (s.sendPacket h ws).dram = s.dram := by
  unfold State.sendPacket
  dsimp only
  split <;> exact ⟨rfl, rfl, rfl⟩

theorem mem_maskWords {m : BitVec 32} {w : Nat} : w ∈ maskWords m ↔ w < 32 ∧ m.getLsbD w = true := by
  simp [maskWords]

section
variable {s : State} {h : TxHeader} (ws : List CodeWord) (hr : s.reach h.srcDie.toNat h.dstDie.toNat = true)
include hr

theorem State.exec_rdg_cluster (ho : h.opcode = 0x01) (hd : h.dstDie.toNat < 16) :
    exec (.rdg h) s = .next (s.sendPacket (h.back 0x10) (wordsOfImage (Ram.copy (s.cluster (4 * h.dstDie.toNat + h.dstCluster.toNat)).buf .empty
      (h.address % 25165824) 0 256))) := by
  show execRdg h s = _
  rw [execRdg]
  dsimp only
  rw [if_neg (by rw [ho]; decide), if_neg (by rw [hr]; decide), if_pos hd]

theorem State.exec_rdg_stacks (ho : h.opcode = 0x01) (hd : 16 ≤ h.dstDie.toNat) {t : State} {img : Ram} (ht : s.readDevice h.address 256 = (t, img)) :
    exec (.rdg h) s = .next (t.sendPacket (h.back 0x10) (wordsOfImage img)) := by
  show execRdg h s = _
  rw [execRdg]
  dsimp only
  rw [if_neg (by rw [ho]; decide), if_neg (by rw [hr]; decide), if_neg (by omega), ht]

theorem State.exec_wrg_cluster (ho : h.opcode = 0x02) (hd : h.dstDie.toNat < 16) {k a : Nat} (hk : k = 4 * h.dstDie.toNat + h.dstCluster.toNat)
    (ha : a = h.address % 25165824) {t : State} (ht : t = s.forEach (maskWords h.mask) fun s w => s.putCluster false k (imageOfWords ws) (8 * w) (a + 8 * w) 8) :
    exec (.wrg h ws) s = .next ((if h.mask = 0 then t else t.landGranules k a 256).sendPacket (h.back 0x11) []) := by
  subst hk ha ht
  show execWrg h ws s = _
  rw [execWrg]
  dsimp only
  rw [if_neg (by rw [ho]; decide), if_neg (by rw [hr]; decide), if_pos hd]

theorem State.exec_wrg_stacks (ho : h.opcode = 0x02) (hd : 16 ≤ h.dstDie.toNat) :
    exec (.wrg h ws) s = .next ((s.forEach (maskWords h.mask) fun s w => s.writeDevice (imageOfWords ws) (8 * w) (h.address + 8 * w) 8).sendPacket
      (h.back 0x11) []) := by
  show execWrg h ws s = _
  rw [execWrg]
  dsimp only
  rw [if_neg (by rw [ho]; decide), if_neg (by rw [hr]; decide), if_neg (by omega)]

end

/-- A word of a granule that is written under a mask. -/
theorem Ram.codeWord_stores_masked {r : Ram} {l : List (Nat × CodeWord)} {m : BitVec 32} {x w : Nat} {ws : List CodeWord}
    (hin : m.getLsbD w = true → ∃ e ∈ l, e.1 = x) (hcode : ∀ e ∈ l, e.1 = x → m.getLsbD w = true ∧ e.2 = (imageOfWords ws).codeWord w) :
    (r.stores l).codeWord x = if m.getLsbD w then ws.getD w (eccEncode 0) else r.codeWord x := by
  split
  next h => rw [← codeWord_imageOfWords, Ram.codeWord_stores (fun e he hx => (hcode e he hx).2) (hin h)]
  next h => exact Ram.codeWord_stores_other fun e he hx => h (hcode e he hx).1

/-- Settles O23: whole words move as the 72 bits they are stored as, between a message and the places of its granule. -/
theorem granulesAreServed : Obligations.GranulesAreServed := by
  unfold Obligations.GranulesAreServed
  intro s h ws d k a base hr
  have ha := TxHeader.address_mod h
  have hws : ∀ w ∈ maskWords h.mask, w < 32 := fun w hw => (mem_maskWords.1 hw).1
  refine ⟨fun ho hd => ?_, fun p ho hd hp => ?_, fun ho hd hp => ?_, fun ho hd => ?_, fun l ho hd hl => ?_, fun ho hd hl => ?_⟩
  · rw [State.exec_rdg_cluster hr ho hd]
    have e : h.address % 25165824 = 8 * (a / 8) := by
      show a = _
      omega
    rw [e, wordsOfImage_copy]
  · have e : physAddr p.stack p.pc p.row = 8 * (base p / 8) := by
      have : base p % 8 = 0 := physAddr_mod p.stack p.pc p.row
      show base p = _
      omega
    have hread := State.readDevice_granule ha hp
    rw [State.exec_rdg_stacks hr ho hd hread]
    have hw := wordsOfImage_copy s.dram (base p / 8)
    rw [← e] at hw
    rw [hw]
  · rw [State.exec_rdg_stacks hr ho hd (State.readDevice_nowhere ha hp), wordsOfImage_empty]
  · obtain ⟨A, hA⟩ : ∃ A, a = 8 * A := ⟨a / 8, by show h.address % 25165824 = 8 * (h.address % 25165824 / 8); omega⟩
    generalize ht : s.forEach (maskWords h.mask) (fun s w => s.putCluster false k (imageOfWords ws) (8 * w) (a + 8 * w) 8) = t
    have hput := State.putCluster_words k A (imageOfWords ws) (maskWords h.mask) s
    rw [← hA, ht] at hput
    obtain ⟨hbuf, herr, hout, hdram⟩ := hput
    obtain ⟨u, hu, hub, hud, huo⟩ : ∃ u, u = (if h.mask = 0 then t else t.landGranules k a 256) ∧ (u.cluster k).buf = (t.cluster k).buf ∧
        u.dram = t.dram ∧ ((t.cluster k).landErrs = [] → u.out = t.out) := by
      refine ⟨_, rfl, ?_⟩
      split
      · exact ⟨rfl, rfl, fun _ => rfl⟩
      · exact State.landGranules_rest ..
    obtain ⟨ho', hc', hd'⟩ := u.sendPacket_rest (h.back 0x11) []
    have hfin : ((u.sendPacket (h.back 0x11) []).cluster k).buf =
        (s.cluster k).buf.stores ((maskWords h.mask).map fun w => (A + w, (imageOfWords ws).codeWord w)) := by
      rw [State.cluster, hc']
      exact hub.trans hbuf
    refine ⟨u.sendPacket (h.back 0x11) [], ?_, ?_, fun he => ?_, fun w hw => ?_, fun x hx => ?_, hd'.trans (hud.trans hdram)⟩
    · rw [State.exec_wrg_cluster ws hr ho hd rfl rfl ht.symm, hu]
    · rw [ho']
      exact List.mem_append_right _ (List.mem_singleton.2 rfl)
    · rw [ho', huo (herr.trans he), hout]
    · rw [hfin, hA, Nat.mul_div_cancel_left _ (by decide)]
      refine Ram.codeWord_stores_masked (fun hm => ⟨_, List.mem_map_of_mem (mem_maskWords.2 ⟨hw, hm⟩), rfl⟩) fun e he hx => ?_
      obtain ⟨v, hv, rfl⟩ := List.mem_map.1 he
      obtain rfl : v = w := by simpa using hx
      exact ⟨(mem_maskWords.1 hv).2, rfl⟩
    · rw [hfin]
      refine Ram.read1_stores fun e he => ?_
      obtain ⟨v, hv, rfl⟩ := List.mem_map.1 he
      have := hws v hv
      dsimp only
      omega
  · intro places
    have hw := State.writeDevice_words ha hl (imageOfWords ws) _ hws
    generalize hr' : s.dram.stores ((maskWords h.mask).flatMap fun w => (s.writeBases l).map fun b => (b / 8 + w, (imageOfWords ws).codeWord w)) = r at hw
    obtain ⟨ho', hc', hd'⟩ := State.sendPacket_rest { s with dram := r } (h.back 0x11) []
    have hb8 : ∀ b ∈ places, b % 256 = 0 := fun b hb => by
      obtain ⟨c, -, rfl⟩ := List.mem_map.1 hb
      show ((l.stack * 64 + c.1) * 4194304 + c.2) * 256 % 256 = 0
      omega
    refine ⟨_, by rw [State.exec_wrg_stacks ws hr ho hd, hw], ho', hc', fun b hb w hw => ?_, fun x hx => ?_⟩
    · rw [hd', ← hr']
      refine Ram.codeWord_stores_masked (fun hm => ⟨(b / 8 + w, _), List.mem_flatMap.2 ⟨w, mem_maskWords.2 ⟨hw, hm⟩, List.mem_map_of_mem hb⟩, rfl⟩)
        fun e he hx => ?_
      obtain ⟨v, hv, he⟩ := List.mem_flatMap.1 he
      obtain ⟨c, hc, rfl⟩ := List.mem_map.1 he
      have h1 := hb8 b hb
      have h2 := hb8 c hc
      have h3 := hws v hv
      obtain rfl : v = w := by
        dsimp only at hx
        omega
      exact ⟨(mem_maskWords.1 hv).2, rfl⟩
    · rw [hd', ← hr']
      refine Ram.read1_stores fun e he => ?_
      obtain ⟨v, hv, he⟩ := List.mem_flatMap.1 he
      obtain ⟨c, hc, rfl⟩ := List.mem_map.1 he
      have h2 := hb8 c hc
      have h3 := hws v hv
      have h4 := hx c hc
      dsimp only
      omega
  · rw [State.exec_wrg_stacks ws hr ho hd, State.writeDevice_words_nowhere ha hl _ _ hws]

/-- Settles O24: the last router answers. -/
theorem unreachableDiesAreAnswered : Obligations.UnreachableDiesAreAnswered := by
  unfold Obligations.UnreachableDiesAreAnswered
  intro s h ws hr
  refine ⟨fun ho => ?_, fun ho => ?_⟩
  · show execRdg h s = _
    rw [execRdg]
    dsimp only
    rw [if_neg (by rw [ho]; decide), if_pos (by rw [hr]; decide), State.routerReply, ho]
    rfl
  · show execWrg h ws s = _
    rw [execWrg]
    dsimp only
    rw [if_neg (by rw [ho]; decide), if_pos (by rw [hr]; decide), State.routerReply, ho]
    rfl

end Sys2Proof.Machine
end

section
/-! SUPPORT. What counts: the counters below the traces' objects, and the events of a kind. -/

namespace Sys2Proof.Machine

theorem State.counter_count (s : State) (o sub n o' sub' : Nat) (hn : n ≠ 0) : (s.count o sub n).counter o' sub' =
    if objKey o' sub' = objKey o sub then (s.counter o' sub' + n) % 2 ^ 64 else s.counter o' sub' := by
  have hl : (s.count o sub n).localCounts = tabMod 0 s.localCounts (objKey o sub) fun v => (v + n) % 2 ^ 64 := by
    rw [State.count, if_neg hn]
  have hnum : (s.count o sub n).num o' sub' = s.num o' sub' := by
    rw [State.count, if_neg hn]
    rfl
  rw [State.counter, State.counter, hnum, hl, tabMod, tabGet_tabSet]
  split
  next h =>
    rw [h]
    omega
  · rfl

theorem State.counter_count_ne (s : State) {o sub o' sub' : Nat} (n : Nat) (h : objKey o' sub' ≠ objKey o sub) :
    (s.count o sub n).counter o' sub' = s.counter o' sub' := by
  by_cases hn : n = 0
  · rw [hn, State.count_zero]
  · rw [State.counter_count _ _ _ _ _ _ hn, if_neg h]

theorem State.counter_congr {s t : State} {o sub : Nat} (h : t.num o sub = s.num o sub) (hl : t.localCounts = s.localCounts) :
    t.counter o sub = s.counter o sub := by rw [State.counter, State.counter, h, hl]

theorem State.modCore_counter (s : State) (pc : Nat) (f : Core → Core) (o sub : Nat) : (s.modCore pc f).counter o sub = s.counter o sub :=
  State.counter_congr rfl rfl

/-- A counter of an object below those of the event ring, the traces and the cores. -/
structure LowCounter (o sub : Nat) : Prop where
  object : o < 0x8100
  sub : sub < 256

theorem LowCounter.key {o sub : Nat} (h : LowCounter o sub) {o' sub' : Nat} (ho : 0x8100 ≤ o') : objKey o sub ≠ objKey o' sub' := by
  obtain ⟨h1, h2⟩ := h
  unfold objKey
  omega

theorem State.forEach_counter {α : Type} {o sub : Nat} {f : State → α → State} (hf : ∀ s x, (f s x).counter o sub = s.counter o sub)
    (l : List α) (s : State) : (s.forEach l f).counter o sub = s.counter o sub := by
  induction l generalizing s with
  | nil => rfl
  | cons x l ih => exact (ih (f s x)).trans (hf s x)

/-- What an event leaves alone: a value of the state that neither the objects above those of the device, nor what is sent or recorded, change. -/
structure Blind {α : Type} (Φ : State → α) : Prop where
  setNum : ∀ s o k v, 0x8100 ≤ o → Φ (s.setNum o k v) = Φ s
  setBlob : ∀ s o k b, Φ (s.setBlob o k b) = Φ s
  setFilm : ∀ s f v, Φ (s.setFilm f v) = Φ s
  emit : ∀ s x, Φ (s.emit x) = Φ s
  seq : ∀ s n, Φ { s with eventSeq := n } = Φ s
  gap : ∀ s b, Φ { s with eventGap := b } = Φ s

theorem Blind.forEach {α β : Type} {Φ : State → α} {f : State → β → State} (hf : ∀ s x, Φ (f s x) = Φ s) (l : List β) (s : State) :
    Φ (s.forEach l f) = Φ s := by
  induction l generalizing s with
  | nil => rfl
  | cons x l ih => exact (ih (f s x)).trans (hf s x)

section
variable {α : Type} {Φ : State → α} (h : Blind Φ)
include h

theorem Blind.filmTrigger (s : State) (p f cause : Nat) : Φ (s.filmTrigger p f cause) = Φ s := by
  unfold State.filmTrigger
  dsimp only
  split
  · rfl
  · exact (h.setNum _ _ _ _ (by omega)).trans (h.setFilm ..)

theorem Blind.trigger (s : State) (p cause : Nat) : Φ (s.trigger p cause) = Φ s := by
  unfold State.trigger
  split
  · exact (h.setNum _ _ _ _ (by omega)).trans (Blind.forEach (fun t f => h.filmTrigger t p f cause) _ _)
  · rfl

theorem Blind.eventRing (s : State) (kind : Nat) (rcd : List Byte) : Φ (s.eventRing kind rcd) = Φ s := by
  unfold State.eventRing
  extract_lets base ents w full s1 s2 v
  have h1 : Φ s1 = Φ s := (h.setNum _ _ _ _ (by omega)).trans (h.emit ..)
  split
  · rfl
  · split
    · exact (h.gap ..).trans (h.setNum _ _ _ _ (by omega))
    · split
      · exact (h.gap ..).trans h1
      · exact (h.emit ..).trans ((h.gap ..).trans h1)

theorem Blind.raise (s : State) (e : Event) : Φ (s.raise e) = Φ s := by
  unfold State.raise
  extract_lets rcd kept b s1 s2
  have hb : Φ b = Φ s := (h.setNum _ _ _ _ (by omega)).trans (h.setBlob ..)
  have h2 : Φ s2 = Φ s := (h.eventRing ..).trans ((h.seq ..).trans hb)
  split
  · exact h2
  · exact (Blind.forEach (fun t c => h.trigger t _ c) _ _).trans h2

end

theorem State.setFilm_num (s : State) (f : Nat) (v : Film) (o sub : Nat) : (s.setFilm f v).num o sub = s.num o sub := by
  unfold State.setFilm
  split <;> rfl

theorem State.setFilm_localCounts (s : State) (f : Nat) (v : Film) : (s.setFilm f v).localCounts = s.localCounts := by
  unfold State.setFilm
  split <;> rfl

theorem LowCounter.blind_num {o sub : Nat} (h : LowCounter o sub) : Blind fun s => s.num o sub where
  setNum s _ _ v ho := State.num_setNum_ne s v (h.key ho)
  setBlob s _ _ _ := State.setBlob_num ..
  setFilm s f v := s.setFilm_num f v o sub
  emit _ _ := rfl
  seq _ _ := rfl
  gap _ _ := rfl

theorem blind_localCounts : Blind State.localCounts where
  setNum _ _ _ _ _ := rfl
  setBlob _ _ _ _ := rfl
  setFilm s f v := s.setFilm_localCounts f v
  emit _ _ := rfl
  seq _ _ := rfl
  gap _ _ := rfl

section
variable {o sub : Nat} (h : LowCounter o sub)
include h

/-- An event changes no object below those of the event ring. -/
theorem State.raise_num_low (s : State) (e : Event) : (s.raise e).num o sub = s.num o sub := h.blind_num.raise s e

theorem State.raise_counter (s : State) (e : Event) : (s.raise e).counter o sub = s.counter o sub :=
  State.counter_congr (State.raise_num_low h s e) (blind_localCounts.raise s e)

theorem State.account_counter (s : State) (pc u : Nat) : (s.account pc u).counter o sub = s.counter o sub := by
  have step : ∀ (t : State) k n, (t.count (0x8500 + pc) k n).counter o sub = t.counter o sub :=
    fun t k n => t.counter_count_ne n (h.key (by omega))
  unfold State.account
  dsimp only
  rw [State.modCore_counter]
  split
  · rfl
  · exact step _ _ _
  · exact (step _ _ _).trans (step _ _ _)
  · exact (step _ _ _).trans (step _ _ _)
  · split
    · rfl
    · exact (step _ _ _).trans ((step _ _ _).trans (step _ _ _))

theorem State.failStep_counter (s : State) (p : Nat) (f : Failure) : (s.failStep p f).counter o sub = s.counter o sub := by
  have hm : ∀ (t : State) g, (t.modRunning p g).counter o sub = t.counter o sub := fun t g => by
    rw [State.modRunning]
    exact State.counter_congr (State.modPart_num ..) (State.modPart_localCounts ..)
  rw [State.failStep, hm]
  unfold State.stopStep
  split
  · rfl
  · exact State.forEach_counter (fun t c => (State.modCore_counter ..).trans (State.forEach_counter (fun u v => u.account_counter h c v) _ t)) _ _

end

/-- A step told to be the cause of a fault is marked: partitions and clients alone change. -/
theorem State.markBreach_rest (s : State) (p : Nat) : s.markBreach p = { s with parts := (s.markBreach p).parts, clients := (s.markBreach p).clients } := by
  have hf : ∀ (l : List Nat) (t : State), t.forEach l State.flagWaiting = { t with clients := (t.forEach l State.flagWaiting).clients } := fun l => by
    induction l with
    | nil => exact fun t => rfl
    | cons n l ih => exact fun t => ih (t.flagWaiting n)
  unfold State.markBreach
  have := hf ((s.clientsOf p).filter s.inEpilogue) s
  generalize s.forEach ((s.clientsOf p).filter s.inEpilogue) State.flagWaiting = t at this
  rw [this]
  rfl

theorem State.markBreach_sameMemory (s : State) (p : Nat) : SameMemory s (s.markBreach p) := by
  rw [State.markBreach_rest]
  exact ⟨fun _ => ⟨rfl, rfl⟩, fun _ => rfl, rfl⟩

/-- An event that tells a breach is an event raised after the mark, or without it. -/
theorem State.raiseBreach_cases (s : State) (p : Nat) (e : Event) :
    s.raiseBreach p e = s.raise { e with part := some p, breach := false } ∨
      s.raiseBreach p e = (s.markBreach p).raise { e with part := some p, breach := true } := by
  unfold State.raiseBreach
  split
  · exact .inl rfl
  · exact .inr rfl

theorem State.raiseBreach_sameMemory (s : State) (p : Nat) (e : Event) : SameMemory s (s.raiseBreach p e) := by
  rcases s.raiseBreach_cases p e with h | h <;> rw [h]
  · exact (Logged.raise ..).sameMemory
  · exact (s.markBreach_sameMemory p).trans (Logged.raise ..).sameMemory

theorem State.raiseBreach_counted (s : State) (p : Nat) {e : Event} (hk : e.kind < 256) (h9 : e.kind ≠ 9) (hA : e.kind ≠ 0x0A) :
    (s.raiseBreach p e).num 0x9002 e.kind = (s.num 0x9002 e.kind + 1) % 2 ^ 64 := by
  rcases s.raiseBreach_cases p e with h | h <;> rw [h]
  · exact s.raise_counted (e := { e with part := some p, breach := false }) hk h9 hA
  · refine ((s.markBreach p).raise_counted (e := { e with part := some p, breach := true }) hk h9 hA).trans ?_
    rw [State.markBreach_rest]
    rfl

theorem State.raiseBreach_counter {o sub : Nat} (h : LowCounter o sub) (s : State) (p : Nat) (e : Event) :
    (s.raiseBreach p e).counter o sub = s.counter o sub := by
  rcases s.raiseBreach_cases p e with hr | hr <;> rw [hr]
  · exact State.raise_counter h ..
  · refine (State.raise_counter h ..).trans ?_
    rw [State.markBreach_rest]
    rfl

end Sys2Proof.Machine
end

section
/-! SUPPORT. Responses and acknowledgements. -/

namespace Sys2Proof.Machine

theorem findIdx_getElem? {α : Type} {f : α → Bool} {l : List α} {n : Nat} {a : α} (h : findIdx f l = some (n, a)) : l[n]? = some a ∧ f a = true := by
  induction l generalizing n with
  | nil => cases h
  | cons b l ih =>
    rw [findIdx] at h
    split at h
    next hb =>
      cases h
      exact ⟨rfl, hb⟩
    · obtain ⟨⟨m, c⟩, hm, he⟩ := Option.map_eq_some_iff.1 h
      cases he
      exact ih hm

theorem modify_eq_setAt {α : Type} {l : List α} {n : Nat} {a : α} (h : l[n]? = some a) (g : α → α) : l.modify n g = setAt l n (g a) := by
  refine List.ext_getElem? fun i => ?_
  rw [setAt, List.getElem?_modify, List.getElem?_set]
  split
  next e =>
    subst e
    rw [h, if_pos (List.getElem?_eq_some_iff.1 h).1]
    rfl
  · simp

/-- A transfer after one granule, or one acknowledgement of a command, has come for it. -/
def Flight.acked (f : Flight) (cmd : Bool) : Flight :=
  if cmd then { f with acks := f.acks - 1, unacked := f.unacked - 1 } else { f with unacked := f.unacked - 1 }

/-- The flights after one granule of transfer `f` has been taken off. -/
theorem Seqr.ackOne_some {q : Seqr} {u n : Nat} {cmd : Bool} {f : Flight}
    (h : findIdx (fun (f : Flight) => f.unit == u && f.complete.isNone && (if cmd then f.acks != 0 else f.unacked != 0)) q.flights = some (n, f)) :
    q.ackOne u cmd = some { q with flights := setAt q.flights n (f.acked cmd) } := by
  rw [Seqr.ackOne, h]
  dsimp only
  rw [modify_eq_setAt (findIdx_getElem? h).1]
  rfl

theorem Seqr.ackOne_none {q : Seqr} {u : Nat} {cmd : Bool}
    (h : findIdx (fun (f : Flight) => f.unit == u && f.complete.isNone && (if cmd then f.acks != 0 else f.unacked != 0)) q.flights = none) :
    q.ackOne u cmd = none := by rw [Seqr.ackOne, h]

/-- A core whose flights are told anew: nothing but that core changes. -/
theorem State.flights_told (s : State) (pc : Nat) (l : List Flight) {t : State} (ht : t = s.modCore pc fun k => { k with sq := { (s.core pc).sq with flights := l } }) :
    (t.core pc).sq.flights = l ∧ t = { s with cores := t.cores } ∧ ∀ j, j ≠ pc → t.core j = s.core j := by
  subst ht
  refine ⟨by rw [State.core_modCore_same], rfl, fun j hj => ?_⟩
  rw [State.core_modCore, if_neg hj]

/-- Events raised one for each element of a list are counted. -/
theorem State.forEach_counted {α : Type} {o sub : Nat} {f : State → α → State} (hf : ∀ s x, (f s x).num o sub = (s.num o sub + 1) % 2 ^ 64)
    {l : List α} (hl : l ≠ []) (s : State) : (s.forEach l f).num o sub = (s.num o sub + l.length) % 2 ^ 64 := by
  induction l generalizing s with
  | nil => exact absurd rfl hl
  | cons x l ih =>
    cases l with
    | nil => exact hf s x
    | cons y l =>
      refine (ih (List.cons_ne_nil _ _) (f s x)).trans ?_
      rw [hf, Nat.mod_add_mod]
      congr 1
      simp only [List.length_cons]
      omega

theorem SameMemory.forEach {α : Type} {f : State → α → State} (hf : ∀ s x, SameMemory s (f s x)) (l : List α) (s : State) :
    SameMemory s (s.forEach l f) := by
  induction l generalizing s with
  | nil => exact .refl s
  | cons x l ih => exact (hf s x).trans (ih (f s x))

theorem State.count_sameMemory (s : State) (o sub n : Nat) : SameMemory s (s.count o sub n) := by
  unfold State.count
  split
  · exact .refl s
  · exact ⟨fun _ => ⟨rfl, rfl⟩, fun _ => rfl, rfl⟩

theorem length_filter_zipIdx {α : Type} (f : α → Bool) (l : List α) : (l.zipIdx.filter fun c => f c.1).length = (l.filter f).length := by
  have h : l = l.zipIdx.map (·.1) := (List.zipIdx_map_fst 0 l).symm
  conv_rhs => rw [h, List.filter_map, List.length_map]
  rfl

/-- What a word of a response that cannot be corrected leaves: a fault told, and a step that failed by it. -/
def State.faultWord (s : State) (h : TxHeader) (w : Nat) : State :=
  let unit := unitId h.dstDie.toNat h.dstCluster.toNat 0xF 0xF
  let p := h.partition.toNat
  let e := { Event.of 0x01 unit (h.address + 8 * w) with part := some p }
  if decide (h.dstDie.toNat < 16) && (s.running p).isSome then
    (s.raiseBreach p { e with step := s.runningSeq p }).failStep p ⟨3, 0, 0, some unit⟩
  else s.raise e

theorem State.faultWord_cases (s : State) (h : TxHeader) (w : Nat) : ∃ e : Event, e.kind = 1 ∧ (s.faultWord h w = s.raise e ∨
    ∃ f, s.faultWord h w = (s.raiseBreach h.partition.toNat e).failStep h.partition.toNat f) := by
  unfold State.faultWord
  dsimp only
  split
  · exact ⟨_, rfl, .inr ⟨_, rfl⟩⟩
  · exact ⟨_, rfl, .inl rfl⟩

theorem State.faultWord_counted (s : State) (h : TxHeader) (w : Nat) : (s.faultWord h w).num 0x9002 1 = (s.num 0x9002 1 + 1) % 2 ^ 64 := by
  obtain ⟨e, hk, he | ⟨f, he⟩⟩ := s.faultWord_cases h w <;> rw [he]
  · have := s.raise_counted (e := e) (by omega) (by omega) (by omega)
    rwa [hk] at this
  · have := s.raiseBreach_counted h.partition.toNat (e := e) (by omega) (by omega) (by omega)
    rwa [hk, ← State.failStep_num _ h.partition.toNat f] at this

theorem State.faultWord_counter {o sub : Nat} (hl : LowCounter o sub) (s : State) (h : TxHeader) (w : Nat) :
    (s.faultWord h w).counter o sub = s.counter o sub := by
  obtain ⟨e, hk, he | ⟨f, he⟩⟩ := s.faultWord_cases h w <;> rw [he]
  · exact State.raise_counter hl ..
  · rw [State.failStep_counter hl, State.raiseBreach_counter hl]

theorem State.faultWord_sameMemory (s : State) (h : TxHeader) (w : Nat) : SameMemory s (s.faultWord h w) := by
  obtain ⟨e, hk, he | ⟨f, he⟩⟩ := s.faultWord_cases h w <;> rw [he]
  · exact (Logged.raise ..).sameMemory
  · exact (s.raiseBreach_sameMemory ..).trans (State.failStep_sameMemory ..)

/-- A response that no load of its core waits for is checked word by word. -/
theorem State.exec_rdgRsp_checked {s : State} {h : TxHeader} (ws : List CodeWord) (ho : h.opcode = 0x10)
    (hn : 16 ≤ h.dstDie.toNat ∨ (s.tagCore h.dstDie.toNat h.dstCluster.toNat h.tag.toNat).bind (fun pc =>
      ((s.core pc).sq.ackOne 3 false).map fun q => (pc, q)) = none) :
    exec (.rdgRsp h ws) s = .next (((s.count 0x8040 (h.dstDie.toNat + 1)
      ((ws.map eccCheck).filter fun c => decide (c ≠ .clean) && decide (c ≠ .uncorrectable)).length).count 0x8041 (h.dstDie.toNat + 1)
      ((((ws.map eccCheck).zipIdx.filter fun c => decide (c.1 = .uncorrectable)).map (·.2)).length)).forEach
        (((ws.map eccCheck).zipIdx.filter fun c => decide (c.1 = .uncorrectable)).map (·.2)) fun s w => s.faultWord h w) := by
  have hm : (if h.dstDie.toNat < 16 then (s.tagCore h.dstDie.toNat h.dstCluster.toNat h.tag.toNat).bind (fun pc =>
      ((s.core pc).sq.ackOne 3 false).map fun q => (pc, q)) else none) = none := by
    split
    · rcases hn with hn | hn
      · omega
      · exact hn
    · rfl
  show execRdgRsp h ws s = _
  rw [execRdgRsp]
  dsimp only
  rw [if_neg (by rw [ho]; decide), hm]
  rfl

/-- Settles O25: the oldest transfer that waits takes the answer, or each word is checked. -/
theorem answersAreTaken : Obligations.AnswersAreTaken := by
  unfold Obligations.AnswersAreTaken
  intro s h ws d pc? take
  have htag : s.tagCore h.dstDie.toNat h.dstCluster.toNat h.tag.toNat = pc? := rfl
  refine ⟨fun pc n f hd hpc => ⟨fun ho ht => ?_, fun ho ht => ?_, fun ho ht => ?_⟩, fun hn => ?_, fun hn => ?_, fun hn ho => ?_⟩
  · refine ⟨_, ?_, State.flights_told s pc _ rfl⟩
    show execRdgRsp h ws s = _
    rw [execRdgRsp]
    dsimp only
    rw [if_neg (by rw [ho]; decide), if_pos hd, htag, hpc, Option.bind_some, Seqr.ackOne_some ht]
    rfl
  · refine ⟨_, ?_, State.flights_told s pc _ rfl⟩
    show execWrgAck h s = _
    rw [execWrgAck]
    dsimp only
    rw [if_neg (by rw [ho]; simp; omega), htag, hpc]
    dsimp only
    rw [Seqr.ackOne_some ht]
    rfl
  · refine ⟨_, ?_, State.flights_told s pc _ rfl⟩
    show execNcmdAck h s = _
    rw [execNcmdAck]
    dsimp only
    rw [if_neg (by rw [ho]; simp; omega), htag, hpc]
    dsimp only
    rw [Seqr.ackOne_some ht]
    rfl
  · show execWrgAck h s = _
    rw [execWrgAck]
    dsimp only
    split
    · rfl
    next hc =>
      rcases hn with hn | hn | ⟨pc, hn, ht⟩
      · exact absurd (.inr hn) hc
      · rw [htag, hn]
      · rw [htag, hn]
        dsimp only
        rw [Seqr.ackOne_none ht]
  · show execNcmdAck h s = _
    rw [execNcmdAck]
    dsimp only
    split
    · rfl
    next hc =>
      rcases hn with hn | hn | ⟨pc, hn, ht⟩
      · exact absurd (.inr hn) hc
      · rw [htag, hn]
      · rw [htag, hn]
        dsimp only
        rw [Seqr.ackOne_none ht]
  · have hexec := State.exec_rdgRsp_checked (s := s) (h := h) ws ho (by
      rcases hn with hn | hn | ⟨pc, hn, ht⟩
      · exact .inl hn
      · exact .inr (by rw [htag, hn]; rfl)
      · exact .inr (by rw [htag, hn, Option.bind_some, Seqr.ackOne_none ht]; rfl))
    have hlen : ((((ws.map eccCheck).zipIdx.filter fun c => decide (c.1 = .uncorrectable)).map (·.2)).length) =
        (ws.filter fun w => decide (eccCheck w = .uncorrectable)).length := by
      rw [List.length_map, length_filter_zipIdx fun c => decide (c = Check.uncorrectable), List.filter_map, List.length_map]
      rfl
    rw [hexec]
    generalize (((ws.map eccCheck).zipIdx.filter fun c => decide (c.1 = .uncorrectable)).map (·.2)) = ue at hlen ⊢
    refine ⟨fun hc => ?_, ?_⟩
    · have h0 : (ws.filter fun w => decide (eccCheck w = .uncorrectable)) = [] :=
        List.filter_eq_nil_iff.2 fun w hw => by rw [hc w hw]; decide
      have h1 : ((ws.map eccCheck).filter fun c => decide (c ≠ .clean) && decide (c ≠ .uncorrectable)) = [] :=
        List.filter_eq_nil_iff.2 fun c hcm => by
          obtain ⟨w, hw, rfl⟩ := List.mem_map.1 hcm
          rw [hc w hw]
          decide
      rw [h0] at hlen
      obtain rfl : ue = [] := List.length_eq_zero_iff.1 hlen
      rw [h1, List.length_nil, State.count_zero, List.length_nil, State.count_zero]
      rfl
    · intro bad hbad
      have hlow : LowCounter 0x8041 (d + 1) := ⟨by decide, by show h.dstDie.toNat + 1 < 256; omega⟩
      have hkey : objKey 0x8041 (d + 1) ≠ objKey 0x8040 (d + 1) := by
        unfold objKey
        omega
      have hne : ue ≠ [] := fun e => hbad (hlen.symm.trans (by rw [e]; rfl))
      refine ⟨_, rfl, ?_, ?_, ?_⟩
      · rw [State.forEach_counted (fun t w => t.faultWord_counted h w) hne, hlen]
        congr 2
        exact (State.count_num ..).trans (State.count_num ..)
      · rw [State.forEach_counter (fun t w => State.faultWord_counter hlow t h w), hlen, State.counter_count _ _ _ _ _ _ hbad, if_pos rfl,
          State.counter_count_ne _ _ hkey]
      · exact ((State.count_sameMemory ..).trans (State.count_sameMemory ..)).trans (.forEach (fun t w => t.faultWord_sameMemory h w) _ _)

end Sys2Proof.Machine
end

section
/-! SUPPORT. The commands of a beside-memory unit: how one is held, and how the front one starts. -/

namespace Sys2Proof.Machine

theorem State.cmdsOf_setCmds (s : State) (k p : Nat) (l : List NmuCmd) : (s.setCmds k p l).cmdsOf k p = l := by
  have h : (s.setCmds k p l).stack k = { s.stack k with cmds := tabSet [] (s.stack k).cmds p l } := tabGet_tabSet_same ..
  rw [State.cmdsOf, h]
  exact tabGet_tabSet_same ..

theorem State.badKind_congr {s t : State} (hp : ∀ a, t.logicalPlace a = s.logicalPlace a) (hr : t.inRegions = s.inRegions)
    (hs : t.spreadRows = s.spreadRows) (p k : Nat) (c : NmuCmd) : t.badKind p k c = s.badKind p k c := by
  unfold State.badKind
  simp only [hp, hr, hs]

theorem State.heldStatus_congr {s t : State} (hb : ∀ p k c, t.badKind p k c = s.badKind p k c) (ho : t.returnOk = s.returnOk)
    (hn : t.num = s.num) (hr : t.running = s.running) (p k : Nat) (c : NmuCmd) : t.heldStatus p k c = s.heldStatus p k c := by
  unfold State.heldStatus State.malformed
  simp only [hb, ho, hn, hr]

theorem State.sendPacket_eq (s : State) (h : TxHeader) (ws : List CodeWord) :
    ∃ l, s.sendPacket h ws = { s with links := l, out := s.out ++ [.packet h ws] } := by
  unfold State.sendPacket
  dsimp only
  split <;> exact ⟨_, rfl⟩

theorem State.heldStatus_sent {s t : State} {l : Tab LinkSt} {o : List Output} (ht : t = { s with links := l, out := o }) (p k : Nat) (c : NmuCmd) :
    t.heldStatus p k c = s.heldStatus p k c := by
  have hp : ∀ a, t.logicalPlace a = s.logicalPlace a := fun a => by
    rw [ht]
    rfl
  have hr : t.inRegions = s.inRegions := by
    rw [ht]
    rfl
  have hs : t.spreadRows = s.spreadRows := by
    rw [ht]
    rfl
  have ho : t.returnOk = s.returnOk := by
    rw [ht]
    rfl
  have hn : t.num = s.num := by
    rw [ht]
    rfl
  have hx : t.running = s.running := by
    rw [ht]
    rfl
  exact State.heldStatus_congr (State.badKind_congr hp hr hs) ho hn hx p k c

theorem State.sendPacket_cmds (s : State) (h : TxHeader) (ws : List CodeWord) (k p : Nat) :
    (s.sendPacket h ws).cmdsOf k p = s.cmdsOf k p ∧ (∀ t, (s.sendPacket h ws).newCmd k p t = s.newCmd k p t) ∧
      ∀ c, (s.sendPacket h ws).heldStatus p k c = s.heldStatus p k c := by
  obtain ⟨l, e⟩ := s.sendPacket_eq h ws
  refine ⟨by rw [e]; rfl, fun t => by rw [e]; rfl, fun c => State.heldStatus_sent e p k c⟩

/-- The command that one granule begins. -/
def State.oneGranule (s : State) (k : Nat) (h : TxHeader) (g : List Byte) : NmuCmd := { s.newCmd k h.partition.toNat h with granules := [g] }

/-- A command whose one granule has come joins the end of its partition's commands, when each before it is whole. -/
theorem State.nmuArrive_whole {s : State} {k : Nat} {h : TxHeader} {g : List Byte} (hheld : ∀ x ∈ s.cmdsOf k h.partition.toNat, x.held = true)
    (hroom : ((s.cmdsOf k h.partition.toNat).filter fun x => !x.ended).length < 16)
    (hone : h.granule.toNat / 2 = 1 ∨ (s.oneGranule k h g).count ≤ 1) :
    s.nmuArrive k h g false true = s.setCmds k h.partition.toNat (s.cmdsOf k h.partition.toNat ++
      [{ s.oneGranule k h g with held := true, status := s.heldStatus h.partition.toNat k (s.oneGranule k h g) }]) := by
  have hnone : ∀ {f : NmuCmd → Bool} {l : List NmuCmd}, (∀ x ∈ l, f x = false) → findIdx f l = none := fun {f l} hl => by
    induction l with
    | nil => rfl
    | cons x l ih =>
      rw [findIdx, if_neg (by rw [hl x List.mem_cons_self]; decide), ih fun y hy => hl y (List.mem_cons_of_mem _ hy)]
      rfl
  have hdone : (decide (h.granule.toNat / 2 = 1) || decide ((s.oneGranule k h g).count ≤ 1)) = true := by simpa using hone
  unfold State.nmuArrive
  extract_lets p all final same c0 c st d done s1 e
  have hst : st = 0 := (if_neg (by decide)).trans (if_neg (Nat.not_le.2 hroom))
  have hd : d = s.oneGranule k h g := by
    simp only [d]
    rw [hst]
    rfl
  have he : e = { s.oneGranule k h g with held := true, status := s.heldStatus h.partition.toNat k (s.oneGranule k h g) } := by
    simp only [e]
    rw [hd]
  have hdone : done = true := by
    simp only [done]
    rw [hd]
    exact hdone
  rw [hnone fun x hx => by simp [same, hheld x hx]]
  dsimp only
  rw [if_neg (by rw [hst]; decide), if_pos hdone, he]
  rfl

/-- The front command of the kind asked for starts, with what its work gives. -/
theorem State.startCmd_front {s : State} {k p n : Nat} {c : NmuCmd} (hf : s.front k p = some (n, c)) (hh : c.held = true)
    (hr : c.running = false) (h0 : c.status = 0) (work : State → NmuCmd → State × Work) {u : State × Work}
    (hu : work (s.traceCmd p k 0x10 c.tag c.kind) c = u) :
    ∃ c', s.startCmd k p c.kind work = u.1.setCmds k p (setAt (u.1.cmdsOf k p) n c') ∧ c'.running = true ∧ c'.partials = u.2.parts ∧
      (c'.status, c'.faultPc, c'.faultIndex) = u.2.fault.getD (0, c.faultPc, c.faultIndex) := by
  obtain ⟨v, w⟩ := u
  unfold State.startCmd
  rw [hf]
  dsimp only
  rw [if_neg (by simp [hh, hr, h0]), hu]
  refine ⟨_, rfl, ?_⟩
  dsimp only
  split
  next st pc i he => exact ⟨rfl, rfl, by rw [he]; rfl⟩
  next he => exact ⟨rfl, rfl, by rw [he, h0]; rfl⟩

theorem checkFlit_clean {ws : List CodeWord} (h : ∀ w ∈ ws, eccCheck w = .clean) : (checkFlit ws).2 = [] := by
  unfold checkFlit
  dsimp only
  rw [List.filterMap_map, List.filterMap_eq_nil_iff]
  intro x hx
  have hw : x.1 ∈ ws := (List.zipIdx_map_fst 0 ws) ▸ List.mem_map_of_mem hx
  simp [h x.1 hw]

/-- A sound command granule is acknowledged, and taken as it came. -/
theorem State.exec_ncmd_sound {s : State} {h : TxHeader} {ws : List CodeWord} (ho : h.opcode = 0x20) (hlo : mDie 0 ≤ h.dstDie.toNat)
    (hhi : h.dstDie.toNat < xDie 0) (hr : s.reach h.srcDie.toNat h.dstDie.toNat = true) (hws : ∀ w ∈ ws, eccCheck w = .clean) :
    exec (.ncmd h ws) s = .next ((s.sendPacket (h.back 0x21) []).nmuArrive (h.dstDie.toNat - mDie 0) h (wordBytes (checkFlit ws).1) false true) := by
  have hbad : (checkFlit ws).2 = [] := checkFlit_clean hws
  have hce : (ws.filter fun w => decide (eccCheck w ≠ .clean) && decide (eccCheck w ≠ .uncorrectable)) = [] :=
    List.filter_eq_nil_iff.2 fun w hw => by rw [hws w hw]; decide
  show execNcmd h ws s = _
  rw [execNcmd]
  dsimp only
  rw [if_neg (by rw [ho]; simp; omega), if_neg (by rw [hr]; decide), hbad, hce, List.length_nil, State.count_zero, List.length_nil, State.count_zero]
  rfl

/-- Settles O26: the command joins the end; the front one starts with what its work gives. -/
theorem nmuCommandsRun : Obligations.NmuCommandsRun := by
  unfold Obligations.NmuCommandsRun
  refine fun s => ⟨fun h ws => ?_, fun stack p n c => ?_⟩
  · intro k p c ho hlo hhi hr hws hone hheld hroom
    obtain ⟨l, hl⟩ := s.sendPacket_eq (h.back 0x21) []
    obtain ⟨hcmds, hnew, hstat⟩ := s.sendPacket_cmds (h.back 0x21) [] k p
    have hgran : (s.sendPacket (h.back 0x21) []).oneGranule k h (wordBytes (checkFlit ws).1) = s.oneGranule k h (wordBytes (checkFlit ws).1) := by
      rw [State.oneGranule, hnew]
      rfl
    have harr := State.nmuArrive_whole (s := s.sendPacket (h.back 0x21) []) (k := k) (h := h) (g := wordBytes (checkFlit ws).1)
    rw [hcmds, hgran, hstat] at harr
    have harr := harr hheld hroom hone
    refine ⟨_, State.exec_ncmd_sound ho hlo hhi hr hws, ?_, ?_⟩
    · rw [harr, hl]
      rfl
    · rw [harr, State.cmdsOf_setCmds]
      rfl
  · intro k v started hf hh hr h0
    have hstart : ∀ work : State → NmuCmd → State × Work, ∃ t, Host.Outcome.next (s.startCmd k p.toNat c.kind work) =
        (.next t : Host.Outcome State Fault Refusal) ∧ started (work v c) t := fun work => by
      obtain ⟨c', he, hc⟩ := State.startCmd_front hf hh hr h0 work rfl
      exact ⟨_, rfl, by rw [he]; rfl, c', by rw [he, State.cmdsOf_setCmds], hc⟩
    refine ⟨fun hk => ?_, fun hk => ?_, fun hk => ?_, fun hk => ?_⟩ <;> rw [hk] at hstart <;> exact hstart _

end Sys2Proof.Machine
end

section
/-! SUPPORT. What a filmstrip's record changes, a step of which nothing is due, and bytes that land in a sound buffer. -/

namespace Sys2Proof.Machine

/-- An object that is none of a trace's own. -/
def Untraced (o sub : Nat) : Prop := (o < 0x8100 ∨ 0x8110 ≤ o) ∧ sub < 256

theorem Untraced.key {o sub : Nat} (h : Untraced o sub) {p k : Nat} (hp : p < 16) (hk : k < 256) : objKey o sub ≠ objKey (0x8100 + p) k := by
  obtain ⟨h1, h2⟩ := h
  unfold objKey
  omega

/-- `t` follows `s` by records of filmstrips alone. -/
structure Filmed (s t : State) : Prop where
  cmds : ∀ k p, t.cmdsOf k p = s.cmdsOf k p
  num : ∀ o sub, Untraced o sub → t.num o sub = s.num o sub
  rest : t = { s with dict := t.dict, cores := t.cores, hbm := t.hbm }

theorem Filmed.refl (s : State) : Filmed s s := ⟨fun _ _ => rfl, fun _ _ _ => rfl, rfl⟩

theorem Filmed.trans {s t u : State} (h : Filmed s t) (g : Filmed t u) : Filmed s u where
  cmds k p := (g.cmds k p).trans (h.cmds k p)
  num o sub hu := (g.num o sub hu).trans (h.num o sub hu)
  rest := by
    have hg := g.rest
    rw [h.rest] at hg
    exact hg

theorem Filmed.setFilm (s : State) (f : Nat) (v : Film) : Filmed s (s.setFilm f v) := by
  unfold State.setFilm
  split
  · exact ⟨fun _ _ => rfl, fun _ _ _ => rfl, rfl⟩
  · refine ⟨fun k p => ?_, fun _ _ _ => rfl, rfl⟩
    rw [State.cmdsOf, State.cmdsOf, State.stack, State.modStack, State.setStack, tabGet_tabSet]
    split
    next h => rw [h]
    · rfl

theorem Filmed.setNum (s : State) {p k : Nat} (v : Nat) (hp : p < 16) (hk : k < 256) : Filmed s (s.setNum (0x8100 + p) k v) :=
  ⟨fun _ _ => rfl, fun _ _ hu => State.num_setNum_ne s v (hu.key hp hk), rfl⟩

theorem Filmed.traceSettle (s : State) {p : Nat} (hp : p < 16) : Filmed s (s.traceSettle p) := by
  unfold State.traceSettle
  dsimp only
  split
  · exact .refl s
  · split
    · exact .setNum s _ hp (by decide)
    · split
      · exact .setNum s _ hp (by decide)
      · exact .refl s

theorem Filmed.filmPut (s : State) {p : Nat} (hp : p < 16) (f : Nat) (w : BitVec 128) : Filmed s (s.filmPut p f w) := by
  unfold State.filmPut
  dsimp only
  split
  · exact (Filmed.setFilm ..).trans (.setNum _ _ hp (by decide))
  · exact (Filmed.setFilm ..).trans (.traceSettle _ hp)
  · exact .refl s

theorem State.filmPart_lt {s : State} {f p : Nat} (h : s.filmPart f = some p) : p < 16 := by
  unfold State.filmPart at h
  split at h
  · exact List.mem_range.1 (List.mem_of_find?_eq_some h)
  · dsimp only at h
    split at h
    next hp => exact Option.some.inj h ▸ hp
    · cases h

theorem Filmed.trace (s : State) (f ts kind unit payload : Nat) : Filmed s (s.trace f ts kind unit payload) := by
  unfold State.trace State.traceAt
  split
  · exact .refl s
  next p hp =>
    split
    · exact .filmPut s (State.filmPart_lt hp) ..
    · exact .refl s

theorem Filmed.traceCmd (s : State) (p k kind tag x : Nat) : Filmed s (s.traceCmd p k kind tag x) := by
  unfold State.traceCmd
  split
  · exact .trace ..
  · exact .refl s

/-! ### A step of which nothing is due -/

theorem State.settle_undue {s : State} {p : Nat}
    (h : ∀ x, s.running p = some x → x.fail = none ∧ x.replayReq = false ∧ x.rollReq = false ∧ x.atEnd = false) : s.settle p = s := by
  unfold State.settle
  split
  · rfl
  next x hx =>
    obtain ⟨h1, h2, h3, h4⟩ := h x hx
    dsimp only
    rw [if_neg (by simp [h1, h2, h3]), if_neg (by simp [h4])]

theorem State.settleCut_none {s : State} {p : Nat} (h : (s.part p).stop = none) : s.settleCut p = s := by
  unfold State.settleCut
  rw [h]

theorem State.running_modRunning_inv {s : State} {p : Nat} {z : Step} {g : Step → Step} (hg : ∀ x, (g x).stage = x.stage)
    (h : (s.modRunning p g).running p = some z) : ∃ x, s.running p = some x ∧ z = g x := by
  cases hs : s.running p with
  | some x =>
    rw [State.running_modRunning hs hg] at h
    exact ⟨x, rfl, (Option.some.inj h).symm⟩
  | none =>
    have hn : ∀ x ∈ (s.part p).queue ++ (s.part p).backfill, ¬ x.stage = .running := fun x hx => by
      have := List.find?_eq_none.1 (show ((s.part p).queue ++ (s.part p).backfill).find? (fun x => decide (x.stage = .running)) = none from hs) x hx
      simpa using this
    rw [State.running, State.modRunning, State.part_modPart_same, Part.running, Part.steps, Part.mapSteps] at h
    dsimp only at h
    rw [← List.map_append] at h
    obtain ⟨x, hx, hxz⟩ := List.mem_map.1 (List.mem_of_find?_eq_some h)
    have hr : z.stage = .running := by simpa using List.find?_some h
    rw [if_neg (by simpa using hn x hx)] at hxz
    exact absurd (hxz ▸ hr) (hn x hx)

/-! ### Bytes that land in a cluster's buffer -/

/-- Nothing but the clusters has changed, and the landing records of cluster `k` are those they were. -/
def OnlyClusters (k : Nat) (s t : State) : Prop := t = { s with clusters := t.clusters } ∧ (t.cluster k).landErrs = (s.cluster k).landErrs

theorem OnlyClusters.trans {k : Nat} {s t u : State} (h : OnlyClusters k s t) (g : OnlyClusters k t u) : OnlyClusters k s u := by
  obtain ⟨h1, h2⟩ := h
  obtain ⟨g1, g2⟩ := g
  rw [h1] at g1
  exact ⟨g1, g2.trans h2⟩

theorem OnlyClusters.modCluster (s : State) (k : Nat) {f : Cluster → Cluster} (hf : ∀ c, (f c).landErrs = c.landErrs) :
    OnlyClusters k s (s.modCluster k f) := ⟨rfl, by rw [State.cluster_modCluster, if_pos rfl, hf]⟩

/-- Bytes put in the sound buffer of a cluster, with no landing counter of it in error: nothing else changes but landing counters. -/
theorem State.putCluster_lands {s : State} {k : Nat} {img : Ram} (hi : img.Sound) (hs : (s.cluster k).buf.Sound) (he : (s.cluster k).landErrs = [])
    (b a n : Nat) : HoldsRows (s.cluster k).buf ((s.putCluster true k img b a n).cluster k).buf a 0 1 (fun _ => img.readRaw b n) ∧
      s.putCluster true k img b a n = { s with clusters := (s.putCluster true k img b a n).clusters } := by
  have hp : clusterOfPhys (9 * k) = k := by unfold clusterOfPhys; omega
  have hl : ∀ t : State, t.localRam (9 * k) 1 = (t.cluster k).buf := fun t => by rw [State.localRam, hp]
  have hr := (State.copyLocal_sound (s := s) (pc := 9 * k) (sp := 1) hi (by rw [hl]; exact hs) b a n).1
  rw [hl, hl] at hr
  have hc : OnlyClusters k s (s.copyLocal (9 * k) 1 img b a n) := by
    unfold State.copyLocal
    rw [State.merging_sound (by rw [hl]; exact hs)]
    have hset : OnlyClusters k s (s.setLocalRam (9 * k) 1 (Ram.copy img (s.localRam (9 * k) 1) b a n)) := by
      rw [State.setLocalRam, hp]
      exact .modCluster s k fun _ => rfl
    have hnote : ∀ t : State, OnlyClusters k t (t.noteArrivals (9 * k) 1 a n) := fun t => by
      unfold State.noteArrivals
      dsimp only
      split
      · exact ⟨rfl, rfl⟩
      · rw [State.setArrived, hp]
        exact .modCluster t k fun _ => rfl
    exact hset.trans (hnote _)
  have hland : ∀ t : State, (t.cluster k).landErrs = [] → OnlyClusters k t (t.landGranules k a n) := fun t ht => by
    unfold State.landGranules
    extract_lets gs hits s1
    have h1 : s1 = t := if_pos (by rw [ht]; rfl)
    rw [h1]
    exact .modCluster t k fun _ => rfl
  rw [State.putCluster, if_pos rfl, (State.landGranules_rest ..).1]
  exact ⟨hr, (hc.trans (hland _ (hc.2.trans he))).1⟩

end Sys2Proof.Machine
end

section
/-! SUPPORT. The end of a command of a beside-memory unit. -/

namespace Sys2Proof.Machine

theorem NmuCmd.length_statusGranule (c : NmuCmd) (k : Nat) (m l : List Nat) : (c.statusGranule k m l).length = 256 := by
  simp [NmuCmd.statusGranule, leBytes_length, slice_length]

theorem NmuCmd.recLen_pos (c : NmuCmd) : 1 ≤ c.recLen := by
  unfold NmuCmd.recLen
  split <;> omega

theorem Ram.readRaw_take (r : Ram) {a n k : Nat} (h : k ≤ n) : (r.readRaw a n).take k = r.readRaw a k := by
  have := r.readRaw_drop_take a n 0 k (by omega)
  rwa [List.drop_zero, Nat.add_zero] at this

theorem Ram.sound_writeRaw_empty (a : Nat) (d : List Byte) : (Ram.empty.writeRaw a d).Sound := fun w => by
  rw [Ram.mask_writeRaw, Ram.mask_empty]

/-- A record that starts with a granule's bytes. -/
theorem HoldsRows.granule {r r' : Ram} {base n : Nat} {g d : List Byte} (hg : g.length = 256) (hn : (g ++ d).length = n)
    (h : HoldsRows r r' base 0 1 fun _ => (Ram.empty.writeRaw 0 (g ++ d)).readRaw 0 n) : r'.readRaw base 256 = g := by
  obtain ⟨hrow, -⟩ := h
  have hd : (Ram.empty.writeRaw 0 (g ++ d)).readRaw 0 n = g ++ d := by
    rw [← hn]
    exact Ram.readRaw_writeRaw_same ..
  have h0 := hrow 0 Nat.one_pos
  rw [hd, hn, Nat.zero_mul, Nat.add_zero] at h0
  rw [← Ram.readRaw_take r' (n := n) (by rw [← hn, List.length_append]; omega), h0]
  exact List.take_left' hg

/-- The record of a command that ends without a fault lands at its place. -/
theorem State.nmuRecord_lands {s : State} {p k : Nat} {c : NmuCmd} (h0 : c.status = 0) (hret : s.returnOk p c = true)
    (hreach : s.reach (mDie k) c.retDie = true) (hs : (s.cluster (4 * c.retDie + c.retCluster)).buf.Sound)
    (he : (s.cluster (4 * c.retDie + c.retCluster)).landErrs = []) (m l : List Nat) (data : List Byte) :
    ((s.nmuRecord p k c m l data).cluster (4 * c.retDie + c.retCluster)).buf.readRaw (256 * c.recBase k) 256 = c.statusGranule k m l ∧
      s.nmuRecord p k c m l data = { s with clusters := (s.nmuRecord p k c m l data).clusters } := by
  simp only [State.reach, Bool.and_eq_true, decide_eq_true_eq, Bool.not_eq_true'] at hreach
  obtain ⟨⟨⟨⟨hd, hm⟩, hcd⟩, hcm⟩, hlost⟩ := hreach
  have hlen := c.recLen_pos
  unfold State.nmuRecord
  extract_lets d gone n ml b
  have hgo : (!s.returnOk p c || decide (2 ≤ s.dieState d) || s.cutOff d || (!gone && s.routeLost (mDie k) d)) = false := by
    simp [d, hret, hcd, hlost, hd]
  rw [if_neg (by rw [hgo]; decide)]
  have hml : ml = (m, l) := if_pos h0
  have hb : b = c.statusGranule k m l ++ slice (if c.status = 0 then data else []) 0 (n - 256) := by
    simp only [b, hml]
  obtain ⟨hr, hrest⟩ := State.putCluster_lands (s := s) (k := 4 * d + c.retCluster) (img := Ram.empty.writeRaw 0 b) (Ram.sound_writeRaw_empty 0 b) hs he
    0 (256 * c.recBase k) n
  rw [hb] at hr ⊢
  exact ⟨hr.granule (c.length_statusGranule ..) (by rw [List.length_append, slice_length, c.length_statusGranule]; show 256 + (256 * c.recLen - 256) = 256 * c.recLen; omega),
    by rw [← hb]; exact hrest⟩

theorem State.retryReduces_none {s : State} {p : Nat} (h : s.coll.insts = []) : s.retryReduces p = s := by
  unfold State.retryReduces
  rw [h]
  rfl

theorem NmuCmd.nmuClosed_undue {s : State} {p : Nat} (c : NmuCmd)
    (h : ∀ x, s.running p = some x → x.fail = none ∧ x.replayReq = false ∧ x.rollReq = false ∧ x.atEnd = false) :
    ∀ x, (s.nmuClosed p c).running p = some x → x.fail = none ∧ x.replayReq = false ∧ x.rollReq = false ∧ x.atEnd = false := fun x hx => by
  obtain ⟨y, hy, rfl⟩ := State.running_modRunning_inv (fun x => by split <;> rfl) hx
  have := h y hy
  split <;> exact this

/-- Settles O27: the command leaves the list, is counted, and its record lands; nothing else is due. -/
theorem nmuCommandEnds : Obligations.NmuCommandEnds := by
  unfold Obligations.NmuCommandEnds
  intro s stack p n c k heads hf hh hr h0 hcoll hret hreach hinsts hstop hx hsound herr
  have hk : k < 24 := stack.isLt
  generalize hs1 : s.setCmds k p.toNat (dropAt (s.cmdsOf k p.toNat) n) = s1
  have hfilm := Filmed.traceCmd s1 p.toNat k 0x11 c.tag c.status
  generalize hs2 : s1.traceCmd p.toNat k 0x11 c.tag c.status = s2 at hfilm
  obtain ⟨hcmds, hnum, hrest⟩ := hfilm
  have h1num : ∀ o sub, s1.num o sub = s.num o sub := fun o sub => by
    rw [← hs1]
    rfl
  generalize hs3 : s2.bump 0x5A03 (sub1 k) 1 = s3
  have hnum3 : ∀ o sub, Untraced o sub → o ≠ 0x5A03 → s3.num o sub = s.num o sub := fun o sub hu ho => by
    have hne : objKey o sub ≠ objKey 0x5A03 (sub1 k) := by
      have := hu.2
      unfold objKey sub1
      omega
    rw [← hs3, State.bump, State.num_setNum_ne _ _ hne, hnum o sub hu, h1num]
  have hcount : s3.num 0x5A03 (k + 1) = (s.num 0x5A03 (k + 1) + 1) % 2 ^ 64 := by
    rw [← hs3, State.bump, sub1, State.num_setNum_same, hnum _ _ ⟨.inl (by decide), by omega⟩, h1num]
  have hcmds3 : s3.cmdsOf k p.toNat = dropAt (s.cmdsOf k p.toNat) n := by
    rw [← hs3]
    refine (hcmds k p.toNat).trans ?_
    rw [← hs1, State.cmdsOf_setCmds]
  have hrest3 : s3 = { s with dict := s3.dict, cores := s3.cores, hbm := s3.hbm } := by
    rw [← hs3, hrest, ← hs1]
    rfl
  have hret3 : s3.returnOk p.toNat c = true := by
    rw [State.returnOk] at hret ⊢
    rw [hnum3 _ _ ⟨.inl (by have := p.isLt; omega), by decide⟩ (by have := p.isLt; omega)]
    exact hret
  have hreach3 : s3.reach (mDie k) c.retDie = true := by
    have hd : c.retDie < 16 := by
      rw [State.returnOk] at hret
      simp only [Bool.and_eq_true, decide_eq_true_eq] at hret
      exact hret.1.1.1
    have hstate : ∀ d, d < 200 → s3.dieState d = s.dieState d := fun d hd => hnum3 _ _ ⟨.inr (by decide), by omega⟩ (by decide)
    have hcut : ∀ d, s3.cutOff d = s.cutOff d := fun d => by
      rw [hrest3]
      rfl
    have hlost : ∀ d e, s3.routeLost d e = s.routeLost d e := fun d e => by
      rw [hrest3]
      rfl
    rw [State.reach] at hreach ⊢
    rw [hstate c.retDie (by omega), hstate (mDie k) (by unfold mDie; omega), hcut, hcut, hlost]
    exact hreach
  have hbuf3 : ∀ j, s3.cluster j = s.cluster j := fun j => by
    rw [hrest3]
    rfl
  have hland := State.nmuRecord_lands (s := s3) (k := k) h0 hret3 hreach3 (by rw [hbuf3]; exact hsound) (by rw [hbuf3]; exact herr)
    (heads.map fun h => h.getD 0 0) (heads.map fun h => h.getD 1 0) (if c.kind = 1 then decodeData heads else if c.kind = 2 then c.statsData else [])
  generalize hs4 : s3.nmuRecord p.toNat k c (heads.map fun h => h.getD 0 0) (heads.map fun h => h.getD 1 0)
    (if c.kind = 1 then decodeData heads else if c.kind = 2 then c.statsData else []) = s4 at hland
  obtain ⟨hbuf, hrest4⟩ := hland
  have hparts4 : s4.parts = s.parts := by
    rw [hrest4, hrest3]
  have hundue := c.nmuClosed_undue (s := s4) (p := p.toNat) fun x hr => hx x ((State.running_congr hparts4 _).symm.trans hr)
  have hcoll5 : (s4.nmuClosed p.toNat c).coll.insts = [] := by
    rw [State.nmuClosed]
    show s4.coll.insts = []
    rw [hrest4, hrest3]
    exact hinsts
  have hstop5 : ((s4.nmuClosed p.toNat c).part p.toNat).stop = none := by
    rw [State.nmuClosed, State.modRunning, State.part_modPart_same, Part.mapSteps]
    show (s4.part p.toNat).stop = none
    rw [State.part, hparts4]
    exact hstop
  refine ⟨s4.nmuClosed p.toNat c, ?_, ?_, ?_, ?_, ?_⟩
  · show execNmuCommandEnd stack p s = _
    rw [execNmuCommandEnd]
    dsimp only
    rw [hf]
    dsimp only
    rw [if_neg (by simp [hh, hr]), hs1, hs2, if_pos h0, hs3, if_neg (by simp [hr]), hcoll]
    dsimp only
    rw [hs4, State.cmdFailStep, if_neg (by simp [h0]), State.retryReduces_none hcoll5, State.settle_undue hundue, State.settleCut_none hstop5]
  · refine Eq.trans ?_ hcmds3
    rw [State.nmuClosed, hrest4]
    rfl
  · refine Eq.trans ?_ hcount
    rw [State.nmuClosed, hrest4]
    rfl
  · exact hbuf
  · rw [State.nmuClosed]
    show s4.dram = s.dram
    rw [hrest4, hrest3]

end Sys2Proof.Machine
end

section
/-! SUPPORT. What reads of the stacks leave: the faults they see are counted, told as events, and may retire a channel. -/

namespace Sys2Proof.Machine

/-- An object that neither an event nor a retired channel changes. -/
structure Unreported (o sub : Nat) : Prop where
  event : o < 0x8100 ∨ (o ≠ 0x9000 ∧ o ≠ 0x9002 ∧ sub ≠ 9 ∧ sub ≠ 0x0A)
  kept : o ≠ 0x5500 ∧ o ≠ 0x5510 ∧ o ≠ 0x5520
  sub : sub < 256

/-- `t` follows `s` by faults that are counted and told. -/
structure Reported (s t : State) : Prop where
  calm : t.calm = s.calm
  num : ∀ o sub, Unreported o sub → t.num o sub = s.num o sub
  out : SaysMore s t

theorem Reported.refl (s : State) : Reported s s := ⟨rfl, fun _ _ _ => rfl, .refl s⟩

theorem Reported.trans {s t u : State} (h : Reported s t) (g : Reported t u) : Reported s u :=
  ⟨g.calm.trans h.calm, fun o sub hu => (g.num o sub hu).trans (h.num o sub hu), fun x hx => g.out x (h.out x hx)⟩

theorem Reported.forEach {α : Type} {f : State → α → State} (hf : ∀ s x, Reported s (f s x)) (l : List α) (s : State) : Reported s (s.forEach l f) := by
  induction l generalizing s with
  | nil => exact .refl s
  | cons x l ih => exact (hf s x).trans (ih (f s x))

theorem Reported.count (s : State) (o sub n : Nat) : Reported s (s.count o sub n) := by
  refine ⟨State.count_calm .., fun _ _ _ => State.count_num .., fun x hx => ?_⟩
  unfold State.count
  split <;> exact hx

theorem Reported.setStack (s : State) (k : Nat) (m : Stack) : Reported s (s.setStack k m) := ⟨rfl, fun _ _ _ => rfl, fun _ h => h⟩

theorem Reported.setNum (s : State) {o k : Nat} (v : Nat) (h : ∀ o' sub', Unreported o' sub' → objKey o' sub' ≠ objKey o k) : Reported s (s.setNum o k v) :=
  ⟨rfl, fun _ _ hu => State.num_setNum_ne s v (h _ _ hu), fun _ h => h⟩

theorem SaysMore.trans {s t u : State} (h : SaysMore s t) (g : SaysMore t u) : SaysMore s u := fun x hx => g x (h x hx)

theorem SaysMore.emit (s : State) (x : Output) : SaysMore s (s.emit x) := fun _ h => List.mem_append_left _ h

theorem SaysMore.filmTrigger (s : State) (p f cause : Nat) : SaysMore s (s.filmTrigger p f cause) := by
  unfold State.filmTrigger
  dsimp only
  split
  · exact .refl s
  · unfold State.setFilm
    split <;> exact fun _ h => h

theorem SaysMore.trigger (s : State) (p cause : Nat) : SaysMore s (s.trigger p cause) := by
  unfold State.trigger
  split
  · exact (SaysMore.forEach (fun t f => .filmTrigger t p f cause) _ s).trans fun _ h => h
  · exact .refl s

theorem SaysMore.eventRing (s : State) (kind : Nat) (rcd : List Byte) : SaysMore s (s.eventRing kind rcd) := by
  unfold State.eventRing
  dsimp only
  split
  · exact .refl s
  · split
    · exact fun _ h => h
    · split
      · exact fun x h => List.mem_append_left _ h
      · exact fun x h => List.mem_append_left _ (List.mem_append_left _ h)

theorem State.eventSeq_out (s : State) (n : Nat) : ({ s with eventSeq := n } : State).out = s.out := rfl

theorem SaysMore.raise (s : State) (e : Event) : SaysMore s (s.raise e) := by
  unfold State.raise
  extract_lets rcd kept b s1 s2
  have hb : b.out = s.out := (State.bump_out ..).trans (State.setBlob_out ..)
  have h1 : s1.out = s.out := (State.eventSeq_out ..).trans hb
  clear_value s1
  have h2 : SaysMore s s2 := SaysMore.trans (fun x hx => by rw [h1]; exact hx) (SaysMore.eventRing s1 e.kind rcd)
  split
  · exact h2
  · exact h2.trans (.forEach (fun t c => .trigger t _ c) _ s2)

theorem Reported.raise (s : State) {e : Event} (hk : e.kind < 256) : Reported s (s.raise e) := by
  refine ⟨State.raise_calm .., fun o sub hu => ?_, .raise s e⟩
  obtain ⟨he, -, hs⟩ := hu
  rcases he with ho | ⟨h0, h2, h9, hA⟩
  · exact State.raise_num_low ⟨ho, hs⟩ s e
  · rw [State.raise_num hs h9 hA h0 s hk, if_neg fun h => h2 h.1]

theorem Reported.retire (s : State) {k : Nat} (hk : k < 255) (pc : Nat) : Reported s (s.retire k pc) := by
  have h55 : ∀ (t : State) o j v, (o = 0x5500 ∨ o = 0x5510 ∨ o = 0x5520) → j < 256 → Reported t (t.setNum o j v) := fun t o j v ho hj =>
    .setNum t v fun o' sub' hu => by
      obtain ⟨-, ⟨h1, h2, h3⟩, hs⟩ := hu
      unfold objKey
      omega
  unfold State.retire
  extract_lets st s1 first gen s2 s3 s4
  split
  · exact .refl s
  · split
    · split
      · exact .refl s
      · exact (Reported.setStack ..).trans (.raise _ (by exact (by decide : (8 : Nat) < 256)))
    · have h2 : Reported s s2 := .setStack ..
      have h3 : Reported s s3 := h2.trans ((h55 _ _ _ _ (.inl rfl) (by decide)).trans (h55 _ _ _ _ (.inr (.inl rfl)) (by unfold sub1; omega)))
      have h4 : Reported s s4 := by
        simp only [s4]
        split
        · exact h3.trans (h55 _ _ _ _ (.inr (.inr rfl)) (by unfold sub1; omega))
        · exact h3
      exact h4.trans (.raise _ (by exact (by decide : (9 : Nat) < 256)))

theorem Reported.seen (s : State) {p : Place} (hp : p.stack < 24) (ce ue : Nat) : Reported s (s.seen p ce ue) := by
  unfold State.seen
  extract_lets s1 st ceL ueL0 ueL s2
  split
  · exact .refl s
  · have h2 : Reported s s2 := ((Reported.count ..).trans (.count ..)).trans (.setStack ..)
    split
    · exact h2.trans (.retire s2 (by omega) _)
    · exact h2

theorem Reported.foldl_fst {α β : Type} {f : State × β → α → State × β} (hf : ∀ s x t, f s x = t → Reported s.1 t.1) (l : List α) (s : State × β) :
    Reported s.1 (l.foldl f s).1 := by
  induction l generalizing s with
  | nil => exact .refl s.1
  | cons x l ih => exact (hf s x _ rfl).trans (ih (f s x))

theorem State.place_stack {s : State} {a : Nat} {p : Place} (h : s.place a = some p) : p.stack < 24 := by
  obtain ⟨l, hl, rfl⟩ := Option.map_eq_some_iff.1 h
  exact (State.logicalPlace_inBands hl).1

theorem Reported.readDevice (s : State) (a n : Nat) : Reported s (s.readDevice a n).1 := by
  unfold State.readDevice
  refine Reported.foldl_fst (fun acc pc t ht => ?_) _ (s, Ram.empty)
  split at ht
  · exact ht ▸ .refl acc.1
  next p hp =>
    extract_lets base img at ht
    generalize acc.1.dramErrs base pc.2 = z at ht
    obtain ⟨ce, ue⟩ := z
    exact ht ▸ .seen acc.1 (State.place_stack hp) ce ue

theorem Reported.meshRead (s : State) (die a n : Nat) : Reported s (s.meshRead die a n).1 := by
  unfold State.meshRead
  refine Reported.foldl_fst (fun acc pc t ht => ?_) _ (s, Ram.empty)
  split at ht
  · exact ht ▸ .refl acc.1
  · split at ht
    · have h := Reported.readDevice acc.1 pc.1 pc.2
      generalize acc.1.readDevice pc.1 pc.2 = z at h ht
      obtain ⟨u, img⟩ := z
      exact ht ▸ h
    · exact ht ▸ .refl acc.1

theorem Reported.readRing (s : State) (w o pos n : Nat) : Reported s (s.readRing w o pos n).1 := by
  unfold State.readRing
  extract_lets size k die at_
  have h1 := Reported.meshRead s die (at_ + pos) k
  generalize s.meshRead die (at_ + pos) k = x at h1
  obtain ⟨s1, a⟩ := x
  have h2 := Reported.meshRead s1 die at_ (n - k)
  dsimp only
  generalize s1.meshRead die at_ (n - k) = y at h2
  obtain ⟨s2, b⟩ := y
  have h := h1.trans h2
  dsimp only
  split
  · exact h
  · exact h.trans (((Reported.count ..).trans (.count ..)).trans (.forEach (fun t i => .raise t (by exact (by decide : (1 : Nat) < 256))) _ _))

end Sys2Proof.Machine
end

section
/-! SUPPORT. Export rings: bytes sent to the far target, and the seal block. -/

namespace Sys2Proof.Machine

theorem Ram.length_checkWord (r : Ram) (w : Nat) : (r.checkWord w).1.length = 8 := by
  unfold Ram.checkWord
  dsimp only
  split
  · exact Ram.length_readRaw ..
  · exact leBytes_length ..

/-- A checked read gives as many bytes as it is asked for. -/
theorem Ram.length_fetch (r : Ram) (a n : Nat) : (r.fetch a n).bytes.length = n := by
  have hsum : ∀ l : List Nat, ((l.map fun w => (w, r.checkWord w)).flatMap fun c => c.2.1).length = 8 * l.length := fun l => by
    induction l with
    | nil => rfl
    | cons w l ih =>
      rw [List.map_cons, List.flatMap_cons, List.length_append, ih, Ram.length_checkWord, List.length_cons]
      omega
  unfold Ram.fetch Ram.checks
  dsimp only
  rw [List.length_take, List.length_drop, hsum]
  unfold wordsOf
  split
  next h => simp [h]
  · rw [show (rangeFrom (a / 8) ((a + n - 1) / 8 + 1 - a / 8)).length = (a + n - 1) / 8 + 1 - a / 8 by simp [rangeFrom]]
    omega

/-- Bytes within a page of a host window go in one write. -/
theorem State.sendFar_page {s : State} {w o n : Nat} (h2 : s.num (0x5700 + w) 1 = 2) (hn : n ≠ 0) (hp : o % 4096 + n ≤ 4096) (img : Ram)
    (fuel b : Nat) : s.sendFar w img (fuel + 2) b o n = s.emit (.hostWrite (s.num (0x5700 + w) 2 + o) (img.fetch b n).bytes) := by
  have hm : min n (4096 - o % 4096) = n := by omega
  rw [State.sendFar, if_neg hn]
  dsimp only
  rw [hm, if_pos h2, Nat.sub_self, State.sendFar, if_pos rfl]

theorem State.exportW_setExport (s : State) (w : Nat) (e : Export) : (s.setExport w e).exportW w = e := tabGet_tabSet_same ..

theorem State.forEach_count {α : Type} (l : List α) (o sub n : α → Nat) (s : State) :
    ∃ c, (s.forEach l fun s x => s.count (o x) (sub x) (n x)) = { s with localCounts := c } := by
  induction l generalizing s with
  | nil => exact ⟨_, rfl⟩
  | cons x l ih =>
    obtain ⟨c, hc⟩ := ih (s.count (o x) (sub x) (n x))
    refine ⟨c, hc.trans ?_⟩
    unfold State.count
    split <;> rfl

/-- A run that the bytes allowed cover, within a page, drains in one write. -/
theorem State.drain_run {s : State} {w n : Nat} {r : Staged} (h2 : s.num (0x5700 + w) 1 = 2) (hw : w < 64) (hr : (s.exportW w).staged = [r]) (h0 : 0 < r.len)
    (hn : r.len ≤ n) (hp : r.offset % 4096 + r.len ≤ 4096) : ∃ u, Reported s u ∧ s.drain w 2 n =
      (u.emit (.hostWrite (s.num (0x5700 + w) 2 + r.offset) ((s.readRing w r.offset r.ringPos r.len).2.fetch (r.ringPos % 8) r.len).bytes)).setExport w
        { s.exportW w with staged := [], sent := (s.exportW w).sent + r.len, owed := (s.exportW w).owed ++ [(r.part, r.len)] } := by
  have hk : min n r.len = r.len := by omega
  have hrep := Reported.readRing s w r.offset r.ringPos r.len
  rw [State.drain]
  dsimp only
  rw [hr]
  dsimp only
  rw [hk, if_neg (by omega)]
  generalize s.readRing w r.offset r.ringPos r.len = x at hrep
  obtain ⟨u, img⟩ := x
  have hrep : Reported s u := hrep
  obtain ⟨hcalm, hnum, -⟩ := id hrep
  have hobj : ∀ k, k < 256 → u.num (0x5700 + w) k = s.num (0x5700 + w) k := fun k hk => hnum _ _ ⟨.inl (by omega), by omega, hk⟩
  have hexp := congrArg State.exports hcalm
  have hexp : u.exports = s.exports := hexp
  have hew : ∀ x, (u.emit x).exportW w = s.exportW w := fun x => by
    rw [State.exportW, State.exportW, ← hexp]
    rfl
  refine ⟨u, hrep, ?_⟩
  dsimp only
  rw [State.sendFar_page ((hobj 1 (by decide)).trans h2) (by omega) hp, hobj 2 (by decide), hew, if_pos rfl, State.drain]
  dsimp only
  rw [State.exportW_setExport]

/-! ### The seal block -/

theorem length_patch {l d : List Byte} {o : Nat} (h : o ≤ l.length) : (patch l o d).length = l.length := by
  unfold patch
  simp only [List.length_append, List.length_take, List.length_drop]
  omega

/-- Bytes outside those patched are as they were. -/
theorem slice_patch_before {l d : List Byte} {o a n : Nat} (h : a + n ≤ o) (ho : o ≤ l.length) : slice (patch l o d) a n = slice l a n := by
  have ht : ∀ r : List Byte, ((l.take o ++ r).drop a).take n = (l.drop a).take n := fun r => by
    rw [List.drop_append_of_le_length (by rw [List.length_take]; omega), List.take_append_of_le_length (by rw [List.length_drop, List.length_take]; omega),
      List.drop_take, List.take_take, min_eq_left (by omega)]
  unfold slice patch
  dsimp only
  rw [List.append_assoc, ht]

theorem slice_patch_same {l d : List Byte} {o : Nat} (h : o + d.length ≤ l.length) : slice (patch l o d) o d.length = d := by
  have ho : (l.take o).length = o := by rw [List.length_take]; omega
  unfold slice patch
  dsimp only
  rw [List.append_assoc, List.drop_left' ho, List.take_of_length_le (l := d) (by omega), List.take_left, Nat.sub_self]
  exact List.append_nil d

theorem length_shaRound {l : List Nat} (h : l.length = 8) (k : Nat) : (shaRound l k).length = 8 := by
  unfold shaRound
  split
  · rfl
  · exact h

theorem length_foldl_of {α : Type} {f : List Nat → α → List Nat} (hf : ∀ l x, l.length = 8 → (f l x).length = 8) (xs : List α) {l : List Nat}
    (h : l.length = 8) : (xs.foldl f l).length = 8 := by
  induction xs generalizing l with
  | nil => exact h
  | cons x xs ih => exact ih (hf l x h)

theorem length_shaBlock (l : List Nat) (b : List Byte) (h : l.length = 8) : (shaBlock l b).length = 8 := by
  unfold shaBlock
  extract_lets w r
  have hr : r.length = 8 := length_foldl_of (fun l k h => length_shaRound h k) _ h
  rw [List.length_map, List.length_zip, hr, h, min_self]

theorem length_sha256 (m : List Byte) : (sha256 m).length = 32 := by
  have h8 : ((shaBlocks m).foldl shaBlock shaInit).length = 8 := length_foldl_of length_shaBlock _ (by decide)
  have hsum : ∀ l : List Nat, (l.flatMap (beBytes 4)).length = 4 * l.length := fun l => by
    induction l with
    | nil => rfl
    | cons w l ih =>
      rw [List.flatMap_cons, List.length_append, ih, beBytes, List.length_reverse, leBytes_length, List.length_cons]
      omega
  rw [sha256, hsum, h8]

/-- The sealed block is as long as the block, and holds the digest of the directory's entries. -/
theorem Export.sealed_spec (e : Export) {blk : List Byte} (h : blk.length = 4096) :
    (e.sealed blk).length = 4096 ∧ slice (e.sealed blk) 0x30 32 = sha256 (e.negDir.take (32 * leAt blk 6 2)) := by
  unfold Export.sealed
  extract_lets b1 b2 b3
  have h1 : b1.length = 4096 := (length_patch (by omega)).trans h
  have h2 : b2.length = 4096 := (length_patch (by omega)).trans h1
  have h3 : b3.length = 4096 := (length_patch (by omega)).trans h2
  refine ⟨(length_patch (by omega)).trans h3, ?_⟩
  have hs := slice_patch_same (l := b1) (d := sha256 (e.negDir.take (32 * leAt blk 6 2))) (o := 0x30) (by rw [length_sha256]; omega)
  rw [length_sha256] at hs
  exact (slice_patch_before (by omega) (by omega)).trans ((slice_patch_before (by omega) (by omega)).trans hs)

/-- Settles O37: a staged run within a page is one write of its bytes; what is acknowledged is counted; the seal block follows. -/
theorem exportsDrain : Obligations.ExportsDrain := by
  unfold Obligations.ExportsDrain
  intro s w bytes o e
  have hw : w.toNat < 64 := w.isLt
  refine ⟨fun r h2 hr h0 hn hp => ?_, ?_, fun blk hb ha h1 => ?_⟩
  · intro d
    obtain ⟨u, hu, hd⟩ := State.drain_run h2 hw hr h0 hn hp
    have hexec : exec (.exportDrain w bytes) s = .next (s.drain w.toNat 2 bytes) := by
      show execExportDrain w bytes s = _
      rw [execExportDrain]
      dsimp only
      rw [if_neg (by rw [h2]; decide), hr, List.length_singleton]
    rw [hd] at hexec
    refine ⟨_, hexec, ?_, ?_, Ram.length_fetch .., List.mem_append_right _ (List.mem_singleton.2 rfl)⟩
    · rw [State.exportW_setExport]
    · rw [State.exportW_setExport]
  · intro n
    generalize hc : creditOwed n e.owed = c
    obtain ⟨paid, owed⟩ := c
    have hexec : exec (.exportDrainAck w bytes) s = .next (((s.setExport w.toNat { e with acked := e.acked + n, owed := owed }).setNum o 6 (e.acked + n)).forEach
        paid fun s x => s.count (0x8010 + x.1) 5 x.2) := by
      show execExportDrainAck w bytes s = _
      rw [execExportDrainAck]
      dsimp only
      rw [show creditOwed (min bytes ((s.exportW w.toNat).sent - (s.exportW w.toNat).acked)) (s.exportW w.toNat).owed = (paid, owed) from hc]
    obtain ⟨lc, hlc⟩ := ((s.setExport w.toNat { e with acked := e.acked + n, owed := owed }).setNum o 6 (e.acked + n)).forEach_count paid
      (fun x => 0x8010 + x.1) (fun _ => 5) fun x => x.2
    rw [hlc] at hexec
    have hw : ∀ (u : State) l, ({ u with localCounts := l } : State).exportW w.toNat = u.exportW w.toNat := fun _ _ => rfl
    have hx : ∀ v, ((s.setExport w.toNat { e with acked := e.acked + n, owed := owed }).setNum o 6 v).exportW w.toNat =
        { e with acked := e.acked + n, owed := owed } := fun v => State.exportW_setExport ..
    refine ⟨_, hexec, ?_, ?_, ?_, rfl⟩
    · rw [hw, hx]
    · exact State.num_setNum_same ..
    · rw [hw, hx]
  · have hexec : exec (.negativeSeal w) s = .next (((s.sendFar w.toNat (Ram.empty.writeRaw 0 (e.sealed blk)) 4 0 0 (e.sealed blk).length).setExport w.toNat
        { e with sealBlock := none, negDir := [], negIdx := 0, negBuf := [], negDigests := [] }).setNum o 8 2) := by
      show execNegativeSeal w s = _
      rw [execNegativeSeal]
      dsimp only
      rw [hb]
      dsimp only
      rw [if_neg (by rintro (h | h) <;> [exact absurd ha (Nat.not_le.2 h); exact h h1])]
    refine ⟨_, hexec, ?_, State.num_setNum_same .., fun h2 hl => ?_⟩
    · have hx : ∀ (u : State) v e', ((u.setExport w.toNat e').setNum o 8 v).exportW w.toNat = e' := fun u v e' => State.exportW_setExport ..
      rw [hx]
    · obtain ⟨hlen, hdir⟩ := e.sealed_spec hl
      refine ⟨?_, hdir⟩
      rw [hlen, State.sendFar_page h2 (by decide) (by decide), (Ram.sound_writeRaw_empty 0 _).fetch_bytes]
      have := Ram.readRaw_writeRaw_same .empty 0 (e.sealed blk)
      rw [hlen] at this
      rw [this]
      rfl

end Sys2Proof.Machine
end

section
/-! SUPPORT. Watched lines, and what taking a step request leaves of them and of the clients' sequence numbers. -/

namespace Sys2Proof.Machine

/-- Neither a watched line nor the `next_seq` of a client has changed. -/
structure Entered (s t : State) : Prop where
  watch : t.host.watch = s.host.watch
  seq : ∀ o, 0xC000 ≤ o → t.num o 7 = s.num o 7

theorem Entered.of_eq {s t : State} (h : t.host = s.host) (hd : t.dict = s.dict) : Entered s t :=
  ⟨by rw [h], fun o _ => by rw [State.num, State.num, hd]⟩

theorem Entered.refl (s : State) : Entered s s := .of_eq rfl rfl

theorem Entered.trans {s t u : State} (h : Entered s t) (g : Entered t u) : Entered s u :=
  ⟨g.watch.trans h.watch, fun o ho => (g.seq o ho).trans (h.seq o ho)⟩

theorem Entered.forEach {α : Type} {f : State → α → State} (l : List α) (hf : ∀ s x, x ∈ l → Entered s (f s x)) (s : State) : Entered s (s.forEach l f) := by
  induction l generalizing s with
  | nil => exact .refl s
  | cons x l ih => exact (hf s x List.mem_cons_self).trans (ih (fun s y hy => hf s y (List.mem_cons_of_mem _ hy)) (f s x))

theorem Entered.setNum (s : State) {o k : Nat} (v : Nat) (ho : o < 0xC000 ∨ k ≠ 7) (hk : k < 256) : Entered s (s.setNum o k v) :=
  ⟨rfl, fun o' h => State.num_setNum_ne s v (by unfold objKey; omega)⟩

theorem Reported.entered {s t : State} (h : Reported s t) : Entered s t := by
  obtain ⟨hc, hn, -⟩ := h
  have hh := congrArg State.host hc
  exact ⟨congrArg HostPort.watch hh, fun o ho => hn o 7 ⟨.inr (by omega), by omega, by decide⟩⟩

theorem Entered.raise (s : State) {e : Event} (hk : e.kind < 256) : Entered s (s.raise e) := (Reported.raise s hk).entered

theorem Reported.loadBytes (s : State) (die a n : Nat) : Reported s (s.loadBytes die a n).1 := by
  have h := Reported.meshRead s die a n
  unfold State.loadBytes
  generalize s.meshRead die a n = z at h
  obtain ⟨t, img⟩ := z
  exact h.trans ((Reported.count ..).trans (.count ..))

theorem Entered.recheck (s : State) (p : Nat) (ok : State → Image → Nat → Bool) : Entered s (s.recheck p ok) := by
  unfold State.recheck
  refine .forEach _ (fun t k hk => ?_) s
  have := List.mem_range.1 hk
  split
  · exact .setNum t _ (.inl (by omega)) (by decide)
  · exact .refl t

theorem Entered.setBlob (s : State) (o k : Nat) (b : List Byte) : Entered s (s.setBlob o k b) := .of_eq rfl rfl

theorem Entered.deviceSlot (s : State) (kind : Nat) (es : List (Nat × Nat)) (applied : Nat) : Entered s (s.deviceSlot 15 kind es applied) := by
  have h : ∀ (t : State) k v, k < 256 → Entered t (t.setNum 0x300F k v) := fun t k v hk => .setNum t v (.inl (by decide)) hk
  unfold State.deviceSlot
  extract_lets o b all full
  exact (((((h _ 1 _ (by decide)).trans (h _ 2 _ (by decide))).trans (.setBlob ..)).trans (h _ 4 _ (by decide))).trans (.setBlob ..)).trans (h _ 6 _ (by decide))

theorem Entered.settleSlot15 (s : State) (p : Nat) : Entered s (s.settleSlot15 p) := by
  unfold State.settleSlot15
  extract_lets ks new due s1 old
  split
  · exact .refl s
  · have h1 : Entered s s1 := .forEach _ (fun t k hk => by
      have hk : k < 24 := List.mem_range.1 (List.mem_of_mem_filter (List.mem_of_mem_filter hk))
      exact .setNum t _ (.inl (by decide)) (by unfold sub1; omega)) s
    exact h1.trans ((Entered.deviceSlot ..).trans (.recheck ..))

theorem Entered.takeSlot15 (s : State) : Entered s s.takeSlot15 := .forEach _ (fun t p _ => .settleSlot15 t p) s

theorem Entered.markBreach (s : State) (p : Nat) : Entered s (s.markBreach p) := by
  rw [State.markBreach_rest]
  exact .of_eq rfl rfl

theorem Entered.raiseBreach (s : State) (p : Nat) {e : Event} (hk : e.kind < 256) : Entered s (s.raiseBreach p e) := by
  rcases s.raiseBreach_cases p e with h | h <;> rw [h]
  · exact .raise s hk
  · exact (Entered.markBreach s p).trans (.raise _ hk)

theorem Entered.breach7 (s : State) (p cause unit detail : Nat) : Entered s (s.breach7 p cause unit detail) := by
  unfold State.breach7
  exact .raiseBreach s p (by exact (by decide : (7 : Nat) < 256))

theorem Entered.stallTells (s : State) (p : Nat) : Entered s (s.stallTells p) := by
  unfold State.stallTells
  split
  · exact .refl s
  · split
    · split
      · exact .refl s
      · exact .markBreach ..
    · have h1 : Entered s { s with host := { s.host with stallTold := s.host.stallTold ++ [p] } } := ⟨rfl, fun _ _ => rfl⟩
      exact h1.trans (.breach7 ..)

theorem Entered.prefetch (s : State) (p : Nat) : Entered s (s.prefetch p) := by
  unfold State.prefetch
  split
  · refine Entered.trans (.forEach _ (fun t c _ => ?_) s) (.of_eq rfl rfl)
    split
    · exact .refl t
    · exact .of_eq rfl rfl
  · exact .of_eq rfl rfl

theorem Entered.record (s : State) (q : Request) (r : Record) : Entered s (s.record q r) := .of_eq rfl rfl

theorem Entered.refuseRequest (s : State) (q : Request) (cause reason : Nat) : Entered s (s.refuseRequest q cause reason) := by
  unfold State.refuseRequest
  extract_lets p s1
  have h1 : Entered s s1 := (Entered.record ..).trans (.setNum _ _ (.inr (by decide)) (by decide))
  split
  · exact h1.trans (.raise _ (by exact (by decide : (0x15 : Nat) < 256)))
  · exact h1

theorem Entered.acceptRequest (s : State) (p : Nat) (q : Request) (k : Nat) (e : BracketE) (len : Nat) (fit : Fit) : Entered s (s.acceptRequest p q k e len fit) := by
  unfold State.acceptRequest
  extract_lets x s1 s2 s3 s4
  have h2 : Entered s s2 := .of_eq rfl rfl
  have h4 : Entered s s4 := by
    refine (h2.trans (.prefetch s2 p)).trans ?_
    simp only [s4]
    split
    · exact .record ..
    · exact .refl _
  exact h4.trans (.stallTells ..)

theorem Entered.startFill (s : State) (p key : Nat) : Entered s (s.startFill p key) := by
  unfold State.startFill
  extract_lets w page
  split
  · exact .refl s
  · refine Entered.trans (t := s.fetchPage w page) ?_ (.of_eq rfl rfl)
    unfold State.fetchPage
    dsimp only
    split <;> exact .of_eq rfl rfl

theorem Entered.admitNow (s : State) (q : Request) : Entered s (s.admitNow q) := by
  have hheld : ∀ (p : Nat) (m : List Nat), Entered s ((s.forEach m fun t g => t.startFill p g).modPart p fun t => { t with held := t.held ++ [q] }) :=
    fun p m => (Entered.forEach _ (fun t g _ => .startFill t p g) s).trans (.of_eq rfl rfl)
  unfold State.admitNow
  extract_lets p held
  split
  · split
    · exact .acceptRequest ..
    · exact hheld p _
    · extract_lets fb
      clear_value fb
      split
      · exact .refuseRequest ..
      · split
        · exact .acceptRequest ..
        · exact hheld p _
        · exact .refuseRequest ..
  · exact .refuseRequest ..

theorem Entered.enterRequest (s : State) (q : Request) : Entered s (s.enterRequest q) := by
  unfold State.enterRequest
  dsimp only
  split
  · exact .of_eq rfl rfl
  · exact .admitNow ..

theorem Entered.requestFault (s : State) (n a : Nat) : Entered s (s.requestFault n a) := .raise s (by exact (by decide : (1 : Nat) < 256))

theorem Entered.takeRequest (s : State) (n : Nat) (e : List Byte) : Entered s (s.takeRequest n e) := by
  unfold State.takeRequest
  extract_lets p s1 blk cnt
  have h1 : Entered s s1 := .takeSlot15 s
  split
  · exact h1.trans (.enterRequest ..)
  · split
    · exact h1.trans (.enterRequest ..)
    · have h2 := (Reported.loadBytes s1 s1.officeDie blk (16 * cnt)).entered
      generalize s1.loadBytes s1.officeDie blk (16 * cnt) = z at h2
      obtain ⟨s2, f⟩ := z
      have h := h1.trans h2
      dsimp only
      split
      · exact h.trans (.enterRequest ..)
      · exact h.trans ((Entered.requestFault ..).trans (.refuseRequest ..))

/-! ### Watched lines -/

theorem State.watch_setWatch (s : State) (w v : Nat) (x : Watch) : (s.setWatch w x).watch v = if v = w then x else s.watch v := tabGet_tabSet ..

/-- A watched line of host memory is read again through the open port. -/
theorem State.readEntry_host {s : State} {w : Nat} (hp : s.watchesPool w = false) (ho : s.p0Open = true) :
    s.readEntry w = ((s.setWatch w ⟨1, false, false, none⟩).emit (.p0 "RdShared" (s.entryAddr w) [])).emit (.hostRead (s.entryAddr w + 64) 64) := by
  unfold State.readEntry
  extract_lets a s1
  exact if_neg (by rw [show s1.watchesPool w = false from hp, show s1.p0Open = true from ho]; decide)

theorem State.readEntry_watch (s : State) (w v : Nat) : (s.readEntry w).watch v = if v = w then ⟨1, false, false, none⟩ else s.watch v := by
  unfold State.readEntry
  extract_lets a s1
  have h := s.watch_setWatch w v ⟨1, false, false, none⟩
  split
  · exact h
  · exact h

theorem State.learn_watch (s : State) (w v : Nat) : (s.learn w).watch v =
    if v = w then (if (s.watch w).reads = 0 then ⟨1, false, false, none⟩ else { s.watch w with again := true, snooped := false }) else s.watch v := by
  unfold State.learn
  dsimp only
  split
  · exact s.readEntry_watch w v
  · exact s.watch_setWatch w v _

/-- A line that has been asked for, or the answer to a snoop that has been read: what a response finds of a line. -/
def Watch.Answered (v : Watch) : Prop := (v.reads = 0 ∧ v.snooped = true) ∨ (v.reads = 1 ∧ v.snooped = false)

theorem State.learn_answered {s : State} {w : Nat} (h : (s.watch w).Answered) (v : Nat) : ((s.learn v).watch w).Answered := by
  rw [State.learn_watch]
  split
  next e =>
    subst e
    rcases h with ⟨h0, -⟩ | ⟨h1, -⟩
    · rw [if_pos h0]
      exact .inr ⟨rfl, rfl⟩
    · rw [if_neg (by omega)]
      exact .inr ⟨h1, rfl⟩
  · exact h

/-- `foldl_keeps` with the value of a step named. -/
theorem foldl_keeps_eq {α β : Type} (P : β → Prop) {f : β → α → β} (hf : ∀ b, P b → ∀ x c, f b x = c → P c) (l : List α) {b : β} (h : P b) :
    P (l.foldl f b) := foldl_keeps P (fun b hb x => hf b hb x _ rfl) l h

theorem State.storeBytes_host (s : State) (die a : Nat) (d : List Byte) : (s.storeBytes die a d).host = s.host := by
  have hseen : ∀ (t : State) (p : Place) (ce ue : Nat), (t.seen p ce ue).host = t.host := fun t p ce ue => by
    have h := congrArg State.host (State.seen_calm t p ce ue)
    exact h
  have hwrite : ∀ (t : State) (img : Ram) (b a n : Nat), (t.writeDevice img b a n).host = t.host := fun t img b a n => by
    unfold State.writeDevice
    refine foldl_keeps_eq (fun u : State => u.host = t.host) (fun u hu pc v hv => ?_) _ rfl
    split at hv
    · exact hv ▸ hu
    · rw [← hv]
      refine foldl_keeps_eq (fun u : State => u.host = t.host) (fun x hx cr y hy => ?_) _ hu
      extract_lets base at hy
      generalize x.dram.mergeErrs base pc.2 = z at hy
      obtain ⟨ce, ue⟩ := z
      rw [← hy]
      exact (hseen ..).trans hx
  unfold State.storeBytes State.meshWrite
  refine foldl_keeps_eq (fun u : State => u.host = s.host) (fun u hu pc v hv => ?_) _ rfl
  split at hv
  · exact hv ▸ hu
  · split at hv
    · exact hv ▸ (hwrite ..).trans hu
    · exact hv ▸ hu

theorem State.hostStore_answered {s : State} {w : Nat} (h : (s.watch w).Answered) (ps : List (Nat × Nat × Nat)) (d : List Byte) :
    ((s.hostStore ps d).watch w).Answered := by
  unfold State.hostStore
  refine foldl_keeps (fun acc : State × List Byte => (acc.1.watch w).Answered) (fun acc hacc e => ?_) ps h
  have h1 : ((acc.1.storeBytes (xDie 0) e.1 (acc.2.take e.2.2)).watch w).Answered := by
    rw [State.watch, State.storeBytes_host]
    exact hacc
  exact foldl_keeps (fun u : State => (u.watch w).Answered) (fun u hu v => State.learn_answered hu v) _ h1

/-- Settles O38, by what a read of a watched line leaves of it. -/
theorem watchedEntriesAreRead : Obligations.WatchedEntriesAreRead := by
  unfold Obligations.WatchedEntriesAreRead
  intro s addr w a
  refine ⟨fun ho hw => ?_, fun hw => ?_, fun n entry => ?_⟩
  · have hp : s.watchesPool w = false := by
      have hmem : w ∈ s.watchersOf false a 64 := by rw [hw]; exact List.mem_singleton.2 rfl
      have := (List.mem_filter.1 hmem).2
      simp only [Bool.and_eq_true, beq_iff_eq] at this
      exact this.1.1
    have hexec : exec (.watchSnoop addr) s = .next ((s.emit (.p0 "SnpResp" a [])).learn w) := by
      show execWatchSnoop addr s = _
      rw [execWatchSnoop]
      dsimp only
      rw [show s.watchersOf false (addr.toNat / 64 * 64) 64 = [w] from hw, if_neg (by rw [ho]; simp)]
      rfl
    refine ⟨fun h0 => ?_, fun h0 => ?_⟩
    · have hl : (s.emit (.p0 "SnpResp" a [])).learn w = (s.emit (.p0 "SnpResp" a [])).readEntry w := if_pos h0
      rw [hl, State.readEntry_host (s := s.emit _) hp ho] at hexec
      refine ⟨_, hexec, ?_, ?_⟩
      · exact congrArg Watch.reads ((s.watch_setWatch w w ⟨1, false, false, none⟩).trans (if_pos rfl))
      · show ((s.out ++ [_]) ++ [_]) ++ [_] = _
        simp only [List.append_assoc]
        rfl
    · have hl : (s.emit (.p0 "SnpResp" a [])).learn w = (s.emit (.p0 "SnpResp" a [])).setWatch w { s.watch w with again := true, snooped := false } :=
        if_neg h0
      rw [hl] at hexec
      exact ⟨_, hexec, congrArg Watch.again ((s.watch_setWatch w w _).trans (if_pos rfl)), rfl⟩
  · refine ⟨?_, fun data hs h0 => ?_⟩
    · have hexec : exec (.biPullTimer addr) s = .next ((s.emit (.p0 "BISnpData" a [])).setWatch w { s.watch w with snooped := true }) := by
        show execBiPullTimer addr s = _
        rw [execBiPullTimer]
        dsimp only
        rw [show s.poolWatchers (addr.toNat / 64 * 64) = [w] from hw, if_neg (by simp)]
        rfl
      exact ⟨_, hexec, congrArg Watch.snooped ((s.watch_setWatch w w _).trans (if_pos rfl)), rfl⟩
    · have hfil : ((s.poolWatchers a).filter fun w => (s.watch w).snooped) = [w] := by
        rw [hw, List.filter_singleton, hs]
        rfl
      have hstore : ∀ t, (t = s ∨ ∃ ps, t = s.hostStore ps (data.take 64)) → (t.watch w).Answered := fun t ht => by
        rcases ht with rfl | ⟨ps, rfl⟩
        · exact .inl ⟨h0, hs⟩
        · exact State.hostStore_answered (.inl ⟨h0, hs⟩) ps _
      obtain ⟨t, hexec, ht⟩ : ∃ t : State, exec (.bisnpResponse addr data) s = .next (if (t.watch w).snooped then t.learn w else t) ∧ (t.watch w).Answered := by
        have : ∃ t : State, exec (.bisnpResponse addr data) s = .next (if (t.watch w).snooped then t.learn w else t) ∧
            (t = s ∨ ∃ ps, t = s.hostStore ps (data.take 64)) := by
          have hgo : ∀ t : State, t.forEach [w] (fun s w => if (s.watch w).snooped then s.learn w else s) =
              if (t.watch w).snooped then t.learn w else t := fun _ => rfl
          show ∃ t : State, execBisnpResponse addr data s = _ ∧ _
          rw [execBisnpResponse]
          dsimp only
          rw [show ((s.poolWatchers (addr.toNat / 64 * 64)).filter fun w => (s.watch w).snooped) = [w] from hfil, if_neg (by simp), hgo]
          split
          next ps _ => exact ⟨_, rfl, .inr ⟨ps, rfl⟩⟩
          · exact ⟨_, rfl, .inl rfl⟩
        obtain ⟨t, h1, h2⟩ := this
        exact ⟨t, h1, hstore t h2⟩
      refine ⟨_, hexec, ?_⟩
      rcases ht with ⟨hr, hsn⟩ | ⟨hr, hsn⟩
      · rw [if_pos hsn, State.learn_watch, if_pos rfl, if_pos hr]
        exact ⟨rfl, rfl⟩
      · rw [if_neg (by rw [hsn]; decide)]
        exact ⟨hr, hsn⟩
  · intro o hwatch h2 hp ho hlen
    have he : slice entry 0 128 = entry.take 128 := by
      unfold slice
      dsimp only
      rw [List.drop_zero, List.length_take, min_eq_left hlen, Nat.sub_self]
      exact List.append_nil _
    have hclient : s.clientEntry n.toNat entry = (s, entry.take 128, none) := by
      rw [State.clientEntry, if_neg (by rw [hp]; decide), he, if_neg (by omega)]
    have hseq : leAt (entry.take 128) 0 4 = leAt entry 0 4 := by
      unfold leAt
      rw [List.drop_zero, List.drop_zero, List.take_take]
      rfl
    have hexec : exec (.stepRequestTake n entry) s = .next (if (none : Option Nat) = some 0 ∨ leAt entry 0 4 ≠ s.num o 7 then s.entryRead n.toNat (entry.take 128)
        else ((s.setNum o 7 ((s.num o 7 + 1) % 2 ^ 32)).readEntry n.toNat).takeRequest n.toNat (entry.take 128)) := by
      show execStepRequestTake n entry s = _
      rw [execStepRequestTake]
      dsimp only
      rw [if_neg (by simp [hwatch, h2, ho]), hclient]
      dsimp only
      rw [hseq]
    refine ⟨fun h => ?_, fun h ha => ?_⟩
    · rw [if_neg (by simp [h])] at hexec
      have hent := Entered.takeRequest ((s.setNum o 7 ((s.num o 7 + 1) % 2 ^ 32)).readEntry n.toNat) n.toNat (entry.take 128)
      obtain ⟨hw, hn⟩ := hent
      refine ⟨_, hexec, ?_, ?_⟩
      · rw [hn o (by show 0xC000 ≤ 0xC000 + n.toNat; omega)]
        have : ∀ t : State, (t.readEntry n.toNat).num o 7 = t.num o 7 := fun t => by
          unfold State.readEntry
          extract_lets a s1
          split <;> rfl
        rw [this, State.num_setNum_same]
      · rw [State.watch, hw]
        exact congrArg Watch.reads ((State.readEntry_watch ..).trans (if_pos rfl))
    · rw [hexec, if_pos (.inr h), State.entryRead, if_neg (by rw [ha]; decide), hp, if_neg (by decide), List.take_take]
      rfl

end Sys2Proof.Machine
end

section
/-! SUPPORT. What writes of the stacks leave: their bytes, and the faults they see, counted and told. -/

namespace Sys2Proof.Machine

theorem Logged.count (s : State) (o sub n : Nat) : Logged s (s.count o sub n) := by
  unfold State.count
  split
  · exact .refl s
  · exact ⟨fun _ => ⟨_, _, _, rfl⟩, rfl⟩

theorem Logged.setStack (s : State) (k : Nat) (m : Stack) : Logged s (s.setStack k m) := ⟨fun _ => ⟨_, _, _, rfl⟩, rfl⟩

theorem Logged.retire (s : State) (k pc : Nat) : Logged s (s.retire k pc) := by
  unfold State.retire
  extract_lets st s1 first gen s2 s3 s4
  split
  · exact .refl s
  · split
    · split
      · exact .refl s
      · exact (Logged.setStack ..).trans (.raise ..)
    · have h3 : Logged s s3 := (Logged.setStack ..).trans ((Logged.setNum ..).trans (.setNum ..))
      have h4 : Logged s s4 := by
        simp only [s4]
        split
        · exact h3.trans (.setNum ..)
        · exact h3
      exact h4.trans (.raise ..)

theorem Logged.seen (s : State) (p : Place) (ce ue : Nat) : Logged s (s.seen p ce ue) := by
  unfold State.seen
  extract_lets s1 st ceL ueL0 ueL s2
  split
  · exact .refl s
  · have h2 : Logged s s2 := ((Logged.count ..).trans (.count ..)).trans (.setStack ..)
    split
    · exact h2.trans (.retire ..)
    · exact h2

/-- `t` follows `s` by bytes of the stacks and by what is recorded of the faults seen there. -/
structure Stored (s t : State) : Prop where
  rest : t = { s with out := t.out, dict := t.dict, blobs := t.blobs, localCounts := t.localCounts, eventSeq := t.eventSeq
                      eventGap := t.eventGap, cores := t.cores, hbm := t.hbm, dram := t.dram }
  num : ∀ o sub, Unreported o sub → t.num o sub = s.num o sub
  out : SaysMore s t

theorem Stored.refl (s : State) : Stored s s := ⟨rfl, fun _ _ _ => rfl, .refl s⟩

theorem Stored.trans {s t u : State} (h : Stored s t) (g : Stored t u) : Stored s u := by
  refine ⟨?_, fun o sub hu => (g.num o sub hu).trans (h.num o sub hu), h.out.trans g.out⟩
  have hg := g.rest
  rw [h.rest] at hg
  exact hg

theorem Logged.stored {s t : State} (h : Logged s t) (r : Reported s t) : Stored s t := by
  refine ⟨?_, r.num, r.out⟩
  have hd : t.dram = s.dram := by rw [h.rest]
  rw [hd]
  exact h.rest

theorem Stored.setDram (s : State) (r : Ram) : Stored s { s with dram := r } := ⟨rfl, fun _ _ _ => rfl, fun _ h => h⟩

theorem Stored.parts {s t : State} (h : Stored s t) : t.parts = s.parts := by rw [h.rest]

theorem Stored.clients {s t : State} (h : Stored s t) : t.clients = s.clients := by rw [h.rest]

theorem Stored.fills {s t : State} (h : Stored s t) : t.fills = s.fills := by rw [h.rest]

theorem Stored.tier {s t : State} (h : Stored s t) : t.tier = s.tier := by rw [h.rest]

theorem Stored.host {s t : State} (h : Stored s t) : t.host = s.host := by rw [h.rest]

theorem Stored.seen (s : State) {p : Place} (hp : p.stack < 24) (ce ue : Nat) : Stored s (s.seen p ce ue) :=
  (Logged.seen s p ce ue).stored (.seen s hp ce ue)

theorem Stored.writeDevice (s : State) (img : Ram) (b a n : Nat) : Stored s (s.writeDevice img b a n) := by
  unfold State.writeDevice
  refine foldl_keeps_eq (fun u : State => Stored s u) (fun u hu pc v hv => ?_) _ (.refl s)
  split at hv
  · exact hv ▸ hu
  next l hl =>
    have hk : l.stack < 24 := (State.logicalPlace_inBands hl).1
    rw [← hv]
    refine foldl_keeps_eq (fun x : State => Stored s x) (fun x hx cr y hy => ?_) _ hu
    extract_lets base at hy
    generalize x.dram.mergeErrs base pc.2 = z at hy
    obtain ⟨ce, ue⟩ := z
    rw [← hy]
    exact (hx.trans (.seen x (by exact hk) ce ue)).trans (.setDram ..)

theorem Stored.meshWrite (s : State) (die : Nat) (img : Ram) (b a n : Nat) : Stored s (s.meshWrite die img b a n) := by
  unfold State.meshWrite
  refine foldl_keeps_eq (fun u : State => Stored s u) (fun u hu pc v hv => ?_) _ (.refl s)
  split at hv
  · exact hv ▸ hu
  · split at hv
    · exact hv ▸ hu.trans (.writeDevice ..)
    · exact hv ▸ hu

theorem Stored.storeWords (s : State) (die a : Nat) (ws : List CodeWord) : Stored s (s.storeWords die a ws) := .meshWrite ..

theorem Stored.storeBytes (s : State) (die a : Nat) (d : List Byte) : Stored s (s.storeBytes die a d) := .meshWrite ..

end Sys2Proof.Machine
end

section
/-! SUPPORT. Dictionary writes that pass their checks, and the fills of the tier cache. -/

namespace Sys2Proof.Machine

/-- An accepted write has its effect, is noted in the window of P0 when it came that way, and is answered with the effect's code. -/
theorem State.writeVia_accepted {s : State} {path : Path} {o sub v : Nat} (h : Accepted s path o sub v) (op : State → State × Nat) :
    ∃ len, s.writeVia path o sub v op = ((op s).1.xwNote path o sub 2 len 0 (op s).2 (leBytes len v)).reply path (op s).2 [] := by
  obtain ⟨hs, hc⟩ := h
  refine ⟨(objRow o sub).elim 0 fun r => objBytes o sub r.ty, ?_⟩
  rw [State.writeVia, if_neg (by rw [hs]; decide)]
  dsimp only
  rw [hc]
  rfl

theorem State.writeDo_accepted {s : State} {path : Path} {o sub v : Nat} (h : Accepted s path o sub v) (op : State → State) :
    ∃ len, s.writeDo path o sub v op = ((op s).xwNote path o sub 2 len 0 0 (leBytes len v)).reply path 0 [] :=
  State.writeVia_accepted h fun s => (op s, 0)

theorem State.forEach_nil {α : Type} (s : State) (f : State → α → State) : s.forEach [] f = s := rfl

theorem State.forEach_one {α : Type} (s : State) (x : α) (f : State → α → State) : s.forEach [x] f = f s x := rfl

theorem State.readmit_none {s : State} {p : Nat} (h : (s.part p).held = []) : s.readmit p = s.modPart p fun t => { t with held := [] } := by
  unfold State.readmit
  rw [h]
  rfl

theorem State.takeFrame_rest {s u : State} {p fr : Nat} (h : s.takeFrame p = some (u, fr)) : u = { s with tier := u.tier } := by
  unfold State.takeFrame at h
  generalize s.tierFrames p = z at h
  obtain ⟨lo, n⟩ := z
  dsimp only at h
  split at h
  · obtain ⟨f, -, hf⟩ := Option.map_eq_some_iff.1 h
    obtain ⟨rfl, -⟩ := Prod.mk.inj hf
    rfl
  · obtain ⟨f, -, hf⟩ := Option.map_eq_some_iff.1 h
    obtain ⟨rfl, -⟩ := Prod.mk.inj hf
    rfl

theorem State.fillGone_none {s : State} {f : Fill} (h : (s.part f.part).held = []) :
    s.fillGone f = ({ s with fills := s.fills.erase f } : State).modPart f.part fun t => { t with held := [] } :=
  State.readmit_none (s := { s with fills := s.fills.erase f }) h

theorem State.reaches_fills (s : State) (fs : List Fill) (q : Request) (key : Nat) : ({ s with fills := fs } : State).reaches q key = s.reaches q key := rfl

/-- What a refused request leaves: its record waits at its client, and no partition, fill or page has changed. -/
theorem State.refuseRequest_kept (s : State) (q : Request) (reason : Nat) :
    let t := s.refuseRequest q 1 reason
    t.parts = s.parts ∧ t.fills = s.fills ∧ t.tier = s.tier ∧
      (t.client q.client).waiting = (s.client q.client).waiting ++ [((Record.refusal s.now 1 reason q.slot).bytes q, q.flags.testBit 3)] := by
  intro t
  have ht : t = s.refuseRequest q 1 reason := rfl
  clear_value t
  unfold State.refuseRequest at ht
  rw [if_pos rfl] at ht
  generalize hu : (s.record q (.refusal s.now 1 reason q.slot)).bump (clientObj q.client) 0x13 1 = u at ht
  have hl : t = { u with out := t.out, dict := t.dict, blobs := t.blobs, localCounts := t.localCounts, eventSeq := t.eventSeq
                         eventGap := t.eventGap, cores := t.cores, hbm := t.hbm } := by
    rw [ht]
    exact (Logged.raise u _).rest
  have hc : t.client q.client = (s.record q (.refusal s.now 1 reason q.slot)).client q.client := by
    rw [State.client, hl, ← hu]
    rfl
  refine ⟨by rw [hl, ← hu]; rfl, by rw [hl, ← hu]; rfl, by rw [hl, ← hu]; rfl, ?_⟩
  rw [hc, State.record, State.client_modClient_same]

theorem State.storeWords_part (s : State) (die a : Nat) (ws : List CodeWord) (p : Nat) : (s.storeWords die a ws).part p = s.part p := by
  rw [State.part, (Stored.storeWords s die a ws).parts, State.part]

/-- A page of the window's own generation takes the frame found for it. -/
theorem State.placeFill_taken {s u : State} {f : Fill} {frame now : Nat} (hn : u.now = now) (hg : f.generation = s.num (0x5600 + f.window) 4)
    (hf : s.takeFrame f.part = some (u, frame)) (hh : (s.part f.part).held = []) (data : List CodeWord) :
    let x : TierPage := { window := f.window, page := f.page, part := f.part, frame := frame, generation := f.generation, pins := 0, lastUse := now }
    let t := s.placeFill f data
    t.fills = s.fills.erase f ∧ t.tier = u.tier ++ [x] ∧
      t.dram = (({ u with tier := u.tier ++ [x] } : State).storeWords f.die (4096 * frame) data).dram := by
  intro x t
  subst hn
  have hu := State.takeFrame_rest hf
  have hpart : (u.part f.part).held = [] := by
    rw [hu]
    exact hh
  have hfills : u.fills = s.fills := by rw [hu]
  have ht : t = (({ u with tier := u.tier ++ [x] } : State).storeWords f.die (4096 * frame) data).fillGone f := by
    simp only [t]
    rw [State.placeFill, if_neg (by rw [hg]; simp), hf]
  have hst := Stored.storeWords { u with tier := u.tier ++ [x] } f.die (4096 * frame) data
  rw [ht, State.fillGone_none (by rw [State.storeWords_part]; exact hpart)]
  generalize ({ u with tier := u.tier ++ [x] } : State).storeWords f.die (4096 * frame) data = v at hst
  refine ⟨?_, hst.tier, rfl⟩
  show v.fills.erase f = _
  rw [hst.fills]
  exact congrArg (fun l : List Fill => l.erase f) hfills

theorem State.placeFill_waits {s : State} {f : Fill} (hg : f.generation = s.num (0x5600 + f.window) 4) (hf : s.takeFrame f.part = none)
    (data : List CodeWord) : s.placeFill f data = { s with fills := s.fills.map fun g => if g = f then { f with data := some data } else g } := by
  rw [State.placeFill, if_neg (by rw [hg]; simp), hf]

theorem State.placeFill_stale {s : State} {f : Fill} (hg : f.generation ≠ s.num (0x5600 + f.window) 4) (data : List CodeWord) :
    s.placeFill f data = s.fillGone f := by
  rw [State.placeFill, if_pos hg]

/-- The page read of one fill, by what the fill is for. -/
theorem execTierFillComplete_page {s : State} {w : BitVec 6} {page : BitVec 52} {f : Fill} {data : List CodeWord}
    (hf : s.fills.find? (fun f => f.window == w.toNat && f.page == page.toNat && f.data.isNone) = some f) (hd : data.length = 512) (ht : f.target = none) :
    exec (.tierFillComplete w page data) s = .next ((s.count (0x8010 + f.part) 4 4096).placeFill f
      (if s.num (0x5600 + f.window) 1 = 2 then data.map fun w => eccEncode (codeData w) else data)) := by
  show execTierFillComplete w page data s = _
  rw [execTierFillComplete, hf]
  dsimp only
  rw [if_neg (by rw [hd]; simp), ht]

theorem execTierFillComplete_region {s : State} {w : BitVec 6} {page : BitVec 52} {f : Fill} {data : List CodeWord} {a : Nat}
    (hf : s.fills.find? (fun f => f.window == w.toNat && f.page == page.toNat && f.data.isNone) = some f) (hd : data.length = 512) (ht : f.target = some a)
    (hk : ∀ k, k < 64 → s.copying k = false) :
    exec (.tierFillComplete w page data) s = .next (({ s with fills := s.fills.erase f } : State).meshWrite f.die
      (Ram.empty.putWords 0 (if s.num (0x5600 + f.window) 1 = 2 then data.map fun w => eccEncode (codeData w) else data)) 0 a f.len) := by
  have hks : ((List.range 64).filter fun k => s.copying k) = [] :=
    List.filter_eq_nil_iff.2 fun k hm => by rw [hk k (List.mem_range.1 hm)]; decide
  show execTierFillComplete w page data s = _
  rw [execTierFillComplete, hf]
  dsimp only
  rw [if_neg (by rw [hd]; simp), ht]
  dsimp only
  rw [hks]
  rfl

/-- The fill that has failed is gone, and so are the requests `bad` that waited for it. -/
def State.dropFill (s : State) (f : Fill) (bad : List Request) : State :=
  ({ s with fills := s.fills.erase f } : State).modPart f.part fun t => { t with held := t.held.filter fun q => !bad.contains q }

theorem State.dropFill_held (s : State) (f : Fill) (bad : List Request) :
    ((s.dropFill f bad).part f.part).held = (s.part f.part).held.filter fun q => !bad.contains q :=
  congrArg Part.held (State.part_modPart_same { s with fills := s.fills.erase f } f.part _)

/-- A fill of a page that has failed: the requests held for that page are refused. -/
theorem State.fillFailed_page {s : State} {f : Fill} {bad : List Request} (ht : f.target = none)
    (hb : ((s.part f.part).held.filter fun q => s.reaches q (f.window * 2 ^ 52 + f.page)) = bad) :
    s.fillFailed f = ((s.dropFill f bad).forEach bad fun s q => s.refuseRequest q 1 0x0309).readmit f.part := by
  rw [State.fillFailed, ht, ← hb]
  rfl

/-- The only request that waits is refused, and nothing else waits. -/
theorem State.refused_readmit {s u : State} {p : Nat} (q : Request) (hu : (u.part p).held = []) (hn : u.now = s.now) (hc : u.clients = s.clients) :
    let t := (u.refuseRequest q 1 0x0309).readmit p
    t.fills = u.fills ∧ t.tier = u.tier ∧ (t.part p).held = [] ∧
      (t.client q.client).waiting = (s.client q.client).waiting ++ [((Record.refusal s.now 1 0x0309 q.slot).bytes q, q.flags.testBit 3)] := by
  intro t
  obtain ⟨hp, hf, htier, hw⟩ := State.refuseRequest_kept u q 0x0309
  have ht : t = (u.refuseRequest q 1 0x0309).modPart p fun t => { t with held := [] } :=
    State.readmit_none (by rw [State.part, hp]; exact hu)
  have hcl : u.client q.client = s.client q.client := by rw [State.client, hc, State.client]
  rw [hn, hcl] at hw
  clear_value t
  generalize u.refuseRequest q 1 0x0309 = v at hp hf htier hw ht
  subst ht
  exact ⟨hf, htier, congrArg Part.held (State.part_modPart_same ..), hw⟩

theorem execFillReadTimeout_page {s : State} {w : BitVec 6} {page : BitVec 52} {f : Fill}
    (hf : s.fills.find? (fun f => f.window == w.toNat && f.page == page.toNat && f.data.isNone) = some f) (h1 : s.num (0x5600 + w.toNat) 1 = 1) :
    exec (.fillReadTimeout w page) s = .next (if f.resent then s.fillFailed f
      else ({ s with fills := s.fills.map fun g => if g = f then { g with resent := true, port := s.nextPort w.toNat f.port } else g } : State).farFetch
        w.toNat page.toNat (s.nextPort w.toNat f.port)) := by
  show execFillReadTimeout w page s = _
  rw [execFillReadTimeout]
  dsimp only
  rw [hf]
  dsimp only
  rw [if_neg (by rw [h1]; simp)]

/-- A generation write of a window none of whose fills waits for a frame. -/
theorem State.writeGeneration_none {s : State} {w : Nat} (h : ∀ f ∈ s.fills, f.window = w → f.target = none → f.data = none) (v : Nat) :
    s.writeGeneration w v = { s.setNum (0x5600 + w) 4 v with
      tier := (s.tier.filter fun t => t.window != w || t.pins != 0).map fun t => if t.window = w then { t with generation := 65536 } else t
      fills := s.fills.map fun f => if f.window == w && f.target.isNone then { f with generation := 65536 } else f } := by
  have hgone : (s.fills.filter fun f => (f.window == w && f.target.isNone) && f.data.isSome) = [] :=
    List.filter_eq_nil_iff.2 fun f hf => by
      simp only [Bool.and_eq_true, beq_iff_eq, Option.isNone_iff_eq_none, not_and]
      intro hm
      rw [h f hf hm.1 hm.2]
      decide
  have hleft : (s.fills.filter fun f => !([] : List Fill).contains f) = s.fills := List.filter_eq_self.2 fun f _ => rfl
  unfold State.writeGeneration
  extract_lets s1 keep mine gone left
  have hg : gone = [] := hgone
  have hl : left = s.fills.map fun f => if f.window == w && f.target.isNone then { f with generation := 65536 } else f := by
    simp only [left, hg]
    exact congrArg _ hleft
  rw [hg, hl]
  rfl

/-- Settles O36, by the cases of a fill: a page that comes, one that does not, and a window's new generation. -/
theorem fillsComplete : Obligations.FillsComplete := by
  unfold Obligations.FillsComplete
  intro s w page o refused
  refine ⟨fun f hf => ⟨fun data hd => ?_, fun h1 => ⟨fun hr => ?_, fun hr ht => ⟨fun hh => ?_, fun q hq hrch => ?_⟩⟩⟩,
    fun p q hq => ?_, fun path v hacc hfree => ?_⟩
  · intro words
    have hw : f.window = w.toNat := by
      have := List.find?_some hf
      simp only [Bool.and_eq_true, beq_iff_eq] at this
      exact this.1.1
    have hexec := execTierFillComplete_page hf hd
    have hnum : (s.count (0x8010 + f.part) 4 4096).num (0x5600 + f.window) 4 = s.num o 4 := by rw [State.count_num, hw]
    have hnow : (s.count (0x8010 + f.part) 4 4096).now = s.now := State.count_now ..
    have hfills : (s.count (0x8010 + f.part) 4 4096).fills = s.fills := State.count_fills ..
    have htier : (s.count (0x8010 + f.part) 4 4096).tier = s.tier := State.count_tier ..
    have hdram : (s.count (0x8010 + f.part) 4 4096).dram = s.dram := State.count_dram ..
    have hpart : (s.count (0x8010 + f.part) 4 4096).part f.part = s.part f.part := State.count_part ..
    generalize s.count (0x8010 + f.part) 4 4096 = c at hexec hnum hnow hfills htier hdram hpart ⊢
    refine ⟨fun ht hh => ⟨?_, ?_, ?_⟩, fun a ht hk => ?_⟩
    · intro u frame hg hu x
      rw [← hfills]
      exact ⟨_, hexec ht, State.placeFill_taken (by rw [State.takeFrame_rest hu]; exact hnow) (hnum.symm ▸ hg) hu (hpart ▸ hh) words⟩
    · intro hg hu
      refine ⟨_, hexec ht, ?_⟩
      rw [State.placeFill_waits (hnum.symm ▸ hg) hu, ← hfills]
      exact ⟨htier, hdram, rfl⟩
    · intro hg
      refine ⟨_, hexec ht, ?_⟩
      rw [State.placeFill_stale (hnum.symm ▸ hg), State.fillGone_none (hpart ▸ hh), ← hfills]
      exact ⟨rfl, htier, hdram⟩
    · exact execTierFillComplete_region hf hd ht hk
  · rw [execFillReadTimeout_page hf h1, hr]
    rfl
  · refine ⟨_, execFillReadTimeout_page hf h1, ?_⟩
    have hheld : ((s.dropFill f []).part f.part).held = [] := by rw [State.dropFill_held, hh]; rfl
    have hbad : ((s.part f.part).held.filter fun q => s.reaches q (f.window * 2 ^ 52 + f.page)) = [] := by rw [hh]; rfl
    rw [if_pos hr, State.fillFailed_page ht hbad, State.forEach_nil, State.readmit_none hheld]
    exact ⟨rfl, rfl⟩
  · refine ⟨_, execFillReadTimeout_page hf h1, ?_⟩
    have hbad : ((s.part f.part).held.filter fun q => s.reaches q (f.window * 2 ^ 52 + f.page)) = [q] := by
      rw [hq, List.filter_singleton, hrch]
      rfl
    have hheld : ((s.dropFill f [q]).part f.part).held = [] := by
      rw [State.dropFill_held, hq]
      simp
    rw [if_pos hr, State.fillFailed_page ht hbad, State.forEach_one]
    obtain ⟨hfl, -, hnone, hwait⟩ := State.refused_readmit (s := s) q hheld rfl rfl
    exact ⟨hfl, hnone, hwait⟩
  · have hexec : exec (.fillTimeout p) s = .next (((s.modPart p.toNat fun t => { t with held := [] }).refuseRequest q 1 0x0309).readmit p.toNat) := by
      show execFillTimeout p s = _
      rw [execFillTimeout]
      dsimp only
      rw [hq]
    obtain ⟨-, -, hheld, hwait⟩ := State.refused_readmit (s := s) (p := p.toNat) q
      (u := s.modPart p.toNat fun t => { t with held := [] }) (congrArg Part.held (State.part_modPart_same s p.toNat _)) rfl rfl
    exact ⟨_, hexec, hheld, hwait⟩
  · obtain ⟨len, hdo⟩ := State.writeDo_accepted hacc fun s => s.writeGeneration w.toNat v.toNat
    have hexec : exec (.tierGenerationWrite path w v) s = .next _ := congrArg Host.Outcome.next hdo
    refine ⟨_, hexec, ?_⟩
    rw [State.writeGeneration_none hfree]
    refine ⟨?_, ?_, fun x hx hw => ?_, fun x hx hw => ?_, fun x hx hw ht => ?_, fun x hx hw => ?_⟩
    · rw [State.reply_num, State.xwNote_num]
      exact State.num_setNum_same ..
    · rw [Told, State.reply_out, State.xwNote_out]
      rfl
    · rw [State.reply_tier, State.xwNote_tier] at hx
      obtain ⟨y, hy, rfl⟩ := List.mem_map.1 hx
      have hyf := (List.mem_filter.1 hy).2
      by_cases hyw : y.window = w.toNat
      · rw [if_pos hyw]
        rw [hyw] at hyf
        simp only [bne_self_eq_false, Bool.false_or, bne_iff_ne, ne_eq] at hyf
        exact ⟨hyf, rfl⟩
      · rw [if_neg hyw] at hw
        exact absurd hw hyw
    · rw [State.reply_tier, State.xwNote_tier]
      exact List.mem_map.2 ⟨x, List.mem_filter.2 ⟨hx, by simp [hw]⟩, if_neg hw⟩
    · rw [State.reply_fills, State.xwNote_fills] at hx
      obtain ⟨y, hy, rfl⟩ := List.mem_map.1 hx
      by_cases hym : (y.window == w.toNat && y.target.isNone) = true
      · rw [if_pos hym]
      · rw [if_neg hym] at hw ht
        exact absurd (by rw [hw, ht]; simp) hym
    · rw [State.reply_fills, State.xwNote_fills]
      exact List.mem_map.2 ⟨x, hx, if_neg (by simp [hw])⟩

end Sys2Proof.Machine
end

section
/-! SUPPORT. Filmstrips: what a record put in one changes, and what leaves all of them as they are. -/

namespace Sys2Proof.Machine

theorem State.film_setFilm (s : State) (f g : Nat) (v : Film) : (s.setFilm f v).film g = if g = f then v else s.film g := by
  unfold State.setFilm State.film
  by_cases hf : f < 576 <;> by_cases hg : g < 576
  · rw [if_pos hf, if_pos hg, State.core_modCore, if_pos hg]
    split
    next h => subst h; rfl
    · rfl
  · rw [if_pos hf, if_neg hg, if_neg (by omega), if_neg hg]
    rfl
  · rw [if_neg hf, if_pos hg, if_neg (by omega), if_pos hg]
    rfl
  · rw [if_neg hf, if_neg hg, State.stack_modStack, if_neg hg]
    by_cases h : g = f
    · subst h
      rw [if_pos rfl, if_pos rfl]
    · rw [if_neg h, if_neg (by omega)]

theorem State.film_setNum (s : State) (o k v f : Nat) : (s.setNum o k v).film f = s.film f := rfl

theorem State.traceSettle_film (s : State) (p f : Nat) : (s.traceSettle p).film f = s.film f := by
  unfold State.traceSettle
  dsimp only
  (repeat' split) <;> rfl

theorem State.filmPut_film_ne {s : State} {f g : Nat} (h : g ≠ f) (p : Nat) (w : BitVec 128) : (s.filmPut p f w).film g = s.film g := by
  unfold State.filmPut
  dsimp only
  split
  · exact (State.film_setFilm ..).trans (if_neg h)
  · exact (State.traceSettle_film ..).trans ((State.film_setFilm ..).trans (if_neg h))
  · rfl

/-- An armed filmstrip with room takes the record at its end. -/
theorem State.filmPut_open {s : State} {f : Nat} (h1 : (s.film f).phase = 1) (hn : (s.film f).recs.length < filmSize f) (p : Nat) (w : BitVec 128) :
    (s.filmPut p f w).film f = { s.film f with recs := (s.film f).recs ++ [⟨w, false⟩] } := by
  unfold State.filmPut
  dsimp only
  split
  · rw [Film.pushRing, if_pos hn]
    exact (State.film_setFilm ..).trans (if_pos rfl)
  next h => exact absurd (h1.symm.trans h) (by decide)
  next h _ => exact absurd h1 h

theorem Film.pushRing_phase (f : Film) (i n : Nat) (w : BitVec 128) : (f.pushRing i n w).1.phase = f.phase := by
  unfold Film.pushRing
  split
  · rfl
  · split
    · split
      · rfl
      · split <;> rfl
    · rfl

/-- A record leaves every armed filmstrip armed. -/
theorem State.filmPut_armed {s : State} {g : Nat} (h : (s.film g).phase = 1) (p f : Nat) (w : BitVec 128) : ((s.filmPut p f w).film g).phase = 1 := by
  by_cases hg : g = f
  · subst hg
    unfold State.filmPut
    dsimp only
    rw [h]
    exact (congrArg Film.phase ((State.film_setFilm ..).trans (if_pos rfl))).trans ((Film.pushRing_phase ..).trans h)
  · rw [State.filmPut_film_ne hg]
    exact h

theorem State.filmWrap_armed {s : State} {g : Nat} (h : (s.film g).phase = 1) (f : Nat) : ((s.filmWrap f).film g).phase = 1 := by
  unfold State.filmWrap
  split
  · exact h
  · split
    · exact h
    · exact State.filmPut_armed h ..

/-! ### Objects that a record leaves -/

theorem State.traceSettle_num {o sub : Nat} (hs : sub < 256) (h9 : sub ≠ 9) (s : State) (p : Nat) : (s.traceSettle p).num o sub = s.num o sub := by
  unfold State.traceSettle
  dsimp only
  split
  · rfl
  · split
    · exact State.num_setNum_ne _ _ (objKey_trace hs (by decide) h9)
    · split
      · exact State.num_setNum_ne _ _ (objKey_trace hs (by decide) h9)
      · rfl

theorem State.filmPut_num {o sub : Nat} (hs : sub < 256) (h9 : sub ≠ 9) (hA : sub ≠ 0x0A) (s : State) (p f : Nat) (w : BitVec 128) :
    (s.filmPut p f w).num o sub = s.num o sub := by
  unfold State.filmPut
  dsimp only
  split
  · exact (State.num_setNum_ne _ _ (objKey_trace hs (by decide) hA)).trans (State.setFilm_num ..)
  · exact (State.traceSettle_num hs h9 ..).trans (State.setFilm_num ..)
  · rfl

theorem State.trace_num {o sub : Nat} (hs : sub < 256) (h9 : sub ≠ 9) (hA : sub ≠ 0x0A) (s : State) (f ts kind unit payload : Nat) :
    (s.trace f ts kind unit payload).num o sub = s.num o sub := by
  unfold State.trace State.traceAt
  (repeat' split)
  · rfl
  · exact State.filmPut_num hs h9 hA ..
  · rfl

/-- The partition of a filmstrip comes from the objects of partitions and of the trace of the stacks. -/
theorem State.filmPart_congr {s t : State} (h1 : ∀ p, t.num (0x2100 + p) 1 = s.num (0x2100 + p) 1) (h2 : t.num 0x8110 1 = s.num 0x8110 1) (f : Nat) :
    t.filmPart f = s.filmPart f := by
  have hp : ∀ k, t.partOfCluster k = s.partOfCluster k := fun k => by
    unfold State.partOfCluster
    simp only [h1]
  unfold State.filmPart
  rw [hp, h2]

theorem State.trace_film_ne {s : State} {f g : Nat} (h : g ≠ f) (ts kind unit payload : Nat) : (s.trace f ts kind unit payload).film g = s.film g := by
  unfold State.trace State.traceAt
  (repeat' split)
  · rfl
  · exact State.filmPut_film_ne h ..
  · rfl

theorem Bookkept.filmCount {s t : State} (h : Bookkept s t) (f : Nat) : t.filmCount f = s.filmCount f := by
  obtain ⟨_, _, _, hc⟩ := h.core f
  have ht : t.time = s.time := by rw [h.rest]
  unfold State.filmCount State.acNow
  rw [hc, ht]

theorem Bookkept.filmTs {s t : State} (h : Bookkept s t) {f : Nat} (hf : t.film f = s.film f) : t.filmTs f = s.filmTs f := by
  unfold State.filmTs State.stampOf
  rw [h.filmCount, hf]

theorem Bookkept.eff {s t : State} (h : Bookkept s t) {p o sub : Nat} (hn : t.num o sub = s.num o sub) : t.eff p o sub = s.eff p o sub := by
  have hp : t.parts = s.parts := by rw [h.rest]
  unfold State.eff State.part
  rw [hn, hp]

/-- A filmstrip open to a kind of records stays open, as it was, after a record of another filmstrip. -/
theorem State.FilmOpen.trace {s : State} {f g p kind : Nat} (h : s.FilmOpen f p kind) (hg : f ≠ g) (ts k unit payload : Nat) :
    (s.trace g ts k unit payload).FilmOpen f p kind := by
  obtain ⟨hp, h1, h2, hph, hn⟩ := h
  have hb := Bookkept.trace s g ts k unit payload
  have hnum : ∀ o sub, sub < 9 → (s.trace g ts k unit payload).num o sub = s.num o sub := fun o sub hs =>
    State.trace_num (by omega) (by omega) (by omega) ..
  refine ⟨?_, ?_, ?_, ?_, ?_⟩
  · rw [State.filmPart_congr (fun p => hnum _ 1 (by decide)) (hnum _ 1 (by decide))]
    exact hp
  · rw [hb.eff (hnum _ 1 (by decide))]
    exact h1
  · rw [hb.eff (hnum _ 2 (by decide))]
    exact h2
  · rw [State.trace_film_ne hg]
    exact hph
  · rw [State.trace_film_ne hg]
    exact hn

/-- One record for each filmstrip of a list: an open one among them takes its own. -/
theorem State.forEach_trace {s : State} {f p kind : Nat} (unit payload : Nat) (h : s.FilmOpen f p kind) {l : List Nat} (hl : l.Nodup) :
    ((s.forEach l fun s f => s.trace f (s.filmTs f) kind unit payload).film f).recs = (s.film f).recs ++
      if f ∈ l then [⟨filmWord (s.filmTs f) kind unit (filmWhere f) payload, false⟩] else [] := by
  have rest : ∀ (l : List Nat) (t : State), f ∉ l → (t.forEach l fun s f => s.trace f (s.filmTs f) kind unit payload).film f = t.film f := fun l => by
    induction l with
    | nil => exact fun _ _ => rfl
    | cons x l ih =>
      exact fun t ht => (ih _ fun hm => ht (List.mem_cons_of_mem _ hm)).trans (State.trace_film_ne (by rintro rfl; exact ht List.mem_cons_self) ..)
  induction l generalizing s with
  | nil => exact (List.append_nil _).symm
  | cons x l ih =>
    obtain ⟨hx, hl⟩ := List.nodup_cons.1 hl
    by_cases hf : f = x
    · subst hf
      obtain ⟨hp, h1, h2, hph, hn⟩ := h
      have ht : s.trace f (s.filmTs f) kind unit payload = s.filmPut p f (filmWord (s.filmTs f) kind unit (filmWhere f) payload) := by
        unfold State.trace State.traceAt
        rw [hp]
        exact if_pos ⟨h1, h2⟩
      rw [if_pos List.mem_cons_self]
      refine (congrArg Film.recs (rest l _ hx)).trans ?_
      dsimp only
      rw [ht, State.filmPut_open hph hn]
    · have hb := Bookkept.trace s x (s.filmTs x) kind unit payload
      have hfilm := State.trace_film_ne (s := s) hf (s.filmTs x) kind unit payload
      refine (ih (h.trace hf ..) hl).trans ?_
      rw [hfilm, hb.filmTs hfilm]
      simp [hf]

end Sys2Proof.Machine
end

section
/-! SUPPORT. Writes of the stacks and of the rings of windows put no record in a filmstrip. -/

namespace Sys2Proof.Machine

/-- No filmstrip and no partition has changed. -/
structure Unfilmed (s t : State) : Prop where
  film : ∀ f, t.film f = s.film f
  parts : t.parts = s.parts

theorem Unfilmed.refl (s : State) : Unfilmed s s := ⟨fun _ => rfl, rfl⟩

theorem Unfilmed.trans {s t u : State} (h : Unfilmed s t) (g : Unfilmed t u) : Unfilmed s u :=
  ⟨fun f => (g.film f).trans (h.film f), g.parts.trans h.parts⟩

theorem Unfilmed.of_eq {s t : State} (hc : t.cores = s.cores) (hh : t.hbm = s.hbm) (hp : t.parts = s.parts) : Unfilmed s t :=
  ⟨fun f => by rw [State.film, State.core, State.stack, hc, hh]; rfl, hp⟩

theorem Unfilmed.setNum (s : State) (o k v : Nat) : Unfilmed s (s.setNum o k v) := .of_eq rfl rfl rfl

theorem Unfilmed.setBlob (s : State) (o k : Nat) (d : List Byte) : Unfilmed s (s.setBlob o k d) := .of_eq rfl rfl rfl

theorem Unfilmed.eventSeq (s : State) (n : Nat) : Unfilmed s { s with eventSeq := n } := .of_eq rfl rfl rfl

theorem Unfilmed.setExport (s : State) (w : Nat) (e : Export) : Unfilmed s (s.setExport w e) := .of_eq rfl rfl rfl

theorem Unfilmed.count (s : State) (o sub n : Nat) : Unfilmed s (s.count o sub n) :=
  .of_eq (State.count_cores ..) (State.count_hbm ..) (State.count_parts ..)

theorem Unfilmed.setStack (s : State) {k : Nat} {m : Stack} (hm : m.film = (s.stack k).film) : Unfilmed s (s.setStack k m) := by
  refine ⟨fun f => ?_, rfl⟩
  unfold State.film
  split
  · rfl
  · rw [State.stack_setStack]
    split
    next h => rw [hm, h]
    · rfl

theorem Unfilmed.eventRing (s : State) (kind : Nat) (rcd : List Byte) : Unfilmed s (s.eventRing kind rcd) := by
  unfold State.eventRing
  dsimp only
  (repeat' split) <;> exact .of_eq rfl rfl rfl

/-- An event of no partition triggers no trace. -/
theorem Unfilmed.raise (s : State) {e : Event} (he : e.part = none) : Unfilmed s (s.raise e) := by
  unfold State.raise
  extract_lets rcd kept b s1 s2
  have hb : Unfilmed s b := (Unfilmed.setBlob ..).trans (.setNum ..)
  have h1 : Unfilmed s s1 := hb.trans (.eventSeq ..)
  have h2 : Unfilmed s s2 := h1.trans (.eventRing ..)
  rw [he]
  exact h2

theorem Unfilmed.retire (s : State) (k pc : Nat) : Unfilmed s (s.retire k pc) := by
  unfold State.retire
  extract_lets st s1 first gen s2 s3 s4
  split
  · exact .refl s
  · split
    · split
      · exact .refl s
      · exact (Unfilmed.setStack s (by exact rfl)).trans (.raise _ (by exact rfl))
    · have h3 : Unfilmed s s3 := (Unfilmed.setStack s (by exact rfl)).trans ((Unfilmed.setNum ..).trans (.setNum ..))
      have h4 : Unfilmed s s4 := by
        simp only [s4]
        split
        · exact h3.trans (.setNum ..)
        · exact h3
      exact h4.trans (.raise _ (by exact rfl))

theorem Unfilmed.seen (s : State) (p : Place) (ce ue : Nat) : Unfilmed s (s.seen p ce ue) := by
  unfold State.seen
  extract_lets s1 st ceL ueL0 ueL s2
  split
  · exact .refl s
  · have h2 : Unfilmed s s2 := ((Unfilmed.count ..).trans (.count ..)).trans (.setStack s1 (by exact rfl))
    split
    · exact h2.trans (.retire ..)
    · exact h2

theorem Unfilmed.writeDevice (s : State) (img : Ram) (b a n : Nat) : Unfilmed s (s.writeDevice img b a n) := by
  unfold State.writeDevice
  refine foldl_keeps_eq (fun u : State => Unfilmed s u) (fun u hu pc v hv => ?_) _ (.refl s)
  split at hv
  · exact hv ▸ hu
  · rw [← hv]
    refine foldl_keeps_eq (fun x : State => Unfilmed s x) (fun x hx cr y hy => ?_) _ hu
    extract_lets base at hy
    generalize x.dram.mergeErrs base pc.2 = z at hy
    obtain ⟨ce, ue⟩ := z
    rw [← hy]
    exact (hx.trans (.seen x _ ce ue)).trans (.of_eq rfl rfl rfl)

theorem Unfilmed.meshWrite (s : State) (die : Nat) (img : Ram) (b a n : Nat) : Unfilmed s (s.meshWrite die img b a n) := by
  unfold State.meshWrite
  refine foldl_keeps_eq (fun u : State => Unfilmed s u) (fun u hu pc v hv => ?_) _ (.refl s)
  split at hv
  · exact hv ▸ hu
  · split at hv
    · exact hv ▸ hu.trans (.writeDevice ..)
    · exact hv ▸ hu

theorem Unfilmed.negFail (s : State) (w code : Nat) : Unfilmed s (s.negFail w code) := by
  unfold State.negFail
  exact ((Unfilmed.setNum ..).trans (.setNum ..)).trans (.raise _ (by exact rfl))

theorem Unfilmed.negSeal (s : State) (w o : Nat) (d : List Byte) : Unfilmed s (s.negSeal w o d) := by
  unfold State.negSeal
  dsimp only
  split
  · exact .negFail ..
  · split
    · exact .negFail ..
    · exact .setExport ..

theorem Unfilmed.ringAppend (s : State) (die p w o : Nat) (img : Ram) (b n : Nat) : Unfilmed s (s.ringAppend die p w o img b n) := by
  unfold State.ringAppend
  exact ((Unfilmed.meshWrite ..).trans (.meshWrite ..)).trans (.setExport ..)

theorem Unfilmed.negBody (s : State) (die p w o : Nat) (img : Ram) (b n : Nat) : Unfilmed s (s.negBody die p w o img b n) := by
  unfold State.negBody
  extract_lets d s1
  refine Unfilmed.trans (t := s1) ?_ (.ringAppend ..)
  simp only [s1]
  split
  · exact .refl s
  · split
    · exact .negFail ..
    · exact (Unfilmed.setExport ..).trans (.setNum ..)

theorem Unfilmed.stage (s : State) (die p w o : Nat) (img : Ram) (b n : Nat) : Unfilmed s (s.stage die p w o img b n) := by
  unfold State.stage
  split
  · exact .refl s
  · split
    · extract_lets k s1
      have h1 : Unfilmed s s1 := by
        simp only [s1]
        split
        · exact .refl s
        · exact .negSeal ..
      clear_value s1
      split
      · exact h1
      · exact h1.trans (.negBody ..)
    · split
      · exact (Unfilmed.negFail ..).trans (.ringAppend ..)
      · exact .ringAppend ..

end Sys2Proof.Machine
end

section
/-! SUPPORT. Arming and draining a trace, and the packets of a marker. -/

namespace Sys2Proof.Machine

theorem drainMarks_due : ∀ (n : Nat) (l : List FilmRec), (drainMarks n l).filter (fun r => !r.drained) = (l.filter fun r => !r.drained).drop n
  | 0, l => by rw [drainMarks, List.drop_zero]
  | _ + 1, [] => rfl
  | n + 1, r :: l => by
    rw [drainMarks]
    cases hr : r.drained with
    | true => simp [hr, drainMarks_due (n + 1) l]
    | false => simp [hr, drainMarks_due n l]

theorem drainMarks_words : ∀ (n : Nat) (l : List FilmRec), (drainMarks n l).map (·.word) = l.map (·.word)
  | 0, l => by rw [drainMarks]
  | _ + 1, [] => rfl
  | n + 1, r :: l => by
    rw [drainMarks]
    split
    · rw [List.map_cons, List.map_cons, drainMarks_words (n + 1) l]
    · rw [List.map_cons, List.map_cons, drainMarks_words n l]

theorem rangeFrom_nodup (a n : Nat) : (rangeFrom a n).Nodup :=
  List.Nodup.map (fun _ _ h => Nat.add_left_cancel h) List.nodup_range

theorem mem_rangeFrom {a n k : Nat} : k ∈ rangeFrom a n ↔ a ≤ k ∧ k < a + n := by
  unfold rangeFrom
  rw [List.mem_map]
  constructor
  · rintro ⟨x, hx, rfl⟩
    have := List.mem_range.1 hx
    omega
  · exact fun h => ⟨k - a, List.mem_range.2 (by omega), by omega⟩

/-- Every filmstrip of a trace that is armed is an armed ring. -/
theorem State.armTrace_armed (s : State) (p : Nat) : ∀ f ∈ s.filmsOf p, ((s.armTrace p).film f).phase = 1 := by
  have armed : ∀ (l : List Nat) (t : State) f, (f ∈ l ∨ (t.film f).phase = 1) →
      ((t.forEach l fun s f => s.setFilm f { s.film f with recs := [], phase := 1, post := 0 }).film f).phase = 1 := fun l => by
    induction l with
    | nil => exact fun t f h => h.resolve_left (List.not_mem_nil)
    | cons x l ih =>
      refine fun t f h => ih _ f ?_
      dsimp only
      rw [State.film_setFilm]
      split
      · exact .inr rfl
      next hne => exact h.imp_left fun hm => (List.mem_cons.1 hm).resolve_left hne
  have wrap : ∀ (l : List Nat) (t : State) f, (t.film f).phase = 1 → ((t.forEach l State.filmWrap).film f).phase = 1 := fun l t f h =>
    foldl_keeps (fun u : State => (u.film f).phase = 1) (fun u hu g => State.filmWrap_armed hu g) l h
  exact fun f hf => wrap _ _ f (armed _ s f (.inl hf))

theorem Bookkept.filmWrap (s : State) (f : Nat) : Bookkept s (s.filmWrap f) := by
  unfold State.filmWrap
  split
  · exact .refl s
  · split
    · exact .refl s
    · exact .filmPut ..

/-- The new sheet is the latest, and the latest the one before. -/
theorem State.capture_sheets (s : State) (cause p stop : Nat) :
    let t := s.capture cause p stop
    t.num 0x8120 4 = (s.num 0x8120 4 + 1) % 2 ^ 32 ∧ t.blob 0x8120 1 = s.sheet cause p stop ∧ t.blob 0x8120 2 = s.blob 0x8120 1 ∧ t.out = s.out := by
  unfold State.capture
  generalize s.sheet cause p stop = b
  have hnum : ∀ (u : State) n, (u.setNum 0x8120 4 n).num 0x8120 4 = n := fun u n => State.num_setNum_same ..
  have h1 : ∀ (u : State) x, (u.setBlob 0x8120 1 x).blob 0x8120 1 = x := fun u x => (State.blob_setBlob ..).trans (if_pos rfl)
  have h2 : ∀ (u : State) x, (u.setBlob 0x8120 1 x).blob 0x8120 2 = u.blob 0x8120 2 := fun u x => (State.blob_setBlob ..).trans (if_neg (by decide))
  have h3 : ∀ (u : State) x, (u.setBlob 0x8120 2 x).blob 0x8120 2 = x := fun u x => (State.blob_setBlob ..).trans (if_pos rfl)
  exact ⟨hnum _ _, h1 _ _, (h2 _ _).trans (h3 _ _), rfl⟩

/-- The answer to a write puts no record in a filmstrip. -/
theorem Unfilmed.answered (s : State) (path : Path) (o sub op len piece code c : Nat) (d e : List Byte) :
    Unfilmed s ((s.xwNote path o sub op len piece code d).reply path c e) :=
  .of_eq (State.xwNote_cores ..) (State.xwNote_hbm ..) (State.xwNote_parts ..)

/-- Every die of every enabled partition is sent its marker. -/
theorem State.sendMark_sends (s : State) (v : Nat) : ∀ q ∈ s.enabledParts, ∀ d ∈ s.partDies q,
    ∃ h, .packet h [] ∈ (s.sendMark v).out ∧ h.opcode = 0x3E ∧ h.dstDie = BitVec.ofNat 6 d ∧ h.granule = stopField v 0 := by
  have hctl : ∀ (t : State) d p, ∃ (h : TxHeader) (l : Tab LinkSt), t.control 0x3E d p v 0 0 = { t with links := l, out := t.out ++ [.packet h []] } ∧
      h.opcode = 0x3E ∧ h.dstDie = BitVec.ofNat 6 d ∧ h.granule = stopField v 0 := fun t d p => by
    obtain ⟨l, hl⟩ := t.sendPacket_eq { opcode := BitVec.ofNat 6 0x3E, srcDie := BitVec.ofNat 6 (sDie (t.num 0x9200 1)), srcCluster := 0
                                        dstDie := BitVec.ofNat 6 d, dstCluster := 0, msgClass := 3, tag := 0, age := 0
                                        partition := BitVec.ofNat 4 p, granule := stopField v 0, mask := BitVec.ofNat 32 0 } []
    exact ⟨_, l, hl, rfl, rfl, rfl⟩
  have hmore : ∀ (t : State) d p, SaysMore t (t.control 0x3E d p v 0 0) := fun t d p x hx => by
    obtain ⟨h, l, e, -⟩ := hctl t d p
    rw [e]
    exact List.mem_append_left _ hx
  have hdies : ∀ (t : State) p, SaysMore t (t.forEach (t.partDies p) fun s d => s.control 0x3E d p v 0 0) := fun t p =>
    SaysMore.forEach (fun t d => hmore t d p) _ t
  have hsame : ∀ (t : State) p q, (t.forEach (t.partDies p) fun s d => s.control 0x3E d p v 0 0).partDies q = t.partDies q := fun t p q => by
    have : ∀ (l : List Nat) (t : State), (t.forEach l fun s d => s.control 0x3E d p v 0 0).dict = t.dict := fun l => by
      induction l with
      | nil => exact fun _ => rfl
      | cons d l ih =>
        intro t
        obtain ⟨h, k, e, -⟩ := hctl t d p
        refine (ih _).trans ?_
        dsimp only
        rw [e]
    unfold State.partDies State.partClusters State.num
    rw [this]
  have inner : ∀ (l : List Nat) (t : State) p, ∀ d ∈ l, ∃ h, .packet h [] ∈ (t.forEach l fun s d => s.control 0x3E d p v 0 0).out ∧ h.opcode = 0x3E ∧
      h.dstDie = BitVec.ofNat 6 d ∧ h.granule = stopField v 0 := fun l => by
    induction l with
    | nil => exact fun _ _ _ h => absurd h List.not_mem_nil
    | cons x l ih =>
      intro t p d hd
      rcases List.mem_cons.1 hd with rfl | hd
      · obtain ⟨h, k, e, h1, h2, h3⟩ := hctl t d p
        refine ⟨h, SaysMore.forEach (fun t d => hmore t d p) l (t.control 0x3E d p v 0 0) _ ?_, h1, h2, h3⟩
        rw [e]
        exact List.mem_append_right _ (List.mem_singleton.2 rfl)
      · exact ih _ p d hd
  have outer : ∀ (l : List Nat) (t : State), ∀ q ∈ l, ∀ d ∈ t.partDies q, ∃ h, .packet h [] ∈ (t.forEach l fun s p =>
      s.forEach (s.partDies p) fun s d => s.control 0x3E d p v 0 0).out ∧ h.opcode = 0x3E ∧ h.dstDie = BitVec.ofNat 6 d ∧ h.granule = stopField v 0 := fun l => by
    induction l with
    | nil => exact fun _ _ h => absurd h List.not_mem_nil
    | cons x l ih =>
      intro t q hq d hd
      rcases List.mem_cons.1 hq with rfl | hq
      · obtain ⟨h, hm, hh⟩ := inner _ t q d hd
        exact ⟨h, SaysMore.forEach (fun t p => hdies t p) l _ _ hm, hh⟩
      · exact ih _ q hq d ((hsame t x q).symm ▸ hd)
  exact outer _ s

/-- Settles O33, by what a record, an event and a marker leave of the filmstrips. -/
theorem tracesAndSheets : Obligations.TracesAndSheets := by
  unfold Obligations.TracesAndSheets
  intro s path p
  refine ⟨fun strip q hs hq he hph hn => ?_, fun hacc => ?_, fun hacc he h9 hc => ?_, fun die h j q hop hdie hj hopen => ?_, fun value hacc => ?_,
    fun hacc => ?_, fun f => ?_⟩
  · have hexec : exec (.filmstripWrap strip) s = .next ((s.filmZero strip).filmWrap strip) := congrArg Host.Outcome.next (if_pos hs)
    refine ⟨_, hexec, ?_⟩
    have hb : Bookkept s (s.filmZero strip) := .setFilm ..
    have hnum : ∀ o sub, (s.filmZero strip).num o sub = s.num o sub := fun o sub => State.setFilm_num ..
    have hfilm : (s.filmZero strip).film strip = { s.film strip with zero := s.filmCount strip } := (State.film_setFilm ..).trans (if_pos rfl)
    have hts : (s.filmZero strip).filmTs strip = 0 := by
      rw [State.filmTs, hb.filmCount, State.stampOf, hfilm]
      dsimp only
      omega
    have hnow : (s.filmZero strip).now = s.now := by rw [hb.rest]
    rw [State.filmWrap, State.filmPart_congr (fun _ => hnum _ _) (hnum _ _), hq]
    dsimp only
    rw [if_neg (by rw [hb.eff (hnum _ _), he]; simp), hts, hnow, State.filmPut_open (by rw [hfilm]; exact hph) (by rw [hfilm]; exact hn), hfilm]
  · obtain ⟨len, hdo⟩ := State.writeDo_accepted hacc fun s => s.armTrace p.toNat
    have hexec : exec (.traceArm path p) s = .next _ := congrArg Host.Outcome.next hdo
    refine ⟨_, hexec, ?_, ?_, fun f hf => ?_⟩
    · rw [State.reply_num, State.xwNote_num]
      exact State.num_setNum_same ..
    · rw [Told, State.reply_out, State.xwNote_out]
      have hb : Bookkept s (s.armTrace p.toNat) := ((Bookkept.forEach _ (fun t f => .setFilm ..) _ s).trans (.forEach _ (fun t f => .filmWrap t f) _ _)).trans (.setNum ..)
      rw [hb.rest]
    · rw [(Unfilmed.answered (s.armTrace p.toNat) path _ _ _ _ _ _ _ _ _).film f]
      exact State.armTrace_armed s p.toNat f hf
  · obtain ⟨len, hdo⟩ := State.writeDo_accepted hacc fun s => s.trigger p.toNat 0
    have hexec : exec (.traceTrigger path p) s = .next _ := congrArg Host.Outcome.next hdo
    have hb := Bookkept.trigger s p.toNat 0
    refine ⟨_, hexec, ?_, ?_⟩
    · rw [State.reply_num, State.xwNote_num, State.trigger, if_pos ⟨he, h9, hc⟩]
      exact State.num_setNum_same ..
    · rw [Told, State.reply_out, State.xwNote_out, hb.rest]
  · intro f
    have hexec : exec (.mark die h) s = .next (s.marker die.toNat (List.range 16) (h.granule.toNat / 2 ^ 32) 0) :=
      congrArg Host.Outcome.next (if_neg (by rw [hop]; decide))
    have hq : q < 16 := State.filmPart_lt hopen.1
    have hm : f ∈ (rangeFrom (36 * die.toNat) 36).filter fun f => (s.filmPart f).any (List.range 16).contains := by
      refine List.mem_filter.2 ⟨mem_rangeFrom.2 ⟨by omega, by omega⟩, ?_⟩
      rw [show s.filmPart f = some q from hopen.1]
      simpa using hq
    have hwhere : filmWhere f = j / 9 * 16 + j % 9 := by
      unfold filmWhere
      rw [if_pos (by omega)]
      omega
    have htr := State.forEach_trace 0 (h.granule.toNat / 2 ^ 32 % 65536 * 2 ^ 64 + 0 * 2 ^ 63) hopen
      ((rangeFrom_nodup (36 * die.toNat) 36).filter fun f => (s.filmPart f).any (List.range 16).contains)
    have hmark : s.marker die.toNat (List.range 16) (h.granule.toNat / 2 ^ 32) 0 = s.forEach ((rangeFrom (36 * die.toNat) 36).filter fun f =>
        (s.filmPart f).any (List.range 16).contains) fun s f => s.trace f (s.filmTs f) 0x06 0 (h.granule.toNat / 2 ^ 32 % 65536 * 2 ^ 64 + 0 * 2 ^ 63) := by
      rw [State.marker, if_pos hdie]
    rw [if_pos hm, hwhere, ← hmark, Nat.zero_mul, Nat.add_zero] at htr
    refine ⟨_, hexec, ?_, htr⟩
    rw [hmark]
    exact (Bookkept.forEach _ (fun t f => .trace ..) _ s).logged.sameMemory
  · obtain ⟨len, hdo⟩ := State.writeDo_accepted hacc fun s => s.sendMark value.toNat
    have hexec : exec (.markWrite path value) s = .next _ := congrArg Host.Outcome.next hdo
    refine ⟨_, hexec, fun q hq d hd => ?_⟩
    obtain ⟨h, hm, hh⟩ := State.sendMark_sends s value.toNat q hq d hd
    refine ⟨h, ?_, hh⟩
    rw [State.reply_out, State.xwNote_out]
    exact List.mem_append_left _ hm
  · obtain ⟨len, hdo⟩ := State.writeDo_accepted hacc fun s => s.capture 0 0xFFFF 0
    have hexec : exec (.sheetCapture path) s = .next _ := congrArg Host.Outcome.next hdo
    obtain ⟨h4, h1, h2, ho⟩ := State.capture_sheets s 0 0xFFFF 0
    refine ⟨_, hexec, ?_, ?_, ?_, ?_⟩
    · rw [State.reply_num, State.xwNote_num, h4]
    · rw [State.reply_blob, State.xwNote_blob, h1]
    · rw [State.reply_blob, State.xwNote_blob, h2]
    · rw [Told, State.reply_out, State.xwNote_out, ho]
  · intro o w due hw h1 h3 hfree he hfind
    have hexec : exec (.traceDrain p) s = .next (((s.setFilm f { s.film f with recs := drainMarks 15 (s.film f).recs, drainSeq := ((s.film f).drainSeq + 1) % 2 ^ 32 }).modPart p.toNat
        fun q => { q with drained := q.drained + 1 }).stage (if f < 576 then f / 36 else mDie (f - 576)) p.toNat w
          ((s.part p.toNat).drained * 256 % (s.num (0x5700 + w) 3 / 256 * 256)) (Ram.empty.writeRaw 0
            ((filmWord (s.filmTs f) 0x0C 0 (filmWhere f) ((if f < 576 then coreUnit f 0xF else dieUnit (mDie (f - 576))) * 2 ^ 64 + (s.film f).drainSeq % 2 ^ 32 * 2 ^ 32) ::
              (((s.film f).recs.filter fun r => !r.drained).take 15).map FilmRec.word).flatMap fun r => leBytes 16 r.toNat)) 0 256) := by
      show execTraceDrain p s = _
      rw [execTraceDrain]
      dsimp only
      rw [if_neg (by
        simp only [not_or, not_le, not_lt]
        exact ⟨hw, h1, h3, hfree, fun h => h he⟩), show List.find? _ _ = some f from hfind]
    refine ⟨_, hexec, ?_⟩
    have hfilm : (s.setFilm f { s.film f with recs := drainMarks 15 (s.film f).recs, drainSeq := ((s.film f).drainSeq + 1) % 2 ^ 32 }).film f =
        { s.film f with recs := drainMarks 15 (s.film f).recs, drainSeq := ((s.film f).drainSeq + 1) % 2 ^ 32 } := (State.film_setFilm ..).trans (if_pos rfl)
    have hpart : (s.setFilm f { s.film f with recs := drainMarks 15 (s.film f).recs, drainSeq := ((s.film f).drainSeq + 1) % 2 ^ 32 }).part p.toNat = s.part p.toNat := by
      have hb := Bookkept.setFilm s f { s.film f with recs := drainMarks 15 (s.film f).recs, drainSeq := ((s.film f).drainSeq + 1) % 2 ^ 32 }
      rw [State.part, hb.rest]
      rfl
    generalize s.setFilm f { s.film f with recs := drainMarks 15 (s.film f).recs, drainSeq := ((s.film f).drainSeq + 1) % 2 ^ 32 } = u at hfilm hpart ⊢
    have hst := fun die o img => Unfilmed.stage (u.modPart p.toNat fun q => { q with drained := q.drained + 1 }) die p.toNat w o img 0 256
    have hf : ∀ die o img, ((u.modPart p.toNat fun q => { q with drained := q.drained + 1 }).stage die p.toNat w o img 0 256).film f =
        { s.film f with recs := drainMarks 15 (s.film f).recs, drainSeq := ((s.film f).drainSeq + 1) % 2 ^ 32 } := fun die o img => ((hst die o img).film f).trans hfilm
    refine ⟨?_, ?_, ?_⟩
    · show List.filter _ (State.film _ f).recs = _
      rw [hf]
      exact drainMarks_due ..
    · rw [hf]
      exact drainMarks_words ..
    · rw [State.part, (hst ..).parts]
      exact (congrArg Part.drained (State.part_modPart_same ..)).trans (congrArg (fun x : Part => x.drained + 1) hpart)

end Sys2Proof.Machine
end

section
/-! SUPPORT. Messages between modules: those sent, and those put together from their writes. -/

namespace Sys2Proof.Machine

theorem State.count_eq (s : State) (o sub n : Nat) : ∃ l, s.count o sub n = { s with localCounts := l } := by
  unfold State.count
  split
  · exact ⟨s.localCounts, rfl⟩
  · exact ⟨_, rfl⟩

theorem State.emitColl_eq (s : State) (m : CollMsg) (payload : List CodeWord) (port id : Nat) :
    ∃ o, s.emitColl m payload port id = { s with out := s.out ++ o } := by
  unfold State.emitColl
  dsimp only
  generalize ((chunksOf 512 (payload.length / 512 + 1) payload).zipIdx.map fun x => Output.uio _ _ _ _) = l
  exact ⟨_, congrArg (fun o => ({ s with out := o } : State)) (List.append_assoc s.out [_] l)⟩

/-- A message that leaves by a port, under a number of it, is out there until it is acknowledged. -/
theorem State.launchSent_sent {s : State} {x : Sent} {q id : Nat} (h : s.freeId x.msg.dstModule.toNat x.used = some id) :
    ∃ o l, s.launchSent x (some q) =
      { s with out := s.out ++ o, localCounts := l, coll := { s.coll with sent := s.coll.sent ++ [{ x with port := q, msgId := id }] } } := by
  obtain ⟨o, ho⟩ := s.emitColl_eq x.msg x.payload q id
  unfold State.launchSent
  rw [h]
  dsimp only
  rw [ho]
  split
  next i _ =>
    obtain ⟨l, hl⟩ := ({ s with out := s.out ++ o } : State).count_eq (0x8010 + i.part) 6 (8 * x.payload.length)
    exact ⟨o, l, by rw [hl]; rfl⟩
  · exact ⟨o, s.localCounts, rfl⟩

/-- A module to which nothing is out has every number but the used one free. -/
theorem State.freeId_one {s : State} (h : s.coll.sent = []) (m k : Nat) : s.freeId m [k] = some (if k = 0 then 1 else 0) := by
  unfold State.freeId
  rw [h]
  by_cases hk : k = 0
  · subst hk
    rfl
  · rw [if_neg hk, show List.range 16 = 0 :: [1, 2, 3, 4, 5, 6, 7, 8, 9, 10, 11, 12, 13, 14, 15] from rfl]
    refine List.find?_cons_of_pos ?_
    simpa using fun h => hk h.symm

/-- A message that is sent again goes by the next port, under a number it has not had. -/
theorem State.resend_one {s : State} {x : Sent} {q : Nat} (hs : s.coll.sent = [x]) (hp : x.port ≠ 0xFF) (hr : x.resends < 3)
    (hq : s.portAfter x.msg x.port = some q) :
    s.resend 0 = (s.setSent []).launchSent { x with resends := x.resends + 1, used := x.ids } (some q) := by
  have hids : x.ids.isEmpty = false := by
    rw [Sent.ids, if_neg hp]
    rfl
  have hport : (s.setSent []).portAfter x.msg x.port = some q := hq
  unfold State.resend
  rw [hs, List.getElem?_cons_zero]
  dsimp only
  rw [hids, Bool.false_and, if_neg (by decide), if_neg (by omega), ← hport]
  rfl

theorem State.checkHead_clean {s : State} {port : Nat} {ws : List CodeWord} (h : ∀ w ∈ ws, eccCheck w = .clean) : s.checkHead port ws = (s, true) := by
  have hbad : (ws.filter fun w => decide (eccCheck w = .uncorrectable)) = [] := List.filter_eq_nil_iff.2 fun w hw => by rw [h w hw]; decide
  have hce : (ws.filter fun w => decide (eccCheck w ≠ .clean) && decide (eccCheck w ≠ .uncorrectable)) = [] :=
    List.filter_eq_nil_iff.2 fun w hw => by rw [h w hw]; decide
  rw [State.checkHead, hbad, hce]
  rfl

/-- The message of a write at offset 0: a header of eight words, and no payload. -/
theorem Assembly.message_head (src id : Nat) (d : List CodeWord) (h : d.length < 8) : (Assembly.mk src id [(0, d)]).message = none := by
  unfold Assembly.message
  rw [List.find?_eq_none.2 (by simpa using h)]

theorem Assembly.message_whole (src id : Nat) {d : List CodeWord} (h : 8 ≤ d.length) (hp : payloadLen (collOfBytes (wordBytes (d.map eccCorrect))) = 0) :
    (Assembly.mk src id [(0, d)]).message = some (collOfBytes (wordBytes (d.map eccCorrect)), []) := by
  have hf : [(0, d)].find? (fun e => e.1 == 0 && decide (8 ≤ e.2.length)) = some (0, d) := List.find?_cons_of_pos (by simpa using h)
  have hd : (Assembly.mk src id [(0, d)]).payload 2049 0x1000 = [] := rfl
  unfold Assembly.message
  rw [hf]
  dsimp only
  rw [hd, hp, if_pos (Nat.zero_le _)]
  rfl

theorem State.setAssembly_same (s : State) : ({ s with coll := { s.coll with assembly := s.coll.assembly } } : State) = s := rfl

/-- A sound write at the head of a message that no other write has begun. -/
theorem execUioWriteReceive_head {s : State} {port : BitVec 3} {addr : BitVec 64} {data : List CodeWord} {src id : Nat}
    (hs : src < 2 ^ 17) (hi : id < 16) (ha : addr.toNat = s.num 0x6100 8 + src * 2 ^ 27 + id * 2 ^ 23) (hup : s.num (0x6000 + port.toNat) 1 = 1)
    (hn : port.toNat ≠ 0) (hk : s.num 0x6000 5 = 0) (hnew : ∀ a ∈ s.coll.assembly, ¬ (a.src = src ∧ a.msgId = id)) (hd : data ≠ [])
    (hc : ∀ w ∈ data.take 8, eccCheck w = .clean) :
    exec (.uioWriteReceive port addr data) s = .next (match (Assembly.mk src id [(0, data)]).message with
      | none => { s.emit (.uioCompletion port.toNat addr.toNat) with coll := { s.coll with assembly := s.coll.assembly ++ [⟨src, id, [(0, data)]⟩] } }
      | some (m, d) => (s.emit (.uioCompletion port.toNat addr.toNat)).receiveMsg m d) := by
  have ho : addr.toNat - s.num 0x6100 8 = src * 2 ^ 27 + id * 2 ^ 23 := by omega
  have h1 : (src * 2 ^ 27 + id * 2 ^ 23) / 2 ^ 27 = src := by omega
  have h2 : (src * 2 ^ 27 + id * 2 ^ 23) / 2 ^ 23 % 16 = id := by omega
  have h3 : (src * 2 ^ 27 + id * 2 ^ 23) % 2 ^ 23 = 0 := by omega
  have hkey : s.keyed port.toNat = true := by
    rw [State.keyed, hk]
    rfl
  have hfind : s.coll.assembly.find? (fun a => a.src == src && a.msgId == id) = none := List.find?_eq_none.2 fun a h => by simpa using hnew a h
  have hrest : (s.coll.assembly.filter fun a => !(a.src == src && a.msgId == id)) = s.coll.assembly := List.filter_eq_self.2 fun a h => by simpa [imp_iff_not_or] using hnew a h
  show execUioWriteReceive port addr data s = _
  rw [execUioWriteReceive]
  dsimp only
  rw [ho, if_neg (by
    simp only [not_or]
    refine ⟨hn, by omega, by omega, by simpa using hd, by simpa using hup, by simp [hkey]⟩), h1, h2, h3, hfind, hrest, if_pos rfl, State.checkHead_clean hc]
  dsimp only
  rfl

/-- Settles O32, by what one message between modules changes of those that are out. -/
theorem messagesBetweenModules : Obligations.MessagesBetweenModules := by
  unfold Obligations.MessagesBetweenModules
  intro s port n
  refine ⟨fun addr data src id hs hi ha hup hn hk hnew hd hc => ?_, fun module msgId => ?_, fun hn hup => ?_, fun path p hacc => ?_⟩
  · intro m u
    have hexec := execUioWriteReceive_head hs hi ha hup hn hk hnew hd hc
    refine ⟨fun hl hkind => ?_, fun hl => ?_⟩
    · have hp : payloadLen m = 0 := by
        unfold payloadLen
        rw [if_neg (by rw [hkind]; decide)]
      rw [hexec, Assembly.message_whole src id hl hp]
      show _ = execCack m u
      rw [execCack, State.ofKind, if_pos (by rw [hkind]; decide)]
    · rw [Assembly.message_head src id data hl] at hexec
      exact ⟨_, hexec, rfl⟩
  · refine ⟨_, rfl, fun a => ?_, rfl⟩
    rw [List.mem_filter]
    simp [imp_iff_not_or]
  · intro u
    have hexec : exec (.fabricPortLeavesService port) s = .next (u.forEach (u.coll.sent.filter fun x => x.port == n) fun s x =>
        match findIdx (fun y => decide (y = x)) s.coll.sent with
        | some (k, _) => s.resend k
        | none => s) := congrArg Host.Outcome.next (if_neg (by simpa using ⟨hn, hup⟩))
    refine ⟨fun h => ?_, fun x q id hsent hport hres hused hq hid => ?_⟩
    · rw [hexec, show (u.coll.sent.filter fun x => x.port == n) = [] from List.filter_eq_nil_iff.2 fun x hx => by simpa using h x hx]
      rfl
    · have hbyte : x.port ≠ 0xFF := by
        have := port.isLt
        rw [hport]
        omega
      have hone : (u.coll.sent.filter fun x => x.port == n) = [x] := by
        rw [show u.coll.sent = [x] from hsent, List.filter_singleton, hport, beq_self_eq_true]
        rfl
      have hfind : findIdx (fun y => decide (y = x)) u.coll.sent = some (0, x) := by
        rw [show u.coll.sent = [x] from hsent, findIdx, if_pos (decide_eq_true rfl)]
      rw [hone, State.forEach_one, hfind] at hexec
      dsimp only at hexec
      rw [State.resend_one (s := u) hsent hbyte hres (by rw [hport]; exact hq)] at hexec
      obtain ⟨o, l, hl⟩ := State.launchSent_sent (s := u.setSent []) (x := { x with resends := x.resends + 1, used := x.ids }) (q := q)
        (show (u.setSent []).freeId _ x.ids = _ by rw [Sent.ids, if_neg hbyte, hused]; exact State.freeId_one rfl _ x.msgId)
      rw [hl] at hexec
      refine ⟨_, hexec, State.num_setNum_same .., ?_⟩
      rw [Sent.ids, if_neg hbyte, hused, hid]
      rfl
  · obtain ⟨len, hdo⟩ := State.writeDo_accepted hacc fun s => s.collReset p.toNat
    have hexec : exec (.collReset path p) s = .next _ := congrArg Host.Outcome.next hdo
    refine ⟨_, hexec, ?_, ?_⟩
    · rw [State.reply_part, State.xwNote_part]
      exact congrArg Part.groupSeq (State.part_modPart_same s p.toNat fun q => { q with groupSeq := [] })
    · rw [Told, State.reply_out, State.xwNote_out]
      rfl

end Sys2Proof.Machine
end

section
/-! SUPPORT. A client outside the table whose entry's place is read from the objects of the event ring. -/

namespace Sys2Proof.Machine

/-- Watched line 4096 + 8 + 0x1E00: as a codec channel it would have the object 0x9000, the event ring's. -/
def StrayWatch.line : Nat := 4096 + 8 + 0x1E00

/-- The word at address 0 has a correctable error, and one error retires a channel: its event moves the write index of the event ring,
and with it the place of the stray watched entry, onto the bytes written. -/
def StrayWatch.state : State :=
  { State.reset with
    dict := [(objKey 0x2000 1, some 1), (objKey 0x5500 2, some 1), (objKey 0x5500 3, some 1), (objKey 0x6000 1, some 1), (objKey 0x9000 1, some 1),
             (objKey 0x9000 2, some 64), (objKey 0x9000 3, some 0), (objKey 0x9000 4, some 4), (objKey 0x9000 5, some 0xFFFF), (objKey 0x9000 6, some 5)]
    dram := ⟨[], [(0, 1)]⟩
    clients := [(StrayWatch.line, ⟨0, [], true⟩)]
    host := { State.reset.host with flit256 := true, dec1 := ⟨true, false, 0, 4096⟩ } }

/-- The write is learned of by the stray line, which reads its entry again. -/
theorem StrayWatch.learned : ∃ t, exec (.hostMemWrite 1 0 [1]) StrayWatch.state = .next t ∧ (t.watch StrayWatch.line).reads = 1 :=
  ⟨_, rfl, by decide +kernel⟩

/-- Refutes O39: the bytes written over a correctable error retire a channel, whose event moves the entry of a client numbered beyond the table
onto them; the host port then reads that entry again, and more than the bytes has changed. -/
theorem not_hostPortServes : ¬ Obligations.HostPortServes := by
  unfold Obligations.HostPortServes
  intro h
  obtain ⟨hw, -⟩ := h StrayWatch.state 1 0
  have hstore := (hw (0, 0, 1) [1] rfl (by decide +kernel)).1 (by decide +kernel)
  obtain ⟨t, ht, hr⟩ := StrayWatch.learned
  rw [ht] at hstore
  obtain rfl : t = StrayWatch.state.storeBytes (xDie 0) 0 [1] := by injection hstore
  exact absurd hr (by decide +kernel)

end Sys2Proof.Machine
end

section
/-! SUPPORT. Stop baths: the packets that tell of one, and the units of the cores it held. -/

namespace Sys2Proof.Machine

theorem State.control_eq (s : State) (op d p hi lo mask : Nat) :
    ∃ h k, s.control op d p hi lo mask = { s with links := k, out := s.out ++ [.packet h []] } ∧ h.opcode = BitVec.ofNat 6 op ∧ h.dstDie = BitVec.ofNat 6 d := by
  obtain ⟨k, hk⟩ := s.sendPacket_eq { opcode := BitVec.ofNat 6 op, srcDie := BitVec.ofNat 6 (sDie (s.num 0x9200 1)), srcCluster := 0
                                      dstDie := BitVec.ofNat 6 d, dstCluster := 0, msgClass := 3, tag := 0, age := 0
                                      partition := BitVec.ofNat 4 p, granule := stopField hi lo, mask := BitVec.ofNat 32 mask } []
  exact ⟨_, k, hk, rfl, rfl⟩

/-- A control packet to every die of a list: nothing else has changed but the ports they left by. -/
theorem State.forEach_control (op p hi lo mask : Nat) (l : List Nat) (s : State) :
    ∃ k o, s.forEach l (fun s d => s.control op d p hi lo mask) = { s with links := k, out := s.out ++ o } ∧
      ∀ d ∈ l, ∃ h, .packet h [] ∈ o ∧ h.opcode = BitVec.ofNat 6 op ∧ h.dstDie = BitVec.ofNat 6 d := by
  induction l generalizing s with
  | nil => exact ⟨s.links, [], by rw [List.append_nil]; rfl, fun _ h => absurd h List.not_mem_nil⟩
  | cons d l ih =>
    obtain ⟨h, k1, h1, hop, hd⟩ := s.control_eq op d p hi lo mask
    obtain ⟨k, o, hr, ho⟩ := ih (s.control op d p hi lo mask)
    rw [h1] at hr
    refine ⟨k, [.packet h []] ++ o, ?_, fun e he => ?_⟩
    · rw [← List.append_assoc]
      exact (congrArg (fun u : State => u.forEach l fun s d => s.control op d p hi lo mask) h1).trans hr
    · rcases List.mem_cons.1 he with rfl | he
      · exact ⟨h, List.mem_append_left _ (List.mem_singleton.2 rfl), hop, hd⟩
      · obtain ⟨h, hm, hh⟩ := ho e he
        exact ⟨h, List.mem_append_right _ hm, hh⟩

/-- A bath that is armed is named and told of. -/
theorem State.armStop_armed {s : State} {p : Nat} (hd : s.debugOn p = true) :
    let o := 0x8130 + p
    let b : StopBath := ⟨s.num o 1, s.num o 2, s.num o 3, s.num o 4, s.num o 5, s.num o 6, [], []⟩
    s.stopAhead p b = true → ∃ t, s.armStop p = (t, 0) ∧ (t.part p).stop = some b ∧ t.num o 8 = 1 ∧ t.num o 0xA = (s.num o 0xA + 1) % 65536 ∧
      ∀ d ∈ s.partDies p, ∃ h, .packet h [] ∈ t.out ∧ h.opcode = 0x3C ∧ h.dstDie = BitVec.ofNat 6 d := by
  intro o b ha
  let id := (s.num o 0xA + 1) % 65536
  let u := (((s.setNum o 8 1).setNum o 0xA id).setNum o 0xB 0).modPart p fun q => { q with stop := some b }
  let lo := if b.mode = 0 then u.stopTime p b else b.key
  have harm : s.armStop p = ((u.forEach (u.partDies p) fun s d => s.control 0x3C d p id lo (if b.mode = 0 then b.stepSeq else b.epoch)).drawn, 0) := by
    unfold State.armStop
    dsimp only
    rw [if_neg (by rw [hd]; decide), if_neg (by rw [show s.stopAhead p _ = true from ha]; decide)]
  have hdies : u.partDies p = s.partDies p := by
    unfold State.partDies State.partClusters
    have hn : u.num (0x2100 + p) 1 = s.num (0x2100 + p) 1 :=
      (State.num_setNum_ne _ _ (by unfold objKey; omega)).trans ((State.num_setNum_ne _ _ (by unfold objKey; omega)).trans
        (State.num_setNum_ne _ _ (by unfold objKey; omega)))
    rw [hn]
  have h8 : u.num o 8 = 1 := (State.num_setNum_ne _ _ (by unfold objKey; omega)).trans ((State.num_setNum_ne _ _ (by unfold objKey; omega)).trans
    (State.num_setNum_same ..))
  have hA : u.num o 0xA = id := (State.num_setNum_ne _ _ (by unfold objKey; omega)).trans (State.num_setNum_same ..)
  have hp : (u.part p).stop = some b := congrArg Part.stop (State.part_modPart_same _ p fun q => { q with stop := some b })
  clear_value lo u
  obtain ⟨k, l, hk, hl⟩ := State.forEach_control 0x3C p id lo (if b.mode = 0 then b.stepSeq else b.epoch) (u.partDies p) u
  rw [hk] at harm
  refine ⟨_, harm, hp, h8, hA, fun d hm => ?_⟩
  obtain ⟨h, hm, hh⟩ := hl d (hdies ▸ hm)
  exact ⟨h, List.mem_append_right _ hm, hh⟩

theorem State.armStop_refused {s : State} {p : Nat} (hd : s.debugOn p = false) : s.armStop p = (s, 0x0103) := by
  unfold State.armStop
  dsimp only
  rw [if_pos (by rw [hd]; decide)]

theorem State.forEach_cons {α : Type} (s : State) (x : α) (l : List α) (f : State → α → State) : s.forEach (x :: l) f = (f s x).forEach l f := rfl

/-- The halts of a core's units are those it had, the others of its state too. -/
theorem State.accountCore_unit (s : State) (pc j u : Nat) : (((s.accountCore pc).core j).sq.unit u).halt = ((s.core j).sq.unit u).halt ∧
    ((s.accountCore pc).core j).sq.flights = (s.core j).sq.flights := by
  have hcount : ∀ (t : State) o k n, (t.count o k n).core j = t.core j := fun t o k n => State.count_core ..
  have hmod : ∀ (t r : State) v (w : UnitSt), r.core j = t.core j → w.halt = ((t.core pc).sq.unit v).halt →
      (((r.modCore pc fun k => { k with sq := k.sq.setUnit v w }).core j).sq.unit u).halt = ((t.core j).sq.unit u).halt ∧
        ((r.modCore pc fun k => { k with sq := k.sq.setUnit v w }).core j).sq.flights = (t.core j).sq.flights := fun t r v w hr hw => by
    rw [State.core_modCore]
    split
    next h =>
      subst h
      rw [hr]
      dsimp only
      rw [Seqr.unit_setUnit]
      refine ⟨?_, rfl⟩
      split
      next h => rw [hw, h]
      · rfl
    · rw [hr]
      exact ⟨rfl, rfl⟩
  have haccount : ∀ (t : State) v, (((t.account pc v).core j).sq.unit u).halt = ((t.core j).sq.unit u).halt ∧
      ((t.account pc v).core j).sq.flights = (t.core j).sq.flights := fun t v => by
    unfold State.account
    dsimp only
    refine hmod t _ v _ ?_ rfl
    split
    · rfl
    · exact hcount ..
    · exact (hcount ..).trans (hcount ..)
    · exact (hcount ..).trans (hcount ..)
    · split
      · rfl
      · exact ((hcount ..).trans (hcount ..)).trans (hcount ..)
  have hall : ∀ (l : List Nat) (t : State), (((t.forEach l fun s u => s.account pc u).core j).sq.unit u).halt = ((t.core j).sq.unit u).halt ∧
      ((t.forEach l fun s u => s.account pc u).core j).sq.flights = (t.core j).sq.flights := fun l => by
    induction l with
    | nil => exact fun _ => ⟨rfl, rfl⟩
    | cons v l ih =>
      intro t
      rw [State.forEach_cons]
      obtain ⟨h1, h2⟩ := ih (t.account pc v)
      obtain ⟨g1, g2⟩ := haccount t v
      exact ⟨h1.trans g1, h2.trans g2⟩
  rw [State.accountCore]
  exact hall (List.range 5) s

end Sys2Proof.Machine
end

section
/-! SUPPORT. A bath that is released, with no collective under way. -/

namespace Sys2Proof.Machine

/-- What a released bath leaves of a halt. -/
def Halt.woken (h : Halt) : Halt := if h = .bath then .running else h

theorem Halt.woken_woken (h : Halt) : h.woken.woken = h.woken := by
  unfold Halt.woken
  by_cases hb : h = .bath
  · rw [if_pos hb]
    rfl
  · rw [if_neg hb, if_neg hb]

/-- A core whose units the bath no longer holds. -/
def Core.woken (k : Core) : Core :=
  { k with sq := { k.sq with units := (List.range 5).foldl (fun us u => tabMod UnitSt.idle us u fun v => { v with halt := v.halt.woken }) k.sq.units } }

theorem Core.woken_unit (k : Core) {u : Nat} (hu : u < 5) : (k.woken.sq.unit u).halt = (k.sq.unit u).halt.woken := by
  have hget : ∀ (t : Tab UnitSt) j i, tabGet UnitSt.idle (tabMod UnitSt.idle t j fun v => { v with halt := v.halt.woken }) i =
      if i = j then { tabGet UnitSt.idle t j with halt := (tabGet UnitSt.idle t j).halt.woken } else tabGet UnitSt.idle t i := fun t j i => tabGet_tabSet ..
  unfold Core.woken Seqr.unit
  dsimp only
  rw [show List.range 5 = [0, 1, 2, 3, 4] from rfl]
  simp only [List.foldl_cons, List.foldl_nil, hget]
  interval_cases u <;> simp

theorem Core.woken_flights (k : Core) : k.woken.sq.flights = k.sq.flights := by
  unfold Core.woken
  dsimp only

/-- The cores of a list, their units awake. -/
def State.wakeCores (s : State) (l : List Nat) : State := s.forEach l fun s pc => (s.accountCore pc).modCore pc Core.woken

theorem Resequenced.wakeCores (s : State) (l : List Nat) : Resequenced s (s.wakeCores l) :=
  .forEach (fun t c => (Resequenced.accountCore t c).trans (.modCore _ c fun _ => ⟨_, rfl⟩)) _ _

theorem State.wakeCores_unit (l : List Nat) (s : State) (pc : Nat) {u : Nat} (hu : u < 5) :
    (((s.wakeCores l).core pc).sq.unit u).halt = (if pc ∈ l then ((s.core pc).sq.unit u).halt.woken else ((s.core pc).sq.unit u).halt) ∧
      ((s.wakeCores l).core pc).sq.flights = (s.core pc).sq.flights := by
  have hone : ∀ (t : State) c, (((((t.accountCore c).modCore c Core.woken).core pc).sq.unit u).halt =
      if pc = c then ((t.core pc).sq.unit u).halt.woken else ((t.core pc).sq.unit u).halt) ∧
      (((t.accountCore c).modCore c Core.woken).core pc).sq.flights = (t.core pc).sq.flights := fun t c => by
    obtain ⟨h1, h2⟩ := t.accountCore_unit c pc u
    rw [State.core_modCore]
    split
    next h =>
      subst h
      exact ⟨(Core.woken_unit _ hu).trans (congrArg Halt.woken h1), (Core.woken_flights _).trans h2⟩
    · exact ⟨h1, h2⟩
  unfold State.wakeCores
  induction l generalizing s with
  | nil => exact ⟨rfl, rfl⟩
  | cons c l ih =>
    rw [State.forEach_cons]
    obtain ⟨h1, h2⟩ := ih ((s.accountCore c).modCore c Core.woken)
    obtain ⟨g1, g2⟩ := hone s c
    refine ⟨h1.trans ?_, h2.trans g2⟩
    rw [g1]
    by_cases hc : pc = c
    · simp [hc, Halt.woken_woken]
    · simp [hc]

/-- The cores that run a step of a partition. -/
def State.coresOf (s : State) (p : Nat) : List Nat := (List.range 576).filter fun pc => ((s.core pc).run.map (·.part)) == some p

/-- The partition has no bath, and the cores it held go on. -/
def State.unbathed (s : State) (p : Nat) : State := ((s.modPart p fun q => { q with stop := none }).setNum (0x8130 + p) 8 0).wakeCores (s.coresOf p)

theorem State.unbathed_rest (s : State) (p : Nat) :
    s.unbathed p = { s with dict := (s.setNum (0x8130 + p) 8 0).dict, parts := (s.modPart p fun q => { q with stop := none }).parts,
                            localCounts := (s.unbathed p).localCounts, cores := (s.unbathed p).cores } :=
  (Resequenced.wakeCores ((s.modPart p fun q => { q with stop := none }).setNum (0x8130 + p) 8 0) (s.coresOf p)).rest

/-- A bath that is released while no collective is under way: its cores go on, and nothing else is due. -/
theorem State.releaseStop_alone {s : State} (hi : s.coll.insts = []) (p : Nat) :
    ∃ c : CollUnit, s.releaseStop p = { s.unbathed p with coll := c } ∧ c.insts = [] := by
  have hcoll : (s.unbathed p).coll = s.coll := by
    rw [State.unbathed_rest]
  have hinst : ∀ (t : State), t.coll.insts = [] → ∀ g q, t.inst g q = none := fun t ht g q => by rw [State.inst, ht]; rfl
  obtain ⟨t, ht⟩ : ∃ t, s.releaseStop p = t := ⟨_, rfl⟩
  rw [ht]
  unfold State.releaseStop at ht
  extract_lets s1 heldWake s2 ofP mine cu s3 s4 work cv s5 at ht
  have h2 : s.unbathed p = s2 := rfl
  rw [h2] at hcoll ⊢
  clear_value s2
  have hc2 : s2.coll.insts = [] := by rw [hcoll]; exact hi
  have hmine : mine = [] := List.filter_eq_nil_iff.2 fun e _ => by
    simp only [ofP]
    rw [hinst s2 hc2]
    exact Bool.false_ne_true
  have h4 : s4 = s3 := by
    simp only [s4, hmine]
    exact State.forEach_nil ..
  have hc4 : s4.coll.insts = [] := by rw [h4]; exact hc2
  have hwork : work = [] := List.filter_eq_nil_iff.2 fun w _ => by
    rw [hinst s4 hc4]
    exact Bool.false_ne_true
  have h5 : s5 = { s4 with coll := { s4.coll with parked := s4.coll.parked.filter fun w => !work.contains w } } := by
    simp only [s5]
    rw [hwork]
    exact State.forEach_nil ..
  have hc5 : s5.coll.insts = [] := by rw [h5]; exact hc4
  rw [hc5, List.filter_nil, List.map_nil, State.forEach_nil, h5, h4] at ht
  exact ⟨_, ht.symm, hc2⟩

end Sys2Proof.Machine
end

section
/-! SUPPORT. Cores that go on from a breakpoint, and dies that a bath reaches. -/

namespace Sys2Proof.Machine

/-- A frozen core goes on: its hit is cleared, and its memories and the instructions in flight are as they were. -/
theorem State.thaw_frozen {s : State} {c pc : Nat} (hp : s.physOf c = some pc) (hf : (s.core pc).frozen = true) (single : Nat) :
    let t := s.thaw c single
    (t.core pc).frozen = false ∧ (t.core pc).single = single ∧ t.num (bpObj c) 0xD = 0 ∧ (t.core pc).sq.flights = (s.core pc).sq.flights ∧
      SameMemory s t ∧ t.out = s.out := by
  intro t
  have ht : t = ((s.accountCore pc).modCore pc fun k => { k with frozen := false, frozenAt := 0, single := single }).setNum (bpObj c) 0xD 0 := by
    simp only [t]
    rw [State.thaw, hp]
    dsimp only
    rw [if_neg (by rw [hf]; decide)]
  have hr := Resequenced.accountCore s pc
  have hfl := (s.accountCore_unit pc pc 0).2
  clear_value t
  subst ht
  generalize s.accountCore pc = u at hr hfl
  rw [State.setNum_core, State.core_modCore_same]
  refine ⟨rfl, rfl, State.num_setNum_same .., hfl, hr.sameMemory.trans ⟨fun k => ?_, fun _ => rfl, rfl⟩, by rw [hr.rest]; rfl⟩
  rw [State.setNum_core, State.core_modCore]
  split
  next h => rw [h]; exact ⟨rfl, rfl⟩
  · exact ⟨rfl, rfl⟩

theorem Bookkept.marker (s : State) (die : Nat) (ps : List Nat) (value bath : Nat) : Bookkept s (s.marker die ps value bath) :=
  .forEach _ (fun t f => .trace t f _ _ _ _) _ s

theorem State.marker_num {o sub : Nat} (hs : sub < 256) (h9 : sub ≠ 9) (hA : sub ≠ 0x0A) (s : State) (die : Nat) (ps : List Nat) (value bath : Nat) :
    (s.marker die ps value bath).num o sub = s.num o sub :=
  State.forEach_num (fun t f => State.trace_num hs h9 hA t f ..) _ s

theorem State.capture_parts (s : State) (cause p stop : Nat) : (s.capture cause p stop).parts = s.parts := by
  unfold State.capture
  generalize s.sheet cause p stop = b
  rfl

theorem State.capture_num {s : State} {o sub : Nat} (h : objKey o sub ≠ objKey 0x8120 4) (cause p stop : Nat) :
    (s.capture cause p stop).num o sub = s.num o sub := by
  unfold State.capture
  generalize s.sheet cause p stop = b
  exact State.num_setNum_ne _ _ h

theorem State.cut_parts (u : State) (p n : Nat) : (((u.setNum (0x8130 + p) 8 3).capture 2 p n).trigger p 5).parts = u.parts := by
  have hc := State.capture_parts (u.setNum (0x8130 + p) 8 3) 2 p n
  generalize (u.setNum (0x8130 + p) 8 3).capture 2 p n = v at hc ⊢
  exact (Bookkept.trigger v p 5).logged.parts.trans hc

theorem State.cut_num {p : Nat} (hp : p < 16) (u : State) (n : Nat) : (((u.setNum (0x8130 + p) 8 3).capture 2 p n).trigger p 5).num (0x8130 + p) 8 = 3 := by
  rw [State.trigger_num (by decide) (by decide) (by decide), State.capture_num (by unfold objKey; omega)]
  exact State.num_setNum_same ..

/-- What the cut of a bath settles leaves the bath, and is noted when every die of its step has stopped. -/
theorem State.settleCut_stop {s : State} {p : Nat} (hp : p < 16) {b : StopBath} (hb : (s.part p).stop = some b) :
    ((s.settleCut p).part p).stop = some b ∧
      ∀ x, s.bathStep p b = some x → (s.stepDies x).all b.stoppedDies.contains = true → s.coll.insts = [] → s.conductor.inOffice = true →
        s.num (0x8130 + p) 8 = 2 → (s.settleCut p).num (0x8130 + p) 8 = 3 := by
  obtain ⟨t, ht⟩ : ∃ t, s.settleCut p = t := ⟨_, rfl⟩
  rw [ht]
  unfold State.settleCut at ht
  rw [hb] at ht
  dsimp only at ht
  split at ht
  next hn =>
    subst ht
    refine ⟨hb, fun x hx => ?_⟩
    rw [hx] at hn
    cases hn
  next x hx =>
    split at ht
    · refine ⟨?_, fun _ _ _ _ _ _ => by rw [← ht, State.cut_num hp]⟩
      rw [← ht, State.part, State.cut_parts]
      exact (congrArg Part.stop (State.part_modPart_same s p fun q => { q with hangAt := none, lastHang := some s.now })).trans hb
    next hcond =>
      subst ht
      refine ⟨hb, fun y hy hall hi ho h2 => absurd ?_ hcond⟩
      rw [hx] at hy
      obtain rfl := Option.some.inj hy
      exact ⟨ho, h2, hall, by rw [hi]; rfl⟩

/-- What a released bath leaves, with no collective under way. -/
theorem State.releaseStop_left {s : State} (hi : s.coll.insts = []) (p : Nat) :
    (s.releaseStop p).parts = (s.modPart p fun q => { q with stop := none }).parts ∧
      (∀ o sub, (s.releaseStop p).num o sub = (s.setNum (0x8130 + p) 8 0).num o sub) ∧ (s.releaseStop p).out = s.out ∧
      ∀ pc, (s.releaseStop p).core pc = (s.unbathed p).core pc := by
  obtain ⟨cu, hrel, -⟩ := State.releaseStop_alone hi p
  have hrest := s.unbathed_rest p
  have hparts : (s.unbathed p).parts = (s.modPart p fun q => { q with stop := none }).parts := by rw [hrest]
  have hdict : (s.unbathed p).dict = (s.setNum (0x8130 + p) 8 0).dict := by rw [hrest]
  have hout : (s.unbathed p).out = s.out := by rw [hrest]
  generalize s.unbathed p = v at hrel hparts hdict hout
  rw [hrel]
  exact ⟨hparts, fun o sub => by rw [State.num, State.num, hdict], hout, fun _ => rfl⟩

theorem State.unbathed_core (s : State) (p pc : Nat) : ((s.unbathed p).core pc).run = (s.core pc).run ∧ ((s.unbathed p).core pc).sq.flights = (s.core pc).sq.flights := by
  have hcore : ((s.modPart p fun q => { q with stop := none }).setNum (0x8130 + p) 8 0).core pc = s.core pc := by rw [State.setNum_core, State.modPart_core]
  rw [State.unbathed]
  generalize (s.modPart p fun q => { q with stop := none }).setNum (0x8130 + p) 8 0 = u at hcore ⊢
  obtain ⟨q, hq⟩ := (Resequenced.wakeCores u (s.coresOf p)).core pc
  refine ⟨by rw [hq, hcore], ?_⟩
  rw [(State.wakeCores_unit (s.coresOf p) u pc (show 0 < 5 by decide)).2, hcore]

theorem SameMemory.answered (s : State) (path : Path) (o sub op len piece code c : Nat) (d e : List Byte) :
    SameMemory s ((s.xwNote path o sub op len piece code d).reply path c e) := by
  refine ⟨fun k => ?_, fun k => ?_, ?_⟩
  · rw [State.reply_core, State.xwNote_core]
    exact ⟨rfl, rfl⟩
  · rw [State.reply_cluster, State.xwNote_cluster]
  · rw [State.reply_dram, State.xwNote_dram]

theorem State.failStep_core (s : State) (p : Nat) (f : Failure) (j : Nat) : (s.failStep p f).core j = (s.stopStep p).core j := rfl

theorem State.failStep_coll (s : State) (p : Nat) (f : Failure) : (s.failStep p f).coll = s.coll :=
  show (s.stopStep p).coll = s.coll by rw [(Resequenced.stopStep s p).rest]

theorem Core.halted_flights (k : Core) : k.halted.sq.flights = k.sq.flights := by
  unfold Core.halted
  dsimp only

theorem State.stopStep_flights (s : State) (p j : Nat) : ((s.stopStep p).core j).sq.flights = (s.core j).sq.flights := by
  have hall : ∀ (l : List Nat) (t : State), ((t.forEach l fun t c => (t.accountCore c).modCore c Core.halted).core j).sq.flights = (t.core j).sq.flights := fun l => by
    induction l with
    | nil => exact fun _ => rfl
    | cons c l ih =>
      intro t
      rw [State.forEach_cons, ih]
      have h := (t.accountCore_unit c j 0).2
      rw [State.core_modCore]
      split
      next hj =>
        subst hj
        rw [Core.halted_flights]
        exact h
      · exact h
  unfold State.stopStep
  split
  · rfl
  · exact hall _ s

/-- A step that a bath's release fails waits for the instructions in flight. -/
theorem State.failStop_waits {s : State} {p : Nat} {bath : StopBath} {x : Step} {pc : Nat} {r : CoreRun} (hi : s.coll.insts = [])
    (hb : (s.part p).stop = some bath) (hx : s.bathStep p bath = some x) (hrun : s.running p = some x) (hfail : x.fail = none) (hpc : pc < 576)
    (hr : (s.core pc).run = some r) (hp : r.part = p) (hfl : (s.core pc).sq.flights ≠ []) :
    ((s.failStop p).part p).stop = none ∧ (s.failStop p).num (0x8130 + p) 8 = 0 ∧
      (s.failStop p).running p = some { x with fail := some ⟨8, 0, 0, none⟩, replayReq := false } := by
  have hnamed : ((s.part p).stop.bind fun b => s.bathStep p b).isSome = true := by
    rw [hb, Option.bind_some, hx]
    rfl
  have hrun1 := State.failStep_running hrun hfail ⟨8, 0, 0, none⟩
  have hcore1 : ((s.failStep p ⟨8, 0, 0, none⟩).core pc).run = some r ∧ ((s.failStep p ⟨8, 0, 0, none⟩).core pc).sq.flights = (s.core pc).sq.flights :=
    ⟨by obtain ⟨q, hq⟩ := (Resequenced.stopStep s p).core pc; rw [State.failStep_core, hq]; exact hr, by rw [State.failStep_core, State.stopStep_flights]⟩
  have hi1 : (s.failStep p ⟨8, 0, 0, none⟩).coll.insts = [] := by rw [State.failStep_coll]; exact hi
  have hexec : s.failStop p = ((s.failStep p ⟨8, 0, 0, none⟩).releaseStop p).settle p := by
    unfold State.failStop
    dsimp only
    rw [hnamed, if_pos rfl]
  generalize s.failStep p ⟨8, 0, 0, none⟩ = u at hrun1 hcore1 hi1 hexec
  obtain ⟨hparts, hnum, -, hcore⟩ := State.releaseStop_left hi1 p
  obtain ⟨hun, hfl2⟩ := u.unbathed_core p pc
  have hr2 : ((u.releaseStop p).core pc).run = some r := by rw [hcore, hun, hcore1.1]
  have hfl3 : ((u.releaseStop p).core pc).sq.flights ≠ [] := by rw [hcore, hfl2, hcore1.2]; exact hfl
  have hrun2 : (u.releaseStop p).running p = some { x with fail := some ⟨8, 0, 0, none⟩, replayReq := false } := by
    rw [State.running, State.part, hparts]
    exact (congrArg Part.running (State.part_modPart_same u p fun q => { q with stop := none })).trans hrun1
  have hstop : ((u.releaseStop p).part p).stop = none := by
    rw [State.part, hparts]
    exact congrArg Part.stop (State.part_modPart_same u p fun q => { q with stop := none })
  have hnum8 : (u.releaseStop p).num (0x8130 + p) 8 = 0 := (hnum _ _).trans (State.num_setNum_same ..)
  generalize u.releaseStop p = v at hexec hr2 hfl3 hrun2 hstop hnum8
  have hsettle : v.settle p = v := by
    unfold State.settle
    rw [hrun2]
    dsimp only
    rw [if_pos (by rfl), if_pos]
    rw [Bool.not_eq_true']
    refine List.all_eq_false.2 ⟨pc, List.mem_range.2 hpc, ?_⟩
    rw [hr2]
    dsimp only
    rw [hp, Core.quiet]
    simp [hfl3]
  rw [hexec, hsettle]
  exact ⟨hstop, hnum8, hrun2⟩

/-- Settles O34, by what a bath changes of the partition's cores. -/
theorem stopBathHoldsAndReleases : Obligations.StopBathHoldsAndReleases := by
  unfold Obligations.StopBathHoldsAndReleases
  intro s path p o b
  have hp : p.toNat < 16 := p.isLt
  refine ⟨fun hacc => ⟨fun hd ha => ?_, fun hd => ?_⟩, fun die h b' hpart hb hgr => ⟨fun hop hreach hdie => ?_, fun x hop hsrc hx hreach hst => ?_⟩, fun hi => ⟨fun hacc => ?_, ?_⟩,
    fun c pc => ?_⟩
  · obtain ⟨u, hu, hstop, h8, hA, hout⟩ := State.armStop_armed hd ha
    obtain ⟨len, hdo⟩ := State.writeVia_accepted hacc fun s => s.armStop p.toNat
    rw [hu] at hdo
    have hexec : exec (.stopArm path p) s = .next _ := congrArg Host.Outcome.next hdo
    refine ⟨_, hexec, ?_, ?_, ?_, fun d hd => ?_⟩
    · rw [State.reply_part, State.xwNote_part]
      exact hstop
    · rw [State.reply_num, State.xwNote_num]
      exact h8
    · rw [State.reply_num, State.xwNote_num]
      exact hA
    · obtain ⟨h, hm, hh⟩ := hout d hd
      refine ⟨h, ?_, hh⟩
      rw [State.reply_out, State.xwNote_out]
      exact List.mem_append_left _ hm
  · obtain ⟨len, hdo⟩ := State.writeVia_accepted hacc fun s => s.armStop p.toNat
    rw [State.armStop_refused hd] at hdo
    have hexec : exec (.stopArm path p) s = .next _ := congrArg Host.Outcome.next hdo
    refine ⟨_, hexec, State.xwNote_parts .., State.xwNote_dict .., ?_⟩
    rw [Told, State.reply_out, State.xwNote_out]
  · have hexec : exec (.stop die h) s = .next (((s.modPart p.toNat fun q => { q with stop := some { b' with reached := b'.reached ++ [die.toNat] } }).setNum o 8 (max 2 (s.num o 8))).marker
        die.toNat [p.toNat] (s.num o 0xA) 1) := by
      show execStop die h s = _
      rw [execStop, hpart]
      dsimp only
      rw [hb]
      dsimp only
      rw [if_neg (by
        rintro (h1 | h1 | h1 | h1)
        · exact h1 (by rw [hop]; decide)
        · exact h1 hgr
        · exact absurd (hreach.symm.trans h1) (by decide)
        · rw [hdie] at h1
          exact absurd h1 (by decide))]
      rfl
    have hbk := Bookkept.marker ((s.modPart p.toNat fun q => { q with stop := some { b' with reached := b'.reached ++ [die.toNat] } }).setNum o 8 (max 2 (s.num o 8)))
      die.toNat [p.toNat] (s.num o 0xA) 1
    refine ⟨_, hexec, ?_, ?_⟩
    · rw [State.marker_num (by decide) (by decide) (by decide)]
      exact State.num_setNum_same ..
    · rw [State.part, hbk.rest]
      exact congrArg Part.stop (State.part_modPart_same s p.toNat fun q => { q with stop := some { b' with reached := b'.reached ++ [die.toNat] } })
  · intro mine hmine hcut
    have hexec : exec (.stopped h) s = .next ((s.modPart p.toNat fun q => { q with stop := some { b' with stoppedDies := b'.stoppedDies ++ [die.toNat] } }).settleCut p.toNat) := by
      show execStopped h s = _
      rw [execStopped, hpart, hsrc]
      dsimp only
      rw [hb]
      dsimp only
      rw [hx]
      dsimp only
      rw [if_neg (by
        rintro (h1 | h1 | h1 | h1 | h1)
        · exact h1 (by rw [hop]; decide)
        · exact h1 hgr
        · rw [hreach] at h1
          exact absurd h1 (by decide)
        · exact hmine (List.isEmpty_iff.1 h1)
        · rw [show List.all _ _ = true from hcut] at h1
          exact absurd h1 (by decide)), if_neg (by rw [hst]; decide)]
    obtain ⟨hstop, h3⟩ := State.settleCut_stop (s := s.modPart p.toNat fun q => { q with stop := some { b' with stoppedDies := b'.stoppedDies ++ [die.toNat] } })
      (p := p.toNat) hp (congrArg Part.stop (State.part_modPart_same s p.toNat fun q => { q with stop := some { b' with stoppedDies := b'.stoppedDies ++ [die.toNat] } }))
    refine ⟨_, hexec, hstop, fun hall hi ho h2 => h3 x ?_ hall hi ho h2⟩
    rw [← hx]
    unfold State.bathStep
    rw [State.running, State.part_modPart_same, State.running]
    rfl
  · obtain ⟨len, hdo⟩ := State.writeDo_accepted hacc fun s => s.releaseStop p.toNat
    obtain ⟨hparts, hnum, hout, hcore⟩ := State.releaseStop_left hi p.toNat
    have hexec : exec (.stopReleaseResume path p) s = .next _ := congrArg Host.Outcome.next hdo
    refine ⟨_, hexec, ?_, ?_, ?_, fun pc u hpc hu hrun => ?_⟩
    · rw [State.reply_part, State.xwNote_part, State.part, hparts]
      exact congrArg Part.stop (State.part_modPart_same s p.toNat fun q => { q with stop := none })
    · rw [State.reply_num, State.xwNote_num, hnum]
      exact State.num_setNum_same ..
    · rw [Told, State.reply_out, State.xwNote_out, hout]
    · rw [State.reply_core, State.xwNote_core, hcore]
      refine ((State.wakeCores_unit _ _ pc hu).1).trans (if_pos (List.mem_filter.2 ⟨List.mem_range.2 hpc, ?_⟩))
      rw [hrun, beq_self_eq_true]
  · intro bath x pc r hacc hbath hx hfail hpc hrun hr hfl
    obtain ⟨len, hdo⟩ := State.writeDo_accepted hacc fun s => s.failStop p.toNat
    have hexec : exec (.stopReleaseFail path p) s = .next _ := congrArg Host.Outcome.next hdo
    have hrunning : s.running p.toNat = some x := by
      unfold State.bathStep at hx
      obtain ⟨y, hy, hyx⟩ := Option.bind_eq_some_iff.1 hx
      have hxy : y = x := by
        generalize (if bath.mode = 0 then y.req.seq == bath.stepSeq else y.req.epoch == bath.epoch) = c at hyx
        cases c
        · cases hyx
        · exact Option.some.inj hyx
      exact hxy ▸ hy
    obtain ⟨hstop, hnum, hy⟩ := State.failStop_waits hi hbath hx hrunning hfail hpc hrun hr hfl
    refine ⟨_, { x with fail := some ⟨8, 0, 0, none⟩, replayReq := false }, hexec, ?_, ?_, ?_, rfl, rfl⟩
    · rw [State.reply_part, State.xwNote_part]
      exact hstop
    · rw [State.reply_num, State.xwNote_num]
      exact hnum
    · rw [State.running, State.reply_part, State.xwNote_part]
      exact hy
  · intro o thawed hpc hfr
    have hthaw : ∀ single len d, thawed (((s.thaw c.toNat single).xwNote path o 0xF 2 len 0 0 d).reply path 0 []) single := fun single len d => by
      obtain ⟨h1, h2, h3, h4, h5, h6⟩ := State.thaw_frozen hpc hfr single
      generalize s.thaw c.toNat single = v at h1 h2 h3 h4 h5 h6
      refine ⟨?_, ?_, ?_, ?_, h5.trans (.answered ..), ?_⟩
      · rw [State.reply_core, State.xwNote_core]
        exact h1
      · rw [State.reply_core, State.xwNote_core]
        exact h2
      · rw [State.reply_num, State.xwNote_num]
        exact h3
      · rw [State.reply_core, State.xwNote_core]
        exact h4
      · rw [Told, State.reply_out, State.xwNote_out, h6]
    refine ⟨fun hacc => ?_, fun hacc => ?_⟩
    · obtain ⟨len, hdo⟩ := State.writeDo_accepted hacc fun s => s.thaw c.toNat 0
      have hexec : exec (.bpResume path c) s = .next _ := congrArg Host.Outcome.next hdo
      exact ⟨_, hexec, hthaw 0 _ _⟩
    · obtain ⟨len, hdo⟩ := State.writeDo_accepted hacc fun s => s.thaw c.toNat (s.num (bpObj c.toNat) 0x10 + 1)
      have hexec : exec (.bpSingleStep path c) s = .next _ := congrArg Host.Outcome.next hdo
      exact ⟨_, hexec, hthaw _ _ _⟩

end Sys2Proof.Machine
end

section
/-! SUPPORT. Events, traces and overlays beside a stack: what they leave of its state and of its objects. -/

namespace Sys2Proof.Machine

/-! ### Events of partitions -/

theorem State.trigger_untraced {o sub : Nat} (h : Untraced o sub) (s : State) {p : Nat} (hp : p < 16) (cause : Nat) :
    (s.trigger p cause).num o sub = s.num o sub := by
  have hfilm : ∀ (t : State) f, (t.filmTrigger p f cause).num o sub = t.num o sub := fun t f => by
    unfold State.filmTrigger
    dsimp only
    split
    · rfl
    · exact (State.num_setNum_ne _ _ (h.key hp (by decide))).trans (State.setFilm_num ..)
  unfold State.trigger
  split
  · exact (State.num_setNum_ne _ _ (h.key hp (by decide))).trans (State.forEach_num hfilm _ s)
  · rfl

/-- An event of a partition of the table changes no number but the events' own and those of traces. -/
theorem State.raise_untraced {o sub : Nat} (h : Untraced o sub) (h0 : o ≠ 0x9000) (h2 : o ≠ 0x9002) (s : State) {e : Event} (hk : e.kind < 256)
    (hp : ∀ p, e.part = some p → p < 16) : (s.raise e).num o sub = s.num o sub := by
  have hs := h.2
  have hring : ∀ k < 256, objKey o sub ≠ objKey 0x9000 k := fun k hk' => by
    unfold objKey
    omega
  unfold State.raise
  extract_lets rcd kept b s1 s2
  have hb : b.num o sub = s.num o sub := (State.countEvent_num ..).trans (if_neg (by unfold objKey; omega))
  have h1 : s1.num o sub = b.num o sub := State.eventSeq_num ..
  have h3 : s2.num o sub = s.num o sub := by
    simp only [s2]
    rw [State.eventRing_num hring, h1, hb]
  split
  · exact h3
  next p he => exact (State.forEach_num (fun t c => t.trigger_untraced h (hp p he) c) _ s2).trans h3

/-- An event of no partition: every kind is counted. -/
theorem State.raise_counted_alone (s : State) {e : Event} (hk : e.kind < 256) (he : e.part = none) :
    (s.raise e).num 0x9002 e.kind = (s.num 0x9002 e.kind + 1) % 2 ^ 64 := by
  unfold State.raise
  extract_lets rcd kept b s1 s2
  have hb : b.num 0x9002 e.kind = (s.num 0x9002 e.kind + 1) % 2 ^ 64 := (State.countEvent_num ..).trans (if_pos rfl)
  have h1 : s1.num 0x9002 e.kind = b.num 0x9002 e.kind := State.eventSeq_num ..
  have h2 : s2.num 0x9002 e.kind = s1.num 0x9002 e.kind := State.eventRing_num (fun k hk' => by unfold objKey; omega) s1 e.kind rcd
  rw [he]
  exact h2.trans (h1.trans hb)

/-! ### The steps that a breach marks -/

theorem State.markBreach_num (s : State) (p o sub : Nat) : (s.markBreach p).num o sub = s.num o sub := by
  rw [State.markBreach_rest]
  rfl

theorem State.markBreach_part (s : State) (p q : Nat) : (s.markBreach p).part q =
    if q = p then (s.part p).mapSteps (fun _ => true) fun x => { x with breach := true } else s.part q := by
  have hparts : ∀ (l : List Nat) (t : State), (t.forEach l State.flagWaiting).parts = t.parts := fun l => by
    induction l with
    | nil => exact fun _ => rfl
    | cons n l ih => exact fun t => (ih _).trans rfl
  unfold State.markBreach
  rw [State.part_modPart, State.part, State.part, hparts]
  rfl

/-! ### What stays beside a stack -/

theorem State.forEach_num_mem {α : Type} {o sub : Nat} {f : State → α → State} {l : List α} (hf : ∀ s, ∀ x ∈ l, (f s x).num o sub = s.num o sub) (s : State) :
    (s.forEach l f).num o sub = s.num o sub := by
  induction l generalizing s with
  | nil => rfl
  | cons x l ih => exact (ih (fun s y hy => hf s y (List.mem_cons_of_mem _ hy)) (f s x)).trans (hf s x List.mem_cons_self)

/-- `t` follows `s` by what leaves the memories, the stacks but for their filmstrips, the classes served and the objects of upkeep. -/
structure Steady (s t : State) : Prop where
  mem : SameMemory s t
  stack : ∀ k, ∃ f, t.stack k = { s.stack k with film := f }
  serve : ∀ p, (t.part p).serveClass = (s.part p).serveClass
  num : ∀ o sub, (o = 0x2010 ∨ o = 0x5310 ∨ o = 0x5320 ∨ o = 0x5520 ∨ o = 0x5500) → sub < 32 → t.num o sub = s.num o sub

theorem Steady.refl (s : State) : Steady s s := ⟨.refl s, fun _ => ⟨_, rfl⟩, fun _ => rfl, fun _ _ _ _ => rfl⟩

theorem Steady.trans {s t u : State} (h : Steady s t) (g : Steady t u) : Steady s u where
  mem := h.mem.trans g.mem
  stack k := by
    obtain ⟨_, e⟩ := h.stack k
    obtain ⟨_, e'⟩ := g.stack k
    exact ⟨_, by rw [e', e]⟩
  serve p := (g.serve p).trans (h.serve p)
  num o sub h1 h2 := (g.num o sub h1 h2).trans (h.num o sub h1 h2)

theorem Steady.forEach {α : Type} {f : State → α → State} (l : List α) (hf : ∀ s x, x ∈ l → Steady s (f s x)) (s : State) : Steady s (s.forEach l f) := by
  induction l generalizing s with
  | nil => exact .refl s
  | cons x l ih => exact (hf s x List.mem_cons_self).trans (ih (fun s y hy => hf s y (List.mem_cons_of_mem _ hy)) (f s x))

theorem Steady.setNum (s : State) {o k : Nat} (v : Nat) (h : o ≠ 0x2010 ∧ o ≠ 0x5310 ∧ o ≠ 0x5320 ∧ o ≠ 0x5520 ∧ o ≠ 0x5500) (hk : k < 256) :
    Steady s (s.setNum o k v) :=
  ⟨.refl s, fun _ => ⟨_, rfl⟩, fun _ => rfl, fun o' k' ho hk' => State.num_setNum_ne s v (by unfold objKey; omega)⟩

theorem Steady.setBlob (s : State) (o k : Nat) (b : List Byte) : Steady s (s.setBlob o k b) := ⟨.refl s, fun _ => ⟨_, rfl⟩, fun _ => rfl, fun _ _ _ _ => rfl⟩

theorem Steady.count (s : State) (o k n : Nat) : Steady s (s.count o k n) :=
  ⟨(Logged.count ..).sameMemory, fun j => ⟨_, State.count_stack ..⟩, fun j => by rw [State.count_part], fun _ _ _ _ => State.count_num ..⟩

theorem Steady.setFilm (s : State) (f : Nat) (v : Film) : Steady s (s.setFilm f v) where
  mem := (Bookkept.setFilm ..).logged.sameMemory
  stack k := by
    unfold State.setFilm
    split
    · exact ⟨_, rfl⟩
    · rw [State.stack_modStack]
      split
      next h => exact ⟨v, by rw [h]⟩
      · exact ⟨_, rfl⟩
  serve p := by
    unfold State.setFilm
    split <;> rfl
  num _ _ _ _ := State.setFilm_num ..

theorem Steady.traceSettle (s : State) {p : Nat} (hp : p < 16) : Steady s (s.traceSettle p) := by
  have h : ∀ v, Steady s (s.setNum (0x8100 + p) 9 v) := fun v => .setNum s v (by omega) (by decide)
  unfold State.traceSettle
  dsimp only
  split
  · exact .refl s
  · split
    · exact h _
    · split
      · exact h _
      · exact .refl s

theorem Steady.filmPut (s : State) {p : Nat} (hp : p < 16) (f : Nat) (w : BitVec 128) : Steady s (s.filmPut p f w) := by
  unfold State.filmPut
  dsimp only
  split
  · exact (Steady.setFilm ..).trans (.setNum _ _ (by omega) (by decide))
  · exact (Steady.setFilm ..).trans (.traceSettle _ hp)
  · exact .refl s

theorem Steady.traceAt (s : State) (f ts kind unit wher payload : Nat) : Steady s (s.traceAt f ts kind unit wher payload) := by
  unfold State.traceAt
  split
  · exact .refl s
  next p hp =>
    split
    · exact .filmPut s (State.filmPart_lt hp) ..
    · exact .refl s

theorem Steady.filmTrigger (s : State) {p : Nat} (hp : p < 16) (f cause : Nat) : Steady s (s.filmTrigger p f cause) := by
  unfold State.filmTrigger
  dsimp only
  split
  · exact .refl s
  · exact (Steady.setFilm ..).trans (.setNum _ _ (by omega) (by decide))

theorem Steady.trigger (s : State) {p : Nat} (hp : p < 16) (cause : Nat) : Steady s (s.trigger p cause) := by
  unfold State.trigger
  split
  · exact (Steady.forEach _ (fun t f _ => .filmTrigger t hp f cause) s).trans (.setNum _ _ (by omega) (by decide))
  · exact .refl s

theorem Steady.emit (s : State) (x : Output) : Steady s (s.emit x) := ⟨.refl s, fun _ => ⟨_, rfl⟩, fun _ => rfl, fun _ _ _ _ => rfl⟩

theorem Steady.eventGap (s : State) (b : Bool) : Steady s { s with eventGap := b } := ⟨.refl s, fun _ => ⟨_, rfl⟩, fun _ => rfl, fun _ _ _ _ => rfl⟩

theorem Steady.eventSeq (s : State) (n : Nat) : Steady s { s with eventSeq := n } := ⟨.refl s, fun _ => ⟨_, rfl⟩, fun _ => rfl, fun _ _ _ _ => rfl⟩

theorem Steady.eventRing (s : State) (kind : Nat) (rcd : List Byte) : Steady s (s.eventRing kind rcd) := by
  have h : ∀ (t : State) k v, k < 256 → Steady t (t.setNum 0x9000 k v) := fun t k v hk => .setNum t v (by decide) hk
  unfold State.eventRing
  dsimp only
  split
  · exact .refl s
  · split
    · exact (h _ _ _ (by decide)).trans (.eventGap ..)
    · have h1 := fun v => ((Steady.emit s (.hostWrite (s.num 0x9000 1 + s.num 0x9000 4 % s.num 0x9000 2 * 32) rcd)).trans (h _ 4 v (by decide))).trans (.eventGap _ false)
      split
      · exact h1 _
      · exact (h1 _).trans (.emit ..)

theorem Steady.raise (s : State) {e : Event} (hk : e.kind < 256) (hp : ∀ p, e.part = some p → p < 16) : Steady s (s.raise e) := by
  unfold State.raise
  extract_lets rcd kept b s1 s2
  have hb : Steady s b := (Steady.setBlob ..).trans (.setNum _ _ (by decide) hk)
  have h1 : Steady s s1 := hb.trans (.eventSeq ..)
  have h2 : Steady s s2 := h1.trans (.eventRing ..)
  split
  · exact h2
  next p he => exact h2.trans (.forEach _ (fun t c _ => .trigger t (hp p he) c) s2)

theorem Steady.markBreach (s : State) (p : Nat) : Steady s (s.markBreach p) where
  mem := s.markBreach_sameMemory p
  stack k := ⟨_, by rw [State.markBreach_rest]; rfl⟩
  serve q := by
    rw [State.markBreach_part]
    split
    next h => rw [h]; rfl
    · rfl
  num _ _ _ _ := State.markBreach_num ..

theorem Steady.breach7 (s : State) {p : Nat} (hp : p < 16) (cause unit detail : Nat) : Steady s (s.breach7 p cause unit detail) := by
  have hpart : ∀ q, some p = some q → q < 16 := fun q e => Option.some.inj e ▸ hp
  unfold State.breach7
  rcases s.raiseBreach_cases p (.of 0x07 unit (cause + detail * 256)) with e | e <;> rw [e]
  · exact .raise s (by exact (by decide : (7 : Nat) < 256)) fun q h => hpart q h
  · exact (Steady.markBreach s p).trans (.raise _ (by exact (by decide : (7 : Nat) < 256)) fun q h => hpart q h)

/-! ### The overlay of degraded stacks -/

/-- What the overlay of degraded stacks does not write. -/
def Unlisted (o : Nat) : Prop := o ≠ 0x5330 ∧ o ≠ 0x300F ∧ (o < 0x4000 ∨ 0x4040 ≤ o)

theorem State.settleSlot15_num {o sub : Nat} (ho : Unlisted o) (hs : sub < 256) (s : State) (p : Nat) : (s.settleSlot15 p).num o sub = s.num o sub := by
  obtain ⟨h1, h2, h3⟩ := ho
  have hset : ∀ (t : State) k v, k < 256 → (t.setNum 0x300F k v).num o sub = t.num o sub := fun t k v hk => State.num_setNum_ne t v (by unfold objKey; omega)
  have hdev : ∀ (t : State) kind es applied, (t.deviceSlot 15 kind es applied).num o sub = t.num o sub := fun t kind es applied => by
    unfold State.deviceSlot
    extract_lets o' b all full
    exact (hset _ 6 _ (by decide)).trans ((hset _ 4 _ (by decide)).trans ((hset _ 2 _ (by decide)).trans (hset _ 1 _ (by decide))))
  have hre : ∀ (t : State), (t.recheckMemory p).num o sub = t.num o sub := fun t => by
    unfold State.recheckMemory State.recheck
    refine State.forEach_num_mem (fun u k hk => ?_) t
    have := List.mem_range.1 hk
    split
    · exact State.num_setNum_ne u _ (by unfold objKey; omega)
    · rfl
  unfold State.settleSlot15
  extract_lets ks new due s1 old
  split
  · rfl
  · have h1 : s1.num o sub = s.num o sub := State.forEach_num_mem (fun u k hk => by
      have := List.mem_range.1 (List.mem_of_mem_filter (List.mem_of_mem_filter hk))
      exact State.num_setNum_ne u _ (by unfold objKey sub1; omega)) s
    exact (hre _).trans ((hdev ..).trans h1)

theorem State.takeSlot15_num {o sub : Nat} (ho : Unlisted o) (hs : sub < 256) (s : State) : s.takeSlot15.num o sub = s.num o sub :=
  State.forEach_num (fun t p => t.settleSlot15_num ho hs p) _ s

/-- `t` follows `s` by objects of the dictionary alone. -/
def Objects (s t : State) : Prop := ∃ d b, t = { s with dict := d, blobs := b }

theorem Objects.refl (s : State) : Objects s s := ⟨s.dict, s.blobs, rfl⟩

theorem Objects.trans {s t u : State} (h : Objects s t) (g : Objects t u) : Objects s u := by
  obtain ⟨d, b, rfl⟩ := h
  obtain ⟨d', b', rfl⟩ := g
  exact ⟨d', b', rfl⟩

theorem Objects.forEach {α : Type} {f : State → α → State} (hf : ∀ s x, Objects s (f s x)) (l : List α) (s : State) : Objects s (s.forEach l f) := by
  induction l generalizing s with
  | nil => exact .refl s
  | cons x l ih => exact (hf s x).trans (ih (f s x))

theorem Objects.setNum (s : State) (o k v : Nat) : Objects s (s.setNum o k v) := ⟨_, s.blobs, rfl⟩

theorem Objects.setBlob (s : State) (o k : Nat) (b : List Byte) : Objects s (s.setBlob o k b) := ⟨s.dict, _, rfl⟩

theorem Objects.deviceSlot (s : State) (slot kind : Nat) (es : List (Nat × Nat)) (applied : Nat) : Objects s (s.deviceSlot slot kind es applied) := by
  unfold State.deviceSlot
  extract_lets o b all full
  exact (((((Objects.setNum ..).trans (.setNum ..)).trans (.setBlob ..)).trans (.setNum ..)).trans (.setBlob ..)).trans (.setNum ..)

theorem Objects.recheck (s : State) (p : Nat) (ok : State → Image → Nat → Bool) : Objects s (s.recheck p ok) := by
  unfold State.recheck
  refine .forEach (fun t k => ?_) _ s
  split
  · exact .setNum ..
  · exact .refl t

theorem Objects.settleSlot15 (s : State) (p : Nat) : Objects s (s.settleSlot15 p) := by
  unfold State.settleSlot15
  extract_lets ks new due s1 old
  split
  · exact .refl s
  · have h1 : Objects s s1 := .forEach (fun t k => .setNum ..) new s
    exact h1.trans ((Objects.deviceSlot ..).trans (.recheck ..))

theorem Objects.takeSlot15 (s : State) : Objects s s.takeSlot15 := .forEach (fun t p => .settleSlot15 t p) _ s

theorem Steady.takeSlot15 (s : State) : Steady s s.takeSlot15 := by
  have hn : ∀ o sub, (o = 0x2010 ∨ o = 0x5310 ∨ o = 0x5320 ∨ o = 0x5520 ∨ o = 0x5500) → sub < 32 → s.takeSlot15.num o sub = s.num o sub :=
    fun o sub ho hs => State.takeSlot15_num (by unfold Unlisted; omega) (by omega) s
  obtain ⟨d, b, h⟩ := Objects.takeSlot15 s
  rw [h] at hn ⊢
  exact ⟨⟨fun _ => ⟨rfl, rfl⟩, fun _ => rfl, rfl⟩, fun k => ⟨(s.stack k).film, rfl⟩, fun _ => rfl, hn⟩

end Sys2Proof.Machine
end

section
/-! SUPPORT. The upkeep of one stack: its training, its scrub, its class and its migration. -/

namespace Sys2Proof.Machine

/-- The training, the failures and the scrub of a stack are as they were. -/
structure SameUpkeep (m m' : Stack) : Prop where
  training : m'.training = m.training
  fails : m'.trainFails = m.trainFails
  scrub : m'.scrub = m.scrub

theorem SameUpkeep.refl (m : Stack) : SameUpkeep m m := ⟨rfl, rfl, rfl⟩

theorem SameUpkeep.trans {m m' m'' : Stack} (h : SameUpkeep m m') (g : SameUpkeep m' m'') : SameUpkeep m m'' :=
  ⟨g.training.trans h.training, g.fails.trans h.fails, g.scrub.trans h.scrub⟩

theorem Steady.upkeep {s t : State} (h : Steady s t) (k : Nat) : SameUpkeep (s.stack k) (t.stack k) := by
  obtain ⟨f, e⟩ := h.stack k
  rw [e]
  exact ⟨rfl, rfl, rfl⟩

theorem SameUpkeep.setStack {s : State} {k : Nat} {m : Stack} (h : SameUpkeep (s.stack k) m) (j : Nat) : SameUpkeep (s.stack j) ((s.setStack k m).stack j) := by
  rw [State.stack_setStack]
  split
  next e => rw [e]; exact h
  · exact .refl _

theorem raise_upkeep (s : State) {e : Event} (hk : e.kind < 256) (hp : e.part = none) (j : Nat) : SameUpkeep (s.stack j) ((s.raise e).stack j) :=
  (Steady.raise s hk fun p h => by rw [hp] at h; cases h).upkeep j

theorem State.retire_upkeep (s : State) (k pc j : Nat) : SameUpkeep (s.stack j) ((s.retire k pc).stack j) := by
  unfold State.retire
  extract_lets st s1 first gen s2 s3 s4
  split
  · exact .refl _
  · split
    · split
      · exact .refl _
      · exact (SameUpkeep.setStack (by exact ⟨rfl, rfl, rfl⟩) j).trans (raise_upkeep _ (by exact (by decide : (8 : Nat) < 256)) rfl j)
    · have h2 : SameUpkeep (s.stack j) (s2.stack j) := .setStack (by exact ⟨rfl, rfl, rfl⟩) j
      have h4 : s4.stack j = s2.stack j := by
        simp only [s4]
        split <;> rfl
      rw [← h4] at h2
      exact h2.trans (raise_upkeep _ (by exact (by decide : (9 : Nat) < 256)) rfl j)

theorem State.seen_upkeep (s : State) (p : Place) (ce ue j : Nat) : SameUpkeep (s.stack j) ((s.seen p ce ue).stack j) := by
  unfold State.seen
  extract_lets s1 st ceL ueL0 ueL s2
  split
  · exact .refl _
  · have h1 : ∀ i, s1.stack i = s.stack i := fun i => (State.count_stack ..).trans (State.count_stack ..)
    have h2 : SameUpkeep (s.stack j) (s2.stack j) := by
      rw [← h1 j]
      exact .setStack (by exact ⟨rfl, rfl, rfl⟩) j
    split
    · exact h2.trans (State.retire_upkeep ..)
    · exact h2

/-- The first channel that a stack retires. -/
theorem State.retire_first {s : State} {k : Nat} (hk : k < 24) (pc : Nat) (hsw : s.effDev 0x5500 2 = 1) (hr : (s.stack k).retired = []) :
    let t := s.retire k pc
    (t.stack k).retired = [pc] ∧ t.num 0x5500 1 = (s.num 0x5500 1 + 1) % 65536 ∧ EventCounted s t 9 := by
  intro t
  obtain ⟨u, e, ht, hu, he, hn, h9⟩ : ∃ (u : State) (e : Event), t = u.raise e ∧ (u.stack k).retired = [pc] ∧ e.kind = 9 ∧ e.part = none ∧
      u.num 0x5500 1 = (s.num 0x5500 1 + 1) % 65536 ∧ u.num 0x9002 9 = s.num 0x9002 9 := by
    simp only [t]
    unfold State.retire
    extract_lets st s1 first gen s2 s3 s4
    have hst : st.retired = [] := hr
    rw [if_neg (by rw [hst]; simp [hsw]), if_neg (by rw [hst]; decide)]
    have hfirst : first = true := by
      simp only [first, hst]
      rfl
    have h4 : s4 = s3.setNum 0x5520 (sub1 k) 0 := if_pos hfirst
    have hset : ∀ (v : State) (o i x o' j : Nat), o' ≠ o → i < 256 → j < 256 → (v.setNum o i x).num o' j = v.num o' j := fun v o i x o' j ho hi hj =>
      State.num_setNum_ne v x (by unfold objKey; omega)
    have hs1 : sub1 k < 256 := by unfold sub1; omega
    refine ⟨s4, _, rfl, ?_, rfl, rfl, ?_, ?_⟩
    · rw [h4, State.setNum_stack, State.setNum_stack, State.setNum_stack, State.stack_setStack_same, hst]
      rfl
    · rw [h4, hset _ _ _ _ _ _ (by decide) hs1 (by decide), hset _ _ _ _ _ _ (by decide) hs1 (by decide), State.num_setNum_same]
    · rw [h4, hset _ _ _ _ _ _ (by decide) hs1 (by decide), hset _ _ _ _ _ _ (by decide) hs1 (by decide), hset _ _ _ _ _ _ (by decide) (by decide) (by decide)]
      rfl
  clear_value t
  subst ht
  have hk9 : e.kind < 256 := by omega
  have hsteady := Steady.raise u hk9 fun p h => by rw [hn] at h; cases h
  refine ⟨?_, ?_, ?_⟩
  · obtain ⟨f, hf⟩ := hsteady.stack k
    rw [hf]
    exact hu
  · rw [hsteady.num _ _ (by decide) (by decide)]
    exact h9.1
  · have := State.raise_counted_alone u hk9 hn
    rw [he, h9.2] at this
    exact this

theorem State.stackClass_congr {s t : State} {k : Nat} (h : Steady s t) : t.stackClass k = s.stackClass k := by
  obtain ⟨f, e⟩ := h.stack k
  unfold State.stackClass
  rw [e, h.num _ _ (by decide) (by decide)]

/-- The class of a stack, told when it is another than the one shown. -/
theorem State.noteClass_shown (s : State) {k : Nat} (hk : k < 24) :
    let t := s.noteClass k
    (∃ f, t.stack k = { s.stack k with film := f }) ∧ SameMemory s t ∧ (∀ p, (t.part p).serveClass = (s.part p).serveClass) ∧
      t.num 0x5310 (k + 1) = s.num 0x5310 (k + 1) ∧ t.num 0x5320 (k + 1) = t.stackClass k := by
  intro t
  have ht : t = s.noteClass k := rfl
  clear_value t
  subst ht
  unfold State.noteClass
  extract_lets new th
  split
  next h => exact ⟨⟨_, rfl⟩, .refl s, fun _ => rfl, rfl, h⟩
  · have hset : ∀ o' j, o' ≠ 0x5320 → j < 256 → (s.setNum 0x5320 (sub1 k) new).num o' j = s.num o' j := fun o' j ho hj =>
      State.num_setNum_ne s new (by unfold objKey sub1; omega)
    have hst := Steady.raise (s.setNum 0x5320 (sub1 k) new) (e := .of 0x13 (dieUnit (mDie k)) (k + new * 256 + th * 65536))
      (by exact (by decide : (0x13 : Nat) < 256)) fun p h => by cases h
    have hsame : s.stackClass k = new := rfl
    have hcl : (s.setNum 0x5320 (sub1 k) new).stackClass k = s.stackClass k := by
      unfold State.stackClass
      rw [State.setNum_stack, hset _ _ (by decide) (by decide)]
    have hn := State.num_setNum_same s 0x5320 (sub1 k) new
    have hstk : (s.setNum 0x5320 (sub1 k) new).stack k = s.stack k := rfl
    have hm : SameMemory s (s.setNum 0x5320 (sub1 k) new) := ⟨fun _ => ⟨rfl, rfl⟩, fun _ => rfl, rfl⟩
    have hsv : ∀ p, ((s.setNum 0x5320 (sub1 k) new).part p).serveClass = (s.part p).serveClass := fun _ => rfl
    generalize s.setNum 0x5320 (sub1 k) new = u at hst hset hcl hn hstk hm hsv ⊢
    obtain ⟨f, hf⟩ := hst.stack k
    refine ⟨⟨f, by rw [hf, hstk]⟩, hm.trans hst.mem, fun p => (hst.serve p).trans (hsv p), ?_, ?_⟩
    · exact (hst.num _ _ (by decide) (by omega)).trans (hset _ _ (by decide) (by omega))
    · rw [State.stackClass_congr hst, hcl]
      exact (hst.num _ _ (by decide) (by omega)).trans hn

/-- A new class of a stack is shown in its object. -/
theorem State.setThermal_class (s : State) {k : Nat} (hk : k < 24) (c : Nat) :
    let t := s.setThermal k c
    (∃ f, t.stack k = { s.stack k with thermal := c, film := f }) ∧ SameMemory s t ∧ (∀ p, (t.part p).serveClass = (s.part p).serveClass) ∧
      t.num 0x5310 (k + 1) = s.num 0x5310 (k + 1) ∧ t.num 0x5320 (k + 1) = t.stackClass k := by
  intro t
  obtain ⟨⟨f, hf⟩, hmem, hserve, h5310, hcl⟩ := (s.modStack k fun m => { m with thermal := c }).noteClass_shown hk
  have ht : t = ((s.modStack k fun m => { m with thermal := c }).noteClass k).trace (576 + k) (((s.modStack k fun m => { m with thermal := c }).noteClass k).filmTs (576 + k))
      0x13 0 (((s.modStack k fun m => { m with thermal := c }).noteClass k).stackClass k * 2 ^ 77) := rfl
  clear_value t
  subst ht
  rw [State.stack_modStack, if_pos rfl] at hf
  generalize (s.modStack k fun m => { m with thermal := c }).noteClass k = u at hf hmem hserve h5310 hcl ⊢
  have hst := Steady.traceAt u (576 + k) (u.filmTs (576 + k)) 0x13 0 (filmWhere (576 + k)) (u.stackClass k * 2 ^ 77)
  obtain ⟨g, hg⟩ := hst.stack k
  refine ⟨⟨g, ?_⟩, ?_, fun p => (hst.serve p).trans (hserve p), (hst.num _ _ (by decide) (by omega)).trans h5310, ?_⟩
  · exact hg.trans (by rw [hf])
  · exact SameMemory.trans ⟨fun _ => ⟨rfl, rfl⟩, fun _ => rfl, rfl⟩ (hmem.trans hst.mem)
  · exact (hst.num _ _ (by decide) (by omega)).trans (hcl.trans (State.stackClass_congr hst).symm)


/-! ### Training -/

theorem Filmed.traceAt (s : State) (f ts kind unit wher payload : Nat) : Filmed s (s.traceAt f ts kind unit wher payload) := by
  unfold State.traceAt
  split
  · exact .refl s
  next p hp =>
    split
    · exact .filmPut s (State.filmPart_lt hp) ..
    · exact .refl s

theorem State.effDev_congr {s t : State} (hp : t.parts = s.parts) {o sub : Nat} (hn : t.num o sub = s.num o sub) : t.effDev o sub = s.effDev o sub := by
  unfold State.effDev State.part
  rw [hp, hn]

/-- A training window that ends, its channel retired at the third failure in a row. -/
theorem execTrainingWindowEnd_ended {s : State} {stack : Fin 24} {pc : BitVec 6} (h : (s.stack stack.val).training = some pc.toNat) (converged : Bool) :
    ∃ u : State, exec (.trainingWindowEnd stack pc converged) s =
        .next (if 3 ≤ (if converged then 0 else tabGet 0 (s.stack stack.val).trainFails pc.toNat + 1) then (u.retire stack.val pc.toNat).takeSlot15 else u) ∧
      SameMemory s u ∧ u.parts = s.parts ∧ (∀ o sub, Untraced o sub → u.num o sub = s.num o sub) ∧
      ∃ f, u.stack stack.val = { s.stack stack.val with
        training := none
        trainFails := tabSet 0 (s.stack stack.val).trainFails pc.toNat (if converged then 0 else tabGet 0 (s.stack stack.val).trainFails pc.toNat + 1)
        film := f } := by
  let k := stack.val
  let n := if converged then 0 else tabGet 0 (s.stack k).trainFails pc.toNat + 1
  let v := s.setStack k { s.stack k with training := none, trainFails := tabSet 0 (s.stack k).trainFails pc.toNat n }
  let w := v.traceAt (576 + k) (v.filmTs (576 + k)) 0x12 0 pc.toNat ((if converged then 1 else 2) * 2 ^ 78)
  have hexec : exec (.trainingWindowEnd stack pc converged) s =
      .next (if 3 ≤ n then ((if converged then w else w.count (0x8020 + k) 4 1).retire k pc.toNat).takeSlot15 else if converged then w else w.count (0x8020 + k) 4 1) := by
    show execTrainingWindowEnd stack pc converged s = _
    rw [execTrainingWindowEnd]
    dsimp only
    rw [if_neg (by rw [h]; simp)]
  have hst := Steady.traceAt v (576 + k) (v.filmTs (576 + k)) 0x12 0 pc.toNat ((if converged then 1 else 2) * 2 ^ 78)
  have hfm := Filmed.traceAt v (576 + k) (v.filmTs (576 + k)) 0x12 0 pc.toNat ((if converged then 1 else 2) * 2 ^ 78)
  have hv : v.stack k = { s.stack k with training := none, trainFails := tabSet 0 (s.stack k).trainFails pc.toNat n } := State.stack_setStack_same ..
  have hm : SameMemory s v := ⟨fun _ => ⟨rfl, rfl⟩, fun _ => rfl, rfl⟩
  have hvp : v.parts = s.parts := rfl
  have hvn : ∀ o sub, v.num o sub = s.num o sub := fun _ _ => rfl
  have hw : w = v.traceAt (576 + k) (v.filmTs (576 + k)) 0x12 0 pc.toNat ((if converged then 1 else 2) * 2 ^ 78) := rfl
  rw [← hw] at hst hfm
  clear_value v w
  obtain ⟨f, hf⟩ := hst.stack k
  have hwp : w.parts = s.parts := by rw [hfm.rest, hvp]
  have hmem : SameMemory s w := hm.trans hst.mem
  have hws : w.stack k = { s.stack k with training := none, trainFails := tabSet 0 (s.stack k).trainFails pc.toNat n, film := f } := by rw [hf, hv]
  refine ⟨_, hexec, ?_⟩
  have hcases : (if converged then w else w.count (0x8020 + k) 4 1) = w ∨ (if converged then w else w.count (0x8020 + k) 4 1) = w.count (0x8020 + k) 4 1 := by
    cases converged
    · exact .inr rfl
    · exact .inl rfl
  rcases hcases with e | e <;> rw [e]
  · exact ⟨hmem, hwp, fun o sub hu => (hfm.num o sub hu).trans (hvn o sub), f, hws⟩
  · exact ⟨hmem.trans (Logged.count ..).sameMemory, (State.count_parts ..).trans hwp,
      fun o sub hu => (State.count_num ..).trans ((hfm.num o sub hu).trans (hvn o sub)), f, (State.count_stack ..).trans hws⟩

/-! ### The scrub -/

theorem Ram.foldl_scrub (l : List Nat) (hl : l.Nodup) (r : Ram) (w : Nat) : (l.foldl Ram.scrubWord r).codeWord w =
    if w ∈ l then (eccCorrect (r.codeWord w) &&& BitVec.ofNat 72 (2 ^ 64 - 1)) ||| (r.codeWord w &&& ~~~BitVec.ofNat 72 (2 ^ 64 - 1)) else r.codeWord w := by
  induction l generalizing r with
  | nil => rfl
  | cons x l ih =>
    obtain ⟨hx, hl⟩ := List.nodup_cons.1 hl
    have hone : ∀ y, (r.scrubWord x).codeWord y = if y = x then (eccCorrect (r.codeWord x) &&& BitVec.ofNat 72 (2 ^ 64 - 1)) |||
        (r.codeWord x &&& ~~~BitVec.ofNat 72 (2 ^ 64 - 1)) else r.codeWord y := fun y => Ram.codeWord_storeCode ..
    rw [List.foldl_cons, ih hl, hone]
    by_cases hw : w = x
    · subst hw
      rw [if_neg hx, if_pos rfl, if_pos List.mem_cons_self]
    · rw [if_neg hw]
      simp [hw]

theorem Ram.fetch_ce_nodup (r : Ram) (a n : Nat) : (r.fetch a n).ce.Nodup := by
  have hmap : ((r.checks a n).map (·.1)) = wordsOf a n := by
    unfold Ram.checks
    rw [List.map_map]
    exact List.map_id'' (fun _ => rfl) _
  have hnd : (wordsOf a n).Nodup := by
    unfold wordsOf
    split
    · exact List.nodup_nil
    · exact rangeFrom_nodup ..
  show (((r.checks a n).filter _).map (·.1)).Nodup
  exact (List.filter_sublist.map _).nodup (hmap ▸ hnd)

/-- The uncorrectable words of a granule, each told at its address. -/
def State.scrubFaults (s : State) (unit : Nat) (addr : Option Nat) (l : List Nat) : State :=
  s.forEach l fun s w =>
    let a := match addr with | some a => a + 8 * (w % 32) | none => (Config.freeWord 2 s.freeCtr).toNat
    (s.scrubFault unit a).drawn

theorem State.scrubFaults_left (s : State) (unit : Nat) (addr : Option Nat) (l : List Nat) (k : Nat) :
    (s.scrubFaults unit addr l).dram = s.dram ∧ SameUpkeep (s.stack k) ((s.scrubFaults unit addr l).stack k) := by
  have hone : ∀ (s : State) a, (s.scrubFault unit a).drawn.dram = s.dram ∧ SameUpkeep (s.stack k) ((s.scrubFault unit a).drawn.stack k) := fun s a => by
    unfold State.scrubFault
    split
    · exact ⟨(Logged.raise s _).sameMemory.2.2, raise_upkeep s (by exact (by decide : (1 : Nat) < 256)) rfl k⟩
    · exact ⟨(Logged.raise s _).sameMemory.2.2, raise_upkeep s (by exact (by decide : (1 : Nat) < 256)) rfl k⟩
  exact foldl_keeps (fun u : State => u.dram = s.dram ∧ SameUpkeep (s.stack k) (u.stack k))
    (fun u hu w => ⟨(hone u _).1.trans hu.1, hu.2.trans (hone u _).2⟩) l ⟨rfl, .refl _⟩

end Sys2Proof.Machine
end

section
/-! SUPPORT. The emergency share of a stack, and the block that a migration copies. -/

namespace Sys2Proof.Machine

/-! ### The emergency share -/

/-- Each partition of the table takes the class that a change of it gives. -/
theorem State.forEach_modPart (f : Part → Part) (l : List Nat) (hl : l.Nodup) (s : State) (p : Nat) :
    (s.forEach l fun s p => s.modPart p f).part p = if p ∈ l then f (s.part p) else s.part p := by
  induction l generalizing s with
  | nil => rfl
  | cons q l ih =>
    obtain ⟨hq, hl⟩ := List.nodup_cons.1 hl
    rw [State.forEach_cons, ih hl, State.part_modPart]
    by_cases hp : p = q
    · subst hp
      rw [if_neg hq, if_pos rfl, if_pos List.mem_cons_self]
    · rw [if_neg hp]
      simp [hp]

theorem State.forEach_modPart_rest (f : Part → Part) (l : List Nat) (s : State) :
    s.forEach l (fun s p => s.modPart p f) = { s with parts := (s.forEach l fun s p => s.modPart p f).parts } := by
  induction l generalizing s with
  | nil => rfl
  | cons q l ih => rw [State.forEach_cons, ih]; rfl

theorem State.eachPart_left (f : Part → Part) (s : State) :
    let t := s.forEach (List.range 16) fun s p => s.modPart p f
    (∀ k, t.stack k = s.stack k) ∧ SameMemory s t ∧ (∀ o sub, t.num o sub = s.num o sub) ∧ ∀ p, p < 16 → t.part p = f (s.part p) := by
  intro t
  have hrest := State.forEach_modPart_rest f (List.range 16) s
  have hpart := State.forEach_modPart f (List.range 16) List.nodup_range s
  rw [show s.forEach (List.range 16) (fun s p => s.modPart p f) = t from rfl] at hrest hpart
  clear_value t
  refine ⟨fun k => by rw [hrest]; rfl, ?_, fun o sub => by rw [hrest]; rfl, fun p hp => by rw [hpart, if_pos (List.mem_range.2 hp)]⟩
  rw [hrest]
  exact ⟨fun _ => ⟨rfl, rfl⟩, fun _ => rfl, rfl⟩

theorem SameMemory.modStack (s : State) (k : Nat) (f : Stack → Stack) : SameMemory s (s.modStack k f) := ⟨fun _ => ⟨rfl, rfl⟩, fun _ => rfl, rfl⟩

theorem State.enterEmergency_left (s : State) (k : Nat) :
    let t := s.enterEmergency k
    t.stack k = { s.stack k with emergency := true } ∧ SameMemory s t ∧ (∀ o sub, t.num o sub = s.num o sub) ∧
      ∀ p, p < 16 → tabGet 0 (t.part p).serveClass k = 4 := by
  intro t
  obtain ⟨h1, h2, h3, h4⟩ := State.eachPart_left (fun q => { q with serveClass := tabSet 0 q.serveClass k 4 }) (s.modStack k fun m => { m with emergency := true })
  refine ⟨(h1 k).trans (State.stack_modStack_same ..), (SameMemory.modStack ..).trans h2, h3, fun p hp => ?_⟩
  rw [show t.part p = _ from h4 p hp]
  dsimp only
  rw [tabGet_tabSet_same]

theorem State.leaveEmergency_left (s : State) (k : Nat) :
    let t := s.leaveEmergency k
    t.stack k = { s.stack k with emergency := false, thermal := 3 } ∧ SameMemory s t ∧ (∀ o sub, t.num o sub = s.num o sub) ∧
      ∀ p, p < 16 → tabGet 0 (t.part p).serveClass k = (match (s.part p).running with | some x => min 3 (x.classes.getD k 3) | none => 3) := by
  intro t
  obtain ⟨h1, h2, h3, h4⟩ := State.eachPart_left (fun q => { q with serveClass := tabSet 0 q.serveClass k (match q.running with | some x => min 3 (x.classes.getD k 3) | none => 3) })
    (s.modStack k fun m => { m with emergency := false, thermal := 3 })
  refine ⟨(h1 k).trans (State.stack_modStack_same ..), (SameMemory.modStack ..).trans h2, h3, fun p hp => ?_⟩
  rw [show t.part p = _ from h4 p hp]
  dsimp only
  rw [tabGet_tabSet_same]
  rfl

theorem Steady.power (s : State) (p : Power) : Steady s { s with power := p } := ⟨.refl s, fun _ => ⟨_, rfl⟩, fun _ => rfl, fun _ _ _ _ => rfl⟩

theorem Steady.stripResult (s : State) {r : Nat} (hr : r < 128) (result : Nat) : Steady s (s.stripResult r result) := by
  unfold State.stripResult
  extract_lets o s1 sub
  have hsub : sub < 256 := by
    simp only [sub]
    split <;> decide
  exact ((Steady.setNum _ _ (by simp only [o]; omega) (by decide)).trans (.setNum _ _ (by simp only [o]; omega) (by decide))).trans (.setNum _ _ (by decide) hsub)

theorem Steady.release (s : State) : Steady s s.release := by
  unfold State.release
  extract_lets all v s1 s2
  have h1 : Steady s s1 := (Steady.setNum _ _ (by decide) (by decide)).trans (.setNum _ _ (by decide) (by decide))
  have h2 : Steady s s2 := by
    simp only [s2]
    split
    · exact h1.trans (.setNum _ _ (by decide) (by decide))
    · exact h1
  exact h2.trans (.power ..)

theorem Steady.roundDone (s : State) {r : Nat} (hr : r < 124) : Steady s (s.roundDone r) := by
  unfold State.roundDone
  extract_lets pw s1 s2
  have h2 : s2 = s1 := if_neg (by omega)
  rw [h2]
  split
  · exact (Steady.power ..).trans (.release ..)
  · exact .power ..

theorem Steady.stopStackStrip (s : State) {k : Nat} (hk : k < 24) : Steady s (s.stopStackStrip k) := by
  unfold State.stopStackStrip
  dsimp only
  split
  · exact (Steady.stripResult s (by omega) 3).trans (.roundDone _ (by omega))
  · split
    · exact ((Steady.power ..).trans (.stripResult _ (by omega) 3)).trans (.setNum _ _ (by decide) (by decide))
    · exact .refl s

/-- A training window that opens. -/
theorem execTrainingWindowStart_open {s : State} {stack : Fin 24} (pc : BitVec 6) (h : (s.stack stack.val).training = none) :
    ∃ t, exec (.trainingWindowStart stack pc) s = .next t ∧ (t.stack stack.val).training = some pc.toNat ∧ SameMemory s t := by
  let k := stack.val
  let c := pc.toNat
  have hexec : exec (.trainingWindowStart stack pc) s = .next ((s.modStack k fun m => { m with training := some c }).traceAt (576 + k) (s.filmTs (576 + k)) 0x12 0 c 0) := by
    show execTrainingWindowStart stack pc s = _
    rw [execTrainingWindowStart]
    dsimp only
    rw [if_neg (by rw [show (s.stack stack.val).training = none from h]; decide)]
  have hst := Steady.traceAt (s.modStack k fun m => { m with training := some c }) (576 + k) (s.filmTs (576 + k)) 0x12 0 c 0
  refine ⟨_, hexec, ?_, (SameMemory.modStack ..).trans hst.mem⟩
  rw [(hst.upkeep k).training, State.stack_modStack_same]

/-- A training window that ends. -/
theorem execTrainingWindowEnd_left {s : State} {stack : Fin 24} {pc : BitVec 6} (converged : Bool) (h : (s.stack stack.val).training = some pc.toNat) :
    let k := stack.val
    let c := pc.toNat
    let m := s.stack k
    ∃ t, exec (.trainingWindowEnd stack pc converged) s = .next t ∧ (t.stack k).training = none ∧ SameMemory s t ∧
      tabGet 0 (t.stack k).trainFails c = (if converged then 0 else tabGet 0 m.trainFails c + 1) ∧
      (converged = false → tabGet 0 m.trainFails c = 2 → s.effDev 0x5500 2 = 1 → m.retired = [] →
        (t.stack k).retired = [c] ∧ t.num 0x5500 1 = (s.num 0x5500 1 + 1) % 65536 ∧ EventCounted s t 9) := by
  intro k c m
  have hk : k < 24 := stack.isLt
  obtain ⟨u, hexec, hmem, hparts, hnum, f, hf⟩ := execTrainingWindowEnd_ended h converged
  have hleft : ∀ t : State, (t = (u.retire k c).takeSlot15 ∨ t = u) → (t.stack k).training = none ∧ SameMemory s t ∧
      tabGet 0 (t.stack k).trainFails c = (if converged then 0 else tabGet 0 m.trainFails c + 1) := fun t ht => by
    have hup : SameUpkeep (u.stack k) (t.stack k) ∧ SameMemory u t := by
      rcases ht with rfl | rfl
      · exact ⟨(State.retire_upkeep ..).trans ((Steady.takeSlot15 _).upkeep k), (Logged.retire ..).sameMemory.trans (Steady.takeSlot15 _).mem⟩
      · exact ⟨.refl _, .refl _⟩
    obtain ⟨⟨h1, h2, -⟩, h3⟩ := hup
    rw [h1, h2, hf]
    exact ⟨rfl, hmem.trans h3, tabGet_tabSet_same ..⟩
  obtain ⟨h1, h2, h3⟩ := hleft _ (ite_eq_or_eq (3 ≤ if converged = true then 0 else tabGet 0 (s.stack stack.val).trainFails pc.toNat + 1) _ _)
  refine ⟨_, hexec, h1, h2, h3, fun hc htwo hsw hr => ?_⟩
  subst hc
  have hn : 3 ≤ (if false = true then 0 else tabGet 0 (s.stack stack.val).trainFails pc.toNat + 1) := by
    rw [if_neg (by decide), show tabGet 0 (s.stack stack.val).trainFails pc.toNat = 2 from htwo]
  rw [if_pos hn]
  have hu55 : ∀ sub, sub < 256 → u.num 0x5500 sub = s.num 0x5500 sub := fun sub hs => hnum _ _ ⟨.inl (by decide), hs⟩
  obtain ⟨g1, g2, g3⟩ := State.retire_first (s := u) hk c (by rw [State.effDev_congr hparts (hu55 2 (by decide))]; exact hsw) (by rw [hf]; exact hr)
  have hst := Steady.takeSlot15 (u.retire k c)
  have h9 := State.takeSlot15_num (o := 0x9002) (sub := 9) ⟨by decide, by decide, .inr (by decide)⟩ (by decide) (u.retire k c)
  generalize u.retire k c = v at g1 g2 g3 hst h9
  obtain ⟨q, hq⟩ := hst.stack k
  refine ⟨?_, ?_, ?_⟩
  · rw [hq]
    exact g1
  · rw [hst.num _ _ (by decide) (by decide), g2, hu55 1 (by decide)]
  · rw [EventCounted, h9, g3, hnum _ _ ⟨.inr (by decide), by decide⟩]

/-- The words of `l` scrubbed, and the scrub of a channel moved on. -/
theorem State.scrubbed_left (s : State) (k c row : Nat) (l : List Nat) (ue : Nat) :
    ∃ u, u = ((({ s with dram := l.foldl Ram.scrubWord s.dram } : State).modStack k fun m =>
        { m with scrub := tabSet 0 m.scrub c ((row + 1) % 4194304) }).count (0x8020 + k) 3 l.length).seen ⟨k, c, row⟩ l.length ue ∧
      u.dram = l.foldl Ram.scrubWord s.dram ∧ (u.stack k).scrub = tabSet 0 (s.stack k).scrub c ((row + 1) % 4194304) := by
  refine ⟨_, rfl, ?_, ?_⟩
  · exact ((Logged.seen ..).sameMemory.2.2).trans (State.count_dram ..)
  · refine ((State.seen_upkeep ..).scrub).trans ?_
    rw [State.count_stack, State.stack_modStack_same]
    rfl

/-- The scrub of one granule. -/
theorem execPatrolScrub_left {s : State} {stack : Fin 24} {pc : BitVec 6} (hne : (s.stack stack.val).training ≠ some pc.toNat) :
    let k := stack.val
    let c := pc.toNat
    let m := s.stack k
    let row := tabGet 0 m.scrub c
    let f := s.dram.fetch (physAddr k c row) 256
    let data : CodeWord := BitVec.ofNat 72 (2 ^ 64 - 1)
    ∃ t, exec (.patrolScrub stack pc) s = .next t ∧ tabGet 0 (t.stack k).scrub c = (row + 1) % 4194304 ∧
      ∀ w, t.dram.codeWord w = if w ∈ f.ce
        then (eccCorrect (s.dram.codeWord w) &&& data) ||| (s.dram.codeWord w &&& ~~~data) else s.dram.codeWord w := by
  intro k c m row f data
  obtain ⟨u, hu, hdram, hscrub⟩ := s.scrubbed_left k c row f.ce f.ue.length
  obtain ⟨addr, hexec⟩ : ∃ addr, exec (.patrolScrub stack pc) s = .next (u.takeSlot15.scrubFaults (unitId (mDie k) 0 0xF 5) addr f.ue) := by
    refine ⟨s.addressAt k c row, ?_⟩
    show execPatrolScrub stack pc s = _
    rw [execPatrolScrub]
    dsimp only
    rw [if_neg hne, State.scrubFaults]
    generalize s.addressAt k c row = addr
    rw [hu] <;> rfl
  obtain ⟨h1, h2⟩ := u.takeSlot15.scrubFaults_left (unitId (mDie k) 0 0xF 5) addr f.ue k
  have hst := Steady.takeSlot15 u
  have hs := h2.scrub.trans ((hst.upkeep k).scrub.trans hscrub)
  have hd := h1.trans (hst.mem.2.2.trans hdram)
  refine ⟨_, hexec, (congrArg (fun x : Tab Nat => tabGet 0 x c) hs).trans (tabGet_tabSet_same ..), fun w => ?_⟩
  exact (congrArg (fun r : Ram => r.codeWord w) hd).trans (Ram.foldl_scrub f.ce (Ram.fetch_ce_nodup ..) s.dram w)

/-- A temperature sample of a stack. -/
theorem execStackTempSample_left (s : State) (stack : Fin 24) (temp : BitVec 32) :
    let k := stack.val
    let m := s.stack k
    let now := f32 temp.toNat
    let hot := atLeast now (f32 (s.num 0x5300 2))
    ∃ t, exec (.stackTempSample stack temp) s = .next t ∧ t.num 0x5310 (k + 1) = temp.toNat ∧ SameMemory s t ∧
      (m.emergency = false → hot = true → (t.stack k).emergency = true ∧ t.stackClass k = 4 ∧
        ∀ p, p < 16 → tabGet 0 (t.part p).serveClass k = 4) ∧
      (m.emergency = true → now.lt (fInt 100) = true → (t.stack k).emergency = false ∧ (t.stack k).thermal = 3 ∧
        ∀ p, p < 16 → tabGet 0 (t.part p).serveClass k =
          (match (s.part p).running with | some x => min 3 (x.classes.getD k 3) | none => 3)) ∧
      (m.emergency = false → hot = false → atLeast now s.throttleAt = true → atLeast (s.tempOf k) s.throttleAt = false →
        (t.stack k).thermal = min 3 (m.thermal + 1)) := by
  intro k m now hot
  have hk : k < 24 := stack.isLt
  let u := s.setNum 0x5310 (sub1 k) temp.toNat
  have hu : u.stack k = m := rfl
  have hut : u.num 0x5310 (k + 1) = temp.toNat := State.num_setNum_same ..
  have hu53 : u.num 0x5300 2 = s.num 0x5300 2 := State.num_setNum_ne _ _ (by unfold objKey sub1; omega)
  have hum : SameMemory s u := ⟨fun _ => ⟨rfl, rfl⟩, fun _ => rfl, rfl⟩
  have hup : ∀ p, u.part p = s.part p := fun _ => rfl
  have hexec : exec (.stackTempSample stack temp) s = .next (
      if m.emergency then if now.lt (fInt 100) then (u.leaveEmergency k).setThermal k 3 else u
      else if atLeast now (f32 (u.num 0x5300 2)) then
        (((u.enterEmergency k).setThermal k m.thermal).stopStackStrip k).forEach ((((u.enterEmergency k).setThermal k m.thermal).stopStackStrip k).chargedParts k)
          fun s p => s.breach7 p 1 (dieUnit (mDie k)) k
      else if atLeast now u.throttleAt && !atLeast (s.tempOf k) u.throttleAt then u.setThermal k (min 3 (m.thermal + 1))
      else u) := rfl
  have hthr : u.throttleAt = s.throttleAt := by
    unfold State.throttleAt
    rw [State.effDev_congr (s := s) (t := u) rfl (State.num_setNum_ne _ _ (by unfold objKey sub1; omega))]
  rw [hu53, hthr] at hexec
  clear_value u
  cases hem : m.emergency with
  | true =>
    rw [hem, if_pos rfl] at hexec
    by_cases hcool : now.lt (fInt 100) = true
    · rw [if_pos hcool] at hexec
      obtain ⟨g1, g2, g3, g4⟩ := u.leaveEmergency_left k
      obtain ⟨⟨f, hf⟩, r2, r3, r4, -⟩ := (u.leaveEmergency k).setThermal_class hk 3
      refine ⟨_, hexec, ?_, hum.trans (g2.trans r2), fun h => absurd h (by decide), fun _ _ => ⟨?_, ?_, fun p hp => ?_⟩, fun h => absurd h (by decide)⟩
      · rw [r4, g3, hut]
      · rw [hf, g1]
      · rw [hf]
      · rw [r3, g4 p hp, hup]
    · rw [if_neg hcool] at hexec
      exact ⟨_, hexec, hut, hum, fun h => absurd h (by decide), fun _ h => absurd h hcool, fun h => absurd h (by decide)⟩
  | false =>
    rw [hem, if_neg (by decide)] at hexec
    by_cases hhot : hot = true
    · rw [if_pos hhot] at hexec
      obtain ⟨g1, g2, g3, g4⟩ := u.enterEmergency_left k
      obtain ⟨⟨f, hf⟩, r2, r3, r4, -⟩ := (u.enterEmergency k).setThermal_class hk m.thermal
      generalize hv : (u.enterEmergency k).setThermal k m.thermal = v at hexec hf r2 r3 r4
      have hst : Steady v ((v.stopStackStrip k).forEach ((v.stopStackStrip k).chargedParts k) fun s p => s.breach7 p 1 (dieUnit (mDie k)) k) :=
        (Steady.stopStackStrip v hk).trans (.forEach _ (fun t p hp => .breach7 t (List.mem_range.1 (List.mem_of_mem_filter hp)) ..) _)
      generalize (v.stopStackStrip k).forEach ((v.stopStackStrip k).chargedParts k) (fun s p => s.breach7 p 1 (dieUnit (mDie k)) k) = w at hexec hst
      obtain ⟨q, hq⟩ := hst.stack k
      have hemer : (w.stack k).emergency = true := by rw [hq, hf, g1]
      refine ⟨_, hexec, ?_, hum.trans (g2.trans (r2.trans hst.mem)), fun _ _ => ⟨hemer, ?_, fun p hp => ?_⟩, fun h => absurd h (by decide), fun _ h => ?_⟩
      · rw [hst.num _ _ (by decide) (by omega), r4, g3, hut]
      · unfold State.stackClass
        dsimp only
        rw [if_pos hemer]
      · rw [hst.serve, r3, g4 p hp]
      · rw [hhot] at h
        cases h
    · rw [if_neg hhot] at hexec
      by_cases hcross : (atLeast now s.throttleAt && !atLeast (s.tempOf k) s.throttleAt) = true
      · rw [if_pos hcross] at hexec
        obtain ⟨⟨f, hf⟩, r2, -, r4, -⟩ := u.setThermal_class hk (min 3 (m.thermal + 1))
        refine ⟨_, hexec, r4.trans hut, hum.trans r2, fun _ h => absurd h hhot, fun h => absurd h (by decide), fun _ _ _ _ => ?_⟩
        rw [hf]
      · rw [if_neg hcross] at hexec
        refine ⟨_, hexec, hut, hum, fun _ h => absurd h hhot, fun h => absurd h (by decide), fun _ _ h1 h2 => absurd ?_ hcross⟩
        rw [h1, h2]
        rfl

/-- Settles O35, by what each command of the upkeep leaves of its stack. -/
theorem stackUpkeep : Obligations.StackUpkeep := by
  unfold Obligations.StackUpkeep
  intro s stack pc k m c
  have hk : k < 24 := stack.isLt
  refine ⟨execTrainingWindowStart_open pc, fun converged h => execTrainingWindowEnd_left converged h, fun h => congrArg Host.Outcome.next (if_pos h),
    fun h => execPatrolScrub_left h, fun temp => execStackTempSample_left s stack temp, fun he hlt hat => ?_, fun he hpos hlt => ?_, fun hw hm happ hold htest => ?_,
    fun htest => ⟨?_, ?_⟩, fun htr => ?_, fun hm hmv htest htr => ?_⟩
  · have hexec : exec (.thermalClassRise stack) s = .next (s.setThermal k (m.thermal + 1)) := congrArg Host.Outcome.next (if_neg (by
      rw [show (s.stack stack.val).emergency = false from he, show atLeast (s.tempOf stack.val) s.throttleAt = true from hat,
        show decide (3 ≤ (s.stack stack.val).thermal) = false from decide_eq_false (by show ¬ 3 ≤ m.thermal; omega)]
      decide))
    obtain ⟨⟨f, hf⟩, -, -, -, h⟩ := s.setThermal_class hk (m.thermal + 1)
    exact ⟨_, hexec, by rw [hf], h⟩
  · have hexec : exec (.thermalClassFall stack) s = .next (s.setThermal k (m.thermal - 1)) := congrArg Host.Outcome.next (if_neg (by
      rw [show (s.stack stack.val).emergency = false from he, show (s.tempOf stack.val).lt s.coolBelow = true from hlt,
        show ((s.stack stack.val).thermal == 0) = false from beq_false_of_ne (by show m.thermal ≠ 0; omega)]
      decide))
    obtain ⟨⟨f, hf⟩, -, -, -, h⟩ := s.setThermal_class hk (m.thermal - 1)
    exact ⟨_, hexec, by rw [hf], h⟩
  · have hexec : exec (.migrationStart stack) s = .next ((s.setStack k { m with waiting2 := false, older := [], migrating := true, moved := 0 }).setNum 0x5520 (sub1 k) 0) := by
      show execMigrationStart stack s = _
      rw [execMigrationStart]
      dsimp only
      rw [show (s.stack stack.val).waiting2 = true from hw, show (s.stack stack.val).migrating = false from hm, show s.underTest (80 + stack.val) = false from htest,
        show (s.stack stack.val).older.any s.acceptedSteps.contains = false from hold, if_neg (by decide), if_neg]
      rw [Bool.not_eq_true', Bool.not_eq_false]
      rcases happ with h | ⟨h1, h2⟩
      · rw [h]
        rfl
      · rw [show (s.num 0x5330 (sub1 stack.val) == 1) = true from beq_iff_eq.2 h1, show (s.enabledParts.all fun p => (s.num 0x300F 6).testBit p) = true from List.all_eq_true.2 h2]
        simp
    refine ⟨_, hexec, ?_, ?_, ?_, State.num_setNum_same ..⟩ <;> rw [State.setNum_stack, State.stack_setStack_same]
  · exact congrArg Host.Outcome.next (if_pos (by rw [show s.underTest (80 + stack.val) = true from htest]; simp))
  · exact congrArg Host.Outcome.next (if_pos (by rw [show s.underTest (80 + stack.val) = true from htest]; simp))
  · show execMigrationBlockCopy stack s = _
    rw [execMigrationBlockCopy]
    dsimp only
    rw [show (s.stack stack.val).trains (rangeFrom ((s.stack stack.val).moved * 4096) 4096) = true from htr, if_pos rfl, ite_self]
  · let u := s.forEach m.mapped fun s c => s.forEach (rangeFrom (m.moved * 4096) 4096) fun s l => s.migrateRow k c l
    have hexec : exec (.migrationBlockCopy stack) s =
        .next ((u.modStack k fun x => { x with moved := m.moved + 1, migrating := decide (m.moved + 1 < 992) }).setNum 0x5520 (sub1 k) (m.moved + 1)).takeSlot15 := by
      show execMigrationBlockCopy stack s = _
      rw [execMigrationBlockCopy]
      dsimp only
      rw [show (s.stack stack.val).migrating = true from hm, show s.underTest (80 + stack.val) = false from htest,
        show decide (992 ≤ (s.stack stack.val).moved) = false from decide_eq_false (by show ¬ 992 ≤ m.moved; omega), if_neg (by decide), if_neg (by rw [htr]; decide)]
    clear_value u
    have hst := Steady.takeSlot15 ((u.modStack k fun x => { x with moved := m.moved + 1, migrating := decide (m.moved + 1 < 992) }).setNum 0x5520 (sub1 k) (m.moved + 1))
    obtain ⟨f, hf⟩ := hst.stack k
    rw [State.setNum_stack, State.stack_modStack_same] at hf
    refine ⟨_, hexec, by rw [hf], by rw [hf], ?_⟩
    rw [hst.num _ _ (by decide) (by omega)]
    exact State.num_setNum_same ..

end Sys2Proof.Machine
end

section
/-! SUPPORT. A collective operation: its chunks, its messages sent, and what follows a change when nothing is due. -/

namespace Sys2Proof.Machine

theorem State.NothingDue.congr {s t : State} {p : Nat} (h : s.NothingDue p) (hp : t.parts = s.parts) : t.NothingDue p := by
  have hpart : t.part p = s.part p := by rw [State.part, State.part, hp]
  exact ⟨hpart ▸ h.1, fun x hx => h.2 x (by rwa [State.running, hpart] at hx)⟩

theorem State.NothingDue.settled {s : State} {p : Nat} (h : s.NothingDue p) : (s.settle p).settleCut p = s := by
  rw [State.settle_undue h.2, State.settleCut_none h.1]

theorem State.NothingDue.free {s : State} {i : Inst} (h : s.NothingDue i.part) : s.collHeld i = false := by
  rw [State.collHeld, h.1]

theorem State.noteUsable_unready {s : State} {g q : Nat} {i : Inst} (hi : s.inst g q = some i) (hr : i.readyAt = none) : s.noteUsable g q = s := by
  rw [State.noteUsable, hi]
  dsimp only
  rw [hr]

theorem Post.drain_nil (s : State) (n : Nat) : Post.drain n (s, []) = s := by
  cases n <;> rfl

/-- With no message of the module's own left and nothing due, nothing more follows a change of an operation. -/
theorem Post.run_done {s : State} {g q : Nat} {i : Inst} (hi : s.inst g q = some i) (hr : i.readyAt = none) (h : s.NothingDue i.part) :
    Post.run (s, []) g q = s := by
  rw [Post.run, Post.drain_nil, State.noteUsable_unready hi hr, hi]
  exact h.settled

theorem State.inst_named {s : State} {g q : Nat} {i : Inst} (h : s.inst g q = some i) : i.group = g ∧ i.seq = q := by
  simpa using List.find?_some h

/-- A change of a chunk is a change of its operation. -/
theorem State.inst_modChunk {s : State} {g q : Nat} {i : Inst} (h : s.inst g q = some i) (c : Nat) (f : ChunkSt → ChunkSt) :
    (s.modChunk g q c f).inst g q = some { i with chunks := tabMod ChunkSt.new i.chunks c f } :=
  State.inst_modInst h ⟨rfl, rfl⟩

theorem Inst.chunk_tabMod (i : Inst) (c : Nat) (f : ChunkSt → ChunkSt) :
    ({ i with chunks := tabMod ChunkSt.new i.chunks c f } : Inst).chunk c = f (i.chunk c) := tabGet_tabSet_same ..

theorem State.modChunk_eq (s : State) (g q c : Nat) (f : ChunkSt → ChunkSt) :
    s.modChunk g q c f = { s with coll := { s.coll with insts := (s.modChunk g q c f).coll.insts } } := rfl

/-- A message of the engine's is kept until it is acknowledged; nothing else but what is sent and counted changes. -/
theorem State.launchSent_kept (s : State) (x : Sent) (port : Option Nat) : ∃ y : Sent, (y.msg = x.msg ∧ y.payload = x.payload) ∧
    ∃ o l, s.launchSent x port = { s with out := o, localCounts := l, coll := { s.coll with sent := s.coll.sent ++ [y] } } := by
  cases port with
  | none => exact ⟨{ x with port := 0xFF, msgId := 0 }, ⟨rfl, rfl⟩, s.out, s.localCounts, rfl⟩
  | some q =>
    cases hid : s.freeId x.msg.dstModule.toNat x.used with
    | none =>
      refine ⟨{ x with port := 0xFF, msgId := 0 }, ⟨rfl, rfl⟩, s.out, s.localCounts, ?_⟩
      unfold State.launchSent
      rw [hid]
      rfl
    | some id =>
      obtain ⟨o, l, h⟩ := State.launchSent_sent (q := q) hid
      exact ⟨{ x with port := q, msgId := id }, ⟨rfl, rfl⟩, _, l, h⟩

/-- A message for another module goes out and is kept. -/
theorem Post.send_away {t : Post} {m : CollMsg} {d : List CodeWord} (h : m.dstModule.toNat ≠ t.1.moduleId) : ∃ y : Sent, (y.msg = m ∧ y.payload = d) ∧
    ∃ o l, t.send m d = ({ t.1 with out := o, localCounts := l, coll := { t.1.coll with sent := t.1.coll.sent ++ [y] } }, t.2) := by
  obtain ⟨y, hy, o, l, e⟩ := t.1.launchSent_kept ⟨m, d, 0xFF, 0, 0, 0, []⟩ (t.1.portFor m)
  exact ⟨y, hy, o, l, by rw [Post.send, if_neg h, State.sendColl, e]⟩

theorem State.collHeader_congr {s t : State} (h : t.moduleId = s.moduleId) (kind : Nat) (i : Inst) (dst c first span round : Nat) :
    t.collHeader kind i dst c first span round = s.collHeader kind i dst c first span round := by
  rw [State.collHeader, State.collHeader, h]

theorem State.raise_moduleId (s : State) (e : Event) : (s.raise e).moduleId = s.moduleId :=
  State.raise_num_low (o := 0x6100) (sub := 1) ⟨by decide, by decide⟩ s e

theorem blind_cmdsOf (k p : Nat) : Blind fun s => s.cmdsOf k p where
  setNum _ _ _ _ _ := rfl
  setBlob _ _ _ _ := rfl
  setFilm s f v := (Filmed.setFilm s f v).cmds k p
  emit _ _ := rfl
  seq _ _ := rfl
  gap _ _ := rfl

/-- An event of a failed check is counted. -/
theorem State.residueEvent_counted (s : State) (p unit place c pc : Nat) : EventCounted s (s.residueEvent p unit place c pc) 5 :=
  s.raise_counted (e := { Event.of 0x05 unit (place % 256 + c * 256) with part := some p, step := s.runningSeq p, pc := pc })
    (by exact (by decide : (5 : Nat) < 256)) (by exact (by decide : (5 : Nat) ≠ 9)) (by exact (by decide : (5 : Nat) ≠ 0x0A))

theorem State.modInst_modInst (s : State) {g q : Nat} {f f' : Inst → Inst} (hf : ∀ x, x.group = g ∧ x.seq = q → (f x).group = g ∧ (f x).seq = q) :
    (s.modInst g q f).modInst g q f' = s.modInst g q fun x => f' (f x) := by
  have h : ∀ l : List Inst, (l.map fun x => if x.group = g ∧ x.seq = q then f x else x).map
      (fun x => if x.group = g ∧ x.seq = q then f' x else x) = l.map fun x => if x.group = g ∧ x.seq = q then f' (f x) else x := fun l => by
    rw [List.map_map]
    refine List.map_congr_left fun x _ => ?_
    rw [Function.comp_apply]
    by_cases hx : x.group = g ∧ x.seq = q
    · rw [if_pos hx, if_pos (hf x hx), if_pos hx]
    · rw [if_neg hx, if_neg hx, if_neg hx]
  exact congrArg (fun l => ({ s with coll := { s.coll with insts := l } } : State)) (h s.coll.insts)

/-! ### Readiness -/

theorem State.chunkReady_congr {s t : State} (h : t.moduleId = s.moduleId) {i j : Inst} (he : j.entry = i.entry) (hw : j.written = i.written) (c : Nat) :
    t.chunkReady j c = s.chunkReady i c := by
  unfold State.chunkReady State.contributors State.inputOffset State.heldRanks
  rw [he, hw, h]

/-- A chunk that is not ready does not start. -/
theorem Post.start_unready {t : Post} {g q c : Nat} {i : Inst} (hi : t.1.inst g q = some i) (h : (i.chunk c).ready = false) : t.start g q c = t := by
  unfold Post.start
  rw [hi]
  dsimp only
  rw [if_pos (by simp [h])]

theorem Post.starts_unready {t : Post} {g q : Nat} {i : Inst} (hi : t.1.inst g q = some i) {l : List Nat}
    (h : ∀ c ∈ l, (i.chunk c).ready = false) : l.foldl (fun (t : Post) c => t.start g q c) t = t := by
  induction l with
  | nil => rfl
  | cons c l ih =>
    rw [List.foldl_cons, Post.start_unready hi (h c List.mem_cons_self)]
    exact ih fun c' hc => h c' (List.mem_cons_of_mem _ hc)

/-- Granules that make no chunk ready start nothing. -/
theorem State.startReady_unready {s : State} {g q : Nat} {i : Inst} (hi : s.inst g q = some i) (hr : i.readyAt = none) (hdue : s.NothingDue i.part)
    (h : ∀ c, c < i.entry.chunks.length → (i.chunk c).ready = false ∧ s.chunkReady i c = false) : s.startReady g q = s := by
  have hnew : ((List.range i.entry.chunks.length).filter fun c => !(i.chunk c).ready && s.chunkReady i c) = [] :=
    List.filter_eq_nil_iff.2 fun c hc => by simp [h c (List.mem_range.1 hc)]
  rw [State.startReady, hi]
  dsimp only
  rw [hnew, State.forEach_nil, if_neg (by simp), Post.starts_unready hi fun c hc => (h c (List.mem_range.1 hc)).1]
  exact Post.run_done hi hr hdue

theorem execCstart_unready {s : State} {m : CollMsg} {i : Inst} {p : BitVec 4} (first count : Nat)
    (hi : s.inst m.group.toNat m.seq.toNat = some i) (ha : i.abort = none) (hdue : s.NothingDue i.part) (hr : i.readyAt = none)
    (hb : badMsg m = false) (hk : m.kind = 0x30) (hp : i.part = p.toNat) (hs : i.started = true)
    (hd : ∀ m, i.first = some m → disagreement i m = 0)
    (h : ∀ c, c < i.entry.chunks.length → (i.chunk c).ready = false ∧
      s.chunkReady { i with written := i.written ++ (rangeFrom first count).filter fun k => !i.written.contains k } c = false) :
    exec (.cstart p m first count) s = .next (s.modInst m.group.toNat m.seq.toNat fun x => { x with
      first := none, written := x.written ++ (rangeFrom first count).filter fun k => !i.written.contains k }) := by
  have hwrong : (i.first.map (disagreement i)).getD 0 = 0 := by
    cases hf : i.first with
    | none => rfl
    | some n => exact hd n hf
  show execCstart p m first count s = _
  rw [execCstart]
  dsimp only
  rw [hb, if_neg (by decide), hi]
  dsimp only
  rw [if_neg (by simp [hk, hp, hs]), ha, hwrong]
  dsimp only
  rw [if_neg (by decide)]
  generalize ((rangeFrom first count).filter fun k => !i.written.contains k) = new at h
  have htwice : (s.modInst m.group.toNat m.seq.toNat fun i => { i with first := none }).modInst m.group.toNat m.seq.toNat
      (fun i => { i with written := i.written ++ new }) =
      s.modInst m.group.toNat m.seq.toNat fun x => { x with first := none, written := x.written ++ new } :=
    State.modInst_modInst s fun _ h => h
  have hinst : (s.modInst m.group.toNat m.seq.toNat fun x => { x with first := none, written := x.written ++ new }).inst m.group.toNat m.seq.toNat =
      some { i with first := none, written := i.written ++ new } := State.inst_modInst hi ⟨rfl, rfl⟩
  rw [htwice, State.startReady_unready hinst hr (State.NothingDue.congr (s := s) hdue rfl)]
  exact fun c hc => ⟨(h c hc).1, (State.chunkReady_congr rfl rfl rfl c).trans (h c hc).2⟩

/-! ### Verdicts -/

/-- A verdict is noted at the node whose checks it is of, the operation being as it was but for that. -/
theorem State.modChunk_noted {s : State} {g q c : Nat} {i : Inst} (hi : s.inst g q = some i) {x : NodeSt} {f : NodeSt → NodeSt}
    (hx : x ∈ (i.chunk c).nodes) : ∃ j, (s.modChunk g q c fun k => { k with nodes := k.nodes.map f }).inst g q = some j ∧
      f x ∈ (j.chunk c).nodes ∧ j.part = i.part ∧ j.readyAt = i.readyAt ∧ (j.chunk c).phase = (i.chunk c).phase := by
  refine ⟨_, State.inst_modChunk hi c _, ?_, rfl, rfl, ?_⟩
  · rw [Inst.chunk_tabMod]
    exact List.mem_map_of_mem hx
  · rw [Inst.chunk_tabMod]

/-- The node whose verdict is awaited: it has its value in the chunk's present round and no verdict. -/
def NodeSt.awaits (k : ChunkSt) (first span : Nat) (n : NodeSt) : Bool :=
  n.first == first && n.span == span && n.round == k.round && n.value.isSome && n.verdict.isNone

/-- The verdict noted at the nodes that await it. -/
def NodeSt.judged (k : ChunkSt) (first span : Nat) (clean : Bool) (n : NodeSt) : NodeSt :=
  if n.awaits k first span then { n with verdict := some clean } else n

theorem State.nodeVerdict_open {s : State} {g q c first span : Nat} {i : Inst} (hi : s.inst g q = some i) (ha : i.abort = none)
    (hdue : s.NothingDue i.part) {x : NodeSt} (hx : x ∈ (i.chunk c).nodes) (hw : x.awaits (i.chunk c) first span = true) (clean : Bool) :
    s.nodeVerdict g q c first span clean =
      (fun s' : State => if clean then (Post.clean (s', []) g q c).run g q
        else (Post.failedVerdict (s'.residueEvent i.part (dieUnit (s'.chunkDie c)) (s'.collPorts.getD (c % max s'.collPorts.length 1) 0) c 0xFF, [])
          i c first span (i.chunk c).round).run g q)
      (s.modChunk g q c fun k => { k with nodes := k.nodes.map (NodeSt.judged (i.chunk c) first span clean) }) := by
  have hany : (i.chunk c).nodes.any (fun n => n.first == first && n.span == span && n.round == (i.chunk c).round && n.value.isSome &&
      n.verdict.isNone) = true := List.any_eq_true.2 ⟨x, hx, hw⟩
  rw [State.nodeVerdict, hi]
  dsimp only
  rw [if_neg (by rw [ha, hany]; decide), hdue.free, if_neg (by decide)]
  rfl

theorem State.nodeVerdict_clean {s : State} {g q c first span : Nat} {i : Inst} (hi : s.inst g q = some i) (ha : i.abort = none)
    (hr : i.readyAt = none) (hdue : s.NothingDue i.part) {x : NodeSt} (hx : x ∈ (i.chunk c).nodes) (hw : x.awaits (i.chunk c) first span = true)
    (hp : (i.chunk c).phase = .opened) : ∃ j, (s.nodeVerdict g q c first span true).inst g q = some j ∧
      { x with verdict := some true } ∈ (j.chunk c).nodes := by
  obtain ⟨j, hj, hn, hpart, hready, hphase⟩ := State.modChunk_noted hi (f := NodeSt.judged (i.chunk c) first span true) hx
  have hdue' : (s.modChunk g q c fun k => { k with nodes := k.nodes.map (NodeSt.judged (i.chunk c) first span true) }).NothingDue j.part :=
    hpart ▸ hdue.congr rfl
  rw [State.nodeVerdict_open hi ha hdue hx hw]
  dsimp only
  generalize (s.modChunk g q c fun k => { k with nodes := k.nodes.map (NodeSt.judged (i.chunk c) first span true) }) = u at hj hdue' ⊢
  have hclean : Post.clean (u, []) g q c = (u, []) := by
    rw [Post.clean]
    dsimp only
    rw [hj]
    dsimp only
    rw [if_pos (by rw [hphase, hp]; decide)]
  rw [if_pos rfl, hclean, Post.run_done hj (hready.trans hr) hdue']
  rw [NodeSt.judged, if_pos hw] at hn
  exact ⟨j, hj, hn⟩

theorem State.nodeVerdict_failed {s : State} {g q c first span : Nat} {i : Inst} (hi : s.inst g q = some i) (ha : i.abort = none)
    (hr : i.readyAt = none) (hdue : s.NothingDue i.part) {x : NodeSt} (hx : x ∈ (i.chunk c).nodes) (hw : x.awaits (i.chunk c) first span = true)
    (hd : i.entry.computer c 0 i.entry.ranks.length % 2 ^ 32 ≠ s.moduleId) : ∃ j y, (s.nodeVerdict g q c first span false).inst g q = some j ∧
      { x with verdict := some false } ∈ (j.chunk c).nodes ∧ EventCounted s (s.nodeVerdict g q c first span false) 5 ∧
      y ∈ (s.nodeVerdict g q c first span false).coll.sent ∧
      y.msg = s.collHeader 0x35 i (i.entry.computer c 0 i.entry.ranks.length) c first span (i.chunk c).round := by
  obtain ⟨j, hj, hn, hpart, hready, -⟩ := State.modChunk_noted hi (f := NodeSt.judged (i.chunk c) first span false) hx
  rw [NodeSt.judged, if_pos hw] at hn
  rw [State.nodeVerdict_open hi ha hdue hx hw]
  dsimp only
  have hdue' : (s.modChunk g q c fun k => { k with nodes := k.nodes.map (NodeSt.judged (i.chunk c) first span false) }).NothingDue j.part :=
    hpart ▸ hdue.congr rfl
  have hnum : (s.modChunk g q c fun k => { k with nodes := k.nodes.map (NodeSt.judged (i.chunk c) first span false) }).num = s.num := rfl
  generalize (s.modChunk g q c fun k => { k with nodes := k.nodes.map (NodeSt.judged (i.chunk c) first span false) }) = u at hj hdue' hnum ⊢
  rw [if_neg (by decide)]
  have hcount := u.residueEvent_counted i.part (dieUnit (u.chunkDie c)) (u.collPorts.getD (c % max u.collPorts.length 1) 0) c 0xFF
  have hlog : Logged u (u.residueEvent i.part (dieUnit (u.chunkDie c)) (u.collPorts.getD (c % max u.collPorts.length 1) 0) c 0xFF) := .raise ..
  have hid : (u.residueEvent i.part (dieUnit (u.chunkDie c)) (u.collPorts.getD (c % max u.collPorts.length 1) 0) c 0xFF).moduleId = s.moduleId :=
    (State.raise_moduleId ..).trans (by rw [State.moduleId, hnum]; rfl)
  generalize u.residueEvent i.part (dieUnit (u.chunkDie c)) (u.collPorts.getD (c % max u.collPorts.length 1) 0) c 0xFF = v at hcount hlog hid ⊢
  have hcoll : v.coll = u.coll := by rw [hlog.rest]
  rw [Post.failedVerdict, Post.about]
  obtain ⟨y, ⟨hy, -⟩, o, l, e⟩ := Post.send_away (t := (v, [])) (d := [])
    (m := v.collHeader 0x35 i (i.entry.computer c 0 i.entry.ranks.length) c first span (i.chunk c).round)
    (by rw [State.collHeader]; dsimp only; rw [BitVec.toNat_ofNat, hid]; exact hd)
  rw [e]
  dsimp only
  have hinst : ({ v with out := o, localCounts := l, coll := { v.coll with sent := v.coll.sent ++ [y] } } : State).inst g q = some j := by
    rw [State.inst] at hj ⊢
    dsimp only
    rw [hcoll]
    exact hj
  rw [Post.run_done hinst (hready.trans hr) (hdue'.congr hlog.parts)]
  refine ⟨j, y, hinst, hn, ?_, List.mem_append_right _ List.mem_cons_self, hy.trans (State.collHeader_congr hid ..)⟩
  rw [EventCounted, hnum] at hcount
  exact hcount

/-- A failed check gives the command that runs at the front status 1. -/
theorem State.residueFault_front {s : State} {k p n : Nat} {c : NmuCmd} (hf : s.front k p = some (n, c)) (hr : c.running = true) (hk : c.kind ≠ 3)
    (h0 : c.status = 0) (unit pc : Nat) : EventCounted s (s.residueFault k p unit pc) 5 ∧ SameMemory s (s.residueFault k p unit pc) ∧
      (s.residueFault k p unit pc).cmdsOf k p =
        setAt (s.cmdsOf k p) n { c with status := 1, faultPc := if unit = 2 then pc else 0xFF } := by
  obtain ⟨chunk, e⟩ : ∃ chunk, s.residueFault k p unit pc =
      (fun u : State => u.setCmds k p (setAt (u.cmdsOf k p) n { c with status := 1, faultPc := if unit = 2 then pc else 0xFF }))
        (s.residueEvent p (nmuUnit k unit) pc chunk (if unit = 2 then pc else 0xFF)).drawn := by
    rw [State.residueFault, hf]
    dsimp only
    rw [if_neg (by simp [hr, hk]), if_neg (by simp [h0])]
    exact ⟨_, rfl⟩
  rw [e]
  have hcount := s.residueEvent_counted p (nmuUnit k unit) pc chunk (if unit = 2 then pc else 0xFF)
  have hmem : SameMemory s (s.residueEvent p (nmuUnit k unit) pc chunk (if unit = 2 then pc else 0xFF)) := (Logged.raise ..).sameMemory
  have hcmds : (s.residueEvent p (nmuUnit k unit) pc chunk (if unit = 2 then pc else 0xFF)).cmdsOf k p = s.cmdsOf k p :=
    (blind_cmdsOf k p).raise ..
  generalize s.residueEvent p (nmuUnit k unit) pc chunk (if unit = 2 then pc else 0xFF) = u at hcount hmem hcmds ⊢
  refine ⟨hcount, hmem.trans ⟨fun _ => ⟨rfl, rfl⟩, fun _ => rfl, rfl⟩, ?_⟩
  dsimp only
  rw [State.cmdsOf_setCmds, show u.drawn.cmdsOf k p = s.cmdsOf k p from hcmds]

/-! ### What a check answers -/

theorem AdderCheck.rawOk_iff {x : AdderCheck} :
    x.rawOk = true ↔ if x.differ then (x.raw + x.b) % 15 = x.a % 15 else x.raw % 15 = (x.a + x.b) % 15 := by
  unfold AdderCheck.rawOk residue15
  cases x.differ with
  | true =>
    rw [if_pos rfl, if_pos rfl]
    simp only [beq_iff_eq]
    omega
  | false =>
    rw [if_neg (by decide), if_neg (by decide)]
    simp only [beq_iff_eq]
    omega

/-- The check of a right rounding passes. -/
theorem AdderCheck.roundOk_right {x : AdderCheck} (h : if x.up then x.rounded = x.raw * 2 ^ x.shift + x.inc
    else x.inc ≤ x.rounded ∧ x.raw = (x.rounded - x.inc) * 2 ^ x.shift + x.dropped) : x.roundOk = true := by
  unfold AdderCheck.roundOk residue15
  cases hu : x.up with
  | true =>
    rw [hu, if_pos rfl] at h
    dsimp only
    rw [if_pos rfl, beq_iff_eq, ← Nat.mul_mod, ← Nat.mul_mod_mod, Nat.mul_mod_mod]
    generalize x.raw * 2 ^ x.shift = v at h ⊢
    omega
  | false =>
    rw [hu, if_neg (by decide)] at h
    obtain ⟨hi, h⟩ := h
    have hkept : (x.rounded % 15 + 15 - x.inc % 15) % 15 = (x.rounded - x.inc) % 15 := by omega
    dsimp only
    rw [if_neg (by decide), beq_iff_eq, hkept, h, Nat.add_mod, Nat.mul_mod, Nat.mod_add_mod]

theorem pow_two_mod_15 (k : Nat) : 2 ^ k % 15 ≠ 0 := fun h => by
  have h3 : 3 ∣ 2 ^ k := (by decide : 3 ∣ 15).trans (Nat.dvd_of_mod_eq_zero h)
  exact absurd (Nat.prime_three.dvd_of_dvd_pow h3) (by decide)

/-- One wrong bit of a right raw sum is found. -/
theorem AdderCheck.oneBit_found {x : AdderCheck} (h : if x.differ then x.raw + x.b = x.a else x.raw = x.a + x.b) (k : Nat) :
    ({ x with raw := x.raw + 2 ^ k } : AdderCheck).rawOk = false := by
  have hk := pow_two_mod_15 k
  rw [Bool.eq_false_iff, ne_eq, AdderCheck.rawOk_iff]
  dsimp only
  generalize 2 ^ k = v at hk
  cases hd : x.differ with
  | true =>
    rw [hd, if_pos rfl] at h
    rw [if_pos rfl]
    omega
  | false =>
    rw [hd, if_neg (by decide)] at h
    rw [if_neg (by decide)]
    omega

theorem AdderCheck.clean_right {x : AdderCheck} (h : if x.differ then x.raw + x.b = x.a else x.raw = x.a + x.b)
    (hr : if x.up then x.rounded = x.raw * 2 ^ x.shift + x.inc
      else x.inc ≤ x.rounded ∧ x.raw = (x.rounded - x.inc) * 2 ^ x.shift + x.dropped) : x.clean = (x.exp0 == x.exp1) := by
  have hraw : x.rawOk = true := by
    rw [AdderCheck.rawOk_iff]
    cases hd : x.differ with
    | true =>
      rw [hd, if_pos rfl] at h
      rw [if_pos rfl, h]
    | false =>
      rw [hd, if_neg (by decide)] at h
      rw [if_neg (by decide), h]
  rw [AdderCheck.clean, hraw, AdderCheck.roundOk_right hr]
  rfl

/-- Settles O31, by following each verdict to its node, its message and its event. -/
theorem readinessAndVerdicts : Obligations.ReadinessAndVerdicts := by
  unfold Obligations.ReadinessAndVerdicts
  intro s i m group seq g q
  refine ⟨fun hi ha hdue hr _ => ⟨?_, ?_⟩, ?_, ?_⟩
  · intro p first count hb hk hg hq hp hs hd j h
    subst hg hq
    exact execCstart_unready first count hi ha hdue hr hb hk hp hs hd h
  · intro chunk first span x ops shifts raws rounds exps checks c k n hx h1 h2 h3 h4 h5
    have hw : x.awaits k first.toNat span.toNat = true := by
      rw [NodeSt.awaits, h1, h2, h3, h5, Option.isSome_iff_ne_none.2 h4]
      simp
    have hexec : exec (.residueVerdict (.node group seq chunk first span) ops raws shifts rounds exps) s =
      .next (s.nodeVerdict g q c first.toNat span.toNat (checks.all AdderCheck.clean)) := rfl
    refine ⟨fun hp hclean => ?_, fun hd hclean => ?_⟩
    · rw [hexec, hclean]
      obtain ⟨j, hj, hn⟩ := State.nodeVerdict_clean hi ha hr hdue hx hw hp
      exact ⟨_, j, rfl, hj, hn⟩
    · rw [hexec, hclean]
      obtain ⟨j, y, h⟩ := State.nodeVerdict_failed hi ha hr hdue hx hw hd
      exact ⟨_, j, y, rfl, h⟩
  · intro stack p pc ops shifts raws rounds exps n c checks k
    have hnmu : exec (.residueVerdict (.nmu stack p pc) ops raws shifts rounds exps) s =
      .next (if checks.all AdderCheck.clean then s else s.residueFault k p.toNat 2 pc.toNat) := rfl
    have hmerge : exec (.residueVerdict (.merge stack p) ops raws shifts rounds exps) s =
      .next (if checks.all AdderCheck.clean then s else s.residueFault k p.toNat 3 0xFF) := rfl
    rw [hnmu, hmerge]
    refine ⟨fun hclean => ?_, fun hclean hf hrun hk h0 => ?_⟩
    · rw [hclean]
      exact ⟨rfl, rfl⟩
    · rw [hclean]
      exact ⟨⟨_, rfl, State.residueFault_front hf hrun hk h0 2 pc.toNat⟩, ⟨_, rfl, State.residueFault_front hf hrun hk h0 3 0xFF⟩⟩
  · intro x h hr
    refine ⟨AdderCheck.clean_right h hr, fun k => ?_⟩
    rw [AdderCheck.clean, AdderCheck.oneBit_found h k]
    rfl

end Sys2Proof.Machine
end

section
/-! SUPPORT. An operation aborted, and what a message between modules says once. -/

namespace Sys2Proof.Machine

theorem State.sendColl_kept (s : State) (m : CollMsg) (d : List CodeWord) : ∃ y : Sent, (y.msg = m ∧ y.payload = d) ∧
    ∃ o l, s.sendColl m d = { s with out := o, localCounts := l, coll := { s.coll with sent := s.coll.sent ++ [y] } } :=
  s.launchSent_kept ⟨m, d, 0xFF, 0, 0, 0, []⟩ (s.portFor m)

/-- `t` follows `s` by messages sent: what is sent and counted alone has changed, and `l` is what has been sent. -/
structure Mailed (s t : State) (l : List CollMsg) : Prop where
  rest : t = { s with out := t.out, localCounts := t.localCounts, coll := { s.coll with sent := t.coll.sent } }
  sent : t.coll.sent.map Sent.msg = s.coll.sent.map Sent.msg ++ l

theorem Mailed.refl (s : State) : Mailed s s [] := ⟨rfl, (List.append_nil _).symm⟩

theorem Mailed.trans {s t u : State} {l l' : List CollMsg} (h : Mailed s t l) (g : Mailed t u l') : Mailed s u (l ++ l') where
  rest := by
    have hg := g.rest
    rw [h.rest] at hg
    exact hg
  sent := by rw [g.sent, h.sent, List.append_assoc]

theorem Mailed.sendColl (s : State) (m : CollMsg) (d : List CodeWord) : Mailed s (s.sendColl m d) [m] := by
  obtain ⟨y, ⟨hy, -⟩, o, l, e⟩ := s.sendColl_kept m d
  rw [e]
  exact ⟨rfl, by simp [hy]⟩

/-- One message to each of a list, its text fixed by the module alone. -/
theorem Mailed.forEach {s : State} {α : Type} {f : State → α → CollMsg} {g : α → CollMsg} (hf : ∀ t x, t.num = s.num → f t x = g x) (l : List α) :
    ∀ t, t.num = s.num → Mailed t (t.forEach l fun t x => t.sendColl (f t x) []) (l.map g) := by
  induction l with
  | nil => exact fun t _ => .refl t
  | cons x l ih =>
    intro t ht
    have h1 := Mailed.sendColl t (f t x) []
    rw [hf t x ht] at h1
    have hn : (t.sendColl (g x) []).num = s.num := by rw [h1.rest]; exact ht
    rw [State.forEach_cons, hf t x ht]
    exact h1.trans (ih _ hn)

theorem Mailed.num {s t : State} {l : List CollMsg} (h : Mailed s t l) : t.num = s.num := by
  rw [h.rest]
  rfl

theorem Mailed.insts {s t : State} {l : List CollMsg} (h : Mailed s t l) : t.coll.insts = s.coll.insts := by rw [h.rest]

theorem Mailed.inst {s t : State} {l : List CollMsg} (h : Mailed s t l) (g q : Nat) : t.inst g q = s.inst g q := by
  rw [State.inst, State.inst, h.insts]

theorem Mailed.sameMemory {s t : State} {l : List CollMsg} (h : Mailed s t l) : SameMemory s t := by
  rw [h.rest]
  exact ⟨fun _ => ⟨rfl, rfl⟩, fun _ => rfl, rfl⟩

theorem State.collHeader_num {s t : State} (h : t.num = s.num) (kind : Nat) (i : Inst) (dst c first span round : Nat) :
    t.collHeader kind i dst c first span round = s.collHeader kind i dst c first span round :=
  State.collHeader_congr (by rw [State.moduleId, h]; rfl) ..

theorem State.failStarters_none {s : State} {p key : Nat} (h : s.stepsOf p key = []) (code : Nat) : s.failStarters p key code = s := by
  rw [State.failStarters, h]
  rfl

/-- An operation aborted: its notices sent when it is to tell, and one event counted. -/
theorem State.abortInst_live {s : State} {g q : Nat} {i : Inst} (hi : s.inst g q = some i) (hd : i.done = false)
    (hst : s.stepsOf i.part (instKey g q) = []) (code : Nat) (tell : Bool) : ∃ j,
      (s.abortInst g q code tell).inst g q = some j ∧ j.abort = some code ∧ EventCounted s (s.abortInst g q code tell) 0x0B ∧
      SameMemory s (s.abortInst g q code tell) ∧ (s.abortInst g q code tell).moduleId = s.moduleId ∧
      (tell = false → (s.abortInst g q code tell).coll.sent = s.coll.sent) := by
  obtain ⟨t, ht⟩ : ∃ t, s.abortInst g q code tell = t := ⟨_, rfl⟩
  rw [ht]
  unfold State.abortInst at ht
  split at ht
  next h => cases hi.symm.trans h
  next i' h =>
  obtain rfl : i = i' := Option.some.inj (hi.symm.trans h)
  rw [if_neg (by simp [hd])] at ht
  extract_lets u v base w x at ht
  have hu : ∃ j, u.inst g q = some j ∧ j.abort = some code := ⟨_, State.inst_modInst hi ⟨rfl, rfl⟩, rfl⟩
  obtain ⟨l, hv⟩ : ∃ l, v = { u with localCounts := l } := State.count_eq ..
  have hlog : Logged v w := .raise ..
  have hcount : EventCounted v w 0x0B := State.raise_counted v (by exact (by decide : (11 : Nat) < 256)) (by exact (by decide : (11 : Nat) ≠ 9))
    (by exact (by decide : (11 : Nat) ≠ 10))
  have hid : w.moduleId = v.moduleId := State.raise_moduleId ..
  have hx : ∃ l, Mailed w x l ∧ (tell = false → x = w) := by
    simp only [x]
    cases tell with
    | false => exact ⟨[], .refl w, fun _ => rfl⟩
    | true =>
      rw [if_pos rfl]
      refine ⟨_, Mailed.forEach (s := w) (g := fun m => { w.collHeader 0x3A i m 0 0 0 0 with status := BitVec.ofNat 8 code })
        (fun t m h => ?_) _ w rfl, fun h => by cases h⟩
      rw [State.collHeader_num h]
  obtain ⟨msgs, hx, htell⟩ := hx
  have hparts : x.parts = s.parts := by
    rw [hx.rest]
    dsimp only
    rw [hlog.parts, hv]
    rfl
  have hst' : x.stepsOf i.part (instKey g q) = [] := by
    rw [State.stepsOf, State.part, hparts]
    exact hst
  rw [State.failStarters_none hst'] at ht
  subst ht
  have hcoll : w.coll = u.coll := by rw [hlog.rest]; dsimp only; rw [hv]
  obtain ⟨j, hj, hja⟩ := hu
  have hnum : v.num = s.num := by rw [hv]; rfl
  refine ⟨j, ?_, hja, ?_, ?_, ?_, fun h => ?_⟩
  · rw [hx.inst, State.inst, hcoll]
    exact hj
  · rw [EventCounted, hx.num, ← hnum]
    exact hcount
  · have hm : SameMemory s v := by
      rw [hv]
      exact ⟨fun _ => ⟨rfl, rfl⟩, fun _ => rfl, rfl⟩
    exact (hm.trans hlog.sameMemory).trans hx.sameMemory
  · rw [State.moduleId, hx.num]
    exact hid.trans (by rw [State.moduleId, hnum]; rfl)
  · rw [htell h, hcoll]
    rfl

/-! ### Messages received -/

/-- An acknowledgement is sent, or waits for a number: nothing else changes. -/
theorem State.putCack_left (s : State) (k : CollMsg) : ∃ o l, s.putCack k = { s with out := o, coll := { s.coll with cacks := l } } := by
  unfold State.putCack
  split
  · exact ⟨s.out, s.coll.cacks, rfl⟩
  next q id _ _ =>
    obtain ⟨o, e⟩ := s.emitColl_eq k [] q id
    exact ⟨_, s.coll.cacks, e⟩
  · exact ⟨s.out, _, rfl⟩

theorem State.sendCack_left (s : State) (m : CollMsg) : ∃ o l, s.sendCack m = { s with out := o, coll := { s.coll with cacks := l } } :=
  s.putCack_left _

/-- What a message of a kind said once does on a sound arrival, before its acknowledgement. -/
def State.acked (s : State) (m : CollMsg) : State := if m.srcModule.toNat != s.moduleId then s.sendCack m else s

theorem State.acked_left (s : State) (m : CollMsg) : ∃ o l, s.acked m = { s with out := o, coll := { s.coll with cacks := l } } := by
  unfold State.acked
  split
  · exact s.sendCack_left m
  · exact ⟨s.out, s.coll.cacks, rfl⟩

/-- A message that repeats none and agrees with its operation takes its effect. -/
theorem State.once_first {s : State} {m : CollMsg} {i : Inst} (hi : s.inst m.group.toNat m.seq.toNat = some i) (hd : disagreement i m = 0)
    (hh : s.coll.heard.contains ⟨m.kind.toNat, m.srcModule.toNat, m.group.toNat, m.seq.toNat⟩ = false) (f : State → CollMsg → State) :
    s.once m f = f { s with coll := { s.coll with heard := s.coll.heard ++ [⟨m.kind.toNat, m.srcModule.toNat, m.group.toNat, m.seq.toNat⟩] } } m := by
  rw [State.once]
  dsimp only
  rw [if_neg (by rw [hh]; decide), State.agreed]
  have hi' : ({ s with coll := { s.coll with heard := s.coll.heard ++ [⟨m.kind.toNat, m.srcModule.toNat, m.group.toNat, m.seq.toNat⟩] } } : State).inst
    m.group.toNat m.seq.toNat = some i := hi
  rw [hi']
  dsimp only
  rw [hd, ite_self]
  rfl

theorem State.once_again {s : State} {m : CollMsg}
    (hh : s.coll.heard.contains ⟨m.kind.toNat, m.srcModule.toNat, m.group.toNat, m.seq.toNat⟩ = true) (f : State → CollMsg → State) :
    s.once m f = s.dropMsg m := by
  rw [State.once]
  dsimp only
  rw [if_pos hh]

section
variable {s : State} {m : CollMsg} (hb : badMsg m = false) (hm : m.dstModule.toNat = s.moduleId)
include hb hm

theorem execCquery_sound (hk : m.kind = 0x38) : exec (.cquery m) s = .next ((s.once m State.onQuery).acked m) := by
  show execCquery m s = _
  rw [execCquery, State.ofKind, if_pos (by rw [hk]; rfl), State.receiveMsg, if_neg (by simp [hb, hm]), hk]
  rfl

theorem execCreply_sound (hk : m.kind = 0x39) : exec (.creply m) s = .next ((s.once m State.onReply).acked m) := by
  show execCreply m s = _
  rw [execCreply, State.ofKind, if_pos (by rw [hk]; rfl), State.receiveMsg, if_neg (by simp [hb, hm]), hk]
  rfl

theorem execCabort_sound (hk : m.kind = 0x3A) : exec (.cabort m) s = .next ((s.once m State.onAbort).acked m) := by
  show execCabort m s = _
  rw [execCabort, State.ofKind, if_pos (by rw [hk]; rfl), State.receiveMsg, if_neg (by simp [hb, hm]), hk]
  rfl

end

theorem State.dropMsg_moduleId (s : State) (m : CollMsg) : (s.dropMsg m).moduleId = s.moduleId := by
  rw [State.dropMsg, State.moduleId, State.num_bump, if_neg (by unfold objKey; omega)]
  rfl

/-- A repeat is dropped, and acknowledged when another module sent it. -/
theorem State.dropMsg_acked (s : State) (m : CollMsg) :
    (s.dropMsg m).acked m = if m.srcModule.toNat = s.moduleId then s.dropMsg m else (s.dropMsg m).sendCack m := by
  rw [State.acked, State.dropMsg_moduleId]
  by_cases h : m.srcModule.toNat = s.moduleId
  · rw [if_pos h, if_neg (by simp [h])]
  · rw [if_neg h, if_pos (by simp [h])]

/-- Nothing of an operation that is not over is forgotten. -/
theorem State.forgetOld_live {s : State} {g q : Nat} {i : Inst} (hd : i.done = false) (hone : ∀ j ∈ s.coll.insts, j.group = g → j.seq = q → j = i)
    (p : Nat) : s.forgetOld p g q = s := by
  rw [State.forgetOld, if_neg]
  intro h
  obtain ⟨j, hj, h⟩ := List.any_eq_true.1 h
  simp only [Bool.and_eq_true, beq_iff_eq] at h
  obtain ⟨⟨h1, h2⟩, h3⟩ := h
  rw [hone j hj h1 h2, State.outlived, hd] at h3
  cases h3

theorem State.instFor_known {s : State} {m : CollMsg} {i : Inst} (hi : s.inst m.group.toNat m.seq.toNat = some i) (hd : i.done = false)
    (hone : ∀ j ∈ s.coll.insts, j.group = m.group.toNat → j.seq = m.seq.toNat → j = i) (data : Bool) : s.instFor m data = (s, some i) := by
  rw [State.instFor]
  dsimp only
  split
  · rw [hi]
  · rw [State.forgetOld_live hd hone, hi]

theorem State.onQuery_known {s : State} {m : CollMsg} {i : Inst} (hi : s.inst m.group.toNat m.seq.toNat = some i) (hd : i.done = false)
    (hone : ∀ j ∈ s.coll.insts, j.group = m.group.toNat → j.seq = m.seq.toNat → j = i) :
    (s.onQuery m).coll.insts = s.coll.insts ∧ ∃ x ∈ (s.onQuery m).coll.sent, x.msg.kind = 0x39 ∧ x.msg.dstModule = m.srcModule ∧
      x.msg.keyOfQuery = BitVec.ofNat 32 i.key ∧
      ∀ j, s.lowest i.part = some j → x.msg.lowGroup = BitVec.ofNat 16 j.group ∧ x.msg.lowKey = BitVec.ofNat 32 j.key := by
  rw [State.onQuery, State.instFor_known hi hd hone]
  dsimp only
  generalize hmsg : ({ m with
      kind := 0x39, status := if ((some i).map (·.started)).getD false then 1 else 0
      srcModule := BitVec.ofNat 32 s.moduleId, dstModule := m.srcModule
      lowEpoch := BitVec.ofNat 16 ((((some i.part).bind s.lowest).map (·.epoch)).getD 0)
      lowGroup := BitVec.ofNat 16 ((((some i.part).bind s.lowest).map (·.group)).getD 0)
      lowSeq := BitVec.ofNat 16 ((((some i.part).bind s.lowest).map (·.seq)).getD 0)
      lowKey := BitVec.ofNat 32 ((((some i.part).bind s.lowest).map (·.key)).getD 0)
      keyOfQuery := BitVec.ofNat 32 (((some i).map (·.key)).getD 0) } : CollMsg) = r
  obtain ⟨y, ⟨hy, -⟩, o, l, e⟩ := s.sendColl_kept r []
  rw [e]
  refine ⟨rfl, y, List.mem_append_right _ List.mem_cons_self, ?_⟩
  rw [hy, ← hmsg]
  refine ⟨rfl, rfl, rfl, fun j hj => ?_⟩
  dsimp only [Option.bind_some]
  rw [hj]
  exact ⟨rfl, rfl⟩

theorem EventCounted.congr {s t u : State} {k : Nat} (h : EventCounted s t k) (hu : u.num = t.num) : EventCounted s u k := by
  rw [EventCounted, hu]
  exact h

/-- Settles O30, by one lemma on the abort of an operation and one on each message's first and repeated arrival. -/
theorem queriesAndAborts : Obligations.QueriesAndAborts := by
  unfold Obligations.QueriesAndAborts
  intro s m i g q aborted
  refine ⟨fun p hlow => ?_, fun hi hd hst hone => ⟨fun hpeers => ?_, fun hb hm hdis hh => ⟨fun hk => ?_, fun hk h0 hkey => ?_, fun hk => ?_⟩⟩,
    fun hb hm hh => ⟨fun hk => ?_, fun hk => ?_⟩⟩
  · have h := Mailed.forEach (s := s) (f := fun t k => t.collHeader 0x38 i k 0 0 0 0) (g := fun k => s.collHeader 0x38 i k 0 0 0 0)
      (fun t k ht => State.collHeader_num ht ..) (s.peers i.entry) s rfl
    refine ⟨_, ?_, h.insts, h.sent⟩
    show execInversionTimeout p s = _
    rw [execInversionTimeout, hlow]
  · obtain ⟨hg, hq⟩ := State.inst_named hi
    obtain ⟨j, hj, ha, hc, hmem, -⟩ := State.abortInst_live hi hd hst 0x0604 true
    refine ⟨_, j, ?_, hj, ha, hc, hmem⟩
    show execPeerTimeout m.group m.seq s = _
    rw [execPeerTimeout, hi]
    dsimp only
    rw [if_neg (by simp [hd, hpeers]), hg, hq]
  · rw [execCquery_sound hb hm hk, State.once_first hi hdis hh]
    generalize hu : ({ s with coll := { s.coll with heard := s.coll.heard ++ [⟨m.kind.toNat, m.srcModule.toNat, m.group.toNat, m.seq.toNat⟩] } } : State) = u
    obtain ⟨hins, x, hx, h1, h2, h3, h4⟩ := State.onQuery_known (s := u) (by rw [← hu]; exact hi) hd (by rw [← hu]; exact hone)
    obtain ⟨o, l, e⟩ := (u.onQuery m).acked_left m
    rw [e]
    refine ⟨_, x, rfl, hins.trans (by rw [← hu]), hx, h1, h2, h3, fun j hj => h4 j ?_⟩
    rw [← hu]
    exact hj
  · rw [show aborted (.creply m) 0x0605 = ∃ t j, exec (.creply m) s = .next t ∧ t.inst g q = some j ∧ j.abort = some 0x0605 ∧
      EventCounted s t 0x0B ∧ SameMemory s t from rfl, execCreply_sound hb hm hk, State.once_first hi hdis hh]
    generalize hu : ({ s with coll := { s.coll with heard := s.coll.heard ++ [⟨m.kind.toNat, m.srcModule.toNat, m.group.toNat, m.seq.toNat⟩] } } : State) = u
    have hui : u.inst m.group.toNat m.seq.toNat = some i := by rw [← hu]; exact hi
    have hum : SameMemory s u := by rw [← hu]; exact ⟨fun _ => ⟨rfl, rfl⟩, fun _ => rfl, rfl⟩
    have hun : u.num = s.num := by rw [← hu]; rfl
    obtain ⟨hg, hq⟩ := State.inst_named hi
    obtain ⟨j, hj, ha, hc, hmem, -⟩ := State.abortInst_live hui hd (by rw [← hu]; exact hst) 0x0605 true
    have hreply : u.onReply m = u.abortInst g q 0x0605 true := by
      rw [State.onReply, hui]
      dsimp only
      rw [if_neg (by simp [hd]), if_pos ⟨h0, hkey⟩, hg, hq]
    rw [hreply]
    obtain ⟨o, l, e⟩ := (u.abortInst g q 0x0605 true).acked_left m
    rw [e]
    rw [EventCounted, hun] at hc
    exact ⟨_, j, rfl, hj, ha, hc, (hum.trans hmem).trans ⟨fun _ => ⟨rfl, rfl⟩, fun _ => rfl, rfl⟩⟩
  · rw [show aborted (.cabort m) (0x0600 + m.status.toNat) = ∃ t j, exec (.cabort m) s = .next t ∧ t.inst g q = some j ∧
      j.abort = some (0x0600 + m.status.toNat) ∧ EventCounted s t 0x0B ∧ SameMemory s t from rfl, execCabort_sound hb hm hk, State.once_first hi hdis hh]
    generalize hu : ({ s with coll := { s.coll with heard := s.coll.heard ++ [⟨m.kind.toNat, m.srcModule.toNat, m.group.toNat, m.seq.toNat⟩] } } : State) = u
    have hui : u.inst m.group.toNat m.seq.toNat = some i := by rw [← hu]; exact hi
    have hum : SameMemory s u := by rw [← hu]; exact ⟨fun _ => ⟨rfl, rfl⟩, fun _ => rfl, rfl⟩
    have hun : u.num = s.num := by rw [← hu]; rfl
    obtain ⟨hg, hq⟩ := State.inst_named hi
    obtain ⟨j, hj, ha, hc, hmem, -, hsent⟩ := State.abortInst_live hui hd (by rw [← hu]; exact hst) (0x0600 + m.status.toNat) false
    have habort : u.onAbort m = u.abortInst g q (0x0600 + m.status.toNat) false := by
      rw [State.onAbort, hui]
      dsimp only
      rw [hg, hq]
    rw [habort]
    obtain ⟨o, l, e⟩ := (u.abortInst g q (0x0600 + m.status.toNat) false).acked_left m
    rw [e]
    rw [EventCounted, hun] at hc
    exact ⟨⟨_, j, rfl, hj, ha, hc, (hum.trans hmem).trans ⟨fun _ => ⟨rfl, rfl⟩, fun _ => rfl, rfl⟩⟩,
      ⟨_, rfl, (hsent rfl).trans (by rw [← hu])⟩⟩
  · rw [execCquery_sound hb hm hk, State.once_again hh, State.dropMsg_acked]
  · rw [execCabort_sound hb hm hk, State.once_again hh, State.dropMsg_acked]

end Sys2Proof.Machine
end

section
/-! SUPPORT. Messages of the engines that wait: for their acknowledgement, for another try, or for a number. -/

namespace Sys2Proof.Machine

/-- `t` follows `s` by what leaves and what waits to leave: messages and acknowledgements sent, and their counts. -/
structure Flushed (s t : State) : Prop where
  rest : t = { s with out := t.out, localCounts := t.localCounts, coll := { s.coll with sent := t.coll.sent, cacks := t.coll.cacks } }

theorem Flushed.refl (s : State) : Flushed s s := ⟨rfl⟩

theorem Flushed.trans {s t u : State} (h : Flushed s t) (g : Flushed t u) : Flushed s u where
  rest := by
    have hg := g.rest
    rw [h.rest] at hg
    exact hg

theorem Flushed.forEach {α : Type} {f : State → α → State} (hf : ∀ t x, Flushed t (f t x)) (l : List α) (s : State) : Flushed s (s.forEach l f) := by
  induction l generalizing s with
  | nil => exact .refl s
  | cons x l ih => exact (hf s x).trans (ih (f s x))

theorem Flushed.launchSent (s : State) (x : Sent) (port : Option Nat) : Flushed s (s.launchSent x port) := by
  obtain ⟨y, -, o, l, e⟩ := s.launchSent_kept x port
  rw [e]
  exact ⟨rfl⟩

theorem Flushed.putCack (s : State) (k : CollMsg) : Flushed s (s.putCack k) := by
  obtain ⟨o, l, e⟩ := s.putCack_left k
  rw [e]
  exact ⟨rfl⟩

theorem Flushed.flushSent (s : State) (m : Nat) : Flushed s (s.flushSent m) := by
  unfold State.flushSent
  dsimp only
  refine Flushed.trans (t := ({ s with coll := { s.coll with cacks := s.coll.cacks.filter fun k => k.dstModule.toNat != m } } : State).forEach _ State.putCack)
    (.trans ⟨rfl⟩ (.forEach .putCack _ _)) (.forEach (fun t x => ?_) _ _)
  exact Flushed.trans (t := t.setSent (t.coll.sent.erase x)) ⟨rfl⟩ (.launchSent ..)

/-- With nothing waiting for a number, nothing leaves. -/
theorem State.flushSent_none {s : State} {m : Nat} (hs : ∀ y ∈ s.coll.sent, y.port ≠ 0xFF) (hk : ∀ k ∈ s.coll.cacks, k.dstModule.toNat ≠ m) :
    s.flushSent m = s := by
  have hlate : s.coll.cacks.filter (fun k => k.dstModule.toNat == m) = [] := List.filter_eq_nil_iff.2 fun k h => by simpa using hk k h
  have hkept : s.coll.cacks.filter (fun k => k.dstModule.toNat != m) = s.coll.cacks := List.filter_eq_self.2 fun k h => by simpa using hk k h
  have hwait : s.coll.sent.filter (fun x => x.msg.dstModule.toNat == m && x.port == 0xFF) = [] :=
    List.filter_eq_nil_iff.2 fun x h => by simp [hs x h]
  rw [State.flushSent, hlate, hkept, State.forEach_nil]
  dsimp only
  rw [hwait, State.forEach_nil]

theorem State.agreed_with {s : State} {m : CollMsg}
    (h : ∀ i, s.inst m.group.toNat m.seq.toNat = some i → i.done = true ∨ disagreement i m = 0) (f : State → CollMsg → State) : s.agreed m f = f s m := by
  unfold State.agreed
  split
  next i hi =>
    have h0 : (if i.done then 0 else disagreement i m) = 0 := by
      split
      · rfl
      next hd => exact (h i hi).resolve_left hd
    rw [h0]
    rfl
  · rfl

/-- The message that an arrival answers is set aside for its wait. -/
theorem State.onBusy_answered {s : State} {m : CollMsg} {x : Sent} (hx : s.coll.sent.find? (fun x => !x.ids.isEmpty && answers m x.msg) = some x) :
    (s.onBusy m).coll.insts = s.coll.insts ∧ (s.onBusy m).coll.backoff = s.coll.backoff ++
      [⟨x.msg, x.payload, if x.waitUs = 0 then 1 else min 64 (2 * x.waitUs)⟩] := by
  rw [State.onBusy, hx]
  dsimp only
  generalize hu : ({ s with coll := { s.coll with
      sent := s.coll.sent.erase x, backoff := s.coll.backoff ++ [(⟨x.msg, x.payload, if x.waitUs = 0 then 1 else min 64 (2 * x.waitUs)⟩ : Backoff)] } } : State) = u
  have hf := Flushed.flushSent u m.srcModule.toNat
  have h1 : (u.flushSent m.srcModule.toNat).coll.insts = s.coll.insts := by rw [hf.rest, ← hu]
  have h2 : (u.flushSent m.srcModule.toNat).coll.backoff = s.coll.backoff ++
    [⟨x.msg, x.payload, if x.waitUs = 0 then 1 else min 64 (2 * x.waitUs)⟩] := by rw [hf.rest, ← hu]
  generalize u.flushSent m.srcModule.toNat = v at h1 h2 ⊢
  split
  next i _ =>
    obtain ⟨l, e⟩ := v.count_eq (0x8050 + i.part) 5 1
    rw [e]
    exact ⟨h1, h2⟩
  · exact ⟨h1, h2⟩

section
variable {s : State} {m : CollMsg} {x : Sent} (hb : badMsg m = false) (hm : m.dstModule.toNat = s.moduleId)
  (ha : ∀ i, s.inst m.group.toNat m.seq.toNat = some i → i.done = true ∨ disagreement i m = 0)
  (hx : s.coll.sent.find? (fun x => !x.ids.isEmpty && answers m x.msg) = some x)
include hb hm ha hx

theorem execCbusy_answered (hk : m.kind = 0x36) : ∃ t, exec (.cbusy m) s = .next t ∧ t.coll.insts = s.coll.insts ∧ t.coll.backoff = s.coll.backoff ++
    [⟨x.msg, x.payload, if x.waitUs = 0 then 1 else min 64 (2 * x.waitUs)⟩] := by
  have hexec : exec (.cbusy m) s = .next ((s.agreed m State.onBusy).acked m) := by
    show execCbusy m s = _
    rw [execCbusy, State.ofKind, if_pos (by rw [hk]; rfl), State.receiveMsg, if_neg (by simp [hb, hm]), hk]
    rfl
  rw [hexec, State.agreed_with ha]
  obtain ⟨o, l, e⟩ := (s.onBusy m).acked_left m
  rw [e]
  exact ⟨_, rfl, State.onBusy_answered hx⟩

theorem execCack_answered (hk : m.kind = 0x37) (hx2 : x.msg.kind ≠ 0x32) (hs : ∀ y ∈ s.coll.sent, y.port ≠ 0xFF)
    (hc : ∀ k ∈ s.coll.cacks, k.dstModule ≠ m.srcModule) : exec (.cack m) s = .next (s.setSent (s.coll.sent.erase x)) := by
  have hexec : exec (.cack m) s = .next (s.agreed m State.onCack) := by
    show execCack m s = _
    rw [execCack, State.ofKind, if_pos (by rw [hk]; rfl), State.receiveMsg, if_neg (by simp [hb, hm]), hk]
    rfl
  have hflush : (s.setSent (s.coll.sent.erase x)).flushSent m.srcModule.toNat = s.setSent (s.coll.sent.erase x) :=
    State.flushSent_none (fun y hy => hs y (List.mem_of_mem_erase hy)) fun k h => fun he => hc k h (BitVec.eq_of_toNat_eq he)
  rw [hexec, State.agreed_with ha, State.onCack, hx]
  dsimp only
  rw [if_pos hx2, hflush]

end

/-- A message that has a port and a number leaves by them. -/
theorem State.launchSent_leaves {s : State} {x : Sent} {q id : Nat} (h : s.freeId x.msg.dstModule.toNat x.used = some id) :
    (s.launchSent x (some q)).coll = { s.coll with sent := s.coll.sent ++ [{ x with port := q, msgId := id }] } ∧
      Output.uio q (s.routePid q x.msg.dstModule.toNat) (s.num 0x6100 8 + s.moduleId * 2 ^ 27 + id * 2 ^ 23)
        (codeOf (slice (collBytes x.msg) 0 256)) ∈ (s.launchSent x (some q)).out := by
  obtain ⟨o, l, e⟩ := State.launchSent_sent (q := q) h
  refine ⟨by rw [e], ?_⟩
  have hout : ∀ t : State, ∀ n : Option Inst, (match n with | some i => t.count (0x8010 + i.part) 6 (8 * x.payload.length) | none => t).out = t.out :=
    fun t n => by
      cases n with
      | none => rfl
      | some i =>
        obtain ⟨l, e⟩ := t.count_eq (0x8010 + i.part) 6 (8 * x.payload.length)
        dsimp only
        rw [e]
  unfold State.launchSent
  rw [h]
  show _ ∈ (match (s.emitColl x.msg x.payload q id).inst x.msg.group.toNat x.msg.seq.toNat with
    | some i => (s.emitColl x.msg x.payload q id).count (0x8010 + i.part) 6 (8 * x.payload.length)
    | none => s.emitColl x.msg x.payload q id).out
  rw [hout, State.emitColl]
  exact List.mem_append_left _ (List.mem_append_right _ List.mem_cons_self)

theorem State.freeId_fresh {s : State} {m id : Nat} {used : List Nat} (h : s.freeId m used = some id) : id ∉ used := by
  have := List.find?_some h
  simp only [Bool.and_eq_true, Bool.not_eq_true', List.contains_eq_mem, decide_eq_false_iff_not] at this
  exact this.1

/-- Settles O29, by what a message that leaves by a port is kept as, and what is left to wait. -/
theorem messagesAreAcknowledged : Obligations.MessagesAreAcknowledged := by
  unfold Obligations.MessagesAreAcknowledged
  intro s m x b idx q id out
  refine ⟨fun hb ha hm hx => ⟨execCbusy_answered hb hm ha hx, execCack_answered hb hm ha hx⟩, fun hb hq hid hheld => ?_, ?_⟩
  · have hh : ((s.inst b.msg.group.toNat b.msg.seq.toNat).map s.collHeld).getD false = false := by
      cases hi : s.inst b.msg.group.toNat b.msg.seq.toNat with
      | none => rfl
      | some i => exact hheld i hi
    obtain ⟨h1, h2⟩ := State.launchSent_leaves (s := { s with coll := { s.coll with backoff := dropAt s.coll.backoff idx } })
      (x := ⟨b.msg, b.payload, 0xFF, 0, 0, b.waitUs, []⟩) (q := q) (id := id) hid
    refine ⟨_, ?_, congrArg CollUnit.backoff h1, congrArg CollUnit.sent h1, h2⟩
    show execCbusyRetry idx s = _
    rw [execCbusyRetry, hb]
    dsimp only
    rw [hh, if_neg (by decide), ← hq]
    rfl
  · intro hx rest resent given
    have hexec : exec (.cackTimeout idx) s = .next (s.resend idx) ∧ exec (.uioCompletionTimeout idx) s = .next (s.resend idx) := ⟨rfl, rfl⟩
    refine ⟨fun hr hids hp hid => ?_, fun hids hid => ?_, fun i hr hids hi hd hst => ?_⟩
    · obtain ⟨h1, h2⟩ := State.launchSent_leaves (s := rest) (x := { x with resends := x.resends + 1, used := x.ids }) (q := q) (id := id) hid
      have hresend : s.resend idx = rest.launchSent { x with resends := x.resends + 1, used := x.ids } (some q) := by
        rw [State.resend, hx]
        dsimp only
        rw [if_neg (by simp [hids]), if_neg (by omega), ← hp]
        rfl
      have hres : resent (.cackTimeout idx) := ⟨_, hexec.1.trans (congrArg _ hresend), h2, congrArg CollUnit.sent h1⟩
      exact ⟨State.freeId_fresh hid, hres, hres⟩
    · rw [hexec.1, State.resend, hx]
      dsimp only
      rw [if_pos (by rw [hids]; simpa using hid)]
    · have hf := Flushed.flushSent rest x.msg.dstModule.toNat
      have hresend : s.resend idx = (rest.flushSent x.msg.dstModule.toNat).abortInst x.msg.group.toNat x.msg.seq.toNat 0x0604 true := by
        rw [State.resend, hx]
        dsimp only
        rw [if_neg (by simp [hids]), if_pos hr]
      have hi' : (rest.flushSent x.msg.dstModule.toNat).inst x.msg.group.toNat x.msg.seq.toNat = some i := by
        rw [hf.rest]
        exact hi
      have hst' : (rest.flushSent x.msg.dstModule.toNat).stepsOf i.part (instKey x.msg.group.toNat x.msg.seq.toNat) = [] := by
        rw [hf.rest]
        exact hst
      obtain ⟨j, hj, hja, -⟩ := State.abortInst_live hi' hd hst' 0x0604 true
      have hg : given (.cackTimeout idx) := ⟨_, j, hexec.1.trans (congrArg _ hresend), hj, hja⟩
      exact ⟨hg, hg⟩

end Sys2Proof.Machine
end

section
/-! SUPPORT. What the engines and the local counts hold has no part in what a store leaves in the stacks. -/

namespace Sys2Proof.Machine

/-- `t` is `s` but for what the engines and the local counts hold. -/
def Beside (s t : State) : Prop := ∃ c l, t = { s with coll := c, localCounts := l }

theorem Beside.refl (s : State) : Beside s s := ⟨s.coll, s.localCounts, rfl⟩

theorem Beside.trans {s t u : State} (h : Beside s t) (g : Beside t u) : Beside s u := by
  obtain ⟨c, l, rfl⟩ := h
  obtain ⟨c', l', rfl⟩ := g
  exact ⟨c', l', rfl⟩

theorem Beside.num {s t : State} (h : Beside s t) : t.num = s.num := by
  obtain ⟨c, l, rfl⟩ := h
  rfl

theorem Beside.dram {s t : State} (h : Beside s t) : t.dram = s.dram := by
  obtain ⟨c, l, rfl⟩ := h
  rfl

theorem Beside.parts {s t : State} (h : Beside s t) : t.parts = s.parts := by
  obtain ⟨c, l, rfl⟩ := h
  rfl

theorem Beside.ite {p q : Prop} [Decidable p] [Decidable q] (h : p ↔ q) {a b a' b' : State} (ha : Beside a a') (hb : Beside b b') :
    Beside (if p then a else b) (if q then a' else b') := by
  by_cases hp : p
  · rwa [if_pos hp, if_pos (h.1 hp)]
  · rwa [if_neg hp, if_neg fun hq => hp (h.2 hq)]

theorem Beside.foldl {α : Type} {f f' : State → α → State} (hf : ∀ {s t}, Beside s t → ∀ x, Beside (f s x) (f' t x)) (l : List α) {s t : State}
    (h : Beside s t) : Beside (l.foldl f s) (l.foldl f' t) := by
  induction l generalizing s t with
  | nil => exact h
  | cons x l ih => exact ih (hf h x)

section
variable {s t : State} (h : Beside s t)
include h

theorem Beside.setNum (o sub v : Nat) : Beside (s.setNum o sub v) (t.setNum o sub v) := by
  obtain ⟨c, l, rfl⟩ := h
  exact ⟨c, l, rfl⟩

theorem Beside.bump (o sub n : Nat) : Beside (s.bump o sub n) (t.bump o sub n) := by
  obtain ⟨c, l, rfl⟩ := h
  exact ⟨c, l, rfl⟩

theorem Beside.setBlob (o sub : Nat) (b : List Byte) : Beside (s.setBlob o sub b) (t.setBlob o sub b) := by
  obtain ⟨c, l, rfl⟩ := h
  exact ⟨c, l, rfl⟩

theorem Beside.emit (x : Output) : Beside (s.emit x) (t.emit x) := by
  obtain ⟨c, l, rfl⟩ := h
  exact ⟨c, l, rfl⟩

theorem Beside.setStack (k : Nat) (v : Stack) : Beside (s.setStack k v) (t.setStack k v) := by
  obtain ⟨c, l, rfl⟩ := h
  exact ⟨c, l, rfl⟩

theorem Beside.setDram (r : Ram) : Beside { s with dram := r } { t with dram := r } := by
  obtain ⟨c, l, rfl⟩ := h
  exact ⟨c, l, rfl⟩

theorem Beside.eventSeq (n : Nat) : Beside { s with eventSeq := n } { t with eventSeq := n } := by
  obtain ⟨c, l, rfl⟩ := h
  exact ⟨c, l, rfl⟩

theorem Beside.eventGap (b : Bool) : Beside { s with eventGap := b } { t with eventGap := b } := by
  obtain ⟨c, l, rfl⟩ := h
  exact ⟨c, l, rfl⟩

theorem Beside.count (o sub n : Nat) : Beside (s.count o sub n) (t.count o sub n) := by
  obtain ⟨c, l, rfl⟩ := h
  obtain ⟨l1, e1⟩ := s.count_eq o sub n
  obtain ⟨l2, e2⟩ := ({ s with coll := c, localCounts := l } : State).count_eq o sub n
  rw [e1, e2]
  exact ⟨c, l2, rfl⟩

theorem Beside.setFilm (f : Nat) (v : Film) : Beside (s.setFilm f v) (t.setFilm f v) := by
  obtain ⟨c, l, rfl⟩ := h
  unfold State.setFilm
  exact Beside.ite Iff.rfl ⟨c, l, rfl⟩ ⟨c, l, rfl⟩

theorem Beside.filmTrigger (p f cause : Nat) : Beside (s.filmTrigger p f cause) (t.filmTrigger p f cause) := by
  have h' := h
  obtain ⟨c, l, rfl⟩ := h'
  unfold State.filmTrigger
  exact Beside.ite Iff.rfl h ((h.setFilm f _).bump _ _ _)

theorem Beside.trigger (p cause : Nat) : Beside (s.trigger p cause) (t.trigger p cause) := by
  have h' := h
  obtain ⟨c, l, rfl⟩ := h'
  unfold State.trigger
  exact Beside.ite Iff.rfl ((Beside.foldl (fun hx f => hx.filmTrigger p f cause) _ h).setNum _ _ _) h

theorem Beside.eventRing (kind : Nat) (rcd : List Byte) : Beside (s.eventRing kind rcd) (t.eventRing kind rcd) := by
  have h' := h
  obtain ⟨c, l, rfl⟩ := h'
  unfold State.eventRing
  refine Beside.ite Iff.rfl h (Beside.ite Iff.rfl ((h.bump _ _ _).eventGap _) (Beside.ite Iff.rfl ?_ (Beside.emit ?_ _)))
  · exact ((h.emit _).setNum _ _ _).eventGap _
  · exact ((h.emit _).setNum _ _ _).eventGap _

theorem Beside.raise (e : Event) : Beside (s.raise e) (t.raise e) := by
  have h' := h
  obtain ⟨c, l, rfl⟩ := h'
  unfold State.raise
  have h2 := ((((h.setBlob 0x9001 1 (keepNewest 256 32 (s.blob 0x9001 1 ++ e.record s.eventSeq s.now s.eventGap))).bump 0x9002 e.kind 1).eventSeq
    ((s.eventSeq + 1) % 2 ^ 32)).eventRing e.kind (e.record s.eventSeq s.now s.eventGap))
  cases e.part with
  | none => exact h2
  | some p => exact Beside.foldl (fun hx c => hx.trigger p c) e.causes h2

theorem Beside.retire (k pc : Nat) : Beside (s.retire k pc) (t.retire k pc) := by
  have h' := h
  obtain ⟨c, l, rfl⟩ := h'
  unfold State.retire
  refine Beside.ite Iff.rfl h (Beside.ite Iff.rfl (Beside.ite Iff.rfl h ((h.setStack k _).raise _)) (Beside.raise ?_ _))
  refine Beside.ite Iff.rfl (Beside.setNum ?_ _ _ _) ?_
  · exact ((h.setStack k _).setNum _ _ _).setNum _ _ _
  · exact ((h.setStack k _).setNum _ _ _).setNum _ _ _

theorem Beside.seen (p : Place) (ce ue : Nat) : Beside (s.seen p ce ue) (t.seen p ce ue) := by
  unfold State.seen
  extract_lets s1 st ceL ueL0 ueL s2 t1 st' ceL' ueL0' ueL' t2
  have h1 : Beside s1 t1 := (h.count ..).count ..
  have hst : t1.stack p.stack = s1.stack p.stack := by
    obtain ⟨c, l, e⟩ := h1
    rw [e]
    rfl
  have hnow : t1.now = s1.now := by
    obtain ⟨c, l, e⟩ := h1
    rw [e]
  have hce : ceL' = ceL := by
    simp only [ceL', ceL, st', st, hst, hnow]
  have hue : ueL' = ueL := by
    simp only [ueL', ueL, ueL0', ueL0, st', st, hst, hnow]
  have h2 : Beside s2 t2 := by
    simp only [s2, t2, hce, hue, st', st, hst]
    exact h1.setStack _ _
  refine Beside.ite Iff.rfl h (Beside.ite ?_ (h2.retire _ _) h2)
  rw [hce, hue, h2.num]

theorem Beside.writeDevice (img : Ram) (b a n : Nat) : Beside (s.writeDevice img b a n) (t.writeDevice img b a n) := by
  unfold State.writeDevice
  refine Beside.foldl (fun {u v} h pc => ?_) _ h
  have hl : v.logicalPlace pc.1 = u.logicalPlace pc.1 := by
    obtain ⟨c, l, rfl⟩ := h
    rfl
  rw [hl]
  cases u.logicalPlace pc.1 with
  | none => exact h
  | some l =>
    have hst : v.stack l.stack = u.stack l.stack := by
      obtain ⟨c, l, rfl⟩ := h
      rfl
    dsimp only
    rw [hst]
    refine Beside.foldl (fun {x y} h cr => ?_) _ h
    have hd : y.dram = x.dram := h.dram
    rw [hd]
    generalize physAddr l.stack cr.1 cr.2 + pc.1 % 256 = base
    have hs := h.seen ⟨l.stack, cr.1, cr.2⟩ (x.dram.mergeErrs base pc.2).1 (x.dram.mergeErrs base pc.2).2
    rw [hs.dram]
    exact hs.setDram _

theorem Beside.meshWrite (die : Nat) (img : Ram) (b a n : Nat) : Beside (s.meshWrite die img b a n) (t.meshWrite die img b a n) := by
  unfold State.meshWrite
  refine Beside.foldl (fun {u v} h pc => ?_) _ h
  have hl : v.logicalPlace pc.1 = u.logicalPlace pc.1 := by
    obtain ⟨c, l, rfl⟩ := h
    rfl
  rw [hl]
  cases u.logicalPlace pc.1 with
  | none => exact h
  | some l =>
    have hr : v.reachStack die l.stack = u.reachStack die l.stack := by
      obtain ⟨c, l, rfl⟩ := h
      rfl
    exact Beside.ite (by rw [hr]) (h.writeDevice ..) h

theorem Beside.storeWords (die a : Nat) (ws : List CodeWord) : Beside (s.storeWords die a ws) (t.storeWords die a ws) := h.meshWrite ..

end

end Sys2Proof.Machine
end

section
/-! SUPPORT. A message that a collective operation takes: what is noted of it before its effect. -/

namespace Sys2Proof.Machine

/-- Instance `i` stands in `u` as `j`: the same but for its chunks. -/
structure Stands (u : State) (g q : Nat) (i j : Inst) : Prop where
  inst : u.inst g q = some j
  same : j = { i with chunks := j.chunks }

section
variable {u : State} {g q : Nat} {i j : Inst} (h : Stands u g q i j)
include h

theorem Stands.group : j.group = g := (State.inst_named h.inst).1

theorem Stands.seq : j.seq = q := (State.inst_named h.inst).2

theorem Stands.part : j.part = i.part := by rw [h.same]

theorem Stands.entry : j.entry = i.entry := by rw [h.same]

theorem Stands.base : j.base = i.base := by rw [h.same]

theorem Stands.abort : j.abort = i.abort := by rw [h.same]

theorem Stands.readyAt : j.readyAt = i.readyAt := by rw [h.same]

theorem Stands.used : j.used = i.used := by rw [h.same]

theorem Stands.header (v : State) (kind dst c first span round : Nat) :
    v.collHeader kind j dst c first span round = v.collHeader kind i dst c first span round := by rw [h.same]; rfl

/-- A change of a chunk leaves the operation standing. -/
theorem Stands.modChunk (c : Nat) (f : ChunkSt → ChunkSt) : ∃ j', Stands (u.modChunk g q c f) g q i j' ∧ j'.chunk c = f (j.chunk c) := by
  refine ⟨_, ⟨State.inst_modChunk h.inst c f, ?_⟩, Inst.chunk_tabMod j c f⟩
  rw [h.same]

theorem Stands.of_insts {v : State} (hv : v.coll.insts = u.coll.insts) : Stands v g q i j := ⟨by rw [State.inst, hv]; exact h.inst, h.same⟩

theorem Stands.run_done (hr : i.readyAt = none) (hd : u.NothingDue i.part) : Post.run (u, []) g q = u :=
  Post.run_done h.inst (h.readyAt.trans hr) (by rw [h.part]; exact hd)

end

/-- What has been noted of a message when its effect begins: the engines and the counts alone differ, the operation stands, and the
chunk's marks of what it has seen. -/
structure Noted (s u : State) (i j : Inst) (m : CollMsg) : Prop where
  beside : Beside s u
  stands : Stands u m.group.toNat m.seq.toNat i j
  chunk : ∃ l, j.chunk m.chunk.toNat = { i.chunk m.chunk.toNat with seen := l }

theorem State.checkPayload_intact {s : State} {i : Inst} {m : CollMsg} {d : List CodeWord} (h : ∀ w ∈ d, eccCheck w ≠ .uncorrectable) :
    ∃ l, s.checkPayload i m d = ({ s with localCounts := l }, true) := by
  have hbad : d.any (fun w => decide (eccCheck w = .uncorrectable)) = false := List.any_eq_false.2 fun w hw => by simpa using h w hw
  rw [State.checkPayload, hbad, if_neg (by decide)]
  obtain ⟨l, e⟩ := s.count_eq 0x8040 (s.chunkDie m.chunk.toNat + 1)
    (d.filter fun w => decide (eccCheck w ≠ .clean) && decide (eccCheck w ≠ .uncorrectable)).length
  exact ⟨l, by rw [e]⟩

theorem State.deliver_taken {s : State} {i : Inst} {m : CollMsg} {d : List CodeWord} (hi : s.inst m.group.toNat m.seq.toNat = some i)
    (hc : m.chunk.toNat < i.entry.chunks.length) (hs : 8 * d.length = payloadLen m) (hd : ∀ w ∈ d, eccCheck w ≠ .uncorrectable)
    (hf : (i.chunk m.chunk.toNat).seen.contains ⟨m.kind.toNat, m.nodeFirst.toNat, m.nodeSpan.toNat, m.round.toNat⟩ = false)
    (hr : m.round.toNat = (i.chunk m.chunk.toNat).round)
    (h31 : m.kind = 0x31 → (i.entry.adds && s.atParent i m) = true ∧ (i.landingFull = false ∨ i.completes m = true))
    (h32 : m.kind = 0x32 → i.started = true) :
    ∃ u j, Noted s u i j m ∧ s.deliver i m d = ((Post.handle (u, []) m d).run m.group.toNat m.seq.toNat, true) := by
  obtain ⟨hg, hq⟩ := State.inst_named hi
  obtain ⟨l, hp⟩ := State.checkPayload_intact (s := s) (i := i) (m := m) hd
  unfold State.deliver
  dsimp only
  rw [if_neg (by
    rintro (h | h | h | h | h)
    · omega
    · exact h hs
    · rw [hf] at h
      cases h
    · omega
    · rw [(h31 h.1).1] at h
      cases h.2), if_neg (by
    rintro ⟨h, h1, h2⟩
    rcases (h31 h).2 with h' | h'
    · rw [h'] at h1
      cases h1
    · rw [h'] at h2
      cases h2), if_neg (by
    rintro ⟨h, h1⟩
    rw [h32 h] at h1
    cases h1), hp]
  dsimp only
  have h0 : Stands { s with localCounts := l } m.group.toNat m.seq.toNat i i := ⟨hi, rfl⟩
  obtain ⟨j, hj, hjc⟩ := h0.modChunk m.chunk.toNat fun x =>
    { x with seen := x.seen ++ [⟨m.kind.toNat, m.nodeFirst.toNat, m.nodeSpan.toNat, m.round.toNat⟩] }
  have hb : Beside s (({ s with localCounts := l } : State).modChunk m.group.toNat m.seq.toNat m.chunk.toNat fun x =>
    { x with seen := x.seen ++ [⟨m.kind.toNat, m.nodeFirst.toNat, m.nodeSpan.toNat, m.round.toNat⟩] }) := ⟨_, _, rfl⟩
  rw [hg, hq]
  generalize ({ s with localCounts := l } : State).modChunk m.group.toNat m.seq.toNat m.chunk.toNat (fun x =>
    { x with seen := x.seen ++ [⟨m.kind.toNat, m.nodeFirst.toNat, m.nodeSpan.toNat, m.round.toNat⟩] }) = v at hj hb ⊢
  obtain ⟨l', e⟩ := v.count_eq (0x8010 + i.part) 7 (8 * d.length)
  rw [e]
  exact ⟨_, j, ⟨hb.trans ⟨v.coll, l', rfl⟩, hj.of_insts rfl, _, hjc⟩, rfl⟩

/-- A message of an open operation is taken: it has its effect once it is noted (R376, R398). -/
theorem Arrives.takeMsg {s : State} {i : Inst} {m : CollMsg} {d : List CodeWord} (h : Arrives s i m d)
    (h31 : m.kind = 0x31 → i.entry.adds = true ∧ s.atParent i m = true ∧ (i.landingFull = false ∨ i.completes m = true))
    (h32 : m.kind = 0x32 → i.started = true) :
    ∃ u j, Noted s u i j m ∧ s.takeMsg m d = ((Post.handle (u, []) m d).run m.group.toNat m.seq.toNat, true) := by
  obtain ⟨hg, hq⟩ := State.inst_named h.known
  have hno : s.noStarts m = false := by
    rw [State.noStarts, h.known]
    simp
  have hinst : (s.modInst m.group.toNat m.seq.toNat fun j => { j with slot := i.slot }).inst m.group.toNat m.seq.toNat = some i :=
    State.inst_modInst h.known ⟨rfl, rfl⟩
  have hfree : (s.modInst m.group.toNat m.seq.toNat fun j => { j with slot := i.slot }).collHeld i = false :=
    State.NothingDue.free (h.undue.congr rfl)
  have hb : Beside s (s.modInst m.group.toNat m.seq.toNat fun j => { j with slot := i.slot }) := ⟨_, _, rfl⟩
  have hat : (s.modInst m.group.toNat m.seq.toNat fun j => { j with slot := i.slot }).atParent i m = s.atParent i m := rfl
  unfold State.takeMsg
  rw [hno, if_neg (by decide), State.instFor_known h.known h.live h.alone]
  dsimp only
  rw [if_neg (by rw [h.opened]; decide), h.agrees]
  rw [if_pos h.slot, if_neg h.slot, show s.modInst i.group i.seq = s.modInst m.group.toNat m.seq.toNat by rw [hg, hq]]
  generalize (s.modInst m.group.toNat m.seq.toNat fun j => { j with slot := i.slot }) = v at hinst hfree hb hat ⊢
  rw [hfree, if_neg (by decide)]
  obtain ⟨u, j, hn, e⟩ := State.deliver_taken hinst h.chunk h.size h.intact h.fresh h.round
    (fun hk => ⟨by rw [hat, (h31 hk).1, (h31 hk).2.1]; rfl, (h31 hk).2.2⟩) h32
  exact ⟨u, j, ⟨hb.trans hn.beside, hn.stands, hn.chunk⟩, e⟩

/-- The kinds of message that an operation takes by its round (Table 11-2). -/
def takenKinds : List (BitVec 8) := [0x31, 0x32, 0x33, 0x34, 0x35]

theorem Arrives.receiveMsg {s : State} {i : Inst} {m : CollMsg} {d : List CodeWord} (h : Arrives s i m d) (hk : m.kind ∈ takenKinds)
    (h31 : m.kind = 0x31 → i.entry.adds = true ∧ s.atParent i m = true ∧ (i.landingFull = false ∨ i.completes m = true))
    (h32 : m.kind = 0x32 → i.started = true) :
    ∃ u j, Noted s u i j m ∧ s.receiveMsg m d = ((Post.handle (u, []) m d).run m.group.toNat m.seq.toNat).acked m := by
  obtain ⟨u, j, hn, e⟩ := h.takeMsg h31 h32
  refine ⟨u, j, hn, ?_⟩
  have hkind : s.receiveMsg m d = (fun r : State × Bool => if r.2 && m.srcModule.toNat != r.1.moduleId then r.1.sendCack m else r.1) (s.takeMsg m d) := by
    rw [State.receiveMsg, if_neg (by simp [h.sound, h.here])]
    simp only [takenKinds, List.mem_cons, List.not_mem_nil, or_false] at hk
    rcases hk with hk | hk | hk | hk | hk <;> rw [hk] <;> rfl
  rw [hkind, e]
  rfl

end Sys2Proof.Machine
end

section
/-! SUPPORT. What a message does at a node of a chunk's tree. -/

namespace Sys2Proof.Machine

/-- A message of an operation that is not aborted has the effect of its kind. -/
theorem Post.handle_inst {u : State} {i j : Inst} {m : CollMsg} (h : Stands u m.group.toNat m.seq.toNat i j) (ha : i.abort = none)
    (d : List CodeWord) :
    (m.kind = 0x31 → Post.handle (u, []) m d = Post.onData (u, []) j m d) ∧
    (m.kind = 0x32 → Post.handle (u, []) m d = Post.onResult (u, []) j m d) ∧
    (m.kind = 0x33 → Post.handle (u, []) m d = Post.onClean (u, []) j m) ∧
    (m.kind = 0x34 → Post.handle (u, []) m d = Post.onFix (u, []) j m) ∧
    (m.kind = 0x35 → Post.handle (u, []) m d = Post.onRecall (u, []) j m) := by
  have hja : j.abort.isSome = false := by
    rw [h.abort, ha]
    rfl
  rw [Post.handle]
  dsimp only
  rw [h.inst]
  dsimp only
  rw [hja, if_neg (by decide)]
  refine ⟨fun hk => ?_, fun hk => ?_, fun hk => ?_, fun hk => ?_, fun hk => ?_⟩ <;> rw [hk] <;> rfl

/-- The state after a message that an operation took: what has changed of the operation, and that nothing follows. -/
theorem Arrives.finish {s : State} {i : Inst} {m : CollMsg} {d : List CodeWord} (h : Arrives s i m d) {v : State} {j : Inst}
    (hv : Stands v m.group.toNat m.seq.toNat i j) (hp : v.parts = s.parts) : Post.run (v, []) m.group.toNat m.seq.toNat = v :=
  hv.run_done h.noted (h.undue.congr hp)

/-- An acknowledgement leaves the instances, the messages kept and the stacks. -/
theorem State.acked_kept (v : State) (m : CollMsg) : (∀ g q, (v.acked m).inst g q = v.inst g q) ∧ (v.acked m).coll.sent = v.coll.sent ∧
    (v.acked m).dram = v.dram := by
  obtain ⟨o, l, e⟩ := v.acked_left m
  rw [e]
  exact ⟨fun _ _ => rfl, rfl, rfl⟩

/-- The node of a tree above one, found by place and round. -/
def NodeSt.isAt (pf ps r : Nat) (x : NodeSt) : Bool := x.first == pf && x.span == ps && x.round == r

/-- A child's value that comes first waits at its node. -/
theorem Post.onData_first {u : State} {i j : Inst} {m : CollMsg} {pf ps : Nat} (h : Stands u m.group.toNat m.seq.toNat i j)
    (ht : treeParent i.entry.ranks.length m.nodeFirst.toNat m.nodeSpan.toNat = some (pf, ps))
    (hno : ∀ x ∈ (j.chunk m.chunk.toNat).nodes, ¬ (x.first = pf ∧ x.span = ps ∧ x.round = m.round.toNat)) (d : List CodeWord) :
    Post.onData (u, []) j m d = (u.modChunk m.group.toNat m.seq.toNat m.chunk.toNat fun x => { x with nodes := (j.chunk m.chunk.toNat).nodes ++
      [⟨pf, ps, m.round.toNat, if m.nodeFirst.toNat = pf then some (wordBytes (d.map eccCorrect)) else none,
        if m.nodeFirst.toNat = pf then none else some (wordBytes (d.map eccCorrect)), none, none, false, false, false, false,
        if m.srcModule.toNat = u.moduleId then 0 else 1⟩] }, []) := by
  have hfind : (j.chunk m.chunk.toNat).nodes.find? (fun n => n.first == pf && n.span == ps && n.round == m.round.toNat) = none :=
    List.find?_eq_none.2 fun x hx => by simpa [and_assoc] using hno x hx
  have hrest : (j.chunk m.chunk.toNat).nodes.filter (fun n => !(n.first == pf && n.span == ps && n.round == m.round.toNat)) =
      (j.chunk m.chunk.toNat).nodes := List.filter_eq_self.2 fun x hx => by simpa [or_assoc, imp_iff_not_or] using hno x hx
  rw [Post.onData, h.entry, ht]
  dsimp only
  rw [hfind, hrest, h.group, h.seq]
  by_cases hl : m.nodeFirst.toNat = pf
  · simp only [if_pos hl]
    simp
    rfl
  · simp only [if_neg hl]
    simp
    rfl

/-- A message about a standing operation, sent to another module. -/
theorem Stands.about_away {u v : State} {g q : Nat} {i j : Inst} (h : Stands u g q i j) (kind : Nat) {dst : Nat} (c first span round : Nat)
    (d : List CodeWord) (hd : dst % 2 ^ 32 ≠ v.moduleId) : ∃ (w : State) (y : Sent), Post.about (v, []) kind j dst c first span round d = (w, []) ∧
      w.coll.insts = v.coll.insts ∧ w.parts = v.parts ∧ w.dram = v.dram ∧ y ∈ w.coll.sent ∧ y.payload = d ∧
      y.msg = v.collHeader kind i dst c first span round := by
  obtain ⟨y, ⟨hm, hp⟩, o, l, e⟩ := Post.send_away (t := (v, [])) (m := v.collHeader kind j dst c first span round) (d := d)
    (by rw [State.collHeader]; dsimp only; rwa [BitVec.toNat_ofNat])
  rw [Post.about, e]
  exact ⟨_, y, rfl, rfl, rfl, rfl, List.mem_append_right _ List.mem_cons_self, hp, hm.trans (h.header v ..)⟩

/-- The second child's value completes a node: the sum goes up to another module. -/
theorem Post.onData_second {u : State} {i j : Inst} {m : CollMsg} {d : List CodeWord} {pf ps gf gs : Nat} {x : NodeSt} {a b : List Byte}
    (h : Stands u m.group.toNat m.seq.toNat i j)
    (ht : treeParent i.entry.ranks.length m.nodeFirst.toNat m.nodeSpan.toNat = some (pf, ps))
    (hx : (j.chunk m.chunk.toNat).nodes.find? (fun x => x.first == pf && x.span == ps && x.round == m.round.toNat) = some x)
    (ha : (if m.nodeFirst.toNat = pf then some (wordBytes (d.map eccCorrect)) else x.left) = some a)
    (hb : (if m.nodeFirst.toNat = pf then x.right else some (wordBytes (d.map eccCorrect))) = some b)
    (hg : treeParent i.entry.ranks.length pf ps = some (gf, gs)) (hd : i.entry.computer m.chunk.toNat gf gs % 2 ^ 32 ≠ u.moduleId) :
    ∃ v j', Post.onData (u, []) j m d = (v, []) ∧ Stands v m.group.toNat m.seq.toNat i j' ∧ v.parts = u.parts ∧
      { x with left := some a, right := some b, value := some (reduceBytes i.entry.dataFmt a b), waiting := 0 } ∈ (j'.chunk m.chunk.toNat).nodes ∧
      ∃ y ∈ v.coll.sent, y.payload = codeOf (reduceBytes i.entry.dataFmt a b) ∧
        y.msg = u.collHeader 0x31 i (i.entry.computer m.chunk.toNat gf gs) m.chunk.toNat pf ps m.round.toNat := by
  have hnew : (if m.nodeFirst.toNat = pf then { x with left := some (wordBytes (d.map eccCorrect)) } else { x with right := some (wordBytes (d.map eccCorrect)) }) =
      { x with left := some a, right := some b } := by
    by_cases hl : m.nodeFirst.toNat = pf
    · rw [if_pos hl] at ha hb ⊢
      rw [← ha, ← hb]
    · rw [if_neg hl] at ha hb ⊢
      rw [← ha, ← hb]
  rw [Post.onData, h.entry, ht]
  dsimp only
  rw [hx, Option.getD_some, hnew]
  dsimp only
  rw [Post.up, h.entry, hg]
  dsimp only
  rw [h.group, h.seq, Post.map, Option.isSome_some, if_pos rfl]
  dsimp only
  generalize hl : (j.chunk m.chunk.toNat).nodes.filter (fun n => !(n.first == pf && n.span == ps && n.round == m.round.toNat)) ++ [({ x with left := some a, right := some b, value := some (reduceBytes i.entry.dataFmt a b), waiting := 0 } : NodeSt)] = l
  have hmem : ({ x with left := some a, right := some b, value := some (reduceBytes i.entry.dataFmt a b), waiting := 0 } : NodeSt) ∈ l :=
    hl ▸ List.mem_append_right _ List.mem_cons_self
  obtain ⟨j', hj, hjc⟩ := h.modChunk m.chunk.toNat fun k => { k with nodes := l }
  have hnum : (u.modChunk m.group.toNat m.seq.toNat m.chunk.toNat fun k => { k with nodes := l }).num = u.num := rfl
  have hparts : (u.modChunk m.group.toNat m.seq.toNat m.chunk.toNat fun k => { k with nodes := l }).parts = u.parts := rfl
  generalize (u.modChunk m.group.toNat m.seq.toNat m.chunk.toNat fun k => { k with nodes := l }) = v at hj hnum hparts ⊢
  have hid : v.moduleId = u.moduleId := by
    rw [State.moduleId, hnum]
    rfl
  obtain ⟨w, y, e, hw, hp, -, hy, hyp, hym⟩ := h.about_away (v := v) 0x31 m.chunk.toNat pf ps m.round.toNat (codeOf (reduceBytes i.entry.dataFmt a b))
    (dst := i.entry.computer m.chunk.toNat gf gs) (hid ▸ hd)
  refine ⟨w, j', e, hj.of_insts hw, hp.trans hparts, ?_, y, hy, hyp, hym.trans (State.collHeader_congr hid ..)⟩
  rw [hjc]
  exact hmem

end Sys2Proof.Machine
end

section
/-! SUPPORT. Results that land, subtrees verified, and the notices of a chunk. -/

namespace Sys2Proof.Machine

theorem State.localNode_congr {s t : State} (h : t.moduleId = s.moduleId) (e : CollE) : t.localNode e = s.localNode e := by
  unfold State.localNode State.heldRanks
  rw [h]

/-- A leaf whose chunk is Provisional reports once that it is clean, to another module. -/
theorem Post.clean_leaf {v : State} {g q c : Nat} {i j : Inst} {p h gf gs : Nat} (hs : Stands v g q i j) (hph : (j.chunk c).phase = .provisional)
    (hn : (j.chunk c).nodes = []) (hl : v.localNode i.entry = some (p, h)) (ht : treeParent i.entry.ranks.length p h = some (gf, gs))
    (hd : i.entry.computer c gf gs % 2 ^ 32 ≠ v.moduleId) : ∃ w j', Post.clean (v, []) g q c = (w, []) ∧ Stands w g q i j' ∧ w.parts = v.parts ∧
      (j'.chunk c).phase = .provisional ∧ w.dram = v.dram := by
  rw [Post.clean]
  dsimp only
  rw [hs.inst]
  dsimp only
  rw [if_neg (by rw [hph]; decide), hn, hs.entry, hl, List.filter_nil, List.map_nil, List.append_nil, Post.map]
  dsimp only
  generalize hleaf : (if (!(j.chunk c).leafClean && (h == 1 || (j.chunk c).localClean)) = true then [(p, h)] else []) = leaf
  have hcases : leaf = [] ∨ leaf = [(p, h)] := by
    rw [← hleaf]
    split
    · exact .inr rfl
    · exact .inl rfl
  obtain ⟨j', hj, hjc⟩ := hs.modChunk c fun x => { x with
    leafClean := x.leafClean || !leaf.isEmpty, nodes := x.nodes.map fun n => if [].contains n then { n with cleanSent := true } else n }
  have hid : (v.modChunk g q c fun x => { x with
    leafClean := x.leafClean || !leaf.isEmpty, nodes := x.nodes.map fun n => if [].contains n then { n with cleanSent := true } else n }).moduleId = v.moduleId := rfl
  have hparts : (v.modChunk g q c fun x => { x with
    leafClean := x.leafClean || !leaf.isEmpty, nodes := x.nodes.map fun n => if [].contains n then { n with cleanSent := true } else n }).parts = v.parts := rfl
  have hdram : (v.modChunk g q c fun x => { x with
    leafClean := x.leafClean || !leaf.isEmpty, nodes := x.nodes.map fun n => if [].contains n then { n with cleanSent := true } else n }).dram = v.dram := rfl
  generalize (v.modChunk g q c fun x => { x with
    leafClean := x.leafClean || !leaf.isEmpty, nodes := x.nodes.map fun n => if [].contains n then { n with cleanSent := true } else n }) = u at hj hid hparts hdram ⊢
  have hphase : (j'.chunk c).phase = .provisional := by rw [hjc]; exact hph
  rcases hcases with rfl | rfl
  · exact ⟨u, j', rfl, hj, hparts, hphase, hdram⟩
  · obtain ⟨w, y, e, hw, hp, hwd, -⟩ := hs.about_away (v := u) 0x33 c p h (j.chunk c).round [] (dst := i.entry.computer c gf gs) (hid ▸ hd)
    refine ⟨w, j', ?_, hj.of_insts hw, hp.trans hparts, hphase, hwd.trans hdram⟩
    rw [List.foldl_cons, List.foldl_nil, Post.up, hs.entry, ht]
    exact e

/-- Below a node whose ranks are all of one module nothing is passed on. -/
theorem Post.down_leaf {i : Inst} {first span : Nat} (h : i.entry.oneModule first span = true) (t : Post) (kind c round : Nat) (d : List CodeWord) :
    t.down kind i c first span round d = t := by
  rw [Post.down, if_pos h]

/-- A result reaches a leaf: it lands and its chunk is Provisional. -/
theorem Post.onResult_leaf {u : State} {i j : Inst} {m : CollMsg} {p h gf gs : Nat} (hs : Stands u m.group.toNat m.seq.toNat i j)
    (ha : i.entry.adds = true) (hr : m.round.toNat = (j.chunk m.chunk.toNat).round)
    (hph : (j.chunk m.chunk.toNat).phase = .opened ∨ (j.chunk m.chunk.toNat).phase = .recalled)
    (hleaf : i.entry.oneModule m.nodeFirst.toNat m.nodeSpan.toNat = true) (hn : (j.chunk m.chunk.toNat).nodes = [])
    (hl : u.localNode i.entry = some (p, h)) (ht : treeParent i.entry.ranks.length p h = some (gf, gs))
    (hd : i.entry.computer m.chunk.toNat gf gs % 2 ^ 32 ≠ u.moduleId)
    (hland : i.entry.operation ≠ 1 ∨ (u.heldRanks i.entry).contains (i.entry.chunkAt m.chunk.toNat).1 = true) (d : List CodeWord) :
    ∃ w j', Post.onResult (u, []) j m d = (w, []) ∧ Stands w m.group.toNat m.seq.toNat i j' ∧ w.parts = u.parts ∧
      (j'.chunk m.chunk.toNat).phase = .provisional ∧
      w.dram = (u.storeWords (u.chunkDie m.chunk.toNat) (u.resultBase i + (i.entry.chunkAt m.chunk.toNat).2.1) d).dram := by
  have hlands : u.landSum j m.chunk.toNat d = u.storeWords (u.chunkDie m.chunk.toNat) (u.resultBase i + (i.entry.chunkAt m.chunk.toNat).2.1) d := by
    rw [State.landSum, State.resultBase, State.resultBase, hs.entry, hs.base]
    generalize i.entry.chunkAt m.chunk.toNat = r at hland ⊢
    exact if_neg fun hx => hland.elim (fun h => h hx.1) fun h => by
      rw [h] at hx
      cases hx.2
  have hstore := Stored.storeWords u (u.chunkDie m.chunk.toNat) (u.resultBase i + (i.entry.chunkAt m.chunk.toNat).2.1) d
  rw [← hlands] at hstore ⊢
  have hid : (u.landSum j m.chunk.toNat d).moduleId = u.moduleId := hstore.num 0x6100 1 (by constructor <;> omega)
  have hinsts : (u.landSum j m.chunk.toNat d).coll.insts = u.coll.insts := by rw [hstore.rest]
  have hparts := hstore.parts
  unfold Post.onResult
  dsimp only
  rw [if_neg (by rw [hs.entry, ha]; decide), if_neg (by omega), if_pos (by simpa using hph), hs.group, hs.seq,
    Post.down_leaf (by rw [hs.entry]; exact hleaf), Post.map, Post.map]
  dsimp only
  generalize u.landSum j m.chunk.toNat d = v at hid hinsts hparts ⊢
  obtain ⟨j1, h1, hc1⟩ := (hs.of_insts hinsts).modChunk m.chunk.toNat fun x => { x with phase := .provisional }
  obtain ⟨j2, h2, hc2⟩ := h1.modChunk m.chunk.toNat fun x => { x with nodes := x.nodes.map fun n =>
    if n.first = m.nodeFirst.toNat ∧ n.span = m.nodeSpan.toNat ∧ n.round = m.round.toNat then { n with passed := true } else n }
  rw [hc1] at hc2
  obtain ⟨w, j', e, hw, hp, hph', hdram⟩ := Post.clean_leaf (p := p) (h := h) h2 (by rw [hc2]) (by rw [hc2]; simp [hn])
    ((State.localNode_congr hid i.entry).trans hl) ht (by
      show _ ≠ v.moduleId
      rw [hid]
      exact hd)
  exact ⟨w, j', e, hw, hp.trans hparts, hph', hdram⟩

end Sys2Proof.Machine
end

section
/-! SUPPORT. Data that lands, and the notices of a chunk: verified, fixed, recalled. -/

namespace Sys2Proof.Machine

/-- Data of an operation that does not add lands, whatever becomes of the chunk. -/
theorem Post.onResult_data {u : State} {i j : Inst} {m : CollMsg} (hs : Stands u m.group.toNat m.seq.toNat i j) (ha : i.entry.adds = false)
    (d : List CodeWord) : ∃ w j', Post.onResult (u, []) j m d = (w, []) ∧ Stands w m.group.toNat m.seq.toNat i j' ∧ w.parts = u.parts ∧
      m.nodeFirst.toNat ∈ (j'.chunk m.chunk.toNat).landed ∧ w.dram = (u.landData i m.chunk.toNat m.nodeFirst.toNat d).dram := by
  have hlands : u.landData j m.chunk.toNat m.nodeFirst.toNat d = u.landData i m.chunk.toNat m.nodeFirst.toNat d := by
    rw [hs.same]
    rfl
  have hstore : Stored u (u.landData i m.chunk.toNat m.nodeFirst.toNat d) := .storeWords ..
  have hinsts : (u.landData i m.chunk.toNat m.nodeFirst.toNat d).coll.insts = u.coll.insts := by rw [hstore.rest]
  have hparts := hstore.parts
  unfold Post.onResult
  dsimp only
  rw [if_pos (by rw [hs.entry, ha]; decide), hs.group, hs.seq, Post.map, hlands]
  dsimp only
  generalize u.landData i m.chunk.toNat m.nodeFirst.toNat d = v at hinsts hparts ⊢
  obtain ⟨j1, h1, hc1⟩ := (hs.of_insts hinsts).modChunk m.chunk.toNat fun x => { x with landed := (x.landed ++ [m.nodeFirst.toNat]).dedup }
  have hmem : m.nodeFirst.toNat ∈ (j1.chunk m.chunk.toNat).landed := by
    rw [hc1]
    exact List.mem_dedup.2 (List.mem_append_right _ List.mem_cons_self)
  have hp1 : (v.modChunk m.group.toNat m.seq.toNat m.chunk.toNat fun x => { x with landed := (x.landed ++ [m.nodeFirst.toNat]).dedup }).parts = u.parts := hparts
  have hd1 : (v.modChunk m.group.toNat m.seq.toNat m.chunk.toNat fun x => { x with landed := (x.landed ++ [m.nodeFirst.toNat]).dedup }).dram = v.dram := rfl
  generalize (v.modChunk m.group.toNat m.seq.toNat m.chunk.toNat fun x => { x with landed := (x.landed ++ [m.nodeFirst.toNat]).dedup }) = x at h1 hp1 hd1 ⊢
  have hsettle : x.settleData m.group.toNat m.seq.toNat m.chunk.toNat = x ∨ x.settleData m.group.toNat m.seq.toNat m.chunk.toNat =
      x.modChunk m.group.toNat m.seq.toNat m.chunk.toNat fun k => { k with phase := .fixed } := by
    rw [State.settleData, h1.inst]
    exact (ite_eq_or_eq _ _ _).symm
  rcases hsettle with e | e
  · exact ⟨x, j1, by rw [e], h1, hp1, hmem, hd1⟩
  · obtain ⟨j2, h2, hc2⟩ := h1.modChunk m.chunk.toNat fun k => { k with phase := .fixed }
    exact ⟨_, j2, by rw [e], h2, hp1, by rw [hc2]; exact hmem, hd1⟩

/-- A verified subtree is noted at its parent; nothing goes up while the chunk's result is not here. -/
theorem Post.onClean_noted {u : State} {i j : Inst} {m : CollMsg} {pf ps : Nat} {x : NodeSt} (hs : Stands u m.group.toNat m.seq.toNat i j)
    (hph : (j.chunk m.chunk.toNat).phase = .opened) (ht : treeParent i.entry.ranks.length m.nodeFirst.toNat m.nodeSpan.toNat = some (pf, ps))
    (hx : x ∈ (j.chunk m.chunk.toNat).nodes) (h1 : x.first = pf) (h2 : x.span = ps) (h3 : x.round = m.round.toNat) :
    ∃ w j', Post.onClean (u, []) j m = (w, []) ∧ Stands w m.group.toNat m.seq.toNat i j' ∧ w.parts = u.parts ∧
      (if m.nodeFirst.toNat = pf then { x with cleanL := true } else { x with cleanR := true }) ∈ (j'.chunk m.chunk.toNat).nodes := by
  rw [Post.onClean, hs.entry, ht]
  dsimp only
  rw [hs.group, hs.seq, Post.map]
  dsimp only
  obtain ⟨j', hj, hjc⟩ := hs.modChunk m.chunk.toNat fun k => { k with nodes := k.nodes.map fun n =>
      if n.first = pf ∧ n.span = ps ∧ n.round = m.round.toNat then
        (if (decide (m.nodeFirst.toNat = pf)) = true then { n with cleanL := true } else { n with cleanR := true })
      else n }
  refine ⟨_, j', ?_, hj, rfl, ?_⟩
  · rw [Post.clean]
    dsimp only
    rw [hj.inst]
    dsimp only
    rw [if_pos (by rw [hjc]; simp [hph])]
  · rw [hjc]
    refine List.mem_map.2 ⟨x, hx, ?_⟩
    rw [if_pos ⟨h1, h2, h3⟩]
    simp only [decide_eq_true_eq]

/-- A fix notice makes a leaf's Provisional chunk Fixed. -/
theorem Post.onFix_leaf {u : State} {i j : Inst} {m : CollMsg} (hs : Stands u m.group.toNat m.seq.toNat i j)
    (hr : m.round.toNat = (j.chunk m.chunk.toNat).round) (hph : (j.chunk m.chunk.toNat).phase = .provisional)
    (hleaf : i.entry.oneModule m.nodeFirst.toNat m.nodeSpan.toNat = true) :
    ∃ w j', Post.onFix (u, []) j m = (w, []) ∧ Stands w m.group.toNat m.seq.toNat i j' ∧ w.parts = u.parts ∧ (j'.chunk m.chunk.toNat).phase = .fixed := by
  obtain ⟨j', hj, hjc⟩ := hs.modChunk m.chunk.toNat fun x => { x with phase := .fixed }
  refine ⟨_, j', ?_, hj, rfl, by rw [hjc]⟩
  rw [Post.onFix]
  dsimp only
  rw [if_neg (by omega), if_pos hph, Post.down_leaf (by rw [hs.entry]; exact hleaf), hs.group, hs.seq]
  rfl

/-- A chunk recalled at a member whose step has not used it, with rounds left, opens its next round. -/
theorem Post.recallHere_open {u : State} {g q c : Nat} {i j : Inst} (hs : Stands u g q i j) (h1 : (j.chunk c).phase ≠ .fixed)
    (h2 : (j.chunk c).phase ≠ .aborted) (hl : (j.chunk c).round + 1 ≤ if (u.peers i.entry).isEmpty then 1 else u.num 0x6100 5)
    (hready : (j.chunk c).ready = false) (hused : i.used = false) : ∃ w j', Post.recallHere (u, []) j c (j.chunk c).round = (w, []) ∧
      Stands w g q i j' ∧ w.parts = u.parts ∧ (j'.chunk c).phase = .recalled ∧ (j'.chunk c).round = (j.chunk c).round + 1 := by
  obtain ⟨j', hj, hjc⟩ := hs.modChunk c fun x => { x with
    phase := .recalled, round := (j.chunk c).round + 1, sent := false, localClean := false, leafClean := false
    nodes := x.nodes.filter fun n => decide ((j.chunk c).round < n.round) }
  obtain ⟨l, e⟩ := (u.modChunk g q c fun x => { x with
    phase := .recalled, round := (j.chunk c).round + 1, sent := false, localClean := false, leafClean := false
    nodes := x.nodes.filter fun n => decide ((j.chunk c).round < n.round) }).count_eq (0x8050 + i.part) 3 1
  refine ⟨_, j', ?_, hj.of_insts (v := { (u.modChunk g q c fun x => { x with
    phase := .recalled, round := (j.chunk c).round + 1, sent := false, localClean := false, leafClean := false
    nodes := x.nodes.filter fun n => decide ((j.chunk c).round < n.round) }) with localCounts := l }) rfl, rfl, by rw [hjc], by rw [hjc]⟩
  rw [Post.recallHere]
  dsimp only
  rw [if_neg (by simp [h1, h2]), hs.entry, if_neg (by omega), Post.map, hs.group, hs.seq, hs.part]
  dsimp only
  rw [e]
  generalize (u.modChunk g q c fun x => { x with
    phase := .recalled, round := (j.chunk c).round + 1, sent := false, localClean := false, leafClean := false
    nodes := x.nodes.filter fun n => decide ((j.chunk c).round < n.round) }) = v at hj ⊢
  have hroll : ({ v with localCounts := l } : State).rollBack j = { v with localCounts := l } := by
    unfold State.rollBack
    split
    · rfl
    · dsimp only
      rw [hs.used, hused, if_neg (by simp)]
  rw [hroll]
  exact Post.start_unready (t := ({ v with localCounts := l }, [])) hj.inst (by rw [hjc]; exact hready)

theorem Post.onRecall_leaf {u : State} {i j : Inst} {m : CollMsg} (hs : Stands u m.group.toNat m.seq.toNat i j)
    (hr : m.round.toNat = (j.chunk m.chunk.toNat).round) (hleaf : i.entry.oneModule m.nodeFirst.toNat m.nodeSpan.toNat = true)
    (h0 : i.entry.computer m.chunk.toNat 0 i.entry.ranks.length ≠ u.moduleId)
    (hc : i.entry.computer m.chunk.toNat m.nodeFirst.toNat m.nodeSpan.toNat = u.moduleId) :
    Post.onRecall (u, []) j m = Post.recallHere (u, []) j m.chunk.toNat (j.chunk m.chunk.toNat).round := by
  rw [Post.onRecall]
  dsimp only
  rw [hs.entry, if_neg fun h => h0 h.1, if_pos hc, Post.down_leaf (by rw [hs.entry]; exact hleaf), hr]

/-! ### The messages of an open operation -/

section
variable {s : State} {i : Inst} {m : CollMsg} {d : List CodeWord} (h : Arrives s i m d)
include h

/-- A message taken leaves what its effect leaves, its acknowledgement apart. -/
theorem Arrives.effect {u w : State} {j j' : Inst} (hn : Noted s u i j m) (hw : Post.handle (u, []) m d = (w, []))
    (hj : Stands w m.group.toNat m.seq.toNat i j') (hp : w.parts = u.parts) : (Post.handle (u, []) m d).run m.group.toNat m.seq.toNat = w := by
  rw [hw]
  exact h.finish hj (hp.trans hn.beside.parts)

/-- Only CDATA and CRESULT bring a payload. -/
theorem Arrives.bare (hk : m.kind = 0x33 ∨ m.kind = 0x34 ∨ m.kind = 0x35) : d = [] := by
  have hno : ¬ (m.kind = 0x31 ∨ m.kind = 0x32) := by rcases hk with hk | hk | hk <;> rw [hk] <;> decide
  have hs := h.size
  rw [payloadLen, if_neg hno] at hs
  exact List.length_eq_zero_iff.1 (by omega)

/-- A CDATA taken: the state that its effect starts from, and the state it leaves. -/
theorem execCdata_taken (hk : m.kind = 0x31) (ha : i.entry.adds = true) (hat : s.atParent i m = true)
    (hroom : i.landingFull = false ∨ i.completes m = true) : ∃ u j, Noted s u i j m ∧ ∀ w j', Post.onData (u, []) j m d = (w, []) →
      Stands w m.group.toNat m.seq.toNat i j' → w.parts = u.parts → exec (.cdata m d) s = .next (w.acked m) := by
  obtain ⟨u, j, hn, e⟩ := h.receiveMsg (by rw [hk]; decide) (fun _ => ⟨ha, hat, hroom⟩) (by rw [hk]; exact fun h => by cases h)
  refine ⟨u, j, hn, fun w j' hw hj hp => ?_⟩
  rw [h.effect hn (((Post.handle_inst hn.stands h.opened d).1 hk).trans hw) hj hp] at e
  show execCdata m d s = _
  rw [execCdata, State.ofKind, if_pos (by rw [hk]; rfl), e]

theorem execCresult_taken (hk : m.kind = 0x32) (hst : i.started = true) : ∃ u j, Noted s u i j m ∧ ∀ w j', Post.onResult (u, []) j m d = (w, []) →
      Stands w m.group.toNat m.seq.toNat i j' → w.parts = u.parts → exec (.cresult m d) s = .next (w.acked m) := by
  obtain ⟨u, j, hn, e⟩ := h.receiveMsg (by rw [hk]; decide) (by rw [hk]; exact fun h => by cases h) (fun _ => hst)
  refine ⟨u, j, hn, fun w j' hw hj hp => ?_⟩
  rw [h.effect hn (((Post.handle_inst hn.stands h.opened d).2.1 hk).trans hw) hj hp] at e
  show execCresult m d s = _
  rw [execCresult, State.ofKind, if_pos (by rw [hk]; rfl), e]

/-- A notice taken: one without payload. -/
theorem Arrives.notice (hk : m.kind = 0x33 ∨ m.kind = 0x34 ∨ m.kind = 0x35) : ∃ u j, Noted s u i j m ∧ ∀ w j', Post.handle (u, []) m [] = (w, []) →
      Stands w m.group.toNat m.seq.toNat i j' → w.parts = u.parts → s.receiveMsg m [] = w.acked m := by
  have hd := h.bare hk
  subst hd
  have hkinds : m.kind ∈ takenKinds ∧ m.kind ≠ 0x31 ∧ m.kind ≠ 0x32 := by rcases hk with hk | hk | hk <;> rw [hk] <;> decide
  obtain ⟨u, j, hn, e⟩ := h.receiveMsg hkinds.1 (fun h => absurd h hkinds.2.1) fun h => absurd h hkinds.2.2
  exact ⟨u, j, hn, fun w j' hw hj hp => e.trans (by rw [h.effect hn hw hj hp])⟩

end

theorem Noted.moduleId {s u : State} {i j : Inst} {m : CollMsg} (h : Noted s u i j m) : u.moduleId = s.moduleId := by
  rw [State.moduleId, h.beside.num]
  rfl

/-- Settles O28, by what each kind of message leaves of the chunk it is about. -/
theorem collectiveMessagesTakeEffect : Obligations.CollectiveMessagesTakeEffect := by
  unfold Obligations.CollectiveMessagesTakeEffect
  intro s i m d g q v came c r k n elsewhere leaf h
  refine ⟨?_, ?_, ?_, ?_, ?_, ?_⟩
  · intro pf ps hk ha hat hroom ht isLeft
    obtain ⟨u, j, hn, hexec⟩ := execCdata_taken h hk ha hat hroom
    obtain ⟨l, hc⟩ := hn.chunk
    refine ⟨fun hno => ?_, fun x a b gf gs hx hxa hxb hg hd => ?_⟩
    · obtain ⟨j', hj, hjc⟩ := hn.stands.modChunk c fun x => { x with nodes := (j.chunk c).nodes ++
          [⟨pf, ps, r, if m.nodeFirst.toNat = pf then some v else none, if m.nodeFirst.toNat = pf then none else some v, none, none,
            false, false, false, false, if m.srcModule.toNat = u.moduleId then 0 else 1⟩] }
      have hw := hexec _ j' (Post.onData_first hn.stands ht (by rw [hc]; exact hno) d) hj rfl
      exact ⟨_, j', hw, ((State.acked_kept _ m).1 ..).trans hj.inst, by rw [hjc, hc], by rw [hjc, hc, hn.moduleId]⟩
    · obtain ⟨w, j', e, hj, hp, hmem, y, hy, hyp, hym⟩ := Post.onData_second hn.stands ht (by rw [hc]; exact hx) hxa hxb hg
        (by rw [hn.moduleId]; exact hd)
      obtain ⟨h1, h2, -⟩ := State.acked_kept w m
      exact ⟨_, j', y, hexec w j' e hj hp, (h1 ..).trans hj.inst, hmem, h2 ▸ hy, hyp, hym.trans (State.collHeader_congr hn.moduleId ..)⟩
  · intro p hh gf gs hk ha hst hl hph hnodes hloc hpar hd hop
    obtain ⟨u, j, hn, hexec⟩ := execCresult_taken h hk hst
    obtain ⟨l, hc⟩ := hn.chunk
    have hb := hn.beside
    obtain ⟨w, j', e, hj, hp, hphase, hdram⟩ := Post.onResult_leaf hn.stands ha (by rw [hc]; exact h.round) (by rw [hc]; exact hph) hl
      (by rw [hc]; exact hnodes) ((State.localNode_congr hn.moduleId _).trans hloc) hpar (by rw [hn.moduleId]; exact hd)
      (by rw [State.heldRanks, hn.moduleId]; exact hop) d
    obtain ⟨h1, h2, h3⟩ := State.acked_kept w m
    refine ⟨_, j', hexec w j' e hj hp, (h1 ..).trans hj.inst, hphase, h3.trans (hdram.trans ?_)⟩
    have hsame : u.chunkDie m.chunk.toNat = s.chunkDie c ∧ u.resultBase i = s.resultBase i := by
      obtain ⟨cu, lc, rfl⟩ := hb
      exact ⟨rfl, rfl⟩
    rw [hsame.1, hsame.2]
    exact (hb.storeWords ..).dram
  · intro hk ha hst
    obtain ⟨u, j, hn, hexec⟩ := execCresult_taken h hk hst
    have hb := hn.beside
    obtain ⟨w, j', e, hj, hp, hmem, hdram⟩ := Post.onResult_data hn.stands ha d
    obtain ⟨h1, h2, h3⟩ := State.acked_kept w m
    refine ⟨_, j', hexec w j' e hj hp, (h1 ..).trans hj.inst, hmem, h3.trans (hdram.trans ?_)⟩
    obtain ⟨cu, lc, rfl⟩ := hb
    exact (Beside.storeWords ⟨cu, lc, rfl⟩ ..).dram
  · intro pf ps x hk hph ht hx h1 h2 h3
    obtain ⟨u, j, hn, hrec⟩ := h.notice (.inl hk)
    obtain ⟨l, hc⟩ := hn.chunk
    obtain ⟨w, j', e, hj, hp, hmem⟩ := Post.onClean_noted hn.stands (by rw [hc]; exact hph) ht (by rw [hc]; exact hx) h1 h2 h3
    refine ⟨_, j', ?_, ((State.acked_kept w m).1 ..).trans hj.inst, hmem⟩
    show execCclean m s = _
    rw [execCclean, State.ofKind, if_pos (by rw [hk]; rfl),
      hrec w j' (((Post.handle_inst hn.stands h.opened []).2.2.1 hk).trans e) hj hp]
  · intro hk hph hl
    obtain ⟨u, j, hn, hrec⟩ := h.notice (.inr (.inl hk))
    obtain ⟨l, hc⟩ := hn.chunk
    obtain ⟨w, j', e, hj, hp, hphase⟩ := Post.onFix_leaf hn.stands (by rw [hc]; exact h.round) (by rw [hc]; exact hph) hl
    refine ⟨_, j', ?_, ((State.acked_kept w m).1 ..).trans hj.inst, hphase⟩
    show execCfix m s = _
    rw [execCfix, State.ofKind, if_pos (by rw [hk]; rfl),
      hrec w j' (((Post.handle_inst hn.stands h.opened []).2.2.2.1 hk).trans e) hj hp]
  · intro hk hl h0 hcomp h1 h2 hround hready hused
    obtain ⟨u, j, hn, hrec⟩ := h.notice (.inr (.inr hk))
    obtain ⟨l, hc⟩ := hn.chunk
    have hr : m.round.toNat = (j.chunk c).round := by rw [hc]; exact h.round
    have hlimit : (j.chunk c).round + 1 ≤ if (u.peers i.entry).isEmpty then 1 else u.num 0x6100 5 := by
      rw [← hr, State.peers, hn.moduleId, hn.beside.num]
      exact hround
    have e1 := Post.onRecall_leaf hn.stands hr hl (by rw [hn.moduleId]; exact h0) (by rw [hn.moduleId]; exact hcomp)
    obtain ⟨w, j', e, hj, hp, hphase, hjr⟩ := Post.recallHere_open hn.stands (c := c) (by rw [hc]; exact h1) (by rw [hc]; exact h2) hlimit
      (by rw [hc]; exact hready) hused
    refine ⟨_, j', ?_, ((State.acked_kept w m).1 ..).trans hj.inst, hphase, hjr.trans (by rw [← hr])⟩
    show execCrecall m s = _
    rw [execCrecall, State.ofKind, if_pos (by rw [hk]; rfl),
      hrec w j' (((Post.handle_inst hn.stands h.opened []).2.2.2.2 hk).trans (e1.trans e)) hj hp]

end Sys2Proof.Machine
end

section
/-! SUPPORT. Reads of the dictionary: what each path is answered. -/

namespace Sys2Proof.Machine

/-- An access that is answered changes the window's registers, when it came by the window, and says the answer. -/
theorem State.answered_rest (s : State) (path : Path) (o sub op len piece code c : Nat) (d e : List Byte) :
    (s.xwNote path o sub op len piece code d).reply path c e =
      { s with host := (s.xwNote path o sub op len piece code d).host, out := s.out ++ [.response path.num c e] } := by
  cases path <;> rfl

theorem State.readVia_served {s : State} {path : Path} {o sub piece : Nat} (h : s.serves = true) {t : State} {c : Nat} {d : List Byte}
    (hr : s.readAt path o sub piece = (t, c, d)) : s.readVia path o sub piece = (t.xwNote path o sub 1 0 piece c d).reply path c d := by
  rw [State.readVia, if_neg (by rw [h]; decide), hr]

theorem State.readAt_refused {s : State} {o sub : Nat} (h : s.readCode o sub ≠ 0) (path : Path) (piece : Nat) :
    s.readAt path o sub piece = (s, s.readCode o sub, []) := by
  unfold State.readAt
  split
  next hc => exact absurd hc h
  · rfl

/-- A plain object is read as its encoding. -/
theorem State.readAt_plain {s : State} {o sub : Nat} (h : s.readCode o sub = 0) (hb : isBlob o sub = false) (hw : ¬ (o = 0xB300 ∧ sub = 0xA))
    (path : Path) : s.readAt path o sub 0 = (s, 0, s.encoding path o sub) := by
  have hl : ¬ (o = 0x8E00 ∧ sub = 3) := by
    rintro ⟨rfl, rfl⟩
    exact absurd hb (by decide +kernel)
  rw [State.readAt, h]
  dsimp only
  rw [if_neg hl, hb, if_neg (by decide), if_neg (by decide), if_neg hw]
  rfl

theorem State.readAt_loupe {s : State} (h : s.readCode 0x8E00 3 = 0) (path : Path) : s.readAt path 0x8E00 3 0 = s.readLoupe path 0 := by
  rw [State.readAt, h]
  dsimp only
  rw [if_pos ⟨rfl, rfl⟩]
  rfl

theorem State.readLoupe_refused {s : State} (h : s.loupeCode ≠ 0) (path : Path) : s.readLoupe path 0 = (s, s.loupeCode, []) := by
  unfold State.readLoupe
  dsimp only
  rw [if_neg (by decide)]
  split
  next hc => exact absurd hc h
  · rfl

theorem patch_prefix {l d : List Byte} (h : d.length ≤ l.length) : d <+: patch l 0 d := by
  rw [patch, List.take_zero, List.nil_append, Nat.sub_zero, List.take_of_length_le h]
  exact ⟨_, rfl⟩

theorem objBytes_le (o sub : Nat) (t : OType) : objBytes o sub t ≤ 8 := by
  have hb : ∀ n, bitsBytes n ≤ 8 := fun n => by
    unfold bitsBytes
    split_ifs <;> omega
  cases t <;> simp [objBytes, hb]

theorem State.encoding_small {s : State} {o sub : Nat} (hb : isBlob o sub = false) (path : Path) : (s.encoding path o sub).length ≤ 4096 := by
  unfold State.encoding
  split
  · simp
  next h0 =>
    split
    · simp
    next r hr =>
      have ht : ¬ (r.ty = .blob ∨ r.ty = .str) := by
        rw [isBlob, if_neg h0, hr] at hb
        simpa using hb
      have h8 := objBytes_le o sub r.ty
      split
      next hx => exact absurd (.inl hx) ht
      next hx => exact absurd (.inr hx) ht
      · split
        · simp
        · rw [leBytes_length]
          omega

/-- A served plain read changes nothing but what is said, and the window's registers when it came by the window. -/
theorem State.readVia_plain {s : State} {o sub : Nat} (hs : s.serves = true) (h : s.readCode o sub = 0) (hb : isBlob o sub = false)
    (hw : ¬ (o = 0xB300 ∧ sub = 0xA)) (path : Path) : s.readVia path o sub 0 =
      (s.xwNote path o sub 1 0 0 0 (s.encoding path o sub)).reply path 0 (s.encoding path o sub) :=
  State.readVia_served hs (State.readAt_plain h hb hw path)

/-- What the window's registers say after a served plain read by it (Table 15-4). -/
theorem State.xwNote_read (s : State) (o sub len piece : Nat) {d : List Byte} (h : d.length ≤ 4096) :
    let t := s.xwNote .mmio o sub 1 len piece 0 d
    t.host.xwError = false ∧ t.host.xwReason = 0 ∧ t.host.xwReturned = d.length ∧ d <+: t.host.xwData :=
  ⟨rfl, rfl, rfl, patch_prefix (by rw [slice_length]; exact h)⟩

/-! ### The loupe -/

theorem peek_sound {r : Ram} (h : ∀ w, r.mask w = 0) (a : Nat) : peek r a = (r.readRaw a 16, 0) := by
  have hr : r.Sound := h
  rw [peek, hr.fetch_bytes, hr.fetch_ue]
  rfl

/-- Sixteen bytes at a time, a memory's bytes in order. -/
theorem readRaw_parts (r : Ram) (a n : Nat) : ((List.range n).flatMap fun k => r.readRaw (a + 16 * k) 16) = r.readRaw a (16 * n) := by
  induction n with
  | zero => rfl
  | succ n ih =>
    rw [List.range_succ, List.flatMap_append, ih, List.flatMap_singleton]
    unfold Ram.readRaw
    rw [show 16 * (n + 1) = 16 * n + 16 by omega, rangeFrom, rangeFrom, rangeFrom, List.range_add, List.map_append, List.map_append]
    rw [List.map_map, List.map_map, List.map_map, List.map_map]
    exact congrArg (List.map (fun k => r.read1 (a + k)) (List.range (16 * n)) ++ ·)
      (List.map_congr_left fun k _ => congrArg r.read1 (Nat.add_assoc a (16 * n) k))

/-- The loupe on the operand buffer of a core, as it is stored (R610). -/
theorem State.loupeRead_operand {s : State} (hsp : s.loupeTarget.space = 1) (hc : s.loupeTarget.isCore = true) (hn : s.num 0x8E00 2 % 16 = 0)
    (hb : s.loupeTarget.offset + s.num 0x8E00 2 ≤ 0x400000) (hm : ∀ w, (s.core s.loupeTarget.pc).opnd.mask w = 0) :
    s.loupeRead = ((s.setNum 0x8E00 4 0).drawn, (s.core s.loupeTarget.pc).opnd.readRaw s.loupeTarget.offset (s.num 0x8E00 2)) := by
  have hpart : ∀ k ∈ List.range (s.num 0x8E00 2 / 16), s.loupe16 s.loupeTarget (s.loupeTarget.offset + 16 * k) =
      ((s.core s.loupeTarget.pc).opnd.readRaw (s.loupeTarget.offset + 16 * k) 16, 0) := fun k hk => by
    have hk := List.mem_range.1 hk
    rw [State.loupe16, hsp]
    exact (if_pos hc).trans ((if_pos (by omega)).trans (peek_sound hm _))
  have hparts := List.map_congr_left hpart
  have hsum : ∀ l : List Nat, (l.map fun k => ((s.core s.loupeTarget.pc).opnd.readRaw (s.loupeTarget.offset + 16 * k) 16, 0)).map (·.2) =
      l.map fun _ => 0 := fun l => by
    rw [List.map_map]
    rfl
  rw [State.loupeRead, hparts, hsum, List.flatMap_map, readRaw_parts, show 16 * (s.num 0x8E00 2 / 16) = s.num 0x8E00 2 by omega]
  rw [List.map_const', List.sum_replicate, Nat.nsmul_eq_mul, Nat.mul_zero]

/-- Settles O42, by what each path's served read answers. -/
theorem dictionaryReads : Obligations.DictionaryReads := by
  unfold Obligations.DictionaryReads
  intro s path
  have hserve : s.serves = true → s.manages = true := fun h => by
    rw [State.serves, Bool.and_eq_true] at h
    exact h.1
  refine ⟨fun obj sub => ⟨?_, ?_, ?_, ?_, ?_⟩, fun hbusy ctrl data => ?_, ?_, ?_, ?_, ?_⟩
  · intro hm
    have hs : s.serves = false := by rw [State.serves, hm, Bool.false_and]
    show Host.Outcome.next (s.readVia path obj.toNat sub.toNat 0) = _
    rw [State.readVia, if_pos (by rw [hs]; rfl), State.hold, hm, Bool.false_and, if_neg (by decide)]
  · intro hm ho hp
    have hs : s.serves = false := by rw [State.serves, ho, Bool.and_false]
    show Host.Outcome.next (s.readVia path obj.toNat sub.toNat 0) = _
    rw [State.readVia, if_pos (by rw [hs]; rfl), State.hold, if_pos]
    rcases hp with hp | hp
    · simp [hm, HeldAccess.byWindow, hp]
    · simp [hm, hp]
  · intro b hs hb
    show execDictionaryRead path obj ⟨sub, b⟩ ⟨0, 0⟩ s = _
    rw [execDictionaryRead, if_pos (.inr (.inl hb)), State.refuseLength, if_pos hs, State.badRequest]
  · intro hs hc
    refine ⟨_, congrArg Host.Outcome.next (State.readVia_served hs (State.readAt_refused hc path 0)), ?_, ?_, ?_⟩
    · rw [Told, State.answered_rest]
    · rw [State.answered_rest]
    · rw [State.answered_rest]
  · intro hs hc hb hw
    have hw' : ¬ (obj.toNat = 0xB300 ∧ sub.toNat = 0xA) := fun h => hw ⟨BitVec.eq_of_toNat_eq h.1, BitVec.eq_of_toNat_eq h.2⟩
    refine ⟨_, congrArg Host.Outcome.next (State.readVia_plain hs hc hb hw' path), ?_, ?_⟩
    · rw [State.answered_rest]
    · rw [State.answered_rest]
  · have hw : ∀ t : State, t.xwBusy = true → t.window ctrl.toNat = t := fun t h => by
      rw [State.window, if_pos (by rw [h, Bool.or_true])]
    refine ⟨congrArg Host.Outcome.next (hw s hbusy), ?_⟩
    show execWindowWrite ctrl data s = _
    rw [execWindowWrite, if_pos (by rw [hbusy, Bool.or_true])]
  · intro ctrl o sub hup hbusy hs hgo hop hpiece hc hb hw
    have hwin : s.window ctrl.toNat = ({ s with host := { s.host with xwCtrl := ctrl.toNat / 16 * 16 } } : State).readVia .mmio o sub 0 := by
      rw [State.window]
      dsimp only
      rw [if_neg (by simp [hup, hbusy]), hgo, if_neg (by decide), if_pos hop, hpiece, hs]
      rfl
    have hread := State.readVia_plain (s := { s with host := { s.host with xwCtrl := ctrl.toNat / 16 * 16 } }) hs hc hb hw .mmio
    refine ⟨_, congrArg Host.Outcome.next (hwin.trans hread), by rw [State.answered_rest]; rfl, ?_⟩
    exact State.xwNote_read _ o sub 0 0 (State.encoding_small hb .mmio)
  · intro port first count hp hs hok hc
    refine ⟨_, ?_, rfl⟩
    show Host.Outcome.next (s.routeRead path ⟨port, 0⟩ first.toNat count.toNat) = _
    have hfm : Path.fm path = true := by cases path with
      | mmio => exact absurd rfl hp
      | mctp | secured _ | fmApi => rfl
    rw [State.routeRead]
    dsimp only
    rw [hfm, if_neg (by decide), hs, if_neg (by decide), hok, if_neg (by decide), hc]
    rfl
  · intro hs hc g n
    have hl := State.readAt_loupe hc path
    refine ⟨fun hcode => ?_, fun hcode hsp hcore hn hb hm => ?_⟩
    · refine ⟨_, congrArg Host.Outcome.next (State.readVia_served hs (hl.trans (State.readLoupe_refused hcode path))), ?_, ?_⟩
      · rw [Told, State.answered_rest]
      · rw [State.answered_rest]
    · have hread : s.readLoupe path 0 = ((s.setNum 0x8E00 4 0).drawn.noteSeen path (objKey 0x8E00 3)
          (leBytes 4 n ++ (s.core g.pc).opnd.readRaw g.offset n), 0, (leBytes 4 n ++ (s.core g.pc).opnd.readRaw g.offset n).take 4096) := by
        rw [State.readLoupe]
        dsimp only
        rw [if_neg (by decide), hcode, State.loupeRead_operand hsp hcore hn hb hm]
        dsimp only
        rw [Ram.length_readRaw]
        rfl
      refine ⟨_, congrArg Host.Outcome.next (State.readVia_served hs (hl.trans hread)), ?_, ?_, ?_⟩
      · rw [State.reply_num, State.xwNote_num]
        exact State.num_setNum_same s 0x8E00 4 0
      · exact SameMemory.trans ⟨fun _ => ⟨rfl, rfl⟩, fun _ => rfl, rfl⟩ (.answered ..)
      · rw [State.answered_rest]
        rfl
  · intro hs hc
    refine ⟨((s.setNum 0xB300 0xA 0).xwNote path 0xB300 0xA 1 0 0 0 (leBytes 1 (s.num 0xB300 0xA))).reply path 0 (leBytes 1 (s.num 0xB300 0xA)), ?_, ?_, ?_⟩
    · show Host.Outcome.next (s.readWake path) = _
      rw [State.readWake, if_neg (by rw [hs]; decide), hc]
      rfl
    · rw [State.reply_num, State.xwNote_num]
      exact State.num_setNum_same s 0xB300 0xA 0
    · rw [State.answered_rest]
      rfl

end Sys2Proof.Machine
end

section
/-! SUPPORT. Writes of the dictionary: values stored, refused, held. -/

namespace Sys2Proof.Machine

theorem Accepted.access {s : State} {path : Path} {o k v : Nat} (h : Accepted s path o k v) : s.accessCode path o k = 0 := by
  obtain ⟨-, hc⟩ := h
  unfold State.writeCode at hc
  split at hc
  next h0 => exact h0
  next h0 => exact absurd hc h0

/-- An enable is recognised by the object alone. -/
theorem State.writeEnable_none {s : State} {o k v : Nat} (h : s.writeEnable o k v = none) (t : State) : t.writeEnable o k v = none := by
  unfold State.writeEnable at h ⊢
  split at h
  · cases h
  next h1 =>
    split at h
    · cases h
    next h2 =>
      rw [if_neg h1, if_neg h2]
      revert h
      cases member o 0x4000 64 with
      | some m => split_ifs <;> exact fun h => h
      | none =>
        cases member o 0xC000 4096 with
        | some m => split_ifs <;> exact fun h => h
        | none =>
          cases chanOf o with
          | some m => split_ifs <;> exact fun h => h
          | none => exact fun h => h

theorem State.writeAt_number {s : State} {path : Path} {o k : Nat} {r : ObjRow} {d : List Byte} (hs : s.serves = true) (hr : objRow o k = some r)
    (hb : isBlob o k = false) (hd : d.length = objBytes o k r.ty) : s.writeAt path o k 0 d = s.writeNumber path o k (leNat d) := by
  rw [State.writeAt, if_neg (by rw [hs]; decide), hb, if_neg (by decide), hr]
  split
  next r' _ hr' =>
    obtain rfl : r = r' := Option.some.inj hr'
    rw [if_neg (by decide), if_neg (by omega)]
  · rfl

section
variable {s : State} {o k : Nat} {r : ObjRow} (hr : objRow o k = some r) (ha : r.acc = .rw ∨ r.acc = .rwd)
  (h1 : o ≠ 0x1002) (h2 : o ≠ 0x6400) (h3 : ¬ (0x5600 ≤ o ∧ o ≤ 0x563F ∧ k = 4))
include hr ha h1 h2 h3

/-- A plain object is stored as it is written. -/
theorem State.applyNum_plain {v : Nat} (he : s.writeEnable o k v = none) (path : Path) : s.applyNum path o k v = (s.setNum o k v, 0) := by
  have hacc : r.acc ≠ .wo ∧ r.acc ≠ .rws := by rcases ha with h | h <;> rw [h] <;> decide
  have hcmd : s.writeCommand o k v = none := by
    rw [State.writeCommand, hr]
    exact if_pos hacc.1
  rw [State.applyNum, he]
  dsimp only
  rw [hcmd]
  dsimp only
  rw [State.storeNum, hr]
  dsimp only
  rw [if_neg hacc.2, if_neg h1, if_neg h3, if_neg fun h => h2 h.1, if_neg fun h => h2 h.1]

theorem State.writeNumber_plain {v : Nat} (h4 : o ≠ 0xA100) (h5 : o ≠ 0xB0F0) (he : s.writeEnable o k v = none) {path : Path} (hacc : Accepted s path o k v) :
    ∃ len, s.writeNumber path o k v = ((s.setNum o k v).xwNote path o k 2 len 0 0 (leBytes len v)).reply path 0 [] := by
  obtain ⟨len, h⟩ := State.writeVia_accepted hacc fun s => s.applyNum path o k v
  rw [State.applyNum_plain hr ha h1 h2 h3 he path] at h
  refine ⟨len, ?_⟩
  rw [State.writeNumber, if_neg fun h => h4 h.1, if_neg fun h => h5 h.1, h]

end

/-- A value told as stored: the object holds it, the path knows, and nothing else has changed. -/
theorem State.stored_told (s : State) (path : Path) (o k v len : Nat) (d : List Byte) :
    let t := ((s.setNum o k v).xwNote path o k 2 len 0 0 d).reply path 0 []
    t.num o k = v ∧ Told s t path 0 ∧ t.blobs = s.blobs ∧ t = { s with dict := t.dict, host := t.host, out := t.out } := by
  refine ⟨?_, ?_, ?_, ?_⟩
  · rw [State.reply_num, State.xwNote_num]
    exact State.num_setNum_same s o k v
  · rw [Told, State.answered_rest]
    rfl
  · rw [State.answered_rest]
    rfl
  · rw [State.answered_rest]
    rfl

/-- A refused numeric write changes no object and is answered with its reason code. -/
theorem State.writeNumber_refused {s : State} {path : Path} {o k v : Nat} (hs : s.serves = true) (hc : s.writeCode path o k v ≠ 0)
    (he : isEnable o k = false) : (s.writeNumber path o k v).dict = s.dict ∧ Told s (s.writeNumber path o k v) path (s.writeCode path o k v) := by
  have answer : ∀ len d, ((s.xwNote path o k 2 len 0 (s.writeCode path o k v) d).reply path (s.writeCode path o k v) []).dict = s.dict ∧
      Told s ((s.xwNote path o k 2 len 0 (s.writeCode path o k v) d).reply path (s.writeCode path o k v) []) path (s.writeCode path o k v) := fun len d => by
    rw [Told, State.answered_rest]
    exact ⟨rfl, rfl⟩
  unfold State.writeNumber
  split
  next h =>
    obtain ⟨rfl, rfl⟩ := h
    rw [State.writeLifecycle, if_neg (by rw [hs]; decide)]
    dsimp only
    split
    next h0 => exact absurd h0 hc
    · exact answer ..
  · split
    · rw [State.writeReset, if_neg (by rw [hs]; decide)]
      split
      next h0 => exact absurd h0 hc
      · exact answer ..
    · rw [State.writeVia, if_neg (by rw [hs]; decide)]
      dsimp only
      split
      next h0 => exact absurd h0 hc
      · rw [he, Bool.false_and, if_neg (by decide)]
        exact answer ..

theorem execDictionaryWrite_whole (s : State) (path : Path) (obj : BitVec 16) (sub : BitVec 8) {d : List Byte} (h : d.length ≤ 4096) :
    exec (.dictionaryWrite path obj ⟨sub, 0⟩ 0 d) s = .next (s.writeAt path obj.toNat sub.toNat 0 d) := by
  show execDictionaryWrite path obj ⟨sub, 0⟩ 0 d s = _
  rw [execDictionaryWrite, if_neg (by
    rintro (h' | h' | h')
    · exact absurd h' (by decide)
    · exact absurd h (by rw [pieceBytes] at h'; omega)
    · exact h' rfl)]
  rfl

theorem execRegisterWrite_number (s : State) (path : Path) (obj : BitVec 16) (sub : BitVec 8) (d : List Byte) (hb : isBlob obj.toNat sub.toNat = false) :
    exec (.registerWrite path obj sub d) s = .next (s.writeAt path obj.toNat sub.toNat 0 d) := by
  show Host.Outcome.next (s.writeValue path obj.toNat sub.toNat d) = _
  rw [State.writeValue, hb, if_neg (by decide)]

/-- A write by the window of P0: the data is taken into its buffer, then written as any other. -/
theorem execWindowWrite_go {s : State} {ctrl : BitVec 64} {data : List Byte} (hup : s.p0Up = true) (hbusy : s.xwBusy = false) (hs : s.serves = true)
    (hop : bits ctrl.toNat 39 32 = 2) (hlen : bits ctrl.toNat 31 16 = data.length) (hpiece : bits ctrl.toNat 15 4 = 0) (hgo : ctrl.toNat.testBit 0 = true)
    (hd : data.length ≤ 4096) : ∃ h : HostPort, exec (.windowWrite ctrl data) s =
      .next (({ s with host := h } : State).writeAt .mmio (bits ctrl.toNat 63 48) (bits ctrl.toNat 47 40) 0 data) := by
  have hslice : slice (patch (slice s.host.xwData 0 4096) 0 data) 0 data.length = data := slice_patch_zero (by rw [slice_length]; exact hd)
  refine ⟨{ s.host with
    xwData := patch (slice s.host.xwData 0 4096) 0 data, xwCtrl := ctrl.toNat / 16 * 16 + if s.serves then 0 else 1 }, ?_⟩
  show execWindowWrite ctrl data s = _
  rw [execWindowWrite, if_neg (by simp [hup, hbusy]), State.window]
  dsimp only
  rw [if_neg (by
    have h1 : s.p0Up = true ∧ s.xwBusy = false := ⟨hup, hbusy⟩
    intro h
    rcases Bool.or_eq_true_iff.1 h with h' | h'
    · rw [show State.p0Up { s with host := { s.host with xwData := patch (slice s.host.xwData 0 4096) 0 data } } = s.p0Up from rfl, h1.1] at h'
      cases h'
    · rw [show State.xwBusy { s with host := { s.host with xwData := patch (slice s.host.xwData 0 4096) 0 data } } = s.xwBusy from rfl, h1.2] at h'
      cases h'), hgo, if_neg (by decide), hop, if_neg (by decide), if_pos ⟨rfl, by omega⟩, hpiece, hlen, hslice]
  rfl

/-! ### Values of bytes -/

theorem stagePiece_whole (st : Option (Nat × List Byte)) (k : Nat) {b : List Byte} (h : b.length < 2 ^ 32) :
    stagePiece st k 0 (leBytes 4 b.length ++ b) = (none, .whole b) := by
  have hle : leAt (leBytes 4 b.length ++ b) 0 4 = b.length := by
    rw [leAt, List.drop_zero, List.take_left' (leBytes_length ..), leNat_leBytes, Nat.mod_eq_of_lt (by simpa using h)]
  have hlen : (leBytes 4 b.length ++ b).length = 4 + b.length := by rw [List.length_append, leBytes_length]
  have hdrop : (leBytes 4 b.length ++ b).drop 4 = b := List.drop_left' (leBytes_length ..)
  unfold stagePiece
  rw [if_pos rfl]
  dsimp only
  rw [List.nil_append, hle, hlen, if_neg (by omega), if_pos rfl, hdrop]

section
variable {s : State} {path : Path} {o k : Nat} {r : ObjRow} {b : List Byte} (hr : objRow o k = some r)
  (hok : blobOk o k r.ty b = true) (h0 : o ≠ 0xA010) (hz : allZero b = false)
include hr hok h0 hz

theorem State.storeBlob_whole (t : State) : t.storeBlob o k b = (t.setBlob o k b, 0) := by
  rw [State.storeBlob, hr]
  dsimp only
  rw [hok, if_neg (by decide), if_neg h0, hz, Bool.and_false, if_neg (by decide)]

end

/-- A BLOB value told as stored. -/
theorem State.setBlob_told {s t : State} (ht : t.dict = s.dict ∧ t.out = s.out) (path : Path) (o k len : Nat) (b d : List Byte) :
    let u := ((t.setBlob o k b).xwNote path o k 2 len 0 0 d).reply path 0 []
    u.blob o k = b ∧ Told s u path 0 ∧ u.dict = s.dict := by
  refine ⟨?_, ?_, ?_⟩
  · rw [State.reply_blob, State.xwNote_blob]
    exact tabGet_tabSet_same ..
  · rw [Told, State.answered_rest, ← ht.2]
    rfl
  · rw [State.answered_rest]
    exact ht.1

theorem objRow_route {port : Nat} (h1 : 1 ≤ port) (h7 : port ≤ 7) : objRow (0x61FF + port) 1 = some ⟨0x6200, 0x6206, 1, 1, .blob, .rw, 0, .no⟩ := by
  interval_cases port <;> decide +kernel

theorem allZero_replicate {b : List Byte} (h : allZero b = true) : b = List.replicate b.length 0 :=
  List.eq_replicate_iff.2 ⟨rfl, fun x hx => by simpa using List.all_eq_true.1 h x hx⟩

/-- A port's route table reads as it is stored, as zeros when none is. -/
theorem State.readBlob_route (s : State) {port : Nat} (h1 : 1 ≤ port) (h7 : port ≤ 7) (path : Path) : s.readBlob path (0x61FF + port) 1 =
    if s.blob (0x61FF + port) 1 = [] then List.replicate 262144 0 else s.blob (0x61FF + port) 1 := by
  have hport : 0x6200 ≤ 0x61FF + port ∧ 0x61FF + port ≤ 0x6206 := by omega
  have hif : (if 0x6200 ≤ 0x61FF + port ∧ 0x61FF + port ≤ 0x6206 ∧ s.blob (0x61FF + port) 1 = [] then List.replicate 262144 0
      else s.blob (0x61FF + port) 1) = if s.blob (0x61FF + port) 1 = [] then List.replicate 262144 0 else s.blob (0x61FF + port) 1 := by
    simp only [hport.1, hport.2, true_and]
  rw [← hif]
  interval_cases port <;> rfl

/-- A route table written in place reads back, all zero or not. -/
theorem State.storeBlob_route (s : State) {port : Nat} (h1 : 1 ≤ port) (h7 : port ≤ 7) {b : List Byte} (hok : blobOk (0x61FF + port) 1 .blob b = true) :
    ∃ t, s.storeBlob (0x61FF + port) 1 b = (t, 0) ∧ (∀ path, t.readBlob path (0x61FF + port) 1 = b) ∧ t.out = s.out := by
  have hlen : b.length = 262144 := by
    have h := hok
    rw [blobOk, if_neg (by omega), if_neg (by omega), if_pos (by omega)] at h
    simp only [Bool.and_eq_true, beq_iff_eq] at h
    exact h.2.1
  have hzd : ((decide (0x6200 ≤ 0x61FF + port) && decide (0x61FF + port ≤ 0x6206)) || (0x61FF + port == 0xA020 && 1 == 3)) = true := by
    simp only [Bool.or_eq_true, Bool.and_eq_true, decide_eq_true_eq]
    omega
  have hread : ∀ c : List Byte, (s.setBlob (0x61FF + port) 1 c).blob (0x61FF + port) 1 = c := fun c => tabGet_tabSet_same ..
  refine ⟨s.setBlob (0x61FF + port) 1 (if allZero b then [] else b), ?_, fun path => ?_, rfl⟩
  · rw [State.storeBlob, objRow_route h1 h7]
    dsimp only
    rw [hok, if_neg (by decide), if_neg (by omega), hzd, Bool.true_and]
  · rw [State.readBlob_route _ h1 h7, hread]
    by_cases hz : allZero b = true
    · rw [if_pos hz, if_pos rfl, ← hlen]
      exact (allZero_replicate hz).symm
    · have hne : b ≠ [] := by
        rintro rfl
        cases hlen
      rw [if_neg hz, if_neg hne]

/-- Settles O43, by what each path's served write leaves. -/
theorem dictionaryWrites : Obligations.DictionaryWrites := by
  unfold Obligations.DictionaryWrites
  intro s path obj sub r o k
  refine ⟨fun hr hb data hlen => ⟨fun ha he h1 h2 h3 h4 h5 => ⟨fun hacc => ?_, fun ctrl hacc hup hbusy ho hk hop hl hp hgo => ?_⟩, fun hs hc he => ?_,
    fun hm hno hp => ?_⟩, fun hr hb b hs hacc hok h0 hz => ?_, fun value hacc => ?_, fun port first entries hp hs hok heven hbits hacc => ?_⟩
  · have hd : data.length ≤ 4096 := (hlen.le.trans (objBytes_le o k r.ty)).trans (by decide)
    obtain ⟨len, e⟩ := State.writeNumber_plain hr ha h1 h2 h5 h3 h4 he hacc
    have hw := (State.writeAt_number hacc.1 hr hb hlen).trans e
    exact ⟨⟨_, (execDictionaryWrite_whole s path obj sub hd).trans (congrArg Host.Outcome.next hw), State.stored_told ..⟩,
      ⟨_, (execRegisterWrite_number s path obj sub data hb).trans (congrArg Host.Outcome.next hw), State.stored_told ..⟩⟩
  · have hd : data.length ≤ 4096 := (hlen.le.trans (objBytes_le o k r.ty)).trans (by decide)
    obtain ⟨h, e⟩ := execWindowWrite_go hup hbusy hacc.1 hop hl hp hgo hd
    rw [ho, hk] at e
    have hacc' : Accepted ({ s with host := h } : State) .mmio o k (leNat data) := hacc
    obtain ⟨len, e'⟩ := State.writeNumber_plain hr ha h1 h2 h5 h3 h4 (State.writeEnable_none he { s with host := h }) hacc'
    have hw := (State.writeAt_number (s := { s with host := h }) (path := .mmio) hacc.1 hr hb hlen).trans e'
    obtain ⟨t1, t2, t3, t4⟩ := State.stored_told { s with host := h } .mmio o k (leNat data) len (leBytes len (leNat data))
    exact ⟨_, e.trans (congrArg Host.Outcome.next hw), t1, t2, t3, t4⟩
  · have hd : data.length ≤ 4096 := (hlen.le.trans (objBytes_le o k r.ty)).trans (by decide)
    have hw := State.writeAt_number hs hr hb hlen (path := path)
    obtain ⟨h1, h2⟩ := State.writeNumber_refused hs hc he
    exact ⟨⟨_, (execDictionaryWrite_whole s path obj sub hd).trans (congrArg Host.Outcome.next hw), h1, h2⟩,
      ⟨_, (execRegisterWrite_number s path obj sub data hb).trans (congrArg Host.Outcome.next hw), h1, h2⟩⟩
  · have hd : data.length ≤ 4096 := (hlen.le.trans (objBytes_le o k r.ty)).trans (by decide)
    have hs : s.serves = false := by rw [State.serves, hno, Bool.and_false]
    have hkept : s.writeAt path o k 0 data = { s with heldOps := s.heldOps ++ [.write path o k 0 data] } := by
      rw [State.writeAt, if_pos (by rw [hs]; rfl), State.hold, if_pos]
      rcases hp with hp | hp
      · simp [hm, HeldAccess.byWindow, hp]
      · simp [hm, hp]
    exact ⟨(execDictionaryWrite_whole s path obj sub hd).trans (congrArg Host.Outcome.next hkept),
      (execRegisterWrite_number s path obj sub data hb).trans (congrArg Host.Outcome.next hkept)⟩
  · have hstore := fun t => State.storeBlob_whole hr hok h0 hz t
    refine ⟨fun hl => ?_, ?_⟩
    · have hlen : (leBytes 4 b.length ++ b).length = 4 + b.length := by rw [List.length_append, leBytes_length]
      refine ⟨(((s.modPath path fun v => { v with staged := none }).setBlob o k b).xwNote path o k 2 (leBytes 4 b.length ++ b).length 0 0
          (leBytes 4 b.length ++ b)).reply path 0 [],
        (execDictionaryWrite_whole s path obj sub (by omega)).trans (congrArg Host.Outcome.next ?_), ?_⟩
      · rw [State.writeAt, if_neg (by rw [hs]; decide), if_pos hb, State.writePiece, hacc, stagePiece_whole _ _ (by omega)]
        dsimp only
        rw [hstore]
        rfl
      · exact State.setBlob_told (t := s.modPath path fun v => { v with staged := none }) ⟨rfl, rfl⟩ ..
    · refine ⟨_, ?_, State.setBlob_told (t := s) ⟨rfl, rfl⟩ path o k (min (4 + b.length) 4096) b (leBytes 4 b.length ++ b)⟩
      show Host.Outcome.next (s.writeValue path o k b) = _
      rw [State.writeValue, if_pos hb, State.writeBytes, if_neg (by rw [hs]; decide), hacc]
      dsimp only
      rw [hstore]
      rfl
  · have hrow : objRow 0x1002 1 = some ⟨0x1002, 0x1002, 1, 1, .u32, .rw, 0, .no⟩ := by decide +kernel
    have hstore : ∀ t : State, t.storeNum path 0x1002 1 value.toNat = t.modPath path fun x => { x with describe := value.toNat } := fun t => by
      rw [State.storeNum, hrow]
      rfl
    obtain ⟨len, e⟩ := State.writeDo_accepted hacc fun s => s.storeNum path 0x1002 1 value.toNat
    rw [hstore] at e
    refine ⟨_, congrArg Host.Outcome.next e, ?_, ?_, ?_⟩
    · rw [State.answered_rest]
      exact congrArg PathSt.describe (tabGet_tabSet_same PathSt.idle s.paths path.num { s.path path with describe := value.toNat })
    · rw [Told, State.answered_rest]
      rfl
    · rw [State.answered_rest]
      rfl
  · intro table hblob
    have hport : 1 ≤ port.toNat ∧ port.toNat ≤ 7 := by
      simp only [routeOk, Bool.and_eq_true, decide_eq_true_eq] at hok
      omega
    obtain ⟨t, e, hread, hout⟩ := s.storeBlob_route hport.1 hport.2 hblob
    have hfm : Path.fm path = true := by cases path with
      | mmio => exact absurd rfl hp
      | mctp | secured _ | fmApi => rfl
    have hany : (chunksOf 2 512 entries).any (fun e => bits (leNat e) 14 12 != 0) = false := List.any_eq_false.2 fun e he => by simp [hbits e he]
    have htold : Told s (t.reply path 0 []) path 0 := by
      rw [Told, ← hout]
      rfl
    refine ⟨t.reply path 0 [], ?_, hread path, htold⟩
    show Host.Outcome.next (s.routeWrite path ⟨port, 0⟩ first.toNat entries) = _
    rw [State.routeWrite]
    dsimp only
    rw [hfm, if_neg (by decide), hs, if_neg (by decide), hok, heven, hany, if_neg (by decide), hacc]
    show Host.Outcome.next ((s.storeBlob _ 1 table).1.reply path 0 []) = _
    rw [e]

end Sys2Proof.Machine
end

section
/-! SUPPORT. What the boundary of a partition and the end of the enabled state leave alone. -/

namespace Sys2Proof.Machine

/-- A change of a partition that leaves what the overlays force on it, and whether a step of it runs. -/
def PartKept (f : Part → Part) : Prop := ∀ x, (f x).force = x.force ∧ (f x).running.isSome = x.running.isSome

/-- Steps changed in their places, their stages kept: a step runs if one did. -/
theorem Part.mapSteps_kept {c : Step → Bool} {g : Step → Step} (hg : ∀ x, (g x).stage = x.stage) : PartKept fun q => q.mapSteps c g := fun q => by
  have hany : ∀ l : List Step, (l.map fun x => if c x then g x else x).any (fun x => decide (x.stage = .running)) = l.any fun x => decide (x.stage = .running) :=
    fun l => by
      rw [List.any_map]
      refine congrArg (List.any l) (funext fun x => ?_)
      rw [Function.comp_apply]
      split
      · rw [hg]
      · rfl
  refine ⟨rfl, ?_⟩
  rw [Part.running, Part.running, List.isSome_find?, List.isSome_find?]
  unfold Part.steps Part.mapSteps
  rw [List.any_append, List.any_append, hany, hany]

/-- A value of the state that neither objects from 0x3000 on, the clock in force, records, clients, steps, filmstrips nor overlays
change, and that the overlays' effect on partition `q` does not change. -/
structure Unmoved {α : Type} (q : Nat) (Φ : State → α) : Prop extends Blind Φ where
  high : ∀ s o k v, 0x3000 ≤ o → Φ (s.setNum o k v) = Φ s
  clock : ∀ s v, Φ (s.setNum 0x2010 3 v) = Φ s
  modCore : ∀ s k f, Φ (s.modCore k f) = Φ s
  counts : ∀ s l, Φ { s with localCounts := l } = Φ s
  clients : ∀ s l, Φ { s with clients := l } = Φ s
  overlays : ∀ s l, Φ { s with overlays := l } = Φ s
  pipes : ∀ s a b c, Φ { s with channels := a, pipeBefore := b, pipeNext := c } = Φ s
  modPart : ∀ s p f, PartKept f → Φ (s.modPart p f) = Φ s
  reforce : ∀ s, Φ (s.reforce q) = Φ s

section
variable {α : Type} {q : Nat} {Φ : State → α} (h : Unmoved q Φ)
include h

theorem Unmoved.count (s : State) (o k n : Nat) : Φ (s.count o k n) = Φ s := by
  obtain ⟨l, e⟩ := s.count_eq o k n
  rw [e]
  exact h.counts s l

theorem Unmoved.bump (s : State) {o : Nat} (k n : Nat) (ho : 0x3000 ≤ o) : Φ (s.bump o k n) = Φ s := h.high _ _ _ _ ho

theorem Unmoved.raise (s : State) (e : Event) : Φ (s.raise e) = Φ s := h.toBlind.raise s e

theorem Unmoved.modRunning (s : State) (p : Nat) {g : Step → Step} (hg : ∀ x, (g x).stage = x.stage) : Φ (s.modRunning p g) = Φ s :=
  h.modPart _ _ _ (Part.mapSteps_kept hg)

theorem Unmoved.flagWaiting (s : State) (n : Nat) : Φ (s.flagWaiting n) = Φ s := h.clients s _

theorem Unmoved.markBreach (s : State) (p : Nat) : Φ (s.markBreach p) = Φ s := by
  unfold State.markBreach
  refine (h.modPart _ _ _ (Part.mapSteps_kept ?_)).trans (Blind.forEach h.flagWaiting _ s)
  exact fun _ => rfl

theorem Unmoved.raiseBreach (s : State) (p : Nat) (e : Event) : Φ (s.raiseBreach p e) = Φ s := by
  unfold State.raiseBreach
  split
  · exact h.raise ..
  · exact (h.raise ..).trans (h.markBreach ..)

theorem Unmoved.account (s : State) (pc u : Nat) : Φ (s.account pc u) = Φ s := by
  unfold State.account
  dsimp only
  refine (h.modCore ..).trans ?_
  split
  · rfl
  · exact h.count ..
  · exact (h.count ..).trans (h.count ..)
  · exact (h.count ..).trans (h.count ..)
  · split
    · rfl
    · exact (h.count ..).trans ((h.count ..).trans (h.count ..))

theorem Unmoved.accountCore (s : State) (pc : Nat) : Φ (s.accountCore pc) = Φ s := Blind.forEach (fun s u => h.account s pc u) _ s

theorem Unmoved.stopStep (s : State) (p : Nat) : Φ (s.stopStep p) = Φ s := by
  unfold State.stopStep
  split
  · rfl
  · exact Blind.forEach (fun s c => (h.modCore ..).trans (h.accountCore s c)) _ s

theorem Unmoved.failStep (s : State) (p : Nat) (f : Failure) : Φ (s.failStep p f) = Φ s :=
  (h.modRunning _ _ fun x => by split <;> rfl).trans (h.stopStep s p)

theorem Unmoved.stopOrReplay (s : State) (p : Nat) (can : Bool) (f : Failure) : Φ (s.stopOrReplay p can f) = Φ s := by
  unfold State.stopOrReplay
  split
  · rfl
  · split
    · refine (h.modRunning _ _ ?_).trans (h.stopStep s p)
      exact fun _ => rfl
    · exact h.failStep ..

theorem Unmoved.fenceCluster (s : State) (k cause : Nat) : Φ (s.fenceCluster k cause) = Φ s := by
  unfold State.fenceCluster
  extract_lets s1 runs flying s2 s3 e
  have h1 : Φ s1 = Φ s := (h.setBlob ..).trans (h.high _ _ _ _ (by decide))
  have h2 : Φ s2 = Φ s1 := Blind.forEach (fun s r => h.stopOrReplay s _ _ _) _ s1
  have h3 : Φ s3 = Φ s2 := Blind.forEach (fun s pc => h.modCore s _ _) _ s2
  have h0 := h3.trans (h2.trans h1)
  split
  · rfl
  · split
    · exact (h.raise ..).trans h0
    next p _ =>
      extract_lets s4
      have h4 : Φ s4 = Φ s3 := h.modPart _ _ _ fun _ => ⟨rfl, rfl⟩
      split
      · exact (h.raiseBreach ..).trans (h4.trans h0)
      · exact (h.raise ..).trans (h4.trans h0)

theorem Unmoved.remapCluster (s : State) (k : Nat) : Φ (s.remapCluster k) = Φ s := by
  unfold State.remapCluster
  extract_lets n s1 new base s2
  have h1 : Φ s1 = Φ s := by
    simp only [s1]
    split
    · exact h.fenceCluster ..
    · rfl
  have h2 : Φ s2 = Φ s1 := by
    simp only [s2]
    split
    · rfl
    · exact (h.raise ..).trans (h.high _ _ _ _ (by omega))
  exact (h.high _ _ _ _ (by omega)).trans (h2.trans h1)

theorem Unmoved.takeBankFence (s : State) (pc : Nat) : Φ (s.takeBankFence pc) = Φ s := by
  unfold State.takeBankFence
  split
  · rfl
  · exact (h.high _ _ _ _ (by omega)).trans (h.modCore ..)

theorem Unmoved.deviceSlot (s : State) (slot kind : Nat) (es : List (Nat × Nat)) (applied : Nat) : Φ (s.deviceSlot slot kind es applied) = Φ s := by
  have hh : ∀ (t : State) k v, Φ (t.setNum (0x3000 + slot) k v) = Φ t := fun t k v => h.high _ _ _ _ (by omega)
  unfold State.deviceSlot
  exact (hh _ _ _).trans ((h.setBlob ..).trans ((hh _ _ _).trans ((h.setBlob ..).trans ((hh _ _ _).trans (hh _ _ _)))))

theorem Unmoved.clearSlot (s : State) (slot : Nat) : Φ (s.clearSlot slot) = Φ s := by
  have hh : ∀ (t : State) k v, Φ (t.setNum (0x3000 + slot) k v) = Φ t := fun t k v => h.high _ _ _ _ (by omega)
  unfold State.clearSlot
  exact (hh _ _ _).trans ((h.setBlob ..).trans ((hh _ _ _).trans ((h.setBlob ..).trans ((hh _ _ _).trans (hh _ _ _)))))

theorem Unmoved.settleSlot14 (s : State) : Φ s.settleSlot14 = Φ s := by
  unfold State.settleSlot14
  dsimp only
  split
  · split
    · rfl
    · exact h.clearSlot ..
  · exact h.deviceSlot ..

theorem Unmoved.recheck (s : State) (p : Nat) (ok : State → Image → Nat → Bool) : Φ (s.recheck p ok) = Φ s :=
  Blind.forEach (fun s k => by
    split
    · exact h.high _ _ _ _ (by omega)
    · rfl) _ s

theorem Unmoved.settleSlot15 (s : State) (p : Nat) : Φ (s.settleSlot15 p) = Φ s := by
  unfold State.settleSlot15
  extract_lets ks new due s1 old
  have h1 : Φ s1 = Φ s := Blind.forEach (fun s k => h.high _ _ _ _ (by decide)) _ s
  split
  · rfl
  · exact (h.recheck ..).trans ((h.deviceSlot ..).trans h1)

theorem Unmoved.settleOverlays (s : State) : Φ s.settleOverlays = Φ s := by
  have hh : ∀ (t : State) (c : Nat × Bool) k v, Φ (t.setNum (0x3000 + c.1) k v) = Φ t := fun t c k v => h.high _ _ _ _ (by omega)
  unfold State.settleOverlays
  dsimp only
  refine (h.overlays ..).trans (Blind.forEach (fun t c => ?_) _ s)
  split
  · exact (h.setBlob ..).trans (hh ..)
  · exact (hh ..).trans (hh ..)

theorem Unmoved.takeOverlays (s : State) : Φ (s.takeOverlays q) = Φ s := by
  unfold State.takeOverlays
  extract_lets before mine s1 s2
  have h1 : Φ s1 = Φ s := Blind.forEach (fun t c => h.high _ _ _ _ (by omega)) _ s
  have h2 : Φ s2 = Φ s1 := (h.settleOverlays _).trans (h.reforce s1)
  split
  · exact (h.raise ..).trans ((h.markBreach ..).trans (h2.trans h1))
  · exact h2.trans h1

theorem Unmoved.noteClass (s : State) (k : Nat) : Φ (s.noteClass k) = Φ s := by
  unfold State.noteClass
  dsimp only
  split
  · rfl
  · exact (h.raise ..).trans (h.high _ _ _ _ (by decide))

theorem Unmoved.settleEnvelope (s : State) : Φ s.settleEnvelope = Φ s := by
  unfold State.settleEnvelope
  dsimp only
  split
  · rfl
  · split
    · rfl
    · exact (Blind.forEach (fun s k => h.noteClass s k) _ _).trans (h.clock ..)

theorem Unmoved.coolantFollows (s before : State) : Φ (s.coolantFollows before) = Φ s := by
  unfold State.coolantFollows
  split
  · rfl
  · unfold State.markCoolant
    exact (h.high _ _ _ _ (by decide)).trans (h.high _ _ _ _ (by decide))

theorem Unmoved.boundary (s : State) : Φ (s.boundary q) = Φ s := by
  unfold State.boundary
  extract_lets before moved dirty s1 s2 s3 s4 s5
  have h1 : Φ s1 = Φ s := h.modPart _ _ _ fun _ => ⟨rfl, rfl⟩
  have h2 : Φ s2 = Φ s1 := Blind.forEach (fun t k => Blind.forEach h.takeBankFence _ t) _ s1
  have h3 : Φ s3 = Φ s2 := (h.settleSlot14 _).trans (Blind.forEach h.remapCluster _ s2)
  have h4 : Φ s4 = Φ s3 := (h.takeOverlays _).trans (h.settleSlot15 ..)
  have h5 : Φ s5 = Φ s4 := (h.coolantFollows ..).trans (h.settleEnvelope _)
  have h0 := h5.trans (h4.trans (h3.trans (h2.trans h1)))
  split
  · exact (h.recheck ..).trans h0
  · exact h0

theorem Unmoved.boundaryIfIdle (s : State) : Φ (s.boundaryIfIdle q) = Φ s := by
  unfold State.boundaryIfIdle
  split
  · rfl
  · exact h.boundary s

theorem Unmoved.dropSlot15 (s : State) : Φ s.dropSlot15 = Φ s := by
  unfold State.dropSlot15
  split
  · rfl
  · exact (h.clearSlot ..).trans (Blind.forEach (fun t k => h.high _ _ _ _ (by decide)) _ s)

theorem Unmoved.calibrate (s : State) (d : Nat) : Φ (s.calibrate d) = Φ s := by
  unfold State.calibrate
  dsimp only
  split
  · exact (h.pipes _ s.channels _ _).trans (h.high _ _ _ _ (by omega))
  · unfold State.enterPipe
    dsimp only
    rw [if_neg (by decide)]
    exact (h.pipes _ s.channels s.pipeBefore _).trans ((h.high _ _ _ _ (by omega)).trans (h.high _ _ _ _ (by omega)))

theorem Unmoved.derive (s : State) : Φ s.derive = Φ s := by
  unfold State.derive
  dsimp only
  refine (Blind.forEach (fun t k => h.high _ _ _ _ (by decide)) _ _).trans ((h.high _ _ _ _ (by decide)).trans
    ((Blind.forEach (fun t p => h.high _ _ _ _ (by omega)) _ _).trans (Blind.forEach (fun t p => ?_) _ s)))
  exact (h.high _ _ _ _ (by decide)).trans (h.high _ _ _ _ (by omega))

theorem Unmoved.renewSlots (s : State) : Φ s.renewSlots = Φ s := by
  unfold State.renewSlots
  dsimp only
  split
  · exact h.settleSlot14 s
  · exact (h.deviceSlot ..).trans (h.settleSlot14 s)

end

/-- An object of the device, of its partitions' enables and of the envelope asked for. -/
structure LowObject (o sub : Nat) : Prop where
  object : o < 0x3000
  index : sub < 256
  clock : ¬ (o = 0x2010 ∧ sub = 3)

theorem LowObject.unmoved {o sub : Nat} (h : LowObject o sub) (q : Nat) : Unmoved q fun s => s.num o sub where
  setNum s o' k v ho := State.num_setNum_ne s v (by have := h.object; have := h.index; unfold objKey; omega)
  setBlob s _ _ _ := State.setBlob_num ..
  setFilm s f v := State.setFilm_num ..
  emit _ _ := rfl
  seq _ _ := rfl
  gap _ _ := rfl
  high s o' k v ho := State.num_setNum_ne s v (by have := h.object; have := h.index; unfold objKey; omega)
  clock s v := State.num_setNum_ne s v (by have := h.clock; have := h.index; unfold objKey; omega)
  modCore _ _ _ := rfl
  counts _ _ := rfl
  clients _ _ := rfl
  overlays _ _ := rfl
  pipes _ _ _ _ := rfl
  modPart _ _ _ _ := rfl
  reforce _ := rfl

/-- What the overlays force on another partition. -/
theorem unmoved_force {p q : Nat} (h : p ≠ q) : Unmoved q fun s => (s.part p).force where
  setNum _ _ _ _ _ := rfl
  setBlob _ _ _ _ := rfl
  setFilm s f v := by
    unfold State.setFilm
    split <;> rfl
  emit _ _ := rfl
  seq _ _ := rfl
  gap _ _ := rfl
  high _ _ _ _ _ := rfl
  clock _ _ := rfl
  modCore _ _ _ := rfl
  counts _ _ := rfl
  clients _ _ := rfl
  overlays _ _ := rfl
  pipes _ _ _ _ := rfl
  modPart s p' f hf := by
    rw [State.part_modPart]
    split
    next e => rw [(hf _).1, e]
    · rfl
  reforce s := by
    rw [State.reforce, State.part_modPart, if_neg h]

/-- Whether a step of a partition runs. -/
theorem unmoved_running (p q : Nat) : Unmoved q fun s => (s.running p).isSome where
  setNum _ _ _ _ _ := rfl
  setBlob _ _ _ _ := rfl
  setFilm s f v := by
    unfold State.setFilm
    split <;> rfl
  emit _ _ := rfl
  seq _ _ := rfl
  gap _ _ := rfl
  high _ _ _ _ _ := rfl
  clock _ _ := rfl
  modCore _ _ _ := rfl
  counts _ _ := rfl
  clients _ _ := rfl
  overlays _ _ := rfl
  pipes _ _ _ _ := rfl
  modPart s p' f hf := by
    rw [State.running, State.running, State.part_modPart]
    split
    next e => rw [(hf _).2, e]
    · rfl
  reforce s := by
    rw [State.running, State.running, State.reforce, State.part_modPart]
    split
    next e => rw [e]; rfl
    · rfl

/-- The engines, the tier caches, the fills and the host port. -/
theorem unmoved_engines (q : Nat) : Unmoved q fun s => (s.coll, s.tier, s.fills, s.host) where
  setNum _ _ _ _ _ := rfl
  setBlob _ _ _ _ := rfl
  setFilm s f v := by
    unfold State.setFilm
    split <;> rfl
  emit _ _ := rfl
  seq _ _ := rfl
  gap _ _ := rfl
  high _ _ _ _ _ := rfl
  clock _ _ := rfl
  modCore _ _ _ := rfl
  counts _ _ := rfl
  clients _ _ := rfl
  overlays _ _ := rfl
  pipes _ _ _ _ := rfl
  modPart _ _ _ _ := rfl
  reforce _ := rfl

end Sys2Proof.Machine
end

section
/-! SUPPORT. The device enabled, disabled, and given an envelope. -/

namespace Sys2Proof.Machine

/-- Objects of a family set one after another. -/
theorem State.forEach_setNum (b k v p : Nat) (l : List Nat) : ∀ s : State,
    (s.forEach l fun s p => s.setNum (b + p) k v).num (b + p) k = if p ∈ l then v else s.num (b + p) k := by
  induction l with
  | nil => exact fun _ => rfl
  | cons x l ih =>
    intro s
    rw [State.forEach_cons, ih]
    by_cases hp : p ∈ l
    · rw [if_pos hp, if_pos (List.mem_cons_of_mem _ hp)]
    · rw [if_neg hp]
      by_cases hx : p = x
      · rw [hx, if_pos List.mem_cons_self, State.num_setNum_same]
      · rw [if_neg (by simp [hx, hp]), State.num_setNum_ne _ _ (by unfold objKey; omega)]

theorem State.forEach_setNum_other {b k v o sub : Nat} {l : List Nat} (h : ∀ p ∈ l, objKey o sub ≠ objKey (b + p) k) (s : State) :
    (s.forEach l fun s p => s.setNum (b + p) k v).num o sub = s.num o sub :=
  State.forEach_num_mem (fun s p hp => State.num_setNum_ne s v (h p hp)) s

theorem State.enableStatus_num {o sub : Nat} (h : LowObject o sub) (s : State) (v : Nat) :
    (s.enableStatus v).num o sub = if o = 0x2000 ∧ sub = 2 then v else s.num o sub := by
  refine ((h.unmoved 0).raise _ _).trans ?_
  split
  next e =>
    obtain ⟨rfl, rfl⟩ := e
    exact State.num_setNum_same ..
  next e =>
    have := h.index
    exact State.num_setNum_ne s v (by unfold objKey; omega)

theorem State.blame_num {o sub : Nat} (h : LowObject o sub) (s : State) (code b k : Nat) : (s.blame code b k).num o sub =
    if o = 0x2000 ∧ sub = 3 then code else if o = 0x2000 ∧ sub = 4 then objKey b k else s.num o sub := by
  have hi := h.index
  refine ((h.unmoved 0).raise _ _).trans ?_
  by_cases h4 : o = 0x2000 ∧ sub = 4
  · obtain ⟨rfl, rfl⟩ := h4
    exact State.num_setNum_same ..
  · rw [State.num_setNum_ne _ _ (by unfold objKey; omega), if_neg h4]
    split
    next e =>
      obtain ⟨rfl, rfl⟩ := e
      exact State.num_setNum_same ..
    next e => exact State.num_setNum_ne s code (by unfold objKey; omega)

theorem blind_retired (k : Nat) : Blind fun s => (s.stack k).retired where
  setNum _ _ _ _ _ := rfl
  setBlob _ _ _ _ := rfl
  setFilm s f v := by
    obtain ⟨g, e⟩ := (Steady.setFilm s f v).stack k
    rw [e]
  emit _ _ := rfl
  seq _ _ := rfl
  gap _ _ := rfl

theorem State.enableSlot15_none {s : State} (h : ∀ k, k < 24 → (s.stack k).retired.length < 2) : s.enableSlot15 = s := by
  have hks : (List.range 24).filter (fun k => decide (2 ≤ (s.stack k).retired.length)) = [] := List.filter_eq_nil_iff.2 fun k hk => by
    have := h k (List.mem_range.1 hk)
    simp only [decide_eq_true_eq]
    omega
  rw [State.enableSlot15, hks]
  rfl

theorem State.portsWanted_congr {s t : State} (h : ∀ o sub, LowCounter o sub → o ≠ 0x2000 → t.num o sub = s.num o sub) : t.portsWanted = s.portsWanted := by
  have hw : ∀ fam, fam + 64 < 0x8100 → 0x2000 < fam → t.windowsOn fam = s.windowsOn fam := fun fam h1 h2 => by
    refine List.filter_congr fun w hw => ?_
    have := List.mem_range.1 hw
    rw [h _ _ ⟨by omega, by decide⟩ (by omega)]
  have hlt : ∀ fam w, w ∈ s.windowsOn fam → w < 64 := fun fam w hw => List.mem_range.1 (List.mem_filter.1 hw).1
  unfold State.portsWanted
  rw [hw 0x5700 (by decide) (by decide), hw 0x5600 (by decide) (by decide), h 0x6100 2 ⟨by decide, by decide⟩ (by decide)]
  have h1 : ∀ m : Nat, (s.windowsOn 0x5600).foldl (fun m w => m ||| t.num (0x5600 + w) 6) m =
      (s.windowsOn 0x5600).foldl (fun m w => m ||| s.num (0x5600 + w) 6) m := fun m => List.foldl_ext _ _ _ fun m w hw => by
    have := hlt _ w hw
    rw [h _ _ ⟨by omega, by decide⟩ (by omega)]
  rw [h1]
  exact List.foldl_ext _ _ _ fun m w hw => by
    have := hlt _ w hw
    rw [h _ _ ⟨by omega, by decide⟩ (by omega)]

theorem State.enableStatus_low {o sub : Nat} (h : LowCounter o sub) (ho : o ≠ 0x2000) (s : State) (v : Nat) : (s.enableStatus v).num o sub = s.num o sub :=
  (State.raise_num_low h _ _).trans (State.num_setNum_ne s v (by have := h.sub; unfold objKey; omega))

section
variable {s : State} (h1 : s.num 0x2000 1 = 0) (h2 : s.num 0x2000 2 ≠ 1) (h4 : s.num 0x2000 2 ≠ 4) (hp : s.portsWanted = 0)
  (hr : ∀ k, k < 24 → (s.stack k).retired.length < 2)
include h1 h2 h4 hp hr

/-- Enabling a device that wants no fabric port: its checks, and what follows each outcome. -/
theorem State.enableDevice_portless (trained : Nat) :
    ((s.enableStatus 1).enableCheck = none → s.enableDevice trained = ((s.enableStatus 1).enableNow, 0)) ∧
    (∀ code o sub, (s.enableStatus 1).enableCheck = some (code, o, sub) →
      s.enableDevice trained = ((((s.enableStatus 1).dropSlot15.blame code o sub).enableStatus 3), code)) := by
  have hports : (s.enableStatus 1).portsWanted = 0 := (State.portsWanted_congr fun o sub h ho => State.enableStatus_low h ho s 1).trans hp
  have hslot : (s.enableStatus 1).enableSlot15 = s.enableStatus 1 := State.enableSlot15_none fun k hk => by
    have e : ((s.enableStatus 1).stack k).retired = (s.stack k).retired := (blind_retired k).raise _ _
    rw [e]
    exact hr k hk
  have hup : (fabricPorts.filter fun n => (s.enableStatus 1).portsWanted.testBit n && (s.enableStatus 1).num (0x6000 + n) 1 != 1) = [] :=
    List.filter_eq_nil_iff.2 fun n _ => by rw [hports]; simp
  refine ⟨fun hc => ?_, fun code o sub hc => ?_⟩
  · rw [State.enableDevice, if_neg (by omega), if_neg (by omega)]
    dsimp only
    rw [hup, State.forEach_nil, hslot, hc]
  · rw [State.enableDevice, if_neg (by omega), if_neg (by omega)]
    dsimp only
    rw [hup, State.forEach_nil, hslot, hc]
    rfl

end

theorem State.wantedParts_congr {s t : State} (h : ∀ p, p < 16 → t.num (0x2100 + p) 2 = s.num (0x2100 + p) 2) : t.wantedParts = s.wantedParts :=
  List.filter_congr fun p hp => by rw [h p (List.mem_range.1 hp)]

theorem State.mem_wantedParts {s : State} {p : Nat} (h : p ∈ s.wantedParts) : p < 16 := List.mem_range.1 (List.mem_filter.1 h).1

theorem State.mem_enabledParts {s : State} {p : Nat} (h : p ∈ s.enabledParts) : p < 16 := List.mem_range.1 (List.mem_filter.1 h).1

theorem State.enableNow_num (s : State) : s.enableNow.num 0x2000 1 = 1 ∧ s.enableNow.num 0x2000 2 = 2 ∧
    ∀ p ∈ s.wantedParts, s.enableNow.num (0x2100 + p) 3 = 1 := by
  unfold State.enableNow
  extract_lets t1 t2 t3 t4 t5
  have h12 : ∀ {o sub}, LowObject o sub → t2.num o sub = s.num o sub := fun h => (State.setBlob_num ..).trans ((h.unmoved 0).derive s)
  have hwanted : t2.wantedParts = s.wantedParts := State.wantedParts_congr fun p hp => h12 ⟨by omega, by decide, by omega⟩
  have h34 : ∀ {o sub}, LowObject o sub → t4.num o sub = t3.num o sub := fun h => State.forEach_num (fun s d => (h.unmoved 0).calibrate s d) _ t3
  have hend : ∀ {o sub}, LowObject o sub → (t5.forEach t5.enabledParts State.boundaryIfIdle).num o sub = t5.num o sub := fun h =>
    State.forEach_num (fun s q => (h.unmoved q).boundaryIfIdle s) _ t5
  have h5 : ∀ {o sub}, LowObject o sub → t5.num o sub =
      if o = 0x2000 ∧ sub = 2 then 2 else if o = 0x2000 ∧ sub = 1 then 1 else t3.num o sub := fun {o sub} h => by
    refine (State.enableStatus_num h ..).trans ?_
    by_cases h2 : o = 0x2000 ∧ sub = 2
    · rw [if_pos h2, if_pos h2]
    · rw [if_neg h2, if_neg h2]
      by_cases h1 : o = 0x2000 ∧ sub = 1
      · rw [if_pos h1, h1.1, h1.2]
        exact State.num_setNum_same ..
      · have := h.index
        rw [if_neg h1, State.num_setNum_ne _ _ (by unfold objKey; omega)]
        exact ((h.unmoved 0).renewSlots t4).trans (h34 h)
  refine ⟨?_, ?_, fun p hp => ?_⟩
  · rw [hend ⟨by decide, by decide, by decide⟩, h5 ⟨by decide, by decide, by decide⟩]
    rfl
  · rw [hend ⟨by decide, by decide, by decide⟩, h5 ⟨by decide, by decide, by decide⟩]
    rfl
  · have hp16 := State.mem_wantedParts hp
    have hlow : LowObject (0x2100 + p) 3 := ⟨by omega, by decide, by omega⟩
    rw [hend hlow, h5 hlow, if_neg (by omega), if_neg (by omega)]
    exact (State.forEach_setNum 0x2100 3 1 p t2.wantedParts t2).trans (if_pos (hwanted ▸ hp))

end Sys2Proof.Machine
end

section
/-! SUPPORT. The end of the enabled state, and an envelope held for the steps that run. -/

namespace Sys2Proof.Machine

theorem State.decoder_host {s : State} {h : HostPort} (e : s.host = h) : s.decoder 0 = some h.dec0 ∧ s.decoder 1 = some h.dec1 := by
  rw [← e]
  exact ⟨rfl, rfl⟩

theorem Unmoved.takeNow {α : Type} {Φ : State → α} {p : Nat} (h : Unmoved p Φ) (s : State) (c : Nat × Bool) : Φ (s.takeNow c p) = Φ s :=
  (h.reforce _).trans (h.high _ _ _ _ (by omega))

theorem Unmoved.idlePort {α : Type} {Φ : State → α} {q : Nat} (h : Unmoved q Φ) (s : State) (n : Nat) : Φ (s.idlePort n) = Φ s :=
  (h.high _ _ _ _ (by omega)).trans ((h.high _ _ _ _ (by omega)).trans (h.high _ _ _ _ (by omega)))

/-- The partitions of the enabled state taken back (R526): no group counter, none enabled. -/
def State.partsOff (s : State) : State :=
  s.forEach (List.range 16) fun s p => (s.modPart p fun q => { q with groupSeq := [] }).setNum (0x2100 + p) 3 0

/-- What the enabled state held is given up, from its partitions on: engines, caches, ports, decoders (R526, R375). -/
def State.heldOff (s : State) : State :=
  let s := { s.partsOff with coll := .idle, tier := [], fills := [] }
  let s := s.forEach fabricPorts State.idlePort
  ((s.setDecoder 0 .idle).setDecoder 1 .idle).setNum 0x2000 1 0

/-- The changes that waited for the device to be off are taken (R526, Table 16-15). -/
def State.changesTaken (s before : State) : State :=
  let s := s.forEach s.overlays fun s c => s.forEach (setBits 16 (s.num (0x3000 + c.1) 2)) fun s p => s.takeNow c p
  ((s.forEach (List.range 16) State.reforce).settleOverlays).dropSlot15.settleEnvelope.coolantFollows before

theorem State.disableNow_eq (s : State) : ∃ u : State, s.disableNow = (u.heldOff.changesTaken s).enableStatus 0 := ⟨_, rfl⟩

theorem State.partsOff_num {p : Nat} (hp : p < 16) (s : State) : s.partsOff.num (0x2100 + p) 3 = 0 := by
  have hnum : ∀ (l : List Nat) (t : State), (t.forEach l fun s p => (s.modPart p fun q => { q with groupSeq := [] }).setNum (0x2100 + p) 3 0).num (0x2100 + p) 3 =
      if p ∈ l then 0 else t.num (0x2100 + p) 3 := fun l => by
    induction l with
    | nil => exact fun _ => rfl
    | cons x l ih =>
      intro t
      rw [State.forEach_cons, ih]
      by_cases hl : p ∈ l
      · rw [if_pos hl, if_pos (List.mem_cons_of_mem _ hl)]
      · rw [if_neg hl]
        by_cases hx : p = x
        · rw [hx, if_pos List.mem_cons_self, State.num_setNum_same]
        · rw [if_neg (by simp [hx, hl]), State.num_setNum_ne _ _ (by unfold objKey; omega)]
          rfl
  rw [State.partsOff, hnum, if_pos (List.mem_range.2 hp)]

theorem State.idlePorts_kept {α : Type} {Φ : State → α} (h : Unmoved 0 Φ) (l : List Nat) (s : State) : Φ (s.forEach l State.idlePort) = Φ s :=
  Blind.forEach (fun t n => h.idlePort t n) l s

/-- The states between are variables here: the kernel compares them by name. -/
theorem State.heldOff_num {o sub : Nat} (h : LowObject o sub) (ho : objKey o sub ≠ objKey 0x2000 1) (s : State) : s.heldOff.num o sub = s.partsOff.num o sub := by
  have idle : ∀ v : State, (v.forEach fabricPorts State.idlePort).num o sub = v.num o sub := fun v => State.idlePorts_kept (Φ := fun s => s.num o sub) (h.unmoved 0) _ v
  have closed : ∀ w : State, (((w.setDecoder 0 .idle).setDecoder 1 .idle)).num = w.num := fun _ => rfl
  have engines : ∀ u : State, { u with coll := .idle, tier := [], fills := [] }.num = u.num := fun _ => rfl
  have off : ∀ w : State, (w.setNum 0x2000 1 0).num o sub = w.num o sub := fun w => State.num_setNum_ne w 0 ho
  rw [State.heldOff]
  dsimp only
  rw [off, closed, idle]
  exact congrFun (congrFun (engines _) o) sub

theorem State.heldOff_left (s : State) : s.heldOff.num 0x2000 1 = 0 ∧ (∀ p, p < 16 → s.heldOff.num (0x2100 + p) 3 = 0) ∧
    s.heldOff.coll = .idle ∧ s.heldOff.tier = [] ∧ s.heldOff.fills = [] ∧ s.heldOff.host.dec0 = .idle ∧ s.heldOff.host.dec1 = .idle := by
  have hparts : ∀ p, p < 16 → s.heldOff.num (0x2100 + p) 3 = 0 := fun p hp =>
    (State.heldOff_num ⟨by omega, by decide, by omega⟩ (by unfold objKey; omega) s).trans (State.partsOff_num hp s)
  refine ⟨?_, hparts, ?_⟩
  · exact State.num_setNum_same ..
  clear hparts
  unfold State.heldOff
  extract_lets src v w
  have he : (w.coll, w.tier, w.fills, w.host) = (v.coll, v.tier, v.fills, v.host) := State.idlePorts_kept (unmoved_engines 0) _ v
  clear_value w
  simp only [Prod.mk.injEq] at he
  obtain ⟨hcoll, htier, hfills, -⟩ := he
  exact ⟨hcoll, htier, hfills, rfl, rfl⟩

theorem Unmoved.changesTaken {α : Type} {Φ : State → α} (h : ∀ q, Unmoved q Φ) (s before : State) : Φ (s.changesTaken before) = Φ s := by
  unfold State.changesTaken
  extract_lets t
  have h1 : Φ t = Φ s := Blind.forEach (fun t c => Blind.forEach (fun t p => (h p).takeNow t c) _ t) _ s
  have h2 : Φ (t.forEach (List.range 16) State.reforce) = Φ t := Blind.forEach (fun t p => (h p).reforce t) _ t
  exact ((h 0).coolantFollows ..).trans (((h 0).settleEnvelope _).trans (((h 0).dropSlot15 _).trans (((h 0).settleOverlays _).trans (h2.trans h1))))

theorem State.disableNow_left (s : State) : s.disableNow.num 0x2000 1 = 0 ∧ s.disableNow.num 0x2000 2 = 0 ∧
    (∀ p, p < 16 → s.disableNow.num (0x2100 + p) 3 = 0) ∧ s.disableNow.coll = .idle ∧ s.disableNow.tier = [] ∧ s.disableNow.fills = [] ∧
    s.disableNow.decoder 0 = some .idle ∧ s.disableNow.decoder 1 = some .idle := by
  obtain ⟨u, e⟩ := s.disableNow_eq
  obtain ⟨h1, hp, hcoll, htier, hfills, hd0, hd1⟩ := u.heldOff_left
  have hnum : ∀ {o sub}, LowObject o sub → (u.heldOff.changesTaken s).num o sub = u.heldOff.num o sub := fun {o sub} h =>
    Unmoved.changesTaken (Φ := fun s => s.num o sub) h.unmoved _ s
  have heng := Unmoved.changesTaken unmoved_engines u.heldOff s
  generalize u.heldOff.changesTaken s = v at e hnum heng
  have hend : ((v.enableStatus 0).coll, (v.enableStatus 0).tier, (v.enableStatus 0).fills, (v.enableStatus 0).host) = (v.coll, v.tier, v.fills, v.host) := by
    rw [State.enableStatus]
    exact (unmoved_engines 0).raise (v.setNum 0x2000 2 0) _
  have heng := hend.trans heng
  simp only [Prod.mk.injEq] at heng
  obtain ⟨e1, e2, e3, e4⟩ := heng
  obtain ⟨d0, d1⟩ := State.decoder_host e4
  rw [e]
  refine ⟨?_, ?_, fun p hlt => ?_, e1.trans hcoll, e2.trans htier, e3.trans hfills, d0.trans (by rw [hd0]), d1.trans (by rw [hd1])⟩
  · rw [State.enableStatus_num ⟨by decide, by decide, by decide⟩, if_neg (by decide), hnum ⟨by decide, by decide, by decide⟩, h1]
  · rw [State.enableStatus_num ⟨by decide, by decide, by decide⟩, if_pos ⟨rfl, rfl⟩]
  · have hlow : LowObject (0x2100 + p) 3 := ⟨by omega, by decide, by omega⟩
    rw [State.enableStatus_num hlow, if_neg (by omega), hnum hlow, hp p hlt]

/-! ### An envelope written -/

theorem State.holdOld_num (s : State) (o sub p o' sub' : Nat) : (s.holdOld o sub p).num o' sub' = s.num o' sub' := rfl

/-- An old value is held for every partition of a list: each goes on with what was in force. -/
theorem State.holdOld_eff (o sub p : Nat) (l : List Nat) : ∀ s : State, p ∈ l →
    (s.forEach l fun s p => s.holdOld o sub p).eff p o sub = s.eff p o sub ∧
    (tabGet none ((s.forEach l fun s p => s.holdOld o sub p).part p).force (objKey o sub)).isSome = true := by
  have one : ∀ (s : State) (x : Nat), (s.holdOld o sub x).eff p o sub = s.eff p o sub ∧
      (x = p ∨ (tabGet none (s.part p).force (objKey o sub)).isSome = true → (tabGet none ((s.holdOld o sub x).part p).force (objKey o sub)).isSome = true) := fun s x => by
    by_cases hx : p = x
    · subst hx
      have hpart : (s.holdOld o sub p).part p = if (tabGet none (s.part p).force (objKey o sub)).isSome then s.part p
          else { s.part p with force := tabSet none (s.part p).force (objKey o sub) (some (s.num o sub)) } := State.part_modPart_same ..
      rw [State.eff, State.holdOld_num, hpart]
      by_cases hf : (tabGet none (s.part p).force (objKey o sub)).isSome = true
      · rw [if_pos hf]
        exact ⟨rfl, fun _ => hf⟩
      · rw [if_neg hf]
        dsimp only
        rw [tabGet_tabSet_same, State.eff, Option.not_isSome_iff_eq_none.1 hf]
        exact ⟨rfl, fun _ => rfl⟩
    · have hpart : (s.holdOld o sub x).part p = s.part p := by
        rw [State.holdOld, State.part_modPart, if_neg hx]
      rw [State.eff, State.holdOld_num, hpart]
      exact ⟨rfl, fun h => h.resolve_left fun e => hx e.symm⟩
  have all : ∀ (l : List Nat) (s : State), (s.forEach l fun s p => s.holdOld o sub p).eff p o sub = s.eff p o sub ∧
      (p ∈ l ∨ (tabGet none (s.part p).force (objKey o sub)).isSome = true →
        (tabGet none ((s.forEach l fun s p => s.holdOld o sub p).part p).force (objKey o sub)).isSome = true) := fun l => by
    induction l with
    | nil => exact fun s => ⟨rfl, fun h => h.resolve_left List.not_mem_nil⟩
    | cons x l ih =>
      intro s
      obtain ⟨h1, h2⟩ := ih (s.holdOld o sub x)
      obtain ⟨g1, g2⟩ := one s x
      rw [State.forEach_cons]
      refine ⟨h1.trans g1, fun h => h2 ?_⟩
      rcases h with h | h
      · rcases List.mem_cons.1 h with e | h
        · exact .inr (g2 (.inl e.symm))
        · exact .inl h
      · exact .inr (g2 (.inr h))
  exact fun s h => ⟨(all l s).1, (all l s).2 (.inl h)⟩

theorem State.boundaryIfIdle_running {s : State} {p : Nat} (h : s.running p ≠ none) : s.boundaryIfIdle p = s := by
  rw [State.boundaryIfIdle, if_pos]
  rw [Option.isSome_iff_ne_none.2 h]
  rfl

theorem State.envelope_parts (s : State) : s.affected 0x2010 = s.enabledParts := rfl

theorem State.holdOlds_running (o sub p : Nat) (l : List Nat) : ∀ s : State, (s.forEach l fun s p => s.holdOld o sub p).running p = s.running p := by
  induction l with
  | nil => exact fun _ => rfl
  | cons x l ih =>
    intro s
    rw [State.forEach_cons, ih, State.running, State.running, State.holdOld, State.part_modPart]
    split
    next h =>
      rw [h]
      split <;> rfl
    · rfl

/-- What is forced on a partition whose step runs, as the boundaries of others pass. -/
theorem State.boundaries_force (p : Nat) (l : List Nat) : ∀ s : State, (s.running p).isSome = true →
    ((s.forEach l State.boundaryIfIdle).part p).force = (s.part p).force := by
  induction l with
  | nil => exact fun _ _ => rfl
  | cons q l ih =>
    intro s hr
    rw [State.forEach_cons]
    by_cases hq : p = q
    · rw [← hq, State.boundaryIfIdle_running (Option.isSome_iff_ne_none.1 hr), ih s hr]
    · exact (ih _ (((unmoved_running p q).boundaryIfIdle s).trans hr)).trans ((unmoved_force hq).boundaryIfIdle s)

/-- An envelope written: the base value at once, the old one in force where a step runs. -/
theorem State.storeRws_envelope (s : State) (v : Nat) : ∃ t, s.storeRws 0x2010 1 v = t ∧ t.num 0x2010 1 = v ∧
    ∀ p ∈ s.enabledParts, s.num 0x2000 1 = 1 → s.running p ≠ none → t.eff p 0x2010 1 = s.eff p 0x2010 1 := by
  have hlow : LowObject 0x2010 1 := ⟨by decide, by decide, by decide⟩
  refine ⟨_, rfl, ?_, fun p hp hon hrun => ?_⟩
  · unfold State.storeRws
    extract_lets ps before s1 s2
    have h2 : s2.num 0x2010 1 = v := State.num_setNum_same ..
    split
    · exact (State.forEach_num (fun t q => (hlow.unmoved q).boundaryIfIdle t) _ s2).trans h2
    · exact ((hlow.unmoved 0).coolantFollows ..).trans (((hlow.unmoved 0).settleEnvelope s2).trans h2)
  · unfold State.storeRws
    extract_lets ps before s1 s2
    have h1 : s1 = s.forEach ps fun s p => s.holdOld 0x2010 1 p := if_pos hon
    obtain ⟨heff, hheld⟩ := State.holdOld_eff 0x2010 1 p ps s hp
    rw [← h1] at heff hheld
    have h20 : s2.num 0x2000 1 = 1 := by
      refine (State.num_setNum_ne s1 v (by decide)).trans ?_
      rw [h1]
      exact (State.forEach_num (fun t q => t.holdOld_num ..) _ s).trans hon
    rw [if_pos h20]
    have hrun2 : (s2.running p).isSome = true := by
      refine (congrArg Option.isSome (?_ : s2.running p = s1.running p)).trans ?_
      · rfl
      · rw [h1, State.holdOlds_running]
        exact Option.isSome_iff_ne_none.2 hrun
    have hforce : ((s2.forEach ps State.boundaryIfIdle).part p).force = (s1.part p).force := State.boundaries_force p ps s2 hrun2
    obtain ⟨x, hx⟩ := Option.isSome_iff_exists.1 hheld
    rw [← heff, State.eff, State.eff, hforce, hx]
    rfl

/-- Settles O44, by what nothing of an enable, a disable or a boundary moves. -/
theorem deviceIsEnabledAndDisabled : Obligations.DeviceIsEnabledAndDisabled := by
  unfold Obligations.DeviceIsEnabledAndDisabled
  intro s path u
  have hu : ∀ {o sub}, LowObject o sub → u.num o sub = if o = 0x2000 ∧ sub = 2 then 1 else s.num o sub := fun h => State.enableStatus_num h s 1
  refine ⟨fun trained hacc h1 h2 h4 hp hr => ?_, fun hacc h1 h2 => ⟨fun hd0 hd1 => ?_, fun hd => ?_⟩, fun h4 => ⟨fun hd => ?_, fun hd => ?_⟩,
    fun value hacc => ?_⟩
  · obtain ⟨len, e⟩ := State.writeVia_accepted hacc fun s => s.enableDevice trained.toNat
    obtain ⟨hpass, hfail⟩ := State.enableDevice_portless h1 h2 h4 hp hr trained.toNat
    refine ⟨fun hc => ?_, fun code o sub hc => ?_⟩
    · rw [hpass hc] at e
      obtain ⟨n1, n2, n3⟩ := u.enableNow_num
      have hwanted : u.wantedParts = s.wantedParts := State.wantedParts_congr fun p hp => by
        rw [hu ⟨by omega, by decide, by omega⟩, if_neg (by omega)]
      refine ⟨_, congrArg Host.Outcome.next e, ?_, ?_, fun p hp => ?_, ?_⟩
      · rw [State.reply_num, State.xwNote_num, n1]
      · rw [State.reply_num, State.xwNote_num, n2]
      · rw [State.reply_num, State.xwNote_num, n3 p (hwanted ▸ hp)]
      · rw [State.answered_rest]
        exact List.getLast?_concat
    · rw [hfail code o sub hc] at e
      have hn : ∀ {o' sub'}, LowObject o' sub' → (((u.dropSlot15.blame code o sub).enableStatus 3)).num o' sub' =
          if o' = 0x2000 ∧ sub' = 2 then 3 else if o' = 0x2000 ∧ sub' = 3 then code else if o' = 0x2000 ∧ sub' = 4 then objKey o sub else u.num o' sub' :=
        fun h => by rw [State.enableStatus_num h, State.blame_num h, (h.unmoved 0).dropSlot15]
      refine ⟨_, congrArg Host.Outcome.next e, ?_, ?_, ?_, ?_, ?_⟩
      · rw [State.reply_num, State.xwNote_num, hn ⟨by decide, by decide, by decide⟩, if_neg (by decide), if_neg (by decide), if_neg (by decide),
          hu ⟨by decide, by decide, by decide⟩, if_neg (by decide), h1]
      · rw [State.reply_num, State.xwNote_num, hn ⟨by decide, by decide, by decide⟩, if_pos ⟨rfl, rfl⟩]
      · rw [State.reply_num, State.xwNote_num, hn ⟨by decide, by decide, by decide⟩, if_neg (by decide), if_pos ⟨rfl, rfl⟩]
      · rw [State.reply_num, State.xwNote_num, hn ⟨by decide, by decide, by decide⟩, if_neg (by decide), if_neg (by decide), if_pos ⟨rfl, rfl⟩]
      · rw [State.answered_rest]
        exact List.getLast?_concat
  · obtain ⟨len, e⟩ := State.writeVia_accepted hacc State.disableDevice
    have hdis : s.disableDevice = ((s.forEach s.enabledParts fun s p => s.setNum (0x2100 + p) 3 2).enableStatus 4, 0) := by
      rw [State.disableDevice, if_neg (by omega), if_neg (by rw [hd0, hd1]; decide), if_neg (by omega)]
    rw [hdis] at e
    refine ⟨_, congrArg Host.Outcome.next e, ?_, ?_, fun p hp => ?_, ?_⟩
    · rw [State.reply_num, State.xwNote_num, State.enableStatus_num ⟨by decide, by decide, by decide⟩, if_neg (by decide),
        State.forEach_setNum_other (fun p _ => by unfold objKey; omega), h1]
    · rw [State.reply_num, State.xwNote_num, State.enableStatus_num ⟨by decide, by decide, by decide⟩, if_pos ⟨rfl, rfl⟩]
    · have := State.mem_enabledParts hp
      rw [State.reply_num, State.xwNote_num, State.enableStatus_num ⟨by omega, by decide, by omega⟩, if_neg (by omega), State.forEach_setNum, if_pos hp]
    · rw [State.answered_rest]
      exact List.getLast?_concat
  · obtain ⟨len, e⟩ := State.writeVia_accepted hacc State.disableDevice
    have hdis : s.disableDevice = (s, 0x0A05) := by
      rw [State.disableDevice, if_neg (by omega), if_pos (by simpa using hd)]
    rw [hdis] at e
    refine ⟨_, congrArg Host.Outcome.next e, ?_, ?_⟩
    · rw [State.answered_rest]
    · rw [Told, State.answered_rest]
  · refine ⟨_, ?_, s.disableNow_left⟩
    show execDisableComplete s = _
    rw [execDisableComplete, if_pos ⟨h4, hd⟩]
  · show execDisableComplete s = _
    rw [execDisableComplete, if_neg (by rw [hd]; simp)]
  · obtain ⟨len, e⟩ := State.writeDo_accepted hacc fun s => s.storeRws 0x2010 1 value.toNat
    obtain ⟨t, ht, hnum, heff⟩ := s.storeRws_envelope value.toNat
    rw [ht] at e
    refine ⟨_, congrArg Host.Outcome.next e, ?_, ?_, fun p hp hon hrun => ?_⟩
    · rw [State.reply_num, State.xwNote_num, hnum]
    · rw [State.answered_rest]
      exact List.getLast?_concat
    · rw [State.answered_rest]
      exact heff p hp hon hrun

end Sys2Proof.Machine
end

section
/-! SUPPORT. Image slots: loads that wait, unloads, and the check that ends a load. -/

namespace Sys2Proof.Machine

/-- What begins when the loads before have gone: the reads of the first image, unless it was first already. -/
theorem State.nextLoad_eq (s : State) (before : List Nat) :
    s.nextLoad before = { s with out := s.out ++ (s.nextLoad before).out.drop s.out.length } := by
  unfold State.nextLoad
  split
  · rw [List.drop_length, List.append_nil]
  · split
    · rw [List.drop_length, List.append_nil]
    · unfold State.emits
      dsimp only
      rw [List.drop_left]

theorem State.nextLoad_num (s : State) (before : List Nat) : (s.nextLoad before).num = s.num := by
  rw [State.nextLoad_eq]
  rfl

theorem State.nextLoad_slot (s : State) (before : List Nat) : (s.nextLoad before).slot = s.slot := by
  rw [State.nextLoad_eq]
  rfl

theorem State.nextLoad_loads (s : State) (before : List Nat) : (s.nextLoad before).loads = s.loads := by
  rw [State.nextLoad_eq]

/-- The first load is the one that was first, or none waits: nothing begins. -/
theorem State.nextLoad_same {s : State} {before : List Nat} (h : ∀ j, s.loads.head? = some j → before.head? = some j) : s.nextLoad before = s := by
  unfold State.nextLoad
  split
  · rfl
  next k l e => exact if_pos (h k (by rw [e]; rfl))

theorem State.nextLoad_next {s : State} {before l : List Nat} {k : Nat} (hl : s.loads = k :: l) (h : before.head? ≠ some k) :
    s.nextLoad before = s.emits (s.imageReads k) := by
  unfold State.nextLoad
  rw [hl]
  exact if_neg h

theorem State.imageReads_congr {s t : State} {k : Nat} (h1 : t.num (slotObj k) 1 = s.num (slotObj k) 1) (h2 : t.num (slotObj k) 2 = s.num (slotObj k) 2) :
    t.imageReads k = s.imageReads k := by
  unfold State.imageReads
  rw [h1, h2]

/-- Slot `k` as a load of it leaves it: waiting behind the loads before it (R154). -/
def State.slotWaits (s : State) (k : Nat) : State :=
  let t := s.setSlot k ⟨none, [], some ⟨s.dict⟩⟩
  let t := (((t.setNum (slotObj k) 4 1).setNum (slotObj k) 5 1).setNum (slotObj k) 8 0).setNum (slotObj k) 9 0
  { t with loads := t.loads ++ [k] }

theorem State.loadSlot_waits {s : State} {k : Nat} (h4 : s.num (slotObj k) 4 ≠ 1) (h5 : s.num (slotObj k) 5 ≠ 1) :
    s.loadSlot k = ((s.slotWaits k).nextLoad s.loads, 0) := by
  rw [State.loadSlot, if_neg h5, if_neg h4]
  rfl

theorem State.slotWaits_num (s : State) (k o sub : Nat) : (s.slotWaits k).num o sub =
    ((((s.setNum (slotObj k) 4 1).setNum (slotObj k) 5 1).setNum (slotObj k) 8 0).setNum (slotObj k) 9 0).num o sub := by
  have e : (s.slotWaits k).dict = ((((s.setNum (slotObj k) 4 1).setNum (slotObj k) 5 1).setNum (slotObj k) 8 0).setNum (slotObj k) 9 0).dict := rfl
  rw [State.num, e, State.num]

theorem State.slotWaits_left (s : State) (k : Nat) : (s.slotWaits k).num (slotObj k) 4 = 1 ∧ (s.slotWaits k).num (slotObj k) 5 = 1 ∧
    (s.slotWaits k).slot k = ⟨none, [], some ⟨s.dict⟩⟩ ∧ (s.slotWaits k).loads = s.loads ++ [k] ∧ (s.slotWaits k).out = s.out ∧
    (s.slotWaits k).imageReads k = s.imageReads k := by
  have hslot : (s.slotWaits k).slots = (s.setSlot k ⟨none, [], some ⟨s.dict⟩⟩).slots := rfl
  refine ⟨?_, ?_, ?_, rfl, rfl, State.imageReads_congr ?_ ?_⟩
  · rw [State.slotWaits_num]
    simp [State.num_setNum, objKey]
  · rw [State.slotWaits_num]
    simp [State.num_setNum, objKey]
  · rw [State.slot, hslot]
    exact State.slot_setSlot_same ..
  · rw [State.slotWaits_num]
    simp [State.num_setNum, objKey]
  · rw [State.slotWaits_num]
    simp [State.num_setNum, objKey]

theorem execSlotEnable_waits {s : State} {path : Path} {slot : BitVec 6} (hacc : Accepted s path (slotObj slot.toNat) 4 1)
    (h4 : s.num (slotObj slot.toNat) 4 ≠ 1) (h5 : s.num (slotObj slot.toNat) 5 ≠ 1) :
    ∃ t, exec (.slotEnable path slot) s = .next t ∧ t.num (slotObj slot.toNat) 4 = 1 ∧ t.num (slotObj slot.toNat) 5 = 1 ∧
      (t.slot slot.toNat).held = some ⟨s.dict⟩ ∧ t.loads = s.loads ++ [slot.toNat] ∧ (s.loads ≠ [] → Told s t path 0) ∧
      (s.loads = [] → t.out = s.out ++ s.imageReads slot.toNat ++ [.response path.num 0 []]) := by
  generalize hk : slot.toNat = k at *
  obtain ⟨len, e⟩ := State.writeVia_accepted hacc fun s => s.loadSlot k
  rw [State.loadSlot_waits h4 h5] at e
  obtain ⟨n4, n5, hslot, hloads, hout, hreads⟩ := s.slotWaits_left k
  have hx : exec (.slotEnable path slot) s = .next (s.writeVia path (slotObj slot.toNat) 4 1 fun s => s.loadSlot slot.toNat) := rfl
  rw [hk, e] at hx
  refine ⟨_, hx, ?_, ?_, ?_, ?_, fun hne => ?_, fun hnil => ?_⟩
  · rw [State.reply_num, State.xwNote_num, State.nextLoad_num, n4]
  · rw [State.reply_num, State.xwNote_num, State.nextLoad_num, n5]
  · rw [State.answered_rest]
    exact congrArg Slot.held ((congrFun (State.nextLoad_slot ..) k).trans hslot)
  · rw [State.answered_rest]
    exact (State.nextLoad_loads ..).trans hloads
  · rw [Told, State.answered_rest, State.nextLoad_same fun j hj => ?_, hout]
    rw [hloads, List.head?_append_of_ne_nil _ hne] at hj
    exact hj
  · rw [State.answered_rest, State.nextLoad_next (hloads.trans (by rw [hnil]; rfl)) (by rw [hnil]; exact nofun)]
    dsimp only [State.emits]
    rw [hout, hreads]

theorem State.emptySlot_num (s : State) (k o sub : Nat) : (s.emptySlot k).num o sub =
    ((((s.setNum (slotObj k) 4 0).setNum (slotObj k) 5 0).setNum (slotObj k) 6 0).setNum (slotObj k) 8 0).num o sub := by
  unfold State.emptySlot
  extract_lets mine s1 s2
  have e : s2.num = s.num := rfl
  simp only [State.num_setNum, State.setBlob_num, e]

theorem State.emptySlot_left (s : State) (k : Nat) : (s.emptySlot k).num (slotObj k) 4 = 0 ∧ (s.emptySlot k).num (slotObj k) 5 = 0 ∧
    (s.emptySlot k).slot k = .empty ∧ (s.emptySlot k).loads = s.loads.erase k ∧ (s.emptySlot k).out = s.out ∧
    ∀ j, j ≠ k → (s.emptySlot k).imageReads j = s.imageReads j := by
  have hslot : (s.emptySlot k).slots = (s.setSlot k .empty).slots := rfl
  have other : ∀ j a b, j ≠ k → a < 256 → b < 256 → objKey (slotObj j) a ≠ objKey (slotObj k) b := fun j a b hj ha hb => by
    unfold objKey slotObj
    omega
  have hnum : ∀ j sub, j ≠ k → sub < 256 → (s.emptySlot k).num (slotObj j) sub = s.num (slotObj j) sub := fun j sub hj hs => by
    rw [State.emptySlot_num, State.num_setNum_ne _ _ (other j sub 8 hj hs (by decide)), State.num_setNum_ne _ _ (other j sub 6 hj hs (by decide)),
      State.num_setNum_ne _ _ (other j sub 5 hj hs (by decide)), State.num_setNum_ne _ _ (other j sub 4 hj hs (by decide))]
  refine ⟨?_, ?_, ?_, rfl, rfl, fun j hj => State.imageReads_congr (hnum j 1 hj (by decide)) (hnum j 2 hj (by decide))⟩
  · rw [State.emptySlot_num]
    simp [State.num_setNum, objKey]
  · rw [State.emptySlot_num]
    simp [State.num_setNum, objKey]
  · rw [State.slot, hslot]
    exact State.slot_setSlot_same ..

/-- Unless the first of several loads goes, the same load is first after one is taken out. -/
theorem List.head?_erase_same {l : List Nat} {k : Nat} (h : l.head? ≠ some k ∨ l = [k]) {j : Nat} (hj : (l.erase k).head? = some j) : l.head? = some j := by
  cases l with
  | nil => exact hj
  | cons x l =>
    rcases h with h | h
    · have hx : x ≠ k := fun e => h (by rw [e]; rfl)
      rwa [List.erase_cons_tail (by simpa using hx)] at hj
    · rw [h, List.erase_cons_head] at hj
      exact absurd hj nofun

theorem State.unloadSlot_eq {s : State} {k : Nat} (h : s.num (slotObj k) 5 = 1 ∨ (s.num (slotObj k) 4 = 1 ∧ s.slotInUse k = false)) :
    s.unloadSlot k = (if s.num (slotObj k) 5 = 1 then (s.emptySlot k).nextLoad s.loads else s.emptySlot k, 0) := by
  unfold State.unloadSlot
  by_cases h5 : s.num (slotObj k) 5 = 1
  · rw [if_pos h5, if_pos h5]
  · obtain ⟨h4, hu⟩ := h.resolve_left h5
    rw [if_neg h5, if_neg (by omega), if_neg (by rw [hu]; decide), if_neg h5]

theorem execSlotDisable_empties {s : State} {path : Path} {slot : BitVec 6} (hacc : Accepted s path (slotObj slot.toNat) 4 0)
    (h : s.num (slotObj slot.toNat) 5 = 1 ∨ (s.num (slotObj slot.toNat) 4 = 1 ∧ s.slotInUse slot.toNat = false)) :
    ∃ t, exec (.slotDisable path slot) s = .next t ∧ t.slot slot.toNat = .empty ∧ t.num (slotObj slot.toNat) 4 = 0 ∧
      t.num (slotObj slot.toNat) 5 = 0 ∧ t.loads = s.loads.erase slot.toNat ∧
      (s.num (slotObj slot.toNat) 5 ≠ 1 ∨ s.loads.head? ≠ some slot.toNat ∨ s.loads = [slot.toNat] → Told s t path 0) ∧
      ∀ j rest, s.num (slotObj slot.toNat) 5 = 1 → s.loads = slot.toNat :: j :: rest → j ≠ slot.toNat →
        t.out = s.out ++ s.imageReads j ++ [.response path.num 0 []] := by
  generalize hk : slot.toNat = k at *
  obtain ⟨len, e⟩ := State.writeVia_accepted hacc fun s => s.unloadSlot k
  rw [State.unloadSlot_eq h] at e
  obtain ⟨n4, n5, hslot, hloads, hout, hreads⟩ := s.emptySlot_left k
  have hx : exec (.slotDisable path slot) s = .next (s.writeVia path (slotObj slot.toNat) 4 0 fun s => s.unloadSlot slot.toNat) := rfl
  rw [hk, e] at hx
  generalize hu : (if s.num (slotObj k) 5 = 1 then (s.emptySlot k).nextLoad s.loads else s.emptySlot k) = u at hx
  have hnum : u.num = (s.emptySlot k).num := by
    rw [← hu]
    split
    · exact State.nextLoad_num ..
    · rfl
  have hus : u.slot = (s.emptySlot k).slot := by
    rw [← hu]
    split
    · exact State.nextLoad_slot ..
    · rfl
  have hul : u.loads = (s.emptySlot k).loads := by
    rw [← hu]
    split
    · exact State.nextLoad_loads ..
    · rfl
  refine ⟨_, hx, ?_, ?_, ?_, ?_, fun hd => ?_, fun j rest h5 hl hj => ?_⟩
  · rw [State.answered_rest]
    exact (congrFun hus k).trans hslot
  · rw [State.reply_num, State.xwNote_num, hnum, n4]
  · rw [State.reply_num, State.xwNote_num, hnum, n5]
  · rw [State.answered_rest]
    exact hul.trans hloads
  · have : u = s.emptySlot k := by
      rw [← hu]
      split
      next h5 => exact State.nextLoad_same fun j hj => List.head?_erase_same (hd.resolve_left (not_not_intro h5)) (hloads ▸ hj)
      · rfl
    rw [Told, State.answered_rest, this, hout]
  · rw [State.answered_rest, ← hu, if_pos h5, State.nextLoad_next (k := j) (l := rest) (hloads.trans (by rw [hl, List.erase_cons_head])) ?_]
    · dsimp only [State.emits]
      rw [hout, hreads j hj]
    · rw [hl]
      exact fun e => hj (Option.some.inj e).symm

theorem execSlotDisable_used {s : State} {path : Path} {slot : BitVec 6} (hacc : Accepted s path (slotObj slot.toNat) 4 0)
    (h5 : s.num (slotObj slot.toNat) 5 ≠ 1) (h4 : s.num (slotObj slot.toNat) 4 = 1) (hu : s.slotInUse slot.toNat = true) :
    ∃ t, exec (.slotDisable path slot) s = .next t ∧ t.slots = s.slots ∧ t.dict = s.dict ∧ Told s t path 0x041B := by
  obtain ⟨len, e⟩ := State.writeVia_accepted hacc fun s => s.unloadSlot slot.toNat
  have hun : s.unloadSlot slot.toNat = (s, 0x041B) := by
    rw [State.unloadSlot, if_neg h5, if_neg (by omega), if_pos hu]
  rw [hun] at e
  refine ⟨_, congrArg Host.Outcome.next e, ?_, ?_, ?_⟩
  · rw [State.answered_rest]
  · rw [State.answered_rest]
  · rw [Told, State.answered_rest]

/-! ### The end of a load -/

theorem Stored.forEach {α : Type} {f : State → α → State} {l : List α} (hf : ∀ s x, x ∈ l → Stored s (f s x)) (s : State) : Stored s (s.forEach l f) := by
  induction l generalizing s with
  | nil => exact .refl s
  | cons x l ih => exact (hf s x List.mem_cons_self).trans (ih (fun s x h => hf s x (List.mem_cons_of_mem _ h)) _)

theorem Stored.initRegion (s : State) (p : Nat) {g : RegionE} (hg : g.init ≠ 1) (base : Nat) : Stored s (s.initRegion p g base) := by
  unfold State.initRegion
  rw [if_neg hg]
  split
  · exact .refl s
  · exact .forEach (fun t x _ => .writeDevice ..) s

theorem State.copying_none {s : State} (h : s.fills = []) (k : Nat) : s.copying k = false := by
  rw [State.copying, h]
  rfl

/-- A slot whose image is sound and has no page to wait for becomes ready. -/
theorem State.settleSlot_ready {s : State} {k : Nat} (h5 : s.num (slotObj k) 5 = 1) (hi : (s.slot k).image.isSome = true) (hf : s.fills = []) :
    (s.settleSlot k).num (slotObj k) 5 = 2 ∧ (∀ sub, sub < 256 → sub ≠ 5 → (s.settleSlot k).num (slotObj k) sub = s.num (slotObj k) sub) ∧
      ((s.settleSlot k).slot k).image.isSome = true ∧ (s.settleSlot k).loads = s.loads.erase k := by
  unfold State.settleSlot
  rw [if_pos ⟨h5, hi, by rw [State.copying_none hf]; rfl⟩]
  dsimp only
  rw [State.nextLoad_num, State.nextLoad_slot, State.nextLoad_loads]
  refine ⟨State.num_setNum_same .., fun sub hs hne => State.num_setNum_ne _ _ (by unfold objKey; omega), ?_, rfl⟩
  have hslot := s.slot_setSlot k k { s.slot k with held := none }
  rw [if_pos rfl] at hslot
  exact (congrArg (fun x : Slot => x.image.isSome) hslot).trans hi

theorem State.activate_ready {s : State} {k : Nat} (b : List Byte) {i : Image} (hk : k < 64) (h5 : s.num (slotObj k) 5 = 1) (hf : s.fills = [])
    (hg : ∀ g ∈ i.regions, g.init ≠ 1) : (s.activate k b i).num (slotObj k) 5 = 2 ∧ (s.activate k b i).num (slotObj k) 6 = i.id ∧
      (s.activate k b i).num (slotObj k) 8 = b.length ∧ ((s.activate k b i).slot k).image.isSome = true ∧
      (s.activate k b i).loads = s.loads.erase k := by
  unfold State.activate
  extract_lets p i' bases s1 s2 s3
  have hlow : ∀ {sub}, sub < 256 → Unreported (slotObj k) sub := fun h => ⟨.inl (by unfold slotObj; omega), by unfold slotObj; omega, h⟩
  have h3 : Stored s2 s3 := .forEach (fun t e _ => by
    split
    next g hf => exact .initRegion t p (hg g (List.mem_of_find?_eq_some hf)) _
    · exact .refl t) s2
  have hfills : s3.fills = [] := h3.fills.trans hf
  have hslots : s3.slot k = { s.slot k with image := some i', bases := bases } := by
    have e : s3.slot k = s2.slot k := by rw [State.slot, State.slot, h3.rest]
    have hmod : s2.slots = s1.slots := rfl
    rw [e, State.slot, hmod]
    exact State.slot_modSlot_same ..
  have hloads : s3.loads = s.loads := by rw [h3.rest]; rfl
  have n8 : s2.num (slotObj k) 8 = b.length := State.num_setNum_same ..
  have n6 : s2.num (slotObj k) 6 = i.id :=
    (State.num_setNum_ne _ _ (by unfold objKey; omega)).trans ((State.setBlob_num ..).trans (State.num_setNum_same ..))
  have n5 : s2.num (slotObj k) 5 = 1 :=
    (State.num_setNum_ne _ _ (by unfold objKey; omega)).trans ((State.setBlob_num ..).trans
      ((State.num_setNum_ne _ _ (by unfold objKey; omega)).trans h5))
  obtain ⟨g5, gn, gi, gl⟩ := State.settleSlot_ready (s := s3) (k := k) ((h3.num _ _ (hlow (by decide))).trans n5) (by rw [hslots]; rfl) hfills
  exact ⟨g5, (gn 6 (by decide) (by decide)).trans ((h3.num _ _ (hlow (by decide))).trans n6),
    (gn 8 (by decide) (by decide)).trans ((h3.num _ _ (hlow (by decide))).trans n8), gi, gl.trans (by rw [hloads])⟩

theorem State.refuseImage_left (s : State) {k : Nat} (hk : k < 64) (code offset : Nat) : let t := s.refuseImage k code offset
    t.num (slotObj k) 4 = 0 ∧ t.num (slotObj k) 5 = 3 ∧ t.num (slotObj k) 9 = offset ∧ t.num 0x2000 3 = code ∧ t.slot k = .empty ∧
      t.loads = s.loads.erase k ∧ EventCounted s t 0x15 := by
  intro t
  have ht : t = s.refuseImage k code offset := rfl
  clear_value t
  unfold State.refuseImage at ht
  extract_lets src s1 at ht
  have hs1 : s1.slots = (s.setSlot k .empty).slots ∧ s1.loads = s.loads.erase k ∧ s1.num = s.num := ⟨rfl, rfl, rfl⟩
  clear_value s1
  obtain ⟨hslot, hloads, hnum⟩ := hs1
  have h4 : (((s1.setNum (slotObj k) 4 0).setNum (slotObj k) 5 3).setNum (slotObj k) 9 offset).num (slotObj k) 4 = 0 :=
    (State.num_setNum_ne _ _ (by unfold objKey; omega)).trans ((State.num_setNum_ne _ _ (by unfold objKey; omega)).trans (State.num_setNum_same ..))
  have h5 : (((s1.setNum (slotObj k) 4 0).setNum (slotObj k) 5 3).setNum (slotObj k) 9 offset).num (slotObj k) 5 = 3 :=
    (State.num_setNum_ne _ _ (by unfold objKey; omega)).trans (State.num_setNum_same ..)
  have h9 : (((s1.setNum (slotObj k) 4 0).setNum (slotObj k) 5 3).setNum (slotObj k) 9 offset).num (slotObj k) 9 = offset := State.num_setNum_same ..
  have h15 : (((s1.setNum (slotObj k) 4 0).setNum (slotObj k) 5 3).setNum (slotObj k) 9 offset).num 0x9002 0x15 = s.num 0x9002 0x15 :=
    (State.num_setNum_ne _ _ (by unfold objKey slotObj; omega)).trans ((State.num_setNum_ne _ _ (by unfold objKey slotObj; omega)).trans
      ((State.num_setNum_ne _ _ (by unfold objKey slotObj; omega)).trans (congrFun (congrFun hnum _) _)))
  have hs2 : (((s1.setNum (slotObj k) 4 0).setNum (slotObj k) 5 3).setNum (slotObj k) 9 offset).slots = s1.slots ∧
      (((s1.setNum (slotObj k) 4 0).setNum (slotObj k) 5 3).setNum (slotObj k) 9 offset).loads = s1.loads := ⟨rfl, rfl⟩
  generalize ((s1.setNum (slotObj k) 4 0).setNum (slotObj k) 5 3).setNum (slotObj k) 9 offset = u at ht h4 h5 h9 h15 hs2
  have hlog : Logged u t := by
    rw [ht, State.blame]
    exact ((Logged.setNum ..).trans (.setNum ..)).trans (.raise ..)
  have low : ∀ {sub}, sub < 256 → t.num (slotObj k) sub = u.num (slotObj k) sub := fun h => by
    rw [ht, State.blame, State.raise_num_low ⟨by unfold slotObj; omega, h⟩, State.num_setNum_ne _ _ (by unfold objKey slotObj; omega),
      State.num_setNum_ne _ _ (by unfold objKey slotObj; omega)]
  have hslots : t.slots = s1.slots := by rw [hlog.rest]; exact hs2.1
  refine ⟨(low (by decide)).trans h4, (low (by decide)).trans h5, (low (by decide)).trans h9, ?_, ?_, ?_, ?_⟩
  · rw [ht, State.blame_num ⟨by decide, by decide, by decide⟩]
    rfl
  · rw [State.slot, hslots, hslot]
    exact State.slot_setSlot_same ..
  · rw [hlog.rest]
    exact hs2.2.trans hloads
  · rw [EventCounted, ht, State.blame]
    refine (State.raise_counted _ (by exact (by decide : (0x15 : Nat) < 256)) (by exact (by decide : (0x15 : Nat) ≠ 9))
      (by exact (by decide : (0x15 : Nat) ≠ 0x0A))).trans ?_
    rw [← h15]
    exact congrArg (fun n => (n + 1) % 2 ^ 64) ((State.num_setNum_ne _ _ (by exact (by decide : objKey 0x9002 0x15 ≠ objKey 0x2000 4))).trans
      (State.num_setNum_ne _ _ (by exact (by decide : objKey 0x9002 0x15 ≠ objKey 0x2000 3))))

end Sys2Proof.Machine
end

section
/-! SUPPORT. Clients enabled and disabled, and overlay changes taken while no partition is enabled. -/

namespace Sys2Proof.Machine

theorem State.enableClient_new {s : State} {n : Nat} (h1 : s.num (clientObj n) 1 ≠ 1) (hc : s.clientCheck n = none) :
    s.enableClient n = ((((s.setNum (clientObj n) 1 1).setNum (clientObj n) 7 (s.num (clientObj n) 6)).modClient n fun c =>
      { c with watching := true }).readEntry n, 0) := by
  rw [State.enableClient, if_neg h1, hc]

theorem State.enableClient_refused {s : State} {n : Nat} (h1 : s.num (clientObj n) 1 ≠ 1) {code b sub : Nat} (hc : s.clientCheck n = some (code, b, sub)) :
    s.enableClient n = (s.blame code b sub, code) := by
  rw [State.enableClient, if_neg h1, hc]

theorem State.readEntry_kept (s : State) (w : Nat) : (s.readEntry w).num = s.num ∧ (s.readEntry w).client = s.client := by
  unfold State.readEntry
  extract_lets a s1
  split
  · exact ⟨rfl, rfl⟩
  · exact ⟨rfl, rfl⟩

theorem State.blame_client (s : State) (code b k n : Nat) : (s.blame code b k).num (clientObj n) 1 = s.num (clientObj n) 1 := by
  rw [State.blame, State.raise_num (by decide) (by decide) (by decide) (by unfold clientObj; omega) _ (by exact (by decide : (0x15 : Nat) < 256)),
    if_neg (by unfold clientObj; omega), State.num_setNum_ne _ _ (by unfold objKey clientObj; omega),
    State.num_setNum_ne _ _ (by unfold objKey clientObj; omega)]

theorem execClientEnable_checked {s : State} {path : Path} {n : BitVec 12} (hacc : Accepted s path (clientObj n.toNat) 1 1)
    (h1 : s.num (clientObj n.toNat) 1 ≠ 1) :
    (s.clientCheck n.toNat = none → ∃ t, exec (.clientEnable path n) s = .next t ∧ t.num (clientObj n.toNat) 1 = 1 ∧
        t.num (clientObj n.toNat) 7 = s.num (clientObj n.toNat) 6 ∧ (t.client n.toNat).watching = true ∧ (t.watch n.toNat).reads = 1 ∧
        t.out.getLast? = some (.response path.num 0 [])) ∧
      (∀ code b sub, s.clientCheck n.toNat = some (code, b, sub) → ∃ t, exec (.clientEnable path n) s = .next t ∧
        t.num (clientObj n.toNat) 1 = s.num (clientObj n.toNat) 1 ∧ t.num 0x2000 3 = code ∧ t.num 0x2000 4 = objKey b sub ∧
        t.out.getLast? = some (.response path.num code [])) := by
  obtain ⟨len, e⟩ := State.writeVia_accepted hacc fun s => s.enableClient n.toNat
  refine ⟨fun hc => ?_, fun code b sub hc => ?_⟩
  · rw [State.enableClient_new h1 hc] at e
    refine ⟨_, congrArg Host.Outcome.next e, ?_, ?_, ?_, ?_, ?_⟩
    · rw [State.reply_num, State.xwNote_num, (State.readEntry_kept ..).1]
      exact (State.num_setNum_ne _ _ (by unfold objKey; omega)).trans (State.num_setNum_same ..)
    · rw [State.reply_num, State.xwNote_num, (State.readEntry_kept ..).1]
      exact State.num_setNum_same ..
    · rw [State.reply_client, State.xwNote_client, (State.readEntry_kept ..).2, State.client_modClient_same]
    · have hw := State.readEntry_watch (((s.setNum (clientObj n.toNat) 1 1).setNum (clientObj n.toNat) 7 (s.num (clientObj n.toNat) 6)).modClient n.toNat
        fun c => { c with watching := true }) n.toNat n.toNat
      rw [if_pos rfl] at hw
      generalize State.readEntry _ _ = u at hw ⊢
      refine (congrArg Watch.reads (?_ : _ = u.watch n.toNat)).trans (congrArg Watch.reads hw)
      cases path <;> rfl
    · rw [State.answered_rest]
      exact List.getLast?_concat
  · rw [State.enableClient_refused h1 hc] at e
    refine ⟨_, congrArg Host.Outcome.next e, ?_, ?_, ?_, ?_⟩
    · rw [State.reply_num, State.xwNote_num, State.blame_client]
    · rw [State.reply_num, State.xwNote_num, State.blame_num ⟨by decide, by decide, by decide⟩]
      rfl
    · rw [State.reply_num, State.xwNote_num, State.blame_num ⟨by decide, by decide, by decide⟩]
      rfl
    · rw [State.answered_rest]
      exact List.getLast?_concat

/-- What a refused request leaves alone of client `n` and of what it reads. -/
structure ClientKept (n : Nat) (s t : State) : Prop where
  enabled : t.num (clientObj n) 1 = s.num (clientObj n) 1
  watching : (t.client n).watching = (s.client n).watching
  host : t.host = s.host
  parts : t.parts = s.parts

theorem ClientKept.trans {n : Nat} {s t u : State} (h : ClientKept n s t) (g : ClientKept n t u) : ClientKept n s u :=
  ⟨g.enabled.trans h.enabled, g.watching.trans h.watching, g.host.trans h.host, g.parts.trans h.parts⟩

theorem ClientKept.refuseRequest (n : Nat) (s : State) (q : Request) (cause reason : Nat) : ClientKept n s (s.refuseRequest q cause reason) := by
  generalize ht : s.refuseRequest q cause reason = t
  unfold State.refuseRequest at ht
  extract_lets p u at ht
  have hnum : u.num (clientObj n) 1 = s.num (clientObj n) 1 := (State.num_bump ..).trans (if_neg (by unfold objKey; omega))
  have hclient : (u.client n).watching = (s.client n).watching := by
    have e : u.client n = (s.record q (.refusal s.now cause reason q.slot)).client n := rfl
    rw [e, State.record, State.client_modClient]
    split
    next h => rw [h]
    · rfl
  have hrest : u.host = s.host ∧ u.parts = s.parts := ⟨rfl, rfl⟩
  clear_value u
  split at ht
  · have hl : t = { u with out := t.out, dict := t.dict, blobs := t.blobs, localCounts := t.localCounts, eventSeq := t.eventSeq
                           eventGap := t.eventGap, cores := t.cores, hbm := t.hbm } := by
      rw [← ht]
      exact (Logged.raise u _).rest
    have hc : t.client n = u.client n := by rw [State.client, State.client, hl]
    refine ⟨?_, by rw [hc, hclient], by rw [hl]; exact hrest.1, by rw [hl]; exact hrest.2⟩
    rw [← ht, State.raise_num (by decide) (by decide) (by decide) (by unfold clientObj; omega) _ (by exact (by decide : (0x15 : Nat) < 256)),
      if_neg (by unfold clientObj; omega), hnum]
  · rw [← ht]
    exact ⟨hnum, hclient, hrest.1, hrest.2⟩

theorem ClientKept.refuseRequests (n reason : Nat) (l : List Request) : ∀ s : State, ClientKept n s (s.forEach l fun s q => s.refuseRequest q 1 reason) := by
  induction l with
  | nil => exact fun s => ⟨rfl, rfl, rfl, rfl⟩
  | cons q l ih =>
    intro s
    rw [State.forEach_cons]
    exact (ClientKept.refuseRequest n s q 1 reason).trans (ih _)

theorem State.disableClient_left (s : State) (n : Nat) : (s.disableClient n).num (clientObj n) 1 = 0 ∧ ((s.disableClient n).client n).watching = false ∧
    (s.disableClient n).watch n = .idle ∧ ∀ q ∈ ((s.disableClient n).part (s.num (clientObj n) 2)).held, q.client ≠ n := by
  unfold State.disableClient
  extract_lets p held s1 s2 s3
  obtain ⟨h1, h2, h3, h4⟩ := ClientKept.refuseRequests n 0x0426 held s3
  have e1 : s3.num (clientObj n) 1 = 0 := State.num_setNum_same s (clientObj n) 1 0
  have e2 : (s3.client n).watching = false := by
    have e : s3.client n = s1.client n := rfl
    rw [e, State.client_modClient_same]
  have e3 : s3.watch n = .idle := by
    have e : s3.watch n = s2.watch n := rfl
    rw [e, State.watch_setWatch, if_pos rfl]
  refine ⟨h1.trans e1, h2.trans e2, ?_, fun q hq => ?_⟩
  · rw [State.watch, h3]
    exact e3
  · rw [State.part, h4] at hq
    have hpart : s3.part p = { s2.part p with held := (s2.part p).held.filter fun q => q.client != n } := State.part_modPart_same ..
    have hq : q ∈ (s3.part p).held := hq
    rw [hpart] at hq
    simpa using (List.mem_filter.1 hq).2

theorem execClientDisable_left {s : State} {path : Path} {n : BitVec 12} (hacc : Accepted s path (clientObj n.toNat) 1 0) :
    ∃ t, exec (.clientDisable path n) s = .next t ∧ t.num (clientObj n.toNat) 1 = 0 ∧ (t.client n.toNat).watching = false ∧
      t.watch n.toNat = .idle ∧ ∀ q ∈ (t.part (s.num (clientObj n.toNat) 2)).held, q.client ≠ n.toNat := by
  obtain ⟨len, e⟩ := State.writeDo_accepted hacc fun s => s.disableClient n.toNat
  obtain ⟨h1, h2, h3, h4⟩ := s.disableClient_left n.toNat
  refine ⟨_, congrArg Host.Outcome.next e, ?_, ?_, ?_, ?_⟩
  · rw [State.reply_num, State.xwNote_num, h1]
  · rw [State.reply_client, State.xwNote_client, h2]
  · generalize s.disableClient n.toNat = u at h3 ⊢
    refine Eq.trans ?_ h3
    cases path <;> rfl
  · rw [State.reply_part, State.xwNote_part]
    exact h4

/-! ### Overlays -/

/-- While no partition is enabled, every change is taken (R532). -/
theorem State.overlayTaken_off {s : State} (h : ∀ p, p < 16 → s.num (0x2100 + p) 3 = 0) (c : Nat × Bool) : s.overlayTaken c = true := by
  unfold State.overlayTaken
  refine List.all_eq_true.2 fun p hp => ?_
  rw [h p (List.mem_range.1 (List.mem_filter.1 hp).1)]
  simp

/-- An overlay change settled: its state, and its digest or its partitions. -/
def State.settleChange (s : State) (c : Nat × Bool) : State :=
  if c.2 then (s.setNum (0x3000 + c.1) 4 2).setBlob (0x3000 + c.1) 5 (sha256 (s.blob (0x3000 + c.1) 3))
  else (s.setNum (0x3000 + c.1) 4 0).setNum (0x3000 + c.1) 6 0

theorem State.settleChange_num (s : State) (c : Nat × Bool) (j : Nat) :
    (s.settleChange c).num (0x3000 + j) 4 = if j = c.1 then (if c.2 then 2 else 0) else s.num (0x3000 + j) 4 := by
  unfold State.settleChange
  split
  · rw [State.setBlob_num, State.num_setNum]
    exact if_congr (by unfold objKey; omega) rfl rfl
  · rw [State.num_setNum_ne _ _ (by unfold objKey; omega), State.num_setNum]
    exact if_congr (by unfold objKey; omega) rfl rfl

/-- Changes settled one after another, of which those of overlay `j` agree. -/
theorem State.settleChanges_num {j : Nat} {b : Bool} (l : List (Nat × Bool)) (h : ∀ c ∈ l, c.1 = j → c.2 = b) : ∀ s : State,
    (j, b) ∈ l ∨ s.num (0x3000 + j) 4 = (if b then 2 else 0) → (s.forEach l State.settleChange).num (0x3000 + j) 4 = if b then 2 else 0 := by
  induction l with
  | nil => exact fun s hs => hs.resolve_left List.not_mem_nil
  | cons c l ih =>
    intro s hs
    rw [State.forEach_cons]
    refine ih (fun c hc => h c (List.mem_cons_of_mem _ hc)) _ ?_
    by_cases hc : j = c.1
    · rw [State.settleChange_num, if_pos hc, h c List.mem_cons_self hc.symm]
      exact .inr rfl
    · rw [State.settleChange_num, if_neg hc]
      refine hs.imp_left fun hm => (List.mem_cons.1 hm).resolve_left fun e => hc (by rw [← e])

theorem State.settleOverlays_off {s : State} (h : ∀ p, p < 16 → s.num (0x2100 + p) 3 = 0) :
    s.settleOverlays = { s.forEach s.overlays State.settleChange with
      overlays := (s.forEach s.overlays State.settleChange).overlays.filter fun c => !s.overlays.contains c } := by
  unfold State.settleOverlays
  rw [List.filter_eq_self.2 fun c _ => State.overlayTaken_off h c]
  rfl

theorem State.settleEnvelope_num {o sub : Nat} (h : LowCounter o sub) (h1 : o ≠ 0x2010) (h2 : o ≠ 0x5320) (s : State) : s.settleEnvelope.num o sub = s.num o sub := by
  have hs := h.sub
  have class' : ∀ (t : State) (k : Nat), k < 24 → (t.noteClass k).num o sub = t.num o sub := fun t k hk => by
    unfold State.noteClass
    dsimp only
    split
    · rfl
    · exact (State.raise_num_low h _ _).trans (State.num_setNum_ne _ _ (by unfold objKey sub1; omega))
  unfold State.settleEnvelope
  dsimp only
  split
  · rfl
  · split
    · rfl
    · exact (State.forEach_num_mem (fun t k hk => class' t k (List.mem_range.1 hk)) _).trans (State.num_setNum_ne _ _ (by unfold objKey; omega))

theorem State.coolantFollows_num {o sub : Nat} (h : LowCounter o sub) (s before : State) : (s.coolantFollows before).num o sub = s.num o sub := by
  unfold State.coolantFollows
  split
  · rfl
  · unfold State.markCoolant
    exact (State.num_setNum_ne _ _ (h.key (by decide))).trans (State.num_setNum_ne _ _ (h.key (by decide)))

/-- The changes that a write of `value` asks for (R531). -/
def overlayChanges (v : Nat) : List (Nat × Bool) := ((setBits 16 v).map fun k => (k, true)) ++ (setBits 16 (v >>> 16)).map fun k => (k, false)

theorem State.overlayCheck_apart {s : State} {v : Nat} (h : s.overlayCheck v = none) : ∀ j ∈ setBits 16 v, j ∉ setBits 16 (v >>> 16) := by
  unfold State.overlayCheck at h
  extract_lets ap rm st unusable live at h
  split at h
  · exact nomatch h
  next hu =>
    intro j hj hr
    have hany : ap.any (rm.contains ·) = true := List.any_eq_true.2 ⟨j, hj, List.contains_iff_mem.2 hr⟩
    exact hu (by simp only [unusable, hany, Bool.true_or])

theorem mem_overlayChanges {v : Nat} (h : ∀ j ∈ setBits 16 v, j ∉ setBits 16 (v >>> 16)) {j : Nat} {b : Bool} (hj : (j, b) ∈ overlayChanges v) :
    ∀ c ∈ overlayChanges v, c.1 = j → c.2 = b := by
  have mem : ∀ c ∈ overlayChanges v, (c.2 = true ∧ c.1 ∈ setBits 16 v) ∨ (c.2 = false ∧ c.1 ∈ setBits 16 (v >>> 16)) := fun c hc => by
    rcases List.mem_append.1 hc with hc | hc <;> obtain ⟨x, hx, rfl⟩ := List.mem_map.1 hc
    · exact .inl ⟨rfl, hx⟩
    · exact .inr ⟨rfl, hx⟩
  intro c hc e
  rcases mem _ hj with ⟨hb, hm⟩ | ⟨hb, hm⟩ <;> rcases mem c hc with ⟨hd, hn⟩ | ⟨hd, hn⟩
  · rw [hd]; exact hb.symm
  · exact absurd (e ▸ hn) (h j hm)
  · exact absurd hm (h j (e ▸ hn))
  · rw [hd]; exact hb.symm

theorem State.writeOverlays_refused {s : State} {v code b sub : Nat} (h1 : s.num 0x2000 2 ≠ 1) (h4 : s.num 0x2000 2 ≠ 4)
    (hc : s.overlayCheck v = some (code, b, sub)) : s.writeOverlays v = (s.blame code b sub, code) := by
  rw [State.writeOverlays, if_neg (by omega), hc]

/-- The changes asked for, noted at their overlays and behind those that wait (R531). -/
def State.changesAsked (s : State) (v : Nat) : State :=
  let s := s.forEach (overlayChanges v) fun s c => s.setNum (0x3000 + c.1) 4 (if c.2 then 1 else 3)
  { s with overlays := s.overlays ++ overlayChanges v }

/-- The changes forced on their partitions that are off (R532). -/
def State.changesForced (s : State) (v : Nat) : State :=
  let off := (List.range 16).filter fun p => s.num (0x2100 + p) 3 == 0
  s.forEach (overlayChanges v) fun s c => s.forEach ((setBits 16 (s.num (0x3000 + c.1) 2)).filter (off.contains ·)) fun s p => s.takeNow c p

/-- What follows the changes: the envelope and the coolant's marks of a device that is off, the boundaries of idle partitions. -/
def State.changesFollowed (s before : State) : State :=
  let s := if s.num 0x2000 1 = 1 then s else s.settleEnvelope.coolantFollows before
  s.forEach s.enabledParts State.boundaryIfIdle

theorem State.writeOverlays_passed {s : State} {v : Nat} (h1 : s.num 0x2000 2 ≠ 1) (h4 : s.num 0x2000 2 ≠ 4) (hc : s.overlayCheck v = none) :
    s.writeOverlays v = (((s.changesAsked v).changesForced v).settleOverlays.changesFollowed s, 0) := by
  rw [State.writeOverlays, if_neg (by omega), hc]
  rfl

theorem State.changesAsked_num {o sub : Nat} (h : LowObject o sub) (s : State) (v : Nat) : (s.changesAsked v).num o sub = s.num o sub :=
  State.forEach_num (fun t c => (h.unmoved 0).high t _ _ _ (by omega)) _ s

theorem State.changesForced_num {o sub : Nat} (h : LowObject o sub) (s : State) (v : Nat) : (s.changesForced v).num o sub = s.num o sub :=
  State.forEach_num (fun t c => State.forEach_num (fun t p => (h.unmoved p).takeNow t c) _ t) _ s

theorem State.takeNow_overlays (s : State) (c : Nat × Bool) (p : Nat) : (s.takeNow c p).overlays = s.overlays := rfl

theorem State.forEach_overlays {α : Type} {f : State → α → State} (hf : ∀ s x, (f s x).overlays = s.overlays) (l : List α) (s : State) :
    (s.forEach l f).overlays = s.overlays := by
  induction l generalizing s with
  | nil => rfl
  | cons x l ih => exact (ih _).trans (hf s x)

theorem State.changesForced_overlays (s : State) (v : Nat) : ((s.changesAsked v).changesForced v).overlays = s.overlays ++ overlayChanges v := by
  have h1 : ((s.changesAsked v).changesForced v).overlays = (s.changesAsked v).overlays :=
    State.forEach_overlays (fun t c => State.forEach_overlays (fun t p => State.takeNow_overlays t c p) _ t) _ _
  have h2 : (s.changesAsked v).overlays = (s.forEach (overlayChanges v) fun s c => s.setNum (0x3000 + c.1) 4 (if c.2 then 1 else 3)).overlays ++
      overlayChanges v := rfl
  have h3 : ∀ (t : State) (c : Nat × Bool), (t.setNum (0x3000 + c.1) 4 (if c.2 then 1 else 3)).overlays = t.overlays := fun _ _ => rfl
  rw [h1, h2, State.forEach_overlays h3]

theorem State.changesFollowed_num {s : State} (hdev : s.num 0x2000 1 = 0) (hp : ∀ p, p < 16 → s.num (0x2100 + p) 3 = 0) {o sub : Nat} (h : LowCounter o sub)
    (h1 : o ≠ 0x2010) (h2 : o ≠ 0x5320) (before : State) : (s.changesFollowed before).num o sub = s.num o sub := by
  have hnum : ∀ {o sub}, LowCounter o sub → o ≠ 0x2010 → o ≠ 0x5320 → (s.settleEnvelope.coolantFollows before).num o sub = s.num o sub :=
    fun h h1 h2 => (State.coolantFollows_num h ..).trans (State.settleEnvelope_num h h1 h2 s)
  have hoff : (s.settleEnvelope.coolantFollows before).enabledParts = [] := List.filter_eq_nil_iff.2 fun p hlt => by
    have := List.mem_range.1 hlt
    rw [hnum ⟨by omega, by decide⟩ (by omega) (by omega), hp p this]
    decide
  unfold State.changesFollowed
  rw [if_neg (by omega)]
  dsimp only
  rw [hoff, State.forEach_nil, hnum h h1 h2]

/-- Overlay changes written while no partition is enabled are in effect at once (R532). -/
theorem State.writeOverlays_off {s : State} {v : Nat} (h1 : s.num 0x2000 2 ≠ 1) (h4 : s.num 0x2000 2 ≠ 4) (hc : s.overlayCheck v = none)
    (hdev : s.num 0x2000 1 = 0) (hp : ∀ p, p < 16 → s.num (0x2100 + p) 3 = 0) : ∃ t, s.writeOverlays v = (t, 0) ∧
      ∀ j b, (j, b) ∈ overlayChanges v → t.num (0x3000 + j) 4 = if b then 2 else 0 := by
  refine ⟨_, State.writeOverlays_passed h1 h4 hc, fun j b hj => ?_⟩
  have hj16 : j < 16 := by
    rcases List.mem_append.1 hj with hj | hj
    · obtain ⟨x, hx, e⟩ := List.mem_map.1 hj
      obtain ⟨rfl, -⟩ := Prod.mk.inj e
      exact List.mem_range.1 (List.mem_filter.1 hx).1
    · obtain ⟨x, hx, e⟩ := List.mem_map.1 hj
      obtain ⟨rfl, -⟩ := Prod.mk.inj e
      exact List.mem_range.1 (List.mem_filter.1 hx).1
  have hlow : ∀ {o sub}, LowObject o sub → ((s.changesAsked v).changesForced v).num o sub = s.num o sub := fun h =>
    (State.changesForced_num h ..).trans (State.changesAsked_num h ..)
  have hover := s.changesForced_overlays v
  generalize (s.changesAsked v).changesForced v = u at hlow hover
  have hup : ∀ p, p < 16 → u.num (0x2100 + p) 3 = 0 := fun p hlt => (hlow ⟨by omega, by decide, by omega⟩).trans (hp p hlt)
  have hset : ∀ {o sub}, LowObject o sub → u.settleOverlays.num o sub = u.num o sub := fun h => (h.unmoved 0).settleOverlays u
  rw [State.changesFollowed_num ((hset ⟨by decide, by decide, by decide⟩).trans ((hlow ⟨by decide, by decide, by decide⟩).trans hdev))
    (fun p hlt => (hset ⟨by omega, by decide, by omega⟩).trans (hup p hlt)) ⟨by omega, by decide⟩ (by omega) (by omega), State.settleOverlays_off hup, hover]
  have happend : u.forEach (s.overlays ++ overlayChanges v) State.settleChange = (u.forEach s.overlays State.settleChange).forEach (overlayChanges v) State.settleChange :=
    List.foldl_append ..
  rw [happend]
  exact State.settleChanges_num _ (mem_overlayChanges (State.overlayCheck_apart hc) hj) _ (.inl hj)

theorem writeVia_overlays {s : State} {path : Path} {v : BitVec 32} (hacc : Accepted s path 0x3010 1 v.toNat) : ∃ len,
    (∀ x, x = Instr.overlayApply path v ∨ x = Instr.overlayRemove path v → exec x s = .next (((s.writeOverlays v.toNat).1.xwNote path 0x3010 1 2 len 0
      (s.writeOverlays v.toNat).2 (leBytes len v.toNat)).reply path (s.writeOverlays v.toNat).2 [])) := by
  obtain ⟨len, e⟩ := State.writeVia_accepted hacc fun s => s.writeOverlays v.toNat
  refine ⟨len, fun x hx => ?_⟩
  rcases hx with rfl | rfl
  · exact congrArg Host.Outcome.next e
  · exact congrArg Host.Outcome.next e

theorem execImageLoadComplete_checked {s : State} {slot : BitVec 6} (bytes : List Byte) (h5 : s.num (slotObj slot.toNat) 5 = 1)
    (hl : s.loads.head? = some slot.toNat) (hi : (s.slot slot.toNat).image = none) :
    (∀ code offset, (s.setNum (slotObj slot.toNat) 8 bytes.length).validate bytes (parseImage bytes) ((s.slot slot.toNat).held.getD ⟨s.dict⟩) slot.toNat = some (code, offset) →
      exec (.imageLoadComplete slot bytes) s =
        .next (((s.setNum (slotObj slot.toNat) 8 bytes.length).refuseImage slot.toNat code offset).nextLoad s.loads)) ∧
    ((s.setNum (slotObj slot.toNat) 8 bytes.length).validate bytes (parseImage bytes) ((s.slot slot.toNat).held.getD ⟨s.dict⟩) slot.toNat = none →
      exec (.imageLoadComplete slot bytes) s =
        .next ((s.setNum (slotObj slot.toNat) 8 bytes.length).activate slot.toNat bytes (parseImage bytes))) := by
  have hx : exec (.imageLoadComplete slot bytes) s = execImageLoadComplete slot bytes s := rfl
  rw [hx, execImageLoadComplete]
  dsimp only
  rw [if_neg (by rw [h5, hl, hi]; simp)]
  refine ⟨fun code offset hv => ?_, fun hv => ?_⟩
  · rw [hv]
    rfl
  · rw [hv]

/-- Settles O45, by what a load, an unload, a client's enable and an overlay change write. -/
theorem slotsClientsAndOverlays : Obligations.SlotsClientsAndOverlays := by
  unfold Obligations.SlotsClientsAndOverlays
  intro s path slot n k o c
  have hk : k < 64 := slot.isLt
  refine ⟨fun hacc h4 h5 => execSlotEnable_waits hacc h4 h5, fun hacc => ⟨fun h => execSlotDisable_empties hacc h, fun h5 h4 hu =>
    execSlotDisable_used hacc h5 h4 hu⟩, fun bytes h5 hl hi => ?_, fun hacc h1 => execClientEnable_checked hacc h1, fun hacc => execClientDisable_left hacc,
    fun value hacc h1 h4 => ?_⟩
  · intro i found
    have hexec := execImageLoadComplete_checked (slot := slot) bytes h5 hl hi
    obtain ⟨l, hloads⟩ := List.head?_eq_some_iff.1 hl
    refine ⟨fun hf hfills hg => ?_, fun code offset hf => ?_⟩
    · obtain ⟨a5, a6, a8, ai, al⟩ := State.activate_ready (s := s.setNum o 8 bytes.length) bytes hk
        ((State.num_setNum_ne _ _ (by unfold objKey; omega)).trans h5) hfills hg
      refine ⟨_, hexec.2 hf, a5, a6, a8, ai, al.trans ?_⟩
      change s.loads.erase k = s.loads.tail
      rw [hloads, List.erase_cons_head, List.tail_cons]
    · obtain ⟨r4, r5, r9, r3, rs, rl, rc⟩ := (s.setNum o 8 bytes.length).refuseImage_left hk code offset
      refine ⟨_, hexec.1 code offset hf, ?_, ?_, ?_, ?_, ?_, ?_, ?_⟩
      · rw [State.nextLoad_num, r4]
      · rw [State.nextLoad_num, r5]
      · rw [State.nextLoad_num, r9]
      · rw [State.nextLoad_num, r3]
      · rw [State.nextLoad_slot, rs]
      · rw [State.nextLoad_loads, rl]
        change s.loads.erase k = s.loads.tail
        rw [hloads, List.erase_cons_head, List.tail_cons]
      · rw [EventCounted, State.nextLoad_num, rc, State.num_setNum_ne _ _ (by unfold objKey; simp only [o, slotObj]; omega)]
  · obtain ⟨len, e⟩ := writeVia_overlays hacc
    refine ⟨fun code b sub hc => ?_, fun hc hdev hp => ?_⟩
    · rw [State.writeOverlays_refused h1 h4 hc] at e
      have all : ∀ x, x = Instr.overlayApply path value ∨ x = Instr.overlayRemove path value → ∃ t, exec x s = .next t ∧ t.overlays = s.overlays ∧
          t.num 0x2000 3 = code ∧ t.num 0x2000 4 = objKey b sub ∧ t.out.getLast? = some (.response path.num code []) := fun x hx => by
        refine ⟨_, e x hx, ?_, ?_, ?_, ?_⟩
        · rw [State.answered_rest, State.blame, (Logged.raise _ _).rest]
          rfl
        · rw [State.reply_num, State.xwNote_num, State.blame_num ⟨by decide, by decide, by decide⟩]
          rfl
        · rw [State.reply_num, State.xwNote_num, State.blame_num ⟨by decide, by decide, by decide⟩]
          rfl
        · rw [State.answered_rest]
          exact List.getLast?_concat
      exact ⟨all _ (.inl rfl), all _ (.inr rfl)⟩
    · obtain ⟨t, ht, hnum⟩ := State.writeOverlays_off h1 h4 hc hdev hp
      rw [ht] at e
      have all : ∀ x, x = Instr.overlayApply path value ∨ x = Instr.overlayRemove path value → ∃ t, exec x s = .next t ∧
          (∀ j ∈ setBits 16 value.toNat, t.num (0x3000 + j) 4 = 2) ∧ (∀ j ∈ setBits 16 (value.toNat >>> 16), t.num (0x3000 + j) 4 = 0) ∧
          t.out.getLast? = some (.response path.num 0 []) := fun x hx => by
        refine ⟨_, e x hx, fun j hj => ?_, fun j hj => ?_, ?_⟩
        · rw [State.reply_num, State.xwNote_num]
          exact hnum j true (List.mem_append_left _ (List.mem_map.2 ⟨j, hj, rfl⟩))
        · rw [State.reply_num, State.xwNote_num]
          exact hnum j false (List.mem_append_right _ (List.mem_map.2 ⟨j, hj, rfl⟩))
        · rw [State.answered_rest]
          exact List.getLast?_concat
      exact ⟨all _ (.inl rfl), all _ (.inr rfl)⟩

end Sys2Proof.Machine
end

section
/-! SUPPORT. Test strips: what a strip leaves of its region, its result, and the fences it lifts. -/

namespace Sys2Proof.Machine

theorem testBit_sub_two_pow {n k : Nat} (h : n.testBit k = true) (j : Nat) : (n - 2 ^ k).testBit j = (n.testBit j && decide (j ≠ k)) := by
  have hle : 2 ^ k ≤ n := Nat.ge_two_pow_of_testBit h
  obtain ⟨m, rfl⟩ := Nat.exists_eq_add_of_le hle
  rw [Nat.add_sub_cancel_left]
  rcases Nat.lt_trichotomy j k with hj | rfl | hj
  · rw [Nat.testBit_two_pow_add_gt hj]
    simp [Nat.ne_of_lt hj]
  · rw [Nat.testBit_two_pow_add_eq] at h
    simpa using h
  · have hodd : (2 ^ k + m) / 2 ^ k % 2 = 1 := by simpa [Nat.testBit_eq_decide_div_mod_eq] using h
    have hdiv : (2 ^ k + m) / 2 ^ k = m / 2 ^ k + 1 := Nat.add_div_left m (Nat.two_pow_pos k)
    obtain ⟨i, rfl⟩ := Nat.exists_eq_add_of_lt hj
    have hs : ∀ n : Nat, n / 2 ^ (k + i + 1) = n / 2 ^ k / 2 / 2 ^ i := fun n => by
      rw [Nat.div_div_eq_div_mul, Nat.div_div_eq_div_mul]
      congr 1
      ring
    rw [Nat.testBit_eq_decide_div_mod_eq, Nat.testBit_eq_decide_div_mod_eq, hs, hs, hdiv, show (m / 2 ^ k + 1) / 2 = m / 2 ^ k / 2 by omega]
    simp [show k + i + 1 ≠ k by omega]

theorem testBit_withoutBit (n k j : Nat) : (withoutBit n k).testBit j = (n.testBit j && decide (j ≠ k)) := by
  unfold withoutBit
  split
  next h => exact testBit_sub_two_pow h j
  next h =>
    by_cases hj : j = k
    · rw [hj]
      simpa using h
    · simp [hj]

theorem testBit_withBit_same (n k : Nat) : (withBit n k).testBit k = true := by
  rw [withBit, Nat.testBit_or, Nat.testBit_two_pow_self, Bool.or_true]

/-- A region under test: its own state only, no object, no output. -/
theorem State.testRegion_kept (s : State) (r : Nat) : ((s.testRegion r).dict, (s.testRegion r).power, (s.testRegion r).out) = (s.dict, s.power, s.out) := by
  have links : ∀ d, ((s.testLinks d).dict, (s.testLinks d).power, (s.testLinks d).out) = (s.dict, s.power, s.out) := fun d => by
    refine Blind.forEach (Φ := fun s : State => (s.dict, s.power, s.out)) ?_ _ s
    exact fun _ _ => rfl
  unfold State.testRegion
  split
  next k _ =>
    have h : ((s.forEach (rangeFrom (9 * k) 9) fun t pc => t.modCore pc Core.reset).dict, (s.forEach (rangeFrom (9 * k) 9) fun t pc => t.modCore pc Core.reset).power,
        (s.forEach (rangeFrom (9 * k) 9) fun t pc => t.modCore pc Core.reset).out) = (s.dict, s.power, s.out) := by
      refine Blind.forEach (Φ := fun s : State => (s.dict, s.power, s.out)) ?_ _ s
      exact fun _ _ => rfl
    generalize State.forEach _ _ _ = u at h ⊢
    exact h
  · split
    · exact links _
    · split
      · rfl
      · split
        · rfl
        · split
          · have h := links (bDie (r - 108))
            dsimp only
            generalize s.testLinks (bDie (r - 108)) = u at h ⊢
            exact h
          · refine Blind.forEach (Φ := fun s : State => (s.dict, s.power, s.out)) ?_ _ s
            exact fun _ _ => rfl

theorem State.testRegion_num (s : State) (r : Nat) : (s.testRegion r).num = s.num := by
  have h := s.testRegion_kept r
  simp only [Prod.mk.injEq] at h
  funext o sub
  rw [State.num, State.num, h.1]

theorem State.testRegion_power (s : State) (r : Nat) : (s.testRegion r).power = s.power := by
  have h := s.testRegion_kept r
  simp only [Prod.mk.injEq] at h
  exact h.2.1

theorem State.testRegion_out (s : State) (r : Nat) : (s.testRegion r).out = s.out := by
  have h := s.testRegion_kept r
  simp only [Prod.mk.injEq] at h
  exact h.2.2

theorem State.resetCores_opnd (l : List Nat) (pc : Nat) : ∀ s : State, pc ∈ l ∨ (s.core pc).opnd = .empty →
    ((s.forEach l fun t pc => t.modCore pc Core.reset).core pc).opnd = .empty := by
  induction l with
  | nil => exact fun s h => h.resolve_left List.not_mem_nil
  | cons x l ih =>
    intro s h
    rw [State.forEach_cons]
    refine ih _ ?_
    by_cases hx : pc = x
    · rw [hx, State.core_modCore_same]
      exact .inr rfl
    · rw [State.core_modCore, if_neg hx]
      exact h.imp_left fun hm => (List.mem_cons.1 hm).resolve_left hx

/-- A strip leaves its cluster at zero (R543). -/
theorem State.testRegion_cluster (s : State) {r k : Nat} (h : regionCluster r = some k) :
    (s.testRegion r).cluster k = .idle ∧ ∀ i, i < 9 → ((s.testRegion r).core (9 * k + i)).opnd = .empty := by
  unfold State.testRegion
  rw [h]
  dsimp only
  refine ⟨State.cluster_setCluster_same .., fun i hi => ?_⟩
  have hopnd := State.resetCores_opnd (rangeFrom (9 * k) 9) (9 * k + i) s (.inl (mem_rangeFrom.2 (by omega)))
  generalize State.forEach _ _ _ = u at hopnd ⊢
  exact hopnd

/-- The value that a strip's result takes (R545). -/
def stripValue (r type : Nat) (signature : BitVec 64) (aborted : Bool) : Nat :=
  if aborted then 3 else if signature = Config.expectedSignature r type then 1 else 2

theorem State.stripResult_left (s : State) {r : Nat} (hr : r < 128) (v : Nat) : let sub := if r < 64 then 2 else 3
    ∃ d, s.stripResult r v = { s with dict := d } ∧ (s.stripResult r v).num (0xB100 + r) 3 = v ∧
      ((s.stripResult r v).num 0xB000 sub).testBit (r % 64) = decide (v ≠ 1) := by
  intro sub
  refine ⟨_, rfl, ?_, ?_⟩
  · refine (State.num_setNum_ne _ _ (by unfold objKey; split <;> omega)).trans ((State.num_setNum_ne _ _ (by unfold objKey; omega)).trans (State.num_setNum_same ..))
  · refine (congrArg (fun n : Nat => n.testBit (r % 64)) (State.num_setNum_same ..)).trans ?_
    by_cases hv : v = 1
    · rw [if_pos hv, testBit_withoutBit, hv]
      simp
    · rw [if_neg hv, testBit_withBit_same]
      simp [hv]

theorem State.judge_left (s : State) {r : Nat} (hr : r < 128) (signature : BitVec 64) (aborted : Bool) : let v := stripValue r (s.num 0x1000 6) signature aborted
    let sub := if r < 64 then 2 else 3
    ∃ d u, u = { s with dict := d } ∧ s.judge r signature.toNat aborted = (u, v) ∧ u.num (0xB100 + r) 3 = v ∧ (u.num 0xB000 sub).testBit (r % 64) = decide (v ≠ 1) := by
  intro v sub
  cases aborted with
  | true =>
    obtain ⟨d, h, hn, hb⟩ := s.stripResult_left hr 3
    exact ⟨d, _, h, rfl, hn, hb⟩
  | false =>
    have hok : (signature.toNat == (Config.expectedSignature r ((s.setNum (0xB100 + r) 1 signature.toNat).num 0x1000 6)).toNat) =
        decide (signature = Config.expectedSignature r (s.num 0x1000 6)) := by
      rw [State.num_setNum_ne _ _ (by unfold objKey; omega)]
      simp [beq_eq_decide, BitVec.toNat_inj]
    have hj : s.judge r signature.toNat false = ((s.setNum (0xB100 + r) 1 signature.toNat).stripResult r v, v) := by
      unfold State.judge
      dsimp only
      rw [if_neg (by decide), hok]
      simp only [decide_eq_true_eq]
      rfl
    obtain ⟨d, h, hn, hb⟩ := (s.setNum (0xB100 + r) 1 signature.toNat).stripResult_left hr v
    exact ⟨d, _, h, hj, hn, hb⟩

/-! ### The end of a strip -/

theorem State.leaveTest_kept (s : State) {d : Nat} (hd : d < 4) : (s.leaveTest d).power = s.power ∧
    ∀ o sub, 0x8000 ≤ o ∨ o = 0x1010 → sub < 256 → (s.leaveTest d).num o sub = s.num o sub := by
  have enter : ∀ (t : State) mode, (t.enterPipe d mode).power = t.power ∧
      ∀ o sub, 0x8000 ≤ o ∨ o = 0x1010 → sub < 256 → (t.enterPipe d mode).num o sub = t.num o sub := fun t mode => by
    have hn : ∀ o sub, 0x8000 ≤ o ∨ o = 0x1010 → sub < 256 → ({ t.setNum (0x7010 + d) 1 mode with pipeNext := tabSet 0 t.pipeNext d 0 } : State).num o sub = t.num o sub :=
      fun o sub ho hs => State.num_setNum_ne t mode (by unfold objKey; omega)
    unfold State.enterPipe
    split
    · refine ⟨Blind.forEach (Φ := State.power) ?_ _ _, fun o sub ho hs => (State.forEach_num ?_ _ _).trans (hn o sub ho hs)⟩
      · exact fun _ _ => rfl
      · exact fun _ _ => rfl
    · exact ⟨rfl, hn⟩
  unfold State.leaveTest
  split
  · exact ⟨rfl, fun _ _ _ _ => rfl⟩
  · have hn : ∀ o sub, 0x8000 ≤ o ∨ o = 0x1010 → sub < 256 →
        ({ s.setNum (0x7010 + d) 1 (s.pipeKept d) with pipeBefore := tabSet 0 s.pipeBefore d 0 } : State).num o sub = s.num o sub :=
      fun o sub ho hs => State.num_setNum_ne s _ (by unfold objKey; omega)
    unfold State.settlePipe
    split
    · exact ⟨rfl, hn⟩
    · obtain ⟨h1, h2⟩ := enter ({ s.setNum (0x7010 + d) 1 (s.pipeKept d) with pipeBefore := tabSet 0 s.pipeBefore d 0 } : State)
        (({ s.setNum (0x7010 + d) 1 (s.pipeKept d) with pipeBefore := tabSet 0 s.pipeBefore d 0 } : State).pipeNextOf d - 1)
      exact ⟨h1, fun o sub ho hs => (h2 o sub ho hs).trans (hn o sub ho hs)⟩

/-- The pipe of a codec strip is left as its die's mode before, once the strip has ended. -/
theorem State.leavePipe_kept (s : State) {r : Nat} (hr : r < 128) : let t := if 124 ≤ r then s.leaveTest (r - 124) else s
    t.power = s.power ∧ ∀ o sub, 0x8000 ≤ o ∨ o = 0x1010 → sub < 256 → t.num o sub = s.num o sub := by
  intro t
  simp only [t]
  split
  · exact s.leaveTest_kept (by omega)
  · exact ⟨rfl, fun _ _ _ _ => rfl⟩

/-- A strip that is not the last of the fixed set leaves the module in bring-up (R546). -/
theorem State.roundDone_early {s : State} {r : Nat} (hr : r < 128) (h : s.power.round ≠ some 4) :
    (∀ o sub, 0x8000 ≤ o ∨ o = 0x1010 → sub < 256 → (s.roundDone r).num o sub = s.num o sub) ∧ r ∉ (s.roundDone r).power.testing ∧
      (s.roundDone r).power.phase = s.power.phase ∧ (r < 124 → (s.roundDone r).clusters = s.clusters ∧ (s.roundDone r).cores = s.cores) := by
  unfold State.roundDone
  extract_lets pw s1 s2
  obtain ⟨hp, hn⟩ := s1.leavePipe_kept hr
  have hs2 : s2 = if 124 ≤ r then s1.leaveTest (r - 124) else s1 := rfl
  rw [← hs2] at hp hn
  have hround : s2.power.round = s.power.round := by rw [hp]
  rw [if_neg (by rw [hround]; simp [h])]
  refine ⟨hn, ?_, by rw [hp], fun hlt => ?_⟩
  · rw [hp]
    intro hm
    simpa using (List.mem_filter.1 hm).2
  · rw [hs2, if_neg (by omega)]
    exact ⟨rfl, rfl⟩

/-- The last strip to end releases the module (R546). -/
theorem State.roundDone_last {s : State} {r : Nat} (ht : s.power.testing = [r]) (h : s.power.round = some 4) (hr : r < 128) :
    (s.roundDone r).power.phase = .running ∧ ((s.roundDone r).num 0x1010 2 = 1 ∨ (s.roundDone r).num 0x1010 2 = 2) ∧
      ((s.roundDone r).num 0x1010 2 = 1 ↔ ∀ q, q < 128 → (s.roundDone r).num (0xB100 + q) 3 = 1) := by
  unfold State.roundDone
  extract_lets pw s1 s2
  obtain ⟨hp, -⟩ := s1.leavePipe_kept hr
  have hs2 : s2 = if 124 ≤ r then s1.leaveTest (r - 124) else s1 := rfl
  rw [← hs2] at hp
  have hempty : s2.power.testing = [] := by
    rw [hp]
    simp only [s1, ht]
    simp
  have hround : s2.power.round = some 4 := by rw [hp]; exact h
  rw [if_pos (by rw [hround, hempty]; rfl)]
  clear_value s2
  unfold State.release
  extract_lets all v s3 s4 pw4
  have h4 : ∀ o sub, objKey o sub ≠ objKey 0xB0F0 5 → s4.num o sub = s3.num o sub := fun o sub hne => by
    simp only [s4]
    split
    · exact State.num_setNum_ne s3 1 hne
    · rfl
  have hv : s4.num 0x1010 2 = v := (h4 _ _ (by decide)).trans (State.num_setNum_same ..)
  have hq : ∀ q, q < 128 → s4.num (0xB100 + q) 3 = s2.num (0xB100 + q) 3 := fun q hq =>
    (h4 _ _ (by unfold objKey; omega)).trans ((State.num_setNum_ne _ _ (by unfold objKey; omega)).trans (State.num_setNum_ne _ _ (by unfold objKey; omega)))
  refine ⟨rfl, ?_, ?_⟩
  · change s4.num 0x1010 2 = 1 ∨ s4.num 0x1010 2 = 2
    rw [hv]
    simp only [v]
    split
    · exact .inl rfl
    · exact .inr rfl
  · change s4.num 0x1010 2 = 1 ↔ ∀ q, q < 128 → s4.num (0xB100 + q) 3 = 1
    have hall : all = true ↔ ∀ q, q < 128 → s4.num (0xB100 + q) 3 = 1 := by
      simp only [all, List.all_eq_true, List.mem_range, beq_iff_eq]
      exact forall₂_congr fun q hlt => by rw [hq q hlt]
    rw [hv, ← hall]
    simp only [v]
    split
    next e => simp [e]
    next e => simp [e]

end Sys2Proof.Machine
end

section
/-! SUPPORT. The fences that a passed strip lifts, strips on request, and the engine. -/

namespace Sys2Proof.Machine

/-- The power of the module is what neither a boundary nor a fence changes. -/
theorem unmoved_power (q : Nat) : Unmoved q State.power where
  setNum _ _ _ _ _ := rfl
  setBlob _ _ _ _ := rfl
  setFilm s f v := by
    unfold State.setFilm
    split <;> rfl
  emit _ _ := rfl
  seq _ _ := rfl
  gap _ _ := rfl
  high _ _ _ _ _ := rfl
  clock _ _ := rfl
  modCore _ _ _ := rfl
  counts _ _ := rfl
  clients _ _ := rfl
  overlays _ _ := rfl
  pipes _ _ _ _ := rfl
  modPart _ _ _ _ := rfl
  reforce _ := rfl

/-- The fence of one core lifted, that of its bank with it (R624). -/
def State.liftCore (s : State) (pc : Nat) : State :=
  ((s.modCore pc fun c => { c with bankFence := none }).setNum (0x9150 + pc / 36) 1 (withoutBit (s.num (0x9150 + pc / 36) 1) (pc % 36))).setNum
    (bankFenceKey pc).1 (bankFenceKey pc).2 0

theorem State.liftFences_eq (s : State) (k : Nat) : s.liftFences k =
    (((s.forEach (rangeFrom (9 * k) 9) State.liftCore).setNum 0x9160 1 (withoutBit ((s.forEach (rangeFrom (9 * k) 9) State.liftCore).num 0x9160 1) k)).remapCluster
      k).settleSlot14 := rfl

theorem State.liftCore_num {pc o sub : Nat} (s : State) (h : objKey o sub ≠ objKey (0x9150 + pc / 36) 1)
    (hb : objKey o sub ≠ objKey (bankFenceKey pc).1 (bankFenceKey pc).2) : (s.liftCore pc).num o sub = s.num o sub :=
  (State.num_setNum_ne _ _ hb).trans (State.num_setNum_ne _ _ h)

theorem State.liftCore_bit {pc x : Nat} (s : State) (hp : pc < 576) (hx : x < 576) :
    ((s.liftCore pc).num (0x9150 + x / 36) 1).testBit (x % 36) = ((s.num (0x9150 + x / 36) 1).testBit (x % 36) && decide (x ≠ pc)) := by
  have hb : objKey (0x9150 + x / 36) 1 ≠ objKey (bankFenceKey pc).1 (bankFenceKey pc).2 := by
    unfold objKey bankFenceKey
    dsimp only
    omega
  have e : (s.liftCore pc).num (0x9150 + x / 36) 1 = (s.setNum (0x9150 + pc / 36) 1 (withoutBit (s.num (0x9150 + pc / 36) 1) (pc % 36))).num (0x9150 + x / 36) 1 :=
    (State.num_setNum_ne _ _ hb)
  rw [e]
  by_cases hd : x / 36 = pc / 36
  · rw [hd, State.num_setNum_same, testBit_withoutBit]
    have : x % 36 ≠ pc % 36 ↔ x ≠ pc := by omega
    simp only [this]
  · rw [State.num_setNum_ne _ _ (by unfold objKey; omega), decide_eq_true (by rintro rfl; exact hd rfl), Bool.and_true]

theorem State.liftCores_bit {x : Nat} (hx : x < 576) (l : List Nat) : ∀ s : State, (∀ pc ∈ l, pc < 576) →
    x ∈ l ∨ (s.num (0x9150 + x / 36) 1).testBit (x % 36) = false → ((s.forEach l State.liftCore).num (0x9150 + x / 36) 1).testBit (x % 36) = false := by
  induction l with
  | nil => exact fun s _ h => h.resolve_left List.not_mem_nil
  | cons pc l ih =>
    intro s hl h
    rw [State.forEach_cons]
    refine ih _ (fun y hy => hl y (List.mem_cons_of_mem _ hy)) ?_
    rw [State.liftCore_bit s (hl pc List.mem_cons_self) hx]
    rcases h with h | h
    · rcases List.mem_cons.1 h with e | h
      · exact .inr (by rw [e]; simp)
      · exact .inl h
    · exact .inr (by rw [h]; rfl)

theorem State.settleSlot14_num (s : State) {o sub : Nat} (h : o ≠ 0x300E) (hs : sub < 256) : s.settleSlot14.num o sub = s.num o sub := by
  have ne : ∀ (t : State) k v, k < 256 → (t.setNum 0x300E k v).num o sub = t.num o sub := fun t k v hk => State.num_setNum_ne t v (by unfold objKey; omega)
  have nb : ∀ (t : State) b k x, (t.setBlob b k x).num o sub = t.num o sub := fun _ _ _ _ => rfl
  unfold State.settleSlot14
  dsimp only
  split
  · split
    · rfl
    · exact (ne _ _ _ (by decide)).trans ((nb ..).trans ((ne _ _ _ (by decide)).trans ((nb ..).trans ((ne _ _ _ (by decide)).trans (ne _ _ _ (by decide))))))
  · exact (ne _ _ _ (by decide)).trans ((nb ..).trans ((ne _ _ _ (by decide)).trans ((nb ..).trans ((ne _ _ _ (by decide)).trans (ne _ _ _ (by decide))))))

/-- A remap of a cluster of which fewer than three cores are fenced touches the map and the degraded flags alone. -/
theorem State.remapCluster_num {s : State} {k : Nat} (hk : k < 64) (hn : (s.fencedIn k).length < 3) {o sub : Nat} (ho : 0x9140 ≤ o) (hs : sub < 256) (h9 : sub ≠ 9)
    (hA : sub ≠ 0x0A) : (s.remapCluster k).num o sub = s.num o sub := by
  unfold State.remapCluster
  dsimp only
  rw [if_neg (by omega : ¬ 3 ≤ (s.fencedIn k).length), State.num_setNum_ne _ _ (by unfold objKey; omega)]
  split
  · rfl
  · rw [State.raise_num hs h9 hA (by omega) _ (by exact (by decide : (0x12 : Nat) < 256)), if_neg (by omega), State.num_setNum_ne _ _ (by unfold objKey; omega)]

theorem State.liftFences_left (s : State) {k : Nat} (hk : k < 64) : (s.liftFences k).power = s.power ∧
    (∀ i, i < 9 → (s.liftFences k).coreFenced (9 * k + i) = false) ∧
    ∀ o sub, 0xB000 ≤ o → sub < 9 → (s.liftFences k).num o sub = s.num o sub := by
  rw [State.liftFences_eq]
  have hlt : ∀ pc ∈ rangeFrom (9 * k) 9, pc < 576 := fun pc h => by
    have := mem_rangeFrom.1 h
    omega
  have hbit : ∀ i, i < 9 → ((s.forEach (rangeFrom (9 * k) 9) State.liftCore).num (0x9150 + (9 * k + i) / 36) 1).testBit ((9 * k + i) % 36) = false := fun i hi =>
    State.liftCores_bit (by omega) _ s hlt (.inl (mem_rangeFrom.2 (by omega)))
  have hpow : (s.forEach (rangeFrom (9 * k) 9) State.liftCore).power = s.power := by
    refine Blind.forEach (Φ := State.power) ?_ _ s
    exact fun _ _ => rfl
  have hnum : ∀ o sub, 0xB000 ≤ o → sub < 9 → (s.forEach (rangeFrom (9 * k) 9) State.liftCore).num o sub = s.num o sub := fun o sub ho hs =>
    State.forEach_num_mem (fun t pc hpc => by
      have := hlt pc hpc
      refine State.liftCore_num t (by unfold objKey; omega) ?_
      unfold objKey bankFenceKey
      dsimp only
      omega) s
  generalize s.forEach (rangeFrom (9 * k) 9) State.liftCore = u at hbit hpow hnum ⊢
  have hv : ∀ o sub, objKey o sub ≠ objKey 0x9160 1 → (u.setNum 0x9160 1 (withoutBit (u.num 0x9160 1) k)).num o sub = u.num o sub :=
    fun o sub hne => State.num_setNum_ne u _ hne
  have hc : ((u.setNum 0x9160 1 (withoutBit (u.num 0x9160 1) k)).num 0x9160 1).testBit k = false := by
    rw [State.num_setNum_same, testBit_withoutBit]
    simp
  have hvp : (u.setNum 0x9160 1 (withoutBit (u.num 0x9160 1) k)).power = u.power := rfl
  generalize u.setNum 0x9160 1 (withoutBit (u.num 0x9160 1) k) = v at hv hc hvp ⊢
  have hvb : ∀ i, i < 9 → (v.num (0x9150 + (9 * k + i) / 36) 1).testBit ((9 * k + i) % 36) = false := fun i hi => by
    rw [hv _ _ (by unfold objKey; omega)]
    exact hbit i hi
  have hin : v.fencedIn k = [] := List.filter_eq_nil_iff.2 fun i hi => by
    have h := hvb i (List.mem_range.1 hi)
    have := List.mem_range.1 hi
    rw [show (9 * k + i) / 36 = k / 4 by omega, show (9 * k + i) % 36 = k % 4 * 9 + i by omega] at h
    rw [h]
    decide
  have hlen : (v.fencedIn k).length < 3 := by rw [hin]; decide
  have hr : ∀ o sub, 0x9140 ≤ o → sub < 9 → ((v.remapCluster k).settleSlot14).num o sub = v.num o sub := fun o sub ho hs =>
    (State.settleSlot14_num _ (by omega) (by omega)).trans (State.remapCluster_num hk hlen ho (by omega) (by omega) (by omega))
  refine ⟨?_, fun i hi => ?_, fun o sub ho hs => ?_⟩
  · rw [(unmoved_power 0).settleSlot14, (unmoved_power 0).remapCluster, hvp, hpow]
  · rw [State.coreFenced, State.clusterFenced, hr _ _ (by omega) (by decide), hr _ _ (by decide) (by decide), hvb i hi,
      show clusterOfPhys (9 * k + i) = k by unfold clusterOfPhys; omega, hc]
    rfl
  · rw [hr _ _ (by omega) hs, hv _ _ (by unfold objKey; omega), hnum _ _ ho hs]

theorem regionCluster_lt {r k : Nat} (h : regionCluster r = some k) : k < 64 ∧ r < 80 := by
  unfold regionCluster at h
  split at h
  · have := Option.some.inj h
    omega
  · exact nomatch h

/-- The strip that was asked for has ended (R547, R624). -/
theorem State.requestedEnd_left (s : State) {r : Nat} (hr : r < 128) (fences : Bool) (v : Nat) :
    (s.requestedEnd r fences v).num (0xB100 + r) 3 = s.num (0xB100 + r) 3 ∧ (s.requestedEnd r fences v).power.requested = none ∧
      (s.requestedEnd r fences v).num 0xB010 2 = 2 ∧
      ∀ k i, regionCluster r = some k → fences = true → v = 1 → i < 9 → (s.requestedEnd r fences v).coreFenced (9 * k + i) = false := by
  unfold State.requestedEnd
  extract_lets pw s1 s2
  have h1 : s1.num 0xB010 2 = 2 ∧ s1.num (0xB100 + r) 3 = s.num (0xB100 + r) 3 ∧ s1.power.requested = none :=
    ⟨State.num_setNum_same .., State.num_setNum_ne _ _ (by unfold objKey; omega), rfl⟩
  clear_value s1
  have h2 : s2.power = s1.power ∧ (∀ o sub, 0xB000 ≤ o → sub < 9 → s2.num o sub = s1.num o sub) ∧
      ∀ k i, regionCluster r = some k → fences = true → v = 1 → i < 9 → s2.coreFenced (9 * k + i) = false := by
    simp only [s2]
    split
    next k hk =>
      obtain ⟨g1, g2, g3⟩ := s1.liftFences_left (regionCluster_lt hk).1
      split
      · refine ⟨g1, g3, fun k' i hk' _ _ hi => ?_⟩
        obtain rfl : k' = k := Option.some.inj (hk'.symm.trans hk)
        exact g2 i hi
      next hne => exact ⟨rfl, fun _ _ _ _ => rfl, fun _ _ _ hf hv _ => absurd (by rw [hf, hv]; rfl) hne⟩
    next hk => exact ⟨rfl, fun _ _ _ _ => rfl, fun _ _ hk' => nomatch hk.symm.trans hk'⟩
  clear_value s2
  obtain ⟨hp, hn⟩ := s2.leavePipe_kept hr
  obtain ⟨g1, g2, g3⟩ := h2
  obtain ⟨e1, e2, e3⟩ := h1
  refine ⟨(hn _ _ (by omega) (by decide)).trans ((g2 _ _ (by omega) (by decide)).trans e2), by rw [hp, g1, e3],
    (hn _ _ (by omega) (by decide)).trans ((g2 _ _ (by decide) (by decide)).trans e1), fun k i hk hf hv hi => ?_⟩
  rw [if_neg (by have := (regionCluster_lt hk).2; omega)]
  exact g3 k i hk hf hv hi

theorem State.holdPipe_kept (s : State) (d : Nat) : (s.holdPipe d).power = s.power ∧ (s.holdPipe d).out = s.out ∧
    ∀ o, (s.holdPipe d).num o 2 = s.num o 2 := by
  unfold State.holdPipe
  split
  · exact ⟨rfl, rfl, fun _ => rfl⟩
  · exact ⟨rfl, rfl, fun o => State.num_setNum_ne s 3 (by unfold objKey; omega)⟩

theorem State.startStrip_left (s : State) (r : Nat) (fences : Bool) : (s.startStrip r fences).power.requested = some (r, fences) ∧
    (s.startStrip r fences).num 0xB010 2 = 1 ∧ (s.startStrip r fences).out = s.out := by
  unfold State.startStrip
  extract_lets pw s1 s2
  have h2 : s2.power.requested = some (r, fences) ∧ s2.num 0xB010 2 = 1 ∧ s2.out = s.out := by
    simp only [s2]
    rw [State.testRegion_power, State.testRegion_num, State.testRegion_out]
    exact ⟨rfl, State.num_setNum_same .., rfl⟩
  clear_value s2
  obtain ⟨g1, g2, g3⟩ := h2
  split
  · obtain ⟨e1, e2, e3⟩ := s2.holdPipe_kept (r - 124)
    rw [e1, e2, e3]
    exact ⟨g1, g2, g3⟩
  · exact ⟨g1, g2, g3⟩

theorem execStripRound_next {s : State} {k : Nat} (hb : s.power.phase = .bringUp) (hr : s.power.round = some k) (hk : k < 4) (ht : s.power.testing = []) :
    ∃ t, exec .stripRound s = .next t ∧ t.power.round = some (k + 1) ∧ t.power.testing = roundRegions k := by
  refine ⟨_, rfl, ?_⟩
  rw [hr]
  dsimp only
  rw [if_neg (by rw [hb, ht]; simp; omega)]
  rw [(State.holdPipe_kept ..).1]
  exact ⟨rfl, rfl⟩

/-- Settles O46, by what each event of a strip writes. -/
theorem testStripsRun : Obligations.TestStripsRun := by
  unfold Obligations.TestStripsRun
  intro s path
  refine ⟨fun k => execStripRound_next, fun region signature aborted => ?_, fun region hacc => ?_, fun region hacc => ?_, fun value hacc => ?_⟩
  · intro r v sub
    have hr : r < 128 := region.isLt
    obtain ⟨d, u, hu, hj, hn, hb⟩ := (s.testRegion r).judge_left hr signature aborted
    have hv : stripValue r ((s.testRegion r).num 0x1000 6) signature aborted = v := by
      rw [State.testRegion_num]
      rfl
    rw [hv] at hj hn hb
    have hpow : u.power = s.power := by rw [hu]; exact State.testRegion_power ..
    have hx : exec (.stripEnd region signature aborted) s = execStripEnd region signature aborted s := rfl
    refine ⟨fun ht hround => ?_, fun ht hround => ?_, fun fences ht hreq => ?_⟩
    · have hxt : exec (.stripEnd region signature aborted) s = .next (u.roundDone r) := by
        rw [hx, execStripEnd]
        dsimp only
        rw [if_pos ht, hj]
      obtain ⟨g1, g2, g3, g4⟩ := State.roundDone_early (s := u) hr (by rw [hpow]; exact hround)
      refine ⟨_, hxt, (g1 _ _ (by omega) (by decide)).trans hn, g2, ?_, by rw [g3, hpow], fun k hk => ?_⟩
      · rw [g1 _ _ (by omega) (by simp only [sub]; split <;> decide)]
        exact hb
      · obtain ⟨c1, c2⟩ := s.testRegion_cluster hk
        obtain ⟨e1, e2⟩ := g4 (by have := (regionCluster_lt hk).2; omega)
        refine ⟨?_, fun i hi => ?_⟩
        · rw [State.cluster, e1, hu]
          exact c1
        · rw [State.core, e2, hu]
          exact c2 i hi
    · have hxt : exec (.stripEnd region signature aborted) s = .next (u.roundDone r) := by
        rw [hx, execStripEnd]
        dsimp only
        rw [if_pos (by rw [ht]; simp [r]), hj]
      exact ⟨_, hxt, State.roundDone_last (s := u) (by rw [hpow]; exact ht) (by rw [hpow]; exact hround) hr⟩
    · have hxt : exec (.stripEnd region signature aborted) s = .next (u.requestedEnd r fences v) := by
        rw [hx, execStripEnd]
        dsimp only
        rw [if_neg (by rw [ht]; decide), hreq]
        dsimp only
        rw [if_neg (by simp [r]), hj]
      obtain ⟨g1, g2, g3, g4⟩ := u.requestedEnd_left hr fences v
      exact ⟨_, hxt, g1.trans hn, g2, g3, g4⟩
  · intro used
    obtain ⟨len, e⟩ := State.writeVia_accepted hacc fun s => s.requestStrip region.toNat false
    refine ⟨fun hused hreq => ?_, fun hused => ?_⟩
    · have hrs : s.requestStrip region.toNat false = (s.startStrip region.toNat false, 0) := by
        unfold State.requestStrip
        dsimp only
        refine (if_neg (?_ : ¬ used = true)).trans (if_neg ?_)
        · rw [hused]
          decide
        · rw [hreq]
          decide
      rw [hrs] at e
      obtain ⟨g1, g2, g3⟩ := s.startStrip_left region.toNat false
      refine ⟨_, congrArg Host.Outcome.next e, ?_, ?_, ?_⟩
      · rw [State.answered_rest]
        exact g1
      · rw [State.reply_num, State.xwNote_num, g2]
      · rw [Told, State.answered_rest, g3]
    · have hrs : s.requestStrip region.toNat false = (s, 0x0B03) := by
        unfold State.requestStrip
        dsimp only
        exact if_pos hused
      rw [hrs] at e
      refine ⟨_, congrArg Host.Outcome.next e, ?_, ?_, ?_⟩
      · rw [State.answered_rest]
      · rw [State.answered_rest]
      · rw [Told, State.answered_rest]
  · obtain ⟨len, e⟩ := State.writeVia_accepted hacc State.runEngine
    by_cases hsig : Config.engineSigned (s.blob 0xB200 1) = true
    · have hrun : s.runEngine = ((s.setBlob 0xB200 3 (s.freeBytes 61 ((Config.freeWord 61 s.freeCtr).toNat % 16777213))).drawn, 0) := by
        rw [State.runEngine, if_neg (by rw [hsig]; decide)]
      rw [hrun] at e
      refine ⟨_, congrArg Host.Outcome.next e, ?_, ?_, ?_⟩
      · rw [State.answered_rest]
        rfl
      · rw [State.answered_rest]
        exact ⟨fun _ => ⟨rfl, rfl⟩, fun _ => rfl, rfl⟩
      · rw [if_pos hsig, Told, State.answered_rest]
        rfl
    · have hrun : s.runEngine = (s, 0x0804) := by
        rw [State.runEngine, if_pos (by simpa using hsig)]
      rw [hrun] at e
      refine ⟨_, congrArg Host.Outcome.next e, ?_, ?_, ?_⟩
      · rw [State.answered_rest]
      · rw [State.answered_rest]
        exact ⟨fun _ => ⟨rfl, rfl⟩, fun _ => rfl, rfl⟩
      · rw [if_neg hsig, Told, State.answered_rest]
        exact ⟨rfl, rfl⟩
  · obtain ⟨len, e⟩ := State.writeDo_accepted hacc fun s => s.setNum 0xB0F0 5 0
    refine ⟨_, congrArg Host.Outcome.next e, ?_, ?_⟩
    · rw [State.reply_num, State.xwNote_num, State.num_setNum_same]
    · rw [Told, State.answered_rest]
      rfl

end Sys2Proof.Machine
end

section
/-! SUPPORT. What a reset clears and keeps, and what bring-up sets (Table 17-8). -/

namespace Sys2Proof.Machine

theorem tabGet_filter {α : Type} (d : α) (keep : Nat → Bool) (k : Nat) (l : Tab α) :
    tabGet d (l.filter fun e => keep e.1) k = if keep k then tabGet d l k else d := by
  induction l with
  | nil => exact (ite_self _).symm
  | cons e l ih =>
    obtain ⟨j, v⟩ := e
    by_cases hj : j = k
    · subst hj
      cases hk : keep j with
      | true => simp [hk, tabGet]
      | false =>
        rw [List.filter_cons_of_neg (by simp [hk]), ih, hk]
        rfl
    · have hget : tabGet d ((j, v) :: l) k = tabGet d l k := if_neg hj
      rw [hget, ← ih]
      cases hk : keep j with
      | true =>
        rw [List.filter_cons_of_pos (by simp [hk])]
        exact if_neg hj
      | false => rw [List.filter_cons_of_neg (by simp [hk])]

/-- The objects that a reset of class `c` keeps. -/
def keptAt (c : ResetClass) (k : Nat) : Bool := nonvolatile k || sensor k || (c != .cold && retained k)

/-- The state that a reset of class `c` clears to, before the nonce is renewed and the stacks' own state comes back. -/
def State.wiped (s : State) (c : ResetClass) : State := { State.reset with
    pending := s.pending, out := s.out, freeCtr := s.freeCtr
    now := if c = .cold then 0 else s.now
    eventSeq := if c = .cold then 0 else s.eventSeq
    dict := s.dict.filter fun e => keptAt c e.1
    blobs := s.blobs.filter fun e => keptAt c e.1
    dram := if c = .warm then s.dram else .empty
    power := { s.power with
      round := none, testing := [], requested := none, failed := c != .cold && s.power.failed, warm := c == .warm }
    security := { s.security with active1 := none, active2 := none, sessions := [], ide := [], ideSession := [] } }

theorem State.wiped_num (s : State) (c : ResetClass) (o sub : Nat) :
    (s.wiped c).num o sub = if keptAt c (objKey o sub) then s.num o sub else objDefault (objKey o sub) := by
  have e : (s.wiped c).num o sub = (tabGet none (s.dict.filter fun e => keptAt c e.1) (objKey o sub)).getD (objDefault (objKey o sub)) := rfl
  rw [e, tabGet_filter]
  split <;> rfl

/-- The stacks' own state after a reset: it stands beside everything else. -/
def State.stacksBack (s : State) (c : ResetClass) (l : Tab Stack) : State := s.forEach l fun t e => t.setStack e.1 (e.2.afterReset c)

/-- A warm reset copies the map of each stack's copied blocks. -/
def State.mapsBack (s before : State) : State :=
  s.forEach (List.range 24) fun t k => t.setNum 0x5520 (sub1 k) (before.num 0x5520 (sub1 k))

theorem State.cleared_eq (s : State) (c : ResetClass) :
    s.cleared c = (if c = .warm then ((s.wiped c).stacksBack c s.hbm).mapsBack s else (s.wiped c).stacksBack c s.hbm).newNonce := rfl

/-- What a reset neither of the stacks' state nor of their maps changes. -/
structure Apart (s t : State) : Prop where
  rest : (t.dram, t.cores, t.clusters, t.parts, t.now, t.out, t.power, t.security) = (s.dram, s.cores, s.clusters, s.parts, s.now, s.out, s.power, s.security)
  num : ∀ o sub, o ≠ 0x5520 → sub < 256 → t.num o sub = s.num o sub

theorem Apart.trans {s t u : State} (h : Apart s t) (g : Apart t u) : Apart s u :=
  ⟨g.rest.trans h.rest, fun o sub ho hs => (g.num o sub ho hs).trans (h.num o sub ho hs)⟩

theorem Apart.stacksBack (s : State) (c : ResetClass) (l : Tab Stack) : Apart s (s.stacksBack c l) := by
  refine ⟨?_, fun o sub _ _ => ?_⟩
  · refine Blind.forEach (Φ := fun t : State => (t.dram, t.cores, t.clusters, t.parts, t.now, t.out, t.power, t.security)) ?_ l s
    exact fun _ _ => rfl
  · refine State.forEach_num ?_ l s
    exact fun _ _ => rfl

theorem Apart.mapsBack (s before : State) : Apart s (s.mapsBack before) := by
  refine ⟨?_, fun o sub ho hs => ?_⟩
  · refine Blind.forEach (Φ := fun t : State => (t.dram, t.cores, t.clusters, t.parts, t.now, t.out, t.power, t.security)) ?_ _ s
    exact fun _ _ => rfl
  · refine State.forEach_num_mem (fun t k hk => ?_) s
    have := List.mem_range.1 hk
    exact State.num_setNum_ne t _ (by unfold objKey sub1; omega)

theorem State.cleared_apart (s : State) (c : ResetClass) : Apart (s.wiped c) (s.cleared c) := by
  have nonce : ∀ t : State, Apart t t.newNonce := fun t => ⟨rfl, fun _ _ _ _ => rfl⟩
  rw [State.cleared_eq]
  split
  · exact ((Apart.stacksBack ..).trans (.mapsBack ..)).trans (nonce _)
  · exact (Apart.stacksBack ..).trans (nonce _)

theorem State.cleared_num (s : State) (c : ResetClass) {o sub : Nat} (ho : o ≠ 0x5520) (hs : sub < 256) :
    (s.cleared c).num o sub = if keptAt c (objKey o sub) then s.num o sub else objDefault (objKey o sub) :=
  ((s.cleared_apart c).num o sub ho hs).trans (s.wiped_num c o sub)

theorem State.cleared_rest (s : State) (c : ResetClass) : (s.cleared c).dram = (if c = .warm then s.dram else .empty) ∧ (s.cleared c).cores = [] ∧
    (s.cleared c).now = (if c = .cold then 0 else s.now) ∧ (s.cleared c).out = s.out ∧ (s.cleared c).power = { s.power with
      round := none, testing := [], requested := none, failed := c != .cold && s.power.failed, warm := c == .warm } := by
  have h := (s.cleared_apart c).rest
  simp only [Prod.mk.injEq] at h
  obtain ⟨h1, h2, -, -, h3, h4, h5, -⟩ := h
  exact ⟨h1, h2, h3, h4, h5⟩

/-- `t` follows `s` by what is told and written down of an event. -/
def Noticed (s t : State) : Prop := ∃ o d b n g, t = { s with out := o, dict := d, blobs := b, eventSeq := n, eventGap := g }

theorem Noticed.trans {s t u : State} (h : Noticed s t) (g : Noticed t u) : Noticed s u := by
  obtain ⟨_, _, _, _, _, rfl⟩ := h
  obtain ⟨o, d, b, n, g, rfl⟩ := g
  exact ⟨o, d, b, n, g, rfl⟩

theorem Noticed.setNum (s : State) (o k v : Nat) : Noticed s (s.setNum o k v) := ⟨_, _, _, _, _, rfl⟩

theorem Noticed.setBlob (s : State) (o k : Nat) (b : List Byte) : Noticed s (s.setBlob o k b) := ⟨_, _, _, _, _, rfl⟩

theorem Noticed.emit (s : State) (x : Output) : Noticed s (s.emit x) := ⟨_, _, _, _, _, rfl⟩

theorem Noticed.seq (s : State) (n : Nat) : Noticed s { s with eventSeq := n } := ⟨_, _, _, _, _, rfl⟩

theorem Noticed.gap (s : State) (b : Bool) : Noticed s { s with eventGap := b } := ⟨_, _, _, _, _, rfl⟩

theorem Noticed.eventRing (s : State) (kind : Nat) (rcd : List Byte) : Noticed s (s.eventRing kind rcd) := by
  unfold State.eventRing
  dsimp only
  split
  · exact ⟨_, _, _, _, _, rfl⟩
  · split
    · exact (Noticed.setNum s _ _ _).trans (.gap ..)
    · have h := ((Noticed.emit s (.hostWrite (s.num 0x9000 1 + s.num 0x9000 4 % s.num 0x9000 2 * 32) rcd)).trans
        (.setNum _ 0x9000 4 ((s.num 0x9000 4 + 1) % 2 ^ 32))).trans (.gap _ false)
      split
      · exact h
      · exact h.trans (.emit ..)

/-- An event of no partition: nothing but the event ring and what is sent. -/
theorem Noticed.raise (s : State) {e : Event} (he : e.part = none) : Noticed s (s.raise e) := by
  unfold State.raise
  extract_lets rcd kept b s1 s2
  have h1 : Noticed s s1 := ((Noticed.setBlob ..).trans (.setNum ..)).trans (.seq ..)
  have h2 : Noticed s1 s2 := .eventRing ..
  rw [he]
  exact h1.trans h2

/-! ### Bring-up -/

/-- An object that bring-up leaves. -/
structure BootKept (o sub : Nat) : Prop where
  trace : Untraced o sub
  object : o ≠ 0x2010 ∧ o ≠ 0xA000 ∧ o ≠ 0x1000 ∧ o ≠ 0x9200 ∧ o ≠ 0x9000 ∧ o ≠ 0x9002

/-- `t` follows `s` by bring-up, or by what waits for it. -/
structure Started (s t : State) : Prop where
  dram : t.dram = s.dram
  cores : t.cores = s.cores
  now : t.now = s.now
  env : t.power.env = s.power.env
  mid : t.power.mid = s.power.mid
  perst : t.power.perst = s.power.perst
  num : ∀ o sub, BootKept o sub → t.num o sub = s.num o sub
  out : SaysMore s t

theorem Started.refl (s : State) : Started s s := ⟨rfl, rfl, rfl, rfl, rfl, rfl, fun _ _ _ => rfl, .refl s⟩

theorem Started.trans {s t u : State} (h : Started s t) (g : Started t u) : Started s u :=
  ⟨g.dram.trans h.dram, g.cores.trans h.cores, g.now.trans h.now, g.env.trans h.env, g.mid.trans h.mid, g.perst.trans h.perst,
    fun o sub hk => (g.num o sub hk).trans (h.num o sub hk), h.out.trans g.out⟩

theorem Started.setNum (s : State) {o k : Nat} (v : Nat) (ho : o = 0x2010 ∨ o = 0xA000 ∨ o = 0x1000 ∨ o = 0x9200) (hk : k < 256) : Started s (s.setNum o k v) := by
  refine ⟨rfl, rfl, rfl, rfl, rfl, rfl, fun o' sub h => State.num_setNum_ne s v ?_, fun _ h => h⟩
  obtain ⟨h1, h2, h3, h4, -, -⟩ := h.object
  have := h.trace.2
  unfold objKey
  omega

theorem Started.phaseTo (s : State) (p : Phase) : Started s (s.phaseTo p) := ⟨rfl, rfl, rfl, rfl, rfl, rfl, fun _ _ _ => rfl, fun _ h => h⟩

theorem Started.security (s : State) (v : Security) : Started s { s with security := v } := ⟨rfl, rfl, rfl, rfl, rfl, rfl, fun _ _ _ => rfl, fun _ h => h⟩

theorem Started.power (s : State) (p : Power) (h : (p.env, p.mid, p.perst) = (s.power.env, s.power.mid, s.power.perst)) (c : Conductor) :
    Started s { s with conductor := c, power := p } := by
  simp only [Prod.mk.injEq] at h
  exact ⟨rfl, rfl, rfl, h.1, h.2.1, h.2.2, fun _ _ _ => rfl, fun _ h => h⟩

theorem Started.pwrgdPin (s : State) (v : Bool) : Started s (s.pwrgdPin v) := by
  unfold State.pwrgdPin
  split
  · exact .refl s
  · exact ⟨rfl, rfl, rfl, rfl, rfl, rfl, fun _ _ _ => rfl, fun _ h => List.mem_append_left _ h⟩

theorem Started.faultPin (s : State) (v : Bool) : Started s (s.faultPin v) := by
  unfold State.faultPin
  split
  · exact .refl s
  · exact ⟨rfl, rfl, rfl, rfl, rfl, rfl, fun _ _ _ => rfl, fun _ h => List.mem_append_left _ h⟩

theorem Started.raise (s : State) {e : Event} (he : e.part = none) (hk : e.kind < 256) : Started s (s.raise e) := by
  obtain ⟨_, _, _, _, _, h⟩ := Noticed.raise s he
  refine ⟨by rw [h], by rw [h], by rw [h], by rw [h], by rw [h], by rw [h], fun o sub hb => ?_, .raise s e⟩
  obtain ⟨-, -, -, -, h0, h2⟩ := hb.object
  exact State.raise_untraced hb.trace h0 h2 s hk fun p hp => absurd (he.symm.trans hp) nofun

theorem State.pwrgdPin_power (s : State) (v : Bool) : (s.pwrgdPin v).power = { s.power with pwrgd := v } := by
  unfold State.pwrgdPin
  split
  next h => rw [← h]
  · rfl

theorem State.faultPin_power (s : State) (v : Bool) : (s.faultPin v).power = { s.power with fault := v } := by
  unfold State.faultPin
  split
  next h => rw [← h]
  · rfl

theorem State.bringUp_started (s : State) : Started s s.bringUp ∧ s.bringUp.power.phase = .bringUp := by
  unfold State.bringUp
  extract_lets s1
  have h1 : Started s s1 := ((Started.phaseTo ..).trans (.pwrgdPin ..)).trans (.setNum _ _ (.inl rfl) (by decide))
  have hp1 : s1.power.phase = .bringUp := by
    have e : s1.power = ((s.phaseTo .bringUp).pwrgdPin true).power := rfl
    rw [e, State.pwrgdPin_power]
    rfl
  clear_value s1
  have hfault : ∀ t : State, (t.faultPin true).power.phase = t.power.phase := fun t => by rw [State.faultPin_power]
  split
  next a b _ _ =>
    split
    · exact ⟨h1.trans (.faultPin ..), by rw [State.faultPin_power, hp1]⟩
    · extract_lets f s2 s3 s4 pw s5
      have h2 : Started s1 s2 := .security ..
      have h3 : Started s2 s3 := ((Started.setNum s2 a (.inr (.inl rfl)) (by decide)).trans
        (.setNum _ f.version (.inr (.inr (.inl rfl))) (by decide))).trans (.faultPin ..)
      have h4 : Started s3 s4 := ((Started.setNum s3 0 (.inr (.inr (.inr rfl))) (by decide)).trans
        (.setNum _ 1 (.inr (.inr (.inr rfl))) (by decide))).trans (.setNum _ 0xF (.inr (.inr (.inr rfl))) (by decide))
      have h5 : Started s4 s5 := .power s4 { s4.power with round := some 0 } rfl _
      have hp5 : s5.power.phase = s3.power.phase := rfl
      have hp3 : s3.power.phase = s1.power.phase := by
        simp only [s3]
        rw [State.faultPin_power]
        rfl
      have h := ((h1.trans h2).trans h3).trans (h4.trans h5)
      clear_value s5 s4 s3
      have he : (Event.of 0x16 s5.conductorUnit (2 ^ 16 + 3 * 2 ^ 32)).part = none := rfl
      refine ⟨h.trans (.raise s5 he (by exact (by decide : (0x16 : Nat) < 256))), ?_⟩
      obtain ⟨_, _, _, _, _, hr⟩ := Noticed.raise s5 he
      rw [hr]
      exact hp5.trans (hp3.trans hp1)
  · refine ⟨h1.trans ((Started.power s1 { s1.power with failed := true } rfl s1.conductor).trans (.faultPin ..)), ?_⟩
    rw [State.faultPin_power]
    exact hp1

/-- Bring-up, or the wait for the supply. -/
theorem State.upOrWait_started (s : State) : Started s s.upOrWait ∧ s.upOrWait.power.phase = if s.power.supplyOk then .bringUp else .auxOnly := by
  unfold State.upOrWait
  split
  · exact s.bringUp_started
  · refine ⟨(Started.phaseTo ..).trans (.pwrgdPin ..), ?_⟩
    rw [State.pwrgdPin_power]
    rfl

theorem State.resetNote_num {o sub : Nat} (h : o ≠ 0xB0F0 ∨ sub ≠ 4 ∧ sub ≠ 6) (hs : sub < 256) (s : State) (cause at_ : Nat) :
    (s.resetNote cause at_).num o sub = s.num o sub :=
  (State.num_setNum_ne _ _ (by unfold objKey; omega)).trans (State.num_setNum_ne _ _ (by unfold objKey; omega))

theorem State.resetNote_cause (s : State) (cause at_ : Nat) : (s.resetNote cause at_).num 0xB0F0 4 = cause ∧ (s.resetNote cause at_).num 0xB0F0 6 = at_ :=
  ⟨(State.num_setNum_ne _ _ (by decide)).trans (State.num_setNum_same ..), State.num_setNum_same ..⟩

theorem BootKept.of {o sub : Nat} (ho : o = 0xB0F0 ∨ o = 0x1010 ∨ o = 0x8F00 ∨ o = 0x5500 ∨ o = 0x8E10 ∨ o = 0xB300) (hs : sub < 256) : BootKept o sub :=
  ⟨⟨by omega, hs⟩, by omega⟩

/-- What a warm reset leaves (R551). -/
theorem State.warmReset_left (s : State) (cause : Nat) : let t := s.warmReset cause
    (t.dram = s.dram ∧ t.cores = [] ∧ t.power.phase = .bringUp ∧ t.num 0xB0F0 4 = cause ∧ t.num 0xB0F0 6 = s.now ∧ t.now = s.now ∧ t.num 0x1010 2 = 0 ∧
      t.num 0x8F00 1 = s.num 0x8F00 1 ∧ t.num 0x5500 1 = s.num 0x5500 1) ∧ t.power.perst = s.power.perst ∧ SaysMore s t := by
  intro t
  obtain ⟨hdram, hcores, hnow, hout, hpow⟩ := s.cleared_rest .warm
  have hnum : ∀ {o sub}, o ≠ 0x5520 → sub < 256 → _ := fun {o sub} ho hs => s.cleared_num .warm (o := o) (sub := sub) ho hs
  have ht : t = ((s.cleared .warm).resetNote cause s.now).bringUp := rfl
  clear_value t
  generalize s.cleared .warm = u at *
  obtain ⟨hst, hphase⟩ := (u.resetNote cause s.now).bringUp_started
  rw [← ht] at hst hphase
  obtain ⟨n4, n6⟩ := u.resetNote_cause cause s.now
  have keep : ∀ o sub, o ≠ 0xB0F0 → o = 0xB0F0 ∨ o = 0x1010 ∨ o = 0x8F00 ∨ o = 0x5500 ∨ o = 0x8E10 ∨ o = 0xB300 → sub < 256 → t.num o sub = u.num o sub :=
    fun o sub hne ho hs => (hst.num o sub (.of ho hs)).trans (State.resetNote_num (.inl hne) hs ..)
  refine ⟨⟨?_, ?_, hphase, ?_, ?_, ?_, ?_, ?_, ?_⟩, ?_, fun x hx => hst.out x (by rw [← hout] at hx; exact hx)⟩
  · exact hst.dram.trans (hdram.trans (if_pos rfl))
  · exact hst.cores.trans hcores
  · exact (hst.num _ _ (.of (.inl rfl) (by decide))).trans n4
  · exact (hst.num _ _ (.of (.inl rfl) (by decide))).trans n6
  · exact hst.now.trans (hnow.trans (if_neg (by decide)))
  · rw [keep _ _ (by decide) (by decide) (by decide), hnum (by decide) (by decide), if_neg (by decide)]
    decide +kernel
  · rw [keep _ _ (by decide) (by decide) (by decide), hnum (by decide) (by decide)]
    rfl
  · rw [keep _ _ (by decide) (by decide) (by decide), hnum (by decide) (by decide)]
    rfl
  · have e : t.power.perst = u.power.perst := hst.perst
    rw [e, hpow]

end Sys2Proof.Machine
end

section
/-! SUPPORT. Resets written, supplies that come and go, and the comparators' pins. -/

namespace Sys2Proof.Machine

theorem State.writeReset_accepted {s : State} {path : Path} {o sub v : Nat} (h : Accepted s path o sub v) (check : State → Nat) (op : State → State) :
    ∃ hp, (check s = 0 → s.writeReset path o sub v check op = op { s with host := hp, out := s.out ++ [.response path.num 0 []] }) ∧
      (check s ≠ 0 → s.writeReset path o sub v check op = { s with host := hp, out := s.out ++ [.response path.num (check s) []] }) := by
  obtain ⟨hs, hc⟩ := h
  refine ⟨(s.xwNote path o sub 2 1 0 (check s) (leBytes 1 v)).host, fun h0 => ?_, fun h0 => ?_⟩
  · rw [State.writeReset, if_neg (by rw [hs]; decide)]
    rw [hc]
    dsimp only
    rw [if_pos h0, State.answered_rest, h0]
    rfl
  · rw [State.writeReset, if_neg (by rw [hs]; decide)]
    rw [hc]
    dsimp only
    rw [if_neg h0, State.answered_rest]
    rfl

theorem State.resetCheck_idle {s : State} (h : s.num 0x2000 1 = 0 ∧ s.num 0x2000 2 = 0) : s.resetCheck = 0 := if_pos h

theorem State.resetCheck_busy {s : State} (h : ¬ (s.num 0x2000 1 = 0 ∧ s.num 0x2000 2 = 0)) : s.resetCheck = 0x0103 := if_neg h

/-- What a cold reset leaves (R552). -/
theorem State.coldReset_left (s : State) (cause : Nat) : let t := s.coldReset cause
    t.dram = .empty ∧ t.cores = [] ∧ t.now = 0 ∧ t.num 0xB0F0 4 = cause ∧ t.num 0x5500 1 = s.num 0x5500 1 ∧
      t.num 0x8F00 1 = objDefault (objKey 0x8F00 1) ∧ SaysMore s t := by
  intro t
  obtain ⟨hdram, hcores, hnow, hout, hpow⟩ := s.cleared_rest .cold
  have hnum : ∀ {o sub}, o ≠ 0x5520 → sub < 256 → _ := fun {o sub} ho hs => s.cleared_num .cold (o := o) (sub := sub) ho hs
  have ht : t = (((s.cleared .cold).latch).resetNote cause 0).upOrWait := rfl
  clear_value t
  generalize s.cleared .cold = u at *
  obtain ⟨hst, -⟩ := (u.latch.resetNote cause 0).upOrWait_started
  rw [← ht] at hst
  obtain ⟨n4, -⟩ := u.latch.resetNote_cause cause 0
  have keep : ∀ o sub, o ≠ 0xB0F0 → o = 0xB0F0 ∨ o = 0x1010 ∨ o = 0x8F00 ∨ o = 0x5500 ∨ o = 0x8E10 ∨ o = 0xB300 → sub < 256 → t.num o sub = u.num o sub :=
    fun o sub hne ho hs => (hst.num o sub (.of ho hs)).trans (State.resetNote_num (.inl hne) hs ..)
  refine ⟨?_, ?_, ?_, ?_, ?_, ?_, fun x hx => hst.out x (by rw [← hout] at hx; exact hx)⟩
  · exact hst.dram.trans (hdram.trans (if_neg (by decide)))
  · exact hst.cores.trans hcores
  · exact hst.now.trans (hnow.trans (if_pos rfl))
  · exact (hst.num _ _ (.of (.inl rfl) (by decide))).trans n4
  · rw [keep _ _ (by decide) (by decide) (by decide), hnum (by decide) (by decide)]
    rfl
  · rw [keep _ _ (by decide) (by decide) (by decide), hnum (by decide) (by decide), if_neg (by decide)]

theorem State.toSleep_left (s : State) : let t := s.toSleep
    t.dram = .empty ∧ t.cores = [] ∧ t.power.phase = .asleep ∧ t.power.pwrgd = false ∧ t.num 0x8F00 1 = s.num 0x8F00 1 := by
  intro t
  obtain ⟨hdram, hcores, -, -, -⟩ := s.cleared_rest .input
  have hnum := s.cleared_num .input (o := 0x8F00) (sub := 1) (by decide) (by decide)
  have ht : t = ((s.cleared .input).phaseTo .asleep).pwrgdPin false := rfl
  clear_value t
  generalize s.cleared .input = u at *
  have hst : Started u t := by
    rw [ht]
    exact (Started.phaseTo ..).trans (.pwrgdPin ..)
  have hp : t.power = { (u.phaseTo .asleep).power with pwrgd := false } := by rw [ht, State.pwrgdPin_power]
  refine ⟨hst.dram.trans (hdram.trans (if_neg (by decide))), hst.cores.trans hcores, by rw [hp]; rfl, by rw [hp], ?_⟩
  rw [hst.num _ _ (.of (by decide) (by decide)), hnum]
  rfl

/-! ### Supplies -/

theorem execPowerUp_off {s : State} (supply aux : BitVec 32) (env : BitVec 2) (mid : BitVec 4) (h : s.power.phase = .off) :
    (auxIn aux.toNat = true → ∃ t, exec (.powerUp supply aux env mid) s = .next t ∧
      t.power.phase = (if supplyIn supply.toNat then .bringUp else .auxOnly) ∧ t.power.env = env.toNat ∧ t.power.mid = mid.toNat ∧
      t.num 0x8E10 1 = supply.toNat) ∧
    (auxIn aux.toNat = false → ∃ t, exec (.powerUp supply aux env mid) s = .next t ∧ t.power.phase = .off ∧ t.dict = s.dict) := by
  have hx : exec (.powerUp supply aux env mid) s = execPowerUp supply aux env mid s := rfl
  refine ⟨fun ha => ?_, fun ha => ?_⟩
  · have hxt : exec (.powerUp supply aux env mid) s = .next (({ ((s.setNum 0x8E10 1 supply.toNat).setNum 0x8E10 3 aux.toNat) with
        power := { s.power with envPin := env.toNat, midPin := mid.toNat, supplyOk := supplyIn supply.toNat } } : State).latch.newNonce.upOrWait) := by
      rw [hx, execPowerUp]
      dsimp only
      rw [if_neg (by rw [ha]; simp)]
      change Host.Outcome.next (match s.power.phase with | _ => _) = _
      rw [h]
      rfl
    have hn : (({ ((s.setNum 0x8E10 1 supply.toNat).setNum 0x8E10 3 aux.toNat) with
        power := { s.power with envPin := env.toNat, midPin := mid.toNat, supplyOk := supplyIn supply.toNat } } : State).latch.newNonce).num 0x8E10 1 = supply.toNat :=
      (State.num_setNum_ne _ _ (by decide)).trans (State.num_setNum_same ..)
    have hp : (({ ((s.setNum 0x8E10 1 supply.toNat).setNum 0x8E10 3 aux.toNat) with
        power := { s.power with envPin := env.toNat, midPin := mid.toNat, supplyOk := supplyIn supply.toNat } } : State).latch.newNonce).power =
          { s.power with envPin := env.toNat, midPin := mid.toNat, supplyOk := supplyIn supply.toNat, env := env.toNat, mid := mid.toNat } := rfl
    generalize State.newNonce _ = u at hxt hn hp
    obtain ⟨hst, hphase⟩ := u.upOrWait_started
    refine ⟨_, hxt, ?_, ?_, ?_, (hst.num _ _ (.of (by decide) (by decide))).trans hn⟩
    · rw [hphase, hp]
    · rw [hst.env, hp]
    · rw [hst.mid, hp]
  · refine ⟨{ s with power := { s.power with envPin := env.toNat, midPin := mid.toNat, supplyOk := supplyIn supply.toNat } }, ?_, h, rfl⟩
    rw [hx, execPowerUp]
    dsimp only
    rw [if_pos ⟨h, by rw [ha]; rfl⟩]

/-! ### The comparators -/

theorem State.comparator_idle {s : State} {k : Nat} (h : s.power.phase ≠ .off) (hk : 4 ≤ k ∨ s.num 0xB300 (k + 1) ≠ 0)
    (hw : (s.power.phase == .asleep && (s.num 0xB300 8).testBit k) = false) (hf : (s.num 0xB300 9).testBit k = false) : s.comparator k = s := by
  unfold State.comparator
  rw [if_neg (not_or.2 ⟨h, by omega⟩)]
  dsimp only
  rw [if_pos (by rw [hw, hf]; rfl)]

theorem State.comparator_wakes {s : State} {k : Nat} (h : s.power.phase = .asleep) (hk : 4 ≤ k ∨ s.num 0xB300 (k + 1) ≠ 0)
    (hw : (s.num 0xB300 8).testBit k = true) (hf : (s.num 0xB300 9).testBit k = false) :
    s.comparator k = (s.setNum 0xB300 0xA (withBit (s.num 0xB300 0xA) k)).wake := by
  have hoff : s.power.phase ≠ .off := by rw [h]; decide
  have hww : (s.power.phase == .asleep && (s.num 0xB300 8).testBit k) = true := by rw [h, hw]; rfl
  unfold State.comparator
  rw [if_neg (not_or.2 ⟨hoff, by omega⟩)]
  dsimp only
  rw [if_neg (by rw [hww]; simp), if_pos hww, if_neg (by rw [hf]; decide)]

theorem State.comparator_faults {s : State} {k : Nat} (h : s.power.phase ≠ .off) (ha : s.power.phase ≠ .asleep) (hk : 4 ≤ k ∨ s.num 0xB300 (k + 1) ≠ 0)
    (hf : (s.num 0xB300 9).testBit k = true) : s.comparator k = (s.setNum 0xB300 0xA (withBit (s.num 0xB300 0xA) k)).faultPin true := by
  have hww : ¬ (s.power.phase == .asleep && (s.num 0xB300 8).testBit k) = true := by simp [ha]
  unfold State.comparator
  rw [if_neg (not_or.2 ⟨h, by omega⟩)]
  dsimp only
  rw [if_neg (by rw [hf]; simp), if_neg hww, if_pos hf]

/-- A sleeping module wakes (R558). -/
theorem State.wake_left (s : State) : let t := s.wake
    t.power.phase = (if s.power.supplyOk then .bringUp else .auxOnly) ∧ t.power.perst = s.power.perst ∧ t.num 0xB300 0xA = s.num 0xB300 0xA ∧ t.num 0xB0F0 4 = 8 := by
  intro t
  obtain ⟨-, -, -, -, hpow⟩ := s.cleared_rest .input
  have hnum := s.cleared_num .input (o := 0xB300) (sub := 0xA) (by decide) (by decide)
  have ht : t = ((s.cleared .input).resetNote 8 s.now).upOrWait := rfl
  clear_value t
  generalize s.cleared .input = u at *
  obtain ⟨hst, hphase⟩ := (u.resetNote 8 s.now).upOrWait_started
  rw [← ht] at hst hphase
  obtain ⟨n4, -⟩ := u.resetNote_cause 8 s.now
  have hup : (u.resetNote 8 s.now).power = u.power := rfl
  refine ⟨?_, ?_, ?_, (hst.num _ _ (.of (.inl rfl) (by decide))).trans n4⟩
  · rw [hphase, hup, hpow]
  · rw [hst.perst, hup, hpow]
  · rw [hst.num _ _ (.of (by decide) (by decide)), State.resetNote_num (.inl (by decide)) (by decide), hnum]
    rfl

theorem State.faultPin_eq (s : State) (v : Bool) : ∃ o, s.faultPin v = { s with power := { s.power with fault := v }, out := o } := by
  unfold State.faultPin
  split
  next h => exact ⟨s.out, by rw [← h]⟩
  · exact ⟨_, rfl⟩

theorem execPerstDeassert_asleep {s : State} (hp : s.power.perst = true) (h : s.power.phase = .asleep) (hf : (s.num 0xB300 9).testBit 7 = false) :
    ∃ t, exec .perstDeassert s = .next t ∧ t.power.perst = false ∧
      if (s.num 0xB300 8).testBit 7 then t.power.phase = (if s.power.supplyOk then .bringUp else .auxOnly) ∧
        (t.num 0xB300 0xA).testBit 7 = true ∧ t.num 0xB0F0 4 = 8
      else t = { s with power := t.power } := by
  have hx : exec .perstDeassert s = .next (({ s with power := { s.power with perst := false } } : State).comparator 7) := by
    have e : exec .perstDeassert s = execPerstDeassert s := rfl
    rw [e, execPerstDeassert, if_pos hp]
  by_cases hw : (s.num 0xB300 8).testBit 7 = true
  · rw [State.comparator_wakes (s := { s with power := { s.power with perst := false } }) h (.inl (by decide)) hw hf] at hx
    have hbit : ((({ s with power := { s.power with perst := false } } : State).setNum 0xB300 0xA (withBit (s.num 0xB300 0xA) 7)).num 0xB300 0xA).testBit 7 = true := by
      rw [State.num_setNum_same, testBit_withBit_same]
    have hpow : (({ s with power := { s.power with perst := false } } : State).setNum 0xB300 0xA (withBit (s.num 0xB300 0xA) 7)).power =
      { s.power with perst := false } := rfl
    change exec .perstDeassert s = .next (({ s with power := { s.power with perst := false } } : State).setNum 0xB300 0xA (withBit (s.num 0xB300 0xA) 7)).wake at hx
    generalize State.setNum _ _ _ _ = u at hx hbit hpow
    obtain ⟨w1, w2, w3, w4⟩ := u.wake_left
    refine ⟨_, hx, by rw [w2, hpow], ?_⟩
    rw [if_pos hw]
    exact ⟨by rw [w1, hpow], by rw [w3, hbit], w4⟩
  · rw [State.comparator_idle (s := { s with power := { s.power with perst := false } }) (by rw [show _ = _ from h]; decide) (.inl (by decide))
      (by simpa [State.num, h] using hw) hf] at hx
    refine ⟨_, hx, rfl, ?_⟩
    rw [if_neg hw]

theorem execComparatorTrip_faults {s : State} (k : BitVec 3) (h : s.power.phase ≠ .off) (ha : s.power.phase ≠ .asleep)
    (hk : 4 ≤ k.toNat ∨ s.num 0xB300 (k.toNat + 1) ≠ 0) (hf : (s.num 0xB300 9).testBit k.toNat = true) :
    ∃ t, exec (.comparatorTrip k) s = .next t ∧ t.power.fault = true ∧ (t.num 0xB300 0xA).testBit k.toNat = true ∧ SameMemory s t := by
  have hx : exec (.comparatorTrip k) s = .next (s.comparator k.toNat) := rfl
  rw [State.comparator_faults h ha hk hf] at hx
  obtain ⟨o, e⟩ := (s.setNum 0xB300 0xA (withBit (s.num 0xB300 0xA) k.toNat)).faultPin_eq true
  rw [e] at hx
  refine ⟨_, hx, rfl, ?_, fun _ => ⟨rfl, rfl⟩, fun _ => rfl, rfl⟩
  exact (congrArg (fun n : Nat => n.testBit k.toNat) (State.num_setNum_same ..)).trans (testBit_withBit_same ..)

theorem execAuxRailLoss_on {s : State} (h : s.power.phase ≠ .off) : ∃ t, exec .auxRailLoss s = .next t ∧ t.power.phase = .off ∧ t.dram = .empty ∧
    t.cores = [] ∧ t.power.pwrgd = false ∧ t.power.fault = false := by
  have hx : exec .auxRailLoss s = .next (((((s.cleared .cold).resetNote 0 0).phaseTo .off).pwrgdPin false).faultPin false) := by
    have e : exec .auxRailLoss s = execAuxRailLoss s := rfl
    rw [e, execAuxRailLoss, if_neg h]
  obtain ⟨hdram, hcores, -, -, -⟩ := s.cleared_rest .cold
  generalize s.cleared .cold = u at *
  have hst : Started (u.resetNote 0 0) ((((u.resetNote 0 0).phaseTo .off).pwrgdPin false).faultPin false) :=
    ((Started.phaseTo ..).trans (.pwrgdPin ..)).trans (.faultPin ..)
  have hpow : ((((u.resetNote 0 0).phaseTo .off).pwrgdPin false).faultPin false).power =
      { u.power with phase := .off, pwrgd := false, fault := false } := by
    rw [State.faultPin_power, State.pwrgdPin_power]
    rfl
  refine ⟨_, hx, by rw [hpow], hst.dram.trans (hdram.trans (if_neg (by decide))), hst.cores.trans hcores, by rw [hpow], by rw [hpow]⟩

theorem execInputLoss_awake {s : State} (h : s.awake = true) : ∃ t, exec .inputLoss s = .next t ∧ t.power.phase = .auxOnly ∧ t.dram = .empty ∧
    t.cores = [] ∧ t.power.pwrgd = false ∧ t.num 0xB0F0 4 = 2 ∧ t.num 0xB0F0 6 = s.now := by
  have hx : exec .inputLoss s = .next (((((({ s with power := { s.power with supplyOk := false } } : State).cleared .input).resetNote 2 s.now).phaseTo
      .auxOnly).pwrgdPin false)) := by
    have e : exec .inputLoss s = execInputLoss s := rfl
    have ha : ({ s with power := { s.power with supplyOk := false } } : State).awake = true := h
    rw [e, execInputLoss]
    dsimp only
    rw [if_neg (by rw [ha]; decide)]
  obtain ⟨hdram, hcores, -, -, -⟩ := ({ s with power := { s.power with supplyOk := false } } : State).cleared_rest .input
  generalize State.cleared _ _ = u at *
  have hst : Started (u.resetNote 2 s.now) (((u.resetNote 2 s.now).phaseTo .auxOnly).pwrgdPin false) := (Started.phaseTo ..).trans (.pwrgdPin ..)
  have hpow : (((u.resetNote 2 s.now).phaseTo .auxOnly).pwrgdPin false).power = { u.power with phase := .auxOnly, pwrgd := false } := by
    rw [State.pwrgdPin_power]
    rfl
  obtain ⟨n4, n6⟩ := u.resetNote_cause 2 s.now
  refine ⟨_, hx, by rw [hpow], hst.dram.trans (hdram.trans (if_neg (by decide))), hst.cores.trans hcores, by rw [hpow],
    (hst.num _ _ (.of (.inl rfl) (by decide))).trans n4, (hst.num _ _ (.of (.inl rfl) (by decide))).trans n6⟩

theorem execPerstAssert_eq {s : State} (h : s.power.perst = false) : exec .perstAssert s =
    .next (if s.awake then ({ s with power := { s.power with perst := true } } : State).warmReset 3 else { s with power := { s.power with perst := true } }) := by
  have e : exec .perstAssert s = execPerstAssert s := rfl
  rw [e, execPerstAssert, if_neg (by rw [h]; decide)]
  rfl

/-- Settles O47, by what each class clears and what bring-up sets. -/
theorem resetsAndSupplies : Obligations.ResetsAndSupplies := by
  unfold Obligations.ResetsAndSupplies
  intro s path warm idle
  refine ⟨fun hacc => ?_, fun hacc => ?_, fun hacc hidle => ?_, fun supply aux env mid h => execPowerUp_off supply aux env mid h, fun hp => ⟨fun ha => ?_, fun ha => ?_⟩,
    fun hp h hf => execPerstDeassert_asleep hp h hf, fun k h ha hk hf => execComparatorTrip_faults k h ha hk hf, fun h => execAuxRailLoss_on h,
    fun h => execInputLoss_awake h⟩
  · obtain ⟨hp, hok, hno⟩ := State.writeReset_accepted hacc State.resetCheck fun s => s.warmReset 4
    refine ⟨fun hidle => ?_, fun hidle => ?_⟩
    · obtain ⟨w, -, hmore⟩ := ({ s with host := hp, out := s.out ++ [.response path.num 0 []] } : State).warmReset_left 4
      exact ⟨_, congrArg Host.Outcome.next (hok (State.resetCheck_idle hidle)), w, hmore _ (List.mem_append_right _ List.mem_cons_self)⟩
    · have hc := State.resetCheck_busy hidle
      refine ⟨_, congrArg Host.Outcome.next (hno (by rw [hc]; decide)), rfl, ?_⟩
      rw [Told, hc]
  · obtain ⟨hp, hok, hno⟩ := State.writeReset_accepted hacc State.resetCheck fun s => s.coldReset 1
    refine ⟨fun hidle => ?_, fun hidle => ?_⟩
    · obtain ⟨w1, w2, w3, w4, w5, w6, hmore⟩ := ({ s with host := hp, out := s.out ++ [.response path.num 0 []] } : State).coldReset_left 1
      exact ⟨_, congrArg Host.Outcome.next (hok (State.resetCheck_idle hidle)), w1, w2, w3, w4, w5, w6, hmore _ (List.mem_append_right _ List.mem_cons_self)⟩
    · have hc := State.resetCheck_busy hidle
      refine ⟨_, congrArg Host.Outcome.next (hno (by rw [hc]; decide)), rfl, ?_⟩
      rw [Told, hc]
  · obtain ⟨hp, hok, -⟩ := State.writeReset_accepted hacc State.resetCheck State.toSleep
    exact ⟨_, congrArg Host.Outcome.next (hok (State.resetCheck_idle hidle)), State.toSleep_left _⟩
  · have hx := execPerstAssert_eq hp
    rw [if_pos ha] at hx
    obtain ⟨w, hperst, -⟩ := ({ s with power := { s.power with perst := true } } : State).warmReset_left 3
    exact ⟨_, hx, w, hperst⟩
  · have hx := execPerstAssert_eq hp
    rw [if_neg (by rw [ha]; decide)] at hx
    exact ⟨_, hx, rfl, rfl⟩

end Sys2Proof.Machine
end

section
/-! SUPPORT. The counterexample to O48: a page read for a tier cache waits for a frame; the step that a CXL reset drops lets it be stored. -/

namespace Sys2Proof.Machine

/-- Page 0 of window 0, read for partition 0, one word of it not zero, and waiting for a frame (R328). -/
def WaitingPage.fill : Fill := ⟨0, 0, 0, 0, 0, false, none, 4096, some [1], 0⟩

/-- A running module whose link is up, with a queued step and the page that waits for a step to complete. -/
def WaitingPage.state : State :=
  { State.reset with
    dict := [(objKey 0x6000 1, some 1), (objKey 0x5200 5, some 1)]
    parts := [(0, { Part.idle with queue := [{ plainStep with stage := .queued }] })]
    fills := [WaitingPage.fill]
    power := { Power.cold with phase := .running } }

/-- The step dropped, the page is stored in its frame of the stacks. -/
theorem WaitingPage.stored : ∃ t, exec .cxlHotReset WaitingPage.state = .next t ∧ t.dram.bytes = [(0, 1)] := ⟨_, rfl, by decide +kernel⟩

/-- Refutes O48: dropping a step unpins its pages, and a page that waited for a frame is then stored, so the stacks are not as they were. -/
theorem not_portResetsAndFences : ¬ Obligations.PortResetsAndFences := by
  unfold Obligations.PortResetsAndFences
  intro h
  obtain ⟨⟨t, ht, -, -, -, -, -, -, hdram, -⟩, -⟩ := (h WaitingPage.state .mmio).1 (by decide +kernel)
  obtain ⟨u, hu, hbytes⟩ := WaitingPage.stored
  rw [hu] at ht
  obtain rfl : u = t := by injection ht
  rw [hdram] at hbytes
  exact absurd hbytes (by decide +kernel)

end Sys2Proof.Machine
end

section
/-! SUPPORT. Firmware images taken, the version committed, and the life cycle's transitions. -/

namespace Sys2Proof.Machine

/-- The firmware copies after an image that verifies (R569): the copy of its stage that did not boot, and no other. -/
def Security.taken (c : Security) (b : List Byte) : Security :=
  if (fwCopy b).1 = 1 then { c with stage1 := setAt c.stage1 (1 - c.active1.getD 0) (fwCopy b).2, first1 := 1 - c.active1.getD 0 }
  else { c with stage2 := setAt c.stage2 (1 - c.active2.getD 0) (fwCopy b).2, first2 := 1 - c.active2.getD 0 }

theorem Security.taken_stages (c : Security) (b : List Byte) : if (fwCopy b).1 = 1 then (c.taken b).stage2 = c.stage2 ∧
      (c.taken b).stage1 = setAt c.stage1 (1 - c.active1.getD 0) (fwCopy b).2
    else (c.taken b).stage1 = c.stage1 ∧ (c.taken b).stage2 = setAt c.stage2 (1 - c.active2.getD 0) (fwCopy b).2 := by
  unfold Security.taken
  split
  · exact ⟨rfl, rfl⟩
  · exact ⟨rfl, rfl⟩

theorem State.takeImage_verified {s : State} {b : List Byte} (h : s.imageVerifies b = true) : s.takeImage b =
    ({ s with security := s.security.taken b }.setNum 0xA010 2 (s.num 0xA010 2 ||| (fwCopy b).1), 0) := by
  rw [State.takeImage, if_neg (by rw [h]; decide)]
  rfl

theorem State.takeImage_refused {s : State} {b : List Byte} (h : ¬ s.imageVerifies b = true) : s.takeImage b = (s, 0x0804) := by
  rw [State.takeImage, if_pos (by simpa using h)]

/-- What an update leaves on the path that carries it, whose answer notes nothing but the host port's own registers. -/
theorem State.takeImage_told (s : State) (data : List Byte) (path : Path) (t : State) (hp : HostPort)
    (ht : t = { (s.takeImage data).1 with host := hp, out := (s.takeImage data).1.out ++ [.response path.num (s.takeImage data).2 []] }) :
    if s.imageVerifies data then (t.num 0xA010 2 = s.num 0xA010 2 ||| (fwCopy data).1 ∧
        if (fwCopy data).1 = 1 then t.security.stage2 = s.security.stage2 ∧
          t.security.stage1 = setAt s.security.stage1 (1 - s.security.active1.getD 0) (fwCopy data).2
        else t.security.stage1 = s.security.stage1 ∧ t.security.stage2 = setAt s.security.stage2 (1 - s.security.active2.getD 0) (fwCopy data).2) ∧ Told s t path 0
    else t.security = s.security ∧ t.dict = s.dict ∧ Told s t path 0x0804 := by
  by_cases h : s.imageVerifies data = true
  · rw [if_pos h, ht, State.takeImage_verified h]
    exact ⟨⟨State.num_setNum_same .., Security.taken_stages ..⟩, rfl⟩
  · rw [if_neg h, ht, State.takeImage_refused h]
    exact ⟨rfl, rfl, rfl⟩

theorem State.writeLifecycle_accepted {s : State} {path : Path} {v : Nat} (h : Accepted s path 0xA100 1 v) : ∃ hp,
    (s.transitionCode v = 0 → s.writeLifecycle path v =
      (({ s with host := hp, out := s.out ++ [.response path.num 0 []] } : State).transition v).coldReset 1) ∧
    (s.transitionCode v ≠ 0 → s.writeLifecycle path v =
      ({ s with host := hp, out := s.out ++ [.response path.num (s.transitionCode v) []] } : State).newNonce) := by
  obtain ⟨hs, hc⟩ := h
  refine ⟨(s.xwNote path 0xA100 1 2 1 0 (s.transitionCode v) (leBytes 1 v)).host, fun h0 => ?_, fun h0 => ?_⟩
  · rw [State.writeLifecycle, if_neg (by rw [hs]; decide)]
    rw [hc, h0]
    dsimp only
    rw [State.answered_rest]
    rfl
  · rw [State.writeLifecycle, if_neg (by rw [hs]; decide)]
    rw [hc]
    dsimp only
    generalize s.transitionCode v = k at h0 ⊢
    cases k with
    | zero => exact absurd rfl h0
    | succ k => exact congrArg State.newNonce (State.answered_rest ..)

theorem State.transition_left (s : State) (target : Nat) : (s.transition target).num 0x1010 1 = target ∧ (s.transition target).out = s.out := by
  unfold State.transition
  extract_lets l u
  have hu : u.num 0x1010 1 = target ∧ u.out = s.out := ⟨State.num_setNum_same .., rfl⟩
  clear_value u
  split
  · exact hu
  · split
    · exact ⟨(State.num_setNum_ne _ _ (by decide)).trans hu.1, hu.2⟩
    · split
      · exact hu
      · exact hu

/-- The life-cycle state is nonvolatile, and no bring-up changes it (R571). -/
theorem State.coldReset_lifecycle (s : State) (cause : Nat) : (s.coldReset cause).num 0x1010 1 = s.num 0x1010 1 := by
  have hnum := s.cleared_num .cold (o := 0x1010) (sub := 1) (by decide) (by decide)
  unfold State.coldReset
  generalize s.cleared .cold = u at *
  obtain ⟨hst, -⟩ := (u.latch.resetNote cause 0).upOrWait_started
  rw [hst.num _ _ (.of (by decide) (by decide)), State.resetNote_num (.inl (by decide)) (by decide)]
  exact hnum

/-- Settles O49, by what an update, a commit and a transition write. -/
theorem firmwareAndLifeCycle : Obligations.FirmwareAndLifeCycle := by
  unfold Obligations.FirmwareAndLifeCycle
  intro s path
  refine ⟨fun data => ?_, fun hacc => ?_, fun value hacc => ⟨fun hc => ?_, fun hc => ?_⟩⟩
  · intro f written ends hs
    refine ⟨fun ha => ?_, ?_⟩
    · have hx : exec (.fwImage path data) s = .next (((s.takeImage data).1.xwNote path 0xA010 1 2 (min (4 + data.length) 4096) 0 (s.takeImage data).2
          (leBytes 4 data.length ++ data)).reply path (s.takeImage data).2 []) := by
        have e : exec (.fwImage path data) s = .next (s.writeBytes path 0xA010 1 data fun s => s.takeImage data) := rfl
        rw [e, State.writeBytes, if_neg (by rw [hs]; decide), ha]
        rfl
      rw [State.answered_rest] at hx
      exact ⟨_, hx, s.takeImage_told data path _ _ rfl⟩
    · have hx : exec (.pldmFirmwareUpdate data) s = .next ((s.takeImage data).1.reply .mctp (s.takeImage data).2 []) := by
        have e : exec (.pldmFirmwareUpdate data) s = .next (s.pldmUpdate data) := rfl
        rw [e, State.pldmUpdate, if_neg (by rw [hs]; decide)]
      exact ⟨_, hx, s.takeImage_told data .mctp _ _ rfl⟩
  · obtain ⟨len, e⟩ := State.writeDo_accepted hacc State.commitVersion
    refine ⟨_, congrArg Host.Outcome.next e, ?_, ?_, ?_⟩
    · rw [Told, State.answered_rest]
      rfl
    · rw [State.reply_num, State.xwNote_num]
      exact (State.num_setNum_ne _ _ (by decide)).trans (State.num_setNum_same ..)
    · rw [State.reply_num, State.xwNote_num]
      exact State.num_setNum_same ..
  · obtain ⟨hp, hok, -⟩ := State.writeLifecycle_accepted hacc
    have hx : exec (.lcTransition path value) s = .next (s.writeLifecycle path value.toNat) := rfl
    rw [hok hc] at hx
    obtain ⟨w1, -, -, w4, -, -, hmore⟩ := (({ s with host := hp, out := s.out ++ [.response path.num 0 []] } : State).transition value.toNat).coldReset_left 1
    obtain ⟨h1, hout⟩ := ({ s with host := hp, out := s.out ++ [.response path.num 0 []] } : State).transition_left value.toNat
    exact ⟨_, hx, (State.coldReset_lifecycle ..).trans h1, w1, w4, hmore _ (by rw [hout]; exact List.mem_append_right _ List.mem_cons_self)⟩
  · obtain ⟨hp, -, hno⟩ := State.writeLifecycle_accepted hacc
    have hx : exec (.lcTransition path value) s = .next (s.writeLifecycle path value.toNat) := rfl
    rw [hno hc] at hx
    refine ⟨_, hx, rfl, ?_, rfl⟩
    have hb : ∀ u : State, (u.newNonce).blob 0xA100 3 = u.freeBytes 62 16 := fun u => by
      have e : (u.newNonce).blob 0xA100 3 = (u.setBlob 0xA100 3 (u.freeBytes 62 16)).blob 0xA100 3 := rfl
      rw [e, State.blob_setBlob, if_pos rfl]
    rw [hb, State.freeBytes, List.length_map, List.length_range]

end Sys2Proof.Machine
end

section
/-! SUPPORT. The SPDM responder: its gate, its signatures, its sessions and the keys that they program. -/

namespace Sys2Proof.Machine

section
variable {s : State} {c : Nat} (hup : s.carrierUp c = true)
include hup

theorem State.spdm_verified (hv : s.verified = true) (op : State → State) : s.spdm c op = op s := by
  rw [State.spdm, if_neg (by rw [hup]; decide), if_neg (by rw [hv]; decide)]

theorem State.spdm_unverified (hv : s.verified = false) (op : State → State) : s.spdm c op = s.spdmError c "UnsupportedRequest" := by
  rw [State.spdm, if_neg (by rw [hup]; decide), if_pos (by rw [hv]; decide)]

end

theorem State.inSpdm_verified {s : State} (hv : s.verified = true) (op : State → State) : s.inSpdm op = op s := if_pos hv

theorem State.inSpdm_unverified {s : State} (hv : s.verified = false) (ha : s.awake = true) (op : State → State) :
    s.inSpdm op = (s.spdmError s.someCarrier "UnsupportedRequest").drawn := by
  rw [State.inSpdm, if_neg (by rw [hv]; decide), if_neg (by rw [ha]; decide)]

/-- A module that has an owner and its identity signs. -/
theorem State.sign_owner {s : State} (h : s.lifecycle ≠ 0 ∧ s.lifecycle ≠ 4 ∧ s.security.identity.isSome = true) (m : List Byte) :
    ∃ g, s.sign m = some g ∧ g.length = 384 := by
  obtain ⟨h0, h4, hi⟩ := h
  obtain ⟨k, hk⟩ := Option.isSome_iff_exists.1 hi
  refine ⟨(List.range 384).map (Config.signByte (identityKey k) (sha256 m)), ?_, (List.length_map ..).trans List.length_range⟩
  rw [State.sign, if_neg (by omega), hk]
  rfl

theorem State.signed_owner {s : State} (h : s.lifecycle ≠ 0 ∧ s.lifecycle ≠ 4 ∧ s.security.identity.isSome = true) (c : Nat) (name : String)
    (nonce body : List Byte) : ∃ mine g : List Byte, mine.length = 32 ∧ g.length = 384 ∧
      s.signed c name nonce body = s.drawn.emit (.spdm c name (mine ++ body ++ g)) := by
  obtain ⟨g, hg, hlen⟩ := State.sign_owner h (nonce ++ s.freeBytes 65 32 ++ body)
  refine ⟨s.freeBytes 65 32, g, by rw [State.freeBytes, List.length_map, List.length_range], hlen, ?_⟩
  rw [State.signed, hg]

theorem State.session_some {s : State} {id : Nat} {x : Session} (h : s.session id = some x) : x.id = id := by
  have := List.find?_some h
  simpa using this

/-- A session replaced among the others: it is found by its number, or not at all. -/
theorem State.session_replaced (s t : State) (id : Nat) (l : List Session) (h : t.security.sessions = (s.security.sessions.filter fun y => y.id != id) ++ l) :
    t.session id = l.find? fun x => x.id == id := by
  have hrest : (s.security.sessions.filter fun y => y.id != id).find? (fun x => x.id == id) = none := List.find?_eq_none.2 fun x hx => by
    have := (List.mem_filter.1 hx).2
    simpa using this
  rw [State.session, h, List.find?_append, hrest]
  rfl

theorem State.setSessions_sessions (s : State) (l : List Session) : (s.setSessions l).security.sessions = l := rfl

theorem tabGet_mem {α : Type} {d : α} {l : Tab α} {k : Nat} : tabGet d l k = d ∨ (k, tabGet d l k) ∈ l := by
  induction l with
  | nil => exact .inl rfl
  | cons e l ih =>
    obtain ⟨j, v⟩ := e
    rw [tabGet]
    split
    next h => exact .inr (by rw [h]; exact List.mem_cons_self)
    · exact ih.imp_right (List.mem_cons_of_mem _)

/-- The keys of a session that has ended are kept, but they are no session's any more (R577). -/
theorem State.setSessions_keys (s : State) (l : List Session) {id : Nat} (h : ∀ x ∈ l, x.id ≠ id) (k : Nat) :
    tabGet 0 (s.setSessions l).security.ideSession k ≠ id + 1 := by
  have e : (s.setSessions l).security.ideSession = s.security.ideSession.filter fun e => l.any fun x => x.id + 1 == e.2 := rfl
  rw [e]
  intro hk
  rcases tabGet_mem (d := 0) (l := s.security.ideSession.filter fun e => l.any fun x => x.id + 1 == e.2) (k := k) with h0 | hm
  · rw [h0] at hk
    exact absurd hk (by omega)
  · rw [hk] at hm
    obtain ⟨x, hx, he⟩ := List.any_eq_true.1 (List.mem_filter.1 hm).2
    exact h x hx (by simpa using he)

theorem State.readEntries_security (l : List Nat) (s : State) : (s.forEach l State.readEntry).security = s.security := by
  refine Blind.forEach (Φ := State.security) ?_ l s
  intro t w
  unfold State.readEntry
  dsimp only
  split
  · rfl
  · rfl

theorem State.programKeys_security (s : State) (g : IdeTarget) (id : Nat) (key : List Byte) : (s.programKeys g id key).security =
    { s.security with ide := tabSet [] s.security.ide (ideSlot g.port.toNat g.stream) key
                      ideSession := tabSet 0 s.security.ideSession (ideSlot g.port.toNat g.stream) (id + 1) } := by
  unfold State.programKeys
  dsimp only
  split
  · exact State.readEntries_security ..
  · rfl

theorem execGetMeasurements_count {s : State} {carrier : BitVec 4} (hup : s.carrierUp carrier.toNat = true) (hv : s.verified = true) :
    exec (.getMeasurements carrier 0 []) s = .next (s.emit (.spdm carrier.toNat "MEASUREMENTS" [21])) := by
  have e : exec (.getMeasurements carrier 0 []) s = execGetMeasurements carrier 0 [] s := rfl
  rw [e, execGetMeasurements]
  dsimp only
  rw [State.spdm_verified hup hv]
  rfl

theorem execGetMeasurements_block {s : State} {carrier : BitVec 4} (hup : s.carrierUp carrier.toNat = true) (hv : s.verified = true) {block : BitVec 8}
    (h0 : block ≠ 0) (hF : block ≠ 0xFF) {d : List Byte} (hd : s.measurement block.toNat = some d) (nonce : List Byte) :
    exec (.getMeasurements carrier block nonce) s =
      .next (if nonce.isEmpty then s.emit (.spdm carrier.toNat "MEASUREMENTS" (leBytes 1 block.toNat ++ leBytes 1 (measurementType block.toNat) ++ leBytes 2 d.length ++ d))
        else s.signed carrier.toNat "MEASUREMENTS" nonce (leBytes 1 block.toNat ++ leBytes 1 (measurementType block.toNat) ++ leBytes 2 d.length ++ d)) := by
  have e : exec (.getMeasurements carrier block nonce) s = execGetMeasurements carrier block nonce s := rfl
  have n0 : block.toNat ≠ 0 := fun h => h0 (BitVec.eq_of_toNat_eq h)
  have nF : block.toNat ≠ 0xFF := fun h => hF (BitVec.eq_of_toNat_eq h)
  rw [e, execGetMeasurements]
  dsimp only
  rw [State.spdm_verified hup hv, if_neg n0, if_neg nF, hd]
  rfl

theorem execKeyExchange_session {s : State} {carrier : BitVec 4} {session : BitVec 16} (hup : s.carrierUp carrier.toNat = true) (hv : s.verified = true)
    (exchange : List Byte) (hs : s.session session.toNat = none) (howner : s.lifecycle ≠ 0 ∧ s.lifecycle ≠ 4 ∧ s.security.identity.isSome = true) :
    ((s.security.sessions.filter fun x => x.carrier == carrier.toNat).length < 4 →
      ∃ t x, exec (.keyExchange carrier session exchange) s = .next t ∧ t.security.sessions = s.security.sessions ++ [x] ∧
        x.id = session.toNat ∧ x.carrier = carrier.toNat ∧ x.established = false) ∧
    (4 ≤ (s.security.sessions.filter fun x => x.carrier == carrier.toNat).length →
      exec (.keyExchange carrier session exchange) s = .next (s.spdmError carrier.toNat "SessionLimitExceeded")) := by
  have e : exec (.keyExchange carrier session exchange) s = execKeyExchange carrier session exchange s := rfl
  refine ⟨fun hlt => ?_, fun hle => ?_⟩
  · obtain ⟨g, hg, -⟩ := State.sign_owner howner (exchange ++ s.freeBytes 66 384)
    have hx : exec (.keyExchange carrier session exchange) s =
        .next ((s.drawn.setSessions (s.security.sessions ++ [⟨session.toNat, carrier.toNat, false, exchange ++ s.freeBytes 66 384⟩])).emit
          (.spdm carrier.toNat "KEY_EXCHANGE_RSP" (leBytes 2 session.toNat ++ s.freeBytes 66 384 ++ g))) := by
      rw [e, execKeyExchange]
      dsimp only
      rw [State.spdm_verified hup hv, if_neg (by rw [hs]; decide), if_neg (by omega), hg]
    exact ⟨_, _, hx, rfl, rfl, rfl, rfl⟩
  · rw [e, execKeyExchange]
    dsimp only
    rw [State.spdm_verified hup hv, if_neg (by rw [hs]; decide), if_pos hle]

theorem execFinish_left {s : State} {session : BitVec 16} {x : Session} (hs : s.session session.toNat = some x) (hup : s.carrierUp x.carrier = true)
    (hv : s.verified = true) (hx : x.established = false) (chain signature : List Byte) : ∃ t, exec (.finish session chain signature) s = .next t ∧
      t.session session.toNat = if s.chainOk chain && Config.verifies chain (sha256 x.exchange) signature then some { x with established := true } else none := by
  have hid := State.session_some hs
  have e : exec (.finish session chain signature) s = .next (s.inSpdm fun s => match s.session session.toNat with
    | none => s
    | some x => s.spdm x.carrier fun s =>
      let rest := s.security.sessions.filter fun y => y.id != x.id
      if x.established then s.spdmError x.carrier "UnexpectedRequest"
      else if s.chainOk chain && Config.verifies chain (sha256 x.exchange) signature then
        (s.setSessions (rest ++ [{ x with established := true }])).emit (.spdm x.carrier "FINISH_RSP" [])
      else (s.setSessions rest).spdmError x.carrier "DecryptError") := rfl
  rw [State.inSpdm_verified hv, hs] at e
  dsimp only at e
  rw [State.spdm_verified hup hv, if_neg (by rw [hx]; decide)] at e
  refine ⟨_, e, ?_⟩
  split
  next hok =>
    rw [State.session_replaced s _ session.toNat [{ x with established := true }] (by rw [← hid]; rfl)]
    rw [List.find?_cons_of_pos (by simp [hid])]
  next hok =>
    rw [State.session_replaced s _ session.toNat [] (by rw [← hid, List.append_nil]; rfl)]
    rfl

theorem execIdeKeyProgram_keys {s : State} {session : BitVec 16} {x : Session} (hs : s.session session.toNat = some x) (hup : s.carrierUp x.carrier = true)
    (hv : s.verified = true) {g : IdeTarget} {key : List Byte} (hx : x.established = true) (hc : x.carrier = g.port.toNat) (hk : key.length = 32)
    (hst : streamOf g = true) : exec (.ideKeyProgram session g key) s = .next ((s.programKeys g session.toNat key).emit (.spdm g.port.toNat "KP_ACK" [])) := by
  have e : exec (.ideKeyProgram session g key) s = execIdeKeyProgram session g key s := rfl
  rw [e, execIdeKeyProgram]
  dsimp only
  rw [if_neg (by rw [hv]; decide), hs]
  dsimp only
  rw [if_neg (by rw [hx, hk, hst, ← hc, hup]; simp), State.session_some hs]

/-- Settles O50, by the responder's gate, then request by request. -/
theorem spdmAnswers : Obligations.SpdmAnswers := by
  unfold Obligations.SpdmAnswers
  intro s carrier session c id tells signs owner unsupported
  refine ⟨fun hup => ⟨fun versions => ⟨fun hm => ?_, fun hm => ?_⟩, ?_, fun nonce hv => ?_, fun hv => ⟨fun offset length hlt => ?_, fun nonce howner => ?_, ?_,
    fun block d nonce h0 hF hd => ?_, fun exchange hs howner => ?_⟩⟩, fun hv ha => ⟨?_, fun chain signature => ?_⟩, fun x hs hcar hup hv => ⟨fun hx => ?_,
    fun chain signature hx => ?_, fun g key hx hc hk hst => ?_⟩, ?_⟩
  · refine ⟨_, ?_, rfl⟩
    have e : exec (.getVersion carrier versions) s = execGetVersion carrier versions s := rfl
    rw [e, execGetVersion]
    dsimp only
    rw [if_neg (by rw [show s.carrierUp carrier.toNat = true from hup]; decide), if_pos (List.contains_iff_mem.2 hm)]
    rfl
  · refine ⟨_, ?_, rfl⟩
    have e : exec (.getVersion carrier versions) s = execGetVersion carrier versions s := rfl
    rw [e, execGetVersion]
    dsimp only
    rw [if_neg (by rw [show s.carrierUp carrier.toNat = true from hup]; decide), if_neg (fun h => hm (List.contains_iff_mem.1 h))]
    rfl
  · refine ⟨_, ?_, rfl⟩
    have e : exec (.getCapabilities carrier) s = execGetCapabilities carrier s := rfl
    rw [e, execGetCapabilities]
    dsimp only
    rw [if_neg (by rw [show s.carrierUp carrier.toNat = true from hup]; decide)]
    rfl
  · have e : exec (.challenge carrier nonce) s = .next (s.spdm c fun s => s.signed c "CHALLENGE_AUTH" nonce (sha256 (s.blob 0xA020 1))) := rfl
    rw [State.spdm_unverified hup hv] at e
    exact ⟨_, e, rfl⟩
  · intro d'
    refine ⟨_, ?_, rfl⟩
    have e : exec (.getCertificate carrier 0 offset length) s = execGetCertificate carrier 0 offset length s := rfl
    rw [e, execGetCertificate]
    dsimp only
    rw [State.spdm_verified hup hv, if_neg (by
      rw [List.isEmpty_iff]
      rintro (h | h | h)
      · exact h rfl
      · rw [h] at hlt
        exact absurd hlt (by simp)
      · omega)]
    rfl
  · have e : exec (.challenge carrier nonce) s = .next (s.spdm c fun s => s.signed c "CHALLENGE_AUTH" nonce (sha256 (s.blob 0xA020 1))) := rfl
    rw [State.spdm_verified hup hv] at e
    obtain ⟨mine, g, hm, hg, hs⟩ := State.signed_owner howner c "CHALLENGE_AUTH" nonce (sha256 (s.blob 0xA020 1))
    rw [hs] at e
    exact ⟨_, mine, g, e, hm, hg, rfl, rfl⟩
  · exact ⟨_, execGetMeasurements_count hup hv, rfl⟩
  · intro entry
    have e := execGetMeasurements_block hup hv h0 hF hd nonce
    refine ⟨fun hn => ?_, fun hn howner => ?_⟩
    · rw [if_pos (by rw [hn]; rfl)] at e
      exact ⟨_, e, rfl⟩
    · rw [if_neg (by rw [List.isEmpty_iff]; exact hn)] at e
      obtain ⟨mine, g, hm, hg, hs⟩ := State.signed_owner howner c "MEASUREMENTS" nonce entry
      rw [hs] at e
      exact ⟨_, mine, g, e, hm, hg, rfl, rfl⟩
  · obtain ⟨h1, h2⟩ := execKeyExchange_session hup hv exchange hs howner
    exact ⟨h1, fun hle => ⟨_, h2 hle, rfl⟩⟩
  · exact ⟨_, _, congrArg Host.Outcome.next (State.inSpdm_unverified hv ha _), rfl⟩
  · exact ⟨_, _, congrArg Host.Outcome.next (State.inSpdm_unverified hv ha _), rfl⟩
  · refine ⟨_, ?_, rfl⟩
    have e : exec (.heartbeat session) s = .next (s.inSpdm fun s => match s.session session.toNat with
      | none => s
      | some x => s.spdm x.carrier fun s =>
        if x.established then s.emit (.spdm x.carrier "HEARTBEAT_ACK" []) else s.spdmError x.carrier "UnexpectedRequest") := rfl
    rw [State.inSpdm_verified hv, show s.session session.toNat = some x from hs] at e
    dsimp only at e
    rw [State.spdm_verified (by rw [hcar]; exact hup) hv, if_pos hx, hcar] at e
    exact e
  · exact execFinish_left hs (by rw [hcar]; exact hup) hv hx chain signature
  · have e := execIdeKeyProgram_keys hs (by rw [hcar]; exact hup) hv hx (hcar.trans hc) hk hst
    have hsec : ((s.programKeys g session.toNat key).emit (.spdm g.port.toNat "KP_ACK" [])).security = _ := s.programKeys_security g session.toNat key
    refine ⟨_, e, ?_, ?_, ?_, ?_⟩
    · rw [hsec, hc, tabGet_tabSet_same]
    · rw [hsec, hc, tabGet_tabSet_same]
    · rw [hc]
      exact List.getLast?_concat
    · rw [hsec]
  · refine ⟨_, rfl, ?_, rfl, fun k => ?_, fun y hy hne => ?_, State.num_setNum_same ..⟩
    · rw [State.session_replaced s _ id [] (by rw [List.append_nil]; rfl)]
      rfl
    · exact State.setSessions_keys s _ (fun x hx => by simpa using (List.mem_filter.1 hx).2) k
    · exact List.mem_filter.2 ⟨hy, by simpa using hne⟩

end Sys2Proof.Machine
end

section
/-! SUPPORT. Device time, its inputs, the folding of counters, and the accounting of a nanosecond. -/

namespace Sys2Proof.Machine

/-! ### The counter of a nanosecond -/

theorem State.idleCounter_pos (s : State) (p : Nat) : 1 ≤ s.idleCounter p := by
  unfold State.idleCounter
  dsimp only
  split
  · decide
  · split
    · decide
    · split
      · decide
      · split <;> split <;> decide

theorem State.countIdle_num (s : State) (p o sub : Nat) : (s.countIdle p).num o sub = (s.bump (0x8400 + p) (s.idleCounter p) 1).num o sub := by
  unfold State.countIdle
  dsimp only
  split
  · rfl
  · rfl

/-- Each partition of a list without repetitions is counted once. -/
theorem State.countIdles_num {p : Nat} : ∀ (l : List Nat) (s : State), l.Nodup → (p ∉ l → ∀ j, j ≤ 9 → (s.forEach l State.countIdle).num (0x8400 + p) j = s.num (0x8400 + p) j) ∧
    (p ∈ l → ∃ k, 1 ≤ k ∧ k ≤ 9 ∧ (s.forEach l State.countIdle).num (0x8400 + p) k = (s.num (0x8400 + p) k + 1) % 2 ^ 64 ∧
      ∀ j, j ≤ 9 → j ≠ k → (s.forEach l State.countIdle).num (0x8400 + p) j = s.num (0x8400 + p) j) := by
  intro l
  induction l with
  | nil => exact fun s _ => ⟨fun _ _ _ => rfl, fun h => absurd h List.not_mem_nil⟩
  | cons q l ih =>
    intro s hl
    obtain ⟨hq, hl⟩ := List.nodup_cons.1 hl
    obtain ⟨hout, hin⟩ := ih (s.countIdle q) hl
    have hc := s.idleCounter_lt q
    have other : p ≠ q → ∀ j, j ≤ 9 → (s.countIdle q).num (0x8400 + p) j = s.num (0x8400 + p) j := fun hne j hj => by
      rw [State.countIdle_num, State.num_bump, if_neg (by unfold objKey; omega)]
    rw [State.forEach_cons]
    refine ⟨fun h j hj => ?_, fun h => ?_⟩
    · rw [List.mem_cons, not_or] at h
      rw [hout h.2 j hj, other h.1 j hj]
    · by_cases hp : p = q
      · subst hp
        refine ⟨s.idleCounter p, s.idleCounter_pos p, by omega, ?_, fun j hj hne => ?_⟩
        · rw [hout hq _ (by omega), State.countIdle_num, State.num_bump, if_pos rfl]
        · rw [hout hq j hj, State.countIdle_num, State.num_bump, if_neg (by unfold objKey; omega)]
      · obtain ⟨k, h1, h9, hk, hj⟩ := hin ((List.mem_cons.1 h).resolve_left hp)
        exact ⟨k, h1, h9, by rw [hk, other hp k h9], fun j hj9 hne => by rw [hj j hj9 hne, other hp j hj9]⟩

theorem State.settleHangs_num (l : List Nat) (s : State) {o sub : Nat} (h : objKey o sub ≠ objKey 0x8120 4) : (s.forEach l State.settleHang).num o sub = s.num o sub :=
  State.forEach_num (fun t p => by
    unfold State.settleHang
    split
    · rfl
    · split
      · rfl
      · change (t.capture 1 p 0).num o sub = _
        rw [State.num_capture, if_neg h]) l s

/-- A nanosecond of an enabled partition is counted in one of its nine counters (Table 12-4). -/
theorem State.idle_counted {s : State} (h : s.power.phase = .running) {p : Nat} (hp : p < 16) (hen : s.num (0x2100 + p) 3 ≠ 0) :
    ∃ k, 1 ≤ k ∧ k ≤ 9 ∧ s.idle.num (0x8400 + p) k = (s.num (0x8400 + p) k + 1) % 2 ^ 64 ∧
      ∀ j, 1 ≤ j → j ≤ 9 → j ≠ k → s.idle.num (0x8400 + p) j = s.num (0x8400 + p) j := by
  rw [State.idle_running h]
  have hs : ({ s with conductor := s.conductor.tick } : State).num = s.num := rfl
  generalize ({ s with conductor := s.conductor.tick } : State) = u at hs ⊢
  rw [← hs] at hen ⊢
  obtain ⟨hrest, -⟩ := u.nsCounts.advance_spec
  have hadv : ∀ o sub, u.nsCounts.advance.num o sub = u.nsCounts.num o sub := fun o sub => by rw [hrest]; rfl
  have hclass := Counted.forEach (List.range 24) (fun t k _ => Counted.countClass t k) u
  have hclassNum : ∀ o sub, (u.forEach (List.range 24) State.countClass).num o sub = u.num o sub := fun o sub => State.forEach_num (fun t k => by
    unfold State.countClass
    dsimp only
    split
    · exact State.count_num ..
    · split
      · exact State.count_num ..
      · rfl) _ u
  have hmem : p ∈ (u.forEach (List.range 24) State.countClass).enabledParts := by
    rw [hclass.enabledParts]
    exact List.mem_filter.2 ⟨List.mem_range.2 hp, by simpa using hen⟩
  have hns : u.nsCounts = (u.forEach (List.range 24) State.countClass).forEach (u.forEach (List.range 24) State.countClass).enabledParts State.countIdle := by
    rw [hclass.enabledParts]
    rfl
  obtain ⟨k, h1, h9, hk, hj⟩ := (State.countIdles_num (p := p) _ (u.forEach (List.range 24) State.countClass) (State.nodup_enabledParts _)).2 hmem
  rw [← hns] at hk hj
  refine ⟨k, h1, h9, ?_, fun j j1 j9 hne => ?_⟩
  · rw [State.settleHangs_num _ _ (by unfold objKey; omega), hadv, hk, hclassNum]
  · rw [State.settleHangs_num _ _ (by unfold objKey; omega), hadv, hj j j9 hne, hclassNum]

/-! ### Folding -/

theorem tabGet_above {d : Nat} {l : Tab Nat} {k : Nat} (h : tabAbove k l) : tabGet d l k = d := by
  rcases tabGet_mem (d := d) (l := l) (k := k) with h' | h'
  · exact h'
  · exact absurd (h _ h') (Nat.lt_irrefl k)

/-- A local count moved into its object. -/
def State.fold (s : State) (e : Nat × Nat) : State := s.bump (e.1 / 256) (e.1 % 256) e.2

theorem State.folds_num (o sub : Nat) : ∀ (l : Tab Nat) (s : State), tabWf 0 l = true →
    (s.forEach l State.fold).num o sub % 2 ^ 64 = (s.num o sub + tabGet 0 l (objKey o sub)) % 2 ^ 64 := by
  intro l
  induction l with
  | nil => exact fun _ _ => rfl
  | cons e l ih =>
    intro s h
    obtain ⟨k, v⟩ := e
    have hkey : objKey (k / 256) (k % 256) = k := by
      unfold objKey
      omega
    have hfold : (s.fold (k, v)).num o sub = if objKey o sub = k then (s.num o sub + v) % 2 ^ 64 else s.num o sub := by
      rw [State.fold, State.num_bump, hkey]
      split
      next e =>
        have hsame : s.num (k / 256) (k % 256) = s.num o sub := by rw [State.num, State.num, hkey, e]
        rw [hsame]
      · rfl
    rw [State.forEach_cons, ih _ (tabWf_cons.1 h).2.2, hfold]
    by_cases hk : objKey o sub = k
    · rw [if_pos hk, hk, tabGet_above (tabWf_above h), tabGet, if_pos rfl, Nat.add_zero, Nat.mod_mod]
    · rw [if_neg hk, tabGet, if_neg (Ne.symm hk)]

theorem State.folds_rest (l : Tab Nat) : ∀ s : State, s.forEach l State.fold = { s with dict := (s.forEach l State.fold).dict } := by
  induction l with
  | nil => exact fun _ => rfl
  | cons e l ih =>
    intro s
    rw [State.forEach_cons]
    exact ih (s.fold e)

theorem execCounterFold_kept {s : State} (h : tabWf 0 s.localCounts = true) : ∃ t, exec .counterFold s = .next t ∧ t.localCounts = [] ∧
    (∀ o sub, t.counter o sub = s.counter o sub) ∧ t = { s with dict := t.dict, localCounts := [] } := by
  have hx : exec .counterFold s = .next (({ s with localCounts := [] } : State).forEach s.localCounts State.fold) := rfl
  have hrest := State.folds_rest s.localCounts { s with localCounts := [] }
  have hnum := fun o sub => State.folds_num o sub s.localCounts { s with localCounts := [] } h
  generalize State.forEach _ _ _ = t at hx hrest hnum
  have hl : t.localCounts = [] := by rw [hrest]
  refine ⟨t, hx, hl, fun o sub => ?_, hrest⟩
  rw [State.counter, hl]
  exact hnum o sub

/-! ### Time -/

theorem State.ptmPort_some {s : State} {n : Nat} (h : s.ptmPort = some n) : s.ptmPort.isNone = false := by rw [h]; rfl

theorem ptmOffset_near (e : Int) : wholeSeconds e % 1000000000 = 0 ∧ -500000000 ≤ e - wholeSeconds e ∧ e - wholeSeconds e ≤ 500000000 := by
  unfold wholeSeconds
  omega

theorem ppsError_aligns (now delay : Int) : (now + ppsError now delay - delay) % 1000000000 = 0 ∧ -500000000 ≤ ppsError now delay ∧ ppsError now delay ≤ 500000000 := by
  unfold ppsError
  dsimp only
  split
  · omega
  · omega

theorem State.markCoolant_left (s : State) : s.markCoolant.num 0x8E10 7 = (if s.coolantLimits.1.lt (f32 (s.num 0x8E10 4)) then 1 else 0) ∧
    s.markCoolant.num 0x8E10 8 = (if (f32 (s.num 0x8E10 5)).lt s.coolantLimits.2 then 1 else 0) ∧
    s.markCoolant.num 0x8E10 4 = s.num 0x8E10 4 ∧ s.markCoolant.num 0x8E10 5 = s.num 0x8E10 5 ∧ s.markCoolant = { s with dict := s.markCoolant.dict } := by
  unfold State.markCoolant
  generalize s.coolantLimits = z
  obtain ⟨most, least⟩ := z
  refine ⟨?_, ?_, ?_, ?_, rfl⟩
  · exact (State.num_setNum_ne _ _ (by decide)).trans (State.num_setNum_same ..)
  · refine (State.num_setNum_same ..).trans ?_
    rfl
  · exact (State.num_setNum_ne _ _ (by decide)).trans (State.num_setNum_ne _ _ (by decide))
  · exact (State.num_setNum_ne _ _ (by decide)).trans (State.num_setNum_ne _ _ (by decide))

theorem execHoldoverTimeout_held {s : State} (h0 : s.num 0x6400 1 ≠ 0) (hh : s.time.holdover = false) :
    ∃ t, exec .holdoverTimeout s = .next t ∧ t.time.holdover = true ∧ t.num 0x6400 7 = 0 ∧ EventCounted s t 0x0F := by
  have hx : exec .holdoverTimeout s = execHoldoverTimeout s := rfl
  rw [execHoldoverTimeout, if_neg (by rw [hh]; simpa using h0)] at hx
  dsimp only at hx
  have hn : ({ s with time := { s.time with slew := 0, since := 0, holdover := true, asked := false } }.setNum 0x6400 7 0).num 0x6400 7 = 0 := State.num_setNum_same ..
  have hc : ({ s with time := { s.time with slew := 0, since := 0, holdover := true, asked := false } }.setNum 0x6400 7 0).num 0x9002 0x0F = s.num 0x9002 0x0F :=
    State.num_setNum_ne _ _ (by decide)
  have ht : ({ s with time := { s.time with slew := 0, since := 0, holdover := true, asked := false } }.setNum 0x6400 7 0).time.holdover = true := rfl
  generalize State.setNum _ _ _ _ = u at hx hn hc ht
  have he : (Event.of 0x0F u.conductorUnit (u.num 0x6400 1)).part = none := rfl
  refine ⟨_, hx, ?_, ?_, ?_⟩
  · obtain ⟨_, _, _, _, _, e⟩ := Noticed.raise u he
    rw [e]
    exact ht
  · rw [State.raise_num_low ⟨by decide, by decide⟩, hn]
  · rw [EventCounted, ← hc]
    exact State.raise_counted_alone u (by exact (by decide : (0x0F : Nat) < 256)) he

/-- Settles O51, by the accounting of a nanosecond, the fold, and each time input. -/
theorem timeAndCounters : Obligations.TimeAndCounters := by
  unfold Obligations.TimeAndCounters
  intro s
  refine ⟨fun hp hrun => ?_, fun path value hacc => ?_, fun n hn => ⟨fun hup => ?_, fun t1 t2 t3 t4 hask => ?_⟩, fun h9 => ?_, fun h0 hh => execHoldoverTimeout_held h0 hh,
    fun h => execCounterFold_kept h, fun inlet flow => ?_⟩
  · have hstep : step s = .next s.idle := by rw [step, hp]
    exact ⟨_, hstep, fun p hlt hen => State.idle_counted hrun hlt hen⟩
  · obtain ⟨len, e⟩ := State.writeDo_accepted hacc fun s => s.stepTime value.toNat
    refine ⟨_, congrArg Host.Outcome.next e, ?_, ?_⟩
    · rw [State.answered_rest]
      rfl
    · rw [Told, State.answered_rest]
      rfl
  · have hx : exec .ptmRequest s = execPtmRequest s := rfl
    rw [execPtmRequest, hn] at hx
    dsimp only at hx
    rw [if_neg (by omega)] at hx
    exact ⟨_, hx, rfl, rfl⟩
  · intro offset
    have hx : exec (.ptmResponse t1 t2 t3 t4) s = execPtmResponse t1 t2 t3 t4 s := rfl
    rw [execPtmResponse, if_neg (by rw [State.ptmPort_some hn, hask]; decide)] at hx
    by_cases h9 : s.num 0x6400 1 = 9
    · rw [if_pos h9] at hx
      obtain ⟨w1, w2, w3⟩ := ptmOffset_near (ptmOffset t1 t2 t3 t4 - s.time.slew)
      refine ⟨_, hx, rfl, rfl, fun h => absurd h9 h, fun _ => ⟨?_, ?_, ?_⟩⟩
      · dsimp only
        rw [add_sub_cancel_left]
        exact w1
      · change -500000000 ≤ ptmOffset t1 t2 t3 t4 - (s.time.slew + wholeSeconds (ptmOffset t1 t2 t3 t4 - s.time.slew))
        omega
      · change ptmOffset t1 t2 t3 t4 - (s.time.slew + wholeSeconds (ptmOffset t1 t2 t3 t4 - s.time.slew)) ≤ 500000000
        omega
    · rw [if_neg h9] at hx
      exact ⟨_, hx, rfl, rfl, fun _ => ⟨State.num_setNum_same .., rfl, rfl⟩, fun h => absurd h h9⟩
  · have hx : exec .timerefPps s = execTimerefPps s := rfl
    rw [execTimerefPps, if_pos h9] at hx
    obtain ⟨p1, p2, p3⟩ := ppsError_aligns ((s.now : Int) + s.time.slew) (signed 32 (s.num 0x6400 3))
    refine ⟨_, hx, ?_, rfl, ?_, ?_, ?_⟩
    · change (s.discipline (s.time.slew + ppsError ((s.now : Int) + s.time.slew) (signed 32 (s.num 0x6400 3)))).num 0x6400 7 = 1
      exact State.num_setNum_same ..
    · change ((s.now : Int) + (s.time.slew + ppsError ((s.now : Int) + s.time.slew) (signed 32 (s.num 0x6400 3))) - signed 32 (s.num 0x6400 3)) % 1000000000 = 0
      rw [← add_assoc]
      exact p1
    · change -500000000 ≤ s.time.slew + ppsError ((s.now : Int) + s.time.slew) (signed 32 (s.num 0x6400 3)) - s.time.slew
      rw [add_sub_cancel_left]
      exact p2
    · change s.time.slew + ppsError ((s.now : Int) + s.time.slew) (signed 32 (s.num 0x6400 3)) - s.time.slew ≤ 500000000
      rw [add_sub_cancel_left]
      exact p3
  · have hx : exec (.coolantSample inlet flow) s = .next ((s.setNum 0x8E10 4 inlet.toNat).setNum 0x8E10 5 flow.toNat).markCoolant := rfl
    obtain ⟨m7, m8, m4, m5, mr⟩ := ((s.setNum 0x8E10 4 inlet.toNat).setNum 0x8E10 5 flow.toNat).markCoolant_left
    have hlim : ((s.setNum 0x8E10 4 inlet.toNat).setNum 0x8E10 5 flow.toNat).coolantLimits = s.coolantLimits := by
      have h1 : ((s.setNum 0x8E10 4 inlet.toNat).setNum 0x8E10 5 flow.toNat).num 0x2010 3 = s.num 0x2010 3 :=
        (State.num_setNum_ne _ _ (by decide)).trans (State.num_setNum_ne _ _ (by decide))
      have h2 : ((s.setNum 0x8E10 4 inlet.toNat).setNum 0x8E10 5 flow.toNat).num 0x2012 1 = s.num 0x2012 1 :=
        (State.num_setNum_ne _ _ (by decide)).trans (State.num_setNum_ne _ _ (by decide))
      have h3 : ((s.setNum 0x8E10 4 inlet.toNat).setNum 0x8E10 5 flow.toNat).effDev 0x2012 1 = s.effDev 0x2012 1 := by
        rw [State.effDev, h2]
        rfl
      rw [State.coolantLimits, h1, h3]
      rfl
    have h4 : ((s.setNum 0x8E10 4 inlet.toNat).setNum 0x8E10 5 flow.toNat).num 0x8E10 4 = inlet.toNat :=
      (State.num_setNum_ne _ _ (by decide)).trans (State.num_setNum_same ..)
    have h5 : ((s.setNum 0x8E10 4 inlet.toNat).setNum 0x8E10 5 flow.toNat).num 0x8E10 5 = flow.toNat := State.num_setNum_same ..
    refine ⟨_, hx, m4.trans h4, m5.trans h5, ?_, ?_, mr⟩
    · rw [m7, hlim, h4]
    · rw [m8, hlim, h5]

end Sys2Proof.Machine
end

section
/-! SUPPORT. Token registers, the lease, and the conductor's election. -/

namespace Sys2Proof.Machine

theorem Conductor.reg_setReg {c : Conductor} (h : c.regs.length = 3) (reg i : Fin 3) (v : TokenReg) :
    (c.setReg reg.val v).reg i.val = if i = reg then v else c.reg i.val := by
  unfold Conductor.reg Conductor.setReg setAt
  rw [List.getD_eq_getElem?_getD, List.getD_eq_getElem?_getD, List.getElem?_set]
  by_cases he : i = reg
  · rw [if_pos he, he, if_pos rfl, if_pos (by have := reg.isLt; omega)]
    rfl
  · rw [if_neg he, if_neg fun h => he (Fin.ext h.symm)]

/-- One register set: it holds the value, and the others what they held. -/
theorem State.setReg_only {s : State} (h : s.conductor.regs.length = 3) (reg : Fin 3) (v : TokenReg) :
    let t := s.modConductor fun c => c.setReg reg.val v
    t.conductor.reg reg.val = v ∧ ∀ i : Fin 3, i ≠ reg → t.conductor.reg i.val = s.conductor.reg i.val :=
  ⟨(Conductor.reg_setReg h reg reg v).trans (if_pos rfl), fun i hi => (Conductor.reg_setReg h reg i v).trans (if_neg hi)⟩

section
variable {s : State} {reg : Fin 3} {sdie : BitVec 2} {term : BitVec 16}

theorem execTokenRenewal_owner (hf : (s.conductor.reg reg.val).free = false) (ho : (s.conductor.reg reg.val).owner = sdie.toNat)
    (ht : (s.conductor.reg reg.val).term = term.toNat) : exec (.tokenRenewal reg sdie term) s =
      .next ((s.modConductor fun c => c.setReg reg.val { s.conductor.reg reg.val with left := 2000000 }).emit (.ring "RENEWAL ACK" (sDie sdie.toNat) term.toNat reg.val)) := by
  have hx : exec (.tokenRenewal reg sdie term) s = execTokenRenewal reg sdie term s := rfl
  rw [hx, execTokenRenewal]
  dsimp only
  rw [if_neg (by rw [hf, ho, ht]; simp)]
  rfl

theorem execGrantRelease_owner (hf : (s.conductor.reg reg.val).free = false) (ho : (s.conductor.reg reg.val).owner = sdie.toNat)
    (ht : (s.conductor.reg reg.val).term = term.toNat) : exec (.grantRelease reg sdie term) s =
      .next (s.modConductor fun c => c.setReg reg.val { s.conductor.reg reg.val with free := true, left := 0 }) := by
  have hx : exec (.grantRelease reg sdie term) s = execGrantRelease reg sdie term s := rfl
  rw [hx, execGrantRelease]
  dsimp only
  rw [if_neg (by rw [hf, ho, ht]; simp)]

theorem execTokenClaim_granted (hf : (s.conductor.reg reg.val).free = true) (ha : serialAhead 16 term.toNat (s.conductor.reg reg.val).term = true)
    (he : s.elects sdie.toNat = true) : exec (.tokenClaim reg sdie term) s =
      .next ((s.modConductor fun c => c.setReg reg.val ⟨sdie.toNat, term.toNat, false, 2000000⟩).emit (.ring "GRANT" (sDie sdie.toNat) term.toNat reg.val)) := by
  have hx : exec (.tokenClaim reg sdie term) s = execTokenClaim reg sdie term s := rfl
  rw [hx, execTokenClaim]
  dsimp only
  rw [if_neg (by rw [hf, ha, he]; decide)]
  rfl

theorem execTokenClaim_refused (h : (s.conductor.reg reg.val).free = false ∨ serialAhead 16 term.toNat (s.conductor.reg reg.val).term = false ∨
    s.elects sdie.toNat = false) : exec (.tokenClaim reg sdie term) s = .next s := by
  have hx : exec (.tokenClaim reg sdie term) s = execTokenClaim reg sdie term s := rfl
  rw [hx, execTokenClaim]
  dsimp only
  refine congrArg Host.Outcome.next (if_pos ?_)
  rcases h with h | h | h
  · rw [h]
    rfl
  · rw [h]
    simp
  · rw [h]
    simp

end

section
variable {s : State}

theorem execRenewalAck_first (reg : Fin 3) (ho : s.conductor.inOffice = true) (ha : s.conductor.acks.contains reg.val = false) :
    exec (.renewalAck reg) s = .next (s.modConductor fun c => { c with acks := c.acks ++ [reg.val] }) := by
  have hx : exec (.renewalAck reg) s = execRenewalAck reg s := rfl
  rw [hx, execRenewalAck, if_neg (by rw [ho, ha]; decide)]

theorem execConductorStepDown_minority (ho : s.conductor.inOffice = true) (ha : s.conductor.acks.length < 2) : exec .conductorStepDown s = .next s.leaveOffice := by
  have hx : exec .conductorStepDown s = execConductorStepDown s := rfl
  rw [hx, execConductorStepDown, if_neg (by simp [ho]; omega)]

theorem execConductorStepDown_majority (ha : 2 ≤ s.conductor.acks.length) : exec .conductorStepDown s = .next s := by
  have hx : exec .conductorStepDown s = execConductorStepDown s := rfl
  rw [hx, execConductorStepDown, if_pos (by simp [ha])]

theorem execClaimTimeout_claims (sdie : BitVec 2) (hr : (s.num 0x9200 3).testBit sdie.toNat = true) (he : s.elects sdie.toNat = true)
    (hn : ¬ (s.conductor.inOffice = true ∧ s.conductorDie = sdie.toNat)) : exec (.claimTimeout sdie) s =
      .next ((s.modConductor fun c => { c with claim := some (sdie.toNat, (s.term + 1) % 2 ^ 16) }).emits
        ([0, 1, 2].map fun r => Output.ring "CLAIM" (tokenDie r) ((s.term + 1) % 2 ^ 16) sdie.toNat)) := by
  have hx : exec (.claimTimeout sdie) s = execClaimTimeout sdie s := rfl
  rw [hx, execClaimTimeout]
  dsimp only
  rw [if_neg (by rw [hr, he]; simpa using hn)]

/-- The three outcomes of a claim that is under way (R628). -/
theorem execClaimGrant_claim {sdie : BitVec 2} {u : Nat} (grants : BitVec 3) (hc : s.conductor.claim = some (sdie.toNat, u)) :
    exec (.claimGrant sdie grants) s = .next (if !s.elects sdie.toNat then s.modConductor fun c => { c with claim := none }
      else if 2 ≤ popCount 3 grants.toNat then s.takeOffice sdie.toNat u else s.failClaim sdie.toNat u grants.toNat) := by
  have hx : exec (.claimGrant sdie grants) s = execClaimGrant sdie grants s := rfl
  rw [hx, execClaimGrant, hc]
  dsimp only
  rw [if_neg fun h => h rfl]

end

/-! ### The new conductor -/

/-- What the objects of stops, sheets and traces of partitions leave of the office. -/
structure OfficeKept (s t : State) : Prop where
  rest : (t.conductor, t.security, t.heldOps) = (s.conductor, s.security, s.heldOps)
  num : ∀ o sub, 0x9000 ≤ o → sub < 256 → t.num o sub = s.num o sub

theorem OfficeKept.refl (s : State) : OfficeKept s s := ⟨rfl, fun _ _ _ _ => rfl⟩

theorem OfficeKept.trans {s t u : State} (h : OfficeKept s t) (g : OfficeKept t u) : OfficeKept s u :=
  ⟨g.rest.trans h.rest, fun o sub ho hs => (g.num o sub ho hs).trans (h.num o sub ho hs)⟩

theorem OfficeKept.forEach {α : Type} {f : State → α → State} (l : List α) (hf : ∀ s x, x ∈ l → OfficeKept s (f s x)) (s : State) : OfficeKept s (s.forEach l f) := by
  induction l generalizing s with
  | nil => exact .refl s
  | cons x l ih => exact (hf s x List.mem_cons_self).trans (ih (fun s y hy => hf s y (List.mem_cons_of_mem _ hy)) (f s x))

theorem OfficeKept.setNum (s : State) {o k : Nat} (v : Nat) (ho : o < 0x9000) (hk : k < 256) : OfficeKept s (s.setNum o k v) :=
  ⟨rfl, fun o' sub h hs => State.num_setNum_ne s v (by unfold objKey; omega)⟩

theorem OfficeKept.setFilm (s : State) (f : Nat) (v : Film) : OfficeKept s (s.setFilm f v) := by
  refine ⟨?_, fun o sub _ _ => State.setFilm_num ..⟩
  unfold State.setFilm
  split
  · rfl
  · rfl

theorem OfficeKept.capture (s : State) (cause p n : Nat) : OfficeKept s (s.capture cause p n) := by
  refine ⟨?_, fun o sub ho hs => ?_⟩
  · obtain ⟨b, d, h⟩ := s.capture_rest cause p n
    rw [h]
    rfl
  · rw [State.num_capture, if_neg (by unfold objKey; omega)]

theorem OfficeKept.trigger (s : State) {p : Nat} (hp : p < 16) (cause : Nat) : OfficeKept s (s.trigger p cause) := by
  unfold State.trigger
  split
  · refine (OfficeKept.forEach _ (fun t f _ => ?_) s).trans (.setNum _ _ (by omega) (by decide))
    unfold State.filmTrigger
    dsimp only
    split
    · exact .refl t
    · exact (OfficeKept.setFilm ..).trans (.setNum _ _ (by omega) (by decide))
  · exact .refl s

theorem OfficeKept.modPart (s : State) (p : Nat) (f : Part → Part) : OfficeKept s (s.modPart p f) := ⟨rfl, fun _ _ _ _ => rfl⟩

theorem OfficeKept.settleCut (s : State) {p : Nat} (hp : p < 16) : OfficeKept s (s.settleCut p) := by
  unfold State.settleCut
  split
  · exact .refl s
  · split
    · exact .refl s
    · dsimp only
      split
      · exact (((OfficeKept.modPart ..).trans (.setNum _ 3 (by omega) (by decide))).trans (.capture ..)).trans (.trigger _ hp 5)
      · exact .refl s

theorem OfficeKept.settleHang (s : State) (p : Nat) : OfficeKept s (s.settleHang p) := by
  unfold State.settleHang
  split
  · exact .refl s
  · split
    · exact .refl s
    · exact (OfficeKept.capture ..).trans (.modPart ..)

/-- The new conductor and its term, with the event told and every session ended. -/
def State.sworn (s : State) (d t : Nat) : State :=
  ((s.setNum 0x9200 1 d).setNum 0x9200 2 t).modConductor fun c => { c with inOffice := true, acks := [], claim := none }

/-- The office taken, but for what waited for it. -/
def State.installed (s : State) (d t : Nat) : State :=
  ((s.sworn d t).raise (.of 0x16 (s.sworn d t).conductorUnit (d + t * 2 ^ 16 + (if (s.sworn d t).split then 2 else 1) * 2 ^ 32))).setSessions []

/-- The stops and hangs that waited for a conductor, taken up. -/
def State.waitsSettled (s : State) : State := (s.forEach (List.range 16) State.settleCut).forEach (List.range 16) State.settleHang

theorem State.takeOffice_eq (s : State) (d t : Nat) : s.takeOffice d t = (s.installed d t).waitsSettled.serveHeld := rfl

theorem State.serveHeld_eq (s : State) : s.serveHeld = ({ s with heldOps := [] } : State).forEach s.heldOps State.runAccess := rfl

theorem OfficeKept.waitsSettled (s : State) : OfficeKept s s.waitsSettled :=
  (OfficeKept.forEach _ (fun t _ hp => .settleCut t (List.mem_range.1 hp)) s).trans (.forEach _ (fun t p _ => .settleHang t p) _)

theorem State.sworn_left (s : State) (d t : Nat) : (s.sworn d t).num 0x9200 1 = d ∧ (s.sworn d t).num 0x9200 2 = t ∧
    (s.sworn d t).num 0x9002 0x16 = s.num 0x9002 0x16 :=
  ⟨(State.num_setNum_ne _ _ (by decide)).trans (State.num_setNum_same ..), State.num_setNum_same ..,
    (State.num_setNum_ne _ _ (by decide)).trans (State.num_setNum_ne _ _ (by decide))⟩

theorem State.installed_left (s : State) (d t : Nat) : (s.installed d t).conductor.inOffice = true ∧ (s.installed d t).conductor.claim = none ∧
    (s.installed d t).num 0x9200 1 = d ∧ (s.installed d t).num 0x9200 2 = t ∧ (s.installed d t).security.sessions = [] ∧
    (s.installed d t).heldOps = s.heldOps ∧ EventCounted s (s.installed d t) 0x16 := by
  obtain ⟨n1, n2, nc⟩ := s.sworn_left d t
  have hc : (s.sworn d t).conductor.inOffice = true ∧ (s.sworn d t).conductor.claim = none ∧ (s.sworn d t).heldOps = s.heldOps := ⟨rfl, rfl, rfl⟩
  unfold State.installed
  generalize s.sworn d t = u at n1 n2 nc hc ⊢
  obtain ⟨c1, c2, c3⟩ := hc
  have he : (Event.of 0x16 u.conductorUnit (d + t * 2 ^ 16 + (if u.split then 2 else 1) * 2 ^ 32)).part = none := rfl
  have hk : (Event.of 0x16 u.conductorUnit (d + t * 2 ^ 16 + (if u.split then 2 else 1) * 2 ^ 32)).kind = 0x16 := rfl
  generalize Event.of _ _ _ = e at he hk ⊢
  have hr : ∀ sub, sub < 256 → (u.raise e).num 0x9200 sub = u.num 0x9200 sub := fun sub hs =>
    State.raise_untraced ⟨.inr (by decide), hs⟩ (by decide) (by decide) u (by omega) fun p hp => absurd (he.symm.trans hp) nofun
  have hcount := State.raise_counted_alone u (e := e) (by omega) he
  rw [hk, nc] at hcount
  obtain ⟨_, _, _, _, _, hn⟩ := Noticed.raise u he
  have hcond : (u.raise e).conductor = u.conductor ∧ (u.raise e).heldOps = u.heldOps := by
    rw [hn]
    exact ⟨rfl, rfl⟩
  generalize u.raise e = v at hr hcount hcond ⊢
  have hset : ∀ o sub, objKey o sub ≠ objKey 0xA030 1 → (v.setSessions []).num o sub = v.num o sub := fun o sub h => State.num_setNum_ne _ _ h
  have hv : (v.setSessions []).conductor = v.conductor ∧ (v.setSessions []).heldOps = v.heldOps := ⟨rfl, rfl⟩
  refine ⟨?_, ?_, ?_, ?_, rfl, ?_, ?_⟩
  · rw [hv.1, hcond.1, c1]
  · rw [hv.1, hcond.1, c2]
  · rw [hset _ _ (by decide), hr _ (by decide), n1]
  · rw [hset _ _ (by decide), hr _ (by decide), n2]
  · rw [hv.2, hcond.2, c3]
  · rw [EventCounted, hset _ _ (by decide), hcount]

/-- A claim with a majority: the office taken, and the accesses held served each once and in order (R515). -/
theorem State.takeOffice_left (s : State) (d u : Nat) : ∃ t : State, s.takeOffice d u = t.forEach s.heldOps State.runAccess ∧
    t.conductor.inOffice = true ∧ t.conductorDie = d ∧ t.term = u ∧ t.security.sessions = [] ∧ t.conductor.claim = none ∧ t.heldOps = [] ∧
    EventCounted s t 0x16 := by
  obtain ⟨i1, i2, i3, i4, i5, i6, i7⟩ := s.installed_left d u
  have heq := s.takeOffice_eq d u
  have hk := OfficeKept.waitsSettled (s.installed d u)
  generalize (s.installed d u).waitsSettled = w at heq hk
  generalize s.installed d u = v at i1 i2 i3 i4 i5 i6 i7 hk
  have hrest := hk.rest
  simp only [Prod.mk.injEq] at hrest
  obtain ⟨h1, h2, h3⟩ := hrest
  have hnum : ({ w with heldOps := [] } : State).num = w.num := rfl
  refine ⟨{ w with heldOps := [] }, ?_, ?_, ?_, ?_, ?_, ?_, rfl, ?_⟩
  · rw [heq, State.serveHeld_eq, h3, i6]
  · exact (congrArg Conductor.inOffice h1).trans i1
  · rw [State.conductorDie, hnum, hk.num _ _ (by decide) (by decide), i3]
  · rw [State.term, hnum, hk.num _ _ (by decide) (by decide), i4]
  · exact (congrArg Security.sessions h2).trans i5
  · exact (congrArg Conductor.claim h1).trans i2
  · rw [EventCounted, hnum, hk.num _ _ (by decide) (by decide), i7]

/-- A claim without one: its grants given back, and a half that is split off fenced (R628, R631). -/
theorem State.failClaim_left (s : State) (d u grants : Nat) : let t := s.failClaim d u grants
    t.conductor.claim = none ∧ t.conductor.inOffice = s.conductor.inOffice ∧ (∀ i ∈ setBits 3 grants, .ring "GRANT RELEASE" (tokenDie i) u d ∈ t.out) ∧
      (s.split = true → t.num 0x9200 5 = s.now ∧ ∀ x, x < 64 → westDie x = westDie (sDie d) → .ring "FENCE" x u d ∈ t.out) := by
  intro t
  have ht : t = s.failClaim d u grants := rfl
  clear_value t
  unfold State.failClaim at ht
  extract_lets v half at ht
  have hv : v.conductor.claim = none ∧ v.conductor.inOffice = s.conductor.inOffice ∧ v.now = s.now ∧ v.split = s.split := ⟨rfl, rfl, rfl, rfl⟩
  have hout : ∀ i ∈ setBits 3 grants, Output.ring "GRANT RELEASE" (tokenDie i) u d ∈ v.out := fun i hi =>
    List.mem_append_right _ (List.mem_map.2 ⟨i, hi, rfl⟩)
  clear_value v
  obtain ⟨v1, v2, v3, v4⟩ := hv
  by_cases hs : s.split = true
  · rw [if_neg (by rw [v4, hs]; decide)] at ht
    rw [ht]
    refine ⟨v1, v2, fun i hi => List.mem_append_left _ (hout i hi), fun _ => ⟨?_, fun x hx hw => List.mem_append_right _ (List.mem_map.2 ⟨x, ?_, rfl⟩)⟩⟩
    · rw [← v3]
      exact State.num_setNum_same ..
    · exact List.mem_filter.2 ⟨List.mem_range.2 hx, by rw [hw]; exact beq_self_eq_true _⟩
  · rw [if_pos (by rw [v4]; simpa using hs)] at ht
    rw [ht]
    exact ⟨v1, v2, hout, fun h => absurd h hs⟩

/-- Settles O52, register by register, then by what an office taken and a claim failed leave. -/
theorem conductorIsElected : Obligations.ConductorIsElected := by
  unfold Obligations.ConductorIsElected
  intro s reg sdie term d r only hlen
  refine ⟨fun hf ho ht => ⟨⟨_, execTokenRenewal_owner hf ho ht, State.setReg_only hlen reg _, rfl⟩, ⟨_, execGrantRelease_owner hf ho ht, State.setReg_only hlen reg _, rfl⟩⟩,
    fun hf ha he => ⟨_, execTokenClaim_granted hf ha he, State.setReg_only hlen reg _, rfl⟩, fun h => execTokenClaim_refused h,
    ⟨_, rfl, State.setReg_only hlen reg _, rfl⟩, fun ho => ⟨?_, fun ha => ⟨_, execRenewalAck_first reg ho ha, rfl⟩,
      fun ha => ⟨_, execConductorStepDown_minority ho ha, rfl, ?_⟩, execConductorStepDown_majority⟩,
    fun hr he hn => ?_, fun u grants hc => ?_⟩
  · have hx : exec .leaseRenewal s = execLeaseRenewal s := rfl
    rw [execLeaseRenewal, if_neg (by rw [ho]; decide)] at hx
    exact ⟨_, hx, rfl, rfl⟩
  · rw [State.serves]
    exact Bool.and_false _
  · intro u
    exact ⟨_, execClaimTimeout_claims sdie hr he hn, rfl, rfl⟩
  · have hx := execClaimGrant_claim grants hc
    refine ⟨fun he => ?_, fun he hp => ?_, fun he hp => ?_⟩
    · rw [hx, if_pos (by rw [show s.elects sdie.toNat = false from he]; rfl)]
    · rw [if_neg (by rw [show s.elects sdie.toNat = true from he]; decide), if_pos hp] at hx
      obtain ⟨t, ht, hrest⟩ := s.takeOffice_left d u
      exact ⟨t, hx.trans (congrArg Host.Outcome.next ht), hrest⟩
    · rw [if_neg (by rw [show s.elects sdie.toNat = true from he]; decide), if_neg (by omega)] at hx
      exact ⟨_, hx, s.failClaim_left d u grants.toNat⟩

end Sys2Proof.Machine
end

section
/-! SUPPORT. Dies that go inert, and a half declared lost. -/

namespace Sys2Proof.Machine

theorem testBit_withBit (n k j : Nat) : (withBit n k).testBit j = (decide (j = k) || n.testBit j) := by
  rw [withBit, Nat.testBit_or, Nat.testBit_two_pow, Bool.or_comm]
  simp only [eq_comm]

/-- Every memory is as before but the cores' own that `C` names. -/
structure MemoryBut (C : Nat → Prop) (s t : State) : Prop where
  core : ∀ k, ¬ C k → (t.core k).opnd = (s.core k).opnd ∧ (t.core k).acc = (s.core k).acc
  buf : ∀ k, (t.cluster k).buf = (s.cluster k).buf
  dram : t.dram = s.dram

theorem SameMemory.but {s t : State} (h : SameMemory s t) (C : Nat → Prop) : MemoryBut C s t := ⟨fun k _ => h.1 k, h.2.1, h.2.2⟩

theorem MemoryBut.refl (C : Nat → Prop) (s : State) : MemoryBut C s s := (SameMemory.refl s).but C

theorem MemoryBut.trans {C : Nat → Prop} {s t u : State} (h : MemoryBut C s t) (g : MemoryBut C t u) : MemoryBut C s u :=
  ⟨fun k hk => ⟨(g.core k hk).1.trans (h.core k hk).1, (g.core k hk).2.trans (h.core k hk).2⟩, fun k => (g.buf k).trans (h.buf k), g.dram.trans h.dram⟩

theorem MemoryBut.forEach {α : Type} {C : Nat → Prop} {f : State → α → State} {l : List α} (hf : ∀ s x, x ∈ l → MemoryBut C s (f s x)) (s : State) :
    MemoryBut C s (s.forEach l f) := by
  induction l generalizing s with
  | nil => exact .refl C s
  | cons x l ih => exact (hf s x List.mem_cons_self).trans (ih (fun s y hy => hf s y (List.mem_cons_of_mem _ hy)) _)

theorem MemoryBut.modCore {C : Nat → Prop} (s : State) {pc : Nat} (h : C pc) (f : Core → Core) : MemoryBut C s (s.modCore pc f) := by
  refine ⟨fun k hk => ?_, fun _ => rfl, rfl⟩
  rw [State.core_modCore, if_neg (by rintro rfl; exact hk h)]
  exact ⟨rfl, rfl⟩

/-! ### The fence of a cluster -/

theorem State.stopOrReplay_sameMemory (s : State) (p : Nat) (can : Bool) (f : Failure) : SameMemory s (s.stopOrReplay p can f) := by
  unfold State.stopOrReplay
  split
  · exact .refl s
  · split
    · exact (Resequenced.stopStep s p).sameMemory.trans (State.modRunning_sameMemory ..)
    · exact s.failStep_sameMemory p f

theorem State.stopOrReplay_num (s : State) (p : Nat) (can : Bool) (f : Failure) (o sub : Nat) : (s.stopOrReplay p can f).num o sub = s.num o sub := by
  unfold State.stopOrReplay
  split
  · rfl
  · split
    · exact (Resequenced.stopStep s p).num o sub
    · exact s.failStep_num p f o sub

theorem State.raiseBreach_num {o sub : Nat} (hs : sub < 256) (h9 : sub ≠ 9) (hA : sub ≠ 0x0A) (h0 : o ≠ 0x9000) (h2 : o ≠ 0x9002) (s : State) (p : Nat) {e : Event}
    (hk : e.kind < 256) : (s.raiseBreach p e).num o sub = s.num o sub := by
  rcases s.raiseBreach_cases p e with h | h
  · rw [h, State.raise_num hs h9 hA h0 s (by exact hk), if_neg (by omega)]
  · rw [h, State.raise_num hs h9 hA h0 _ (by exact hk), if_neg (by omega), State.markBreach_num]

theorem State.modPart_sameMemory (s : State) (p : Nat) (f : Part → Part) : SameMemory s (s.modPart p f) := ⟨fun _ => ⟨rfl, rfl⟩, fun _ => rfl, rfl⟩

theorem State.fenceNote_num (s : State) (pc bank cause o sub : Nat) : (s.fenceNote pc bank cause).num o sub = s.num o sub := by
  unfold State.fenceNote
  exact State.setBlob_num ..

theorem State.fenceCluster_memory (s : State) (k cause : Nat) : MemoryBut (fun pc => 9 * k ≤ pc ∧ pc < 9 * k + 9) s (s.fenceCluster k cause) := by
  unfold State.fenceCluster
  extract_lets s1 runs flying s2 s3 e
  have h1' : SameMemory s s1 := ⟨fun _ => ⟨rfl, rfl⟩, fun _ => rfl, rfl⟩
  have h1 : MemoryBut (fun pc => 9 * k ≤ pc ∧ pc < 9 * k + 9) s s1 := h1'.but _
  have h2 : MemoryBut (fun pc => 9 * k ≤ pc ∧ pc < 9 * k + 9) s1 s2 := .forEach (fun t r _ => (State.stopOrReplay_sameMemory ..).but _) s1
  have h3 : MemoryBut (fun pc => 9 * k ≤ pc ∧ pc < 9 * k + 9) s2 s3 := .forEach (fun t pc hpc => .modCore t (mem_rangeFrom.1 hpc) _) s2
  have h := (h1.trans h2).trans h3
  split
  · exact .refl _ s
  · split
    · exact h.trans ((Logged.raise ..).sameMemory.but _)
    next p _ =>
      have h4 : SameMemory s3 (s3.modPart p fun q => { q with mapDirty := true }) := State.modPart_sameMemory ..
      dsimp only
      split
      · exact h.trans ((h4.trans (State.raiseBreach_sameMemory ..)).but _)
      · exact h.trans ((h4.trans (Logged.raise ..).sameMemory).but _)

/-- The fences of clusters after one more is fenced. -/
theorem State.fenceCluster_fenced (s : State) (k cause j : Nat) : (s.fenceCluster k cause).clusterFenced j = (decide (j = k) || s.clusterFenced j) := by
  unfold State.fenceCluster
  extract_lets s1 runs flying s2 s3 e
  have h1 : s1.num 0x9160 1 = withBit (s.num 0x9160 1) k := by
    rw [show s1 = (s.setNum 0x9160 1 _).fenceNote .. from rfl, State.fenceNote_num, State.num_setNum_same]
  have h2 : s2.num 0x9160 1 = s1.num 0x9160 1 := State.forEach_num (fun t r => State.stopOrReplay_num ..) _ s1
  have h3 : s3.num 0x9160 1 = s2.num 0x9160 1 := by
    refine State.forEach_num ?_ _ s2
    exact fun _ _ => rfl
  have hk : e.kind < 256 := by exact (by decide : (0x10 : Nat) < 256)
  have h : ∀ t : State, t.num 0x9160 1 = s3.num 0x9160 1 → t.clusterFenced j = (decide (j = k) || s.clusterFenced j) := fun t ht => by
    rw [State.clusterFenced, ht, h3, h2, h1, testBit_withBit]
    rfl
  split
  next hf =>
    by_cases hj : j = k
    · rw [hj, hf]
      simp
    · simp [hj]
  · split
    · exact h _ ((State.raise_num (by decide) (by decide) (by decide) (by decide) _ hk).trans (if_neg (by omega)))
    next p _ =>
      have h4 : (s3.modPart p fun q => { q with mapDirty := true }).num 0x9160 1 = s3.num 0x9160 1 := State.modPart_num ..
      dsimp only
      split
      · exact h _ ((State.raiseBreach_num (by decide) (by decide) (by decide) (by decide) (by decide) _ p (by exact hk)).trans h4)
      · exact h _ (((State.raise_num (by decide) (by decide) (by decide) (by decide) _ (by exact hk)).trans (if_neg (by omega))).trans h4)

theorem State.fenceClusters_fenced (l : List Nat) (cause j : Nat) : ∀ s : State,
    (s.forEach l fun s k => s.fenceCluster k cause).clusterFenced j = (decide (j ∈ l) || s.clusterFenced j) := by
  induction l with
  | nil => exact fun _ => rfl
  | cons k l ih =>
    intro s
    rw [State.forEach_cons, ih, State.fenceCluster_fenced]
    by_cases h : j = k <;> by_cases h' : j ∈ l <;> simp [h, h']

/-! ### A die that goes inert -/

/-- A unit's table with unit `u` stopped. -/
def stopUnit (t : Tab UnitSt) (u : Nat) : Tab UnitSt := tabSet UnitSt.idle t u { tabGet UnitSt.idle t u with halt := .stopped }

theorem stopUnits_halt {u : Nat} (l : List Nat) : ∀ t : Tab UnitSt, u ∈ l ∨ (tabGet UnitSt.idle t u).halt = .stopped →
    (tabGet UnitSt.idle (l.foldl stopUnit t) u).halt = .stopped := by
  induction l with
  | nil => exact fun t h => h.resolve_left List.not_mem_nil
  | cons x l ih =>
    intro t h
    rw [List.foldl_cons]
    refine ih _ ?_
    rw [stopUnit]
    by_cases hx : u = x
    · rw [hx, tabGet_tabSet_same]
      exact .inr rfl
    · rw [tabGet_tabSet_ne _ _ _ hx]
      exact h.imp_left fun hm => (List.mem_cons.1 hm).resolve_left hx

theorem Core.halted_units (c : Core) : c.halted.sq.units = (List.range 5).foldl stopUnit c.sq.units := by
  unfold Core.halted
  generalize List.range 5 = l
  rfl

theorem Core.halted_unit (c : Core) {u : Nat} (hu : u < 5) : (c.halted.sq.unit u).halt = .stopped := by
  rw [Seqr.unit, Core.halted_units]
  exact stopUnits_halt _ _ (.inl (List.mem_range.2 hu))

theorem State.haltCores_unit (l : List Nat) {pc u : Nat} (hu : u < 5) : ∀ s : State, pc ∈ l ∨ ((s.core pc).sq.unit u).halt = .stopped →
    (((s.forEach l fun s pc => s.modCore pc Core.halted).core pc).sq.unit u).halt = .stopped := by
  induction l with
  | nil => exact fun s h => h.resolve_left List.not_mem_nil
  | cons x l ih =>
    intro s h
    rw [State.forEach_cons]
    refine ih _ ?_
    rw [State.core_modCore]
    split
    next hx => exact .inr (Core.halted_unit _ hu)
    next hx => exact h.imp_left fun hm => (List.mem_cons.1 hm).resolve_left hx



theorem State.link_setLink_ne (s : State) (d : Nat) {n m : Nat} (h : m ≠ n) (v : LinkSt) : (s.setLink d n v).link d m = s.link d m := by
  unfold State.link State.setLink
  exact tabGet_tabSet_ne _ _ _ (by omega)

theorem State.deadLinks_state (d : Nat) (l : List Nat) {n : Nat} : ∀ s : State, n ∈ l ∨ (s.link d n).state = 2 →
    ((s.forEach l fun s n => s.setLink d n { LinkSt.idle with state := 2 }).link d n).state = 2 := by
  induction l with
  | nil => exact fun s h => h.resolve_left List.not_mem_nil
  | cons x l ih =>
    intro s h
    rw [State.forEach_cons]
    refine ih _ ?_
    by_cases hx : n = x
    · rw [hx, State.link_setLink_same]
      exact .inr rfl
    · rw [State.link_setLink_ne _ _ hx]
      exact h.imp_left fun hm => (List.mem_cons.1 hm).resolve_left hx

/-- A die marked inert, its ports out of service (R630). -/
def State.markInert (s : State) (d : Nat) : State :=
  (s.setNum 0x9210 (d + 1) 3).forEach (List.range (portCount d)) fun s n => s.setLink d n { LinkSt.idle with state := 2 }

theorem State.markInert_left (s : State) (d : Nat) : (s.markInert d).num 0x9210 (d + 1) = 3 ∧ (s.markInert d).num 0x9160 1 = s.num 0x9160 1 ∧
    (∀ n, n < portCount d → ((s.markInert d).link d n).state = 2) ∧ SameMemory s (s.markInert d) := by
  have hlink : ∀ o sub, (s.markInert d).num o sub = (s.setNum 0x9210 (d + 1) 3).num o sub := fun o sub => by
    refine State.forEach_num ?_ _ _
    exact fun _ _ => rfl
  refine ⟨(hlink ..).trans (State.num_setNum_same ..), (hlink ..).trans (State.num_setNum_ne _ _ (by unfold objKey; omega)),
    fun n hn => State.deadLinks_state d _ _ (.inl (List.mem_range.2 hn)), ?_⟩
  refine SameMemory.trans (t := s.setNum 0x9210 (d + 1) 3) ⟨fun _ => ⟨rfl, rfl⟩, fun _ => rfl, rfl⟩ (SameMemory.forEach ?_ _ _)
  exact fun _ _ => ⟨fun _ => ⟨rfl, rfl⟩, fun _ => rfl, rfl⟩

/-- What a die of a kind loses once it is marked. -/
def State.dieGone (s : State) (d : Nat) : State :=
  if d < 0x10 then s.forEach (rangeFrom (36 * d) 36) fun s pc => s.modCore pc Core.halted
  else if d < 0x28 then s.modStack (d - 0x10) fun m => { m with cmds := [] }
  else if d < 0x2C then s.forEach ([2 * (d - 0x28), 2 * (d - 0x28) + 1].filter (· ≠ 0)) State.idlePort
  else if 0x3C ≤ d then
    let s := (s.setNum 0x9200 3 (withoutBit (s.num 0x9200 3) (d - 0x3C))).dropClaim d
    if s.conductor.inOffice && s.conductorDie == d - 0x3C then s.leaveOffice else s
  else s

theorem State.goInert_eq {s : State} {d : Nat} (h : s.dieState d ≠ 3) : s.goInert d =
    ((if d < 0x10 then s.forEach (rangeFrom (4 * d) 4) fun s k => s.fenceCluster k 8 else s).markInert d).dieGone d := by
  rw [State.goInert, if_neg h]
  rfl

theorem State.dieGone_num (s : State) {d : Nat} (hd : d < 64) {o sub : Nat} (h : o = 0x9210 ∨ o = 0x9160) (hs : sub < 256) : (s.dieGone d).num o sub = s.num o sub := by
  unfold State.dieGone
  split
  · refine State.forEach_num ?_ _ s
    exact fun _ _ => rfl
  · split
    · rfl
    · split
      · refine State.forEach_num_mem (fun t n hn => ?_) s
        have hn4 : n < 8 := by
          have := (List.mem_filter.1 hn).1
          simp only [List.mem_cons, List.not_mem_nil, or_false] at this
          omega
        exact (State.num_setNum_ne _ _ (by unfold objKey; omega)).trans ((State.num_setNum_ne _ _ (by unfold objKey; omega)).trans
          (State.num_setNum_ne _ _ (by unfold objKey; omega)))
      · split
        · have hc : ∀ t : State, (t.dropClaim d).num o sub = t.num o sub := fun t => by
            unfold State.dropClaim
            split
            · rfl
            · rfl
          have hset := (hc (s.setNum 0x9200 3 (withoutBit (s.num 0x9200 3) (d - 0x3C)))).trans (State.num_setNum_ne s _ (by unfold objKey; omega))
          dsimp only
          split
          · exact hset
          · exact hset
        · rfl

theorem State.dieGone_links (s : State) (d : Nat) : (s.dieGone d).links = s.links := by
  have each : ∀ {α : Type} (f : State → α → State) (l : List α) (s : State), (∀ s x, (f s x).links = s.links) → (s.forEach l f).links = s.links :=
    fun f l s hf => Blind.forEach (Φ := State.links) hf l s
  unfold State.dieGone
  split
  · exact each _ _ s fun _ _ => rfl
  · split
    · rfl
    · split
      · exact each _ _ s fun _ _ => rfl
      · split
        · have hc : ∀ t : State, (t.dropClaim d).links = t.links := fun t => by
            unfold State.dropClaim
            split
            · rfl
            · rfl
          have hset := hc (s.setNum 0x9200 3 (withoutBit (s.num 0x9200 3) (d - 0x3C)))
          dsimp only
          split
          · exact hset
          · exact hset
        · rfl

theorem State.dieGone_memory (s : State) (d : Nat) : SameMemory s (s.dieGone d) := by
  have plain : ∀ t : State, t.cores = s.cores → t.clusters = s.clusters → t.dram = s.dram → SameMemory s t := fun t h1 h2 h3 =>
    ⟨fun k => by rw [State.core, State.core, h1]; exact ⟨rfl, rfl⟩, fun k => by rw [State.cluster, State.cluster, h2], h3⟩
  unfold State.dieGone
  split
  · exact SameMemory.forEach (fun t pc => (Resequenced.modCore t pc fun _ => ⟨_, rfl⟩).sameMemory) _ s
  · split
    · exact .modStack ..
    · split
      · refine SameMemory.forEach ?_ _ s
        exact fun _ _ => ⟨fun _ => ⟨rfl, rfl⟩, fun _ => rfl, rfl⟩
      · split
        · have hc : ∀ t : State, SameMemory t (t.dropClaim d) := fun t => by
            unfold State.dropClaim
            split
            · exact ⟨fun _ => ⟨rfl, rfl⟩, fun _ => rfl, rfl⟩
            · exact .refl t
          have hset := SameMemory.trans (s := s) ⟨fun _ => ⟨rfl, rfl⟩, fun _ => rfl, rfl⟩ (hc (s.setNum 0x9200 3 (withoutBit (s.num 0x9200 3) (d - 0x3C))))
          dsimp only
          split
          · exact hset.trans ⟨fun _ => ⟨rfl, rfl⟩, fun _ => rfl, rfl⟩
          · exact hset
        · exact .refl s

theorem State.goInert_left {s : State} {d : Nat} (hd : d < 64) (h : s.dieState d ≠ 3) : let t := s.goInert d
    t.dieState d = 3 ∧ (∀ n, n < portCount d → (t.link d n).state = 2) ∧ t.dram = s.dram ∧ (∀ k, (t.cluster k).buf = (s.cluster k).buf) ∧
      (∀ k, ¬ (d < 16 ∧ 36 * d ≤ k ∧ k < 36 * d + 36) → (t.core k).opnd = (s.core k).opnd ∧ (t.core k).acc = (s.core k).acc) ∧
      (∀ k, d < 16 → k < 4 → t.clusterFenced (4 * d + k) = true) ∧
      ∀ i u, d < 16 → i < 36 → u < 5 → ((t.core (36 * d + i)).sq.unit u).halt = .stopped := by
  intro t
  have ht : t = s.goInert d := rfl
  clear_value t
  rw [State.goInert_eq h] at ht
  generalize hu : (if d < 0x10 then s.forEach (rangeFrom (4 * d) 4) fun s k => s.fenceCluster k 8 else s) = u at ht
  have hmem : MemoryBut (fun k => d < 16 ∧ 36 * d ≤ k ∧ k < 36 * d + 36) s u := by
    rw [← hu]
    split
    next h16 =>
      refine MemoryBut.forEach (fun t k hk => ?_) s
      have := mem_rangeFrom.1 hk
      have hf := State.fenceCluster_memory t k 8
      exact ⟨fun pc hpc => hf.core pc (by omega), hf.buf, hf.dram⟩
    · exact .refl _ s
  have hfenced : ∀ k, d < 16 → k < 4 → u.clusterFenced (4 * d + k) = true := fun k h16 hk => by
    rw [← hu, if_pos h16, State.fenceClusters_fenced, decide_eq_true (mem_rangeFrom.2 (by omega))]
    rfl
  obtain ⟨m1, m2, m3, m4⟩ := u.markInert_left d
  have hall := (hmem.trans (m4.but _)).trans ((State.dieGone_memory (u.markInert d) d).but _)
  rw [← ht] at hall
  refine ⟨?_, fun n hn => ?_, hall.dram, hall.buf, hall.core, fun k h16 hk => ?_, fun i u' h16 hi hu' => ?_⟩
  · rw [State.dieState, ht, State.dieGone_num _ hd (.inl rfl) (by omega), m1]
  · rw [State.link, ht, State.dieGone_links]
    exact m3 n hn
  · have hk' := hfenced k h16 hk
    rw [State.clusterFenced] at hk' ⊢
    rw [ht, State.dieGone_num _ hd (.inr rfl) (by decide), m2, hk']
  · rw [ht, State.dieGone, if_pos h16]
    exact State.haltCores_unit _ hu' _ (.inl (mem_rangeFrom.2 (by omega)))

/-! ### A lost half -/

theorem State.declareLost_num (l : List Nat) {y : Nat} (hy : y < 64) : ∀ s : State, (∀ x ∈ l, x < 64) →
    (s.forEach l fun s x => s.setNum 0x9210 (x + 1) 2).num 0x9210 (y + 1) = if y ∈ l then 2 else s.num 0x9210 (y + 1) := by
  induction l with
  | nil => exact fun _ _ => rfl
  | cons x l ih =>
    intro s hl
    have hx := hl x List.mem_cons_self
    rw [State.forEach_cons, ih _ fun z hz => hl z (List.mem_cons_of_mem _ hz)]
    by_cases hm : y ∈ l
    · rw [if_pos hm, if_pos (List.mem_cons_of_mem _ hm)]
    · rw [if_neg hm, State.num_setNum]
      by_cases he : y = x
      · rw [if_pos (by rw [he]), if_pos (by rw [he]; exact List.mem_cons_self)]
      · rw [if_neg (by unfold objKey; omega), if_neg (by simp [he, hm])]

theorem execSegmentLost_declares {s : State} {x : Nat} (ho : s.conductor.inOffice = true) (hs : s.split = true) (hx : x < 64)
    (hw : westDie x ≠ westDie (sDie s.conductorDie)) (hd : s.dieState x ≠ 2) : ∃ t, exec .segmentLost s = .next t ∧ EventCounted s t 8 ∧
      t.power.fault = true ∧ t.num 0x9200 5 = s.now ∧
        ∀ y, y < 64 → t.dieState y = if westDie y = westDie (sDie s.conductorDie) then s.dieState y else 2 := by
  have hmem : ∀ y, y < 64 → (y ∈ (List.range 64).filter (fun x => westDie x != westDie (sDie s.conductorDie)) ↔ westDie y ≠ westDie (sDie s.conductorDie)) := fun y hy => by
    rw [List.mem_filter, List.mem_range, bne_iff_ne]
    exact and_iff_right hy
  have hxe : exec .segmentLost s = execSegmentLost s := rfl
  rw [execSegmentLost] at hxe
  dsimp only at hxe
  rw [if_neg (by
    rw [ho, hs]
    have : ((List.range 64).filter fun x => westDie x != westDie (sDie s.conductorDie)).all (fun x => s.dieState x == 2) = false :=
      List.all_eq_false.2 ⟨x, (hmem x hx).2 hw, by simpa using hd⟩
    rw [this]
    decide)] at hxe
  have hlost := fun y (hy : y < 64) => State.declareLost_num ((List.range 64).filter fun x => westDie x != westDie (sDie s.conductorDie)) hy s
    fun z hz => List.mem_range.1 (List.mem_filter.1 hz).1
  have hcount := State.forEach_num_mem (o := 0x9002) (sub := 8) (f := fun s x => s.setNum 0x9210 (x + 1) 2)
    (l := (List.range 64).filter fun x => westDie x != westDie (sDie s.conductorDie)) (fun t y hy => by
      have hy64 := List.mem_range.1 (List.mem_filter.1 hy).1
      exact State.num_setNum_ne t 2 (by unfold objKey; omega)) s
  have hnow : (s.forEach ((List.range 64).filter fun x => westDie x != westDie (sDie s.conductorDie)) fun s x => s.setNum 0x9210 (x + 1) 2).now = s.now := by
    refine Blind.forEach (Φ := State.now) ?_ _ s
    exact fun _ _ => rfl
  generalize s.forEach ((List.range 64).filter fun x => westDie x != westDie (sDie s.conductorDie)) (fun s x => s.setNum 0x9210 (x + 1) 2) = u at hxe hcount hlost hnow
  rw [hnow] at hxe
  generalize hv : u.setNum 0x9200 5 s.now = v at hxe
  have hvn : ∀ o sub, objKey o sub ≠ objKey 0x9200 5 → v.num o sub = u.num o sub := fun o sub h => by rw [← hv, State.num_setNum_ne u _ h]
  have hv5 : v.num 0x9200 5 = s.now := by rw [← hv, State.num_setNum_same]
  generalize u.conductorUnit = c at hxe
  have hrn : ∀ o sub, o = 0x9210 ∨ o = 0x9200 → sub < 256 → (v.raise (.of 0x08 c 4)).num o sub = v.num o sub := fun o sub h h' =>
    State.raise_untraced ⟨.inr (by omega), h'⟩ (by omega) (by omega) v (by exact (by decide : 0x08 < 256)) fun p hp => absurd hp nofun
  have hc : (v.raise (.of 0x08 c 4)).num 0x9002 8 = (v.num 0x9002 8 + 1) % 2 ^ 64 :=
    State.raise_counted_alone v (e := .of 0x08 c 4) (by exact (by decide : 0x08 < 256)) rfl
  obtain ⟨out, hp⟩ := (v.raise (.of 0x08 c 4)).faultPin_eq true
  have hpn : ((v.raise (.of 0x08 c 4)).faultPin true).num = (v.raise (.of 0x08 c 4)).num := by rw [hp]; rfl
  refine ⟨_, hxe, ?_, by rw [State.faultPin_power], ?_, fun y hy => ?_⟩
  · rw [EventCounted, hpn, hc, hvn _ _ (by decide), hcount]
  · rw [hpn, hrn _ _ (.inr rfl) (by decide), hv5]
  · rw [State.dieState, hpn, hrn _ _ (.inl rfl) (by omega), hvn _ _ (by unfold objKey; omega), hlost y hy]
    by_cases hyw : westDie y = westDie (sDie s.conductorDie)
    · rw [if_pos hyw, if_neg fun h => (hmem y hy).1 h hyw]
      rfl
    · rw [if_neg hyw, if_pos ((hmem y hy).2 hyw)]

/-- Settles O53, by what an inert die, a lost half and a crossing write. -/
theorem halvesPart : Obligations.HalvesPart := by
  unfold Obligations.HalvesPart
  intro s die d inert
  have hd : d < 64 := die.isLt
  refine ⟨fun h => ⟨⟨_, rfl, State.goInert_left hd h⟩, ⟨_, rfl, State.goInert_left hd h⟩⟩, fun h => ?_, fun x ho hs hx hw hdie => execSegmentLost_declares ho hs hx hw hdie,
    fun north => ?_⟩
  · have e : s.goInert d = s := if_pos h
    exact ⟨congrArg Host.Outcome.next e, congrArg Host.Outcome.next e⟩
  · intro i
    refine ⟨⟨_, rfl, rfl, fun j => ?_⟩, ⟨_, rfl, rfl, fun j => ?_⟩⟩
    · rw [State.num_setNum_same, testBit_withBit]
    · rw [State.num_setNum_same, testBit_withoutBit, Bool.and_comm]

end Sys2Proof.Machine
end

section
/-! SUPPORT. What the codec's reads and writes of pictures leave, and the channels and their pipes. -/

namespace Sys2Proof.Machine

/-! ### Reads and writes of pictures -/

theorem Stored.foldl {α σ : Type} (π : σ → State) {f : σ → α → σ} (hf : ∀ a x, Stored (π a) (π (f a x))) (l : List α) (a : σ) :
    Stored (π a) (π (l.foldl f a)) := by
  induction l generalizing a with
  | nil => exact .refl _
  | cons x l ih => exact (hf a x).trans (ih _)

theorem Stored.count (s : State) (o sub n : Nat) : Stored s (s.count o sub n) := (Logged.count ..).stored (.count ..)

/-- A fold over a state and a value, told by what each step answers. -/
theorem Stored.foldl_fst {α β : Type} {f : State × β → α → State × β} (hf : ∀ s x t, f s x = t → Stored s.1 t.1) (l : List α) (s : State × β) :
    Stored s.1 (l.foldl f s).1 := .foldl Prod.fst (fun a x => hf a x _ rfl) l s

theorem Stored.readDevice (s : State) (a n : Nat) : Stored s (s.readDevice a n).1 := by
  unfold State.readDevice
  refine Stored.foldl_fst (fun acc pc t ht => ?_) _ (s, Ram.empty)
  split at ht
  · exact ht ▸ .refl acc.1
  next p hp =>
    extract_lets base img at ht
    generalize acc.1.dramErrs base pc.2 = z at ht
    obtain ⟨ce, ue⟩ := z
    exact ht ▸ .seen acc.1 (State.place_stack hp) ce ue

theorem Stored.meshRead (s : State) (die a n : Nat) : Stored s (s.meshRead die a n).1 := by
  unfold State.meshRead
  refine Stored.foldl_fst (fun acc pc t ht => ?_) _ (s, Ram.empty)
  split at ht
  · exact ht ▸ .refl acc.1
  · split at ht
    · have h := Stored.readDevice acc.1 pc.1 pc.2
      generalize acc.1.readDevice pc.1 pc.2 = z at h ht
      obtain ⟨u, img⟩ := z
      exact ht ▸ h
    · exact ht ▸ .refl acc.1

theorem Stored.loadBytes (s : State) (die a n : Nat) : Stored s (s.loadBytes die a n).1 := by
  have h := Stored.meshRead s die a n
  unfold State.loadBytes
  generalize s.meshRead die a n = z at h
  obtain ⟨t, img⟩ := z
  exact h.trans ((Stored.count ..).trans (.count ..))

theorem Stored.raise (s : State) {e : Event} (hk : e.kind < 256) : Stored s (s.raise e) := (Logged.raise ..).stored (.raise s hk)

theorem Stored.codecLoad (s : State) (p d a n : Nat) : Stored s (s.codecLoad p d a n).1 := by
  have h := (Stored.count s (0x8010 + p) 8 n).trans (.meshRead _ (sDie d) a n)
  unfold State.codecLoad State.codecMoved
  generalize (s.count (0x8010 + p) 8 n).meshRead (sDie d) a n = z at h
  obtain ⟨t, img⟩ := z
  exact h.trans ((Stored.count ..).trans (.count ..))

theorem Stored.loadPlane (s : State) (p d k : Nat) (t : PicDesc) : Stored s (s.loadPlane p d k t).1 := by
  refine Stored.foldl Prod.fst (fun acc i => ?_) _ (s, [], [])
  exact .codecLoad acc.1 p d _ _

theorem Stored.loadPicture (s : State) (p d n : Nat) (t : PicDesc) : Stored s (s.loadPicture p d n t).1 := by
  refine Stored.foldl Prod.fst (fun acc k => ?_) _ (s, [], [])
  exact .loadPlane acc.1 p d k t

theorem Stored.codecStore (s : State) (p d a : Nat) (b : List Byte) (hi : Nat) : Stored s (s.codecStore p d a b hi).1 :=
  (Stored.meshWrite ..).trans (.count ..)

theorem Stored.storePlane (s : State) (p d k : Nat) (t : PicDesc) (row : Nat → List (Nat × List Byte)) : Stored s (s.storePlane p d k t row).1 := by
  refine Stored.foldl Prod.fst (fun acc i => Stored.foldl Prod.fst (fun acc e => ?_) _ acc) _ (s, 0)
  exact .codecStore acc.1 p d _ _ _

theorem Stored.hidePicture (s : State) (c : Nat) (t : PicDesc) (damaged : Bool) : Stored s (s.hidePicture c t damaged).1 := by
  unfold State.hidePicture
  split
  · split
    · refine Stored.foldl Prod.fst (fun acc k => ?_) _ (s, ([] : List (List (List Byte))), ([] : List Nat))
      exact .loadPlane acc.1 _ _ k _
    · exact .refl s
  · exact .refl s

theorem Stored.storePicture (s : State) (c dec : Nat) (t : PicDesc) (u : Nat) (lost : Nat → Bool) : Stored s (s.storePicture c dec t u lost).1 := by
  have h := Stored.hidePicture s c t ((List.range (ceilDiv t.width u * ceilDiv t.height u)).any lost)
  unfold State.storePicture
  dsimp only
  generalize s.hidePicture c t ((List.range (ceilDiv t.width u * ceilDiv t.height u)).any lost) = z at h
  obtain ⟨v, ref, bad⟩ := z
  refine h.trans ?_
  refine Stored.foldl Prod.fst (fun acc k => ?_) _ (v, 0, bad)
  exact .storePlane acc.1 _ _ k t _

theorem Stored.jobFaults (s : State) (c : Nat) (l : List Nat) : Stored s (s.jobFaults c l) :=
  .forEach (fun t _ _ => .raise t (by exact (by decide : (0x01 : Nat) < 256))) s

theorem Stored.channel {s t : State} (h : Stored s t) (c : Nat) : t.channel c = s.channel c := by
  rw [State.channel, h.rest]
  rfl

/-! ### Channels and their jobs -/

@[simp] theorem State.channel_setChannel_same (s : State) (c : Nat) (v : Channel) : (s.setChannel c v).channel c = v := by
  unfold State.channel State.setChannel
  exact tabGet_tabSet_same ..

theorem State.channel_setChannel_ne (s : State) {c k : Nat} (h : k ≠ c) (v : Channel) : (s.setChannel c v).channel k = s.channel k := by
  unfold State.channel State.setChannel
  exact tabGet_tabSet_ne _ _ _ h

@[simp] theorem State.channel_modChannel_same (s : State) (c : Nat) (f : Channel → Channel) : (s.modChannel c f).channel c = f (s.channel c) :=
  State.channel_setChannel_same ..

theorem State.jobs_cons {s : State} {c : Nat} {j : Job} (h : s.job c = some j) : ∃ rest, (s.channel c).jobs = j :: rest :=
  List.head?_eq_some_iff.1 h

/-- The channel of a job that is changed: its first job is the changed one. -/
theorem State.modJob_channel {s : State} {c : Nat} {j : Job} {rest : List Job} (h : (s.channel c).jobs = j :: rest) (f : Job → Job) :
    (s.modJob c f).channel c = { s.channel c with jobs := f j :: rest } := by
  rw [State.modJob, State.channel_modChannel_same, h]

theorem State.modJob_job {s : State} {c : Nat} {j : Job} (h : s.job c = some j) (f : Job → Job) : (s.modJob c f).job c = some (f j) := by
  obtain ⟨rest, hr⟩ := State.jobs_cons h
  rw [State.job, State.modJob_channel hr]
  rfl

theorem State.modChannel_job {s : State} {c : Nat} (f : Channel → Channel) (hf : ∀ v, (f v).jobs = v.jobs) : (s.modChannel c f).job c = s.job c := by
  rw [State.job, State.channel_modChannel_same, hf]
  rfl

theorem Stored.job {s t : State} (h : Stored s t) (c : Nat) : t.job c = s.job c := by
  rw [State.job, h.channel]
  rfl

/-- The picture of a job that becomes a reference. -/
theorem State.releaseRefs_left {s : State} {c : Nat} {k : Job} (hk : s.job c = some k) (dec : Nat) (j : Job) : let t := s.releaseRefs c dec j
    (∃ mask old, t.job c = some { k with extra := mask, releases := old }) ∧
      (t.channel c).refs.getLast? = some ⟨j.seq, leAt j.entry 8 8, slice j.entry 0x10 48⟩ ∧ (t.channel c).coder = (s.channel c).coder := by
  intro t
  have ht : t = s.releaseRefs c dec j := rfl
  clear_value t
  unfold State.releaseRefs at ht
  extract_lets go back mask old s1 at ht
  have h1 : s1.job c = some k := by
    refine (State.modChannel_job (s := s) (c := c) _ ?_).trans hk
    exact fun _ => rfl
  have hc : (s1.channel c).refs.getLast? = some ⟨j.seq, leAt j.entry 8 8, slice j.entry 0x10 48⟩ := by
    rw [show s1 = s.modChannel c _ from rfl, State.channel_modChannel_same]
    exact List.getLast?_concat
  have hn : (s1.channel c).coder = (s.channel c).coder := by rw [show s1 = s.modChannel c _ from rfl, State.channel_modChannel_same]
  clear_value s1
  obtain ⟨rest, hr⟩ := State.jobs_cons h1
  refine ⟨⟨mask, old, ?_⟩, ?_, ?_⟩
  · rw [ht]
    exact State.modJob_job h1 _
  · rw [ht, State.modJob_channel hr]
    exact hc
  · rw [ht, State.modJob_channel hr]
    exact hn

/-- Nothing is read to conceal a picture unless `conceal_mode` is 0: no uncorrectable word is met. -/
theorem State.hidePicture_unread {s : State} (h : s.num 0x7000 4 ≠ 0) (c : Nat) (t : PicDesc) (damaged : Bool) : (s.hidePicture c t damaged).2.2 = [] := by
  unfold State.hidePicture
  split
  · rw [if_neg fun hd => h hd.1]
  · rfl

theorem foldl_third {α β γ δ : Type} {b : γ} {f : α × β × γ → δ → α × β × γ} (hf : ∀ a x, (f a x).2.2 = b) (l : List δ) {a : α × β × γ} (ha : a.2.2 = b) :
    (l.foldl f a).2.2 = b := by
  induction l generalizing a with
  | nil => exact ha
  | cons x l ih => exact ih (hf a x)

theorem State.storePicture_unread {s : State} (h : s.num 0x7000 4 ≠ 0) (c dec : Nat) (t : PicDesc) (u : Nat) (lost : Nat → Bool) : (s.storePicture c dec t u lost).2.2 = [] := by
  have hb := State.hidePicture_unread h c t ((List.range (ceilDiv t.width u * ceilDiv t.height u)).any lost)
  unfold State.storePicture
  dsimp only
  generalize s.hidePicture c t ((List.range (ceilDiv t.width u * ceilDiv t.height u)).any lost) = z at hb
  obtain ⟨v, ref, bad⟩ := z
  refine (foldl_third (b := bad) (fun a x => ?_) _ rfl).trans hb
  exact rfl

/-- What storing the picture of a finished job leaves. -/
theorem State.finishPicture_left {s : State} {c : Nat} {j : Job} (hj : s.job c = some j) {e : Nat} {damaged whole : Bool}
    (hp : j.picture = some (e, damaged, whole)) (reached : Option Nat) : let t := s.finishPicture c j reached
    let n := j.pic.blocks (blockSide (s.num (chanObj c) 0x0C) e)
    let lost := fun (b : Nat) => whole || (reached.any fun m => decide (m ≤ b)) ||
      (damaged && (b == Config.decNumber e 4 % n || Config.decLost e b))
    ∃ k, t.job c = some k ∧ k.picture = none ∧ k.done = j.done ∧ k.concealed = ((List.range n).filter lost).length ∧
      (s.num 0x7000 4 ≠ 0 → j.status ≠ 7 → k.status = if reached.isSome then 2 else j.status) ∧
      (t.channel c).refs.getLast? = some ⟨j.seq, leAt j.entry 8 8, slice j.entry 0x10 48⟩ ∧ (t.channel c).coder = (s.channel c).coder := by
  intro t n lost
  have ht : t = s.finishPicture c j reached := rfl
  clear_value t
  unfold State.finishPicture at ht
  rw [hp] at ht
  change t = _ at ht
  have hs := Stored.storePicture s c e j.pic (blockSide (s.num (chanObj c) 0x0C) e) lost
  have hunread := fun h => State.storePicture_unread (s := s) h c e j.pic (blockSide (s.num (chanObj c) 0x0C) e) lost
  dsimp only at ht
  change t = (match s.storePicture c e j.pic (blockSide (s.num (chanObj c) 0x0C) e) lost with
    | (s, cut, bad) => ((s.jobFaults c bad).modJob c fun k => { k with
      status := if !bad.isEmpty ∨ j.status = 7 then 7 else if reached.isSome then 2 else j.status
      concealed := ((List.range n).filter lost).length, clipped := cut, picture := none }).releaseRefs c e j) at ht
  generalize s.storePicture c e j.pic (blockSide (s.num (chanObj c) 0x0C) e) lost = z at ht hs hunread
  obtain ⟨u, cut, bad⟩ := z
  dsimp only at ht
  have hf := hs.trans (.jobFaults u c bad)
  have hm := State.modJob_job ((hf.job c).trans hj) fun k => { k with
    status := if !bad.isEmpty ∨ j.status = 7 then 7 else if reached.isSome then 2 else j.status
    concealed := ((List.range n).filter lost).length, clipped := cut, picture := none }
  obtain ⟨⟨mask, old, hk⟩, hr, hc⟩ := State.releaseRefs_left hm e j
  rw [← ht] at hk hr hc
  obtain ⟨rest, hjobs⟩ := State.jobs_cons ((hf.job c).trans hj)
  refine ⟨_, hk, rfl, rfl, rfl, fun h0 h7 => ?_, hr, ?_⟩
  · have hb : bad = [] := hunread h0
    dsimp only
    rw [hb, if_neg (by simp [h7])]
  · rw [hc, State.modJob_channel hjobs, hf.channel]

theorem State.finished_left {s : State} {c : Nat} {j : Job} (hj : s.job c = some j) {e : Nat} {damaged whole : Bool}
    (hp : j.picture = some (e, damaged, whole)) : ∃ k, (s.finished c).job c = some k ∧ k.picture = none ∧
      ((s.finished c).channel c).refs.getLast? = some ⟨j.seq, leAt j.entry 8 8, slice j.entry 0x10 48⟩ ∧
      (damaged = false → whole = false → k.concealed = 0) ∧
      (whole = true → k.concealed = j.pic.blocks (blockSide (s.num (chanObj c) 0x0C) e)) := by
  have hf : s.finished c = s.finishPicture c j none := by rw [State.finished, hj]
  obtain ⟨k, hk, hpic, -, hconc, -, href, -⟩ := State.finishPicture_left hj hp none
  rw [← hf] at hk href
  refine ⟨k, hk, hpic, href, fun hd hw => ?_, fun hw => ?_⟩
  · rw [hconc, List.length_eq_zero_iff, List.filter_eq_nil_iff]
    intro b _
    rw [hd, hw]
    exact Bool.false_ne_true
  · rw [hconc, List.filter_eq_self.2 fun b _ => by rw [hw]; rfl, List.length_range]

theorem State.finished_now (s : State) (c : Nat) : (s.finished c).now = s.now := by
  unfold State.finished
  split
  next j _ =>
    unfold State.finishPicture
    split
    · rfl
    next e damaged whole _ =>
      dsimp only
      generalize hz : s.storePicture c e j.pic (blockSide (s.num (chanObj c) 0x0C) e) _ = z
      have hs : Stored s z.1 := hz ▸ .storePicture ..
      obtain ⟨u, cut, bad⟩ := z
      have h := hs.trans (.jobFaults u c bad)
      have hn : (u.jobFaults c bad).now = s.now := by rw [h.rest]
      exact hn
  · rfl

/-! ### The mode of a pipe -/

theorem State.forget_kept (s : State) (d : Nat) : let t := s.forEach [2 * d, 2 * d + 1] fun s c => s.modChannel c fun v => { v with prev := none }
    t.num = s.num ∧ t.pipeNext = s.pipeNext ∧ t.out = s.out ∧ ∀ c, (t.channel c).jobs = (s.channel c).jobs ∧ (t.channel c).records = (s.channel c).records := by
  have one : ∀ (s : State) (k c : Nat), ((s.modChannel k fun v => { v with prev := none }).channel c).jobs = (s.channel c).jobs ∧
      ((s.modChannel k fun v => { v with prev := none }).channel c).records = (s.channel c).records := fun s k c => by
    by_cases h : c = k
    · rw [h, State.channel_modChannel_same]
      exact ⟨rfl, rfl⟩
    · rw [State.modChannel, State.channel_setChannel_ne _ h]
      exact ⟨rfl, rfl⟩
  exact ⟨rfl, rfl, rfl, fun c => ⟨(one _ _ c).1.trans (one _ _ c).1, (one _ _ c).2.trans (one _ _ c).2⟩⟩

/-- What the mode that a pipe takes leaves. -/
theorem State.enterPipe_left (s : State) (d mode : Nat) : let t := s.enterPipe d mode
    t.num = (s.setNum (0x7010 + d) 1 mode).num ∧ t.pipeNextOf d = 0 ∧ t.out = s.out ∧
      ∀ c, (t.channel c).jobs = (s.channel c).jobs ∧ (t.channel c).records = (s.channel c).records := by
  unfold State.enterPipe State.pipeNextOf
  extract_lets src s1 t
  have h1 : s1.num = (s.setNum (0x7010 + d) 1 mode).num ∧ s1.pipeNext = tabSet 0 s.pipeNext d 0 ∧ s1.out = s.out ∧ s1.channel = s.channel := ⟨rfl, rfl, rfl, rfl⟩
  obtain ⟨hn, hp, ho, hc⟩ := h1
  have hz : tabGet 0 s1.pipeNext d = 0 := by rw [hp, tabGet_tabSet_same]
  have ht : t = if mode = 2 then s1.forEach [2 * d, 2 * d + 1] fun s c => s.modChannel c fun v => { v with prev := none } else s1 := rfl
  clear_value s1 t
  split at ht
  · obtain ⟨fn, fp, fo, fc⟩ := s1.forget_kept d
    rw [← ht] at fn fp fo fc
    exact ⟨fn.trans hn, (congrArg (tabGet 0 · d) fp).trans hz, fo.trans ho, fun c => by rw [← hc]; exact fc c⟩
  · rw [ht]
    exact ⟨hn, hz, ho, fun c => by rw [hc]; exact ⟨rfl, rfl⟩⟩

theorem State.enterPipe_mode (s : State) (d mode : Nat) : (s.enterPipe d mode).pipeMode d = mode := by
  rw [State.pipeMode, (s.enterPipe_left d mode).1, State.num_setNum_same]

/-- A pipe that settles takes no job and no record of a channel. -/
theorem State.settlePipe_kept (s : State) (d : Nat) : (s.settlePipe d).out = s.out ∧
    ∀ c, ((s.settlePipe d).channel c).jobs = (s.channel c).jobs ∧ ((s.settlePipe d).channel c).records = (s.channel c).records := by
  unfold State.settlePipe
  split
  · exact ⟨rfl, fun _ => ⟨rfl, rfl⟩⟩
  · exact (s.enterPipe_left d _).2.2

theorem State.wantPipe_kept (s : State) (d mode : Nat) : (s.wantPipe d mode).out = s.out ∧
    ∀ c, ((s.wantPipe d mode).channel c).jobs = (s.channel c).jobs ∧ ((s.wantPipe d mode).channel c).records = (s.channel c).records :=
  State.settlePipe_kept ..

section
variable {s : State} {d : Nat}

/-- A pipe that is free takes the mode asked for. -/
theorem State.wantPipe_free (mode : Nat) (h0 : s.inPipe (2 * d) = false) (h1 : s.inPipe (2 * d + 1) = false) (hm1 : s.pipeMode d ≠ 1) (hm3 : s.pipeMode d ≠ 3) :
    (s.wantPipe d mode).pipeMode d = mode := by
  unfold State.wantPipe
  generalize hu : ({ s with pipeNext := tabSet 0 s.pipeNext d (mode + 1) } : State) = u
  have hn : u.pipeNextOf d = mode + 1 := by rw [← hu, State.pipeNextOf, tabGet_tabSet_same]
  have hu0 : u.inPipe (2 * d) = false := by rw [← hu]; exact h0
  have hu1 : u.inPipe (2 * d + 1) = false := by rw [← hu]; exact h1
  have hm : u.pipeMode d = s.pipeMode d := by rw [← hu]; rfl
  rw [State.settlePipe, if_neg (by rw [hn, hu0, hu1, hm]; simp [hm1, hm3]), State.enterPipe_mode, hn]
  rfl

/-- A pipe that is not free, or that calibrates, notes the mode asked for. -/
theorem State.wantPipe_waits (mode : Nat) (h : (s.inPipe (2 * d) || s.inPipe (2 * d + 1)) = true ∨ s.pipeMode d = 1) :
    (s.wantPipe d mode).pipeMode d = s.pipeMode d ∧ (s.wantPipe d mode).pipeNextOf d = mode + 1 := by
  unfold State.wantPipe
  generalize hu : ({ s with pipeNext := tabSet 0 s.pipeNext d (mode + 1) } : State) = u
  have hn : u.pipeNextOf d = mode + 1 := by rw [← hu, State.pipeNextOf, tabGet_tabSet_same]
  have hp : ∀ c, u.inPipe c = s.inPipe c := fun c => by rw [← hu]; rfl
  have hm : u.pipeMode d = s.pipeMode d := by rw [← hu]; rfl
  have hc : u.pipeNextOf d = 0 ∨ u.pipeMode d = 1 ∨ u.pipeMode d = 3 ∨ u.inPipe (2 * d) ∨ u.inPipe (2 * d + 1) := by
    rw [hp, hp, hm]
    rcases h with h | h
    · exact .inr (.inr (.inr (Bool.or_eq_true _ _ ▸ h)))
    · exact .inr (.inl h)
  rw [State.settlePipe, if_pos hc]
  exact ⟨hm, hn⟩

end

end Sys2Proof.Machine
end

section
/-! SUPPORT. Jobs that end, records, calibrations, pipes and channels. -/

namespace Sys2Proof.Machine

section
variable {s : State} {ch : BitVec 5}

/-- The jobs left when the first has ended: the next starts. -/
def startNext (now : Nat) : List Job → List Job
  | [] => []
  | k :: u => { k with started := now } :: u

/-- A finished job leaves its channel, its records behind those that wait. -/
theorem execCodecJobEnd_done (hd : (s.job ch.toNat).any Job.done = true) {j : Job} {rest : List Job} (hj : ((s.finished ch.toNat).channel ch.toNat).jobs = j :: rest) :
    ∃ t, exec (.codecJobEnd ch) s = .next t ∧
      (t.channel ch.toNat).jobs = startNext s.now rest ∧
      (t.channel ch.toNat).records = ((s.finished ch.toNat).channel ch.toNat).records ++ j.releases.map (fun r => (releaseRecord r, false)) ++
        [(j.record s.now, (leAt j.entry 5 1).testBit 2)] := by
  have hx : exec (.codecJobEnd ch) s = execCodecJobEnd ch s := rfl
  have hnow := s.finished_now ch.toNat
  rw [execCodecJobEnd] at hx
  dsimp only at hx
  rw [if_neg (by rw [hd]; decide), hj] at hx
  dsimp only at hx
  rw [hnow] at hx
  clear hd hnow
  generalize s.finished ch.toNat = f at hx hj ⊢
  generalize hv : ({ f.channel ch.toNat with jobs := _, records := _, forceRa := _ } : Channel) = v at hx
  have hjobs : v.jobs = startNext s.now rest := by
    rw [← hv]
    cases rest <;> rfl
  have hrecs : v.records = (f.channel ch.toNat).records ++ j.releases.map (fun r => (releaseRecord r, false)) ++
      [(j.record s.now, (leAt j.entry 5 1).testBit 2)] := by
    rw [← hv, List.append_assoc]
  have hset := f.channel_setChannel_same ch.toNat v
  generalize f.setChannel ch.toNat v = u at hx hset
  refine ⟨_, hx, ?_⟩
  rw [← hjobs, ← hrecs, ← hset]
  split
  · exact ⟨rfl, rfl⟩
  · split
    · exact (u.wantPipe_kept _ 2).2 ch.toNat
    · exact (u.settlePipe_kept _).2 ch.toNat

/-- The oldest record is written to its ring. -/
theorem execCodecRecord_written {r : List Byte} {msi : Bool} {rest : List (List Byte × Bool)} (hr : (s.channel ch.toNat).records = (r, msi) :: rest)
    (hp : s.p0Up = true) (hroom : s.recordRoom ch.toNat = true) (hon : s.num 0x2000 1 = 1) :
    ∃ t, exec (.codecRecord ch) s = .next t ∧ (t.channel ch.toNat).records = rest ∧
      (t.channel ch.toNat).written = ((s.channel ch.toNat).written + 1) % 2 ^ 32 ∧
      t.out = s.out ++ .hostWrite (s.num (chanObj ch.toNat) 7 + (s.channel ch.toNat).written % max (s.num (chanObj ch.toNat) 8) 1 * 64) r ::
        (if msi then [.msix (s.num (chanObj ch.toNat) 0x0A)] else []) := by
  have hx : exec (.codecRecord ch) s = execCodecRecord ch s := rfl
  rw [execCodecRecord] at hx
  dsimp only at hx
  rw [hr] at hx
  dsimp only at hx
  rw [if_neg (by rw [hp, hroom, hon]; decide)] at hx
  refine ⟨_, hx, ?_⟩
  generalize hv : ({ s.channel ch.toNat with written := _, records := rest } : Channel) = v
  have hset := s.channel_setChannel_same ch.toNat v
  have hout : (s.setChannel ch.toNat v).out = s.out := rfl
  have hnum : (s.setChannel ch.toNat v).num = s.num := rfl
  have hvr : v.records = rest ∧ v.written = ((s.channel ch.toNat).written + 1) % 2 ^ 32 := by rw [← hv]; exact ⟨rfl, rfl⟩
  rw [← hset] at hvr
  clear hv
  cases msi with
  | false =>
    rw [if_neg Bool.false_ne_true, if_neg Bool.false_ne_true]
    exact ⟨hvr.1, hvr.2, by rw [State.emit, hout, hnum]⟩
  | true =>
    refine ⟨hvr.1, hvr.2, ?_⟩
    rw [if_pos rfl, if_pos rfl, State.emit, State.emit, hout, hnum, List.append_assoc]
    rfl

/-- A channel whose check passes is enabled and watches its ring. -/
theorem State.enableChan_passed {c : Nat} (h1 : s.num (chanObj c) 1 ≠ 1) (hc : s.chanCheck c = none) : let t := (s.enableChan c).1
    (s.enableChan c).2 = 0 ∧ t.num (chanObj c) 1 = 1 ∧ t.num (chanObj c) 6 = s.num (chanObj c) 5 ∧ (t.watch (4096 + c)).reads = 1 ∧ t.out = s.out := by
  have e : s.enableChan c = ((((s.setNum (chanObj c) 1 1).setNum (chanObj c) 6 (s.num (chanObj c) 5)).modChannel c fun v =>
      { v with recons := [], coder := 0, sinceRa := 0, bRun := 0 }).readEntry (4096 + c), 0) := by
    have h5 : (s.setNum (chanObj c) 1 1).num (chanObj c) 5 = s.num (chanObj c) 5 := State.num_setNum_ne _ _ (by unfold objKey; omega)
    rw [State.enableChan]
    dsimp only
    rw [if_neg h1, hc, ← h5]
  rw [e]
  generalize hu : ((s.setNum (chanObj c) 1 1).setNum (chanObj c) 6 (s.num (chanObj c) 5)).modChannel c _ = u
  have hn : u.num = ((s.setNum (chanObj c) 1 1).setNum (chanObj c) 6 (s.num (chanObj c) 5)).num := by rw [← hu]; rfl
  have ho : u.out = s.out := by rw [← hu]; rfl
  dsimp only
  refine ⟨rfl, ?_, ?_, ?_, ?_⟩
  · rw [(State.readEntry_kept ..).1, hn]
    exact (State.num_setNum_ne _ _ (by unfold objKey; omega)).trans (State.num_setNum_same ..)
  · rw [(State.readEntry_kept ..).1, hn]
    exact State.num_setNum_same ..
  · rw [State.readEntry_watch, if_pos rfl]
  · have hpool : (u.setWatch (4096 + c) ⟨1, false, false, none⟩).watchesPool (4096 + c) = true := by
      rw [State.watchesPool, decide_eq_true (by omega)]
      rfl
    rw [State.readEntry, hpool]
    exact ho

theorem State.enableChan_refused {c code b sub : Nat} (h1 : s.num (chanObj c) 1 ≠ 1) (hc : s.chanCheck c = some (code, b, sub)) :
    s.enableChan c = (s.blame code b sub, code) := by
  rw [State.enableChan]
  dsimp only
  rw [if_neg h1, hc]

/-- What an object blamed leaves of a channel, and what it tells. -/
theorem State.blame_left (s : State) (code b k : Nat) {c : Nat} (hch : c < 32) : (s.blame code b k).num (chanObj c) 1 = s.num (chanObj c) 1 ∧ EventCounted s (s.blame code b k) 0x15 := by
  have hc : 0x7100 ≤ chanObj c ∧ chanObj c < 0x9000 := by unfold chanObj; split <;> omega
  have hk : ∀ e : Event, e.kind = 0x15 → e.kind < 256 := fun e he => by rw [he]; decide
  unfold State.blame EventCounted
  constructor
  · rw [State.raise_num (o := chanObj c) (sub := 1) (by decide) (by decide) (by decide) (by omega) _ (hk _ rfl), if_neg fun h => absurd h.1 (by omega),
      State.num_setNum_ne _ _ (by unfold objKey; omega), State.num_setNum_ne _ _ (by unfold objKey; omega)]
  · refine (State.raise_counted _ (hk _ rfl) (by exact (by decide : (0x15 : Nat) ≠ 9)) (by exact (by decide : (0x15 : Nat) ≠ 0x0A))).trans ?_
    exact congrArg (fun n => (n + 1) % 2 ^ 64) ((State.num_setNum_ne _ _ (by exact (by decide : objKey 0x9002 0x15 ≠ objKey 0x2000 4))).trans
      (State.num_setNum_ne _ _ (by exact (by decide : objKey 0x9002 0x15 ≠ objKey 0x2000 3))))

theorem execChanEnable_checked {path : Path} (hch : ch.toNat < 24) (hacc : Accepted s path (chanObj ch.toNat) 1 1) (h1 : s.num (chanObj ch.toNat) 1 ≠ 1) :
    (s.chanCheck ch.toNat = none → ∃ t, exec (.chanEnable path ch) s = .next t ∧ t.num (chanObj ch.toNat) 1 = 1 ∧
        t.num (chanObj ch.toNat) 6 = s.num (chanObj ch.toNat) 5 ∧ (t.watch (4096 + ch.toNat)).reads = 1 ∧ Told s t path 0) ∧
      (∀ code b sub, s.chanCheck ch.toNat = some (code, b, sub) → ∃ t, exec (.chanEnable path ch) s = .next t ∧
        t.num (chanObj ch.toNat) 1 = s.num (chanObj ch.toNat) 1 ∧ t.num 0x2000 3 = code ∧ t.num 0x2000 4 = objKey b sub ∧ EventCounted s t 0x15 ∧
        t.out.getLast? = some (.response path.num code [])) := by
  have hx : exec (.chanEnable path ch) s = .next (s.writeVia path (chanObj ch.toNat) 1 1 fun s => s.enableChan ch.toNat) :=
    congrArg Host.Outcome.next (if_neg (by omega))
  obtain ⟨len, e⟩ := State.writeVia_accepted hacc fun s => s.enableChan ch.toNat
  rw [hx]
  refine ⟨fun hc => ?_, fun code b sub hc => ?_⟩
  · obtain ⟨h0, hn1, hn6, hw, ho⟩ := State.enableChan_passed h1 hc
    rw [h0] at e
    refine ⟨_, congrArg Host.Outcome.next e, ?_, ?_, ?_, ?_⟩
    · rw [State.reply_num, State.xwNote_num, hn1]
    · rw [State.reply_num, State.xwNote_num, hn6]
    · generalize (s.enableChan ch.toNat).1 = u at hw ⊢
      refine (congrArg Watch.reads (?_ : _ = u.watch (4096 + ch.toNat))).trans hw
      cases path <;> rfl
    · rw [Told, State.answered_rest, ho]
  · rw [State.enableChan_refused h1 hc] at e
    obtain ⟨hb1, hb15⟩ := s.blame_left code b sub ch.isLt
    refine ⟨_, congrArg Host.Outcome.next e, ?_, ?_, ?_, ?_, ?_⟩
    · rw [State.reply_num, State.xwNote_num, hb1]
    · rw [State.reply_num, State.xwNote_num, State.blame_num ⟨by decide, by decide, by decide⟩]
      rfl
    · rw [State.reply_num, State.xwNote_num, State.blame_num ⟨by decide, by decide, by decide⟩]
      rfl
    · rw [EventCounted, State.reply_num, State.xwNote_num]
      exact hb15
    · rw [State.answered_rest]
      exact List.getLast?_concat

theorem execChanDisable_disabled {path : Path} (hch : ch.toNat < 24) (hacc : Accepted s path (chanObj ch.toNat) 1 0) :
    ∃ t, exec (.chanDisable path ch) s = .next t ∧ t.num (chanObj ch.toNat) 1 = 0 ∧ t.watch (4096 + ch.toNat) = .idle ∧ Told s t path 0 := by
  have hx : exec (.chanDisable path ch) s = .next (s.writeDo path (chanObj ch.toNat) 1 0 fun s => s.disableChan ch.toNat) :=
    congrArg Host.Outcome.next (if_neg (by omega))
  obtain ⟨len, e⟩ := State.writeDo_accepted hacc fun s => s.disableChan ch.toNat
  have hn : (s.disableChan ch.toNat).num = (s.setNum (chanObj ch.toNat) 1 0).num := rfl
  have hw : (s.disableChan ch.toNat).watch (4096 + ch.toNat) = .idle := (State.watch_setWatch ..).trans (if_pos rfl)
  have ho : (s.disableChan ch.toNat).out = s.out := rfl
  generalize s.disableChan ch.toNat = u at e hn hw ho
  rw [hx]
  refine ⟨_, congrArg Host.Outcome.next e, ?_, ?_, ?_⟩
  · rw [State.reply_num, State.xwNote_num, hn, State.num_setNum_same]
  · rw [← hw]
    cases path <;> rfl
  · rw [Told, State.answered_rest, ho]

end

section
variable {s : State} {sdie : BitVec 2}

/-- A calibration that ends: its result, the event of a failed one, and the mode that its pipe takes. -/
theorem execCalibrationEnd_done (ok : Bool) (hon : s.num 0x2000 1 = 1) (h4 : s.num (0x7010 + sdie.toNat) 4 = 0) :
    ∃ t, exec (.calibrationEnd sdie ok) s = .next t ∧ t.num (0x7010 + sdie.toNat) 4 = (if ok then 1 else 2) ∧
      (ok = false → EventCounted s t 0x0E) ∧ (s.pipeMode sdie.toNat = 1 → t.pipeMode sdie.toNat = s.pipeNextOf sdie.toNat - 1) := by
  have hd := sdie.isLt
  have hx : exec (.calibrationEnd sdie ok) s = execCalibrationEnd sdie ok s := rfl
  rw [execCalibrationEnd] at hx
  dsimp only at hx
  rw [if_neg (by rw [hon, h4]; decide)] at hx
  generalize sdie.toNat = d at hd hx h4 ⊢
  generalize hv : s.setNum (0x7010 + d) 4 (if ok then 1 else 2) = v at hx
  generalize hu : (if ok = true then v else v.raise (.of 0x0E (dieUnit (sDie d)) (2 * d))) = u at hx
  have hv4 : v.num (0x7010 + d) 4 = if ok then 1 else 2 := by rw [← hv, State.num_setNum_same]
  have hv1 : v.num (0x7010 + d) 1 = s.num (0x7010 + d) 1 := by rw [← hv, State.num_setNum_ne _ _ (by unfold objKey; omega)]
  have hve : v.num 0x9002 0x0E = s.num 0x9002 0x0E := by rw [← hv, State.num_setNum_ne _ _ (by unfold objKey; omega)]
  have hvp : v.pipeNext = s.pipeNext := by rw [← hv]; rfl
  have hk : (Event.of 0x0E (dieUnit (sDie d)) (2 * d)).kind < 256 := by exact (by decide : (0x0E : Nat) < 256)
  have hlow : ∀ sub, sub < 256 → (v.raise (.of 0x0E (dieUnit (sDie d)) (2 * d))).num (0x7010 + d) sub = v.num (0x7010 + d) sub :=
    fun sub hsub => State.raise_num_low ⟨by omega, hsub⟩ v _
  have hcount : ∀ c, u.num (0x7010 + d) c = v.num (0x7010 + d) c ∨ 256 ≤ c := fun c => by
    by_cases hc : c < 256
    · refine .inl ?_
      rw [← hu]
      split
      · rfl
      · exact hlow c hc
    · exact .inr (by omega)
  have hu4 : u.num (0x7010 + d) 4 = if ok then 1 else 2 := ((hcount 4).resolve_right (by decide)).trans hv4
  have hu1 : u.num (0x7010 + d) 1 = s.num (0x7010 + d) 1 := ((hcount 1).resolve_right (by decide)).trans hv1
  have hup : u.pipeNextOf d = s.pipeNextOf d := by
    rw [State.pipeNextOf, State.pipeNextOf, ← hvp, ← hu]
    split
    · rfl
    · rw [(Logged.raise ..).rest]
  have hue : ok = false → EventCounted s u 0x0E := fun hok => by
    rw [EventCounted, ← hu, if_neg (by rw [hok]; decide), ← hve]
    exact State.raise_counted v hk (by exact (by decide : (0x0E : Nat) ≠ 9)) (by exact (by decide : (0x0E : Nat) ≠ 0x0A))
  have hent : ∀ mode o sub, objKey o sub ≠ objKey (0x7010 + d) 1 → (u.enterPipe d mode).num o sub = u.num o sub := fun mode o sub ho => by
    rw [(u.enterPipe_left d mode).1, State.num_setNum_ne _ _ ho]
  refine ⟨_, hx, ?_⟩
  have hmode : u.pipeMode d = s.pipeMode d := hu1
  split
  next hm =>
    refine ⟨(hent _ _ _ (by unfold objKey; omega)).trans hu4, fun hok => ?_, fun _ => by rw [State.enterPipe_mode, hup]⟩
    rw [EventCounted, hent _ _ _ (by unfold objKey; omega)]
    exact hue hok
  next hm =>
    split
    · exact ⟨hu4, hue, fun h => absurd (hmode.trans h) hm⟩
    · exact ⟨hu4, hue, fun h => absurd (hmode.trans h) hm⟩

/-- A command to a pipe: its answer, and what it leaves of the pipe. -/
theorem State.pipe_told {path : Path} {d sub v : Nat} (hacc : Accepted s path (0x7010 + d) sub v) {f : State → State} (hf : (f s).out = s.out) :
    ∃ t, s.writeDo path (0x7010 + d) sub v f = t ∧ Told s t path 0 ∧ t.pipeMode d = (f s).pipeMode d ∧ t.pipeNextOf d = (f s).pipeNextOf d := by
  obtain ⟨len, e⟩ := State.writeDo_accepted hacc f
  generalize f s = u at e hf ⊢
  refine ⟨_, e, by rw [Told, State.answered_rest, hf], ?_, ?_⟩
  · rw [State.pipeMode, State.reply_num, State.xwNote_num]
    rfl
  · rw [State.answered_rest]
    rfl

theorem execPipeRecover_asked {path : Path} (hacc : Accepted s path (0x7010 + sdie.toNat) 2 1) (h3 : s.pipeMode sdie.toNat ≠ 3) :
    let free := s.inPipe (2 * sdie.toNat) = false ∧ s.inPipe (2 * sdie.toNat + 1) = false
    ∃ t, exec (.pipeRecover path sdie) s = .next t ∧ Told s t path 0 ∧ (free → s.pipeMode sdie.toNat ≠ 1 → t.pipeMode sdie.toNat = 2) ∧
      (¬ free ∨ s.pipeMode sdie.toNat = 1 → t.pipeMode sdie.toNat = s.pipeMode sdie.toNat ∧ t.pipeNextOf sdie.toNat = 3) := by
  intro free
  obtain ⟨t, e, htold, hm, hn⟩ := State.pipe_told hacc (f := fun s => s.wantPipe sdie.toNat 2) (s.wantPipe_kept sdie.toNat 2).1
  refine ⟨t, congrArg Host.Outcome.next e, htold, fun hfree h1 => ?_, fun h => ?_⟩
  · rw [hm, State.wantPipe_free 2 hfree.1 hfree.2 h1 h3]
  · rw [hm, hn]
    refine State.wantPipe_waits 2 (h.imp_left fun hbusy => ?_)
    rw [Bool.or_eq_true]
    by_contra hboth
    rw [not_or, Bool.not_eq_true, Bool.not_eq_true] at hboth
    exact hbusy hboth

theorem execPipeResume_asked {path : Path} (hacc : Accepted s path (0x7010 + sdie.toNat) 3 1) (h2 : s.pipeMode sdie.toNat = 2)
    (hfree : s.inPipe (2 * sdie.toNat) = false ∧ s.inPipe (2 * sdie.toNat + 1) = false) :
    ∃ t, exec (.pipeResume path sdie) s = .next t ∧ Told s t path 0 ∧ t.pipeMode sdie.toNat = 0 := by
  have hr : s.resumePipe sdie.toNat = s.wantPipe sdie.toNat 0 := by
    rw [State.resumePipe, State.recovering, h2]
    rfl
  obtain ⟨t, e, htold, hm, -⟩ := State.pipe_told hacc (f := fun s => s.resumePipe sdie.toNat) (by rw [hr]; exact (s.wantPipe_kept sdie.toNat 0).1)
  exact ⟨t, congrArg Host.Outcome.next e, htold, by
    rw [hm, hr, State.wantPipe_free 0 hfree.1 hfree.2 (by rw [h2]; decide) (by rw [h2]; decide)]⟩

end

/-- Settles O41, by what a finished picture, a record, a calibration and the commands to pipes and channels write. -/
theorem channelsAndPipes : Obligations.ChannelsAndPipes := by
  unfold Obligations.ChannelsAndPipes
  intro s path ch sdie c o d free f
  refine ⟨fun j hj => ⟨fun hp => ?_, fun e damaged whole hp => State.finished_left hj hp⟩, fun hd j rest hj => ?_,
    fun r msi rest hr hp hroom hon => execCodecRecord_written hr hp hroom hon, fun ok hon h4 => execCalibrationEnd_done ok hon h4,
    fun hacc h3 => execPipeRecover_asked hacc h3, fun hacc h2 hfree => execPipeResume_asked hacc h2 hfree,
    fun hc hacc h1 => execChanEnable_checked hc hacc h1, fun hc hacc => execChanDisable_disabled hc hacc⟩
  · have hf : f = s.finishPicture c j none := by
      show s.finished c = _
      rw [State.finished, hj]
    rw [hf, State.finishPicture, hp]
  · obtain ⟨t, ht, hjobs, hrecs⟩ := execCodecJobEnd_done hd hj
    exact ⟨t, ht, hjobs.trans (by cases rest <;> rfl), hrecs⟩

end Sys2Proof.Machine
end

section
/-! SUPPORT. What the bytes of a window, a coded picture and its reconstruction leave of the channels. -/

namespace Sys2Proof.Machine

theorem Stored.channels {s t : State} (h : Stored s t) : t.channels = s.channels := by rw [h.rest]

theorem State.raise_channels (s : State) (e : Event) : (s.raise e).channels = s.channels := by rw [(Logged.raise s e).rest]

theorem State.negFail_channels (s : State) (w code : Nat) : (s.negFail w code).channels = s.channels := by
  unfold State.negFail
  rw [State.raise_channels, State.setNum_channels, State.setNum_channels]

theorem State.ringAppend_channels (s : State) (die p w o : Nat) (img : Ram) (b n : Nat) : (s.ringAppend die p w o img b n).channels = s.channels := by
  unfold State.ringAppend
  extract_lets e size pos k s1 s2
  have h1 : Stored s s1 := .meshWrite ..
  have h2 : Stored s1 s2 := .meshWrite ..
  exact (h1.trans h2).channels

theorem State.negSeal_channels (s : State) (w o : Nat) (d : List Byte) : (s.negSeal w o d).channels = s.channels := by
  unfold State.negSeal
  extract_lets e blk n
  split
  · exact s.negFail_channels ..
  · split
    · exact s.negFail_channels ..
    · rfl

theorem State.negBody_channels (s : State) (die p w o : Nat) (img : Ram) (b n : Nat) : (s.negBody die p w o img b n).channels = s.channels := by
  unfold State.negBody
  dsimp only
  refine (State.ringAppend_channels ..).trans ?_
  split
  · rfl
  · split
    · exact s.negFail_channels ..
    · rfl

theorem State.stage_channels (s : State) (die p w o : Nat) (img : Ram) (b n : Nat) : (s.stage die p w o img b n).channels = s.channels := by
  unfold State.stage
  split
  · rfl
  · split
    · have hk : ∀ k, (if k = 0 ∨ s.num (0x5700 + w) 8 = 3 then s else s.negSeal w o (img.fetch b k).bytes).channels = s.channels := fun k => by
        split
        · rfl
        · exact s.negSeal_channels ..
      dsimp only
      split
      · exact hk _
      · exact (State.negBody_channels ..).trans (hk _)
    · split
      · exact (State.ringAppend_channels ..).trans (s.negFail_channels ..)
      · exact s.ringAppend_channels ..

/-- The reconstruction kept: the references of the channel are changed, and nothing else of it. -/
theorem State.keepRecon_channel (s : State) (c w h : Nat) (ra : Bool) (enc : Nat) : ∃ refs, (s.keepRecon c w h ra enc).channel c = { s.channel c with recons := refs } := by
  unfold State.keepRecon
  extract_lets o size n b a
  have hs : Stored s ((s.meshWrite (sDie (chanDie c)) (Ram.empty.writeRaw 0 b) 0 a n).codecMoved (s.num o 2) n) := (Stored.meshWrite ..).trans (.count ..)
  rw [State.channel_modChannel_same, hs.channel]
  exact ⟨_, rfl⟩

theorem Stored.readRecon (s : State) (c : Nat) (phv : Bool) (r : Recon) : Stored s (s.readRecon c phv r).1 := by
  refine Stored.foldl Prod.fst (fun acc q => ?_) _ (s, [], [])
  exact .codecLoad acc.1 _ _ _ _

theorem Stored.searchRefs (s : State) (c : Nat) (phv : Bool) (rs : List Recon) : Stored s (s.searchRefs c phv rs).1 := by
  refine Stored.foldl Prod.fst (fun acc r => ?_) _ (s, [], [])
  exact .readRecon acc.1 c phv r

theorem Stored.readRefs (s : State) (c dec : Nat) : Stored s (s.readRefs c dec).1 := by
  refine Stored.foldl Prod.fst (fun acc r => Stored.foldl Prod.fst (fun acc k => ?_) _ acc) _ (s, [], [])
  exact .loadPlane acc.1 _ _ k _

/-! ### What the objects of a channel say -/

theorem chanObj_unreported {c : Nat} (h : c < 32) {sub : Nat} (hs : sub < 256) : Unreported (chanObj c) sub := by
  have hc : 0x7100 ≤ chanObj c ∧ chanObj c < 0x8100 := by
    unfold chanObj
    split <;> omega
  exact ⟨.inl hc.2, by omega, hs⟩

section
variable {s t : State} (h : Stored s t) {c : Nat} (hc : c < 32)
include h hc

theorem Stored.chanNum {sub : Nat} (hs : sub < 256) : t.num (chanObj c) sub = s.num (chanObj c) sub := h.num _ _ (chanObj_unreported hc hs)

theorem Stored.encSettings : t.encSettings c = s.encSettings c :=
  List.map_congr_left fun k hk => h.chanNum hc (by have := List.mem_range.1 hk; omega)

theorem Stored.chanDepth : t.chanDepth c = s.chanDepth c := by rw [State.chanDepth, State.chanDepth, h.chanNum hc (by decide)]

end

end Sys2Proof.Machine
end

section
/-! SUPPORT. A codec job taken, and an ENCODE job run. -/

namespace Sys2Proof.Machine

theorem State.modChannel_num (s : State) (c : Nat) (f : Channel → Channel) (o sub : Nat) : (s.modChannel c f).num o sub = s.num o sub := rfl

theorem State.setNum_channel (s : State) (o sub v c : Nat) : (s.setNum o sub v).channel c = s.channel c := rfl

theorem State.readEntry_channel (s : State) (w c : Nat) : (s.readEntry w).channel c = s.channel c := by
  unfold State.readEntry
  extract_lets a u
  split
  · rfl
  · rfl

/-- A job is taken from the ring. -/
theorem execCodecJobTake_taken {s : State} {ch : BitVec 5} (entry : List Byte) (hch : ch.toNat < 24) (hon : s.num (chanObj ch.toNat) 1 = 1)
    (hdev : s.num 0x2000 2 = 2) (hrec : (s.channel ch.toNat).records = []) {u : State} {f : Fetched}
    (hl : s.loadBytes (sDie (chanDie ch.toNat)) (s.entryAddr (4096 + ch.toNat)) 128 = (u, f)) (hue : f.ue = [])
    (hseq : leAt f.bytes 0 4 = s.num (chanObj ch.toNat) 6) : ∃ t, exec (.codecJobTake ch entry) s = .next t ∧
      t.num (chanObj ch.toNat) 6 = (s.num (chanObj ch.toNat) 6 + 1) % 2 ^ 32 ∧
      (t.channel ch.toNat).jobs = (s.channel ch.toNat).jobs ++ [jobOf f.bytes (if (s.channel ch.toNat).jobs = [] then s.now else 0)
        (if u.jobOk (s.num (chanObj ch.toNat) 2) ch.toNat f.bytes then none else some 5)] := by
  have hx : exec (.codecJobTake ch entry) s = execCodecJobTake ch entry s := rfl
  have hu : Stored s u := by
    have h := Stored.loadBytes s (sDie (chanDie ch.toNat)) (s.entryAddr (4096 + ch.toNat)) 128
    rw [hl] at h
    exact h
  have h6 := hu.chanNum (c := ch.toNat) ch.isLt (sub := 6) (by decide)
  have hchan := hu.channel ch.toNat
  have hnow : u.now = s.now := by rw [hu.rest]
  rw [execCodecJobTake] at hx
  dsimp only at hx
  rw [if_neg (by rw [hrec, hon, hdev, decide_eq_false (by omega)]; exact Bool.false_ne_true), hl] at hx
  dsimp only at hx
  rw [hue] at hx
  dsimp only at hx
  rw [if_neg (by rw [h6, hseq]; simp), State.modChannel_num, h6, hchan, hnow] at hx
  have hst : (if (!([] : List Nat).isEmpty) = true then some 7 else if (!u.jobOk (s.num (chanObj ch.toNat) 2) ch.toNat f.bytes) = true then some 5 else none) =
      if u.jobOk (s.num (chanObj ch.toNat) 2) ch.toNat f.bytes then none else some 5 := by
    cases u.jobOk (s.num (chanObj ch.toNat) 2) ch.toNat f.bytes <;> rfl
  have hstart : (if (s.channel ch.toNat).jobs.isEmpty = true then s.now else 0) = if (s.channel ch.toNat).jobs = [] then s.now else 0 := by
    simp only [List.isEmpty_iff]
  refine ⟨_, hx, ?_, ?_⟩
  · rw [(State.readEntry_kept ..).1, State.num_setNum_same]
  · rw [State.readEntry_channel, State.setNum_channel, State.channel_modChannel_same, ← hstart, ← hst, hchan]

/-- An ENCODE job may wait, and then is not done. -/
theorem State.encodeJob_waits {s : State} {c : Nat} {j : Job} (hj : s.job c = some j) (hroom : s.ringFree (s.num (chanObj c) 0x15) < j.len) (error : Bool) :
    (s.encodeJob c j error).job c = some { j with waiting := true } ∧ (s.encodeJob c j error).exports = s.exports := by
  rw [State.encodeJob]
  dsimp only
  rw [if_pos hroom]
  exact ⟨State.modJob_job hj _, rfl⟩

/-- An ENCODE job with an error ends with its event. -/
theorem State.encodeJob_fails {s : State} {c : Nat} {j : Job} (hj : s.job c = some j) (hroom : j.len ≤ s.ringFree (s.num (chanObj c) 0x15)) :
    let t := s.encodeJob c j true
    t.job c = some { j with waiting := false, done := true, status := 9 } ∧ EventCounted s t 0x0E ∧ t.exports = s.exports := by
  intro t
  have ht : t = s.encodeJob c j true := rfl
  clear_value t
  rw [State.encodeJob] at ht
  dsimp only at ht
  rw [if_neg (by omega), if_pos rfl] at ht
  have h1 := State.modJob_job hj fun k => { k with waiting := false, done := true }
  have h2 := State.modJob_job h1 fun k => { k with status := 9 }
  have hn : ∀ (s : State) (f : Job → Job), (s.modJob c f).num = s.num ∧ (s.modJob c f).exports = s.exports := fun _ _ => ⟨rfl, rfl⟩
  have hk : ({ Event.of 0x0E (chanUnit c) c with part := some (s.num (chanObj c) 2) } : Event).kind < 256 := by exact (by decide : (0x0E : Nat) < 256)
  generalize hu : (s.modJob c fun k => { k with waiting := false, done := true }) = u at ht h1 h2
  have hun : u.num = s.num ∧ u.exports = s.exports := by rw [← hu]; exact hn ..
  generalize hv : (u.modJob c fun k => { k with status := 9 }) = v at ht h2
  have hvn : v.num = s.num ∧ v.exports = s.exports := by rw [← hv]; exact ⟨(hn ..).1.trans hun.1, (hn ..).2.trans hun.2⟩
  have hr := Stored.raise v hk
  rw [← ht] at hr
  refine ⟨(hr.job c).trans h2, ?_, by rw [hr.rest]; exact hvn.2⟩
  rw [EventCounted, ht, ← hvn.1]
  exact State.raise_counted v hk (by exact (by decide : (0x0E : Nat) ≠ 9)) (by exact (by decide : (0x0E : Nat) ≠ 0x0A))

/-- What storing a coded picture leaves of its channel. -/
theorem State.codedPicture_left {v : State} {c : Nat} {k : Job} (hv : v.job c = some k) {die p w o n ow oh enc : Nat} {img : Ram} {ra : Bool} {F : Channel → Channel} {G : Job → Job}
    {t : State} (ht : t = ((((v.stage die p w o img 0 n).codecMoved p n).modChannel c F).keepRecon c ow oh ra enc).modJob c G) (hF : ∀ x, (F x).jobs = x.jobs) :
    t.job c = some (G k) ∧ (t.channel c).forceRa = (F (v.channel c)).forceRa ∧ (t.channel c).coder = (F (v.channel c)).coder := by
  have h1 : ((v.stage die p w o img 0 n).codecMoved p n).channel c = v.channel c := by
    rw [State.codecMoved, (Stored.count ..).channel, State.channel, v.stage_channels, State.channel]
  obtain ⟨refs, h2⟩ := State.keepRecon_channel (((v.stage die p w o img 0 n).codecMoved p n).modChannel c F) c ow oh ra enc
  rw [State.channel_modChannel_same, h1] at h2
  generalize (((v.stage die p w o img 0 n).codecMoved p n).modChannel c F).keepRecon c ow oh ra enc = u at ht h2
  obtain ⟨rest, hr⟩ := State.jobs_cons hv
  have hjobs : (u.channel c).jobs = k :: rest := by rw [h2]; exact (hF _).trans hr
  have hc := State.modJob_channel hjobs G
  rw [← ht, h2] at hc
  refine ⟨?_, by rw [hc], by rw [hc]⟩
  rw [State.job, hc]
  rfl

theorem Stored.displayHeader {s t : State} (h : Stored s t) {c : Nat} (hc : c < 32) (j : Job) (ty : Nat) : t.displayHeader c j ty = s.displayHeader c j ty := by
  rw [State.displayHeader, State.displayHeader, h.encSettings hc, h.chanNum hc (by decide)]

theorem codedBytes_length (enc : Nat) (head : List Byte) (len attempt : Nat) : (codedBytes enc head len attempt).length ≤ len :=
  List.length_take_le ..

theorem codedFields_status (settings : List Nat) (enc ty attempt : Nat) : (codedFields settings enc ty attempt).1 = 0 ∨ (codedFields settings enc ty attempt).1 = 6 := by
  unfold codedFields
  dsimp only
  split
  · exact .inl rfl
  · exact .inr rfl
  · split
    · exact .inr rfl
    · exact .inr rfl

/-- An ENCODE job codes its picture. -/
theorem State.encodeJob_coded {s : State} {c : Nat} {j : Job} (hj : s.job c = some j) (hc : c < 32) (hroom : j.len ≤ s.ringFree (s.num (chanObj c) 0x15))
    {u : State} {rows : List (List (List Nat))}
    (hread : (s.modJob c fun k => { k with waiting := false, done := true }).loadPicture (s.num (chanObj c) 2) (chanDie c) (layoutPlanes j.pic.layout) j.pic = (u, rows, []))
    (hrefs : ∀ refs, refs <:+ (s.channel c).recons → (u.searchRefs c (s.num (chanObj c) 0x14 == 1) refs).2.2 = []) :
    let t := s.encodeJob c j false
    let size := codedSize j.entry
    let src := (pixelPipe j.pic (leAt j.entry 0x64 1) (leAt j.entry 0x65 1) size.1 size.2 (s.chanDepth c) rows).flatMap (·.at_)
    let plan := Config.encPlan true (s.encSettings c) (s.channel c).coder (j.encFields ((leAt j.entry 5 1).testBit 0 || (s.channel c).forceRa)) src
    let ty := u.pictureType c j plan
    let head := u.displayHeader c j ty
    let tries := codedAttempt plan head.length j.len
    ∃ k, t.job c = some k ∧ k.done = true ∧ k.waiting = false ∧ (k.status = 0 ∨ k.status = 6) ∧ k.bytes ≤ j.len ∧ (t.channel c).forceRa = false ∧
      ((s.num (chanObj c) 0x14 == 1) = true → (t.channel c).coder = Config.encAfter plan tries ∧ k.bytes = (codedBytes plan head j.len tries).length ∧
        (k.status, k.picType, k.qp) = codedFields (s.encSettings c) plan ty tries) := by
  intro t size src plan ty head tries
  have ht : t = s.encodeJob c j false := rfl
  clear_value t
  obtain ⟨rest, hjobs⟩ := State.jobs_cons hj
  have hroomc := State.modJob_channel hjobs fun k => { k with waiting := false, done := true }
  have hu : Stored (s.modJob c fun k => { k with waiting := false, done := true }) u := by
    have h := Stored.loadPicture (s.modJob c fun k => { k with waiting := false, done := true }) (s.num (chanObj c) 2) (chanDie c) (layoutPlanes j.pic.layout) j.pic
    rw [hread] at h
    exact h
  have huc := (hu.channel c).trans hroomc
  have hnum : (s.modJob c fun k => { k with waiting := false, done := true }).num = s.num := rfl
  have hset : u.encSettings c = s.encSettings c := hu.encSettings hc
  have hdepth : u.chanDepth c = s.chanDepth c := hu.chanDepth hc
  have h14 : u.num (chanObj c) 0x14 = s.num (chanObj c) 0x14 := hu.chanNum hc (by decide)
  rw [State.encodeJob] at ht
  dsimp only at ht
  rw [if_neg (by omega), if_neg Bool.false_ne_true, hread] at ht
  dsimp only at ht
  rw [if_neg (by decide), h14, hdepth] at ht
  generalize hsrc : (pixelPipe j.pic (leAt j.entry 0x64 1) (leAt j.entry 0x65 1) (codedSize j.entry).1 (codedSize j.entry).2 (s.chanDepth c) rows).flatMap (·.at_) = src' at ht
  have hplan : (s.num (chanObj c) 0x14 == 1) = true → u.encPlan c j src' = plan := fun h => by
    rw [State.encPlan, h14, h, hset, huc, ← hsrc]
  generalize u.encPlan c j src' = plan' at ht hplan
  generalize hrl : (if u.pictureType c j plan' ≤ 1 then [] else _) = refs at ht
  have hsuf : refs <:+ (s.channel c).recons := by
    rw [← hrl]
    split
    · exact List.nil_suffix
    · rw [huc]
      exact List.drop_suffix ..
  have hsr := Stored.searchRefs u c (s.num (chanObj c) 0x14 == 1) refs
  have hbad := hrefs refs hsuf
  generalize u.searchRefs c (s.num (chanObj c) 0x14 == 1) refs = z at ht hsr hbad
  obtain ⟨v, windows, bad⟩ := z
  dsimp only at ht hsr hbad
  rw [hbad, if_neg (by decide), hsr.displayHeader hc, hsr.encSettings hc, hset] at ht
  generalize henc : (if (s.num (chanObj c) 0x14 == 1) = true then plan' else _) = enc at ht
  have hcf := codedFields_status (s.encSettings c) enc (u.pictureType c j plan') (codedAttempt enc (u.displayHeader c j (u.pictureType c j plan')).length j.len)
  generalize hcfe : codedFields (s.encSettings c) enc (u.pictureType c j plan') (codedAttempt enc (u.displayHeader c j (u.pictureType c j plan')).length j.len) = cf at ht hcf
  obtain ⟨st, ty', qp⟩ := cf
  dsimp only at ht hcf
  have hv : v.job c = some { j with waiting := false, done := true } := by
    rw [State.job, hsr.channel, huc]
    rfl
  obtain ⟨hk, hra, hcoder⟩ := State.codedPicture_left hv ht fun _ => rfl
  refine ⟨_, hk, rfl, rfl, hcf, codedBytes_length .., hra, fun h => ?_⟩
  have he : enc = plan := by rw [← henc, if_pos h, hplan h]
  rw [he, hplan h] at hcoder hcfe
  rw [he, hplan h]
  exact ⟨hcoder, rfl, hcfe.symm⟩

end Sys2Proof.Machine
end

section
/-! SUPPORT. DECODE jobs and ANALYSE. -/

namespace Sys2Proof.Machine

theorem State.unitStatus_ne_seven (s : State) (c dec : Nat) (error : Bool) : s.unitStatus c dec error ≠ 7 := by
  unfold State.unitStatus
  generalize Config.decSize dec = z
  obtain ⟨w, h⟩ := z
  dsimp only
  split
  · decide
  · split
    · decide
    · split <;> decide

/-- A decoder's state kept in its channel, and its job changed. -/
theorem State.decoded_left {v : State} {c : Nat} {k : Job} (hv : v.job c = some k) {bad : List Nat} {d : Nat} {F : Job → Job} {t : State}
    (ht : t = ((v.jobFaults c bad).modChannel c fun x => { x with coder := d }).modJob c F) :
    t.job c = some (F k) ∧ (t.channel c).coder = d ∧ ∀ o sub, Unreported o sub → t.num o sub = v.num o sub := by
  have hf := Stored.jobFaults v c bad
  generalize v.jobFaults c bad = u at ht hf
  have hjob := (hf.job c).trans hv
  obtain ⟨rest, hr⟩ := State.jobs_cons hjob
  have h1 := u.channel_modChannel_same c fun x => { x with coder := d }
  have hn : t.num = u.num := by rw [ht]; rfl
  generalize (u.modChannel c fun x => { x with coder := d }) = w at ht h1
  have hj : (w.channel c).jobs = k :: rest := by rw [h1]; exact hr
  have hc := State.modJob_channel hj F
  rw [← ht, h1] at hc
  refine ⟨?_, by rw [hc], fun o sub h => ?_⟩
  · rw [State.job, hc]
    rfl
  · rw [hn, hf.num o sub h]

/-- What a DECODE job run leaves; its status and its decoder's state when its memory is clean. -/
theorem State.decodeJob_left {s : State} {c : Nat} {j : Job} (hj : s.job c = some j) (error : Bool) {u : State} {f : Fetched}
    (hl : s.codecLoad (s.num (chanObj c) 2) (chanDie c) j.addr j.len = (u, f)) :
    let dec := u.unitHeaders c f.bytes
    let refs := u.readRefs c dec
    let fit := u.unitStatus c dec error
    let t := s.decodeJob c j error
    (∃ k damaged, t.job c = some k ∧ k.entry = j.entry ∧ k.done = true ∧ k.picture = some ((t.channel c).coder, damaged, decide (3 ≤ fit)) ∧
      (f.ue = [] → refs.2.2 = [] ∨ 3 ≤ fit → k.status = fit ∧ damaged = (fit == 1) ∧
        (t.channel c).coder = Config.decPicture dec (if 3 ≤ fit then [] else refs.2.1))) ∧
      ∀ o sub, Unreported o sub → t.num o sub = s.num o sub := by
  intro dec refs fit t
  have ht : t = s.decodeJob c j error := rfl
  clear_value t
  have h0 : Stored s u := by
    have h := Stored.codecLoad s (s.num (chanObj c) 2) (chanDie c) j.addr j.len
    rw [hl] at h
    exact h
  have h1 : Stored u refs.1 := .readRefs ..
  rw [State.decodeJob, hl] at ht
  dsimp only at ht
  change t = (match (if 3 ≤ fit then (u, [], []) else refs) with
    | (v, rs, badRef) => ((v.jobFaults c (f.badAt j.addr ++ badRef)).modChannel c fun x => { x with coder := Config.decPicture dec rs }).modJob c fun k => { k with
      done := true, status := if (f.badAt j.addr ++ badRef).isEmpty then fit else 7, picType := Config.decNumber (Config.decPicture dec rs) 1 % 5
      bytes := Config.decNumber (Config.decPicture dec rs) 2 % (j.len + 1), order := Config.decNumber (Config.decPicture dec rs) 3 % 2 ^ 32
      picture := some (Config.decPicture dec rs, !(f.badAt j.addr ++ badRef).isEmpty || fit == 1, decide (3 ≤ fit)) }) at ht
  have hv : Stored s (if 3 ≤ fit then (u, [], []) else refs).1 := by
    split
    · exact h0
    · exact h0.trans h1
  have hrs : (if 3 ≤ fit then (u, ([] : List (List Byte)), ([] : List Nat)) else refs).2.1 = if 3 ≤ fit then [] else refs.2.1 := by
    split <;> rfl
  have hbad : refs.2.2 = [] ∨ 3 ≤ fit → (if 3 ≤ fit then (u, ([] : List (List Byte)), ([] : List Nat)) else refs).2.2 = [] := fun h => by
    split
    · rfl
    next hn => exact h.resolve_right hn
  generalize (if 3 ≤ fit then (u, ([] : List (List Byte)), ([] : List Nat)) else refs) = z at ht hv hrs hbad
  obtain ⟨v, rs, badRef⟩ := z
  dsimp only at hrs hbad
  obtain ⟨hk, hcoder, hnum⟩ := State.decoded_left ((hv.job c).trans hj) ht
  refine ⟨⟨_, _, hk, rfl, rfl, by rw [hcoder], fun hue hclean => ?_⟩, fun o sub h => (hnum o sub h).trans (hv.num o sub h)⟩
  have hb : f.badAt j.addr ++ badRef = [] := by
    rw [hbad hclean, Fetched.badAt, hue]
    rfl
  rw [hb, hcoder, ← hrs]
  exact ⟨rfl, rfl, rfl⟩

theorem Job.pic_congr {j k : Job} (h : k.entry = j.entry) : k.pic = j.pic := by rw [Job.pic, Job.pic, h]

/-- A DECODE job at its cap: what it leaves when it had not yet run. -/
theorem execDecodeCap_capped {s : State} {ch : BitVec 5} {j : Job} (hj : s.job ch.toNat = some j) (hch : 8 ≤ ch.toNat) (hop : j.op = 2) (hd : j.done = false)
    {u : State} {f : Fetched} (hl : s.codecLoad (s.num (chanObj ch.toNat) 2) (chanDie ch.toNat) j.addr j.len = (u, f)) :
    let c := ch.toNat
    let dec := u.unitHeaders c f.bytes
    ∃ t k, exec (.decodeCap ch) s = .next t ∧ t.job c = some k ∧ k.done = true ∧ k.picture = none ∧
      k.concealed ≤ j.pic.blocks (blockSide (s.num (chanObj c) 0x0C) (t.channel c).coder) ∧
      (f.ue = [] → (u.readRefs c dec).2.2 = [] ∨ 3 ≤ u.unitStatus c dec false → s.num 0x7000 4 ≠ 0 → k.status = 2) ∧
      (t.channel c).refs.getLast? = some ⟨j.seq, leAt j.entry 8 8, slice j.entry 0x10 48⟩ := by
  intro c dec
  have hx : exec (.decodeCap ch) s = execDecodeCap ch s := rfl
  obtain ⟨⟨k, damaged, hk, hentry, hdone, hpic, hclean⟩, hnum⟩ := State.decodeJob_left hj false hl
  have hseven := u.unitStatus_ne_seven c dec false
  rw [execDecodeCap] at hx
  dsimp only at hx
  rw [hj] at hx
  dsimp only at hx
  rw [if_neg (by rw [hop, hd]; simp; omega), if_neg (by rw [hd]; decide)] at hx
  generalize s.decodeJob ch.toNat j false = v at hx hk hpic hclean hnum
  rw [hk] at hx
  dsimp only at hx
  generalize hr : (v.free 51).2 % _ = m at hx
  have hfree : (v.free 51).1.job ch.toNat = some k := hk
  have hfnum : (v.free 51).1.num = v.num := rfl
  have hfcoder : ((v.free 51).1.channel ch.toNat).coder = (v.channel ch.toNat).coder := rfl
  generalize (v.free 51).1 = w at hx hfree hfnum hfcoder
  obtain ⟨k', hk', hpic', hdone', hconc, hstatus, href, hcoder⟩ := State.finishPicture_left hfree hpic (some m)
  have ho : w.num (chanObj c) 0x0C = s.num (chanObj c) 0x0C := (congrFun (congrFun hfnum _) _).trans (hnum _ _ (chanObj_unreported ch.isLt (by decide)))
  have h7000 : w.num 0x7000 4 = s.num 0x7000 4 := (congrFun (congrFun hfnum _) _).trans (hnum _ _ ⟨.inl (by decide), by decide, by decide⟩)
  refine ⟨_, k', hx, hk', hdone'.trans hdone, hpic', ?_, fun hue hcl h0 => ?_, ?_⟩
  · rw [hconc, hcoder, hfcoder, ← ho, ← Job.pic_congr hentry]
    exact (List.length_filter_le ..).trans (List.length_range ..).le
  · obtain ⟨hst, -, -⟩ := hclean hue hcl
    exact hstatus (by rw [h7000]; exact h0) (by rw [hst]; exact hseven)
  · rw [href, Job.seq, Job.seq, hentry]

section
variable {s : State} {ch : BitVec 5} {j : Job}

/-- ANALYSE in recovery keeps the picture for the next. -/
theorem execAnalyse_kept (hj : s.job ch.toNat = some j) (hch : ch.toNat < 8) (hop : j.op = 3) (hd : j.done = false) (hnext : s.pipeNextOf (chanDie ch.toNat) = 0)
    (hmode : s.pipeMode (chanDie ch.toNat) = 2) {u : State} {planes : List (List (List Nat))}
    (hl : (s.modJob ch.toNat fun k => { k with done := true }).loadPicture (s.num (chanObj ch.toNat) 2) (chanDie ch.toNat) 1 j.pic = (u, planes, [])) :
    ∃ t k, exec (.analyse ch) s = .next t ∧ t.job ch.toNat = some k ∧ k.done = true ∧ k.status = j.status ∧
      (t.channel ch.toNat).prev = some (j.pic.width, (planes.headD []).flatten) := by
  have hx : exec (.analyse ch) s = execAnalyse ch s := rfl
  have hu := Stored.loadPicture (s.modJob ch.toNat fun k => { k with done := true }) (s.num (chanObj ch.toNat) 2) (chanDie ch.toNat) 1 j.pic
  have huj := State.modJob_job hj fun k => { k with done := true }
  have hnum : ∀ o sub, (s.modJob ch.toNat fun k => { k with done := true }).num o sub = s.num o sub := fun _ _ => rfl
  rw [execAnalyse] at hx
  dsimp only at hx
  rw [hj] at hx
  dsimp only at hx
  rw [if_neg (by rw [hop, hd, hmode, hnext]; simp; omega), if_neg (by rw [hmode]; decide), hnum, hl] at hx
  dsimp only at hx
  rw [if_neg (by decide)] at hx
  rw [hl] at hu
  dsimp only at hu
  replace huj := (hu.job ch.toNat).trans huj
  generalize hz : u.codecStore _ _ _ _ _ = z at hx
  have hv : Stored u z.1 := hz ▸ .codecStore ..
  obtain ⟨v, cut⟩ := z
  dsimp only at hx hv
  have hvj := (hv.job ch.toNat).trans huj
  have h1 := v.channel_modChannel_same ch.toNat fun x => { x with prev := some (j.pic.width, (planes.headD []).flatten) }
  obtain ⟨rest, hr⟩ := State.jobs_cons hvj
  generalize (v.modChannel ch.toNat fun x => { x with prev := some (j.pic.width, (planes.headD []).flatten) }) = w at hx h1
  have hjobs : (w.channel ch.toNat).jobs = { j with done := true } :: rest := by rw [h1]; exact hr
  have hc := State.modJob_channel hjobs fun k => { k with clipped := cut }
  refine ⟨_, { j with done := true, clipped := cut }, hx, ?_, rfl, rfl, ?_⟩
  · rw [State.job, hc]
    rfl
  · rw [hc, h1]

/-- ANALYSE in scale mode ends with status 8. -/
theorem execAnalyse_refused (hj : s.job ch.toNat = some j) (hch : ch.toNat < 8) (hop : j.op = 3) (hd : j.done = false) (hnext : s.pipeNextOf (chanDie ch.toNat) = 0)
    (hmode : s.pipeMode (chanDie ch.toNat) = 0) :
    ∃ t k, exec (.analyse ch) s = .next t ∧ t.job ch.toNat = some k ∧ k.done = true ∧ k.status = 8 ∧ t.dram = s.dram := by
  have hx : exec (.analyse ch) s = execAnalyse ch s := rfl
  rw [execAnalyse] at hx
  dsimp only at hx
  rw [hj] at hx
  dsimp only at hx
  rw [if_neg (by rw [hop, hd, hmode, hnext]; simp; omega), if_pos (by rw [hmode]; decide)] at hx
  exact ⟨_, _, hx, State.modJob_job hj _, rfl, rfl, rfl⟩

end

end Sys2Proof.Machine
end

section
/-! SUPPORT. Codec jobs settled. -/

namespace Sys2Proof.Machine

section
variable {s : State} {ch : BitVec 5} {j : Job} (hj : s.job ch.toNat = some j)
include hj

theorem execEncode_runs (hop : j.op = 1) (hd : j.done = false) (hm : s.mayEncode ch.toNat = true) (error : Bool) :
    exec (.encode ch error) s = .next (s.encodeJob ch.toNat j error) := by
  have hx : exec (.encode ch error) s = execEncode ch error s := rfl
  rw [hx, execEncode]
  dsimp only
  rw [hj]
  exact congrArg Host.Outcome.next (if_pos ⟨hop, by rw [hd]; rfl, hm⟩)

theorem execEncodeRingSpace_runs (hop : j.op = 1) (hw : j.waiting = true) (hm : s.mayEncode ch.toNat = true) :
    exec (.encodeRingSpace ch) s = .next (s.encodeJob ch.toNat j false) := by
  have hx : exec (.encodeRingSpace ch) s = execEncodeRingSpace ch s := rfl
  rw [hx, execEncodeRingSpace]
  dsimp only
  rw [hj]
  exact congrArg Host.Outcome.next (if_pos ⟨hop, hw, hm⟩)

theorem execCodecDecode_runs (hch : 8 ≤ ch.toNat) (hop : j.op = 2) (hd : j.done = false) (error : Bool) :
    exec (.codecDecode ch error) s = .next (s.decodeJob ch.toNat j error) := by
  have hx : exec (.codecDecode ch error) s = execCodecDecode ch error s := rfl
  rw [hx, execCodecDecode]
  dsimp only
  rw [hj]
  exact congrArg Host.Outcome.next (if_pos ⟨hop, by rw [hd]; rfl, hch⟩)

end

/-- A triple whose last part is known. -/
theorem eq_of_third {α β γ : Type} {x : α × β × γ} {b : γ} (h : x.2.2 = b) : x = (x.1, x.2.1, b) := by rw [← h]

/-- Settles O40, by what a job taken, coded, decoded or analysed leaves of its channel. -/
theorem codecJobsRun : Obligations.CodecJobsRun := by
  unfold Obligations.CodecJobsRun
  intro s ch j c o d room pic read phv ra size src plan ty head tries unit dec refs clean seen coded
  have hpic : ∀ (f : Job → Job) n, pic (s.modJob c f) n = (s.modJob c f).loadPicture (s.num o 2) d n j.pic := fun f n => by
    show (s.modJob c f).loadPicture ((s.modJob c f).num o 2) d n j.pic = _
    rw [State.modJob, State.modChannel_num]
  have hl : s.codecLoad (s.num o 2) d j.addr j.len = (unit.1, unit.2) := Prod.mk.eta.symm
  clear_value unit
  refine ⟨fun entry hc hon hdev hrec => ?_, fun hj hop hm => ⟨fun hd hroom error => ?_,
    fun hroom => ⟨fun hd => ?_, fun hread hrefs => ?_⟩⟩, fun hj hc hop hd => ⟨fun error hclean => ?_, ?_⟩, fun hj hc hop hd hnext => ⟨fun hmode hclean => ?_, fun hmode =>
      execAnalyse_refused hj hc hop hd hnext hmode⟩⟩
  · intro l hue hseq
    exact execCodecJobTake_taken entry hc hon hdev hrec (Prod.mk.eta (p := l)).symm hue hseq
  · obtain ⟨hk, he⟩ := State.encodeJob_waits hj hroom error
    exact ⟨_, _, execEncode_runs hj hop hd hm error, hk, rfl, hd, he⟩
  · obtain ⟨hk, hev, he⟩ := State.encodeJob_fails hj hroom
    exact ⟨_, _, execEncode_runs hj hop hd hm true, hk, rfl, rfl, hev, he⟩
  · obtain ⟨k, h⟩ := State.encodeJob_coded hj ch.isLt hroom ((hpic ..).symm.trans (eq_of_third hread)) hrefs
    exact ⟨fun hd => ⟨_, k, execEncode_runs hj hop hd hm false, h⟩, fun hw => ⟨_, k, execEncodeRingSpace_runs hj hop hw hm, h⟩⟩
  · obtain ⟨⟨k, damaged, hk, -, hdone, hpic, hcl⟩, -⟩ := State.decodeJob_left hj error hl
    obtain ⟨hst, hdam, hcoder⟩ := hcl hclean.1 hclean.2
    refine ⟨_, k, execCodecDecode_runs hj hc hop hd error, hk, hdone, hst, hcoder, ?_⟩
    rw [hpic, hst, hdam]
  · obtain ⟨t, k, ht, hk, hdone, hpic, hconc, hst, href⟩ := execDecodeCap_capped hj hc hop hd hl
    exact ⟨t, k, ht, hk, hdone, hpic, hconc, fun hclean h0 => hst hclean.1 hclean.2 h0, href⟩
  · exact execAnalyse_kept hj hc hop hd hnext hmode ((hpic ..).symm.trans (eq_of_third hclean))

end Sys2Proof.Machine
end
